-- ==== Sys2Proof/Word.lean ====
section
/-!
DEFINITION. The word types of the Nimram N3 and reading a bit field of a number (00_scope.md R1, R7).
-/
namespace Sys2Proof

/-- The 64-bit VALUE of a token, a frame slot or a register (R14, R31). -/
abbrev Word := BitVec 64

/-- The smallest addressable unit of memory (R1). -/
abbrev Byte := BitVec 8

/-- A placed record of the node store (R37, R84). -/
abbrev Rec96 := BitVec 96

/-- The field of `len` bits of `x` that starts at bit `lo` (R1). -/
def fld (x lo len : Nat) : Nat := x / 2 ^ lo % 2 ^ len

/-- Whether bit `i` of `x` is 1. -/
def tbit (x i : Nat) : Bool := x / 2 ^ i % 2 == 1

end Sys2Proof
end

