-- ==== Sys2Proof/Syntax.lean ====
section
/-!
DEFINITION. The syntax: one constructor per row of spec/opcode_table.json. The 200 node instructions carry the fields
of their record form (03_records_and_opcodes.md R84, R85, R100); a device event that is an input of the outside
world carries what the outside world supplies, and every other device event takes its place (which router, which
element, which region) from the state, where the scheduler has written it.
-/
namespace Sys2Proof

/-- The record header without OP (R84). -/
structure Hdr where
  ty : BitVec 4
  tg : BitVec 4
  litp : Bool
  ndest : BitVec 2
  arity3 : Bool
  opf : BitVec 4
  deriving DecidableEq, Repr, Inhabited

/-- Form D2 (R85). -/
structure D2 extends Hdr where
  slot : BitVec 8
  lit : BitVec 8
  destA : BitVec 28
  destB : BitVec 28
  deriving DecidableEq, Repr, Inhabited

/-- Form D1 (R85). -/
structure D1 extends Hdr where
  slot : BitVec 8
  lit : BitVec 36
  destA : BitVec 28
  deriving DecidableEq, Repr, Inhabited

/-- Form C (R85). -/
structure FC extends Hdr where
  lit : BitVec 44
  destA : BitVec 28
  deriving DecidableEq, Repr, Inhabited

/-- Form T (R85, R95). -/
structure FT extends Hdr where
  slot : BitVec 8
  tp : BitVec 8
  destA : BitVec 28
  destB : BitVec 28
  deriving DecidableEq, Repr, Inhabited

/-- Form M (R85, R96). -/
structure FM extends Hdr where
  slot : BitVec 8
  pred : BitVec 8
  own : BitVec 8
  succ : BitVec 8
  off : BitVec 12
  destA : BitVec 28
  deriving DecidableEq, Repr, Inhabited

/-- Form S of static mode (R100). -/
structure FS extends Hdr where
  spos : BitVec 6
  sin : BitVec 4
  sout : BitVec 4
  acc : BitVec 3
  sub : BitVec 5
  scnt : BitVec 16
  rsv : BitVec 2
  slit : BitVec 32
  deriving DecidableEq, Repr, Inhabited

/-- Who sent a host request: the HID, the tag to echo, and the die that answers (R415, R416). -/
structure HostCtx where
  hid : Nat
  tag : BitVec 32
  die : Nat
  deriving DecidableEq, Repr, Inhabited

/-- The rows of spec/opcode_table.json: the node instructions, the inputs of the outside world, then the
other device events. -/
inductive Instr where
  /-- R128: Sends its operand to DESTA. -/
  | id (r : D1)
  /-- R128: Sends its expanded literal on any trigger. -/
  | const (r : FC)
  /-- R128: Consumes its token. -/
  | sink (r : D1)
  /-- R130: Sends the value to DESTB when the predicate is true and to DESTA otherwise. -/
  | steer (r : D2)
  /-- R131: Sends each arrival on port 0 or 1 as it comes. -/
  | merge (r : D2)
  /-- R132: Reorders arrivals into ascending SEQ through a reorder context. -/
  | mergeo (r : D2)
  /-- R130: Passes the value only when the control is nonzero. -/
  | gate (r : D2)
  /-- R130: Sends one of two values chosen by a predicate. -/
  | pick (r : D2)
  /-- R135: Starts sending n copies of a value with SEQ and EOD stamped. -/
  | rpt (r : D2)
  /-- R133: Stamps the node's counter as SEQ and advances it. -/
  | seq (r : D2)
  /-- R134: Sends the value and a flag telling whether EOD reaches the level. -/
  | eodt (r : D2)
  /-- R134: Sends the value with EOD set to the level. -/
  | eods (r : D2)
  /-- R129: Packs the low halves of two values into one. -/
  | pack2 (r : D2)
  /-- R129: Splits a value into its low and high halves. -/
  | unpk2 (r : D2)
  /-- R128: Sends the value to one or two destinations. -/
  | fanout (r : D2)
  /-- R141: Allocates a frame and sends the value into it. -/
  | falloc (r : D1)
  /-- R143: Releases a named frame and sends its FX. -/
  | ffree (r : D1)
  /-- R149: Finds or creates the iteration successor and sends the value into it. -/
  | iter (r : D2)
  /-- R151: Sends the value into the parent frame without retiring. -/
  | leave (r : D2)
  /-- R141: Allocates a callee frame with a continuation and sends the argument. -/
  | call (r : D2)
  /-- R142: Sends the value to the slot-0 continuation and releases the frame. -/
  | ret (r : D1)
  /-- R144: Sends the value of a frame slot. -/
  | ldfx (r : D1)
  /-- R144: Writes a frame slot and sends the value. -/
  | stfx (r : D1)
  /-- R148: Waits for an admitted iteration frame and sends the value into iteration 0. -/
  | loopin (r : D2)
  /-- R150: Sends the value to the parent and retires the iteration frame. -/
  | loopout (r : D2)
  /-- R153: Creates a task frame with half the local weight and sends the value into it. -/
  | spawn (r : D1)
  /-- R154: Ends the task, releasing its frame and returning its weight. -/
  | exitw (r : D1)
  /-- R154: Ensures the local weight is at least 2 and sends the value. -/
  | wchk (r : D1)
  /-- R145: Sends the value with FX, PATH and RT from a tag word. -/
  | settag (r : D2)
  /-- R145: Sends its operand's tag word. -/
  | gettag (r : D1)
  /-- R146: Sends a selected information word about the frame. -/
  | fxinfo (r : D1)
  /-- R161: Lane-wise integer addition, wrapping or saturating. -/
  | add (r : D2)
  /-- R161: Lane-wise integer subtraction. -/
  | sub (r : D2)
  /-- R161: Low half of the lane-wise product. -/
  | mul (r : D2)
  /-- R161: High half of the lane-wise product. -/
  | mulh (r : D2)
  /-- R162: Lane-wise truncating quotient, with DIVZ or ZDIV on a zero divisor. -/
  | div (r : D2)
  /-- R162: Lane-wise truncating remainder. -/
  | rem (r : D2)
  /-- R161: Lane-wise integer minimum. -/
  | min (r : D2)
  /-- R161: Lane-wise integer maximum. -/
  | max (r : D2)
  /-- R163: Lane-wise absolute value. -/
  | abs (r : D2)
  /-- R163: Lane-wise negation. -/
  | neg (r : D2)
  /-- R161: Lane-wise saturating addition. -/
  | addsat (r : D2)
  /-- R161: Lane-wise saturating subtraction. -/
  | subsat (r : D2)
  /-- R161: Lane-wise rounded mean. -/
  | avg (r : D2)
  /-- R164: Lane mask of an integer comparison. -/
  | cmp (r : D2)
  /-- R165: Bounds each lane between lo and hi. -/
  | clamp (r : D2)
  /-- R166: Doubles the lane width into two results. -/
  | widen (r : D2)
  /-- R168: Bitwise AND. -/
  | and (r : D2)
  /-- R168: Bitwise OR. -/
  | or (r : D2)
  /-- R168: Bitwise XOR. -/
  | xor (r : D2)
  /-- R168: a AND NOT b. -/
  | andn (r : D2)
  /-- R168: Bitwise NOT. -/
  | not (r : D2)
  /-- R169: Lane-wise shift left. -/
  | shl (r : D2)
  /-- R169: Lane-wise logical shift right. -/
  | shr (r : D2)
  /-- R169: Lane-wise arithmetic shift right. -/
  | sra (r : D2)
  /-- R169: Lane-wise rotate left. -/
  | rotl (r : D2)
  /-- R171: Counts leading zeros per lane. -/
  | clz (r : D2)
  /-- R171: Counts trailing zeros per lane. -/
  | ctz (r : D2)
  /-- R171: Counts one bits per lane. -/
  | popc (r : D2)
  /-- R170: Extracts a bit field per lane. -/
  | bext (r : D2)
  /-- R170: Inserts a bit field per lane. -/
  | bins (r : D2)
  /-- R172: Carry-less 64 × 64 product. -/
  | clmul (r : D2)
  /-- R173: Prefix XOR with carry-in and carry-out. -/
  | pxor (r : D2)
  /-- R175: Lane-wise float addition, rounded once. -/
  | fadd (r : D2)
  /-- R175: Lane-wise float subtraction. -/
  | fsub (r : D2)
  /-- R175: Lane-wise float multiplication. -/
  | fmul (r : D2)
  /-- R175: Lane-wise fused multiply-add. -/
  | fma (r : D2)
  /-- R176: Lane-wise float minimum, preferring numbers to NaN. -/
  | fmin (r : D2)
  /-- R176: Lane-wise float maximum. -/
  | fmax (r : D2)
  /-- R177: Clears each lane's sign bit. -/
  | fabs (r : D2)
  /-- R177: Inverts each lane's sign bit. -/
  | fneg (r : D2)
  /-- R179: Lane mask of a float comparison. -/
  | fcmp (r : D2)
  /-- R175: Lane-wise float division. -/
  | fdiv (r : D2)
  /-- R175: Lane-wise square root. -/
  | fsqrt (r : D2)
  /-- R175: Lane-wise reciprocal. -/
  | frcp (r : D2)
  /-- R175: Lane-wise reciprocal square root. -/
  | frsqrt (r : D2)
  /-- R180: Rounds each lane to an integral value. -/
  | frnd (r : D2)
  /-- R178: Writes a class code per lane. -/
  | fclass (r : D2)
  /-- R177: Copies b's sign onto a. -/
  | fcsgn (r : D2)
  /-- R182: Converts each lane to the destination type. -/
  | cvt (r : D2)
  /-- R182: Converts float lanes to integer. -/
  | cvtfi (r : D2)
  /-- R182: Converts integer lanes to float. -/
  | cvtif (r : D2)
  /-- R183: Converts with stochastic rounding under a data seed. -/
  | cvtsr (r : D2)
  /-- R185: Swaps lane pairs and negates masked lanes. -/
  | vswap2 (r : D2)
  /-- R186: Permutes lanes by control bytes. -/
  | vperm (r : D2)
  /-- R187: Broadcasts one lane to every lane. -/
  | vbcast (r : D2)
  /-- R187: Replaces one lane. -/
  | vins (r : D2)
  /-- R187: Extracts one lane as a 64-bit value. -/
  | vext (r : D2)
  /-- R188: Converts and packs two values into half-width lanes. -/
  | vpack (r : D2)
  /-- R189: Unpacks lanes into a double-width type. -/
  | vunpk (r : D2)
  /-- R190: Sums the lanes. -/
  | vsum (r : D2)
  /-- R186: Keeps lanes selected by a bit mask. -/
  | vmask (r : D2)
  /-- R192: Selects lanes from a or b by a selector. -/
  | vsel (r : D2)
  /-- R193: Compares each byte with a literal into a bit mask. -/
  | vbcmp (r : D2)
  /-- R191: Dot product of the lanes. -/
  | vdot (r : D2)
  /-- R195: Correctly rounded sine. -/
  | fsin (r : D2)
  /-- R195: Correctly rounded cosine. -/
  | fcos (r : D2)
  /-- R197: Sine and cosine in two results. -/
  | fsincos (r : D2)
  /-- R195: Correctly rounded 2^a. -/
  | fexp2 (r : D2)
  /-- R195: Correctly rounded log2 a. -/
  | flog2 (r : D2)
  /-- R195: Correctly rounded e^a. -/
  | fexp (r : D2)
  /-- R195: Correctly rounded tanh a. -/
  | ftanh (r : D2)
  /-- R195: Correctly rounded logistic function. -/
  | fsigm (r : D2)
  /-- R200: Evaluates the 64 lookup tables of a configuration. -/
  | lut6 (r : D2)
  /-- R200: Evaluates the lookup tables and steps STATE. -/
  | lutsm (r : D2)
  /-- R201: Loads a LUT configuration from a buffer, on one element or region-wide. -/
  | lutld (r : D2)
  /-- R203: Sends the 64-bit hash of a seed and a value. -/
  | hash64 (r : D2)
  /-- R214: Enters a tile matrix multiply-accumulate into the macro queue. -/
  | tmma (r : FT)
  /-- R215: Adds a tile into an accumulator or drains the accumulator into a tile. -/
  | tacc (r : FT)
  /-- R217: Loads a tile window from memory. -/
  | tld (r : FT)
  /-- R217: Stores a tile window to memory. -/
  | tst (r : FT)
  /-- R221: Elementwise tile addition. -/
  | tadd (r : FT)
  /-- R221: Elementwise tile multiplication. -/
  | tmul (r : FT)
  /-- R221: Elementwise tile maximum. -/
  | tmax (r : FT)
  /-- R221: Multiplies a tile by a scalar. -/
  | tscale (r : FT)
  /-- R221: Applies an exponential-family function to a tile. -/
  | texp (r : FT)
  /-- R223: Reduces a tile window to one scalar. -/
  | tred (r : FT)
  /-- R222: Transposes a tile. -/
  | ttrans (r : FT)
  /-- R221: Converts a tile to another data type. -/
  | tcvt (r : FT)
  /-- R222: Fills a tile with a value. -/
  | tfill (r : FT)
  /-- R222: Compares tile bytes into a b1 mask tile. -/
  | tcmpb (r : FT)
  /-- R221: Adds a row or column bias to a tile. -/
  | tbias (r : FT)
  /-- R216: Zeroes an accumulator and its SEQ. -/
  | tzero (r : FT)
  /-- R220: Gathers indexed rows from memory into a tile. -/
  | tgath (r : FT)
  /-- R220: Scatters tile rows to indexed memory rows. -/
  | tscat (r : FT)
  /-- R218: Copies one tile window to another. -/
  | tcopy (r : FT)
  /-- R219: Sends a handle to a sub-window. -/
  | tslice (r : FT)
  /-- R226: Adds one reference to a buffer. -/
  | href (r : D2)
  /-- R226: Drops one reference, freeing the buffer at 0. -/
  | hdrop (r : D2)
  /-- R225: Allocates a pool buffer in an MT and sends a handle. -/
  | halloc (r : D2)
  /-- R228: Sends an information word about a handle's buffer. -/
  | hinfo (r : D2)
  /-- R229: Reads one tile element. -/
  | tget (r : D2)
  /-- R229: Writes one tile element, or turns handle bits into a handle. -/
  | tset (r : D2)
  /-- R227: Sets a buffer's F bit to 1. -/
  | tfull (r : D2)
  /-- R227: Sets a buffer's F bit to 0. -/
  | tempty (r : D2)
  /-- R234: Wave-ordered load. -/
  | ld (r : FM)
  /-- R234: Wave-ordered store, GA or EF. -/
  | st (r : FM)
  /-- R234: Load outside wave order. -/
  | ldn (r : FM)
  /-- R234: Store outside wave order. -/
  | stn (r : FM)
  /-- R238: I-structure load, deferred while the word is empty. -/
  | ild (r : FM)
  /-- R238: I-structure store, answering the deferred readers. -/
  | ist (r : FM)
  /-- R238: Returns an I-structure word to empty. -/
  | iclr (r : FM)
  /-- R240: Performs an atomic line region of up to eight operations at the home. -/
  | alr (r : FM)
  /-- R237: Translates an address and sends a translation word. -/
  | pref (r : FM)
  /-- R241: Reads a sync word's state. -/
  | ldsw (r : FM)
  /-- R241: Arms a sync word with a target and a waiter. -/
  | swset (r : FM)
  /-- R233: Sends its value once every earlier chain request has completed. -/
  | wfence (r : FM)
  /-- R241: Adds a byte count to a sync word. -/
  | swadd (r : FM)
  /-- R244: Releases the integer sum of a combine. -/
  | cmbadd (r : D2)
  /-- R244: Releases the bitwise AND fold. -/
  | cmband (r : D2)
  /-- R244: Releases the bitwise OR fold. -/
  | cmbor (r : D2)
  /-- R244: Releases the bitwise XOR fold. -/
  | cmbxor (r : D2)
  /-- R244: Releases the lane-wise integer minimum. -/
  | cmbmin (r : D2)
  /-- R244: Releases the lane-wise integer maximum. -/
  | cmbmax (r : D2)
  /-- R81: Releases the exact float sum, rounded once. -/
  | cmbfaddx (r : D2)
  /-- R244: Releases the lane-wise float minimum. -/
  | cmbfmin (r : D2)
  /-- R244: Releases the lane-wise float maximum. -/
  | cmbfmax (r : D2)
  /-- R244: Releases the count of nonzero arrivals. -/
  | cmbcnt (r : D2)
  /-- R83: Releases the relaxed float sum. -/
  | cmbfadd (r : D2)
  /-- R245: Releases N once every tile accumulation has completed. -/
  | cmbtacc (r : D2)
  /-- R247: Appends a published entry to a queue. -/
  | qpush (r : D2)
  /-- R247: Pops the next published entry, waiting while none exists. -/
  | qpop (r : D2)
  /-- R247: Reserves a queue entry. -/
  | qresv (r : D2)
  /-- R247: Publishes a reserved entry and advances PUB. -/
  | qpub (r : D2)
  /-- R255: Steals an eligible entry from a straggler's queue, en passant. -/
  | qsteal (r : D2)
  /-- R249: Arms the queue's copy template. -/
  | qarm (r : D2)
  /-- R248: Sends a queue status word. -/
  | qstat (r : D2)
  /-- R250: Writes an address-generator register. -/
  | agcfg (r : D2)
  /-- R251: Starts an address-generator chain. -/
  | agrun (r : D2)
  /-- R252: Initialises a barrier cell and its straggler record. -/
  | bari (r : D2)
  /-- R253: Records a barrier arrival and waits for the close. -/
  | barv (r : D2)
  /-- R254: Reads barrier or straggler-record information. -/
  | barlog (r : D2)
  /-- R256: Binds a stream-to-token converter. -/
  | stkbind (r : D2)
  /-- R256: Binds a token-to-stream converter. -/
  | ktsbind (r : D2)
  /-- R257: Writes or clears multicast group slots. -/
  | mcgset (r : D2)
  /-- R258: Sends a value to another package's ingress. -/
  | xsend (r : D2)
  /-- R261: Raises TRAP at its own node. -/
  | trap (r : D1)
  /-- R262: Completes a faulted firing with a value and unparks its frame. -/
  | fret (r : D2)
  /-- R263: Releases a faulting frame and resolves its record. -/
  | fkill (r : D1)
  /-- R265: Marks a frame parked on every CT of the region. -/
  | park (r : D1)
  /-- R265: Unparks a frame, or with REC = 1 re-issues a faulted firing. -/
  | unpark (r : D1)
  /-- R267: Starts a marker round of the load. -/
  | mark (r : D1)
  /-- R268: Sends the die's timebase count. -/
  | time (r : D1)
  /-- R269: Reads a progress, status or LUT register. -/
  | pgrd (r : D2)
  /-- R269: Writes a progress, status or LUT register. -/
  | pgwr (r : D2)
  /-- R270: Reads, or reads and clears, a node's stall counters. -/
  | stcnt (r : D2)
  /-- R271: Calls an Igtex service and sends its reply. -/
  | ecall (r : D1)
  /-- R272: Loads a configuration block into a region's shadow, or reads the active configuration back. -/
  | cfgld (r : D1)
  /-- R273: Commits or aborts a region's shadow configuration. -/
  | cfgcmt (r : D1)
  /-- R274: Closes, opens, drains or reports a load's sources. -/
  | gsrc (r : D2)
  /-- R275: Waits for the load to be quiescent and sends its waiting count. -/
  | quiesce (r : D1)
  /-- R276: Ends the load, which is recorded as failed. -/
  | halt (r : D1)
  /-- R281: Performs systolic multiply-accumulate beats. -/
  | sxmac (r : FS)
  /-- R282: Passes beats from SIN to SOUT. -/
  | sxpass (r : FS)
  /-- R282: Accumulates beats into accumulator rows. -/
  | sxacc (r : FS)
  /-- R282: Converts and sends FP32 beats. -/
  | sxout (r : FS)
  /-- R280: Completes a weight load once SCNT tokens have arrived. -/
  | sxwld (r : FS)
  /-- R282: Moves beats between a link and accumulator rows. -/
  | sxmov (r : FS)
  /-- R283: Loops the static ring back to a target position. -/
  | sxloop (r : FS)
  /-- R283: Waits SCNT cycles. -/
  | sxnop (r : FS)
  /-- R365: A PMCTL write with GO and GRADE 00 closes the load's sources and lets it run to quiescence. -/
  | preemptDrain (d : Nat) (v : Word)
  /-- R366: A PMCTL write with GO and GRADE 01 stops the load and withdraws its tokens into park buffers. -/
  | preemptPark (d : Nat) (v : Word)
  /-- R366: A PMCTL write with GO and GRADE 10 stops each element on entering a marker round, then parks. -/
  | preemptParkAtCut (d : Nat) (v : Word)
  /-- R370: A PMCTL write with GO and RST restores a saved load from PMSAVE into committed regions. -/
  | preemptRestore (d : Nat) (v : Word)
  /-- R390: The host writes CI, freeing ring records for waiting tokens. -/
  | dqptrCiWrite (k : Nat) (ci : BitVec 32)
  /-- R390: Igtex writes DQCTL; setting EN resets PI and ERRN. -/
  | dqctlWrite (k : Nat) (v : Word)
  /-- R409: A remote I/O die delivers an arriving token under its ingress registration and returns ACK or a
  refusal. -/
  | ingressDelivery (ing : Nat) (val : Word) (eod : BitVec 3) (seq : BitVec 8) (rt : BitVec 2)
  /-- R397: A channel receives an MPL frame, checks its CRC, and takes its acknowledgements and permit returns. -/
  | mplFrameReceive (c : Nat) (err : Nat)
  /-- R396: The modules of a link train to the highest common rate, and failed modules are left out. -/
  | linkTraining (l : Nat) (pass : List Nat)
  /-- R406: At link-up, two package ports exchange PKG and port number and record them. -/
  | scaleupLinkUp (port : Nat) (pkg : BitVec 16) (peer : BitVec 8)
  /-- R425: DISC OP 0 returns 56 bytes of the topology table. -/
  | discRead (c : HostCtx) (off : Nat)
  /-- R417: LAUNCH OP 1 from the owner submits a launch command and replies with its journal sequence number. -/
  | launchCmd (c : HostCtx) (cmd : List Byte)
  /-- R417: JRN OP 0 returns the journal entry with a given sequence number. -/
  | jrnEntry (c : HostCtx) (seq : Nat)
  /-- R423: JRN OP 1 returns JHEAD and JTAIL. -/
  | jrnPtrs (c : HostCtx)
  /-- R417: REG OP 0 reads a device register instance. -/
  | regRead (c : HostCtx) (num inst : Nat)
  /-- R417: REG OP 1 from the owner writes a device register that has no row of its own, following its access
  codes. -/
  | regWrite (c : HostCtx) (num inst : Nat) (v : Word)
  /-- R430: IMG OP 0 writes data into the flash image slot. -/
  | imgWrite (c : HostCtx) (off len : Nat) (data : List Byte)
  /-- R430: IMG OP 1 verifies the slot, and dies in their loader then boot from it. -/
  | imgCommit (c : HostCtx)
  /-- R430: IMG OP 2 erases the flash slot. -/
  | imgErase (c : HostCtx)
  /-- R434: IMG OP 3 returns PWRSTAT. -/
  | imgPstat (c : HostCtx)
  /-- R433: IMG OP 4 requests a package power mode. -/
  | imgPmode (c : HostCtx) (mode : Nat)
  /-- R431: ATT OP 0 writes a signed quote of the die's measurement to host memory. -/
  | attQuote (c : HostCtx) (nonce : List Byte) (addr : Word)
  /-- R431: ATT OP 1 writes the attestation public key and its certificate to host memory. -/
  | attCert (c : HostCtx) (addr : Word)
  /-- R419: A write to OWNCLAIM starts or joins an election, or is refused. -/
  | ownClaim (hid : Nat) (nonce : Word)
  /-- R420: OWNCTL OP 0 by the owner renews the lease. -/
  | ownRenew (hid : Nat) (epoch : BitVec 32)
  /-- R421: OWNCTL OP 1 offers ownership to a target HID. -/
  | ownOffer (hid : Nat) (tgt : BitVec 16) (epoch : BitVec 32)
  /-- R421: OWNCTL OP 2 from the target makes it owner, raising EPOCH. -/
  | ownAccept (hid : Nat) (epoch : BitVec 32)
  /-- R421: OWNCTL OP 3 by the owner sets STATE to open. -/
  | ownRelease (hid : Nat) (epoch : BitVec 32)
  /-- R322: An XINV write with GO invalidates a region's entries for one page. -/
  | xinvPage (d : Nat) (v : Word)
  /-- R322: An XINV write with GO and ALL invalidates every entry of a region. -/
  | xinvAll (d : Nat) (v : Word)
  /-- R8: A write to a device register with no behaviour of its own follows the field access codes. -/
  | registerWrite (d num inst : Nat) (v : Word)
  /-- R427: A compute die or IOE restarts alone, joins the running timebase, and boots again. -/
  | dieRestart (d : Nat)
  /-- R305: A die powers off, its timebase stops, and its outstanding requests are abandoned. -/
  | diePowerOff (d : Nat)
  /-- R433: A balanced-mode power window ends, and cycle skipping for the next window is set. -/
  | balancedWindowEnd (watts : BitVec 32)
  /-- R435: A sensor reaching 100 °C makes its die skip 1 cycle in 2 and sets its THR bit. -/
  | thermalThrottle (d : Nat) (temp : BitVec 8)
  /-- R435: Every sensor of the die falls below 95 °C, and throttling ends. -/
  | thermalUnthrottle (d : Nat) (temp : BitVec 8)
  /-- R435: A sensor reaching 110 °C powers the die off, and the whole package when the die is IOW. -/
  | thermalShutdown (d : Nat) (temp : BitVec 8)
  /-- R435: The sensors fall below 70 °C, and the die or package boots again. -/
  | thermalRestart (d : Nat) (temp : BitVec 8)
  /-- R425: A scale-up port loses its partner package or fails, and its status in the topology table changes to
  down or failed. -/
  | scaleupPortDown (port : Nat) (failed : Bool)
  /-- R392: An Ethernet port's link goes down or comes back up, changing its status so that OP 3 and OP 4 commands
  fail with code 6 or can proceed. -/
  | ethernetLinkChange (port : Nat) (up : Bool)
  /-- R375: A token advances one hop through a router, routed x first then y, with multicast replication and discard
  of tokens for fused-off squares or reserved control sub-kinds. Place: the router, link or output by `b`, its key
  `a`, and the route tag `c`. -/
  | routerHop
  /-- R394: The CD1 base-die bridge forwards a message between two of CD1's links without entering CD1's mesh.
  Place: the channel `a` and the route tag `b`. -/
  | bridgeForward
  /-- R124: A token taken by an element's input stage passes the record checks, local-part lookup or allocation, and
  matching, and a completed firing enters the ready queue. Place: the element `a` and the stage entry `b`. -/
  | tokenArrival
  /-- R97: A token that reaches a queue destination at an MT is appended as one entry, or is discarded with BOUNDS
  for an undeclared queue. Place: the MT `a`, the router input `b` and the route tag `c`. -/
  | queueDestinationAppend
  /-- R372: A marker token is counted on its arc and route tag, and it holds later tokens on that arc until the node
  enters the round. Place: the element `a` and the stage entry `b`. -/
  | markerArrival
  /-- R124: The answer of an external-class firing returns, and its tokens take room in the output stage ahead of
  the ready-queue head. Place: the element `a`. -/
  | externalAnswerReturn
  /-- R135: The repeat unit sends the next copy of an rpt value when the output stage has room. Place: the element
  `a`. -/
  | rptCopy
  /-- R138: A request reaches the region's frame allocator and waits in arrival order. Place: the region `a`. -/
  | allocRequest
  /-- R147: The allocator grants a waiting request once the pool or reservation allows it, and writes the descriptor
  and link word. Place: the region `a`. -/
  | allocGrant
  /-- R139: A CT or spill matcher receives a release notice, returns the local part's weight, and discards its
  state. Place: the region `a`, the frame `b` and the CT `c`. -/
  | releaseNotice
  /-- R139: Once every CT has answered, the allocator frees the FX, adjusts ADM and RSV, and adds the weight
  returned. Place: the region `a` and the frame `b`. -/
  | releaseComplete
  /-- R345: The writes of a victim run have performed, its entries become invalid, and the waiting allocation or
  restore takes the run. Place: the square `a`. -/
  | spillComplete
  /-- R346: The home MT's spill matcher forwards a token, matches it in the spilled image, or holds it and demands a
  restore. Place: the square `a`. -/
  | spillMatcherToken
  /-- R347: An idle tile restores of its own accord the spilled local part most recently touched at its matcher.
  Place: the square `a`. -/
  | restoreStartSpontaneous
  /-- R347: A restored local part is written back at its new BASE, and the tokens held for it pass to the tile in
  order. Place: the square `a`. -/
  | restoreComplete
  /-- R207: The tile pipe checks the handles, waits for the F conditions, writes PG, and starts the oldest
  macro-queue entry. Place: the element `a`. -/
  | macroStart
  /-- R208: The tile pipe performs one element boundary, writes PG, and repeats the generation check. Place: the
  element `a`. -/
  | macroBoundary
  /-- R213: After its last boundary a macro sets F, applies DROP, advances SEQ, and has its result taken by the
  output stage. Place: the element `a`. -/
  | macroComplete
  /-- R232: A wave-ordered request reaches its frame's wave-order unit, and is held in its context or admitted to
  the chain. Place: the request `a`. -/
  | waveRequestArrival
  /-- R285: A memory request or object operation is performed at its home. Place: the request `a`. -/
  | homeAccess
  /-- R302: A reply or acknowledgement reaches the requesting die, stopping the timer or counting in REQLATE when it
  arrives late. Place: the request `a`. -/
  | memoryReply
  /-- R293: A home's confirmation removes an egress buffer entry and ends forwarding from it. Place: the request
  `a`. -/
  | egressConfirm
  /-- R302: A request's time-out expires and raises TIMEOUT, ACKLOST or EFLOST, or yields a V = 0 translation word.
  Place: the request `a`, or the walk `a` when `b` is 1. -/
  | requestTimeout
  /-- R320: A page-table walk read returns, and the walk goes on to the next level or ends with a translation entry
  or XLAT. Place: the walk `a`. -/
  | walkReadReturn
  /-- R325: A copy-write byte count arrives at a sync word's MT and is applied once. Place: the key or position `a`. -/
  | syncCountArrival
  /-- R327: The patrol scrubber reads a word, writes back any correction, and counts uncorrectable words. Place: the
  address `a`. -/
  | scrubWord
  /-- R251: An address-generator chain performs one element, moving it between memory and its queue. Place: the MT
  `a` and the outermost unit `b`. -/
  | agElement
  /-- R251: The last element of a stream has performed, and agrun sends the selector word. Place: the MT `a` and the
  outermost unit `b`. -/
  | agStreamComplete
  /-- R386: A queue entry on an armed template triggers a copy once the F conditions hold. Place: the queue `a`. -/
  | copyTrigger
  /-- R386: A copy template moves contiguous elements, up to 64 bytes per cycle, counting bytes into the sync word.
  Place: the queue `a`. -/
  | copyElements
  /-- R386: The last write of a copy has performed; F is set and the completion handle token is sent. Place: the
  queue `a`. -/
  | copyComplete
  /-- R353: Once every CT holds the park mark, the handler token carrying the record handle is sent to the .fault
  node. Place: the load `a`. -/
  | handlerTokenSend
  /-- R359: A ready-queue head held for DLKT cycles sends a deadlock probe along its wait-for edge. Place: the
  element `a`. -/
  | holdCountExpiry
  /-- R359: A probe reaches an element, appends itself to the trail, and follows the next wait-for edge or is
  discarded. Place: the key or position `a`. -/
  | probeHop
  /-- R361: The allocator raises FRAMEDRY when a request has waited DLKT cycles, with no release and the load
  quiescent. Place: the region `a`. -/
  | framedryDetect
  /-- R362: A quiescent load with RETURNED < ISSUED, no waiting allocator request and no unresolved record raises
  STARVED. Place: the load `a`. -/
  | starvedDetect
  /-- R365: The drained load is reported quiescent, and the save begins. Place: the die `a`. -/
  | preemptQuiesced
  /-- R366: The quiescence tree reports no token, request or EF entry outstanding, and the save begins. Place: the
  die `a`. -/
  | preemptWithdrawalEnd
  /-- R366: The save image is written, SIZE and DONE are set, and BUSY clears. Place: the die `a`. -/
  | preemptSaveComplete
  /-- R365: TOUT ticks pass without quiescence or a cut, and the pre-emption escalates to park with ESC set. Place:
  the die `a`. -/
  | preemptEscalate
  /-- R370: The restored firings and tokens are back in place, the sources reopen, and DONE is set. Place: the die
  `a`. -/
  | preemptRestoreComplete
  /-- R364: Igtex picks victim loads and pre-empts them when the launch-queue head cannot be allocated. Place: the
  die `a`. -/
  | policyPreemption
  /-- R329: A journal endpoint receives a graph's launch token, or discards it with BOUNDS. Place: the endpoint `a`. -/
  | launchToken
  /-- R330: Igtex copies the image, and Urupo checks it and resolves its imports. Place: the load `a`. -/
  | launchCheck
  /-- R332: A request that has waited INTERVAL ticks moves up one level. Place: the die `a` and the load `b`. -/
  | launchAging
  /-- R333: The head request's clusters are allocated, and it leaves the queues. Place: the die `a`. -/
  | launchDispatch
  /-- R336: Urupo places the image on the allocated clusters, using or filling the placement cache. Place: the load
  `a`. -/
  | launchPlace
  /-- R330: Igtex builds the configuration blocks, loads them with cfgld, and writes SPCFG. Place: the load `a`. -/
  | launchLoad
  /-- R330: Igtex commits every region, the last with START = 1. Place: the load `a`. -/
  | launchStart
  /-- R273: After quiescence, the shadow configuration becomes active in every element of the region in one step.
  Place: the region `a`. -/
  | cfgCommitFlip
  /-- R280: A weight token addressed to an sxwld record is checked and written into its accumulator. Place: the
  element `a` and the stage entry `b`. -/
  | sxwldWeightToken
  /-- R383: An edge converter moves queue entries to or from its staged beats. Place: the converter or channel `a`. -/
  | converterTransfer
  /-- R389: A data token written to a DMA queue becomes a 16-byte record in the host ring. Place: the key or
  position `a`. -/
  | dmaDataToken
  /-- R391: A command token makes a DMA queue fetch and perform a 64-byte descriptor. Place: the key or position
  `a`. -/
  | dmaCommandToken
  /-- R392: A DMA command ends, sending its completion or error word and recording any failure. Place: the key or
  position `a`. -/
  | dmaCommandComplete
  /-- R409: An I/O die looks up XRT and sends an xsend token on the chosen scale-up port. Place: the request `a`. -/
  | xsendRoute
  /-- R402: A channel that fails retraining is removed, and its unacknowledged frames are replayed on another
  channel. Place: the converter or channel `a`. -/
  | channelRemove
  /-- R416: A request record taken from a host's request ring is sent to its die and endpoint. Place: the host `a`;
  `b` is 0, or 1 plus the position of a pending request. -/
  | hostRequest
  /-- R433: A requested power mode takes effect at a tick boundary on every die. -/
  | modeChangeEffect
  /-- R419: The election window closes, and the lowest nonce becomes owner. -/
  | electionWindowEnd
  /-- R420: LEFT reaches 0, ownership lapses, and any handover is void. -/
  | leaseLapse
  /-- R322: GO returns to 0 once no entry maps the page and affected accesses have performed or faulted. Place: the
  die `a`. -/
  | xinvComplete
  /-- R355: Igtex service 0x0F00 returns a word of a fault record or the queue status. Place: the request `a`. -/
  | frread
  /-- R450: Igtex service 0x0F01 returns the bari word images that designate a queue. Place: the request `a`. -/
  | qbar
  /-- R408: Igtex service 0x0F10 registers or frees a scale-up ingress. Place: the request `a`. -/
  | xreg
  /-- R426: Power is applied, supplies settle, and the timebase starts at tick 0. -/
  | powerOn
  /-- R429: A die reads the image from the boot flash and verifies it, or waits in its loader. Place: the die `a`. -/
  | bootVerify
  /-- R426: Every MT and HBM word of the die is written with 0, and the die then answers every endpoint. Place: the
  die `a`. -/
  | bootScrub
  /-- R38: In each cycle, a node's operand-wait counter rises while one of its slots holds a parked operand, and
  its output-space counter rises while its matched firing is held at the ready-queue head for want of output
  space, each stopping at 0xFFFF. -/
  | stallCounterCycle
  deriving DecidableEq, Repr, Inhabited

end Sys2Proof
end

