-- ==== Sys2Proof/Machine/Records.lean ====
section
/-!
DEFINITION. The opcode map (R99) and the record checks of R86 to R96 that the element makes on a record when a token
reaches it (R103 checks 1 and 3 to 7) and that Urupo makes on an image (R104). Nothing here looks at the machine.
-/
namespace Sys2Proof

/-- The record forms of R85 and R100. -/
inductive Form where
  | d2 | d1 | c | t | m | s
  deriving DecidableEq, Repr, Inhabited

/-- The In column of R99: operand ports, one of two ports (merge, mergeo), or a combine. -/
inductive Ins where
  | ports (n : Nat)
  | either
  | combine
  deriving DecidableEq, Repr, Inhabited

/-- The Out column of R99 (R90). -/
inductive Outs where
  | zero | one | two | both | waiter
  deriving DecidableEq, Repr, Inhabited

/-- The LIT column of R99. -/
inductive LitKind where
  | none | op | opMax (m : Nat) | const | range (lo hi : Nat) | mask | lane | vunpk | lutld | barlog | sform
  deriving DecidableEq, Repr, Inhabited

/-- The OPF column of R99 with the admissions of R91 and of each instruction's text. -/
inductive OpfClass where
  | n | rm | rmNoSr | rmInt | rmDot | cvt | cvtsr | vpack | is | isSat | isZdiv | cc (max : Nat) | mem | memEf
  | ta | taCombine | tn | tr | sform | sformRm
  deriving DecidableEq, Repr, Inhabited

/-- One row of the opcode map: `tys` has bit t set when TY t is accepted (R86). -/
structure OpInfo where
  form : Form
  ins : Ins
  outs : Outs
  lit : LitKind
  opf : OpfClass
  tys : BitVec 16
  deriving DecidableEq, Repr, Inhabited

/-- The opcode map of R99, by OP; `none` on the 56 unassigned codes of R101. -/
def opInfo (op : Nat) : Option OpInfo :=
  match op with
  | 0x01 => some ⟨.d1, .ports 1, .one, .none, .n, 0x7FFF⟩ -- id
  | 0x02 => some ⟨.c, .ports 1, .one, .const, .n, 0x7FFF⟩ -- const
  | 0x03 => some ⟨.d1, .ports 1, .zero, .none, .n, 0x7FFF⟩ -- sink
  | 0x04 => some ⟨.d2, .ports 2, .both, .op, .n, 0x7FFF⟩ -- steer
  | 0x05 => some ⟨.d2, .either, .one, .none, .n, 0x7FFF⟩ -- merge
  | 0x06 => some ⟨.d2, .either, .one, .range 1 255, .n, 0x7FFF⟩ -- mergeo
  | 0x07 => some ⟨.d2, .ports 2, .one, .op, .n, 0x7FFF⟩ -- gate
  | 0x08 => some ⟨.d2, .ports 3, .one, .op, .n, 0x7FFF⟩ -- pick
  | 0x09 => some ⟨.d2, .ports 2, .one, .op, .n, 0x7FFF⟩ -- rpt
  | 0x0A => some ⟨.d2, .ports 1, .one, .range 0 255, .n, 0x7FFF⟩ -- seq
  | 0x0B => some ⟨.d2, .ports 1, .two, .range 1 7, .n, 0x7FFF⟩ -- eodt
  | 0x0C => some ⟨.d2, .ports 2, .one, .opMax 7, .n, 0x7FFF⟩ -- eods
  | 0x0D => some ⟨.d2, .ports 2, .one, .op, .n, 0x7FFF⟩ -- pack2
  | 0x0E => some ⟨.d2, .ports 1, .two, .none, .n, 0x7FFF⟩ -- unpk2
  | 0x0F => some ⟨.d2, .ports 1, .one, .none, .n, 0x7FFF⟩ -- fanout
  | 0x10 => some ⟨.d1, .ports 1, .one, .range 0 2, .n, 0x7FFF⟩ -- falloc
  | 0x11 => some ⟨.d1, .ports 1, .one, .none, .n, 0x7FFF⟩ -- ffree
  | 0x12 => some ⟨.d2, .ports 1, .one, .none, .n, 0x7FFF⟩ -- iter
  | 0x13 => some ⟨.d2, .ports 1, .one, .none, .n, 0x7FFF⟩ -- leave
  | 0x14 => some ⟨.d2, .ports 1, .both, .range 0 2, .n, 0x7FFF⟩ -- call
  | 0x15 => some ⟨.d1, .ports 1, .zero, .none, .n, 0x7FFF⟩ -- ret
  | 0x16 => some ⟨.d1, .ports 1, .one, .range 0 255, .n, 0x7FFF⟩ -- ldfx
  | 0x17 => some ⟨.d1, .ports 1, .one, .range 0 255, .n, 0x7FFF⟩ -- stfx
  | 0x18 => some ⟨.d2, .ports 1, .two, .range 1 15, .n, 0x7FFF⟩ -- loopin
  | 0x19 => some ⟨.d2, .ports 1, .one, .none, .n, 0x7FFF⟩ -- loopout
  | 0x1A => some ⟨.d1, .ports 1, .one, .range 0 2, .n, 0x7FFF⟩ -- spawn
  | 0x1B => some ⟨.d1, .ports 1, .zero, .none, .n, 0x7FFF⟩ -- exitw
  | 0x1C => some ⟨.d1, .ports 1, .one, .none, .n, 0x7FFF⟩ -- wchk
  | 0x1D => some ⟨.d2, .ports 2, .one, .op, .n, 0x7FFF⟩ -- settag
  | 0x1E => some ⟨.d1, .ports 1, .one, .none, .n, 0x7FFF⟩ -- gettag
  | 0x1F => some ⟨.d1, .ports 1, .one, .range 0 5, .n, 0x7FFF⟩ -- fxinfo
  | 0x20 => some ⟨.d2, .ports 2, .one, .op, .isSat, 0x00FF⟩ -- add
  | 0x21 => some ⟨.d2, .ports 2, .one, .op, .isSat, 0x00FF⟩ -- sub
  | 0x22 => some ⟨.d2, .ports 2, .one, .op, .isSat, 0x00FF⟩ -- mul
  | 0x23 => some ⟨.d2, .ports 2, .one, .op, .is, 0x00FF⟩ -- mulh
  | 0x24 => some ⟨.d2, .ports 2, .one, .op, .isZdiv, 0x00FF⟩ -- div
  | 0x25 => some ⟨.d2, .ports 2, .one, .op, .isZdiv, 0x00FF⟩ -- rem
  | 0x26 => some ⟨.d2, .ports 2, .one, .op, .is, 0x00FF⟩ -- min
  | 0x27 => some ⟨.d2, .ports 2, .one, .op, .is, 0x00FF⟩ -- max
  | 0x28 => some ⟨.d2, .ports 1, .one, .none, .isSat, 0x00FF⟩ -- abs
  | 0x29 => some ⟨.d2, .ports 1, .one, .none, .isSat, 0x00FF⟩ -- neg
  | 0x2A => some ⟨.d2, .ports 2, .one, .op, .n, 0x00FF⟩ -- addsat
  | 0x2B => some ⟨.d2, .ports 2, .one, .op, .n, 0x00FF⟩ -- subsat
  | 0x2C => some ⟨.d2, .ports 2, .one, .op, .is, 0x00FF⟩ -- avg
  | 0x2D => some ⟨.d2, .ports 2, .one, .op, .cc 5, 0x00FF⟩ -- cmp
  | 0x2E => some ⟨.d2, .ports 3, .one, .op, .isSat, 0x00FF⟩ -- clamp
  | 0x2F => some ⟨.d2, .ports 1, .two, .none, .n, 0x00FC⟩ -- widen
  | 0x30 => some ⟨.d2, .ports 2, .one, .op, .n, 0x7FFF⟩ -- and
  | 0x31 => some ⟨.d2, .ports 2, .one, .op, .n, 0x7FFF⟩ -- or
  | 0x32 => some ⟨.d2, .ports 2, .one, .op, .n, 0x7FFF⟩ -- xor
  | 0x33 => some ⟨.d2, .ports 2, .one, .op, .n, 0x7FFF⟩ -- andn
  | 0x34 => some ⟨.d2, .ports 1, .one, .none, .n, 0x7FFF⟩ -- not
  | 0x35 => some ⟨.d2, .ports 2, .one, .op, .n, 0x00FF⟩ -- shl
  | 0x36 => some ⟨.d2, .ports 2, .one, .op, .n, 0x00FF⟩ -- shr
  | 0x37 => some ⟨.d2, .ports 2, .one, .op, .n, 0x00FF⟩ -- sra
  | 0x38 => some ⟨.d2, .ports 2, .one, .op, .n, 0x00FF⟩ -- rotl
  | 0x39 => some ⟨.d2, .ports 1, .one, .none, .n, 0x00FF⟩ -- clz
  | 0x3A => some ⟨.d2, .ports 1, .one, .none, .n, 0x00FF⟩ -- ctz
  | 0x3B => some ⟨.d2, .ports 1, .one, .none, .n, 0x00FF⟩ -- popc
  | 0x3C => some ⟨.d2, .ports 2, .one, .op, .n, 0x00FF⟩ -- bext
  | 0x3D => some ⟨.d2, .ports 3, .one, .op, .n, 0x00FF⟩ -- bins
  | 0x3E => some ⟨.d2, .ports 2, .two, .op, .n, 0x0002⟩ -- clmul
  | 0x3F => some ⟨.d2, .ports 2, .two, .opMax 1, .n, 0x0002⟩ -- pxor
  | 0x40 => some ⟨.d2, .ports 2, .one, .op, .rm, 0x3F00⟩ -- fadd
  | 0x41 => some ⟨.d2, .ports 2, .one, .op, .rm, 0x3F00⟩ -- fsub
  | 0x42 => some ⟨.d2, .ports 2, .one, .op, .rm, 0x3F00⟩ -- fmul
  | 0x43 => some ⟨.d2, .ports 3, .one, .op, .rm, 0x3F00⟩ -- fma
  | 0x44 => some ⟨.d2, .ports 2, .one, .op, .n, 0x3F00⟩ -- fmin
  | 0x45 => some ⟨.d2, .ports 2, .one, .op, .n, 0x3F00⟩ -- fmax
  | 0x46 => some ⟨.d2, .ports 1, .one, .none, .n, 0x3F00⟩ -- fabs
  | 0x47 => some ⟨.d2, .ports 1, .one, .none, .n, 0x3F00⟩ -- fneg
  | 0x48 => some ⟨.d2, .ports 2, .one, .op, .cc 7, 0x3F00⟩ -- fcmp
  | 0x49 => some ⟨.d2, .ports 2, .one, .op, .rm, 0x3F00⟩ -- fdiv
  | 0x4A => some ⟨.d2, .ports 1, .one, .none, .rm, 0x3F00⟩ -- fsqrt
  | 0x4B => some ⟨.d2, .ports 1, .one, .none, .rm, 0x3F00⟩ -- frcp
  | 0x4C => some ⟨.d2, .ports 1, .one, .none, .rm, 0x3F00⟩ -- frsqrt
  | 0x4D => some ⟨.d2, .ports 1, .one, .none, .rmNoSr, 0x3F00⟩ -- frnd
  | 0x4E => some ⟨.d2, .ports 1, .one, .none, .n, 0x3F00⟩ -- fclass
  | 0x4F => some ⟨.d2, .ports 2, .one, .op, .n, 0x3F00⟩ -- fcsgn
  | 0x50 => some ⟨.d2, .ports 1, .one, .range 0 14, .cvt, 0x7FFF⟩ -- cvt
  | 0x51 => some ⟨.d2, .ports 1, .one, .range 0 7, .cvt, 0x3F00⟩ -- cvtfi
  | 0x52 => some ⟨.d2, .ports 1, .one, .range 8 13, .cvt, 0x00FF⟩ -- cvtif
  | 0x53 => some ⟨.d2, .ports 2, .one, .range 9 13, .cvtsr, 0x3F00⟩ -- cvtsr
  | 0x54 => some ⟨.d2, .ports 1, .one, .mask, .n, 0x1FFC⟩ -- vswap2
  | 0x55 => some ⟨.d2, .ports 2, .one, .op, .n, 0x7FFF⟩ -- vperm
  | 0x56 => some ⟨.d2, .ports 1, .one, .lane, .n, 0x7FFF⟩ -- vbcast
  | 0x57 => some ⟨.d2, .ports 2, .one, .lane, .n, 0x7FFF⟩ -- vins
  | 0x58 => some ⟨.d2, .ports 1, .one, .lane, .n, 0x7FFF⟩ -- vext
  | 0x59 => some ⟨.d2, .ports 2, .one, .range 0 13, .vpack, 0x3FFF⟩ -- vpack
  | 0x5A => some ⟨.d2, .ports 1, .two, .vunpk, .n, 0x3FFF⟩ -- vunpk
  | 0x5B => some ⟨.d2, .ports 1, .one, .none, .rmInt, 0x3FFF⟩ -- vsum
  | 0x5C => some ⟨.d2, .ports 2, .one, .op, .n, 0x7FFF⟩ -- vmask
  | 0x5D => some ⟨.d2, .ports 3, .one, .op, .n, 0x7FFF⟩ -- vsel
  | 0x5E => some ⟨.d2, .ports 1, .one, .range 0 255, .cc 5, 0x0080⟩ -- vbcmp
  | 0x5F => some ⟨.d2, .ports 2, .one, .op, .rmDot, 0x3FFF⟩ -- vdot
  | 0x60 => some ⟨.d2, .ports 1, .one, .none, .n, 0x2700⟩ -- fsin
  | 0x61 => some ⟨.d2, .ports 1, .one, .none, .n, 0x2700⟩ -- fcos
  | 0x62 => some ⟨.d2, .ports 1, .two, .none, .n, 0x2700⟩ -- fsincos
  | 0x63 => some ⟨.d2, .ports 1, .one, .none, .n, 0x2700⟩ -- fexp2
  | 0x64 => some ⟨.d2, .ports 1, .one, .none, .n, 0x2700⟩ -- flog2
  | 0x65 => some ⟨.d2, .ports 1, .one, .none, .n, 0x2700⟩ -- fexp
  | 0x66 => some ⟨.d2, .ports 1, .one, .none, .n, 0x2700⟩ -- ftanh
  | 0x67 => some ⟨.d2, .ports 1, .one, .none, .n, 0x2700⟩ -- fsigm
  | 0x68 => some ⟨.d2, .ports 1, .one, .range 0 3, .n, 0x7FFF⟩ -- lut6
  | 0x69 => some ⟨.d2, .ports 1, .one, .range 0 3, .n, 0x7FFF⟩ -- lutsm
  | 0x6A => some ⟨.d2, .ports 1, .one, .lutld, .n, 0x7FFF⟩ -- lutld
  | 0x6B => some ⟨.d2, .ports 2, .one, .op, .n, 0x7FFF⟩ -- hash64
  | 0x70 => some ⟨.t, .ports 3, .one, .none, .ta, 0x7FFF⟩ -- tmma
  | 0x71 => some ⟨.t, .ports 2, .one, .none, .ta, 0x7FFF⟩ -- tacc
  | 0x72 => some ⟨.t, .ports 2, .one, .none, .tn, 0x7FFF⟩ -- tld
  | 0x73 => some ⟨.t, .ports 2, .one, .none, .tn, 0x7FFF⟩ -- tst
  | 0x74 => some ⟨.t, .ports 3, .one, .none, .tr, 0x7FFF⟩ -- tadd
  | 0x75 => some ⟨.t, .ports 3, .one, .none, .tr, 0x7FFF⟩ -- tmul
  | 0x76 => some ⟨.t, .ports 3, .one, .none, .tn, 0x7FFF⟩ -- tmax
  | 0x77 => some ⟨.t, .ports 3, .one, .none, .tr, 0x7FFF⟩ -- tscale
  | 0x78 => some ⟨.t, .ports 2, .one, .none, .tr, 0x7FFF⟩ -- texp
  | 0x79 => some ⟨.t, .ports 1, .one, .none, .tr, 0x7FFF⟩ -- tred
  | 0x7A => some ⟨.t, .ports 2, .one, .none, .tn, 0x7FFF⟩ -- ttrans
  | 0x7B => some ⟨.t, .ports 2, .one, .none, .tr, 0x7FFF⟩ -- tcvt
  | 0x7C => some ⟨.t, .ports 2, .one, .none, .tn, 0x7FFF⟩ -- tfill
  | 0x7D => some ⟨.t, .ports 3, .one, .none, .tn, 0x7FFF⟩ -- tcmpb
  | 0x7E => some ⟨.t, .ports 3, .one, .none, .tr, 0x7FFF⟩ -- tbias
  | 0x7F => some ⟨.t, .ports 1, .one, .none, .n, 0x7FFF⟩ -- tzero
  | 0x80 => some ⟨.t, .ports 3, .one, .none, .tn, 0x7FFF⟩ -- tgath
  | 0x81 => some ⟨.t, .ports 3, .one, .none, .tn, 0x7FFF⟩ -- tscat
  | 0x82 => some ⟨.t, .ports 2, .one, .none, .tn, 0x7FFF⟩ -- tcopy
  | 0x83 => some ⟨.t, .ports 2, .one, .none, .tn, 0x7FFF⟩ -- tslice
  | 0x84 => some ⟨.d2, .ports 1, .one, .none, .n, 0x7FFF⟩ -- href
  | 0x85 => some ⟨.d2, .ports 1, .one, .none, .n, 0x7FFF⟩ -- hdrop
  | 0x86 => some ⟨.d2, .ports 1, .one, .range 0 13, .n, 0x7FFF⟩ -- halloc
  | 0x87 => some ⟨.d2, .ports 1, .one, .range 0 2, .n, 0x7FFF⟩ -- hinfo
  | 0x88 => some ⟨.d2, .ports 2, .one, .op, .n, 0x7FFF⟩ -- tget
  | 0x89 => some ⟨.d2, .ports 3, .one, .op, .n, 0x7FFF⟩ -- tset
  | 0x8A => some ⟨.d2, .ports 1, .one, .none, .n, 0x7FFF⟩ -- tfull
  | 0x8B => some ⟨.d2, .ports 1, .one, .none, .n, 0x7FFF⟩ -- tempty
  | 0x90 => some ⟨.m, .ports 1, .one, .none, .mem, 0x7FFF⟩ -- ld
  | 0x91 => some ⟨.m, .ports 2, .one, .none, .memEf, 0x7FFF⟩ -- st
  | 0x92 => some ⟨.m, .ports 1, .one, .none, .mem, 0x7FFF⟩ -- ldn
  | 0x93 => some ⟨.m, .ports 2, .one, .none, .memEf, 0x7FFF⟩ -- stn
  | 0x94 => some ⟨.m, .ports 1, .one, .none, .mem, 0x7FFF⟩ -- ild
  | 0x95 => some ⟨.m, .ports 2, .one, .none, .memEf, 0x7FFF⟩ -- ist
  | 0x96 => some ⟨.m, .ports 1, .one, .none, .mem, 0x7FFF⟩ -- iclr
  | 0x97 => some ⟨.m, .ports 1, .one, .none, .memEf, 0x7FFF⟩ -- alr
  | 0x98 => some ⟨.m, .ports 1, .one, .none, .mem, 0x7FFF⟩ -- pref
  | 0x99 => some ⟨.m, .ports 1, .one, .none, .mem, 0x7FFF⟩ -- ldsw
  | 0x9A => some ⟨.m, .ports 2, .waiter, .none, .mem, 0x7FFF⟩ -- swset
  | 0x9B => some ⟨.m, .ports 1, .one, .none, .mem, 0x7FFF⟩ -- wfence
  | 0x9C => some ⟨.m, .ports 2, .one, .none, .mem, 0x7FFF⟩ -- swadd
  | 0xA0 => some ⟨.d2, .combine, .one, .range 0 255, .isSat, 0x00FF⟩ -- cmbadd
  | 0xA1 => some ⟨.d2, .combine, .one, .range 0 255, .n, 0x7FFF⟩ -- cmband
  | 0xA2 => some ⟨.d2, .combine, .one, .range 0 255, .n, 0x7FFF⟩ -- cmbor
  | 0xA3 => some ⟨.d2, .combine, .one, .range 0 255, .n, 0x7FFF⟩ -- cmbxor
  | 0xA4 => some ⟨.d2, .combine, .one, .range 0 255, .n, 0x00FF⟩ -- cmbmin
  | 0xA5 => some ⟨.d2, .combine, .one, .range 0 255, .n, 0x00FF⟩ -- cmbmax
  | 0xA6 => some ⟨.d2, .combine, .one, .range 0 255, .n, 0x2600⟩ -- cmbfaddx
  | 0xA7 => some ⟨.d2, .combine, .one, .range 0 255, .n, 0x3F00⟩ -- cmbfmin
  | 0xA8 => some ⟨.d2, .combine, .one, .range 0 255, .n, 0x3F00⟩ -- cmbfmax
  | 0xA9 => some ⟨.d2, .combine, .one, .range 0 255, .n, 0x7FFF⟩ -- cmbcnt
  | 0xAA => some ⟨.d2, .combine, .one, .range 0 255, .n, 0x2600⟩ -- cmbfadd
  | 0xAB => some ⟨.d2, .combine, .one, .range 0 255, .taCombine, 0x7FFF⟩ -- cmbtacc
  | 0xB0 => some ⟨.d2, .ports 1, .one, .range 0 255, .n, 0x7FFF⟩ -- qpush
  | 0xB1 => some ⟨.d2, .ports 1, .one, .range 0 255, .n, 0x7FFF⟩ -- qpop
  | 0xB2 => some ⟨.d2, .ports 1, .one, .range 0 255, .n, 0x7FFF⟩ -- qresv
  | 0xB3 => some ⟨.d2, .ports 2, .one, .range 0 255, .n, 0x7FFF⟩ -- qpub
  | 0xB4 => some ⟨.d2, .ports 1, .one, .range 0 255, .n, 0x7FFF⟩ -- qsteal
  | 0xB5 => some ⟨.d2, .ports 1, .one, .range 0 255, .n, 0x7FFF⟩ -- qarm
  | 0xB6 => some ⟨.d2, .ports 1, .one, .range 0 255, .n, 0x7FFF⟩ -- qstat
  | 0xB7 => some ⟨.d2, .ports 2, .one, .range 0 7, .n, 0x7FFF⟩ -- agcfg
  | 0xB8 => some ⟨.d2, .ports 1, .one, .range 0 7, .n, 0x7FFF⟩ -- agrun
  | 0xB9 => some ⟨.d2, .ports 2, .one, .range 0 31, .n, 0x7FFF⟩ -- bari
  | 0xBA => some ⟨.d2, .ports 1, .one, .range 0 31, .n, 0x7FFF⟩ -- barv
  | 0xBB => some ⟨.d2, .ports 1, .one, .barlog, .n, 0x7FFF⟩ -- barlog
  | 0xBC => some ⟨.d2, .ports 2, .one, .range 0 7, .n, 0x7FFF⟩ -- stkbind
  | 0xBD => some ⟨.d2, .ports 2, .one, .range 0 7, .n, 0x7FFF⟩ -- ktsbind
  | 0xBE => some ⟨.d2, .ports 2, .one, .range 0 255, .n, 0x7FFF⟩ -- mcgset
  | 0xBF => some ⟨.d2, .ports 2, .one, .op, .n, 0x7FFF⟩ -- xsend
  | 0xC0 => some ⟨.d1, .ports 1, .one, .range 0 65535, .n, 0x7FFF⟩ -- trap
  | 0xC1 => some ⟨.d2, .ports 2, .zero, .none, .n, 0x7FFF⟩ -- fret
  | 0xC2 => some ⟨.d1, .ports 1, .one, .none, .n, 0x7FFF⟩ -- fkill
  | 0xC3 => some ⟨.d1, .ports 1, .one, .none, .n, 0x7FFF⟩ -- park
  | 0xC4 => some ⟨.d1, .ports 1, .one, .none, .n, 0x7FFF⟩ -- unpark
  | 0xC5 => some ⟨.d1, .ports 1, .one, .none, .n, 0x7FFF⟩ -- mark
  | 0xC6 => some ⟨.d1, .ports 1, .one, .none, .n, 0x7FFF⟩ -- time
  | 0xC7 => some ⟨.d2, .ports 1, .one, .range 0 7, .n, 0x7FFF⟩ -- pgrd
  | 0xC8 => some ⟨.d2, .ports 1, .one, .range 0 7, .n, 0x7FFF⟩ -- pgwr
  | 0xC9 => some ⟨.d2, .ports 1, .one, .range 0 5, .n, 0x7FFF⟩ -- stcnt
  | 0xCA => some ⟨.d1, .ports 1, .one, .range 0 65535, .n, 0x7FFF⟩ -- ecall
  | 0xCB => some ⟨.d1, .ports 1, .one, .none, .n, 0x7FFF⟩ -- cfgld
  | 0xCC => some ⟨.d1, .ports 1, .one, .none, .n, 0x7FFF⟩ -- cfgcmt
  | 0xCD => some ⟨.d2, .ports 1, .one, .range 0 3, .n, 0x7FFF⟩ -- gsrc
  | 0xCE => some ⟨.d1, .ports 1, .one, .none, .n, 0x7FFF⟩ -- quiesce
  | 0xCF => some ⟨.d1, .ports 1, .zero, .none, .n, 0x7FFF⟩ -- halt
  | 0xD0 => some ⟨.s, .ports 0, .zero, .sform, .sform, 0x3F00⟩ -- sxmac
  | 0xD1 => some ⟨.s, .ports 0, .zero, .sform, .sform, 0x7FFF⟩ -- sxpass
  | 0xD2 => some ⟨.s, .ports 0, .zero, .sform, .sform, 0x2100⟩ -- sxacc
  | 0xD3 => some ⟨.s, .ports 0, .zero, .sform, .sformRm, 0x3F00⟩ -- sxout
  | 0xD4 => some ⟨.s, .ports 0, .zero, .sform, .sform, 0x7FFF⟩ -- sxwld
  | 0xD5 => some ⟨.s, .ports 0, .zero, .sform, .sform, 0x7FFF⟩ -- sxmov
  | 0xD6 => some ⟨.s, .ports 0, .zero, .sform, .sform, 0x7FFF⟩ -- sxloop
  | 0xD7 => some ⟨.s, .ports 0, .zero, .sform, .sform, 0x7FFF⟩ -- sxnop
  | _ => none

/-- A record's fields, whatever its form; a field that the form lacks is 0. -/
structure RecView where
  op : BitVec 8 := 0
  hdr : Hdr := default
  slot : Nat := 0
  lit : Nat := 0
  tp : Nat := 0
  pred : Nat := 0
  own : Nat := 0
  succ : Nat := 0
  off : BitVec 12 := 0
  destA : BitVec 28 := 0
  destB : BitVec 28 := 0
  spos : Nat := 0
  sin : Nat := 0
  sout : Nat := 0
  acc : Nat := 0
  sub : Nat := 0
  scnt : Nat := 0
  rsv : Nat := 0
  slit : Nat := 0
  deriving DecidableEq, Repr, Inhabited

def D2.view (op : BitVec 8) (r : D2) : RecView :=
  { op, hdr := r.toHdr, slot := r.slot.toNat, lit := r.lit.toNat, destA := r.destA, destB := r.destB }
def D1.view (op : BitVec 8) (r : D1) : RecView :=
  { op, hdr := r.toHdr, slot := r.slot.toNat, lit := r.lit.toNat, destA := r.destA }
def FC.view (op : BitVec 8) (r : FC) : RecView :=
  { op, hdr := r.toHdr, lit := r.lit.toNat, destA := r.destA }
def FT.view (op : BitVec 8) (r : FT) : RecView :=
  { op, hdr := r.toHdr, slot := r.slot.toNat, tp := r.tp.toNat, destA := r.destA, destB := r.destB }
def FM.view (op : BitVec 8) (r : FM) : RecView :=
  { op, hdr := r.toHdr, slot := r.slot.toNat, pred := r.pred.toNat, own := r.own.toNat,
    succ := r.succ.toNat, off := r.off, destA := r.destA }
def FS.view (op : BitVec 8) (r : FS) : RecView :=
  { op, hdr := r.toHdr, spos := r.spos.toNat, sin := r.sin.toNat, sout := r.sout.toNat, acc := r.acc.toNat,
    sub := r.sub.toNat, scnt := r.scnt.toNat, rsv := r.rsv.toNat, slit := r.slit.toNat }

/-- The record fields of a node instruction; `none` for a device event. -/
def Instr.view : Instr → Option RecView
  | .id r => some (r.view 0x01)
  | .const r => some (r.view 0x02)
  | .sink r => some (r.view 0x03)
  | .steer r => some (r.view 0x04)
  | .merge r => some (r.view 0x05)
  | .mergeo r => some (r.view 0x06)
  | .gate r => some (r.view 0x07)
  | .pick r => some (r.view 0x08)
  | .rpt r => some (r.view 0x09)
  | .seq r => some (r.view 0x0A)
  | .eodt r => some (r.view 0x0B)
  | .eods r => some (r.view 0x0C)
  | .pack2 r => some (r.view 0x0D)
  | .unpk2 r => some (r.view 0x0E)
  | .fanout r => some (r.view 0x0F)
  | .falloc r => some (r.view 0x10)
  | .ffree r => some (r.view 0x11)
  | .iter r => some (r.view 0x12)
  | .leave r => some (r.view 0x13)
  | .call r => some (r.view 0x14)
  | .ret r => some (r.view 0x15)
  | .ldfx r => some (r.view 0x16)
  | .stfx r => some (r.view 0x17)
  | .loopin r => some (r.view 0x18)
  | .loopout r => some (r.view 0x19)
  | .spawn r => some (r.view 0x1A)
  | .exitw r => some (r.view 0x1B)
  | .wchk r => some (r.view 0x1C)
  | .settag r => some (r.view 0x1D)
  | .gettag r => some (r.view 0x1E)
  | .fxinfo r => some (r.view 0x1F)
  | .add r => some (r.view 0x20)
  | .sub r => some (r.view 0x21)
  | .mul r => some (r.view 0x22)
  | .mulh r => some (r.view 0x23)
  | .div r => some (r.view 0x24)
  | .rem r => some (r.view 0x25)
  | .min r => some (r.view 0x26)
  | .max r => some (r.view 0x27)
  | .abs r => some (r.view 0x28)
  | .neg r => some (r.view 0x29)
  | .addsat r => some (r.view 0x2A)
  | .subsat r => some (r.view 0x2B)
  | .avg r => some (r.view 0x2C)
  | .cmp r => some (r.view 0x2D)
  | .clamp r => some (r.view 0x2E)
  | .widen r => some (r.view 0x2F)
  | .and r => some (r.view 0x30)
  | .or r => some (r.view 0x31)
  | .xor r => some (r.view 0x32)
  | .andn r => some (r.view 0x33)
  | .not r => some (r.view 0x34)
  | .shl r => some (r.view 0x35)
  | .shr r => some (r.view 0x36)
  | .sra r => some (r.view 0x37)
  | .rotl r => some (r.view 0x38)
  | .clz r => some (r.view 0x39)
  | .ctz r => some (r.view 0x3A)
  | .popc r => some (r.view 0x3B)
  | .bext r => some (r.view 0x3C)
  | .bins r => some (r.view 0x3D)
  | .clmul r => some (r.view 0x3E)
  | .pxor r => some (r.view 0x3F)
  | .fadd r => some (r.view 0x40)
  | .fsub r => some (r.view 0x41)
  | .fmul r => some (r.view 0x42)
  | .fma r => some (r.view 0x43)
  | .fmin r => some (r.view 0x44)
  | .fmax r => some (r.view 0x45)
  | .fabs r => some (r.view 0x46)
  | .fneg r => some (r.view 0x47)
  | .fcmp r => some (r.view 0x48)
  | .fdiv r => some (r.view 0x49)
  | .fsqrt r => some (r.view 0x4A)
  | .frcp r => some (r.view 0x4B)
  | .frsqrt r => some (r.view 0x4C)
  | .frnd r => some (r.view 0x4D)
  | .fclass r => some (r.view 0x4E)
  | .fcsgn r => some (r.view 0x4F)
  | .cvt r => some (r.view 0x50)
  | .cvtfi r => some (r.view 0x51)
  | .cvtif r => some (r.view 0x52)
  | .cvtsr r => some (r.view 0x53)
  | .vswap2 r => some (r.view 0x54)
  | .vperm r => some (r.view 0x55)
  | .vbcast r => some (r.view 0x56)
  | .vins r => some (r.view 0x57)
  | .vext r => some (r.view 0x58)
  | .vpack r => some (r.view 0x59)
  | .vunpk r => some (r.view 0x5A)
  | .vsum r => some (r.view 0x5B)
  | .vmask r => some (r.view 0x5C)
  | .vsel r => some (r.view 0x5D)
  | .vbcmp r => some (r.view 0x5E)
  | .vdot r => some (r.view 0x5F)
  | .fsin r => some (r.view 0x60)
  | .fcos r => some (r.view 0x61)
  | .fsincos r => some (r.view 0x62)
  | .fexp2 r => some (r.view 0x63)
  | .flog2 r => some (r.view 0x64)
  | .fexp r => some (r.view 0x65)
  | .ftanh r => some (r.view 0x66)
  | .fsigm r => some (r.view 0x67)
  | .lut6 r => some (r.view 0x68)
  | .lutsm r => some (r.view 0x69)
  | .lutld r => some (r.view 0x6A)
  | .hash64 r => some (r.view 0x6B)
  | .tmma r => some (r.view 0x70)
  | .tacc r => some (r.view 0x71)
  | .tld r => some (r.view 0x72)
  | .tst r => some (r.view 0x73)
  | .tadd r => some (r.view 0x74)
  | .tmul r => some (r.view 0x75)
  | .tmax r => some (r.view 0x76)
  | .tscale r => some (r.view 0x77)
  | .texp r => some (r.view 0x78)
  | .tred r => some (r.view 0x79)
  | .ttrans r => some (r.view 0x7A)
  | .tcvt r => some (r.view 0x7B)
  | .tfill r => some (r.view 0x7C)
  | .tcmpb r => some (r.view 0x7D)
  | .tbias r => some (r.view 0x7E)
  | .tzero r => some (r.view 0x7F)
  | .tgath r => some (r.view 0x80)
  | .tscat r => some (r.view 0x81)
  | .tcopy r => some (r.view 0x82)
  | .tslice r => some (r.view 0x83)
  | .href r => some (r.view 0x84)
  | .hdrop r => some (r.view 0x85)
  | .halloc r => some (r.view 0x86)
  | .hinfo r => some (r.view 0x87)
  | .tget r => some (r.view 0x88)
  | .tset r => some (r.view 0x89)
  | .tfull r => some (r.view 0x8A)
  | .tempty r => some (r.view 0x8B)
  | .ld r => some (r.view 0x90)
  | .st r => some (r.view 0x91)
  | .ldn r => some (r.view 0x92)
  | .stn r => some (r.view 0x93)
  | .ild r => some (r.view 0x94)
  | .ist r => some (r.view 0x95)
  | .iclr r => some (r.view 0x96)
  | .alr r => some (r.view 0x97)
  | .pref r => some (r.view 0x98)
  | .ldsw r => some (r.view 0x99)
  | .swset r => some (r.view 0x9A)
  | .wfence r => some (r.view 0x9B)
  | .swadd r => some (r.view 0x9C)
  | .cmbadd r => some (r.view 0xA0)
  | .cmband r => some (r.view 0xA1)
  | .cmbor r => some (r.view 0xA2)
  | .cmbxor r => some (r.view 0xA3)
  | .cmbmin r => some (r.view 0xA4)
  | .cmbmax r => some (r.view 0xA5)
  | .cmbfaddx r => some (r.view 0xA6)
  | .cmbfmin r => some (r.view 0xA7)
  | .cmbfmax r => some (r.view 0xA8)
  | .cmbcnt r => some (r.view 0xA9)
  | .cmbfadd r => some (r.view 0xAA)
  | .cmbtacc r => some (r.view 0xAB)
  | .qpush r => some (r.view 0xB0)
  | .qpop r => some (r.view 0xB1)
  | .qresv r => some (r.view 0xB2)
  | .qpub r => some (r.view 0xB3)
  | .qsteal r => some (r.view 0xB4)
  | .qarm r => some (r.view 0xB5)
  | .qstat r => some (r.view 0xB6)
  | .agcfg r => some (r.view 0xB7)
  | .agrun r => some (r.view 0xB8)
  | .bari r => some (r.view 0xB9)
  | .barv r => some (r.view 0xBA)
  | .barlog r => some (r.view 0xBB)
  | .stkbind r => some (r.view 0xBC)
  | .ktsbind r => some (r.view 0xBD)
  | .mcgset r => some (r.view 0xBE)
  | .xsend r => some (r.view 0xBF)
  | .trap r => some (r.view 0xC0)
  | .fret r => some (r.view 0xC1)
  | .fkill r => some (r.view 0xC2)
  | .park r => some (r.view 0xC3)
  | .unpark r => some (r.view 0xC4)
  | .mark r => some (r.view 0xC5)
  | .time r => some (r.view 0xC6)
  | .pgrd r => some (r.view 0xC7)
  | .pgwr r => some (r.view 0xC8)
  | .stcnt r => some (r.view 0xC9)
  | .ecall r => some (r.view 0xCA)
  | .cfgld r => some (r.view 0xCB)
  | .cfgcmt r => some (r.view 0xCC)
  | .gsrc r => some (r.view 0xCD)
  | .quiesce r => some (r.view 0xCE)
  | .halt r => some (r.view 0xCF)
  | .sxmac r => some (r.view 0xD0)
  | .sxpass r => some (r.view 0xD1)
  | .sxacc r => some (r.view 0xD2)
  | .sxout r => some (r.view 0xD3)
  | .sxwld r => some (r.view 0xD4)
  | .sxmov r => some (r.view 0xD5)
  | .sxloop r => some (r.view 0xD6)
  | .sxnop r => some (r.view 0xD7)
  | .preemptDrain _ _ => none
  | .preemptPark _ _ => none
  | .preemptParkAtCut _ _ => none
  | .preemptRestore _ _ => none
  | .dqptrCiWrite _ _ => none
  | .dqctlWrite _ _ => none
  | .ingressDelivery _ _ _ _ _ => none
  | .mplFrameReceive _ _ => none
  | .linkTraining _ _ => none
  | .scaleupLinkUp _ _ _ => none
  | .discRead _ _ => none
  | .launchCmd _ _ => none
  | .jrnEntry _ _ => none
  | .jrnPtrs _ => none
  | .regRead _ _ _ => none
  | .regWrite _ _ _ _ => none
  | .imgWrite _ _ _ _ => none
  | .imgCommit _ => none
  | .imgErase _ => none
  | .imgPstat _ => none
  | .imgPmode _ _ => none
  | .attQuote _ _ _ => none
  | .attCert _ _ => none
  | .ownClaim _ _ => none
  | .ownRenew _ _ => none
  | .ownOffer _ _ _ => none
  | .ownAccept _ _ => none
  | .ownRelease _ _ => none
  | .xinvPage _ _ => none
  | .xinvAll _ _ => none
  | .registerWrite _ _ _ _ => none
  | .dieRestart _ => none
  | .diePowerOff _ => none
  | .balancedWindowEnd _ => none
  | .thermalThrottle _ _ => none
  | .thermalUnthrottle _ _ => none
  | .thermalShutdown _ _ => none
  | .thermalRestart _ _ => none
  | .scaleupPortDown _ _ => none
  | .ethernetLinkChange _ _ => none
  | .routerHop => none
  | .bridgeForward => none
  | .tokenArrival => none
  | .queueDestinationAppend => none
  | .markerArrival => none
  | .externalAnswerReturn => none
  | .rptCopy => none
  | .allocRequest => none
  | .allocGrant => none
  | .releaseNotice => none
  | .releaseComplete => none
  | .spillComplete => none
  | .spillMatcherToken => none
  | .restoreStartSpontaneous => none
  | .restoreComplete => none
  | .macroStart => none
  | .macroBoundary => none
  | .macroComplete => none
  | .waveRequestArrival => none
  | .homeAccess => none
  | .memoryReply => none
  | .egressConfirm => none
  | .requestTimeout => none
  | .walkReadReturn => none
  | .syncCountArrival => none
  | .scrubWord => none
  | .agElement => none
  | .agStreamComplete => none
  | .copyTrigger => none
  | .copyElements => none
  | .copyComplete => none
  | .handlerTokenSend => none
  | .holdCountExpiry => none
  | .probeHop => none
  | .framedryDetect => none
  | .starvedDetect => none
  | .preemptQuiesced => none
  | .preemptWithdrawalEnd => none
  | .preemptSaveComplete => none
  | .preemptEscalate => none
  | .preemptRestoreComplete => none
  | .policyPreemption => none
  | .launchToken => none
  | .launchCheck => none
  | .launchAging => none
  | .launchDispatch => none
  | .launchPlace => none
  | .launchLoad => none
  | .launchStart => none
  | .cfgCommitFlip => none
  | .sxwldWeightToken => none
  | .converterTransfer => none
  | .dmaDataToken => none
  | .dmaCommandToken => none
  | .dmaCommandComplete => none
  | .xsendRoute => none
  | .channelRemove => none
  | .hostRequest => none
  | .modeChangeEffect => none
  | .electionWindowEnd => none
  | .leaseLapse => none
  | .xinvComplete => none
  | .frread => none
  | .qbar => none
  | .xreg => none
  | .powerOn => none
  | .bootVerify => none
  | .bootScrub => none
  | .stallCounterCycle => none

/-! ### Type codes (R86, R62) -/

/-- TY is one of the integer codes 0x0 to 0x7. -/
def tyIsInt (t : Nat) : Bool := t < 8
/-- TY is one of the float codes 0x8 to 0xD. -/
def tyIsFloat (t : Nat) : Bool := 8 ≤ t && t ≤ 13
/-- Lane width in bits (R62, R86). -/
def tyWidth (t : Nat) : Nat :=
  match t with
  | 2 | 3 | 8 | 13 => 32
  | 4 | 5 | 9 | 10 => 16
  | 6 | 7 | 11 | 12 => 8
  | _ => 64
/-- Lane count (R184). -/
def tyLanes (t : Nat) : Nat :=
  match t with
  | 2 | 3 | 8 => 2
  | 4 | 5 | 9 | 10 => 4
  | 6 | 7 | 11 | 12 => 8
  | _ => 1
/-- The signed integer codes are the even ones (R86). -/
def tySigned (t : Nat) : Bool := t < 8 && t % 2 == 0

/-! ### The record checks -/

/-- What is wrong with a record, in the order of R103; `typ` raises TYPE and the others ILLOP, with the cause of
R356. -/
inductive RecordError where
  | unassigned | typ | tag | field | slotSpan | literal
  deriving DecidableEq, Repr, Inhabited

/-- R65: codes 0 to 4 are rounding modes; R91: NSAT only where the destination format is E4M3 or E5M2. -/
def rmOk (opf : Nat) (nsat : Bool) : Bool := opf % 8 ≤ 4 && (opf < 8 || nsat)

/-- R182: the rounding field that a conversion from TY `a` to TY `b` admits. -/
def cvtOpfOk (a b opf : Nat) : Bool :=
  if a == b || a == 14 || b == 14 then opf == 0
  else if tyIsFloat a && tyIsFloat b then rmOk opf (b == 11 || b == 12)
  else if tyIsFloat a then opf ≤ 3
  else if tyIsFloat b then rmOk opf (b == 11 || b == 12)
  else opf == 0

/-- R189: the pairs of `vunpk`. -/
def vunpkOk (a b : Nat) : Bool :=
  match a with
  | 6 => b == 4 || b == 9 || b == 10
  | 7 => b == 5 || b == 4 || b == 9 || b == 10
  | 11 | 12 => b == 9 || b == 10
  | 4 => b == 2 || b == 8
  | 5 => b == 3 || b == 2 || b == 8
  | 9 | 10 => b == 8
  | 2 => b == 0
  | 3 => b == 1 || b == 0
  | _ => false

/-- R91 and the per-instruction admissions: the OPF field of a record. [DESIGN CHOICE: log 96] -/
def opfOk (i : OpInfo) (v : RecView) : Bool :=
  let o := v.hdr.opf.toNat
  let ty := v.hdr.ty.toNat
  match i.opf with
  | .n | .is | .mem | .sform => o == 0
  | .rm | .sformRm => rmOk o (ty == 11 || ty == 12)
  | .rmNoSr => o % 8 ≤ 3 && rmOk o (ty == 11 || ty == 12)
  | .rmInt => if tyIsInt ty then o == 0 else rmOk o (ty == 11 || ty == 12)
  | .rmDot => if tyIsInt ty then o == 0 else rmOk o false
  | .cvt | .vpack => cvtOpfOk ty (v.lit % 16) o
  | .cvtsr => o % 8 == 4 && (o < 8 || (ty != v.lit % 16 && (v.lit % 16 == 11 || v.lit % 16 == 12)))
  | .isSat => o % 8 == 0
  | .isZdiv => o == 0 || o == 4
  | .cc m => o ≤ m
  | .memEf => o % 8 == 0
  | .ta => o % 2 == 0 && !(v.op == 0x71 && v.tp % 32 == 1 && tbit o 1)
  | .taCombine => o % 2 == 0 && !tbit o 2
  | .tn => (o == 0 || o == 2) && !(o == 2 && (v.op == 0x72 || v.op == 0x7C || v.op == 0x83))
  | .tr => rmOk o (v.op == 0x7B)

/-- R90: the NDEST codes of a record. -/
def ndestOk (i : OpInfo) (v : RecView) : Bool :=
  let n := v.hdr.ndest.toNat
  match i.outs with
  | .zero => n == 0
  | .one => n ≤ 1 || (n == 2 && (i.form == .d2 || i.form == .t))
  | .two => n ≤ 1 || n == 3
  | .both => n == 3
  | .waiter => n == 1

/-- R89: LITP only where the LIT column reads "op"; ARITY3 exactly where In is 3. -/
def litpOk (i : OpInfo) (v : RecView) : Bool :=
  let admits := match i.lit with
    | .op | .opMax _ => true
    | _ => false
  (!v.hdr.litp || admits) && (v.hdr.arity3 == (i.ins == .ports 3))

/-- Whether the record's form has a LIT field (R85, R88). -/
def formHasLit (f : Form) : Bool := f == .d2 || f == .d1 || f == .c

/-- R87 and R88: the TG codes of a record (R140 for `loopout`). -/
def tgOk (i : OpInfo) (v : RecView) : Bool :=
  let t := v.hdr.tg.toNat
  if i.form == .s then t == 0
  else if v.op == 0x12 then t == 4
  else if v.op == 0x13 then t == 3
  else if v.op == 0x10 || v.op == 0x14 || v.op == 0x15 || v.op == 0x18 || v.op == 0x1A || v.op == 0x1D then t == 0
  else if v.hdr.ndest == 0 then t == 0
  else if t ≥ 7 || t == 4 then false
  else if t == 5 then formHasLit i.form && i.lit == .none
  else if t == 3 then !(v.op == 0x19)
  else true

/-- The slots a combine keeps (R242, R243): the count is in LIT[7:3] on `cmbtacc` and in LIT otherwise. -/
def combineSpan (op lit : Nat) : Nat :=
  let base := if op == 0xA6 then 6 else if op == 0xAB then 1 else 2
  let count := if op == 0xAB then lit / 8 else lit
  if count == 0 then base + 1 else base

/-- R32: the token operands of a node. -/
def tokenOperands (i : OpInfo) (v : RecView) : Nat :=
  match i.ins with
  | .ports n => n - (if v.hdr.litp then 1 else 0)
  | .either => 1
  | .combine => 1

/-- R93: the slots the record uses, counted from SLOT. -/
def slotSpan (i : OpInfo) (v : RecView) : Nat :=
  if v.op == 0x97 then 8
  else match i.ins with
    | .combine => combineSpan v.op.toNat v.lit
    | .either => 0
    | .ports _ => tokenOperands i v - 1

/-- R93: a span starts at SLOT 4 or above and ends at slot 255; a record that uses no slot has SLOT 0. -/
def slotOk (i : OpInfo) (v : RecView) : Bool :=
  let n := slotSpan i v
  if n == 0 then v.slot == 0 else 4 ≤ v.slot && v.slot + n ≤ 256

/-- R94: the LIT bits that a `const` of TY `ty` may set. -/
def constLitOk (ty lit : Nat) : Bool :=
  match ty with
  | 0 | 1 | 14 => true
  | 8 | 13 => lit < 2 ^ 32
  | _ => lit < 2 ^ tyWidth ty

/-- R94 to R96: the LIT, TP and wave fields of a record. [DESIGN CHOICE: log 112] -/
def litOk (i : OpInfo) (v : RecView) : Bool :=
  let ty := v.hdr.ty.toNat
  let lit : Bool :=
    if v.hdr.tg == 5 then v.lit < 4
    else match i.lit with
      | .none => v.lit == 0
      | .op => true
      | .opMax m => !v.hdr.litp || v.lit ≤ m
      | .const => constLitOk ty v.lit
      | .range lo hi => lo ≤ v.lit && v.lit ≤ hi && !(v.op == 0x59 && tyLanes v.lit != 2 * tyLanes ty)
      | .mask => v.lit < 2 ^ tyLanes ty
      | .lane => v.lit < tyLanes ty
      | .vunpk => vunpkOk ty v.lit
      | .lutld => v.lit / 4 % 32 == 0
      | .barlog => v.lit / 32 ≤ 5
      | .sform => true
  let shape := v.tp % 32
  let tp : Bool :=
    if i.form != .t then true
    else
      let shapeOk : Bool := match v.op.toNat with
        | 0x70 => shape % 2 == 0
        | 0x71 | 0x7E => shape ≤ 1
        | 0x78 | 0x79 => shape ≤ 3
        | 0x7D => shape ≤ 5
        | _ => shape == 0
      let high : Bool := match i.opf with
        | .ta => true
        | .tr => v.tp / 32 % 4 == 0
        | _ => v.op == 0x7F || v.tp / 32 == 0
      shapeOk && high
  let wave : Bool :=
    if i.form != .m then true
    else if v.op == 0x92 || v.op == 0x93 || v.op == 0x98 then v.pred == 255 && v.own == 255 && v.succ == 255
    else v.own != 255 && (v.op != 0x9B || v.off == 0)
  lit && tp && wave

/-- R279: what an S-form record may set, by opcode: the links it uses, its SUB bits and its count. -/
def staticOk (v : RecView) : Bool :=
  let noIn := v.sin == 0
  let noOut := v.sout == 0
  let counted := v.scnt != 0
  v.rsv == 0 && v.sin ≤ 5 && v.sout ≤ 5 &&
  match v.op.toNat with
  | 0xD0 => v.sub ≤ 3 && counted
  | 0xD1 => v.sub == 0 && counted
  | 0xD2 => noOut && v.sub ≤ 1 && counted
  | 0xD3 => v.sub ≤ 1 && counted
  | 0xD4 => noIn && noOut && v.sub == 0 && counted && v.scnt ≤ 256
  | 0xD5 => v.sub ≤ 1 && counted && (if v.sub == 0 then noOut else noIn)
  | 0xD6 => noIn && noOut && v.sub == 0 && v.slit % 64 < v.spos
  | _ => noIn && noOut && v.sub == 0 && counted

/-- R103 checks 1 and 3 to 7 in order, and for an S-form record the checks of R100 and R279 that Urupo and `cfgcmt`
make; `none` when the record passes. -/
def recordError (v : RecView) : Option RecordError :=
  match opInfo v.op.toNat with
  | none => some .unassigned
  | some i =>
    if !i.tys.getLsbD v.hdr.ty.toNat then some .typ
    else if !tgOk i v then some .tag
    else if i.form == .s then
      if v.hdr.litp || v.hdr.ndest != 0 || v.hdr.arity3 || !opfOk i v then some .field
      else if !staticOk v then some .literal
      else none
    else if !(litpOk i v && ndestOk i v && opfOk i v) then some .field
    else if !slotOk i v then some .slotSpan
    else if !litOk i v then some .literal
    else none

/-- TY and OPF as numbers, and the SAT and ZDIV bits of class IS (R91). -/
def RecView.tyN (v : RecView) : Nat := v.hdr.ty.toNat
def RecView.opfN (v : RecView) : Nat := v.hdr.opf.toNat
def RecView.sat (v : RecView) : Bool := tbit v.opfN 3
def RecView.zdiv (v : RecView) : Bool := tbit v.opfN 2
/-- EF of a record (R91). -/
def RecView.ef (v : RecView) : Bool := tbit v.opfN 3

/-- R102: the supervisor-only records. -/
def supervisorOnly (v : RecView) : Bool :=
  v.op == 0xCB || v.op == 0xCC || v.op == 0xCD || v.op == 0x96 || v.op == 0xBE || (v.op == 0x6A && tbit v.lit 7)

end Sys2Proof
end

