-- ==== Sys2Proof/Machine/NumFmt.lean ====
section
/-!
DEFINITION. Floating-point formats, exact values and rounding (02_number_formats.md R57 to R73), and the transcendental
functions (R195, R196). A value is exact: a sign, a magnitude and a power of two. One function rounds.
-/
namespace Sys2Proof.Machine

/-! ### Flags (R44, R73) -/

/-- The sticky bits of ELSTAT[7:0]. -/
abbrev Flags := BitVec 8
def fNX : Flags := 0x01#8
def fUF : Flags := 0x02#8
def fOF : Flags := 0x04#8
def fDZ : Flags := 0x08#8
def fNV : Flags := 0x10#8
def fSAT : Flags := 0x80#8

/-! ### Formats (R58) -/

/-- How a format spells NaN and infinity. -/
inductive Specials where
  | ieee | quietIeee | topOnly | none
  deriving DecidableEq, Repr, Inhabited

/-- A floating-point format: exponent and mantissa bits and the bias. -/
structure Fmt where
  eb : Nat
  mb : Nat
  bias : Nat
  sp : Specials
  deriving DecidableEq, Repr, Inhabited

def fp32 : Fmt := ⟨8, 23, 127, .ieee⟩
def bf16 : Fmt := ⟨8, 7, 127, .ieee⟩
def fp16 : Fmt := ⟨5, 10, 15, .ieee⟩
def e5m2 : Fmt := ⟨5, 2, 15, .quietIeee⟩
def e4m3 : Fmt := ⟨4, 3, 7, .topOnly⟩
def e3m2 : Fmt := ⟨3, 2, 3, .none⟩
def e2m3 : Fmt := ⟨2, 3, 1, .none⟩
def e2m1 : Fmt := ⟨2, 1, 1, .none⟩

/-- The format of a float TY (R86). -/
def fmtOfTy (t : Nat) : Fmt :=
  match t with
  | 9 => bf16
  | 10 => fp16
  | 11 => e4m3
  | 12 => e5m2
  | _ => fp32

/-- The formats that saturate unless NSAT is set (R69). -/
def Fmt.narrow (f : Fmt) : Bool := f.eb + f.mb < 8
def Fmt.hasInf (f : Fmt) : Bool := f.sp == .ieee || f.sp == .quietIeee
/-- Exponent and mantissa bits of the largest finite value. -/
def Fmt.maxEnc (f : Fmt) : Nat :=
  match f.sp with
  | .ieee | .quietIeee => (2 ^ f.eb - 1) * 2 ^ f.mb - 1
  | .topOnly => 2 ^ (f.eb + f.mb) - 2
  | .none => 2 ^ (f.eb + f.mb) - 1
/-- The canonical NaN (R58); a format without NaN gives +0 (R69). -/
def Fmt.nan (f : Fmt) : Nat :=
  match f.sp with
  | .ieee | .quietIeee => (2 ^ f.eb - 1) * 2 ^ f.mb + 2 ^ (f.mb - 1)
  | .topOnly => 2 ^ (f.eb + f.mb) - 1
  | .none => 0
def Fmt.signed (f : Fmt) (neg : Bool) (x : Nat) : Nat := x + (if neg then 2 ^ (f.eb + f.mb) else 0)
def Fmt.inf (f : Fmt) (neg : Bool) : Nat := f.signed neg ((2 ^ f.eb - 1) * 2 ^ f.mb)

/-- A value: NaN (signalling or not), an infinity, or (-1)^neg * mag * 2^exp exactly. -/
inductive FVal where
  | nan (sig : Bool)
  | inf (neg : Bool)
  | fin (neg : Bool) (mag : Nat) (exp : Int)
  deriving DecidableEq, Repr, Inhabited

/-- The value that an encoding stands for (R58, R59). -/
def Fmt.value (f : Fmt) (x : Nat) : FVal :=
  let neg := tbit x (f.eb + f.mb)
  let e := fld x f.mb f.eb
  let m := fld x 0 f.mb
  let fin : FVal :=
    if e = 0 then .fin neg m (1 - (f.bias : Int) - f.mb) else .fin neg (2 ^ f.mb + m) ((e : Int) - f.bias - f.mb)
  match f.sp with
  | .none => fin
  | .topOnly => if e = 2 ^ f.eb - 1 ∧ m = 2 ^ f.mb - 1 then .nan false else fin
  | .quietIeee => if e = 2 ^ f.eb - 1 then (if m = 0 then .inf neg else .nan false) else fin
  | .ieee => if e = 2 ^ f.eb - 1 then (if m = 0 then .inf neg else .nan (m < 2 ^ (f.mb - 1))) else fin

/-! ### Rounding (R65 to R67) -/

/-- A rounding mode with what it needs: the mode of R65, NSAT of R69, and the 32 random bits of R67. -/
structure Rnd where
  mode : Nat := 0
  nsat : Bool := false
  bits : Nat := 0
  deriving DecidableEq, Repr, Inhabited

def rne : Rnd := {}

/-- A magnitude: the exact value is `mag * 2^exp`, or lies strictly between that and `(mag + 1) * 2^exp` when `more`
is set. -/
structure Mag where
  mag : Nat := 0
  exp : Int := 0
  more : Bool := false
  deriving DecidableEq, Repr, Inhabited

/-- The multiple of 2^q below the magnitude, and whether the magnitude rounds away from zero to the next one (R65,
R67); the last component says that the magnitude is not a multiple of 2^q. -/
def Mag.roundAt (r : Rnd) (neg : Bool) (x : Mag) (q : Int) : Nat × Bool × Bool :=
  if q ≤ x.exp then
    (x.mag * 2 ^ (x.exp - q).toNat, x.more && ((r.mode == 2 && !neg) || (r.mode == 3 && neg)), x.more)
  else
    let sh := (q - x.exp).toNat
    let hi := x.mag / 2 ^ sh
    let rem := x.mag % 2 ^ sh
    let inexact := rem != 0 || x.more
    let half := 2 ^ (sh - 1)
    let up : Bool :=
      match r.mode with
      | 0 => decide (half < rem) || (rem == half && (x.more || hi % 2 == 1))
      | 2 => inexact && !neg
      | 3 => inexact && neg
      | 4 => inexact && decide (2 ^ 32 ≤ rem * 2 ^ 32 / 2 ^ sh + r.bits)
      | _ => false
    (hi, up, inexact)

/-- The exponent of the highest one bit of a nonzero magnitude. -/
def Mag.top (x : Mag) : Int := (Nat.log2 x.mag : Int) + x.exp

/-- R66, R69: what replaces a finite result beyond the largest finite value. -/
def Fmt.overflow (f : Fmt) (r : Rnd) (neg : Bool) : Nat × Flags :=
  if f.narrow && !(r.nsat && (f.sp == .topOnly || f.sp == .quietIeee)) then (f.signed neg f.maxEnc, fSAT ||| fNX)
  else
    let toMax := r.mode == 1 || (r.mode == 2 && neg) || (r.mode == 3 && !neg)
    if toMax then (f.signed neg f.maxEnc, fOF ||| fNX)
    else if f.hasInf then (f.inf neg, fOF ||| fNX)
    else (f.nan, fOF ||| fNX)

/-- Round an exact finite magnitude to a format (R65 to R67, R69, R73). -/
def Fmt.round (f : Fmt) (r : Rnd) (neg : Bool) (x : Mag) : Nat × Flags :=
  if x.mag = 0 ∧ !x.more then (f.signed neg 0, 0)
  else
    let emin : Int := 1 - f.bias
    let e := x.top
    let q := max e emin - f.mb
    let (hi, up, inexact) := x.roundAt r neg q
    let m := if up then hi + 1 else hi
    let enc := (q - (emin - f.mb)).toNat * 2 ^ f.mb + m
    if enc > f.maxEnc then f.overflow r neg
    else
      let tiny : Bool :=
        if e ≥ emin then false
        else
          let (h, u, _) := x.roundAt r neg (e - f.mb)
          !(e == emin - 1 && u && h + 1 == 2 ^ (f.mb + 1))
      (f.signed neg enc, (if inexact then fNX else 0) ||| (if inexact && tiny then fUF else 0))

/-- R69: an infinite result. -/
def Fmt.packInf (f : Fmt) (r : Rnd) (neg : Bool) : Nat × Flags :=
  if f.hasInf && (!f.narrow || r.nsat) then (f.inf neg, 0)
  else if f.sp == .topOnly && r.nsat then (f.nan, fOF)
  else (f.signed neg f.maxEnc, fSAT)

/-- R69, R72: a NaN result. -/
def Fmt.packNan (f : Fmt) : Nat × Flags := (f.nan, if f.sp == .none then fNV else 0)

/-- A value into a format, with the flags of its rounding; a signalling NaN sets NV (R73). -/
def Fmt.pack (f : Fmt) (r : Rnd) (v : FVal) : Nat × Flags :=
  match v with
  | .nan sig => let p := f.packNan; (p.1, p.2 ||| (if sig then fNV else 0))
  | .inf neg => f.packInf r neg
  | .fin neg m e => f.round r neg { mag := m, exp := e }

/-! ### Exact arithmetic -/

def FVal.isNan : FVal → Bool
  | .nan _ => true
  | _ => false
def FVal.isSig : FVal → Bool
  | .nan s => s
  | _ => false
def FVal.neg : FVal → FVal
  | .nan s => .nan s
  | .inf n => .inf (!n)
  | .fin n m e => .fin (!n) m e
def FVal.sign : FVal → Bool
  | .nan _ => false
  | .inf n => n
  | .fin n _ _ => n
def FVal.isZero : FVal → Bool
  | .fin _ 0 _ => true
  | _ => false

/-- A signed multiple of 2^q. -/
def scaled (neg : Bool) (m : Nat) (e q : Int) : Int :=
  let a : Int := (m * 2 ^ (e - q).toNat : Nat)
  if neg then -a else a

/-- The exact sum of finite values, with the sign of an exact zero under the mode (R66): a sum of zeros of one sign
keeps it. -/
def sumFin (mode : Nat) (l : List (Bool × Nat × Int)) : Bool × Mag :=
  let q := l.foldl (fun q t => min q t.2.2) 0
  let s := l.foldl (fun s t => s + scaled t.1 t.2.1 t.2.2 q) (0 : Int)
  if s = 0 then
    let neg := if l.all (fun t => t.2.1 == 0 && t.1) then !l.isEmpty
               else if l.all (fun t => t.2.1 == 0 && !t.1) then false else mode == 3
    (neg, { mag := 0, exp := 0 })
  else (decide (s < 0), { mag := s.natAbs, exp := q })

/-- The exact sum of values: NaN from a NaN, and from infinities of both signs, which is invalid beside a NaN too (R72, R81,
R190). -/
def sumVals (mode : Nat) (l : List FVal) : Except (FVal × Flags) (Bool × Mag) :=
  let sig := l.any FVal.isSig
  let pinf := l.any (· == .inf false)
  let ninf := l.any (· == .inf true)
  if l.any FVal.isNan then .error (.nan false, if sig || (pinf && ninf) then fNV else 0)
  else if pinf && ninf then .error (.nan false, fNV)
  else if pinf then .error (.inf false, 0)
  else if ninf then .error (.inf true, 0)
  else .ok (sumFin mode (l.filterMap fun v => match v with | .fin n m e => some (n, m, e) | _ => none))

/-- The exact product of two values (R72: 0 times infinity is invalid). -/
def mulVals (a b : FVal) : FVal × Flags :=
  let sig := if a.isSig || b.isSig then fNV else 0
  match a, b with
  | .nan _, _ | _, .nan _ => (.nan false, sig)
  | .inf n, .inf k => (.inf (n != k), 0)
  | .inf n, .fin k m _ => if m = 0 then (.nan false, fNV) else (.inf (n != k), 0)
  | .fin k m _, .inf n => if m = 0 then (.nan false, fNV) else (.inf (n != k), 0)
  | .fin n m e, .fin k l g => (.fin (n != k) (m * l) (e + g), 0)

/-- Round what a sum gave, in a format. -/
def Fmt.packSum (f : Fmt) (r : Rnd) (s : Except (FVal × Flags) (Bool × Mag)) : Nat × Flags :=
  match s with
  | .error (v, fl) => let p := f.pack r v; (p.1, p.2 ||| fl)
  | .ok (neg, x) => f.round r neg x

/-- a + b, one rounding (R175). -/
def Fmt.add (f : Fmt) (r : Rnd) (a b : Nat) : Nat × Flags := f.packSum r (sumVals r.mode [f.value a, f.value b])
def Fmt.sub (f : Fmt) (r : Rnd) (a b : Nat) : Nat × Flags := f.packSum r (sumVals r.mode [f.value a, (f.value b).neg])
def Fmt.mul (f : Fmt) (r : Rnd) (a b : Nat) : Nat × Flags :=
  let (v, fl) := mulVals (f.value a) (f.value b)
  let p := f.pack r v
  (p.1, p.2 ||| fl)
/-- a * b + c, one rounding; a signalling c sets NV even where the product is already invalid. -/
def Fmt.fma (f : Fmt) (r : Rnd) (a b c : Nat) : Nat × Flags :=
  let (v, fl) := mulVals (f.value a) (f.value b)
  let p := f.packSum r (sumVals r.mode [v, f.value c])
  (p.1, p.2 ||| fl)

/-- The quotient of nonzero finite magnitudes to 160 bits, which is more than any format and R67 look at. -/
def divMag (m : Nat) (e : Int) (n : Nat) (g : Int) : Mag :=
  { mag := m * 2 ^ 160 / n, exp := e - g - 160, more := m * 2 ^ 160 % n != 0 }

/-- a / b (R72, R73, R175). -/
def Fmt.div (f : Fmt) (r : Rnd) (a b : Nat) : Nat × Flags :=
  let x := f.value a
  let y := f.value b
  let sig := if x.isSig || y.isSig then fNV else 0
  match x, y with
  | .nan _, _ | _, .nan _ => (f.nan, sig)
  | .inf _, .inf _ => (f.nan, fNV)
  | .inf n, .fin k _ _ => f.packInf r (n != k)
  | .fin n _ _, .inf k => (f.signed (n != k) 0, 0)
  | .fin n m e, .fin k l g =>
    if l = 0 then
      if m = 0 then (f.nan, fNV)
      else let p := f.packInf r (n != k); (p.1, p.2 ||| fDZ)
    else if m = 0 then (f.signed (n != k) 0, 0)
    else f.round r (n != k) (divMag m e l g)

/-- The integer square root, bit by bit from bit `k - 1` down; `r` is the root found so far. -/
def isqrtFrom (k : Nat) (n r : Nat) : Nat :=
  match k with
  | 0 => r
  | k + 1 => let c := r + 2 ^ k; if c * c ≤ n then isqrtFrom k n c else isqrtFrom k n r

/-- The integer square root of a number below 2^512. -/
def isqrt (n : Nat) : Nat := isqrtFrom 256 n 0

/-- √a (R72, R175). -/
def Fmt.sqrt (f : Fmt) (r : Rnd) (a : Nat) : Nat × Flags :=
  match f.value a with
  | .nan s => (f.nan, if s then fNV else 0)
  | .inf n => if n then (f.nan, fNV) else f.packInf r false
  | .fin n m e =>
    if m = 0 then (f.signed n 0, 0)
    else if n then (f.nan, fNV)
    else
      let odd := e % 2 != 0
      let w := (if odd then 2 * m else m) * 2 ^ 200
      let g := (if odd then e - 1 else e) - 200
      let s := isqrt w
      f.round r false { mag := s, exp := g / 2, more := s * s != w }

/-- 1 / √a (R175). -/
def Fmt.rsqrt (f : Fmt) (r : Rnd) (a : Nat) : Nat × Flags :=
  match f.value a with
  | .nan s => (f.nan, if s then fNV else 0)
  | .inf n => if n then (f.nan, fNV) else (f.signed false 0, 0)
  | .fin n m e =>
    if m = 0 then let p := f.packInf r n; (p.1, p.2 ||| fDZ)
    else if n then (f.nan, fNV)
    else
      let odd := e % 2 != 0
      let m2 := if odd then 2 * m else m
      let g := if odd then e - 1 else e
      let s := isqrt (2 ^ 320 / m2)
      f.round r false { mag := s, exp := -160 - g / 2, more := s * s * m2 != 2 ^ 320 }

/-- 1 / a (R175). -/
def Fmt.recip (f : Fmt) (r : Rnd) (a : Nat) : Nat × Flags :=
  match f.value a with
  | .nan s => (f.nan, if s then fNV else 0)
  | .inf n => (f.signed n 0, 0)
  | .fin n m e =>
    if m = 0 then let p := f.packInf r n; (p.1, p.2 ||| fDZ)
    else f.round r n (divMag 1 0 m e)

/-- Compare two values that are not NaN: 0 less, 1 equal, 2 greater; zeros of both signs are equal. -/
def cmpVals (a b : FVal) : Nat :=
  match a, b with
  | .inf n, .inf k => if n == k then 1 else if n then 0 else 2
  | .inf n, _ => if n then 0 else 2
  | _, .inf k => if k then 2 else 0
  | .fin n m e, .fin k l g =>
    let q := min e g
    let x := scaled n m e q
    let y := scaled k l g q
    if x < y then 0 else if x = y then 1 else 2
  | _, _ => 1

/-- R176: `fmin` (`big` false) and `fmax`. -/
def Fmt.minmax (f : Fmt) (big : Bool) (a b : Nat) : Nat × Flags :=
  let x := f.value a
  let y := f.value b
  let fl := if x.isSig || y.isSig then fNV else 0
  if x.isNan && y.isNan then (f.nan, fl)
  else if x.isNan then (b, fl)
  else if y.isNan then (a, fl)
  else
    let less := cmpVals x y == 0 || (cmpVals x y == 1 && x.sign && !y.sign)
    (if less != big then a else if cmpVals x y == 1 && x.sign == y.sign then a else b, fl)

/-- R178: the class code. -/
def Fmt.classify (f : Fmt) (a : Nat) : Nat :=
  match f.value a with
  | .nan s => if s then 8 else 9
  | .inf n => if n then 0 else 7
  | .fin n m _ =>
    if m = 0 then (if n then 3 else 4)
    else if fld a f.mb f.eb = 0 then (if n then 2 else 5)
    else (if n then 1 else 6)

/-- An exact value rounded to an integer under a mode, with whether it was inexact. -/
def intRound (r : Rnd) (neg : Bool) (m : Nat) (e : Int) : Nat × Bool :=
  let (hi, up, inexact) := ({ mag := m, exp := e } : Mag).roundAt r neg 0
  (if up then hi + 1 else hi, inexact)

/-- R180: `frnd`. -/
def Fmt.rint (f : Fmt) (r : Rnd) (a : Nat) : Nat × Flags :=
  match f.value a with
  | .nan s => (f.nan, if s then fNV else 0)
  | .inf _ => (a, 0)
  | .fin n m e =>
    if m = 0 then (a, 0)
    else
      let (k, inexact) := intRound r n m e
      ((f.round rne n { mag := k, exp := 0 }).1, if inexact then fNX else 0)

/-- R70: a float to an integer of `w` bits. -/
def toInt (f : Fmt) (r : Rnd) (sgn : Bool) (w : Nat) (a : Nat) : Nat × Flags :=
  let lo : Int := if sgn then -(2 ^ (w - 1) : Int) else 0
  let hi : Int := if sgn then (2 ^ (w - 1) : Int) - 1 else (2 ^ w : Int) - 1
  let enc := fun (x : Int) => (x % (2 ^ w : Int)).toNat
  match f.value a with
  | .nan _ => (0, fNV)
  | .inf n => (enc (if n then lo else hi), fNV ||| fSAT)
  | .fin n m e =>
    let (k, inexact) := intRound r n m e
    let x : Int := if n then -(k : Int) else k
    if x < lo then (enc lo, fNV ||| fSAT)
    else if x > hi then (enc hi, fNV ||| fSAT)
    else (enc x, if inexact then fNX else 0)

/-- R70: an integer to a float. -/
def Fmt.ofInt (f : Fmt) (r : Rnd) (x : Int) : Nat × Flags := f.round r (decide (x < 0)) { mag := x.natAbs, exp := 0 }

/-! ### Transcendental functions (R195, R196): fixed point with 1,100 fraction bits -/

/-- [DESIGN CHOICE: log 35] -/
def fixBits : Nat := 1100
def fixOne : Nat := 2 ^ fixBits
/-- π/2 and ln 2, truncated to 1,100 fraction bits. -/
def fixHalfPi : Nat :=
  0x33F4B5D3E4822F8963FCC9250CCA3D9C8B67B8400F97142C77E0B31B4906C38ABA734D22C7F51FA499EBF06C +
    0x614DBE4BE286E9FC26ADADAA3848BC90B6AECC4BCFD8DE89885D34C6FDAD617FEB96DE80D6FDBDC70D7F6B51 * 2 ^ 352 +
    0x18469898CC51701B839A252049C1114CF98E804177D4C76273644A29410F31C6809BBDF2A33679A748636605 * 2 ^ 704 +
    0x1921FB54442D * 2 ^ 1056
def fixLn2 : Nat :=
  0x7F74B72CE87B19D6548CAF5DFA6BD38303248655FA1872F20E3A2DA2D97C50F3FD5C607F4CA11FB5BFB90610 +
    0xEAE35C138214427573B291169B8253E96CA16224AE8C51ACBDA11317C387EB9EA9BC3B136603B256FA0EC765 * 2 ^ 352 +
    0xF79ABC9E3B39803F2F6AF40F343267298B62D8A0D175B8BAAFA2BE7B876206DEBAC98559552FB4AFA1B10ED2 * 2 ^ 704 +
    0xB17217F7D1C * 2 ^ 1056

/-- The sum of `t / (n (n+1))…`: the Taylor series whose next term multiplies by `x2` and divides by `k (k + 1)`, with
alternating sign. -/
def trigSeries (fuel : Nat) (term x2 k : Nat) (neg : Bool) (acc : Int) : Int :=
  match fuel with
  | 0 => acc
  | n + 1 =>
    let acc := if neg then acc - term else acc + term
    trigSeries n (term * x2 / fixOne / (k * (k + 1))) x2 (k + 2) (!neg) acc

/-- sin and cos of a fixed-point argument in [0, π/2). -/
def fixSin (x : Nat) : Nat := (trigSeries 220 x (x * x / fixOne) 2 false 0).toNat
def fixCos (x : Nat) : Nat := (trigSeries 220 fixOne (x * x / fixOne) 1 false 0).toNat

/-- e^x for a fixed-point x in [0, 1). -/
def expSeries (fuel : Nat) (term x k acc : Nat) : Nat :=
  match fuel with
  | 0 => acc
  | n + 1 => expSeries n (term * x / fixOne / k) x (k + 1) (acc + term)
def fixExp (x : Nat) : Nat := expSeries 240 fixOne x 1 0

/-- The series of atanh: z + z^3/3 + z^5/5 + … -/
def atanhSeries (fuel : Nat) (pow z2 k acc : Nat) : Nat :=
  match fuel with
  | 0 => acc
  | n + 1 => atanhSeries n (pow * z2 / fixOne) z2 (k + 2) (acc + pow / k)
/-- ln m for a fixed-point m in [1, 2). -/
def fixLn (m : Nat) : Nat :=
  let z := (m - fixOne) * fixOne / (m + fixOne)
  2 * atanhSeries 360 z (z * z / fixOne) 1 0

/-- A finite magnitude in fixed point, exactly (no operand has bits below 2^-149). -/
def toFix (m : Nat) (e : Int) : Nat := m * 2 ^ (e + fixBits).toNat

/-- An irrational result known to 1,100 fraction bits, times 2^k. [DESIGN CHOICE: log 35] -/
def irr (x : Nat) (k : Int) : Mag := { mag := x, exp := k - fixBits, more := true }

/-- e^x for x = ± a fixed-point magnitude below 1,024: the fraction part and the power of two. -/
def expParts (neg : Bool) (x : Nat) : Nat × Int :=
  let k := x / fixLn2
  let r := x % fixLn2
  if neg then (fixExp (fixLn2 - r), -(k : Int) - 1) else (fixExp r, k)

/-- The quadrant of an angle and what remains of it. -/
def quadrant (x : Nat) : Nat × Nat := (x / fixHalfPi % 4, x % fixHalfPi)

/-- The sign and magnitude of sin or cos of a positive angle. -/
def trig (isCos : Bool) (x : Nat) : Bool × Nat :=
  let (q, r) := quadrant x
  match (if isCos then q + 1 else q) % 4 with
  | 0 => (false, fixSin r)
  | 1 => (false, fixCos r)
  | 2 => (true, fixSin r)
  | _ => (true, fixCos r)

def Fmt.sin (f : Fmt) (a : Nat) : Nat × Flags :=
  match f.value a with
  | .nan s => (f.nan, if s then fNV else 0)
  | .inf _ => (f.nan, fNV)
  | .fin n m e =>
    if m = 0 then (a, 0)
    else let (s, x) := trig false (toFix m e); f.round rne (s != n) (irr x 0)

def Fmt.cos (f : Fmt) (a : Nat) : Nat × Flags :=
  match f.value a with
  | .nan s => (f.nan, if s then fNV else 0)
  | .inf _ => (f.nan, fNV)
  | .fin _ m e =>
    if m = 0 then f.ofInt rne 1
    else let (s, x) := trig true (toFix m e); f.round rne s (irr x 0)

/-- A result beyond every format, and one below every format, of unknown digits. -/
def hugeMag : Mag := { mag := 1, exp := 4096, more := true }
def tinyMag : Mag := { mag := 1, exp := -4096, more := true }
/-- A value just below 1. -/
def nearOne : Mag := { mag := fixOne - 1, exp := -(fixBits : Int), more := true }

def Fmt.exp (f : Fmt) (a : Nat) : Nat × Flags :=
  match f.value a with
  | .nan s => (f.nan, if s then fNV else 0)
  | .inf n => if n then (0, 0) else (f.inf false, 0)
  | .fin n m e =>
    if m = 0 then f.ofInt rne 1
    else if toFix m e ≥ 512 * fixOne then f.round rne false (if n then tinyMag else hugeMag)
    else let (x, k) := expParts n (toFix m e); f.round rne false (irr x k)

def Fmt.exp2 (f : Fmt) (a : Nat) : Nat × Flags :=
  match f.value a with
  | .nan s => (f.nan, if s then fNV else 0)
  | .inf n => if n then (0, 0) else (f.inf false, 0)
  | .fin n m e =>
    let x := toFix m e
    if x ≥ 512 * fixOne then f.round rne false (if n then { tinyMag with more := true } else hugeMag)
    else
      let k := x / fixOne
      let r := x % fixOne
      if r = 0 then f.round rne false { mag := 1, exp := if n then -(k : Int) else k }
      else if n then f.round rne false (irr (fixExp ((fixOne - r) * fixLn2 / fixOne)) (-(k : Int) - 1))
      else f.round rne false (irr (fixExp (r * fixLn2 / fixOne)) k)

def Fmt.log2 (f : Fmt) (a : Nat) : Nat × Flags :=
  match f.value a with
  | .nan s => (f.nan, if s then fNV else 0)
  | .inf n => if n then (f.nan, fNV) else (f.inf false, 0)
  | .fin n m e =>
    if m = 0 then (f.inf true, fDZ)
    else if n then (f.nan, fNV)
    else
      let b := Nat.log2 m
      let k : Int := e + b
      if m = 2 ^ b then f.ofInt rne k
      else
        let l : Int := (fixLn (toFix m (-(b : Int))) * fixOne / fixLn2 : Nat)
        let t := k * (fixOne : Int) + l
        f.round rne (decide (t < 0)) (if t < 0 then irr (t.natAbs - 1) 0 else irr t.natAbs 0)

def Fmt.tanh (f : Fmt) (a : Nat) : Nat × Flags :=
  match f.value a with
  | .nan s => (f.nan, if s then fNV else 0)
  | .inf n => (f.signed n (f.ofInt rne 1).1, 0)
  | .fin n m e =>
    if m = 0 then (a, 0)
    else if toFix m e ≥ 256 * fixOne then f.round rne n nearOne
    else
      let (x, k) := expParts false (2 * toFix m e)
      let y := x * 2 ^ k.toNat
      f.round rne n (irr ((y - fixOne) * fixOne / (y + fixOne)) 0)

def Fmt.sigm (f : Fmt) (a : Nat) : Nat × Flags :=
  match f.value a with
  | .nan s => (f.nan, if s then fNV else 0)
  | .inf n => if n then (0, 0) else f.ofInt rne 1
  | .fin n m e =>
    if m = 0 then f.round rne false { mag := 1, exp := -1 }
    else if toFix m e ≥ 512 * fixOne then f.round rne false (if n then tinyMag else nearOne)
    else
      let (x, k) := expParts false (toFix m e)
      let y := x * 2 ^ k.toNat
      if n then f.round rne false (irr (fixOne * fixOne / (fixOne + y)) 0)
      else f.round rne false (irr (y * fixOne / (fixOne + y)) 0)

/-! ### hash64 (R203) -/

def hash64 (seed x : Word) : Word :=
  let h := x ^^^ seed.rotateLeft 32
  let h := (h + 0x6A3D95C10B7E42F7#64) * 0x9C35A1E76B2D4F89#64
  let h := (h ^^^ (h >>> 31)) * 0xE4D173B52A9F06C3#64
  h ^^^ (h >>> 29) ^^^ seed

/-- R67: the 32 random bits of an element of a frame. -/
def srBits (seed : Word) (fx eidx : Nat) : Nat :=
  (hash64 seed (BitVec.ofNat 64 (fx * 2 ^ 32 + eidx))).toNat % 2 ^ 32

end Sys2Proof.Machine
end

