-- ==== Sys2Proof/WellFormed.lean ====
section
/-!
DEFINITION. Which instructions a record can carry: a node instruction whose fields pass every check of R86 to R96
(the checks themselves are in Machine/Records.lean, beside the opcode map they read). A device event has no record.
-/
namespace Sys2Proof

/-- The instruction is a node instruction, its record passes the checks of R103 that look at the record alone, and
an S-form record holds 0 in its reserved bits (R100). -/
def Instr.WellFormed (i : Instr) : Prop :=
  match i.view with
  | none => False
  | some v => recordError v = none

def Instr.wellFormed (i : Instr) : Bool :=
  match i.view with
  | none => false
  | some v => recordError v == none

theorem Instr.wellFormed_iff (i : Instr) : i.wellFormed = true ↔ i.WellFormed := by
  unfold Instr.wellFormed Instr.WellFormed
  cases i.view <;> simp

end Sys2Proof
end

