-- ==== Sys2Proof/Decode.lean ====
section
/-!
DEFINITION. Decoding a 96-bit record (R84, R85, R100) and encoding one. The decoder is total and rejects by the name
of the first check that fails (R103); the encoder writes the same fields back.
-/
namespace Sys2Proof

/-! ### The header and the forms, as bit strips -/

/-- `TY | TG | FL` of R84, with FL as LITP, NDEST, ARITY3 and OPF. -/
def Hdr.bits (h : Hdr) : BitVec 16 :=
  h.ty ++ h.tg ++ BitVec.ofBool h.litp ++ h.ndest ++ BitVec.ofBool h.arity3 ++ h.opf

def Hdr.ofRecord (w : Rec96) : Hdr :=
  { ty := w.extractLsb' 84 4, tg := w.extractLsb' 80 4, litp := w.getLsbD 79, ndest := w.extractLsb' 77 2,
    arity3 := w.getLsbD 76, opf := w.extractLsb' 72 4 }

def D2.bits (op : BitVec 8) (r : D2) : Rec96 := op ++ r.toHdr.bits ++ r.slot ++ r.lit ++ r.destA ++ r.destB
def D1.bits (op : BitVec 8) (r : D1) : Rec96 := op ++ r.toHdr.bits ++ r.slot ++ r.lit ++ r.destA
def FC.bits (op : BitVec 8) (r : FC) : Rec96 := op ++ r.toHdr.bits ++ r.lit ++ r.destA
def FT.bits (op : BitVec 8) (r : FT) : Rec96 := op ++ r.toHdr.bits ++ r.slot ++ r.tp ++ r.destA ++ r.destB
def FM.bits (op : BitVec 8) (r : FM) : Rec96 :=
  op ++ r.toHdr.bits ++ r.slot ++ r.pred ++ r.own ++ r.succ ++ r.off ++ r.destA
def FS.bits (op : BitVec 8) (r : FS) : Rec96 :=
  op ++ r.toHdr.bits ++ r.spos ++ r.sin ++ r.sout ++ r.acc ++ r.sub ++ r.scnt ++ r.rsv ++ r.slit

def D2.ofRecord (w : Rec96) : D2 :=
  { Hdr.ofRecord w with slot := w.extractLsb' 64 8, lit := w.extractLsb' 56 8, destA := w.extractLsb' 28 28,
                        destB := w.extractLsb' 0 28 }
def D1.ofRecord (w : Rec96) : D1 :=
  { Hdr.ofRecord w with slot := w.extractLsb' 64 8, lit := w.extractLsb' 28 36, destA := w.extractLsb' 0 28 }
def FC.ofRecord (w : Rec96) : FC :=
  { Hdr.ofRecord w with lit := w.extractLsb' 28 44, destA := w.extractLsb' 0 28 }
def FT.ofRecord (w : Rec96) : FT :=
  { Hdr.ofRecord w with slot := w.extractLsb' 64 8, tp := w.extractLsb' 56 8, destA := w.extractLsb' 28 28,
                        destB := w.extractLsb' 0 28 }
def FM.ofRecord (w : Rec96) : FM :=
  { Hdr.ofRecord w with slot := w.extractLsb' 64 8, pred := w.extractLsb' 56 8, own := w.extractLsb' 48 8,
                        succ := w.extractLsb' 40 8, off := w.extractLsb' 28 12, destA := w.extractLsb' 0 28 }
def FS.ofRecord (w : Rec96) : FS :=
  { Hdr.ofRecord w with spos := w.extractLsb' 66 6, sin := w.extractLsb' 62 4, sout := w.extractLsb' 58 4,
                        acc := w.extractLsb' 55 3, sub := w.extractLsb' 50 5, scnt := w.extractLsb' 34 16,
                        rsv := w.extractLsb' 32 2, slit := w.extractLsb' 0 32 }

/-- The instruction of the opcode `op` (R101) with the fields of the record `w`, unchecked; `none` on an unassigned OP. -/
def instrOfOp (op : Nat) (w : Rec96) : Option Instr :=
  match op with
  | 0x01 => some (.id (.ofRecord w))
  | 0x02 => some (.const (.ofRecord w))
  | 0x03 => some (.sink (.ofRecord w))
  | 0x04 => some (.steer (.ofRecord w))
  | 0x05 => some (.merge (.ofRecord w))
  | 0x06 => some (.mergeo (.ofRecord w))
  | 0x07 => some (.gate (.ofRecord w))
  | 0x08 => some (.pick (.ofRecord w))
  | 0x09 => some (.rpt (.ofRecord w))
  | 0x0A => some (.seq (.ofRecord w))
  | 0x0B => some (.eodt (.ofRecord w))
  | 0x0C => some (.eods (.ofRecord w))
  | 0x0D => some (.pack2 (.ofRecord w))
  | 0x0E => some (.unpk2 (.ofRecord w))
  | 0x0F => some (.fanout (.ofRecord w))
  | 0x10 => some (.falloc (.ofRecord w))
  | 0x11 => some (.ffree (.ofRecord w))
  | 0x12 => some (.iter (.ofRecord w))
  | 0x13 => some (.leave (.ofRecord w))
  | 0x14 => some (.call (.ofRecord w))
  | 0x15 => some (.ret (.ofRecord w))
  | 0x16 => some (.ldfx (.ofRecord w))
  | 0x17 => some (.stfx (.ofRecord w))
  | 0x18 => some (.loopin (.ofRecord w))
  | 0x19 => some (.loopout (.ofRecord w))
  | 0x1A => some (.spawn (.ofRecord w))
  | 0x1B => some (.exitw (.ofRecord w))
  | 0x1C => some (.wchk (.ofRecord w))
  | 0x1D => some (.settag (.ofRecord w))
  | 0x1E => some (.gettag (.ofRecord w))
  | 0x1F => some (.fxinfo (.ofRecord w))
  | 0x20 => some (.add (.ofRecord w))
  | 0x21 => some (.sub (.ofRecord w))
  | 0x22 => some (.mul (.ofRecord w))
  | 0x23 => some (.mulh (.ofRecord w))
  | 0x24 => some (.div (.ofRecord w))
  | 0x25 => some (.rem (.ofRecord w))
  | 0x26 => some (.min (.ofRecord w))
  | 0x27 => some (.max (.ofRecord w))
  | 0x28 => some (.abs (.ofRecord w))
  | 0x29 => some (.neg (.ofRecord w))
  | 0x2A => some (.addsat (.ofRecord w))
  | 0x2B => some (.subsat (.ofRecord w))
  | 0x2C => some (.avg (.ofRecord w))
  | 0x2D => some (.cmp (.ofRecord w))
  | 0x2E => some (.clamp (.ofRecord w))
  | 0x2F => some (.widen (.ofRecord w))
  | 0x30 => some (.and (.ofRecord w))
  | 0x31 => some (.or (.ofRecord w))
  | 0x32 => some (.xor (.ofRecord w))
  | 0x33 => some (.andn (.ofRecord w))
  | 0x34 => some (.not (.ofRecord w))
  | 0x35 => some (.shl (.ofRecord w))
  | 0x36 => some (.shr (.ofRecord w))
  | 0x37 => some (.sra (.ofRecord w))
  | 0x38 => some (.rotl (.ofRecord w))
  | 0x39 => some (.clz (.ofRecord w))
  | 0x3A => some (.ctz (.ofRecord w))
  | 0x3B => some (.popc (.ofRecord w))
  | 0x3C => some (.bext (.ofRecord w))
  | 0x3D => some (.bins (.ofRecord w))
  | 0x3E => some (.clmul (.ofRecord w))
  | 0x3F => some (.pxor (.ofRecord w))
  | 0x40 => some (.fadd (.ofRecord w))
  | 0x41 => some (.fsub (.ofRecord w))
  | 0x42 => some (.fmul (.ofRecord w))
  | 0x43 => some (.fma (.ofRecord w))
  | 0x44 => some (.fmin (.ofRecord w))
  | 0x45 => some (.fmax (.ofRecord w))
  | 0x46 => some (.fabs (.ofRecord w))
  | 0x47 => some (.fneg (.ofRecord w))
  | 0x48 => some (.fcmp (.ofRecord w))
  | 0x49 => some (.fdiv (.ofRecord w))
  | 0x4A => some (.fsqrt (.ofRecord w))
  | 0x4B => some (.frcp (.ofRecord w))
  | 0x4C => some (.frsqrt (.ofRecord w))
  | 0x4D => some (.frnd (.ofRecord w))
  | 0x4E => some (.fclass (.ofRecord w))
  | 0x4F => some (.fcsgn (.ofRecord w))
  | 0x50 => some (.cvt (.ofRecord w))
  | 0x51 => some (.cvtfi (.ofRecord w))
  | 0x52 => some (.cvtif (.ofRecord w))
  | 0x53 => some (.cvtsr (.ofRecord w))
  | 0x54 => some (.vswap2 (.ofRecord w))
  | 0x55 => some (.vperm (.ofRecord w))
  | 0x56 => some (.vbcast (.ofRecord w))
  | 0x57 => some (.vins (.ofRecord w))
  | 0x58 => some (.vext (.ofRecord w))
  | 0x59 => some (.vpack (.ofRecord w))
  | 0x5A => some (.vunpk (.ofRecord w))
  | 0x5B => some (.vsum (.ofRecord w))
  | 0x5C => some (.vmask (.ofRecord w))
  | 0x5D => some (.vsel (.ofRecord w))
  | 0x5E => some (.vbcmp (.ofRecord w))
  | 0x5F => some (.vdot (.ofRecord w))
  | 0x60 => some (.fsin (.ofRecord w))
  | 0x61 => some (.fcos (.ofRecord w))
  | 0x62 => some (.fsincos (.ofRecord w))
  | 0x63 => some (.fexp2 (.ofRecord w))
  | 0x64 => some (.flog2 (.ofRecord w))
  | 0x65 => some (.fexp (.ofRecord w))
  | 0x66 => some (.ftanh (.ofRecord w))
  | 0x67 => some (.fsigm (.ofRecord w))
  | 0x68 => some (.lut6 (.ofRecord w))
  | 0x69 => some (.lutsm (.ofRecord w))
  | 0x6A => some (.lutld (.ofRecord w))
  | 0x6B => some (.hash64 (.ofRecord w))
  | 0x70 => some (.tmma (.ofRecord w))
  | 0x71 => some (.tacc (.ofRecord w))
  | 0x72 => some (.tld (.ofRecord w))
  | 0x73 => some (.tst (.ofRecord w))
  | 0x74 => some (.tadd (.ofRecord w))
  | 0x75 => some (.tmul (.ofRecord w))
  | 0x76 => some (.tmax (.ofRecord w))
  | 0x77 => some (.tscale (.ofRecord w))
  | 0x78 => some (.texp (.ofRecord w))
  | 0x79 => some (.tred (.ofRecord w))
  | 0x7A => some (.ttrans (.ofRecord w))
  | 0x7B => some (.tcvt (.ofRecord w))
  | 0x7C => some (.tfill (.ofRecord w))
  | 0x7D => some (.tcmpb (.ofRecord w))
  | 0x7E => some (.tbias (.ofRecord w))
  | 0x7F => some (.tzero (.ofRecord w))
  | 0x80 => some (.tgath (.ofRecord w))
  | 0x81 => some (.tscat (.ofRecord w))
  | 0x82 => some (.tcopy (.ofRecord w))
  | 0x83 => some (.tslice (.ofRecord w))
  | 0x84 => some (.href (.ofRecord w))
  | 0x85 => some (.hdrop (.ofRecord w))
  | 0x86 => some (.halloc (.ofRecord w))
  | 0x87 => some (.hinfo (.ofRecord w))
  | 0x88 => some (.tget (.ofRecord w))
  | 0x89 => some (.tset (.ofRecord w))
  | 0x8A => some (.tfull (.ofRecord w))
  | 0x8B => some (.tempty (.ofRecord w))
  | 0x90 => some (.ld (.ofRecord w))
  | 0x91 => some (.st (.ofRecord w))
  | 0x92 => some (.ldn (.ofRecord w))
  | 0x93 => some (.stn (.ofRecord w))
  | 0x94 => some (.ild (.ofRecord w))
  | 0x95 => some (.ist (.ofRecord w))
  | 0x96 => some (.iclr (.ofRecord w))
  | 0x97 => some (.alr (.ofRecord w))
  | 0x98 => some (.pref (.ofRecord w))
  | 0x99 => some (.ldsw (.ofRecord w))
  | 0x9A => some (.swset (.ofRecord w))
  | 0x9B => some (.wfence (.ofRecord w))
  | 0x9C => some (.swadd (.ofRecord w))
  | 0xA0 => some (.cmbadd (.ofRecord w))
  | 0xA1 => some (.cmband (.ofRecord w))
  | 0xA2 => some (.cmbor (.ofRecord w))
  | 0xA3 => some (.cmbxor (.ofRecord w))
  | 0xA4 => some (.cmbmin (.ofRecord w))
  | 0xA5 => some (.cmbmax (.ofRecord w))
  | 0xA6 => some (.cmbfaddx (.ofRecord w))
  | 0xA7 => some (.cmbfmin (.ofRecord w))
  | 0xA8 => some (.cmbfmax (.ofRecord w))
  | 0xA9 => some (.cmbcnt (.ofRecord w))
  | 0xAA => some (.cmbfadd (.ofRecord w))
  | 0xAB => some (.cmbtacc (.ofRecord w))
  | 0xB0 => some (.qpush (.ofRecord w))
  | 0xB1 => some (.qpop (.ofRecord w))
  | 0xB2 => some (.qresv (.ofRecord w))
  | 0xB3 => some (.qpub (.ofRecord w))
  | 0xB4 => some (.qsteal (.ofRecord w))
  | 0xB5 => some (.qarm (.ofRecord w))
  | 0xB6 => some (.qstat (.ofRecord w))
  | 0xB7 => some (.agcfg (.ofRecord w))
  | 0xB8 => some (.agrun (.ofRecord w))
  | 0xB9 => some (.bari (.ofRecord w))
  | 0xBA => some (.barv (.ofRecord w))
  | 0xBB => some (.barlog (.ofRecord w))
  | 0xBC => some (.stkbind (.ofRecord w))
  | 0xBD => some (.ktsbind (.ofRecord w))
  | 0xBE => some (.mcgset (.ofRecord w))
  | 0xBF => some (.xsend (.ofRecord w))
  | 0xC0 => some (.trap (.ofRecord w))
  | 0xC1 => some (.fret (.ofRecord w))
  | 0xC2 => some (.fkill (.ofRecord w))
  | 0xC3 => some (.park (.ofRecord w))
  | 0xC4 => some (.unpark (.ofRecord w))
  | 0xC5 => some (.mark (.ofRecord w))
  | 0xC6 => some (.time (.ofRecord w))
  | 0xC7 => some (.pgrd (.ofRecord w))
  | 0xC8 => some (.pgwr (.ofRecord w))
  | 0xC9 => some (.stcnt (.ofRecord w))
  | 0xCA => some (.ecall (.ofRecord w))
  | 0xCB => some (.cfgld (.ofRecord w))
  | 0xCC => some (.cfgcmt (.ofRecord w))
  | 0xCD => some (.gsrc (.ofRecord w))
  | 0xCE => some (.quiesce (.ofRecord w))
  | 0xCF => some (.halt (.ofRecord w))
  | 0xD0 => some (.sxmac (.ofRecord w))
  | 0xD1 => some (.sxpass (.ofRecord w))
  | 0xD2 => some (.sxacc (.ofRecord w))
  | 0xD3 => some (.sxout (.ofRecord w))
  | 0xD4 => some (.sxwld (.ofRecord w))
  | 0xD5 => some (.sxmov (.ofRecord w))
  | 0xD6 => some (.sxloop (.ofRecord w))
  | 0xD7 => some (.sxnop (.ofRecord w))
  | _ => none

/-- The instruction that a record names (R84). -/
def instrOfRecord (w : Rec96) : Option Instr := instrOfOp (w.extractLsb' 88 8).toNat w

/-- The record with that instruction's fields; `none` for a device event, which has no record. [DESIGN CHOICE: log 81] -/
def Instr.encode : Instr → Option Rec96
  | .id r => some (r.bits 0x01)
  | .const r => some (r.bits 0x02)
  | .sink r => some (r.bits 0x03)
  | .steer r => some (r.bits 0x04)
  | .merge r => some (r.bits 0x05)
  | .mergeo r => some (r.bits 0x06)
  | .gate r => some (r.bits 0x07)
  | .pick r => some (r.bits 0x08)
  | .rpt r => some (r.bits 0x09)
  | .seq r => some (r.bits 0x0A)
  | .eodt r => some (r.bits 0x0B)
  | .eods r => some (r.bits 0x0C)
  | .pack2 r => some (r.bits 0x0D)
  | .unpk2 r => some (r.bits 0x0E)
  | .fanout r => some (r.bits 0x0F)
  | .falloc r => some (r.bits 0x10)
  | .ffree r => some (r.bits 0x11)
  | .iter r => some (r.bits 0x12)
  | .leave r => some (r.bits 0x13)
  | .call r => some (r.bits 0x14)
  | .ret r => some (r.bits 0x15)
  | .ldfx r => some (r.bits 0x16)
  | .stfx r => some (r.bits 0x17)
  | .loopin r => some (r.bits 0x18)
  | .loopout r => some (r.bits 0x19)
  | .spawn r => some (r.bits 0x1A)
  | .exitw r => some (r.bits 0x1B)
  | .wchk r => some (r.bits 0x1C)
  | .settag r => some (r.bits 0x1D)
  | .gettag r => some (r.bits 0x1E)
  | .fxinfo r => some (r.bits 0x1F)
  | .add r => some (r.bits 0x20)
  | .sub r => some (r.bits 0x21)
  | .mul r => some (r.bits 0x22)
  | .mulh r => some (r.bits 0x23)
  | .div r => some (r.bits 0x24)
  | .rem r => some (r.bits 0x25)
  | .min r => some (r.bits 0x26)
  | .max r => some (r.bits 0x27)
  | .abs r => some (r.bits 0x28)
  | .neg r => some (r.bits 0x29)
  | .addsat r => some (r.bits 0x2A)
  | .subsat r => some (r.bits 0x2B)
  | .avg r => some (r.bits 0x2C)
  | .cmp r => some (r.bits 0x2D)
  | .clamp r => some (r.bits 0x2E)
  | .widen r => some (r.bits 0x2F)
  | .and r => some (r.bits 0x30)
  | .or r => some (r.bits 0x31)
  | .xor r => some (r.bits 0x32)
  | .andn r => some (r.bits 0x33)
  | .not r => some (r.bits 0x34)
  | .shl r => some (r.bits 0x35)
  | .shr r => some (r.bits 0x36)
  | .sra r => some (r.bits 0x37)
  | .rotl r => some (r.bits 0x38)
  | .clz r => some (r.bits 0x39)
  | .ctz r => some (r.bits 0x3A)
  | .popc r => some (r.bits 0x3B)
  | .bext r => some (r.bits 0x3C)
  | .bins r => some (r.bits 0x3D)
  | .clmul r => some (r.bits 0x3E)
  | .pxor r => some (r.bits 0x3F)
  | .fadd r => some (r.bits 0x40)
  | .fsub r => some (r.bits 0x41)
  | .fmul r => some (r.bits 0x42)
  | .fma r => some (r.bits 0x43)
  | .fmin r => some (r.bits 0x44)
  | .fmax r => some (r.bits 0x45)
  | .fabs r => some (r.bits 0x46)
  | .fneg r => some (r.bits 0x47)
  | .fcmp r => some (r.bits 0x48)
  | .fdiv r => some (r.bits 0x49)
  | .fsqrt r => some (r.bits 0x4A)
  | .frcp r => some (r.bits 0x4B)
  | .frsqrt r => some (r.bits 0x4C)
  | .frnd r => some (r.bits 0x4D)
  | .fclass r => some (r.bits 0x4E)
  | .fcsgn r => some (r.bits 0x4F)
  | .cvt r => some (r.bits 0x50)
  | .cvtfi r => some (r.bits 0x51)
  | .cvtif r => some (r.bits 0x52)
  | .cvtsr r => some (r.bits 0x53)
  | .vswap2 r => some (r.bits 0x54)
  | .vperm r => some (r.bits 0x55)
  | .vbcast r => some (r.bits 0x56)
  | .vins r => some (r.bits 0x57)
  | .vext r => some (r.bits 0x58)
  | .vpack r => some (r.bits 0x59)
  | .vunpk r => some (r.bits 0x5A)
  | .vsum r => some (r.bits 0x5B)
  | .vmask r => some (r.bits 0x5C)
  | .vsel r => some (r.bits 0x5D)
  | .vbcmp r => some (r.bits 0x5E)
  | .vdot r => some (r.bits 0x5F)
  | .fsin r => some (r.bits 0x60)
  | .fcos r => some (r.bits 0x61)
  | .fsincos r => some (r.bits 0x62)
  | .fexp2 r => some (r.bits 0x63)
  | .flog2 r => some (r.bits 0x64)
  | .fexp r => some (r.bits 0x65)
  | .ftanh r => some (r.bits 0x66)
  | .fsigm r => some (r.bits 0x67)
  | .lut6 r => some (r.bits 0x68)
  | .lutsm r => some (r.bits 0x69)
  | .lutld r => some (r.bits 0x6A)
  | .hash64 r => some (r.bits 0x6B)
  | .tmma r => some (r.bits 0x70)
  | .tacc r => some (r.bits 0x71)
  | .tld r => some (r.bits 0x72)
  | .tst r => some (r.bits 0x73)
  | .tadd r => some (r.bits 0x74)
  | .tmul r => some (r.bits 0x75)
  | .tmax r => some (r.bits 0x76)
  | .tscale r => some (r.bits 0x77)
  | .texp r => some (r.bits 0x78)
  | .tred r => some (r.bits 0x79)
  | .ttrans r => some (r.bits 0x7A)
  | .tcvt r => some (r.bits 0x7B)
  | .tfill r => some (r.bits 0x7C)
  | .tcmpb r => some (r.bits 0x7D)
  | .tbias r => some (r.bits 0x7E)
  | .tzero r => some (r.bits 0x7F)
  | .tgath r => some (r.bits 0x80)
  | .tscat r => some (r.bits 0x81)
  | .tcopy r => some (r.bits 0x82)
  | .tslice r => some (r.bits 0x83)
  | .href r => some (r.bits 0x84)
  | .hdrop r => some (r.bits 0x85)
  | .halloc r => some (r.bits 0x86)
  | .hinfo r => some (r.bits 0x87)
  | .tget r => some (r.bits 0x88)
  | .tset r => some (r.bits 0x89)
  | .tfull r => some (r.bits 0x8A)
  | .tempty r => some (r.bits 0x8B)
  | .ld r => some (r.bits 0x90)
  | .st r => some (r.bits 0x91)
  | .ldn r => some (r.bits 0x92)
  | .stn r => some (r.bits 0x93)
  | .ild r => some (r.bits 0x94)
  | .ist r => some (r.bits 0x95)
  | .iclr r => some (r.bits 0x96)
  | .alr r => some (r.bits 0x97)
  | .pref r => some (r.bits 0x98)
  | .ldsw r => some (r.bits 0x99)
  | .swset r => some (r.bits 0x9A)
  | .wfence r => some (r.bits 0x9B)
  | .swadd r => some (r.bits 0x9C)
  | .cmbadd r => some (r.bits 0xA0)
  | .cmband r => some (r.bits 0xA1)
  | .cmbor r => some (r.bits 0xA2)
  | .cmbxor r => some (r.bits 0xA3)
  | .cmbmin r => some (r.bits 0xA4)
  | .cmbmax r => some (r.bits 0xA5)
  | .cmbfaddx r => some (r.bits 0xA6)
  | .cmbfmin r => some (r.bits 0xA7)
  | .cmbfmax r => some (r.bits 0xA8)
  | .cmbcnt r => some (r.bits 0xA9)
  | .cmbfadd r => some (r.bits 0xAA)
  | .cmbtacc r => some (r.bits 0xAB)
  | .qpush r => some (r.bits 0xB0)
  | .qpop r => some (r.bits 0xB1)
  | .qresv r => some (r.bits 0xB2)
  | .qpub r => some (r.bits 0xB3)
  | .qsteal r => some (r.bits 0xB4)
  | .qarm r => some (r.bits 0xB5)
  | .qstat r => some (r.bits 0xB6)
  | .agcfg r => some (r.bits 0xB7)
  | .agrun r => some (r.bits 0xB8)
  | .bari r => some (r.bits 0xB9)
  | .barv r => some (r.bits 0xBA)
  | .barlog r => some (r.bits 0xBB)
  | .stkbind r => some (r.bits 0xBC)
  | .ktsbind r => some (r.bits 0xBD)
  | .mcgset r => some (r.bits 0xBE)
  | .xsend r => some (r.bits 0xBF)
  | .trap r => some (r.bits 0xC0)
  | .fret r => some (r.bits 0xC1)
  | .fkill r => some (r.bits 0xC2)
  | .park r => some (r.bits 0xC3)
  | .unpark r => some (r.bits 0xC4)
  | .mark r => some (r.bits 0xC5)
  | .time r => some (r.bits 0xC6)
  | .pgrd r => some (r.bits 0xC7)
  | .pgwr r => some (r.bits 0xC8)
  | .stcnt r => some (r.bits 0xC9)
  | .ecall r => some (r.bits 0xCA)
  | .cfgld r => some (r.bits 0xCB)
  | .cfgcmt r => some (r.bits 0xCC)
  | .gsrc r => some (r.bits 0xCD)
  | .quiesce r => some (r.bits 0xCE)
  | .halt r => some (r.bits 0xCF)
  | .sxmac r => some (r.bits 0xD0)
  | .sxpass r => some (r.bits 0xD1)
  | .sxacc r => some (r.bits 0xD2)
  | .sxout r => some (r.bits 0xD3)
  | .sxwld r => some (r.bits 0xD4)
  | .sxmov r => some (r.bits 0xD5)
  | .sxloop r => some (r.bits 0xD6)
  | .sxnop r => some (r.bits 0xD7)
  | .preemptDrain _ _ => none
  | .preemptPark _ _ => none
  | .preemptParkAtCut _ _ => none
  | .preemptRestore _ _ => none
  | .dqptrCiWrite _ _ => none
  | .dqctlWrite _ _ => none
  | .ingressDelivery _ _ _ _ _ => none
  | .mplFrameReceive _ _ => none
  | .linkTraining _ _ => none
  | .scaleupLinkUp _ _ _ => none
  | .discRead _ _ => none
  | .launchCmd _ _ => none
  | .jrnEntry _ _ => none
  | .jrnPtrs _ => none
  | .regRead _ _ _ => none
  | .regWrite _ _ _ _ => none
  | .imgWrite _ _ _ _ => none
  | .imgCommit _ => none
  | .imgErase _ => none
  | .imgPstat _ => none
  | .imgPmode _ _ => none
  | .attQuote _ _ _ => none
  | .attCert _ _ => none
  | .ownClaim _ _ => none
  | .ownRenew _ _ => none
  | .ownOffer _ _ _ => none
  | .ownAccept _ _ => none
  | .ownRelease _ _ => none
  | .xinvPage _ _ => none
  | .xinvAll _ _ => none
  | .registerWrite _ _ _ _ => none
  | .dieRestart _ => none
  | .diePowerOff _ => none
  | .balancedWindowEnd _ => none
  | .thermalThrottle _ _ => none
  | .thermalUnthrottle _ _ => none
  | .thermalShutdown _ _ => none
  | .thermalRestart _ _ => none
  | .scaleupPortDown _ _ => none
  | .ethernetLinkChange _ _ => none
  | .routerHop => none
  | .bridgeForward => none
  | .tokenArrival => none
  | .queueDestinationAppend => none
  | .markerArrival => none
  | .externalAnswerReturn => none
  | .rptCopy => none
  | .allocRequest => none
  | .allocGrant => none
  | .releaseNotice => none
  | .releaseComplete => none
  | .spillComplete => none
  | .spillMatcherToken => none
  | .restoreStartSpontaneous => none
  | .restoreComplete => none
  | .macroStart => none
  | .macroBoundary => none
  | .macroComplete => none
  | .waveRequestArrival => none
  | .homeAccess => none
  | .memoryReply => none
  | .egressConfirm => none
  | .requestTimeout => none
  | .walkReadReturn => none
  | .syncCountArrival => none
  | .scrubWord => none
  | .agElement => none
  | .agStreamComplete => none
  | .copyTrigger => none
  | .copyElements => none
  | .copyComplete => none
  | .handlerTokenSend => none
  | .holdCountExpiry => none
  | .probeHop => none
  | .framedryDetect => none
  | .starvedDetect => none
  | .preemptQuiesced => none
  | .preemptWithdrawalEnd => none
  | .preemptSaveComplete => none
  | .preemptEscalate => none
  | .preemptRestoreComplete => none
  | .policyPreemption => none
  | .launchToken => none
  | .launchCheck => none
  | .launchAging => none
  | .launchDispatch => none
  | .launchPlace => none
  | .launchLoad => none
  | .launchStart => none
  | .cfgCommitFlip => none
  | .sxwldWeightToken => none
  | .converterTransfer => none
  | .dmaDataToken => none
  | .dmaCommandToken => none
  | .dmaCommandComplete => none
  | .xsendRoute => none
  | .channelRemove => none
  | .hostRequest => none
  | .modeChangeEffect => none
  | .electionWindowEnd => none
  | .leaseLapse => none
  | .xinvComplete => none
  | .frread => none
  | .qbar => none
  | .xreg => none
  | .powerOn => none
  | .bootVerify => none
  | .bootScrub => none
  | .stallCounterCycle => none

/-- The fields of a record, whatever its form. -/
def viewOfRecord (w : Rec96) : RecView :=
  match instrOfRecord w with
  | none => { op := w.extractLsb' 88 8 }
  | some i => (i.view).getD default

/-- Decoding: the instruction of a record, or the first check of R103 that the record fails. [DESIGN CHOICE: log 81] [DESIGN CHOICE: log 82] -/
def decode (w : Rec96) : Except RecordError Instr :=
  match instrOfRecord w with
  | none => .error .unassigned
  | some i =>
    match i.view with
    | none => .error .unassigned
    | some v =>
      match recordError v with
      | some e => .error e
      | none => .ok i

/-- A little-endian byte string as a number (R1). -/
def leBytes : List Byte → Nat
  | [] => 0
  | b :: bs => b.toNat + 256 * leBytes bs

/-- Decoding the 12 bytes that a NODES entry holds (R107). -/
def decodeBytes (bs : List Byte) : Except RecordError Instr := decode (BitVec.ofNat 96 (leBytes (bs.take 12)))

/-- The instruction of a row's word: a record is stored little-endian, so bit 0 of the word is bit 0 of the record.
The bits above `nbits` are 0, and no record is longer than 96 bits. [DESIGN CHOICE: log 1] [DESIGN CHOICE: log 81] -/
def decodeTableWord (nbits w : Nat) : Option Instr :=
  if nbits > 96 || w ≥ 2 ^ 96 then none
  else match decode (BitVec.ofNat 96 w) with
    | .ok i => some i
    | .error _ => none

end Sys2Proof
end

