-- ==== Sys2Proof/Config.lean ====
section
/-!
DEFINITION. The free values: constants without a body, so that no proof can see what they are. A draw applies one of
them to the counter `State.free`, which the draw advances, so that two draws are unrelated. The assumption log names
each.
-/
namespace Sys2Proof.Config

/-- Which of `n` enabled steps comes next, and every other choice that the spec leaves open (R23, R454). [DESIGN CHOICE: log 2] [DESIGN CHOICE: log 47] -/
opaque pick : Nat → Nat
/-- A 64-bit value that the spec leaves open. -/
opaque freeWord : Nat → BitVec 64
/-- A byte that the spec leaves open. [DESIGN CHOICE: log 10] -/
opaque freeByte : Nat → BitVec 8
/-- Whether an event of chance happens: a parity or frame error on a link, an uncorrectable memory error. [DESIGN CHOICE: log 12] -/
opaque chance : Nat → Bool
/-- The next input of the outside world, if one comes (Host interface of INVENTORY.md). [DESIGN CHOICE: log 6] -/
opaque input : Nat → Option Instr
/-- The next store of a host to HBM over CXL.mem, if one comes (R414): an address and the bytes. [DESIGN CHOICE: log 6] -/
opaque hostStore : Nat → Option (Nat × List (BitVec 8))
/-- The next load of a host from HBM over CXL.mem, if one comes (R414): an address and a number of bytes. [DESIGN CHOICE: log 6] -/
opaque hostRead : Nat → Option (Nat × Nat)
/-- The next read of BAR0, if one comes (R415): the I/O die, the requester ID and the offset. [DESIGN CHOICE: log 6] -/
opaque barRead : Nat → Option (Nat × Nat × Nat)
/-- Urupo's grouping: the element group that it prefers for item `i` of an image, by the digest that R373 lets it depend
on; and its placing of group or declaration `i`, by the key of R336. [DESIGN CHOICE: log 77] -/
opaque group : List (BitVec 8) → Nat → Nat
/-- [DESIGN CHOICE: log 77] -/
opaque place : List (BitVec 8) → Nat → Nat
/-- The number in its element from which on the nodes of an image's element group stand (R336); it depends on the image and the
shape of its regions alone (R373). [DESIGN CHOICE: log 77] -/
opaque nodeFrom : List (BitVec 8) → Nat → Nat
/-- SLH-DSA-SHA2-128s (R429, R431): whether a signature over bytes verifies under the fused key; the signature that die
`d` makes; its attestation public key with its certificate; and its fused minimum SVN. [DESIGN CHOICE: log 33] -/
opaque verifies : List (BitVec 8) → List (BitVec 8) → Bool
/-- [DESIGN CHOICE: log 33] -/
opaque signs : Nat → List (BitVec 8) → List (BitVec 8)
/-- [DESIGN CHOICE: log 33] -/
opaque certificate : Nat → List (BitVec 8)
/-- [DESIGN CHOICE: log 33] -/
opaque minSvn : Nat → Nat
/-- The rate per pin of a memory stack in Mb/s, by die * 4 + stack (R425). [DESIGN CHOICE: log 78] -/
opaque pinRate : Nat → Nat
/-- The skew of a die's timebase copy, taken modulo 3 (R4: at most 2 ticks between dies). [DESIGN CHOICE: log 5] -/
opaque skew : Nat → Nat

end Sys2Proof.Config
end

