-- ==== Sys2Proof/Machine/Tbl.lean ====
section
/-!
DEFINITION. Sparse tables: a list of (key, value) pairs. A key that the list does not hold reads as the type's default
value, which is the value that R56 gives the state after reset. Writing keeps the keys rising and lists no default.
-/
namespace Sys2Proof

/-- A table from numbers to values. -/
abbrev Tbl (α : Type) := List (Nat × α)

/-- What the table holds at a key. -/
def Tbl.look {α : Type} [Inhabited α] (m : Tbl α) (k : Nat) : α :=
  match m with
  | [] => default
  | (j, v) :: t => if j = k then v else Tbl.look t k

/-- Put a value at its place among rising keys. -/
def Tbl.ins {α : Type} (m : Tbl α) (k : Nat) (v : α) : Tbl α :=
  match m with
  | [] => [(k, v)]
  | (j, w) :: t => if k < j then (k, v) :: (j, w) :: t else if j = k then (k, v) :: t else (j, w) :: Tbl.ins t k v

/-- Take a key out. -/
def Tbl.del {α : Type} (m : Tbl α) (k : Nat) : Tbl α :=
  m.filter fun p => p.1 != k

/-- Write a value: the default value is written by listing nothing. -/
def Tbl.put {α : Type} [Inhabited α] [DecidableEq α] (m : Tbl α) (k : Nat) (v : α) : Tbl α :=
  if v = default then m.del k else m.ins k v

/-- Write what `f` makes of the old value. -/
def Tbl.upd {α : Type} [Inhabited α] [DecidableEq α] (m : Tbl α) (k : Nat) (f : α → α) : Tbl α :=
  m.put k (f (m.look k))

/-- Every key from `lo` up to `hi` reads as the default afterwards. -/
def Tbl.clearRange {α : Type} (m : Tbl α) (lo hi : Nat) : Tbl α :=
  m.filter fun p => !(decide (lo ≤ p.1) && decide (p.1 < hi))

/-- The canonical form: keys strictly rising, no default value listed. -/
def Tbl.wf {α : Type} [Inhabited α] [DecidableEq α] (m : Tbl α) : Bool :=
  match m with
  | [] => true
  | (k, v) :: t => decide (v ≠ default) && t.all (fun p => decide (k < p.1)) && Tbl.wf t

/-- The same list with the element at `i` left out. -/
def dropAt {α : Type} (l : List α) (i : Nat) : List α := l.eraseIdx i

end Sys2Proof
end

