-- ==== Sys2Proof/Machine/State.lean ====
section
/-!
DEFINITION. The machine's state as plain data (01_machine_state.md and the chapters its table names), the reasons a step
can stop, and the state after reset (R56). Every table reads as the reset value where it lists nothing.
-/
namespace Sys2Proof.Machine

/-- A token (R14). `par` is the PAR bit of a token whose parity check failed three times over (R20): such a token is
delivered and raises ECCUE; every other token is sent with the right PAR and `par` false. -/
structure Token where
  kind : BitVec 2 := 0
  mc : Bool := false
  dest : BitVec 28 := 0
  fx : BitVec 12 := 0
  path : BitVec 6 := 0
  rt : BitVec 2 := 0
  val : Word := 0
  eod : BitVec 3 := 0
  seq : BitVec 8 := 0
  xd : Bool := false
  par : Bool := false
  deriving DecidableEq, Repr, Inhabited

/-- A token on its way. `src` is the node key of the sender (die, tile, element and node), or `2 ^ 26 + square` for a
square's own control, `lid` the journal number of the sending load (R388), `link` the input it arrived on (R32), `ready`
the cycle from which on it can leave the place where it stands, `row` the row in which it left its die (R394), and
`dests` the destinations that a multicast token on its group's die still stands for (R378). -/
structure Flight where
  tok : Token := {}
  src : Nat := 0
  lid : Nat := 0
  link : Nat := 0
  ready : Nat := 0
  row : Nat := 0
  dests : List (BitVec 28) := []
  deriving DecidableEq, Repr, Inhabited

/-- A matched firing (R124): the node and its token operands by port, with what an operation under way keeps. `pg` is
set on a re-issued macro and holds the PG it loads (R212, R266); `words` holds the released sum of a combine (R244), and
`k` the K-tile index of an accumulation in the macro queue (R206, R245), or 1 on a `mergeo` firing that the tokens of its
context follow (R132). -/
structure Firing where
  elem : Nat := 0
  node : Nat := 0
  t0 : Token := {}
  t1 : Token := {}
  t2 : Token := {}
  pg : Option (Word × Word) := none
  words : List Word := []
  k : Nat := 0
  deriving DecidableEq, Repr, Inhabited

/-- A frame-store slot (R31): value, P, B and PRT, with the rest of the parked operand token. -/
structure Slot where
  val : Word := 0
  p : Bool := false
  b : Bool := false
  prt : BitVec 2 := 0
  tok : Token := {}
  deriving DecidableEq, Repr, Inhabited

/-- A frame-table entry (R26). -/
structure FEntry where
  v : Bool := false
  sp : Bool := false
  pk : Bool := false
  cls : BitVec 2 := 0
  fx : BitVec 12 := 0
  base : BitVec 14 := 0
  touch : BitVec 16 := 0
  deriving DecidableEq, Repr, Inhabited

/-- A local part in the spore store, with the tokens its spill matcher holds (R36, R346). `order` is the MT's count at
the matcher's last token for its frame (R347; 0 where it has taken none), `touch` the TOUCH of its entry at the spill. [DEDUCED: log 59] -/
structure Spill where
  cls : BitVec 2 := 0
  touch : BitVec 16 := 0
  slots : List Slot := []
  held : List Flight := []
  order : Nat := 0
  charge : Nat := 0
  deriving DecidableEq, Repr, Inhabited

/-- Who waits for a run (R345): the allocation of an arriving token or of a `spawn`, or a restore, by FX; `nobody` once
its frame has been released. -/
inductive RunFor where
  | nobody
  | arrive (fx : Nat)
  | spawn (fx : Nat)
  | restore (fx : Nat)
  deriving DecidableEq, Repr, Inhabited

/-- The run of a victim (R345), for the one that waits for it: its spill is under way, or done. -/
structure SpillRun where
  base : Nat := 0
  cls : BitVec 2 := 0
  need : RunFor := .nobody
  done : Bool := false
  deriving DecidableEq, Repr, Inhabited

/-- A barrier cell, its straggler record and its queue's STC and window as they were before a close, and the cycle of the
close (R52, R254). -/
structure BarWas where
  cycle : Nat := 0
  w0 : Word := 0
  w1 : Word := 0
  stc : Nat := 0
  window : Bool := false
  mem : List Host.Cell := []
  deriving DecidableEq, Repr, Inhabited

/-- A barrier cell (R51) with the `barv` requests that wait on it and the members that have arrived (R253). -/
structure BarCell where
  w0 : Word := 0
  w1 : Word := 0
  declared : Bool := false
  waiting : List Nat := []
  arrived : List Nat := []
  was : Option BarWas := none
  deriving DecidableEq, Repr, Inhabited

/-- A token in the park buffer, or in an overflow line of the spore store (R349). -/
structure Parked where
  fl : Flight := {}
  overflow : Bool := false
  deriving DecidableEq, Repr, Inhabited

/-- A compute tile (R11). -/
structure Ct where
  ftab : Tbl FEntry := []
  slots : Tbl Slot := []
  touch : BitVec 16 := 0
  park : List Parked := []
  spilled : Tbl Spill := []
  spilledFx : List Nat := []
  spillRuns : List SpillRun := []
  restoreQ : List Nat := []
  /-- The restore under way: the FX and the BASE of its new run. -/
  restoring : Option (Nat × Nat) := none
  /-- The frames with a token that waits for an overflow line, SPILLFULL raised (R349). -/
  lineFull : List Nat := []
  spawnWait : List (Firing × Nat) := []
  splitQ : List (Firing × Nat) := []
  bar : Tbl BarCell := []
  matcherIn : List Flight := []
  matcherCount : Nat := 0
  /-- By FX, the matcher's count at the last token that it took for the frame (R347). -/
  taken : Tbl Nat := []
  deriving DecidableEq, Repr, Inhabited

/-- The repeat unit (R135): the firing, copies sent and copies in all. -/
structure Rpt where
  f : Firing := {}
  sent : Nat := 0
  total : Nat := 0
  deriving DecidableEq, Repr, Inhabited

/-- An open `mergeo` context (R132): the node and FX, NEXT, the held tokens, and the last senders by port. A held token that
NEXT names is about to be sent. -/
structure MCtx where
  node : Nat := 0
  fx : Nat := 0
  next : BitVec 8 := 0
  depth : Nat := 0
  held : List Flight := []
  last0 : Option Nat := none
  last1 : Option Nat := none
  deriving DecidableEq, Repr, Inhabited

/-- The way of an operation to MTs of other dies and back (R387, R404): how many legs it has begun, and the messages of the
leg under way. -/
structure Trip where
  leg : Nat := 0
  vias : List Nat := []
  deriving DecidableEq, Repr, Inhabited

/-- A `lutld` under way (R201, R202): the firing, the configuration, its words once they are read, and the elements
that have not replaced their copy yet; and the way to a buffer of another die. -/
structure LutLoad where
  f : Firing := {}
  cfg : Nat := 0
  image : List Word := []
  left : List Nat := []
  trip : Trip := {}
  deriving DecidableEq, Repr, Inhabited

/-- What a boundary does in memory (R217, R220): it reads `n` bytes from an address on, or writes bytes there in GA mode. -/
inductive RowNeed where
  | load (va n : Nat)
  | store (va : Nat) (b : List Byte)
  deriving DecidableEq, Repr

/-- A macro-instruction running on the tile pipe (R209): the firing, the next boundary, and the requests of the boundary's
row (R302). Where a tile stands on another die, `trip` is the boundary's way there and back, with the row that it has come to
need and the bytes that the row has brought. -/
structure Run where
  f : Firing := {}
  eidx : Nat := 0
  total : Nat := 0
  result : Word := 0
  reqs : List Nat := []
  trip : Trip := {}
  need : Option RowNeed := none
  got : Option (List Byte) := none
  deriving DecidableEq, Repr, Inhabited

/-- A beat of the static network (R381). -/
structure Beat where
  data : BitVec 512 := 0
  side : BitVec 16 := 0
  deriving DecidableEq, Repr, Inhabited

/-- The static ring of an element (R277 to R284): the position reached, whether it steps, the counters of its `sxloop`
records by SPOS, the steps done at this position, the weight positions written by SPOS of each `sxwld` (bit SEQ), and
the positions that a fault stops it at. -/
structure Ring where
  pos : Nat := 0
  on : Bool := false
  loop : Tbl Nat := []
  beats : Nat := 0
  wld : Tbl Nat := []
  halts : List Nat := []
  deriving DecidableEq, Repr, Inhabited

/-- The hold count of the ready-queue head (R358): the firing held, the cycles, and the probes that it has sent. -/
structure Held where
  f : Firing := {}
  cycles : Nat := 0
  probes : Nat := 0
  deriving DecidableEq, Repr, Inhabited

/-- An answer of the external class waiting for room in the output stage (R124), and the message that brings it from
another die. -/
structure Answer where
  toks : List Flight := []
  via : Nat := 0
  deriving DecidableEq, Repr, Inhabited

/-- An element (R37 to R45, R124, R132 to R135, R198, R206, R341). [DESIGN CHOICE: log 7] -/
structure Elem where
  nodes : Tbl Rec96 := []
  stallOp : Tbl (BitVec 16) := []
  stallOut : Tbl (BitVec 16) := []
  /-- Counters cleared in this cycle: node * 2, plus 1 for the output-space counter (R38). -/
  cleared : List Nat := []
  acc : Tbl (BitVec 32) := []
  accUsed : List Nat := []
  acseq : Tbl (BitVec 16) := []
  pga : Word := 0
  pgb : Word := 0
  pgsnap : Word := 0
  elstat : BitVec 8 := 0
  lut : Tbl Word := []
  lutUsed : List Nat := []
  lutState : BitVec 16 := 0
  lutLoads : List LutLoad := []
  readyQ : List Firing := []
  /-- Tokens that come back to the element, ahead of those of its input stage: from the park buffer, from the spill
  matcher, and re-issued from a fault record (R265, R266, R346, R347). -/
  back : List Flight := []
  inStage : List Flight := []
  outStage : List Flight := []
  answers : List Answer := []
  macroQ : List Firing := []
  ordWait : List Firing := []
  run : Option Run := none
  /-- The way of the checks of a start to tiles of other dies (R207). -/
  startTrip : Trip := {}
  macroDone : Option Run := none
  lastStop : Option Firing := none
  rpt : Option Rpt := none
  ctxs : List MCtx := []
  seqCtr : Tbl (Option (BitVec 8)) := []
  quota : Tbl Nat := []
  nin : Tbl Nat := []
  held : Held := {}
  /-- Marker round (R372): markers counted by node, queue-arc markers by node, the arcs that hold later tokens back
  (node, sender, port, RT), the nodes that have entered, and whether the element has. -/
  marks : Tbl Nat := []
  markIn : Tbl Nat := []
  marked : List (Nat × Nat × Nat × Nat) := []
  inRound : List Nat := []
  entered : Bool := false
  stop : Bool := false
  ring : Ring := {}
  links : Tbl (Option Beat) := []
  deriving DecidableEq, Repr, Inhabited

/-- A request at a frame allocator (R138): what is asked. -/
inductive AKind where
  | falloc | call | spawn | loopin | iter | wchk | ffree | info | weight
  deriving DecidableEq, Repr, Inhabited

/-- A request at a frame allocator and the firing that waits for it; `since` is the cycle it arrived (R361), and `via` the
message that brings it from another die (R404). -/
structure AReq where
  kind : AKind := .falloc
  f : Firing := {}
  since : Nat := 0
  via : Nat := 0
  deriving DecidableEq, Repr, Inhabited

/-- Who receives the FX when a release completes (R143, R263). -/
structure FxAnswer where
  f : Firing := {}
  deriving DecidableEq, Repr, Inhabited

/-- A frame index at its region's allocator (R24, R137, R139). `notices` are the messages that bring the release notice to
other dies, by die, and `acks` those that bring its answers back. -/
structure FxRec where
  alloc : Bool := false
  releasing : Bool := false
  parked : Bool := false
  slot0 : Word := 0
  slot1 : Word := 0
  link : Word := 0
  loopNode : Nat := 0
  weight : Nat := 0
  waitCt : List Nat := []
  notices : List (Nat × Nat) := []
  acks : List Nat := []
  answers : List Firing := []
  deriving DecidableEq, Repr, Inhabited

/-- A region (R12, R13, R335, R337). `shadow` is the configuration block in the shadow banks (R272), `commit` the request of
a `cfgcmt` that waits (0 for one of Igtex's own) with its START bit (R273), `entries` the entry nodes and the index of
each entry value, `stopped` and `withdraw` what a pre-emption has stopped in it (R365, R366), and `links` the switch settings by CT
(R380). -/
structure Region where
  load : Nat := 0
  mode : Bool := false
  level : Bool := false
  clusters : List Nat := []
  xroot : Word := 0
  srseed : Word := 0
  fcls : BitVec 2 := 0
  famt : Nat := 0
  fqmt : Nat := 0
  fslim : Nat := 64
  stopped : Bool := false
  withdraw : Bool := false
  closed : Bool := false
  /-- Committed with START = 0, and nothing has run in it since (R273, R370). -/
  idle : Bool := false
  /-- The last commit had START = 0 (R273, R370). -/
  noStart : Bool := false
  fx : Tbl FxRec := []
  allocIn : List AReq := []
  allocQ : List AReq := []
  /-- The allocator's cycle at its last grant or completed release (R361). -/
  lastGrant : Nat := 0
  faultDest : Option (BitVec 28) := none
  shadow : Option (List Byte) := none
  commit : Option (Nat × Bool) := none
  entries : List (BitVec 28 × Nat) := []
  links : Tbl Nat := []
  deriving DecidableEq, Repr, Inhabited

/-- What a fault record stops apart from a firing: the copy of a queue's template (R386), a converter (R383), or the
`cfgcmt` whose static records failed their check (R100), by its request and its region. -/
inductive Site where
  | none
  | copy (k : Nat)
  | conv (k : Nat)
  | commit (id rid : Nat)
  deriving DecidableEq, Repr, Inhabited

/-- A fault record (R351) with what its resolution needs: the firing or the token it holds; `via` is the message that
brings it to the fault queue's MT from another die. -/
structure FaultRec where
  used : Bool := false
  ser : Nat := 0
  w0 : Word := 0
  w1 : Word := 0
  w2 : Word := 0
  w3 : Word := 0
  companion : Word := 0
  trail : List Nat := []
  firing : Option Firing := none
  flight : Option Flight := none
  rid : Nat := 0
  req : Option Nat := none
  site : Site := .none
  via : Nat := 0
  deriving DecidableEq, Repr, Inhabited

/-- How far a launch has come (R330). -/
inductive Phase where
  | none | accepted | checked | dispatched | placed | loaded | running | ended
  deriving DecidableEq, Repr, Inhabited

/-- A `.tile` declaration where it stands (R121, R311): its MT, its first buffer, depth, type and size, and the placed
destination of its handle tokens. -/
structure TileDecl where
  q : Nat := 0
  buf : Nat := 0
  depth : Nat := 1
  dt : Nat := 0
  rows : Nat := 1
  cols : Nat := 1
  base : Nat := 0
  dest : Option (BitVec 28) := none
  deriving DecidableEq, Repr, Inhabited

/-- A fabric load, by its journal number (R330): the command's fields, Igtex's copy of the image, where Urupo put its
nodes and storage, the weight account (R152), the fault queue (R351 to R354), and what the load holds. [DEDUCED: log 24] -/
structure Load where
  phase : Phase := .none
  cmd : List Byte := []
  image : List Byte := []
  prio : Nat := 0
  level : Nat := 0
  dispatched : Nat := 0
  regions : List Nat := []
  /-- What the image's imports resolve to (R105). -/
  imports : List (BitVec 28) := []
  /-- Node keys by node index, tiles by TILES index, queue keys by QUEUES index with CAP and ring base, barrier cells by
  index, the die's group of each group named, DMA queues held, quotas and NIN by node key, and edge MTs (R336). -/
  places : List Nat := []
  tiles : List TileDecl := []
  queues : List Nat := []
  rings : List (Nat × Nat) := []
  barriers : List Nat := []
  groups : List (Nat × Nat) := []
  dmas : List Nat := []
  quotas : List (Nat × Nat) := []
  nins : List (Nat × Nat) := []
  edges : List Nat := []
  issued : Word := 0
  returned : Word := 0
  faults : Tbl FaultRec := []
  serial : Nat := 0
  handlers : List Nat := []
  round : Option Nat := none
  marksWait : List Firing := []
  /-- Feedback arcs (R371): the source node's key and the placed destination. -/
  feedback : List (Nat × Nat) := []
  /-- Queues that take tokens from outside the load. -/
  extQueues : List Nat := []
  entries : List (BitVec 28) := []
  wasQuiet : Bool := false
  /-- Saved, and stopped where it stands; and the save image that a load in the launch queues is restored from. -/
  saved : Bool := false
  restore : Option Word := none
  deriving DecidableEq, Repr, Inhabited

/-- A journal entry (R422). -/
structure JEntry where
  tick : Nat := 0
  hid : Nat := 0
  cmd : Nat := 0
  state : Nat := 0
  code : Nat := 0
  arg : Nat := 0
  digest : List Byte := []
  aux : List Byte := []
  deriving DecidableEq, Repr, Inhabited

/-- A launch request in the queues of a die (R331): the load, its level, and the tick it entered that level with the
INTERVAL it took (R332). -/
structure LReq where
  lid : Nat := 0
  level : Nat := 0
  since : Nat := 0
  interval : Nat := 0
  deriving DecidableEq, Repr, Inhabited

/-- A save or restore on a load's home die (R363 to R366, R370): the load and the region named, whether it has begun,
the tick at which it did, and how far it has come; `policy` marks one that Igtex owes (R364), and `queue` is the die
whose launch queues the victim re-enters. -/
structure Preempt where
  lid : Nat := 0
  rid : Nat := 0
  grade : Nat := 0
  restore : Bool := false
  begun : Bool := false
  since : Nat := 0
  tout : Nat := 0
  withdrawing : Bool := false
  policy : Bool := false
  queue : Nat := 0
  saving : Bool := false
  pa : Word := 0
  deriving DecidableEq, Repr, Inhabited

/-- The registers of a compute die and what Igtex keeps there (R11, R300, R322, R328, R331, R332, R358, R363,
R364). [DEDUCED: log 79] -/
structure Die where
  reqto : Word := 0x000F4240#64
  reqlate : Word := 0
  xinv : Word := 0
  /-- The stores that had been acknowledged before the write of GO, and still stood in egress store buffers (R322). -/
  xinvAfter : List Nat := []
  ecccnt : Word := 0
  ecclast : Word := 0
  ageq : Word := 0x00100000#64
  dlkt : Word := 0x00010000#64
  pmctl : Word := 0
  pmsave : Word := 0
  pmstat : Word := 0
  pmpol : Word := 0xA000000000000000#64
  cyc : Nat := 0
  launchQ : List LReq := []
  /-- The keys of the placement cache, most recently used first (R336). -/
  placed : List (List Byte) := []
  pm : Option Preempt := none
  pmWait : List Preempt := []
  deriving DecidableEq, Repr, Inhabited

/-- A spore-store part of a load on a die (R323, R324). [DEDUCED: log 79] -/
structure Spore where
  cfg : Word := 0x6800000000000000#64
  occ : Nat := 0
  deriving DecidableEq, Repr, Inhabited

/-- A steal of a round and the next (R412): the entry's index, the handle, the thief's firing and the round closes
still to come before the entry leaves the log. -/
structure StealEntry where
  index : Nat := 0
  handle : Word := 0
  thief : Firing := {}
  closes : Nat := 0
  deriving DecidableEq, Repr, Inhabited

/-- A translation entry (R320, R321): the region, the page as VA >> bits, and the leaf's page and permissions. -/
structure Tlb where
  rid : Nat := 0
  page : Nat := 0
  bits : Nat := 0
  pa : Nat := 0
  rd : Bool := false
  wr : Bool := false
  us : Bool := false
  deriving DecidableEq, Repr, Inhabited

/-- One side of a copy template: a buffer of its MT table, or the armed address (R121, R385). -/
inductive Side where
  | arm
  | tile (q buf dt rows cols : Nat) (dest : Option (BitVec 28))
  deriving DecidableEq, Repr, Inhabited

/-- A copy template (R385): its sides, element size and levels (count and stride), outermost first. -/
structure Template where
  src : Side := .arm
  dst : Side := .arm
  esize : Nat := 1
  levels : List (Nat × Int) := []
  deriving DecidableEq, Repr, Inhabited

/-- A copy under way (R386): its trigger, the `qarm` firing and address that it took, the next element, the elements moved
together and their bytes once they are read, the requests under way, the stream's translation entry (R321), and whether
its last write has performed; `fault` is the fault (kind, detail, companion) of the element behind those moved together, and
`stopped` says that a fault record stops it. -/
structure Copy where
  trig : Token := {}
  f : Firing := {}
  addr : Word := 0
  x : Nat := 0
  n : Nat := 0
  data : Option (List Byte) := none
  reqs : List Nat := []
  tlb : Option Tlb := none
  done : Bool := false
  fault : Option (Nat × Nat × Nat) := none
  stopped : Bool := false
  deriving DecidableEq, Repr, Inhabited

/-- A named queue (R50): its ring, its three indices, the state and S bit of each ring slot (00 free, 01 reserved,
10 published, 11 published empty, plus 4 for S), the requests that wait on it, the barrier cell that designates it with
STC, the steal window and the steal log (R253, R412), and its template with the armings, each with PUB at its time, and
the copy (R249, R386). -/
structure Queue where
  declared : Bool := false
  cap : Nat := 0
  base : Nat := 0
  cons : BitVec 32 := 0
  pub : BitVec 32 := 0
  resv : BitVec 32 := 0
  st : Tbl Nat := []
  waitPush : List Nat := []
  waitPop : List Nat := []
  cell : Option Nat := none
  stc : Nat := 0
  window : Bool := false
  log : List StealEntry := []
  tmpl : Option Template := none
  arm : List (BitVec 32 × Firing × Word) := []
  copy : Option Copy := none
  deriving DecidableEq, Repr, Inhabited

/-- The registers of an address-generator unit (R250). -/
structure AgUnit where
  base : Word := 0
  lvl : Word := 0
  ctl : Word := 0
  deriving DecidableEq, Repr, Inhabited

/-- A running chain (R251): the `agrun` request, its units outermost first, the next element, the stream's translation
entry (R321), and the requests of the element under way. -/
structure Stream where
  on : Bool := false
  req : Nat := 0
  units : List Nat := []
  x : Nat := 0
  total : Nat := 0
  tlb : Option Tlb := none
  reqs : List Nat := []
  deriving DecidableEq, Repr, Inhabited

/-- A converter (R256, R382, R383): the binding in force and the one that the next ring start takes, the entries of a
partial beat, the staged beats, the values of a beat still to be appended, the tokens sent since the binding, the queue on
whose KIND 01 entry it stands stopped, whether it only sends what it has staged before its next binding, and whether one has
come since the last ring start. -/
structure Conv where
  bind : Word := 0
  next : Word := 0
  parts : List Word := []
  beats : List Beat := []
  out : List Word := []
  sent : Nat := 0
  stopped : Option Nat := none
  closing : Bool := false
  after : Word := 0
  fresh : Bool := false
  deriving DecidableEq, Repr, Inhabited

/-- A deferred reader of an I-structure word (R312): the word, and the token that answers it but for its value. -/
structure DReader where
  word : Nat := 0
  tok : Token := {}
  send : Bool := true
  lid : Nat := 0
  deriving DecidableEq, Repr, Inhabited

/-- A count of bytes written, on its way to a sync word (R325): the word's address, the bytes, the load, and the message
that brings it from another die. -/
structure SyncArr where
  pa : Nat := 0
  n : Nat := 0
  lid : Nat := 0
  via : Nat := 0
  deriving DecidableEq, Repr, Inhabited

/-- A memory tile (R11). Modes (R307): 0 tile store, 1 FIFO, 2 line buffer, 3 structure store. `bufs` holds the 64
descriptors of R309, `pool` the buffers that `halloc` hands out and `hallocQ` the firings that wait for one (R225);
`istate` is the state of the I-structure words (R54); `agWait` the `agcfg` requests that wait for a chain to stop; `edge` is set on an
edge MT (R382). -/
structure Mt where
  mode : Nat := 0
  queues : Tbl Queue := []
  bufs : Tbl Word := []
  pool : List Nat := []
  hallocQ : List Firing := []
  istate : Tbl Nat := []
  readers : List DReader := []
  ag : Tbl AgUnit := []
  streams : Tbl Stream := []
  agWait : List Nat := []
  conv : Tbl Conv := []
  edge : Bool := false
  deriving DecidableEq, Repr, Inhabited

/-- A page walk of a cluster (R318, R320): the address it looks up, the level and the table it reads next, the request
that began it, the timer of the read, and the message that brings the read or its reply, whose entry is `got`. `orphan` is the
read of a walk whose time-out has expired: its reply is late (R301). -/
structure Walk where
  cluster : Nat := 0
  rid : Nat := 0
  va : Nat := 0
  level : Nat := 3
  table : Nat := 0
  start : Nat := 0
  tout : Nat := 0
  owner : Nat := 0
  via : Nat := 0
  got : Option Nat := none
  /-- The entry that has been read fails its check (R326). -/
  bad : Bool := false
  orphan : Bool := false
  deriving DecidableEq, Repr, Inhabited

/-- How far a memory request has come (R232 to R234, R293, R302): on its way to its wave-order unit, held there,
waiting for its translation, waiting its turn to leave (in the store buffer, for a store), on its way to its home, in
the egress store buffer, its reply on the way, faulted with its record unresolved, or, for a request of an engine, done
and waiting to be taken up. -/
inductive MStage where
  | toUnit | held | xlat | ready | sent | posted | reply | faulted | done
  deriving DecidableEq, Repr, Inhabited

/-- A memory request (R230 to R241). `data` holds the store data, the eight operands of an `alr`, or the target of a
`swset`; `words` what the reply brings. `orphan` marks a request whose time-out has expired: it may still perform, and
its reply is late (R302, R303); `dead` one whose frame was killed (R235); `again` a faulted one whose firing issues
again (R266). `issued` is set once it has tried to leave, and `behind` names the requests of its die to the same
address that go before it (R234, R294); `performed` an egress entry whose home has performed it; `deferred` an `ild`
that its MT has accepted as a deferred reader (R238), or an object operation that waits at its object. Operations on a
queue, a barrier cell, an address generator, a converter, a multicast table, an ingress or Igtex are requests too
(MOP 6 and 8 of R399): `tgt` names the object, `tok` is the result token, and `io` the I/O
die that is asked. `die` is the die that issues the request: that of its wave-order unit, if it has one (R232, R293);
`via` is the message that brings it, or its reply, from another die. `eng` marks an access of an engine or of a tile row:
its reply or its fault waits for the engine, `tgt` names the first of the accesses made together, and `lo` and `len` say which
bytes they cover (R217, R326). `eseq` is an entry's egress sequence number (R399), and `acked` marks a store whose
acknowledgement has been sent, or that sends none (R304). A `cfgld` reads and writes by requests of its own, `subs`, with the bytes read in
`got` and those still to be written in `left` (R272). -/
structure MReq where
  f : Firing := {}
  op : Nat := 0
  rid : Nat := 0
  lid : Nat := 0
  die : Nat := 0
  cluster : Nat := 0
  wave : Bool := false
  pred : Nat := 0
  own : Nat := 0
  succ : Nat := 0
  ea : Nat := 0
  size : Nat := 0
  ef : Bool := false
  data : List Word := []
  pa : Option Nat := none
  stage : MStage := .toUnit
  start : Nat := 0
  tout : Nat := 0
  via : Nat := 0
  eng : Bool := false
  lo : Nat := 0
  len : Nat := 0
  eseq : Nat := 0
  acked : Bool := false
  subs : List Nat := []
  got : List Byte := []
  left : List Byte := []
  val : Word := 0
  tok : Token := {}
  tgt : Nat := 0
  io : Option Nat := none
  words : List Word := []
  err : Option (Nat × Nat) := none
  orphan : Bool := false
  dead : Bool := false
  again : Bool := false
  issued : Bool := false
  performed : Bool := false
  deferred : Bool := false
  behind : List Nat := []
  /-- The context of its own that the rest of a released frame's chain has. -/
  alone : Option Nat := none
  deriving DecidableEq, Repr, Inhabited

/-- The context of a frame in its wave-order unit (R232, R233): OWN and SUCC of the last admitted request, the admitted
requests that have not completed, in chain order, and the held ones in order of arrival. [DEDUCED: log 36] -/
structure WCtx where
  isOpen : Bool := false
  cluster : Nat := 0
  own : Option Nat := none
  succ : Nat := 0
  chain : List Nat := []
  held : List Nat := []
  closing : Bool := false
  deriving DecidableEq, Repr, Inhabited

/-- The classes of message that stand by themselves (R398): BULK flits follow one of them, and idle flits carry none. -/
inductive MClass where
  | tok | mreq | mrsp | ack | mgmt | probe
  deriving DecidableEq, Repr, Inhabited

/-- A message on its way between dies (R398, R399): its class, the token of a TOK or PROBE message, the header or ACK word
and the data bytes of another, the die it goes to, the number by which what sent it knows it (0 for a token), and the
tick before which it has not crossed the link (R395). -/
structure Msg where
  cls : MClass := .tok
  fl : Flight := {}
  head : Nat := 0
  data : List Byte := []
  dst : Nat := 0
  id : Nat := 0
  notBefore : Nat := 0
  /-- Ticks that its legs on the dies at both ends take at the least (R375, R394). -/
  leg : Nat := 0
  replay : Bool := false
  /-- An ACK word that shares its flit with another (R398). -/
  half : Bool := false
  deriving DecidableEq, Repr, Inhabited

/-- A frame in a replay store (R397, R402): its FSEQ, its payload flits as descriptor and content, and the messages that
end in it. -/
structure Frame where
  seq : BitVec 12 := 0
  flits : List (Nat × Nat) := []
  msgs : List Msg := []
  deriving DecidableEq, Repr, Inhabited

/-- One direction of a channel of a link (R397 to R402). At the sender: the messages still to be framed, the flits of the
first of them that frames hold already, the frames not yet acknowledged and how many of them have been received, the FSEQ
of the next frame, the permits in use by CODE, whether a NAK has asked for a replay, and how many replays of one frame
have failed. At the receiver: the messages received and not yet passed on, the FSEQ that comes next, whether a frame has
been received, whether the last one failed its check, and the permits to be returned by CODE. -/
structure Chan where
  q : List Msg := []
  cut : Nat := 0
  frames : List Frame := []
  next : Nat := 0
  fseq : BitVec 12 := 0
  used : Tbl Nat := []
  replay : Bool := false
  fails : Nat := 0
  rx : List Msg := []
  rseq : BitVec 12 := 0
  any_ : Bool := false
  nak : Bool := false
  ret : Tbl Nat := []
  deriving DecidableEq, Repr, Inhabited

/-- A die-to-die link or a scale-up port (R393, R403, R405): the modules built, the active ones in ascending order, the
trained rate, RETRY and DISC of its two ends, and whether it has stopped sending until every frame is acknowledged
(R402). -/
structure Link where
  built : Nat := 0
  draining : Bool := false
  active : List Nat := []
  /-- The channels that messages still choose among while the link drains or is down: those active before (R400, R402). -/
  old : List Nat := []
  rate : Nat := 0
  retry0 : Nat := 0
  retry1 : Nat := 0
  disc0 : Nat := 0
  disc1 : Nat := 0
  deriving DecidableEq, Repr, Inhabited

/-- What a region notice says (R398): a frame of a region is parked, with FLT or without, or unparked (R265, R353); or a load
stops (R366). -/
inductive Notice where
  | park (rid fx : Nat) (flt : Bool)
  | unpark (rid fx : Nat)
  | stop (lid : Nat)
  deriving DecidableEq, Repr, Inhabited

/-- A notice on its way to a die, by message `via`; with `back` set, it has taken effect there and the message says so. -/
structure Notified where
  via : Nat := 0
  die : Nat := 0
  what : Notice := .stop 0
  back : Bool := false
  deriving DecidableEq, Repr, Inhabited

/-- A deadlock probe (R359): the element and the firing it started from, the nodes passed, the element it goes to with
the input and route tag of the token that the last hop waits on, and the message that brings it from another die. -/
structure Probe where
  origin : Nat := 0
  f : Firing := {}
  trail : List Nat := []
  goal : Nat := 0
  link : Nat := 0
  rt : Nat := 0
  via : Nat := 0
  deriving DecidableEq, Repr, Inhabited

/-- A save image (R367, R373): what the load held at its stop under the places it had then, the identity of its image
and shape, and SIZE. Regions and wave contexts stand under the region's number in the load. [DESIGN CHOICE: log 51] -/
structure Save where
  hash : List Byte := []
  shapes : List (Nat × Bool) := []
  lid : Nat := 0
  load : Load := {}
  rids : List Nat := []
  regions : Tbl Region := []
  elems : Tbl Elem := []
  cts : Tbl Ct := []
  mts : Tbl Mt := []
  high : List Nat := []
  mem : List Host.Cell := []
  mcg : Tbl (BitVec 29) := []
  reqs : Tbl MReq := []
  wctx : Tbl WCtx := []
  armed : List Nat := []
  size : Nat := 0
  deriving DecidableEq, Repr, Inhabited

/-- A DMA command under way (R391): its descriptor, the load, the bytes of a frame that has come in, the bytes moved, the
requests under way, and the failure code. -/
structure DmaCmd where
  desc : List Byte := []
  lid : Nat := 0
  frame : List Byte := []
  cut : Bool := false
  total : Nat := 0
  moved : Nat := 0
  reqs : List Nat := []
  fail : Nat := 0
  ended : Bool := false
  deriving DecidableEq, Repr, Inhabited

/-- A DMA queue (R388, R390). -/
structure Dq where
  ring : Word := 0
  ptr : Word := 0
  ctl : Word := 0
  cmd : Option DmaCmd := none
  deriving DecidableEq, Repr, Inhabited

/-- An ingress entry (R408). -/
structure Ingress where
  v : Bool := false
  lid : Nat := 0
  dest : BitVec 28 := 0
  fx : BitVec 12 := 0
  path : BitVec 6 := 0
  deriving DecidableEq, Repr, Inhabited

/-- A scale-up port (R405, R406): 0 down, 1 up, 2 failed, and its partner. -/
structure Port where
  status : Nat := 0
  pkg : BitVec 16 := 0
  peer : BitVec 8 := 0
  deriving DecidableEq, Repr, Inhabited

/-- A host by its HID (R415): whether its requester ID has been taken, and its rings. -/
structure HostSt where
  known : Bool := false
  hqbase : Word := 0
  hqptr : Word := 0
  hrbase : Word := 0
  hrptr : Word := 0
  /-- Vectors 0 and 1 signalled (R414). -/
  msi : BitVec 2 := 0
  deriving DecidableEq, Repr, Inhabited

/-- A request record on its way to its endpoint (R416), by message `via`; once it is answered, its reply (STATUS and DATA)
is on its way back. An `ep` of 256 marks a write to the ownership registers that IOE forwards (R418). -/
structure HReq where
  hid : Nat := 0
  die : Nat := 0
  ep : Nat := 0
  op : Nat := 0
  tag : BitVec 32 := 0
  arg : List Byte := []
  via : Nat := 0
  answer : Option (Nat × List Byte) := none
  deriving DecidableEq, Repr, Inhabited

/-- Ownership (R418 to R421): STATE, OWNER, TARGET, EPOCH, the tick at which the lease lapses, and the claims of an
election with the tick at which its window ends. [DEDUCED: log 79] -/
structure Own where
  st : Nat := 0
  owner : Nat := 0xFFFF
  target : Nat := 0xFFFF
  epoch : Nat := 0
  lapse : Nat := 0
  claims : List (Nat × Nat) := []
  window : Nat := 0
  deriving DecidableEq, Repr, Inhabited

/-- What a die knows of its firmware image (R425, R428, R429). -/
structure Fw where
  ver : Word := 0
  svn : Nat := 0
  digest : List Byte := []
  deriving DecidableEq, Repr, Inhabited

/-- Power and temperature of the package (R433 to R435): the mode, the mode asked for with the tick by which it holds, whether this
window skips cycles, the power of the last window and the tick at which it ended, and the highest temperatures of the dies. -/
structure Power where
  mode : Nat := 0
  next : Option (Nat × Nat) := none
  skip : Bool := false
  watts : Nat := 0
  windowEnd : Nat := 0
  throttled : List Nat := []
  temp : Tbl Nat := []
  /-- The dies that have powered off for heat and have not cooled down since (R435). -/
  hotOff : List Nat := []
  deriving DecidableEq, Repr, Inhabited

/-- The step chosen next: the issue of an element's ready-queue head (or the step of its static ring), one device
event at a place, or an access of the host. -/
inductive Work where
  | issue (e : Nat)
  | event (i : Instr) (a b c : Nat)
  /-- A host store to HBM over CXL.mem (R414). -/
  | hostStore (pa : Nat) (b : List Byte)
  /-- A host load from there. -/
  | hostRead (pa n : Nat)
  /-- A read of BAR0 of an I/O die (0 IOW, 1 IOE) by a requester ID (R415). -/
  | barRead (side req off : Nat)
  deriving DecidableEq, Repr

/-- The place of a device event. -/
structure Place where
  a : Nat := 0
  b : Nat := 0
  c : Nat := 0
  deriving DecidableEq, Repr, Inhabited

/-- Bytes by address, as the list of the addresses that do not read as 0 (R56). [DESIGN CHOICE: log 8] -/
abbrev Memory := List Host.Cell

/-- The canonical form of a memory: addresses strictly rising, no byte listed that an unlisted address reads as. -/
def Memory.wf (m : Memory) : Bool := Tbl.wf m

/-- The machine's state. -/
structure State where
  elems : Tbl Elem := []
  cts : Tbl Ct := []
  mts : Tbl Mt := []
  regions : Tbl Region := []
  clRid : Tbl Nat := []
  loads : Tbl Load := []
  /-- Spore-store parts, by load * 4 + die. -/
  spores : Tbl Spore := []
  dies : Tbl Die := []
  journal : Tbl JEntry := []
  jhead : Nat := 1
  jtail : Nat := 1
  /-- MT SRAM and HBM by physical address (R313); an unlisted byte reads 0 (R56). -/
  mem : Memory := []
  /-- MTs with a byte at or above offset 2,097,152 written since their commit (R367). -/
  high : List Nat := []
  /-- Router inputs by (square * 8 + input) * 4 + RT; inputs 0 local, 1 N, 2 E, 3 S, 4 W (R341, R342). -/
  rin : Tbl (List Flight) := []
  /-- The route tag that each router output serves next, by square * 16 + output (R342). -/
  rtNext : Tbl Nat := []
  /-- Tokens that a square's own control sends and that wait for its router. -/
  srcQ : Tbl (List Flight) := []
  routerErr : Tbl Nat := []
  /-- Translation entries of each cluster, most recently used first, and the page walks by number. -/
  tlb : Tbl (List Tlb) := []
  walks : Tbl Walk := []
  /-- Memory requests by number, the wave contexts by RID * 4096 + FX, the egress entries of each die in order. -/
  reqs : Tbl MReq := []
  wctx : Tbl WCtx := []
  egress : Tbl (List Nat) := []
  /-- Counts of engine writes on their way to a sync word (R325). -/
  syncIn : List SyncArr := []
  /-- Sync words that a `swset` has armed and that have not released since, by address: the load plus one (R275). -/
  armed : Tbl Nat := []
  /-- Die-to-die links (0 CD0-CD1, 1 CD1-CD2, 2 IOW-CD0, 3 IOE-CD2, 4 IOW-CD1, 5 IOE-CD1), and channel directions by
  link * 64 + direction * 32 + module; direction 0 leaves the die named first. -/
  links : Tbl Link := []
  chans : Tbl Chan := []
  /-- Park marks and stops on their way to other dies, and back (R265, R366, R398). -/
  notices : List Notified := []
  /-- Messages that were lost with a die or a link that lost power (R305), by number. -/
  lostMsgs : List Nat := []
  /-- Egress sequence numbers given so far, by issuing die * 8 + home die (R399). -/
  eseq : Tbl Nat := []
  /-- Tokens at the endpoint inputs of the I/O dies, by side * 2048 + class * 256 + number (R17), and messages that an
  I/O die sends, by side. -/
  ioIn : Tbl (List Flight) := []
  ioOut : Tbl (List Flight) := []
  /-- Boot step of dies 0 to 4 (R426): 0 before step 1, 2 before the image is read, 5 before the scrub, 6 running, 7 in
  the loader. -/
  boot : Tbl Nat := []
  /-- Words that fail their check, by address: 1 correctable, 2 not (R326). -/
  ecc : Tbl Nat := []
  /-- Stacks that have failed, by die * 4 + stack (R425). -/
  badStacks : List Nat := []
  probes : Tbl Probe := []
  /-- Save images by PMSAVE address (R367). -/
  saves : Tbl Save := []
  /-- DMA queues by side * 256 + number, Ethernet ports (1 up) by side * 4 + port, and the frames sent (R388 to R392). -/
  dq : Tbl Dq := []
  eth : Tbl Nat := []
  ethOut : List (Nat × List Byte) := []
  /-- Scale-up (R405 to R408): routes, ingresses, PKGID, ports, and the tokens sent, by port. -/
  xrt : Tbl Word := []
  ing : Tbl Ingress := []
  pkgid : Nat := 0xFFFF
  ports : Tbl Port := []
  portOut : List (Nat × Flight) := []
  /-- Hosts by HID, host memory as the package has written it, and the requests taken from the rings (R415, R416). -/
  hosts : Tbl HostSt := []
  /-- The requester IDs that have reached BAR0 of each I/O die, in order of first access: their places are the host indexes
  (R415). -/
  requesters : Tbl (List Nat) := []
  hostMem : Memory := []
  mgmt : List HReq := []
  own : Own := {}
  /-- The boot flash by offset (R428), and the firmware of each die. -/
  flash : Memory := []
  fw : Tbl Fw := []
  /-- The requests that a die abandoned when it powered off, until it lists them in the journal (R305, R424). -/
  lost : Tbl (Option (List Nat)) := []
  power : Power := {}
  /-- Model: numbers given to requests so far. -/
  serial : Nat := 0
  /-- Multicast slots by (die * 256 + group) * 64 + slot: V and the destination (R377), and each group's load. -/
  mcg : Tbl (BitVec 29) := []
  mcgLoad : Tbl Nat := []
  /-- Fused-off squares of the part (R11, R18). -/
  fused : List Nat := []
  /-- The timebase in units of 1/18 ns since power was applied, and the cycles of the arithmetic clock (R4). -/
  units : Nat := 0
  cycles : Nat := 0
  /-- Model: the step chosen next. -/
  sel : Option Work := none
  /-- Model: the place of the device event being performed. -/
  at_ : Place := {}
  /-- Model: the firing being performed. -/
  cur : Firing := {}
  /-- Model: how many free values have been drawn. -/
  free : Nat := 0
  deriving DecidableEq, Repr, Inhabited

/-- The machine after package reset (R56): every table lists nothing, and every register holds its reset value. [DESIGN CHOICE: log 7] [DESIGN CHOICE: log 11] [DEDUCED: log 79] -/
def State.reset : State := {}

/-- Why a step stops. -/
inductive Fault where
  /-- An access to a physical address that no unit holds, where the spec gives neither a fault record nor an effect. No
  meaning raises it: every such access of the spec ends in a fault record, a completion code or a reply (R313, R316,
  R356, R391). Safe: the machine would stop. -/
  | noSuchAddress (pa : Nat)
  deriving DecidableEq, Repr

/-- Why a step has no meaning. -/
inductive Refusal where
  /-- An arm of `exec` whose instruction has no meaning in the model; no arm raises it. Safe: the machine would stop. -/
  | notModelled (mnemonic : String)
  deriving DecidableEq, Repr

end Sys2Proof.Machine
end

