-- ==== Sys2Proof/Machine/Places.lean ====
section
/-!
DEFINITION. Places as numbers, access to the parts of the state, drawing a free value, and the timebase. A square is
die * 4096 + TILE (R5, R14), an element is square * 4 + EL, a node key is element * 1024 + NODE, a cluster is
die * 48 + its number on the die (R11).
-/
namespace Sys2Proof.Machine

def sqDie (q : Nat) : Nat := q / 4096
def sqX (q : Nat) : Nat := q % 64
def sqY (q : Nat) : Nat := q % 4096 / 64
/-- R5: a square with x + y even is a CT. -/
def isCt (q : Nat) : Bool := (sqX q + sqY q) % 2 == 0
def mkSq (d x y : Nat) : Nat := d * 4096 + y * 64 + x
/-- R11: the cluster of a square. -/
def clusterOf (q : Nat) : Nat := sqDie q * 48 + sqY q / 6 * 8 + sqX q / 8
/-- R323: the home MT of a CT, and the CT of a home MT. -/
def pairSq (q : Nat) : Nat := if q % 2 == 0 then q + 1 else q - 1

/-! ### Placed destinations (R97) -/

def destDie (d : BitVec 28) : Nat := fld d.toNat 26 2
def destTile (d : BitVec 28) : Nat := fld d.toNat 14 12
def destY (d : BitVec 28) : Nat := fld d.toNat 20 6
def destX (d : BitVec 28) : Nat := fld d.toNat 14 6
def destEl (d : BitVec 28) : Nat := fld d.toNat 12 2
def destNode (d : BitVec 28) : Nat := fld d.toNat 2 10
def destPort (d : BitVec 28) : Nat := fld d.toNat 0 2
def destSq (d : BitVec 28) : Nat := fld d.toNat 14 14
def destElem (d : BitVec 28) : Nat := fld d.toNat 12 16
def destKey (d : BitVec 28) : Nat := fld d.toNat 2 26
/-- The placed destination of a node port. -/
def mkDest (key port : Nat) : BitVec 28 := BitVec.ofNat 28 (key * 4 + port)
/-- The destination names a CT square on a compute die. -/
def destIsCt (d : BitVec 28) : Bool := destDie d != 3 && destY d < 36 && isCt (destSq d)
/-- The destination names an MT square: a named queue (R97). -/
def destIsMt (d : BitVec 28) : Bool := destDie d != 3 && destY d < 36 && !isCt (destSq d)
/-- The key of the queue that a queue destination names. -/
def destQueue (d : BitVec 28) : Nat := destSq d * 4 + destNode d % 4

/-- The destination fields of a sent token: a multicast destination gives MC = 1 and TILE = the group (R97). -/
def addressed (d : BitVec 28) (t : Token) : Token :=
  if destDie d != 3 && destY d == 63 then
    { t with mc := true, dest := BitVec.ofNat 28 (destDie d * 2 ^ 26 + (destEl d * 64 + destX d) * 2 ^ 14) }
  else { t with mc := false, dest := d }

/-! ### Access to the parts of the state -/

def State.elem (s : State) (e : Nat) : Elem := s.elems.look e
def State.modElem (s : State) (e : Nat) (f : Elem → Elem) : State := { s with elems := s.elems.upd e f }
def State.ct (s : State) (q : Nat) : Ct := s.cts.look q
def State.modCt (s : State) (q : Nat) (f : Ct → Ct) : State := { s with cts := s.cts.upd q f }
def State.mt (s : State) (q : Nat) : Mt := s.mts.look q
def State.modMt (s : State) (q : Nat) (f : Mt → Mt) : State := { s with mts := s.mts.upd q f }
/-- A queue by its key, MT square * 4 + index. -/
def State.queue (s : State) (k : Nat) : Queue := (s.mt (k / 4)).queues.look (k % 4)
def State.modQueue (s : State) (k : Nat) (f : Queue → Queue) : State :=
  s.modMt (k / 4) fun m => { m with queues := m.queues.upd (k % 4) f }
def State.region (s : State) (rid : Nat) : Region := s.regions.look rid
def State.modRegion (s : State) (rid : Nat) (f : Region → Region) : State := { s with regions := s.regions.upd rid f }
def State.load (s : State) (lid : Nat) : Load := s.loads.look lid
def State.modLoad (s : State) (lid : Nat) (f : Load → Load) : State := { s with loads := s.loads.upd lid f }
def State.die (s : State) (d : Nat) : Die := s.dies.look d
/-- Arithmetic cycles of a die (R433). -/
def State.cyc (s : State) (d : Nat) : Nat := (s.die d).cyc
def State.modDie (s : State) (d : Nat) (f : Die → Die) : State := { s with dies := s.dies.upd d f }

/-- The region that owns a square; 0 when its cluster is free. -/
def State.ridOf (s : State) (q : Nat) : Nat := s.clRid.look (clusterOf q)
def State.regionOf (s : State) (q : Nat) : Region := s.region (s.ridOf q)
/-- The load bound to the region that owns a square. -/
def State.lidOf (s : State) (q : Nat) : Nat := (s.regionOf q).load
def State.fxRec (s : State) (rid fx : Nat) : FxRec := (s.region rid).fx.look fx
def State.modFx (s : State) (rid fx : Nat) (f : FxRec → FxRec) : State :=
  s.modRegion rid fun r => { r with fx := r.fx.upd fx f }

/-- The record of a node, by node key (R37). -/
def State.record (s : State) (n : Nat) : Rec96 := (s.elem (n / 1024)).nodes.look (n % 1024)
def State.view (s : State) (n : Nat) : RecView := viewOfRecord (s.record n)

/-- The request goes to an object on a square, or to Igtex or an I/O die: a buffer of another die's MT (R404), a queue, a
barrier cell, an address generator, a converter, a fault queue, and so on. -/
def MReq.atObject (r : MReq) : Bool := 0xB0 ≤ r.op || (0x83 ≤ r.op && r.op ≤ 0x8B)

/-- The node key of a firing, and its square. -/
def Firing.key (f : Firing) : Nat := f.elem * 1024 + f.node
def Firing.sq (f : Firing) : Nat := f.elem / 4

/-! ### Physical addresses (R285, R313) -/

/-- The address map splits a physical address into HBM and the scratch form of an MT's bytes (R313). -/
def isScratch (pa : Nat) : Bool := pa / 2 ^ 48 == 1
/-- The physical address of a byte of an MT. -/
def scratchPa (q off : Nat) : Nat := 2 ^ 48 + sqDie q * 2 ^ 34 + sqY q * 2 ^ 28 + sqX q * 2 ^ 22 + off
/-- The home die of an address (R285). -/
def homeDie (pa : Nat) : Nat := if isScratch pa then fld pa 34 2 else fld pa 38 2
/-- The address that stands for a word of a CT (R328). -/
def ctWordPa (q : Nat) : Nat := scratchPa (pairSq q) 0

/-- The `n` low bytes of a number, lowest first. -/
def toBytes (n v : Nat) : List Byte :=
  match n with
  | 0 => []
  | n + 1 => BitVec.ofNat 8 v :: toBytes n (v / 256)

/-! ### Error counts (R326, R328) -/

/-- A 16-bit count that stops at 0xFFFF. -/
def bump16 (w : Word) (lo : Nat) : Word := if fld w.toNat lo 16 = 0xFFFF then w else w + BitVec.ofNat 64 (2 ^ lo)
/-- R328: the last word that fails its check is recorded on its die. [DEDUCED: log 63] -/
def State.noteUe (s : State) (pa : Nat) : State :=
  s.modDie (homeDie pa) fun d => { d with ecclast := BitVec.ofNat 64 (2 ^ 63 + pa % 2 ^ 52) }
/-- R328: an ECCUE raised over a word is counted on the word's die, and the word is recorded. -/
def State.countUe (s : State) (pa : Nat) : State :=
  (s.noteUe pa).modDie (homeDie pa) fun d => { d with ecccnt := bump16 d.ecccnt 0 }
/-- R328, R20: the ECCUE of a token whose parity fails is counted; it names no word. -/
def State.countParity (s : State) (die : Nat) : State := s.modDie die fun d => { d with ecccnt := bump16 d.ecccnt 0 }

/-- The places of node records, of frame slots (16,384 to a CT) and of accumulator words (8,192 to an element) in the table
of failing words (R326): no addresses of memory; a code covers two words of an accumulator. -/
def recordEcc (key : Nat) : Nat := 2 ^ 60 + key
/-- [DESIGN CHOICE: log 13] -/
def slotEcc (q i : Nat) : Nat := 2 ^ 61 + q * 16384 + i
/-- [DESIGN CHOICE: log 13] -/
def accEcc (e acc i : Nat) : Nat := 2 ^ 62 + e * 8192 + acc * 1024 + i / 2 * 2
/-- `n` errors corrected in the CT tables of a die are counted (R328). -/
def State.addCe (s : State) (die n : Nat) : State :=
  match n with
  | 0 => s
  | n + 1 => (s.modDie die fun d => { d with ecccnt := bump16 d.ecccnt 32 }).addCe die n
/-- The words of CT tables among `l` that are read with a correctable error (R326). -/
def State.correctable (s : State) (l : List Nat) : Nat := (l.filter fun k => s.ecc.look k == 1).length
/-- They are counted. -/
def State.countTableCe (s : State) (die : Nat) (l : List Nat) : State := s.addCe die (s.correctable l)
/-- Words of CT tables that are written whole are good again (R326). -/
def State.mendTable (s : State) (l : List Nat) : State := { s with ecc := l.foldl (fun t k => t.del k) s.ecc }

/-! ### Free values -/

/-- Advance the counter of draws. -/
def State.drawn (s : State) : State := { s with free := s.free + 1 }

/-! ### The timebase (R4) -/

/-- A die's reading of the timebase, in ticks: a tick is 18 units; the copies of the dies differ by at most 2 ticks. [DESIGN CHOICE: log 4] [DESIGN CHOICE: log 5] -/
def State.tick (s : State) (die : Nat) : Nat := s.units / 18 + Config.skew die % 3

/-- Every value of a table, changed by `f`, which sees the key. -/
def mapTbl {α : Type} (m : Tbl α) (f : Nat → α → α) : Tbl α := m.map fun p => (p.1, f p.1 p.2)

/-- The first index from `i` on, among `n`, that the table's `p` does not hold. -/
def firstFree (n i : Nat) (p : Nat → Bool) : Option Nat :=
  match n with
  | 0 => none
  | n + 1 => if p i then firstFree n (i + 1) p else some i

end Sys2Proof.Machine
end

