-- ==== Sys2Proof/Machine/Links.lean ====
section
/-!
DEFINITION. Messages between dies: which links a message takes (R393, R394), its channel (R400), its header (R399), and
whether it is still on its way (R395, R402). Dies 0 to 2 are CD0 to CD2, 3 is IOW and 4 is IOE.
-/
namespace Sys2Proof.Machine

/-- The link that joins two dies directly. -/
def directLink (a b : Nat) : Option Nat :=
  match min a b, max a b with
  | 0, 1 => some 0
  | 1, 2 => some 1
  | 0, 3 => some 2
  | 2, 4 => some 3
  | 1, 3 => some 4
  | 1, 4 => some 5
  | _, _ => none

/-- The links from one die to another, in order; those without a direct link go through CD1 (R394). -/
def pathLinks (a b : Nat) : List Nat :=
  if a = b then []
  else
    match directLink a b with
    | some l => [l]
    | none => (directLink a 1).toList ++ (directLink 1 b).toList

/-- The I/O die of a scale-up port, and the link number of its one channel: the package at its other end counts as die 5 (R405). -/
def portDie (p : Nat) : Nat := if p < 72 then 3 else 4
def portLink (p : Nat) : Nat := 6 + p

/-- The two dies of a link. -/
def linkDies (l : Nat) : Nat × Nat :=
  match l with
  | 0 => (0, 1)
  | 1 => (1, 2)
  | 2 => (3, 0)
  | 3 => (4, 2)
  | 4 => (3, 1)
  | 5 => (4, 1)
  | n + 6 => (portDie n, 5)
/-- The die that a direction of a link leaves, and the one that it enters. -/
def dirFrom (l dir : Nat) : Nat := if dir = 0 then (linkDies l).1 else (linkDies l).2
def dirTo (l dir : Nat) : Nat := if dir = 0 then (linkDies l).2 else (linkDies l).1
/-- The direction in which a message leaves die `d` on a link. -/
def dirOf (l d : Nat) : Nat := if (linkDies l).1 = d then 0 else 1

/-- R402: a link with no active channel is down. -/
def State.linkUp (s : State) (l : Nat) : Bool := !(s.links.look l).active.isEmpty
/-- R426: a die past its last boot step. -/
def State.running (s : State) (d : Nat) : Bool := s.boot.look d == 6
/-- R395: the least ticks from one die to another. [DESIGN CHOICE: log 4] -/
def crossTicks (a b : Nat) : Nat := 12 * (pathLinks a b).length

/-! ### Headers (R399) -/

/-- MOP, SIZE (from the data bytes), RQID, the source and destination dies, STAT, ESEQ and PA of a message header; ESEQ is 0
in every MOP but 2 and 4, and MOP 6 gives the object's scratch offset. -/
def msgHead (mop size rqid src dst stat eseq pa : Nat) : Nat :=
  mop % 16 * 2 ^ 124 + (size - 1) % 256 * 2 ^ 116 + rqid % 2 ^ 16 * 2 ^ 100 + src % 8 * 2 ^ 97 + dst % 8 * 2 ^ 94 +
    stat % 16 * 2 ^ 90 + (if mop = 2 ∨ mop = 4 then eseq else 0) % 2 ^ 16 * 2 ^ 74 +
    (if mop = 6 then pa % 2 ^ 48 else pa) % 2 ^ 52
/-- The requester slot of a firing whose request stands at an allocator, a buffer or another object (R399). -/
def rqidOf (f : Firing) : Nat := f.key % 2 ^ 16
/-- An ACK word: RQID, STAT and WHAT. -/
def ackWord (rqid stat what : Nat) : Nat := rqid % 2 ^ 16 * 2 ^ 48 + stat % 16 * 2 ^ 44 + what % 16 * 2 ^ 40
/-- STAT as a receiver reads it: a reserved code is read as 1. -/
def readStat (n : Nat) : Nat := if n < 4 then n else 1

/-! ### Channels (R400) -/

/-- Key of a channel direction. -/
def chanKey (l dir m : Nat) : Nat := l * 64 + dir * 32 + m
/-- The number by which a message chooses its channel. -/
def Msg.index (m : Msg) : Nat :=
  match m.cls with
  | .tok => if m.fl.tok.mc then destTile m.fl.tok.dest + m.fl.tok.rt.toNat
            else destTile m.fl.tok.dest + 4 * destNode m.fl.tok.dest + m.fl.tok.rt.toNat
  | .mreq => fld m.head 6 10
  | .mrsp => fld m.head 100 16
  | .ack => fld m.head 48 16
  | .mgmt | .probe => 0
/-- The module that a message takes on a link, counted among its active channels. -/
def Link.channel (k : Link) (m : Msg) : Nat :=
  let l := if k.old.isEmpty then k.active else k.old
  l[m.index % l.length]?.getD 0

/-! ### Ways on a die (R375, R394) -/

/-- The gateway square of link `l` for a message on square `q`, and the direction in which it leaves (R393, R394). -/
def gateway (q l : Nat) : Nat × Nat × Nat :=
  let d := sqDie q
  match l with
  | 0 => if d = 0 then (63, sqY q, 0) else (0, sqY q, 1)
  | 1 => if d = 1 then (63, sqY q, 0) else (0, sqY q, 1)
  | 2 => (0, sqY q, 1)
  | 3 => (63, sqY q, 1)
  | 4 => (min (sqX q) 31, 0, 1)
  | _ => (max (sqX q) 32, 35, 1)

/-- The square and router input by which what a link brings enters a compute die (R394): over links 0 and 1 in row `row`, from an
I/O die at a square fixed by the destination (x, y). [DEDUCED: log 60] -/
def entryPlace (l dir row x y : Nat) : Nat × Nat :=
  match l with
  | 0 | 1 => if dir = 0 then (mkSq (dirTo l dir) 0 row, 4) else (mkSq (dirTo l dir) 63 row, 2)
  | 2 => (mkSq 0 0 y, 4)
  | 3 => (mkSq 2 63 y, 2)
  | 4 => (mkSq 1 (min x 31) 0, 1)
  | _ => (mkSq 1 (max x 32) 35, 3)
/-- Hops between two squares of a die, x first and then y. -/
def hopsBetween (p q : Nat) : Nat := (sqX p - sqX q) + (sqX q - sqX p) + ((sqY p - sqY q) + (sqY q - sqY p))
/-- The ticks that the legs of a message from die `a` to die `b` take on these dies at the least, at a hop in a cycle of 15/18
tick: from square `p` to the gateway of the first link, and from the entry square of the last to square `q`. An end whose
square is open, such as an HBM slice or Igtex, has no such bound (R454). [DESIGN CHOICE: log 86] -/
def msgLeg (a b : Nat) (p q : Option Nat) : Nat :=
  match pathLinks a b with
  | [] => 0
  | l :: rest =>
    let last := (rest.getLast?).getD l
    let out := match p with
      | some x => if sqDie x < 3 then (let g := gateway x l; hopsBetween x (mkSq (sqDie x) g.1 g.2.1)) else 0
      | none => 0
    let into := match q with
      | some y =>
        let row := match p with | some x => if sqDie x < 3 then sqY x else sqY y | none => sqY y
        if sqDie y < 3 then hopsBetween (entryPlace last (if dirTo last 0 = b then 0 else 1) row (sqX y) (sqY y)).1 y else 0
      | none => 0
    (out + into) * 15 / 18

/-- A message stands at the sender of a link, to be framed; its crossing is measured by the receiver's timebase (R395), with its legs on the two dies. [DESIGN CHOICE: log 86] -/
def State.onLink (s : State) (l dir : Nat) (m : Msg) : State :=
  { s with chans := s.chans.upd (chanKey l dir ((s.links.look l).channel m)) fun c =>
      { c with q := c.q ++ [{ m with notBefore := s.tick (dirTo l dir) + 12 + m.leg }] } }

/-- A message that is no token sets out from die `a` to die `b`: its number, 0 where it has no boundary to cross. [DESIGN CHOICE: log 86] -/
def State.post (s : State) (a b : Nat) (m : Msg) : State × Nat :=
  match pathLinks a b with
  | [] => (s, 0)
  | l :: _ =>
    let n := s.serial + 1
    ({ s with serial := n }.onLink l (dirOf l a) { m with id := n, dst := b }, n)

/-- A notice or another message of Igtex and the region control (R398). [DESIGN CHOICE: log 86] -/
def State.postMgmt (s : State) (a b rqid : Nat) : State × Nat :=
  s.post a b { cls := .mgmt, head := msgHead 8 1 rqid a b 0 0 0 }

/-! ### Permits (R397, R398, R401) -/

/-- CODE that the first flit of a message is charged to. -/
def Msg.code (m : Msg) : Nat :=
  match m.cls with
  | .tok => m.fl.tok.rt.toNat
  | .mreq => 4
  | .mrsp => 5
  | .ack => 6
  | .mgmt => 8
  | .probe => 9
/-- Its permits: 1 for a token, 2 for any other flit, which two ACK words may share. -/
def Msg.cost (m : Msg) : Nat := if m.cls == .tok || m.cls == .probe || m.half then 1 else 2
/-- The BULK flits that follow a header: 16 data bytes go with the header, and 32 into each of them. -/
def Msg.bulk (m : Msg) : Nat :=
  if m.cls == .mreq || m.cls == .mrsp || m.cls == .mgmt then (m.data.length - 16 + 31) / 32 else 0
/-- The permits of a whole message, by CODE; 7 is BULK. -/
def Msg.charge (m : Msg) (t : Tbl Nat) : Tbl Nat :=
  let t1 := t.upd m.code (· + m.cost)
  if m.bulk = 0 then t1 else t1.upd 7 (· + 2 * m.bulk)
/-- Each CODE has 16 permits of its own, and 352 are shared. -/
def sharedUsed (t : Tbl Nat) : Nat := ((List.range 10).map fun k => t.look k - 16).foldl (· + ·) 0
/-- A flit has its permits: the reserved ones first, and then shared ones. -/
def permitOk (t : Tbl Nat) (code n : Nat) : Bool :=
  t.look code + n ≤ 16 || sharedUsed (t.upd code (· + n)) ≤ 352
/-- The receiver has passed messages on: their permits are to be returned. -/
def Chan.passed (c : Chan) (l : List Msg) : Chan := { c with ret := l.foldl (fun t m => m.charge t) c.ret }
/-- Tokens that are discarded leave the channel. -/
def Chan.discard (c : Chan) (keep : Flight → Bool) : Chan :=
  let stays := fun (m : Msg) => m.cls != .tok || keep m.fl
  let gone := (c.rx ++ (c.frames.drop c.next).flatMap fun f => f.msgs).filter fun m => !stays m
  { c.passed gone with
    q := c.q.filter stays, rx := c.rx.filter stays
    frames := c.frames.map fun f => { f with msgs := f.msgs.filter stays } }

/-! ### Messages on their way -/

/-- The messages in the frames that the receiver has not received. -/
def Chan.framed (c : Chan) : List Msg := (c.frames.drop c.next).flatMap fun f => f.msgs
/-- The messages of a channel, from its receiver back to its sender. -/
def Chan.msgs (c : Chan) : List Msg := c.rx ++ c.framed ++ c.q
/-- The tokens of a channel. -/
def Chan.tokens (c : Chan) : List Flight := (c.msgs.filter fun m => m.cls == .tok).map fun m => m.fl
/-- The message `n` is on its way, or lost. -/
def State.crossing (s : State) (n : Nat) : Bool :=
  n != 0 && (s.lostMsgs.contains n || s.chans.any fun p => p.2.msgs.any fun m => m.id == n)
/-- The notice is for load `lid`, or for one of these regions. -/
def Notice.names (x : Notice) (lid : Nat) (rids : List Nat) : Bool :=
  match x with
  | .park rid _ _ | .unpark rid _ => rids.contains rid
  | .stop l => l == lid
/-- The numbers of the messages in some channels. -/
def msgIds (l : Tbl Chan) : List Nat := (l.flatMap fun p => p.2.msgs.map fun m => m.id).filter (· != 0)

end Sys2Proof.Machine
end

