-- ==== Sys2Proof/Machine/LoadEnd.lean ====
section
/-!
DEFINITION. The end of a fabric load: completion (R155), `halt` (R276) and failure (R330), with the discard and release
of everything the load holds (R350, R377, R408) and its NOTIFY token (R330).
-/
namespace Sys2Proof.Machine

/-- Write a journal entry's change of state, with the tick (R422). -/
def State.modJournal (s : State) (seq : Nat) (f : JEntry → JEntry) : State :=
  { s with journal := s.journal.upd seq fun j => { f j with tick := s.tick 3 } }

/-- The token goes to a DIE = 3 endpoint, or to a named queue outside the given regions: it is delivered when the load
ends, and every other token of the load is discarded (R155). -/
def State.outward (s : State) (rids : List Nat) (t : Token) : Bool :=
  !t.mc && (destDie t.dest == 3 || (destIsMt t.dest && !rids.contains (s.ridOf (destSq t.dest))))

/-- The number by which an I/O die sends what has come in on an ingress; a token of it has no sending load in the package
(R408, R409). -/
def ingressSrc (side : Nat) : Nat := 2 ^ 26 + 3 * 4096 + 2 + side
def Flight.ingress (fl : Flight) : Bool := ingressSrc 0 ≤ fl.src && fl.src ≤ ingressSrc 1

/-- Token of load `lid` that does not survive its end. -/
def State.doomed (s : State) (lid : Nat) (rids : List Nat) (fl : Flight) : Bool :=
  fl.lid == lid && !s.outward rids fl.tok

/-- An element of an ended load keeps its records, accumulators and LUTs (R56) and the tokens that are still to be
delivered. [DESIGN CHOICE: log 114] -/
def Elem.discard (x : Elem) (keep : Flight → Bool) : Elem :=
  { x with
    readyQ := [], back := [], inStage := [], outStage := x.outStage.filter keep,
    answers := (x.answers.map fun a => { a with toks := a.toks.filter keep }).filter fun a => !a.toks.isEmpty,
    macroQ := [], ordWait := [], run := none, macroDone := none, lastStop := none, rpt := none, ctxs := [],
    held := {}, marks := [], markIn := [], entered := false, stop := false, ring := {}, links := [], lutLoads := [] }

/-- A CT of an ended load keeps the bytes of its slots; its local parts, parked tokens and waiting firings go. -/
def Ct.discard (c : Ct) : Ct :=
  { c with
    ftab := [], park := [], spilled := [], spilledFx := [], spillRuns := [], restoreQ := [], restoring := none,
    lineFull := [], spawnWait := [], splitQ := [], matcherIn := [],
    bar := mapTbl c.bar fun _ b => { b with waiting := [], arrived := [] } }

/-- The NOTIFY token of R330 step 8: KIND 00, the tag of NOTIFY, AUX 0. -/
def notifyToken (notify : Nat) (state code lid : Nat) : Token :=
  { dest := BitVec.ofNat 28 (fld notify 0 28), fx := BitVec.ofNat 12 (fld notify 28 12),
    path := BitVec.ofNat 6 (fld notify 40 6), rt := BitVec.ofNat 2 (fld notify 46 2),
    val := BitVec.ofNat 64 (state + code * 2 ^ 8 + lid % 2 ^ 32 * 2 ^ 32) }

/-- A field of a launch command (R329). -/
def cmdField (cmd : List Byte) (off n : Nat) : Nat := leBytes ((cmd.drop off).take n)

/-- Send NOTIFY if the command asks for it, from Igtex's place on the home die. -/
def State.notify (s : State) (lid state code : Nat) : State :=
  let cmd := (s.load lid).cmd
  let n := cmdField cmd 0x28 8
  if tbit n 63 then
    let q := mkSq (cmdField cmd 0x06 1) 0 0
    let t := notifyToken n state code lid
    { s with srcQ := s.srcQ.upd q fun l => l ++ [{ tok := addressed t.dest t, src := 2 ^ 26 + q, lid := lid }] }
  else s

/-- An MT of an ended load keeps its bytes, its descriptors' generations and the registers of its units, with no chain
running (R56, R311). -/
def Mt.discard (m : Mt) : Mt :=
  { mode := m.mode, bufs := m.bufs, istate := m.istate, edge := m.edge
    queues := mapTbl m.queues fun _ q => { q with waitPush := [], waitPop := [], arm := [], copy := none, log := [] }
    ag := mapTbl m.ag fun _ a => { a with ctl := a.ctl &&& ~~~0x80000000#64 }
    conv := mapTbl m.conv fun _ c => { bind := c.bind, next := c.next } }

/-- A memory request of an ended load that has left may still perform, without an answer (R235). -/
def MReq.mayPerform (r : MReq) : Bool :=
  (r.stage == .sent || r.stage == .posted) && !r.atObject && r.op != 0x94 && !r.deferred

/-- The load's requests, contexts, walks, probes and armed words go. -/
def State.discardReqs (s : State) (lid : Nat) (rids : List Nat) : State :=
  { s with
    reqs := (mapTbl s.reqs fun _ r => if r.lid == lid then { r with dead := true, wave := false } else r).filter fun p =>
      p.2.lid != lid || p.2.orphan || p.2.mayPerform
    wctx := s.wctx.filter fun p => !rids.contains (p.1 / 4096)
    walks := s.walks.filter fun p => !rids.contains p.2.rid || p.2.orphan
    armed := s.armed.filter fun p => p.2 != lid + 1
    probes := s.probes.filter fun p => !rids.contains (s.ridOf (p.2.origin / 4)) }

/-- R350: everything the load holds is discarded or freed. [DEDUCED: log 39] -/
def State.discardLoad (s : State) (lid : Nat) : State :=
  let rids := (s.load lid).regions
  let inLoad := fun q => rids.contains (s.ridOf q)
  let keep := fun fl => !s.doomed lid rids fl
  let kept := fun (t : Tbl (List Flight)) => (mapTbl t fun _ l => l.filter keep).filter fun p => !p.2.isEmpty
  let s1 := { s.discardReqs lid rids with
    elems := mapTbl s.elems fun e x => if inLoad (e / 4) then x.discard keep else x
    cts := mapTbl s.cts fun q c => if inLoad q then c.discard else c
    mts := mapTbl s.mts fun q m => if inLoad q then m.discard else { m with readers := m.readers.filter fun d => d.lid != lid }
    rin := kept s.rin
    srcQ := kept s.srcQ
    ioOut := kept s.ioOut
    chans := mapTbl s.chans fun _ c => c.discard keep
    syncIn := s.syncIn.filter fun c => c.lid != lid
    notices := s.notices.filter fun n => !n.what.names lid rids
    spores := s.spores.filter fun p => p.1 / 4 != lid
    mcg := s.mcg.filter fun p => s.mcgLoad.look (p.1 / 64) != lid || lid == 0
    mcgLoad := s.mcgLoad.filter fun p => p.2 != lid }
  { s1 with
    regions := s1.regions.filter fun p => !rids.contains p.1
    clRid := s1.clRid.filter fun p => !rids.contains p.2 }

/-- What a die keeps for a load that ends: its launch request goes, and a pre-emption of it finishes with CMPL and
DONE and SIZE 0 (R363, R369). -/
def Die.dropLoad (d : Die) (lid : Nat) : Die :=
  let d := { d with launchQ := d.launchQ.filter fun r => r.lid != lid
                    pmWait := d.pmWait.filter fun p => p.lid != lid }
  match d.pm with
  | none => d
  | some p =>
    if p.lid != lid then d
    else { d with pm := none
                  pmstat := (d.pmstat &&& 0x7FFF000000000000#64) ||| 0x4800000000000000#64
                  pmctl := d.pmctl &&& 0x7FFFFFFFFFFFFFFF#64 }

/-- R350: the load ends with a final state of the journal (2 completed, 3 failed), a code and an argument; a load that
has ended does not end again. A pre-emption that has not reached its save finds the load gone (R369). -/
def State.endLoad (s : State) (lid state code arg : Nat) : State :=
  let ld := s.load lid
  if ld.phase == .ended then s
  else
    let s1 := (s.discardLoad lid).modJournal lid fun j => { j with state := state, code := code, arg := arg }
    let s2 := s1.notify lid state code
    let s3 := { s2 with dies := mapTbl s2.dies fun _ d => d.dropLoad lid, ing := s2.ing.filter fun p => p.2.lid != lid }
    s3.modLoad lid fun l => { cmd := l.cmd, phase := .ended, serial := l.serial }

/-- R276, R354: the load ends as `halt` ends it, with v[31:0] as the argument. -/
def State.haltLoad (s : State) (lid : Nat) (v : Word) : State := s.endLoad lid 3 0x0007 (v.toNat % 2 ^ 32)

end Sys2Proof.Machine
end

