-- ==== Sys2Proof/Machine/Ops.lean ====
section
/-!
DEFINITION. The shared operations: frames and slots (R26 to R36), parking and release (R265, R139), taking a fault
(R353, R354, R412) and sending tokens (R87, R97, R103, R125).
-/
namespace Sys2Proof.Machine

/-- The element that sent a token on the local link of its tile; 4 for the tile's own control. -/
def Flight.rank (fl : Flight) : Nat := if fl.src < 2 ^ 26 then fl.src / 1024 % 4 else 4

/-! ### Frames on a tile -/

/-- Slots of a frame class (R25). -/
def clsSlots (c : BitVec 2) : Nat :=
  match c.toNat with
  | 0 => 16
  | 1 => 64
  | _ => 256

/-- The tile's valid frame-table entry for an FX. -/
def Ct.entry (c : Ct) (fx : Nat) : Option (Nat × FEntry) := c.ftab.find? fun p => p.2.v && p.2.fx.toNat == fx

/-- Slot `n` of the local part of `fx`: in the frame store, or in the spore store while the part is spilled (R36). -/
def Ct.slot (c : Ct) (fx n : Nat) : Slot :=
  match c.entry fx with
  | some p => c.slots.look (p.2.base.toNat + n)
  | none => ((c.spilled.look fx).slots[n]?).getD {}

/-- Write slot `n` of the local part of `fx`, wherever the part is; nothing where there is no part. -/
def Ct.modSlot (c : Ct) (fx n : Nat) (f : Slot → Slot) : Ct :=
  match c.entry fx with
  | some p => { c with slots := c.slots.upd (p.2.base.toNat + n) f }
  | none =>
    if c.spilledFx.contains fx then
      { c with spilled := c.spilled.upd fx fun sp => { sp with slots := sp.slots.modify n f } }
    else c

/-- The class of the frame's local part on the tile. -/
def Ct.clsOf (c : Ct) (fx : Nat) : BitVec 2 :=
  match c.entry fx with
  | some p => p.2.cls
  | none => (c.spilled.look fx).cls

/-- The place of slot `n` of a frame in the table of failing words, where its part is on the tile (R326). -/
def State.slotEccs (s : State) (q fx : Nat) (l : List Nat) : List Nat :=
  match (s.ct q).entry fx with
  | some p => l.map fun n => slotEcc q (p.2.base.toNat + n)
  | none => []
/-- A slot among `l` fails its check beyond repair. -/
def State.slotsFail (s : State) (q fx : Nat) (l : List Nat) : Bool := (s.slotEccs q fx l).any fun k => s.ecc.look k == 2

/-- Slot `n` of the firing's frame, on its own tile. [DEDUCED: log 59] -/
def State.slotOf (s : State) (f : Firing) (n : Nat) : Slot := (s.ct f.sq).slot f.t0.fx.toNat n
def State.modSlotOf (s : State) (f : Firing) (n : Nat) (g : Slot → Slot) : State :=
  s.modCt f.sq fun c => c.modSlot f.t0.fx.toNat n g

/-! ### Parking (R265) -/

/-- PK in every frame-table entry of the FX on the CTs of the region that a die has, and bits of slot 3 in its local parts (R30). -/
def State.setPk (s : State) (d rid fx : Nat) (b : Bool) (g : Word → Word) : State :=
  { s with cts := mapTbl s.cts fun q c =>
      if s.ridOf q == rid && sqDie q == d then
        let c1 := { c with ftab := mapTbl c.ftab fun _ e => if e.v && e.fx.toNat == fx then { e with pk := b } else e }
        c1.modSlot fx 3 fun x => { x with val := g x.val }
      else c }

/-- Return a charge to the spore-store part that a CT spills to (R324). -/
def State.uncharge (s : State) (q bytes : Nat) : State :=
  { s with spores := s.spores.upd (s.lidOf q * 4 + sqDie q) fun p => { p with occ := p.occ - bytes } }

/-- Bytes charged for the overflow tokens of a frame on a CT: 64 for every 4 tokens or part of 4 (R324, R349). -/
def Ct.lineBytes (c : Ct) (fx : Nat) : Nat :=
  let n := (c.park.filter fun p => p.overflow && p.fl.tok.fx.toNat == fx).length
  (n + 3) / 4 * 64

/-- Tokens come back to a CT's elements, in this order, behind those that have come back before; `code` marks them: 6
restored, 7 unparked, 8 forwarded by the spill matcher. [DEDUCED: log 28] -/
def State.giveBack (s : State) (q code : Nat) (l : List Flight) : State :=
  [0, 1, 2, 3].foldl (fun st el =>
    let mine := (l.filter fun fl => destEl fl.tok.dest == el).map fun fl => { fl with link := code, ready := 0 }
    if mine.isEmpty then st else st.modElem (q * 4 + el) fun x => { x with back := x.back ++ mine }) s

/-- The park-buffer tokens of a frame go back to the input stages of one CT's elements, in the order in which they were
parked and ahead of new arrivals. A restore that its SPILLFULL has put off is demanded again for the tokens that the
matcher still holds (R348). [DEDUCED: log 28] [DEDUCED: log 83] -/
def State.unparkCt (s : State) (q fx : Nat) : State :=
  let c := s.ct q
  let again := !(c.spilled.look fx).held.isEmpty && !c.restoreQ.contains fx && (c.restoring.map (·.1)) != some fx
  let s1 := (s.modCt q fun c =>
    { c with park := c.park.filter fun p => p.fl.tok.fx.toNat != fx
             lineFull := c.lineFull.filter (· != fx)
             restoreQ := if again then c.restoreQ ++ [fx] else c.restoreQ }).uncharge q (c.lineBytes fx)
  s1.giveBack q 7 ((c.park.filter fun p => p.fl.tok.fx.toNat == fx).map (·.fl))

/-- The marks of a frame are set on a die; `flt` sets slot 3.FLT as well (R353 step 3). -/
def State.parkOn (s : State) (d rid fx : Nat) (flt : Bool) : State :=
  s.setPk d rid fx true fun w => w ||| if flt then 0xC00#64 else 0x400#64
/-- They are cleared there, FLT with them, and each CT returns its parked tokens. -/
def State.unparkOn (s : State) (d rid fx : Nat) : State :=
  let s1 := s.setPk d rid fx false fun w => w &&& ~~~0xC00#64
  (s1.cts.filter fun p => s1.ridOf p.1 == rid && sqDie p.1 == d).foldl (fun st p => st.unparkCt p.1 fx) s1
/-- The elements of a load on a die stop, and its frames there are parked (R26, R366): what stands in their stages stays there. -/
def State.stopOn (s : State) (d lid : Nat) : State :=
  let rids := (s.load lid).regions
  let there := fun (l : List Flight) => l.map fun fl => { fl with link := fl.link + 16 }
  { s with elems := mapTbl s.elems fun e x =>
             if sqDie (e / 4) == d && rids.contains (s.ridOf (e / 4)) then
               { x with stop := true, held := {}, back := there x.back, inStage := there x.inStage } else x
           cts := mapTbl s.cts fun q c =>
             if sqDie q == d && rids.contains (s.ridOf q) then { c with ftab := mapTbl c.ftab fun _ en => { en with pk := en.v } } else c }

/-- A notice takes effect on die `d`. -/
def State.takeNotice (s : State) (d : Nat) (x : Notice) : State :=
  match x with
  | .park rid fx flt => s.parkOn d rid fx flt
  | .unpark rid fx => s.unparkOn d rid fx
  | .stop lid => s.stopOn d lid
/-- The die that a notice sets out from: its region's allocator, or the first die of its load (R398). [DESIGN CHOICE: log 110] -/
def State.noticeHome (s : State) (x : Notice) : Nat :=
  match x with
  | .park rid _ _ | .unpark rid _ => sqDie (s.region rid).famt
  | .stop lid => sqDie (s.region (((s.load lid).regions[0]?).getD 0)).famt
/-- The dies that it goes to. -/
def State.noticeDies (s : State) (x : Notice) : List Nat :=
  let of := fun rid => (s.region rid).clusters.map (· / 48)
  (match x with
   | .park rid _ _ | .unpark rid _ => of rid
   | .stop lid => (s.load lid).regions.flatMap of).eraseDups
/-- Its messages to the given dies. -/
def State.sendNotice (s : State) (x : Notice) (home : Nat) (l : List Nat) : State :=
  match l with
  | [] => s
  | d :: rest =>
    let (s1, n) := s.postMgmt home d 0
    let s2 : State := { s1 with notices := s1.notices ++ [{ via := n, die := d, what := x }] }
    s2.sendNotice x home rest
/-- A notice goes out: it takes effect on its own die at once, and on the others as its messages reach them (R395, R398). [DESIGN CHOICE: log 110] -/
def State.notifyDies (s : State) (x : Notice) : State :=
  let home := s.noticeHome x
  (s.takeNotice home x).sendNotice x home ((s.noticeDies x).filter (· != home))

/-- The frame is marked parked in every CT of the region; `flt` sets slot 3.FLT as well (R265, R353 step 3). [DEDUCED: log 19] [DESIGN CHOICE: log 110] -/
def State.park (s : State) (rid fx : Nat) (flt : Bool) : State :=
  (s.modFx rid fx fun r => { r with parked := true }).notifyDies (.park rid fx flt)
/-- R265, `unpark` with REC = 0: the marks are cleared, and each CT returns its parked tokens. -/
def State.unpark (s : State) (rid fx : Nat) : State :=
  (s.modFx rid fx fun r => { r with parked := false }).notifyDies (.unpark rid fx)

/-- A park mark of the frame is on its way: some CT may not hold it yet (R265, R353). -/
def State.marking (s : State) (rid fx : Nat) : Bool :=
  s.notices.any fun n => match n.what with | .park r x _ => r == rid && x == fx | _ => false
/-- The frame is parked, as square `q` knows it: a notice that is still on its way to its die has not been heard there. -/
def State.parkedAt (s : State) (q fx : Nat) : Bool :=
  let rid := s.ridOf q
  match s.notices.find? fun n => !n.back && n.die == sqDie q &&
      (match n.what with | .park r x _ | .unpark r x => r == rid && x == fx | .stop _ => false) with
  | some n => (match n.what with | .unpark _ _ => true | _ => false)
  | none => (s.fxRec rid fx).parked
/-- The region of square `q` is stopped, as its die knows it (R366). -/
def State.stoppedAt (s : State) (q : Nat) : Bool :=
  (s.regionOf q).stopped && !s.notices.any fun n => !n.back && n.die == sqDie q && n.what == .stop (s.lidOf q)

/-! ### Release (R139) -/

/-- Fields of slot 0 (R29). -/
def slot0Pfx (w : Word) : Nat := fld w.toNat 52 12
def slot0Cpath (w : Word) : BitVec 6 := w.extractLsb' 46 6
def slot0Crt (w : Word) : BitVec 2 := w.extractLsb' 44 2
def slot0Cdest (w : Word) : BitVec 28 := w.extractLsb' 16 28
def mkSlot0 (pfx : Nat) (cpath : BitVec 6) (crt : BitVec 2) (cdest : BitVec 28) : Word :=
  BitVec.ofNat 12 pfx ++ cpath ++ crt ++ cdest ++ 0#16

/-- Fields of the link word (R137). -/
def linkIt (w : Word) : Bool := w.getLsbD 63
def linkSv (w : Word) : Bool := w.getLsbD 62
def linkRtd (w : Word) : Bool := w.getLsbD 61
def linkDrw (w : Word) : Bool := w.getLsbD 60
def linkSucc (w : Word) : Nat := fld w.toNat 48 12
def linkAdm (w : Word) : Nat := fld w.toNat 44 4
def linkK (w : Word) : Nat := fld w.toNat 40 4
def linkRsv (w : Word) : Nat := fld w.toNat 27 13
def linkQl (w : Word) : Nat := fld w.toNat 14 13
/-- Replace the field of `len` bits at `lo` of a word. -/
def setField (w : Word) (lo len x : Nat) : Word :=
  BitVec.ofNat 64 (w.toNat - fld w.toNat lo len * 2 ^ lo + x % 2 ^ len * 2 ^ lo)

/-- The CTs of a region that hold something of a frame and so have a release notice to answer. -/
def State.holders (s : State) (rid fx : Nat) : List Nat :=
  (s.cts.filter fun p => s.ridOf p.1 == rid &&
    ((p.2.entry fx).isSome || p.2.spilledFx.contains fx || p.2.park.any fun k => k.fl.tok.fx.toNat == fx)).map (·.1)

/-- The wave context of a frame, and the requests that have not been admitted to its chain (R232). [DEDUCED: log 36] -/
def State.closeCtx (s : State) (rid fx : Nat) : State :=
  let k := rid * 4096 + fx
  let mine := fun (r : MReq) => r.wave && r.rid == rid && r.f.t0.fx.toNat == fx && (r.stage == .toUnit || r.stage == .held)
  { s with wctx := if (s.wctx.look k).isOpen then s.wctx.upd k fun c => { c with closing := true, held := [] } else s.wctx
           reqs := s.reqs.filter fun p => !mine p.2 }

/-- Release notices to the given dies, with the messages that bring them. -/
def State.postNotices (s : State) (home fx : Nat) (dies : List Nat) : State × List (Nat × Nat) :=
  match dies with
  | [] => (s, [])
  | d :: rest =>
    let (s1, n) := s.postMgmt home d fx
    let (s2, l) := s1.postNotices home fx rest
    (s2, (d, n) :: l)

/-- R139 step 1 for one frame: it is marked releasing, its notices go out, and its wave-order unit discards what it has
never admitted (R233). -/
def State.markReleasing (s : State) (rid fx : Nat) : State :=
  let l := s.holders rid fx
  let (s1, notes) := s.postNotices (sqDie (s.region rid).famt) fx ((l.map sqDie).eraseDups)
  (s1.modFx rid fx fun r => { r with releasing := true, waitCt := l, notices := notes, acks := [] }).closeCtx rid fx

/-- R139 steps 1 and 3: the frame is marked releasing, and so is every retired iteration frame below it. -/
def State.beginRelease (s : State) (rid fx fuel : Nat) : State :=
  match fuel with
  | 0 => s
  | n + 1 =>
    let r := s.fxRec rid fx
    if !r.alloc || r.releasing then s
    else
      let s1 := s.markReleasing rid fx
      let kids := ((s1.region rid).fx.filter fun p =>
        p.2.alloc && !p.2.releasing && linkIt p.2.link && linkRtd p.2.link && slot0Pfx p.2.slot0 == fx).map (·.1)
      kids.foldl (fun st k => st.beginRelease rid k n) s1

/-- Begin a release: a region has 4,096 frames, so no chain of parents is longer. FX 0 is the root of the load (R24): its
release reaches every region. [DEDUCED: log 23] -/
def State.release (s : State) (rid fx : Nat) : State :=
  if fx = 0 then
    ((s.load (s.region rid).load).regions.filter (· != rid)).foldl (fun st r => st.beginRelease r 0 4096) (s.beginRelease rid 0 4096)
  else s.beginRelease rid fx 4096

/-! ### Taking a fault (R351 to R354) -/

/-- The fault codes of R356. -/
def fkILLOP : Nat := 0x01
def fkTYPE : Nat := 0x02
def fkDIVZ : Nat := 0x03
def fkXLAT : Nat := 0x04
def fkPERM : Nat := 0x05
def fkALIGN : Nat := 0x06
def fkSTALEH : Nat := 0x07
/-- [DEDUCED: log 17] -/
def fkBOUNDS : Nat := 0x08
def fkFRAMEDRY : Nat := 0x09
def fkSPILLFULL : Nat := 0x0A
def fkDEADLOCK : Nat := 0x0B
def fkSTARVED : Nat := 0x0C
def fkACKLOST : Nat := 0x0D
def fkEFLOST : Nat := 0x0E
def fkISTWICE : Nat := 0x0F
def fkALRFORM : Nat := 0x10
def fkRESUMEMIS : Nat := 0x11
def fkCFGFETCH : Nat := 0x12
/-- [DEDUCED: log 63] -/
def fkECCUE : Nat := 0x13
def fkTRAP : Nat := 0x14
def fkPRIV : Nat := 0x15
def fkSTEALREF : Nat := 0x16
/-- [DEDUCED: log 17] -/
def fkTIMEOUT : Nat := 0x17
def fkLUTCFG : Nat := 0x18
def fkMISPORT : Nat := 0x19

/-- What a fault record says, before it has a place in a queue. -/
structure FaultArgs where
  kind : Nat := 0
  detail : Nat := 0
  w1 : Word := 0
  w2 : Word := 0
  comp : Word := 0
  eidx : Nat := 0
  nofx : Bool := false
  stat : Bool := false
  tokf : Bool := false
  trail : List Nat := []
  /-- The node key of the place, and the SPOS of a static-mode fault. -/
  place : Nat := 0
  spos : Nat := 0
  fx : Nat := 0
  path : Nat := 0
  rt : Nat := 0
  firing : Option Firing := none
  flight : Option Flight := none
  req : Option Nat := none
  site : Site := .none
  deriving DecidableEq, Repr, Inhabited

/-- Word 0 of a record (R351). -/
def FaultArgs.word0 (a : FaultArgs) : Word :=
  BitVec.ofNat 64
    (a.kind * 2 ^ 56 + a.nofx.toNat * 2 ^ 55 + a.stat.toNat * 2 ^ 54 + a.tokf.toNat * 2 ^ 53 +
      (if a.trail.isEmpty then 0 else 1) * 2 ^ 52 + a.place % 2 ^ 26 * 2 ^ 26 + a.fx % 4096 * 2 ^ 14 +
      a.path % 64 * 2 ^ 8 + a.rt % 4 * 2 ^ 6 + a.spos % 64)

/-- The `.fault` destination of a load. -/
def State.faultDestOf (s : State) (lid : Nat) : Option (BitVec 28) :=
  (s.load lid).regions.findSome? fun r => (s.region r).faultDest

/-- The die of the place of a record; DIE = 3 names an endpoint of IOW or IOE. -/
def placeDie (place : Nat) : Nat := let q := place / 4096; if sqDie q = 3 then 3 + fld q 11 1 else sqDie q

/-- Why a record cannot be written (R354); `none` when it can. -/
def State.faultReason (s : State) (lid : Nat) : Option Nat :=
  match s.faultDestOf lid with
  | none => some 1
  | some d =>
    let root := s.fxRec (s.ridOf (destSq d)) 0
    if ((s.load lid).faults.filter fun p => p.2.used).length ≥ 1024 then some 2
    else if !root.alloc || root.releasing then some 3
    else none

/-- The record that R353 writes; message `n` takes it to the fault queue's die. -/
def FaultArgs.toRec (a : FaultArgs) (ser rid n : Nat) : FaultRec :=
  { used := true, ser := ser % 2 ^ 16, w0 := a.word0, w1 := a.w1, w2 := a.w2,
    w3 := BitVec.ofNat 64 (a.eidx % 2 ^ 32 * 2 ^ 32 + a.detail % 2 ^ 32), companion := a.comp, trail := a.trail,
    firing := a.firing, flight := a.flight, rid := rid, req := a.req, site := a.site, via := n }

/-- R353 steps 2 to 4: a record of load `lid` stands at index `ix` with the next serial number, its handler token is due, and
the frame is parked and marked unless NOFX. -/
def State.enterRecord (s : State) (lid rid ix : Nat) (a : FaultArgs) : State :=
  let ser := (s.load lid).serial + 1
  let (s0, n) := s.postMgmt (placeDie a.place) ((s.region rid).fqmt / 4096) ix
  let s1 := s0.modLoad lid fun l =>
    { l with faults := l.faults.put ix (a.toRec ser rid n), serial := ser, handlers := l.handlers ++ [ix + ser % 2 ^ 16 * 2 ^ 16] }
  if a.nofx then s1 else s1.park rid a.fx true

/-- R353 steps 2 to 4 for one load: the record takes the lowest free index and the next serial number, the frame is
parked and marked unless NOFX, and the handler token is due, once the record has come to the fault queue's die. A fault in
no load has no queue to go to. [DEDUCED: log 16] -/
def State.record1 (s : State) (lid rid : Nat) (a : FaultArgs) : State :=
  if lid = 0 then s
  else
    match s.faultReason lid with
    | some why => s.haltLoad lid (BitVec.ofNat 64 (a.kind + why * 2 ^ 8 + (2 ^ 48 - 1) * 2 ^ 16))
    | none =>
      match firstFree 1024 0 (fun i => ((s.load lid).faults.look i).used) with
      | none => s
      | some ix => s.enterRecord lid rid ix a

/-- The handle operands (KIND 01) that a record names. -/
def FaultArgs.handles (a : FaultArgs) : List Word :=
  let toks := match a.firing, a.flight with
    | some f, _ => [f.t0, f.t1, f.t2]
    | none, some fl => [fl.tok]
    | none, none => []
  (toks.filter fun t => t.kind == 1#2).map (·.val)

/-- R412: the steal-log entries that name one of these handles by DIE, MT, BUF and GEN, with their queues. -/
def State.stolen (s : State) (hs : List Word) : List (Nat × StealEntry) :=
  s.mts.flatMap fun m => m.2.queues.flatMap fun q =>
    (q.2.log.filter fun x => hs.any fun h => h.extractLsb' 32 28 == x.handle.extractLsb' 32 28).map
      fun x => (m.1 * 4 + q.1, x)

/-- R328: an ECCUE is counted once as it is raised, over the word that its companion names, or over a token (source 5). -/
def State.countFault (s : State) (a : FaultArgs) : State :=
  if a.kind != fkECCUE then s
  else if a.detail = 5 then s.countParity (placeDie a.place)
  else s.countUe (a.comp.toNat % 2 ^ 52)

/-- R353 with R412: the record of the faulting load, and a STEALREF record in the queue of each victim load; an ECCUE is
counted (R328). -/
def State.raiseArgs (s : State) (lid rid : Nat) (a : FaultArgs) : State :=
  (s.stolen a.handles).foldl (fun st x =>
    let q := x.1 / 4
    st.record1 (s.lidOf q) (s.ridOf q)
      { kind := fkSTEALREF, detail := a.kind + x.2.index % 2 ^ 24 * 2 ^ 8, w1 := a.w1, w2 := a.w2, comp := x.2.handle,
        nofx := true, trail := [x.2.thief.key % 2 ^ 26 * 2 ^ 6], place := x.2.thief.key,
        fx := x.2.thief.t0.fx.toNat, path := x.2.thief.t0.path.toNat, rt := x.2.thief.t0.rt.toNat })
    ((s.countFault a).record1 lid rid a)

/-- A fault raised by a firing: `w2` is the port-1 operand or the expanded literal; a node with three operands puts
the third into the companion word (R351). -/
def State.raiseFiring (s : State) (f : Firing) (kind detail : Nat) (w2 comp : Word) (eidx : Nat) : State :=
  s.raiseArgs (s.lidOf f.sq) (s.ridOf f.sq)
    { kind := kind, detail := detail, w1 := f.t0.val, w2 := w2, comp := comp, eidx := eidx, place := f.key,
      fx := f.t0.fx.toNat, path := f.t0.path.toNat, rt := f.t0.rt.toNat, firing := some f }

/-- The 128 bits of a token (R14), with even parity unless the token is marked bad (R20). -/
def Token.bits127 (t : Token) : BitVec 127 :=
  t.kind ++ BitVec.ofBool t.mc ++ t.dest ++ t.fx ++ t.path ++ t.rt ++ t.val ++ t.eod ++ t.seq ++ BitVec.ofBool t.xd

/-- How many of the low `n` bits of `x` are 1. -/
def popcount (n x : Nat) : Nat :=
  match n with
  | 0 => 0
  | n + 1 => x % 2 + popcount n (x / 2)

def Token.bits (t : Token) : BitVec 128 :=
  let odd := popcount 127 t.bits127.toNat % 2 == 1
  t.bits127 ++ BitVec.ofBool (odd != t.par)

/-- What a record over a token says at the node the token is addressed to, with the token in it (R103). -/
def tokenArgs (fl : Flight) (kind detail : Nat) (nofx : Bool) : FaultArgs :=
  let t := fl.tok
  { kind := kind, detail := detail, w1 := t.bits.extractLsb' 0 64, w2 := t.bits.extractLsb' 64 64, nofx := nofx,
    tokf := true, place := destKey t.dest, fx := t.fx.toNat, path := t.path.toNat, rt := t.rt.toNat,
    flight := some fl }

/-- A fault raised by a token at the node it is addressed to, with the token in the record (R103). [DEDUCED: log 102] -/
def State.raiseToken (s : State) (fl : Flight) (kind detail : Nat) (nofx : Bool) : State :=
  s.raiseArgs (s.lidOf (destSq fl.tok.dest)) (s.ridOf (destSq fl.tok.dest)) (tokenArgs fl kind detail nofx)

/-- The square that sent a token. -/
def Flight.srcSq (fl : Flight) : Nat := if fl.src < 2 ^ 26 then fl.src / 4096 else fl.src - 2 ^ 26

/-- A fault raised away from any node over a token, at a place, in the queue of the load that sent the token: BOUNDS of
a router, an MT or an endpoint (R18, R97, R329, R388). [DEDUCED: log 15] -/
def State.raiseAway (s : State) (fl : Flight) (kind detail place : Nat) : State :=
  let t := fl.tok
  s.raiseArgs fl.lid (s.ridOf fl.srcSq)
    { kind := kind, detail := detail, w1 := t.bits.extractLsb' 0 64, w2 := t.bits.extractLsb' 64 64, nofx := true,
      tokf := true, place := place, fx := t.fx.toNat, path := t.path.toNat, rt := t.rt.toNat, flight := some fl }

/-! ### Sending tokens -/

/-- A multicast group with no member set (R16). -/
def State.groupUnset (s : State) (die group : Nat) : Bool :=
  !((List.range 64).any fun i => (s.mcg.look ((die * 256 + group) * 64 + i)).getLsbD 28)

/-- The destinations of a multicast token's group: those of its slots with V = 1, by slot. -/
def State.members (s : State) (d : BitVec 28) : List (BitVec 28) :=
  let g := destDie d * 256 + destTile d % 256
  (List.range 64).filterMap fun i =>
    let w := s.mcg.look (g * 64 + i)
    if w.getLsbD 28 then some (w.extractLsb' 0 28) else none

/-- The destinations that a multicast token stands for, as a router of its group's die reads them first. -/
def State.destsOf (s : State) (fl : Flight) : List (BitVec 28) := if fl.dests.isEmpty then s.members fl.tok.dest else fl.dests

/-- The check of a destination when the node sends (end of R103, R16, R17, R18, R97): the fault kind and its detail. -/
def State.destFault (s : State) (d : BitVec 28) : Option (Nat × Nat) :=
  if destDie d = 3 then
    if fld d.toNat 22 3 ≥ 3 then some (fkILLOP, 5) else none
  else if destY d < 36 then
    if isCt (destSq d) && destPort d = 3 then some (fkILLOP, 5) else none
  else if destY d < 63 then some (fkBOUNDS, 3)
  else if s.groupUnset (destDie d) (destEl d * 64 + destX d) then some (fkBOUNDS, 3)
  else none

/-- A token to be sent, before TG: its destination and which of the two it is (R87). -/
structure Out where
  dest : BitVec 28 := 0
  second : Bool := false
  tok : Token := {}
  deriving DecidableEq, Repr, Inhabited

/-- TG of R87; TG 4 is `iter`'s own and acts in its allocator. -/
def State.applyTg (s : State) (f : Firing) (tg lit : Nat) (o : Out) : Token :=
  let t := o.tok
  match tg with
  | 1 => { t with path := (t.path <<< 1) ||| (if o.second then 1#6 else 0#6) }
  | 2 => { t with path := t.path >>> 1 }
  | 3 => { t with fx := BitVec.ofNat 12 (slot0Pfx (s.slotOf f 0).val) }
  | 5 => { t with rt := BitVec.ofNat 2 lit }
  | 6 => { t with path := 0 }
  | _ => t

/-- The tokens of one firing after TG, on their way. -/
def State.flights (s : State) (f : Firing) (v : RecView) (outs : List Out) : List Flight :=
  outs.map fun o => { tok := addressed o.dest (s.applyTg f v.hdr.tg.toNat v.lit o), src := f.key, lid := s.lidOf f.sq }

/-- R103: the destinations are checked, and a failing one sends no token to either. -/
def State.sendFault (s : State) (outs : List Out) : Option (Nat × Nat) := outs.findSome? fun o => s.destFault o.dest

/-- Requests of an element that have not reached their wave-order unit: they stand in its output stage (R233). -/
def State.asked (s : State) (e : Nat) : Nat := (s.reqs.filter fun p => p.2.f.elem == e && p.2.stage == .toUnit).length

/-- Send the tokens of a firing into its element's output stage. [DESIGN CHOICE: log 30] -/
def State.send (s : State) (f : Firing) (v : RecView) (w2 : Word) (outs : List Out) : State :=
  match s.sendFault outs with
  | some k => s.raiseFiring f k.1 k.2 w2 (if v.hdr.arity3 then f.t2.val else 0) 0
  | none =>
    let fls := s.flights f v outs
    s.modElem f.elem fun x => { x with outStage := x.outStage ++ fls }

/-- Send the tokens of a firing whose effect was performed away from the element, on die `from_`: they wait as a returned
answer (R124), which a message brings from another die (R404). [DEDUCED: log 25] -/
def State.sendAnswer (s : State) (from_ : Nat) (f : Firing) (v : RecView) (w2 : Word) (outs : List Out) : State :=
  match s.sendFault outs with
  | some k => s.raiseFiring f k.1 k.2 w2 (if v.hdr.arity3 then f.t2.val else 0) 0
  | none =>
    if outs.isEmpty then s
    else
      let fls := s.flights f v outs
      let d := sqDie f.sq
      let data := fls.flatMap fun fl => toBytes 8 fl.tok.val.toNat
      let (s1, n) := s.post from_ d { cls := .mrsp, head := msgHead 6 data.length (rqidOf f) from_ d 0 0 0, data := data, leg := msgLeg from_ d none (some f.sq) }
      s1.modElem f.elem fun x => { x with answers := x.answers ++ [{ toks := fls, via := n }] }

/-- The token that a firing's result starts from: the tag and AUX of its port-0 operand, XD 0 (R22, R125). -/
def Firing.base (f : Firing) (kind : BitVec 2) (val : Word) : Token :=
  { f.t0 with kind := kind, val := val, mc := false, xd := false, par := false }

/-- Where one result goes: NDEST 01 to DESTA, 10 to both (R90). [DESIGN CHOICE: log 30] -/
def outs1 (v : RecView) (t : Token) : List Out :=
  match v.hdr.ndest.toNat with
  | 0 => []
  | 2 => [{ dest := v.destA, second := false, tok := t }, { dest := v.destB, second := true, tok := t }]
  | _ => [{ dest := v.destA, second := false, tok := t }]

/-- Where two results go: NDEST 01 result A alone, 11 both (R90). -/
def outs2 (v : RecView) (a b : Token) : List Out :=
  match v.hdr.ndest.toNat with
  | 0 => []
  | 3 => [{ dest := v.destA, second := false, tok := a }, { dest := v.destB, second := true, tok := b }]
  | _ => [{ dest := v.destA, second := false, tok := a }]

/-- A square's own control sends a token. -/
def State.sendFrom (s : State) (q lid : Nat) (t : Token) : State :=
  { s with srcQ := s.srcQ.upd q fun l => l ++ [{ tok := addressed t.dest t, src := 2 ^ 26 + q, lid := lid }] }

end Sys2Proof.Machine
end

