-- ==== Sys2Proof/Machine/Flags.lean ====
section
/-!
DEFINITION. Every flag computation: ELSTAT gathers the flags of every firing of its element by OR (R44, R45, R158), and
the lane-wise results carry their flags to it.
-/
namespace Sys2Proof.Machine

/-- The flags of a firing reach ELSTAT[7:0] of its element. -/
def State.orFlags (s : State) (e : Nat) (fl : Flags) : State :=
  s.modElem e fun x => { x with elstat := x.elstat ||| fl }

/-- The OR of the flags of every lane (R62). -/
def orAll (l : List Flags) : Flags := l.foldl (fun a b => a ||| b) 0

/-- The exact integer `e` in a lane of `w` bits: saturated with SAT when `sat`, wrapped without a flag otherwise
(R57, R161). -/
def fitInt (sat sgn : Bool) (w : Nat) (e : Int) : Nat × Flags :=
  let lo : Int := if sgn then -(2 ^ (w - 1) : Int) else 0
  let hi : Int := if sgn then (2 ^ (w - 1) : Int) - 1 else (2 ^ w : Int) - 1
  let y : Int := if sat then (if e < lo then lo else if e > hi then hi else e) else e
  ((y % (2 ^ w : Int)).toNat, if sat && y != e then fSAT else 0)

end Sys2Proof.Machine
end

