-- ==== Sys2Proof/Machine/Operands.lean ====
section
/-!
DEFINITION. Every operand form: lanes of a value (R62, R184), literals (R94), the port-1 operand or the literal that
replaces it (R89), conditions (R92), the kinds each port takes (R15), and the rounding field of a record (R65, R91).
-/
namespace Sys2Proof.Machine

/-! ### Lanes -/

/-- Lane `i` of width `w`, unsigned. -/
def lane (w : Nat) (x : Word) (i : Nat) : Nat := fld x.toNat (w * i) w

/-- A lane as a signed or unsigned integer. -/
def laneInt (sgn : Bool) (w x : Nat) : Int := if sgn && tbit x (w - 1) then (x : Int) - 2 ^ w else x

/-- The value with lane i holding the i-th number. -/
def ofLanes (w : Nat) (l : List Nat) : Word := BitVec.ofNat 64 (l.foldr (fun x acc => x % 2 ^ w + acc * 2 ^ w) 0)

/-- `n` lanes of width `w`, each made by `f` from its number. -/
def mkLanes (n w : Nat) (f : Nat → Nat) : Word := ofLanes w ((List.range n).map f)

/-- `n` lanes with flags. -/
def mkLanesF (n w : Nat) (f : Nat → Nat × Flags) : Word × Flags :=
  let l := (List.range n).map f
  (ofLanes w (l.map (·.1)), orAll (l.map (·.2)))

/-- The lanes that an instruction of type `t` works on: TY 0xD has the low lane of 32 bits alone (R62). -/
def tyN (t : Nat) : Nat := tyLanes t
def tyW (t : Nat) : Nat := tyWidth t

/-! ### Literals (R94) -/

/-- A literal byte read as E4M3 and converted exactly to a lane format. -/
def litFloat (f : Fmt) (b : Nat) : Nat := (f.pack rne (e4m3.value b)).1

/-- The 8-bit literal of LITP under a TY. -/
def expand8 (t lit : Nat) : Word :=
  let w := tyW t
  match t with
  | 8 | 9 | 10 | 13 => mkLanes (tyN t) w fun _ => litFloat (fmtOfTy t) lit
  | 11 | 12 => mkLanes 8 8 fun _ => lit
  | 14 => BitVec.ofNat 64 lit
  | _ => mkLanes (tyN t) w fun _ => if tySigned t && tbit lit 7 then 2 ^ w - 256 + lit else lit

/-- The 44-bit literal of `const` under a TY. -/
def expand44 (t lit : Nat) : Word :=
  match t with
  | 0 => if tbit lit 43 then BitVec.ofNat 64 (2 ^ 64 - 2 ^ 44 + lit) else BitVec.ofNat 64 lit
  | 1 | 14 => BitVec.ofNat 64 lit
  | _ => mkLanes (tyN t) (tyW t) fun _ => lit

/-- The instructions that do not interpret TY expand their literal with TY 0xE (R127, R203). [DEDUCED: log 72] -/
def litTy (v : RecView) : Nat :=
  match opInfo v.op.toNat with
  | some i => if i.tys == 0x7FFF && (v.op.toNat < 0x20 || v.op == 0x6B || v.op.toNat ≥ 0x70) then 14 else v.hdr.ty.toNat
  | none => 14

/-- The port-1 operand: the literal under LITP, otherwise the token's value (R89). [DEDUCED: log 72] -/
def portB (v : RecView) (f : Firing) : Word := if v.hdr.litp then expand8 (litTy v) v.lit else f.t1.val

/-- A fault raised by a firing of a record: words 1 and 2 hold the operands, and the companion word the third (R351). [DEDUCED: log 100] -/
def State.raise (s : State) (f : Firing) (v : RecView) (kind detail : Nat) : State :=
  s.raiseFiring f kind detail (portB v f) (if v.hdr.arity3 then f.t2.val else 0) 0

/-! ### Conditions (R92) -/

/-- R92 on an ordering: 0 less, 1 equal, 2 greater, 3 unordered. -/
def condHolds (cond ord : Nat) : Bool :=
  match cond with
  | 0 => ord == 1
  | 1 => ord != 1
  | 2 => ord == 0
  | 3 => ord == 0 || ord == 1
  | 4 => ord == 2
  | 5 => ord == 2 || ord == 1
  | 6 => ord == 3
  | _ => ord != 3

def ordInt (a b : Int) : Nat := if a < b then 0 else if a = b then 1 else 2

/-! ### Rounding fields (R65, R67, R91) -/

/-- The random seed of `.sr` on every instruction but `cvtsr`: SRSEED of the firing's region (R67). -/
def State.srSeed (s : State) (f : Firing) : Word := (s.regionOf f.sq).srseed

/-- The rounding of lane `i` under the record's OPF. -/
def rndOf (opf : Nat) (seed : Word) (fx i : Nat) : Rnd :=
  { mode := opf % 8, nsat := tbit opf 3, bits := if opf % 8 = 4 then srBits seed fx i else 0 }

/-! ### The kind of token that each port takes (R15, R126, and each instruction's table) -/

/-- What a port takes. -/
inductive PortKind where
  | any | data | handle
  deriving DecidableEq, Repr, Inhabited

/-- R127, R140, R156, R204, R224 and the tables of groups 0x9 to 0xC. [DESIGN CHOICE: log 89] -/
def portKind (op port : Nat) : PortKind :=
  match op with
  | 0x01 | 0x02 | 0x03 | 0x05 | 0x06 | 0x0A | 0x0B | 0x0F | 0x10 | 0x12 | 0x13 | 0x14 | 0x15 | 0x18 | 0x19 | 0x1A
  | 0x1B | 0x1C | 0x1E => .any
  | 0x04 | 0x07 | 0x09 | 0x0C | 0x1D => if port = 0 then .any else .data
  | 0x08 => if port = 0 then .data else .any
  | 0x16 => .any
  | 0x6A | 0x74 | 0x75 | 0x76 | 0x7E | 0x78 | 0x79 | 0x7A | 0x7B | 0x82 | 0x84 | 0x85 | 0x87 | 0x8A | 0x8B => .handle
  | 0x70 => if port = 2 then .data else .handle
  | 0x71 | 0x72 | 0x73 | 0x7C | 0x83 | 0x88 | 0xAB => if port = 0 then .handle else .data
  | 0x77 | 0x7D => if port = 1 then .data else .handle
  | 0x80 => if port = 0 then .data else .handle
  | 0x81 => if port = 2 then .data else .handle
  | 0x89 | 0xB0 | 0x9B | 0xC0 | 0xCF => if port = 0 then .any else .data
  | 0x91 | 0x93 | 0x95 | 0xB3 | 0xC1 => if port = 1 then .any else .data
  | _ => .data

end Sys2Proof.Machine
end

