-- ==== Sys2Proof/Machine/Finish.lean ====
section
/-!
DEFINITION. How a firing of the scalar/vector pipe ends: its results are sent under NDEST and its flags reach ELSTAT,
or the check of a destination fails and it neither sends nor sets a flag (R103, R157, R158).
-/
namespace Sys2Proof.Machine

/-- What a step answers. -/
abbrev Res := Host.Outcome State Fault Refusal

/-- Send the tokens and gather the flags. -/
def finish (s : State) (v : RecView) (outs : List Out) (fl : Flags) : Res :=
  let f := s.cur
  if (s.sendFault outs).isSome then .next (s.send f v (portB v f) outs)
  else .next ((s.send f v (portB v f) outs).orFlags f.elem fl)

/-- As `finish`, with a change of state that happens only if the tokens are sent. [DESIGN CHOICE: log 95] -/
def finishWith (s : State) (v : RecView) (outs : List Out) (upd : State → State) : Res :=
  let f := s.cur
  if (s.sendFault outs).isSome then .next (s.send f v (portB v f) outs)
  else .next (upd (s.send f v (portB v f) outs))

/-- One KIND 00 result (R157). -/
def finish1 (s : State) (v : RecView) (x : Word × Flags) : Res :=
  finish s v (outs1 v (s.cur.base 0 x.1)) x.2

/-- Two KIND 00 results; under NDEST 01 the second is computed, its flags kept, and discarded (R157). -/
def finish2 (s : State) (v : RecView) (a b : Word × Flags) : Res :=
  finish s v (outs2 v (s.cur.base 0 a.1) (s.cur.base 0 b.1)) (a.2 ||| b.2)

/-- The operand of port 0, of port 1 (or the literal), and of port 2. -/
def State.opA (s : State) : Word := s.cur.t0.val
def State.opB (s : State) (v : RecView) : Word := portB v s.cur
def State.opC (s : State) : Word := s.cur.t2.val

/-- The value of port 0 as it came, KIND and all (R125). -/
def State.pass (s : State) : Token := s.cur.base s.cur.t0.kind s.cur.t0.val

/-- The firing faults (R353): its frame is parked and it sends nothing. -/
def fails (s : State) (v : RecView) (kind detail : Nat) : Res := .next (s.raise s.cur v kind detail)

end Sys2Proof.Machine
end

