-- ==== Sys2Proof/Machine/Tile.lean ====
section
/-!
DEFINITION. Frames on a tile: local parts, spilling and restoring (R27, R344 to R349), matching (R32 to R34) and the
combines that take in their arrivals (R78 to R83, R242 to R244).
-/
namespace Sys2Proof.Machine

/-! ### Local parts (R27, R344, R345) -/

/-- Whether slots `base` to `base + size - 1` overlap an entry's run. -/
def FEntry.overlaps (e : FEntry) (base size : Nat) : Bool :=
  e.v && e.base.toNat < base + size && base < e.base.toNat + clsSlots e.cls

/-- The entries that lie in a run. -/
def Ct.inRun (c : Ct) (base size : Nat) : List (Nat × FEntry) := c.ftab.filter fun p => p.2.overlaps base size

/-- A restore under way has taken the run, or it stands ready for the one that has waited for its spill (R345). -/
def Ct.runTaken (c : Ct) (base size : Nat) : Bool :=
  (match c.restoring with
    | some (fx, b) => decide (b < base + size) && decide (base < b + clsSlots (c.spilled.look fx).cls)
    | none => false) ||
  c.spillRuns.any fun r => r.done && decide (r.base < base + size) && decide (base < r.base + clsSlots r.cls)

/-- A run that no entry holds and nobody has taken. -/
def Ct.runFree (c : Ct) (base size : Nat) : Bool := (c.inRun base size).isEmpty && !c.runTaken base size

/-- The run at `base` is taken from now on by what is placed there. -/
def Ct.takeRun (c : Ct) (base : Nat) : Ct := { c with spillRuns := c.spillRuns.filter fun r => r.base != base }
/-- Nobody waits for a run on behalf of `who` any more. -/
def Ct.leaveRun (c : Ct) (who : RunFor) : Ct :=
  { c with spillRuns := (c.spillRuns.filter fun r => !(r.done && r.need == who)).map fun r =>
      if r.need == who then { r with need := .nobody } else r }

/-- The lowest free class-aligned run among the first `n`. -/
def Ct.findRun (c : Ct) (size n : Nat) : Option Nat :=
  (firstFree n 0 fun i => !c.runFree (i * size) size).map (· * size)

/-- Runs of a class that a tile uses: FSLIM x 256 slots (R344). -/
def State.runCount (s : State) (q size : Nat) : Nat :=
  let f := (s.regionOf q).fslim
  (if f = 0 then 64 else f) * 256 / size

/-- The age of an entry (R344). -/
def Ct.age (c : Ct) (e : FEntry) : Nat := (c.touch - e.touch).toNat

/-- R345: a run is eligible when no slot in it has B = 1 and no entry in it is being spilled; a run that is taken already
is not. -/
def Ct.eligible (c : Ct) (base size : Nat) : Bool :=
  ((List.range size).all fun i => !(c.slots.look (base + i)).b) && (c.inRun base size).all (fun p => !p.2.sp) &&
  !c.runTaken base size

/-- The victim run: the greatest age of its youngest occupant, ties to the lowest BASE (R345). -/
def Ct.victim (c : Ct) (size n : Nat) : Option Nat :=
  let cand := ((List.range n).map (· * size)).filter fun b => c.eligible b size
  let youngest := fun b => (c.inRun b size).foldl (fun a p => min a (c.age p.2)) 65536
  (cand.foldl (fun best b =>
    match best with
    | none => some b
    | some x => if youngest b > youngest x then some b else some x) none)

/-- Bytes that a spilled local part is charged (R324). -/
def clsCharge (c : BitVec 2) : Nat :=
  match c.toNat with
  | 0 => 256
  | 1 => 640
  | _ => 2240

/-- The spore-store part that a CT spills to, and its size (R323). -/
def State.sporeKey (s : State) (q : Nat) : Nat := s.lidOf q * 4 + sqDie q
def State.sporeSize (s : State) (q : Nat) : Nat := 2 ^ fld (s.spores.look (s.sporeKey q)).cfg.toNat 58 6
def State.sporeRoom (s : State) (q bytes : Nat) : Bool :=
  (s.spores.look (s.sporeKey q)).occ + bytes ≤ s.sporeSize q
def State.charge (s : State) (q bytes : Nat) : State :=
  { s with spores := s.spores.upd (s.sporeKey q) fun p => { p with occ := p.occ + bytes } }

/-- What came of asking a tile for a run. -/
inductive RunRes where
  | got (base : Nat)
  | wait (s : State)
  | full
  deriving DecidableEq, Repr

/-- Find a run for `who`, or begin to spill a victim for it; the charge is taken as the spill begins, and one that would
pass the part's size moves nothing (R345, R348). -/
def State.needRun (s : State) (q : Nat) (cls : BitVec 2) (who : RunFor) : RunRes :=
  let c := s.ct q
  let size := clsSlots cls
  let n := s.runCount q size
  match c.spillRuns.find? fun r => r.need == who with
  | some r => if r.done then .got r.base else .wait s
  | none =>
    match c.findRun size n with
    | some b => .got b
    | none =>
      match c.victim size n with
      | none => .wait s
      | some b =>
        let vic := c.inRun b size
        let bytes := (vic.map fun p => clsCharge p.2.cls).foldl (· + ·) 0
        if !s.sporeRoom q bytes then .full
        else
          .wait ((s.charge q bytes).modCt q fun c =>
            { c with
              ftab := mapTbl c.ftab fun _ e => if e.overlaps b size then { e with sp := true } else e
              slots := vic.foldl (fun t p => (List.range (clsSlots p.2.cls)).foldl
                (fun t i => t.upd (p.2.base.toNat + i) fun x => { x with b := true }) t) c.slots
              spillRuns := c.spillRuns ++ [{ base := b, cls := cls, need := who }] })

/-- An unresolved record names the frame with NOFX = 0 (R357). -/
def State.faulted (s : State) (rid fx : Nat) : Bool :=
  (s.load (s.region rid).load).faults.any fun p =>
    p.2.used && p.2.rid == rid && !p.2.w0.getLsbD 55 && fld p.2.w0.toNat 14 12 == fx

/-- Slot 3 of a local part as it is allocated (R30): ROOT, and PARK and FLT while the marks hold. -/
def State.status0 (s : State) (q fx : Nat) : Word :=
  (if fx = 0 then 0x100#64 else 0) ||| (if s.parkedAt q fx then 0x400#64 else 0) |||
  (if s.parkedAt q fx && s.faulted (s.ridOf q) fx then 0x800#64 else 0)

/-- Fill slots from `base` on. -/
def putSlots (t : Tbl Slot) (base : Nat) (l : List Slot) : Tbl Slot :=
  match l with
  | [] => t
  | x :: rest => putSlots (t.put base x) (base + 1) rest

/-- Write a frame-table entry at the lowest free index, for a local part at `base` with these slots. -/
def Ct.addPart (c : Ct) (fx : Nat) (cls : BitVec 2) (base : Nat) (pk : Bool) (touch : BitVec 16) (l : List Slot) : Ct :=
  let ix := (firstFree 1024 0 fun i => (c.ftab.look i).v).getD 1023
  { c.takeRun base with
    ftab := c.ftab.put ix { v := true, sp := false, pk := pk, cls := cls, fx := BitVec.ofNat 12 fx,
                            base := BitVec.ofNat 14 base, touch := touch }
    slots := putSlots (c.slots.clearRange base (base + clsSlots cls)) base l }

/-- The words of a run of a class are written whole (R326). -/
def State.mendRun (s : State) (q base : Nat) (cls : BitVec 2) : State :=
  s.mendTable ((List.range (clsSlots cls)).map fun i => slotEcc q (base + i))

/-- Allocate the local part of a frame in a run (R27, R28): slots 0 and 1 from the descriptor. -/
def State.placePart (s : State) (q fx base : Nat) (cls : BitVec 2) : State :=
  let rid := s.ridOf q
  let fr := s.fxRec rid fx
  (s.mendRun q base cls).modCt q fun c => c.addPart fx cls base (s.parkedAt q fx) c.touch
    [{ val := fr.slot0 }, { val := fr.slot1 }, {}, { val := s.status0 q fx }]

/-! ### The park buffer (R349) -/

/-- The tokens that come back to an element and for which its input stage has no room yet: they stand where they come from. One
at a time goes on from there, so that what is ahead of a full stage's tokens is never behind them. [DEDUCED: log 28] -/
def Elem.outside (x : Elem) : List Flight := x.back.drop (max 1 (4 - x.inStage.length))
/-- Tokens that stand in a CT's park buffer: those parked, and those that an unpark has not brought to an input stage yet (R349). -/
def State.parkUsed (s : State) (q : Nat) : Nat :=
  ((s.ct q).park.filter fun p => !p.overflow).length +
    ([0, 1, 2, 3].map fun el => ((s.elem (q * 4 + el)).outside.filter fun fl => fl.link == 7).length).foldl (· + ·) 0

/-- Put a token into the park buffer, or into an overflow line of its frame; none when the line's charge would pass the
part's size. -/
def State.parkToken (s : State) (q : Nat) (fl : Flight) : Option State :=
  let c := s.ct q
  let fx := fl.tok.fx
  let full := c.lineFull.filter (· != fx.toNat)
  if s.parkUsed q < 512 then
    some (s.modCt q fun c => { c with park := c.park ++ [{ fl := fl }], lineFull := full })
  else
    let n := (c.park.filter fun p => p.overflow && p.fl.tok.fx == fx).length
    let s1 := s.modCt q fun c => { c with park := c.park ++ [{ fl := fl, overflow := true }], lineFull := full }
    if n % 4 != 0 then some s1 else if s.sporeRoom q 64 then some (s1.charge q 64) else none

/-- SPILLFULL for a park-buffer line: raised once for a frame while its token waits (R349, R351). [DEDUCED: log 29] -/
def State.lineSpillfull (s : State) (q : Nat) (fl : Flight) : State :=
  if (s.ct q).lineFull.contains fl.tok.fx.toNat then s
  else
    (s.modCt q fun c => { c with lineFull := c.lineFull ++ [fl.tok.fx.toNat] }).raiseArgs (s.lidOf q) (s.ridOf q)
      { kind := fkSPILLFULL, detail := fld (s.spores.look (s.sporeKey q)).cfg.toNat 58 6 + 256,
        w1 := fl.tok.bits.extractLsb' 0 64, w2 := fl.tok.bits.extractLsb' 64 64, nofx := true, tokf := true,
        place := q * 4096, fx := fl.tok.fx.toNat, flight := some fl }

/-! ### Spilling and restoring (R345 to R347) -/

/-- Move every entry of the run at `at_` that is being spilled into the spore store; a part that has been there keeps
SPILL = 1 (R30). The run stands ready for the one that waits for it. -/
def Ct.completeSpill (c : Ct) (at_ : Nat) : Ct :=
  let run := (c.spillRuns.find? fun r => r.base == at_ && !r.done).getD {}
  let going := c.ftab.filter fun p => p.2.sp && p.2.overlaps at_ (clsSlots run.cls)
  going.foldl (fun c p =>
    let base := p.2.base.toNat
    let img := (List.range (clsSlots p.2.cls)).map fun i => { c.slots.look (base + i) with b := false }
    let img3 := img.modify 3 fun x => { x with val := x.val ||| 0x200#64 }
    let fx := p.2.fx.toNat
    { c with
      ftab := c.ftab.del p.1
      slots := c.slots.clearRange base (base + clsSlots p.2.cls)
      spilled := c.spilled.put fx
        { cls := p.2.cls, touch := p.2.touch, slots := img3, charge := clsCharge p.2.cls, order := c.taken.look fx }
      spilledFx := c.spilledFx ++ [fx] })
    { c with spillRuns := (c.spillRuns.filter fun r => r.base != at_) ++
               (if run.need = .nobody then [] else [{ run with done := true }]) }

/-- The size that SPILLFULL names: SZ of the part that a CT spills to (R356). -/
def State.sporeSz (s : State) (q : Nat) : Nat := fld (s.spores.look (s.sporeKey q)).cfg.toNat 58 6

/-- Start the demanded restore at the head of the queue, or begin to make room for it (R347). A spill for it that would
pass the part's size raises SPILLFULL over the token that has demanded it, the first that is held, and the restore is
demanded anew when the frame is unparked (R348). [DEDUCED: log 83] -/
def State.startRestore (s : State) (q : Nat) : State :=
  let c := s.ct q
  match c.restoring, c.restoreQ with
  | none, fx :: rest =>
    if !c.spilledFx.contains fx then s.modCt q fun c => { c with restoreQ := rest }
    else
      match s.needRun q (c.spilled.look fx).cls (.restore fx) with
      | .got b => s.modCt q fun c => { c.takeRun b with restoring := some (fx, b), restoreQ := rest }
      | .wait t => t
      | .full =>
        let s1 := s.modCt q fun c =>
          { c with restoreQ := rest, spilled := c.spilled.upd fx fun sp => { sp with held := sp.held.drop 1 } }
        match (c.spilled.look fx).held with
        | [] => s1
        | fl :: _ => s1.raiseToken fl fkSPILLFULL (s.sporeSz q) false
  | _, _ => s

/-- A restore is demanded (R346). -/
def State.demandRestore (s : State) (q fx : Nat) : State :=
  (s.modCt q fun c =>
    if c.restoreQ.contains fx || (c.restoring.map (·.1)) == some fx then c
    else { c with restoreQ := c.restoreQ ++ [fx] }).startRestore q

/-- The restore under way writes the local part back (R36, R347): the charge returns, and the tokens of the frame that
the matcher holds, or has not dealt with yet, go to the tile in their order of arrival, ahead of any that arrive later. -/
def State.completeRestore (s : State) (q : Nat) : State :=
  match (s.ct q).restoring with
  | none => s
  | some (fx, base) =>
    let sp := (s.ct q).spilled.look fx
    let pk := s.parkedAt q fx
    let mine := fun (fl : Flight) => fl.tok.fx.toNat == fx
    let s1 := (s.mendRun q base sp.cls).modCt q fun c =>
      { c.addPart fx sp.cls base pk sp.touch sp.slots with
        spilled := c.spilled.del fx, spilledFx := c.spilledFx.filter (· != fx), restoring := none
        matcherIn := c.matcherIn.filter fun fl => !mine fl }
    ((s1.uncharge q sp.charge).giveBack q 6 (sp.held ++ (s.ct q).matcherIn.filter mine)).startRestore q

/-- The spilled part whose class has a free run and whose matcher most recently took a token for it (R347); of parts for which
it has taken none, the one that was spilled first. [DESIGN CHOICE: log 103] -/
def State.spontaneous (s : State) (q : Nat) : Option (Nat × Nat) :=
  let c := s.ct q
  c.spilledFx.foldl (fun best fx =>
    let sp := c.spilled.look fx
    match c.findRun (clsSlots sp.cls) (s.runCount q (clsSlots sp.cls)) with
    | none => best
    | some b =>
      match best with
      | some (g, _) => if sp.order > (c.spilled.look g).order then some (fx, b) else best
      | none => some (fx, b)) none

/-- RESTORE_COMPLETE at CT `a` (R347). -/
def execRestoreComplete (s : State) : Res := .next (s.completeRestore s.at_.a)

/-! ### Combines (R78 to R83, R242 to R244) -/

/-- One lane-wise fold step of a combine, with its flags. [DESIGN CHOICE: log 111] -/
def combineStep (v : RecView) (a b : Word) : Word × Flags :=
  let t := v.tyN
  let w := tyW t
  let sg := tySigned t
  let ints := fun (g : Int → Int → Int) (sat : Bool) =>
    mkLanesF (tyN t) w fun i => fitInt sat sg w (g (laneInt sg w (lane w a i)) (laneInt sg w (lane w b i)))
  match v.op.toNat with
  | 0xA0 => ints (· + ·) v.sat
  | 0xA1 => (a &&& b, 0)
  | 0xA2 => (a ||| b, 0)
  | 0xA3 => (a ^^^ b, 0)
  | 0xA4 => ints min false
  | 0xA5 => ints max false
  | 0xA7 => mkLanesF (tyN t) w fun i => (fmtOfTy t).minmax false (lane w a i) (lane w b i)
  | 0xA8 => mkLanesF (tyN t) w fun i => (fmtOfTy t).minmax true (lane w a i) (lane w b i)
  | 0xA9 => (a + (if b != 0 then 1 else 0), 0)
  | _ => mkLanesF 1 w fun i => (fmtOfTy t).add rne (lane w a i) (lane w b i)

/-- The value slot after the first arrival: a NaN lane is canonicalised by the float combines (R83, R244). -/
def combineFirst (v : RecView) (x : Word) : Word :=
  let t := v.tyN
  let w := tyW t
  let canon := fun n => mkLanes n w fun i =>
    let l := lane w x i
    if ((fmtOfTy t).value l).isNan then (fmtOfTy t).nan else l
  match v.op.toNat with
  | 0xA7 | 0xA8 => canon (tyN t)
  | 0xAA => canon 1
  | 0xA9 => if x != 0 then 1 else 0
  | _ => x

/-- The 320-bit sum W of a `cmbfaddx` from its five slots (R78), and the five slots of a sum. -/
def wOfSlots (l : List Word) : Nat := l.foldr (fun x acc => x.toNat + acc * 2 ^ 64) 0
def slotsOfW (w : Nat) : List Word := (List.range 5).map fun i => BitVec.ofNat 64 (w / 2 ^ (64 * i))
/-- W as a signed number. -/
def wInt (w : Nat) : Int := if w ≥ 2 ^ 319 then (w : Int) - 2 ^ 320 else w

/-- R80: one addend taken into W and the state word. -/
def faddxTake (v : RecView) (w : Nat) (st : Word) (x : Word) : Nat × Word :=
  let f := fmtOfTy v.tyN
  let enc := lane (tyW v.tyN) x 0
  let cnt := min (st.toNat % 2 ^ 32 + 1) (2 ^ 32 - 1)
  let set := fun (s : Word) (bit : Nat) => s ||| (1#64 <<< bit)
  let negz := enc == f.signed true 0
  let base := (if negz then st else st &&& ~~~(1#64 <<< 58)) &&& 0xFFFFFFFF00000000#64
  let fin := fun (s : Word) => s ||| BitVec.ofNat 64 cnt
  match f.value enc with
  | .nan sig => (w, fin (if sig then set (set base 63) 62 else set base 63))
  | .inf n => (w, fin (set base (if n then 60 else 61)))
  | .fin n m e =>
    let a : Int := (m * 2 ^ (e + 160).toNat : Nat)
    let sum := wInt w + (if n then -a else a)
    let ovf := sum < -(2 ^ 319 : Int) ∨ sum ≥ (2 ^ 319 : Int)
    ((sum % (2 ^ 320 : Int)).toNat, fin (if ovf then set base 59 else base))

/-- R81: the release value of an exact sum, with its flags. -/
def faddxResult (v : RecView) (w : Nat) (st : Word) : Word × Flags :=
  let f := fmtOfTy v.tyN
  let nanf := st.getLsbD 63
  let snan := st.getLsbD 62
  let pinf := st.getLsbD 61
  let ninf := st.getLsbD 60
  let ovf := st.getLsbD 59
  let nv := if snan || (pinf && ninf) || ovf then fNV else 0
  let fl := nv ||| (if ovf then fOF else 0)
  let out := fun (p : Nat × Flags) => (BitVec.ofNat 64 p.1, fl ||| p.2)
  if nanf || (pinf && ninf) || ovf then out (f.nan, 0)
  else if pinf then out (f.inf false, 0)
  else if ninf then out (f.inf true, 0)
  else if w = 0 then out (f.signed (st.getLsbD 58) 0, 0)
  else
    let i := wInt w
    out (f.round rne (decide (i < 0)) { mag := i.natAbs, exp := -160 })

/-! ### Matching (R32 to R34, R244) -/

/-- What came of a token at its node. -/
inductive MatchRes where
  /-- It was taken in. -/
  | taken (s : State)
  /-- It completes a firing, which needs a place in the ready queue. -/
  | fires (s : State) (f : Firing)
  /-- It waits: a slot it needs has B = 1. -/
  | busy
  /-- It raises a fault at the node: kind and detail. -/
  | bad (s : State) (kind detail : Nat)
  deriving DecidableEq, Repr

/-- Whether a node finds a slot that it names busy; one beyond the class is no slot of the frame (R34, R144). -/
def Ct.slotBusy (c : Ct) (fx n : Nat) : Bool := decide (n < clsSlots (c.clsOf fx)) && (c.slot fx n).b

/-- The firing with an operand put on its port. -/
def Firing.withPort (f : Firing) (p : Nat) (t : Token) : Firing :=
  match p with
  | 0 => { f with t0 := t }
  | 1 => { f with t1 := t }
  | _ => { f with t2 := t }

/-- Two operands match on one slot, three on two slots (R32); a second arrival on a parked port raises MISPORT (R33). [DEDUCED: log 100] -/
def State.matchOperands (s : State) (q : Nat) (v : RecView) (f : Firing) (n : Nat) (t : Token) : MatchRes :=
  let fx := t.fx.toNat
  let port := destPort t.dest
  let c := s.ct q
  let a := c.slot fx v.slot
  let b := c.slot fx (v.slot + 1)
  let parkAt := fun i => MatchRes.taken ((s.mendTable (s.slotEccs q fx [i])).modCt q fun c => c.modSlot fx i fun x =>
    { x with val := t.val, p := true, prt := BitVec.ofNat 2 port, tok := t })
  let clear := fun (x : Slot) => { x with p := false, tok := {} }
  if a.b || (n == 3 && b.b) then .busy
  else if !a.p then parkAt v.slot
  else if a.prt.toNat = port then .bad s fkMISPORT port
  else if n = 2 then
    .fires (s.modCt q fun c => c.modSlot fx v.slot clear)
      ((f.withPort port t).withPort a.prt.toNat { a.tok with val := a.val })
  else if !b.p then parkAt (v.slot + 1)
  else if b.prt.toNat = port then .bad s fkMISPORT port
  else
    .fires (s.modCt q fun c => (c.modSlot fx v.slot clear).modSlot fx (v.slot + 1) clear)
      (((f.withPort port t).withPort a.prt.toNat { a.tok with val := a.val }).withPort b.prt.toNat
        { b.tok with val := b.val })

/-- The count literal of a combine: LIT[7:3] on `cmbtacc` (R242). -/
def combineCount (v : RecView) : Nat := if v.op == 0xAB then v.lit / 8 else v.lit
/-- The slots of the value and of the state word, from SLOT, and the target slot's place (R78, R242). -/
def combineState (v : RecView) : Nat := if v.op == 0xAB then 0 else if v.op == 0xA6 then 5 else 1
def combineWidth (v : RecView) : Nat := if v.op == 0xAB then 1 else if v.op == 0xA6 then 6 else 2

/-- What marks the slots of an open span as its node's own; no token is of KIND 3, so no parked operand and no slot that an
`alr` holds looks like it. -/
def spanMark (key : Nat) : Token := { kind := 3, dest := mkDest key 0 }

/-- Write the span of a combine from SLOT on, each slot with B = 1 and the node that owns it. -/
def Ct.putSpan (c : Ct) (fx slot : Nat) (own : Token) (l : List Word) : Ct :=
  match l with
  | [] => c
  | x :: rest => (c.modSlot fx slot fun _ => { val := x, b := true, tok := own }).putSpan fx (slot + 1) own rest

/-- Free the span: P = 0, B = 0, value 0. -/
def Ct.freeSpan (c : Ct) (fx slot n : Nat) : Ct :=
  match n with
  | 0 => c
  | n + 1 => (c.modSlot fx (slot + n) fun _ => {}).freeSpan fx slot n

/-- The words of the open span. -/
def Ct.spanWords (c : Ct) (fx slot n : Nat) : List Word := (List.range n).map fun i => (c.slot fx (slot + i)).val

/-- The state word's count. -/
def spanCnt (v : RecView) (l : List Word) : Nat := (l[combineState v]?.getD 0).toNat % 2 ^ 32

/-- The span after the first or a later addend, with flags (R80, R83, R244). -/
def combineTake (v : RecView) (first : Bool) (l : List Word) (x : Word) : List Word × Flags :=
  if v.op == 0xA6 then
    let (w, st) := faddxTake v (wOfSlots (l.take 5)) (l[5]?.getD 0) x
    (slotsOfW w ++ [st], 0)
  else
    let (y, fl) := if first then (combineFirst v x, 0) else combineStep v (l[0]?.getD 0) x
    ([y, (l[1]?.getD 0) + 1], fl)

/-- The words of a span as it opens: 0, and NZALL on `cmbfaddx` (R78). -/
def combineOpen (v : RecView) : List Word :=
  if v.op == 0xA6 then [0, 0, 0, 0, 0, 1#64 <<< 58] else List.replicate (combineWidth v) 0

/-- The released span is free, and its words and the completing token make the release firing (R244). -/
def State.combineRelease (s : State) (q : Nat) (v : RecView) (f : Firing) (l : List Word) (t : Token) : MatchRes :=
  let n := combineSpan v.op.toNat v.lit
  .fires (s.modCt q fun c => c.freeSpan t.fx.toNat v.slot n) { f with t0 := t, words := l }

/-- A slot of the span has B = 1, on another owner's account (R34, R78). -/
def Ct.spanBusy (c : Ct) (v : RecView) (fx : Nat) : Bool :=
  (List.range (combineSpan v.op.toNat v.lit)).any fun i => (c.slot fx (v.slot + i)).b

/-- The slots of a combine's span. -/
def spanSlots (v : RecView) : List Nat := (List.range (combineSpan v.op.toNat v.lit)).map (v.slot + ·)

/-- The sum at SLOT of the node is open. -/
def Ct.sumOpen (c : Ct) (v : RecView) (fx key : Nat) : Bool :=
  let x := c.slot fx v.slot
  x.b && x.tok == spanMark key

/-- The state word of the open exact sum of a `cmbfaddx`, which the records over it report (R79). [DEDUCED: log 102] -/
def State.sumWord (s : State) (q : Nat) (v : RecView) (fx key : Nat) : Word :=
  if v.op == 0xA6 && (s.ct q).sumOpen v fx key then ((s.ct q).slot fx (v.slot + 5)).val else 0

/-- The span opens: cleared, `cmbfaddx` as R78 states, B = 1 on all of it. -/
def State.openSpan (s : State) (q : Nat) (v : RecView) (fx : Nat) (own : Token) : State :=
  (s.mendTable (s.slotEccs q fx (spanSlots v))).modCt q fun c =>
    let c1 := c.putSpan fx v.slot own (combineOpen v)
    if combineCount v != 0 then c1 else c1.modSlot fx (v.slot + combineWidth v) fun _ => { b := true, tok := own }

/-- R244 for every combine but `cmbtacc`'s port 0: a count token parks, an addend is taken in, and the arrival that
reaches the count makes the release firing. -/
def State.combineArrive (s : State) (q : Nat) (v : RecView) (f : Firing) (t : Token) : MatchRes :=
  let fx := t.fx.toNat
  let c := s.ct q
  let w := combineWidth v
  let own := spanMark f.key
  let isOpen := c.sumOpen v fx f.key
  let span := if isOpen then c.spanWords fx v.slot w else combineOpen v
  let s0 := if isOpen then s else s.openSpan q v fx own
  let tgtAt := v.slot + w
  let counted := combineCount v != 0
  let tgt := c.slot fx tgtAt
  let parkedN : Option Nat := if counted then some (combineCount v) else if isOpen && tgt.p then some tgt.val.toNat else none
  if !isOpen && c.spanBusy v fx then .busy
  else if destPort t.dest = 1 then
    let n := t.val.toNat
    if isOpen && tgt.p then .bad s0 fkMISPORT 1
    else if n = 0 ∨ n > 2 ^ 31 then .bad s0 fkBOUNDS 1
    else if n < spanCnt v span then .bad s0 fkBOUNDS 1
    else if n = spanCnt v span then s.combineRelease q v f span t
    else .taken ((s0.mendTable (s.slotEccs q fx [tgtAt])).modCt q fun c => c.modSlot fx tgtAt fun _ =>
      { val := BitVec.ofNat 64 n, p := true, b := true, prt := 1, tok := t })
  else
    let (l, fl) := combineTake v (spanCnt v span == 0) span t.val
    if parkedN == some (spanCnt v l) then (s.orFlags f.elem fl).combineRelease q v f l t
    else .taken (((s0.orFlags f.elem fl).mendTable (s.slotEccs q fx ((List.range w).map (v.slot + ·)))).modCt q fun c =>
      c.putSpan fx v.slot own l)

/-- R245, R244: a `cmbtacc` addend opens its span, which holds B = 1 until the release; none while another owner's
span stands there. -/
def State.openTacc (s : State) (q : Nat) (v : RecView) (f : Firing) (t : Token) : Option State :=
  let fx := t.fx.toNat
  if (s.ct q).sumOpen v fx f.key then some s
  else if (s.ct q).spanBusy v fx then none
  else some (s.openSpan q v fx (spanMark f.key))

/-- R245: the completion of a `cmbtacc` arrival's `tacc` counts it, and the one that reaches the count makes the
release firing. An accumulation that has gone with its frame counts nothing. -/
def State.countTacc (s : State) (q : Nat) (v : RecView) (f : Firing) : MatchRes :=
  let fx := f.t0.fx.toNat
  let c := s.ct q
  let x0 := c.slot fx v.slot
  if !c.sumOpen v fx f.key then .taken s
  else
    let n := (x0.val.toNat + 1) % 2 ^ 32
    let tgt := c.slot fx (v.slot + 1)
    let goal := if combineCount v != 0 then some (combineCount v) else if tgt.p then some tgt.val.toNat else none
    if goal == some n then s.combineRelease q v { elem := f.elem, node := f.node } [BitVec.ofNat 64 n] f.t0
    else .taken (s.modCt q fun c => c.modSlot fx v.slot fun x => { x with val := BitVec.ofNat 64 n })

/-! ### The combine instructions: the release firing (R242, R244) -/

/-- The value slot of a released span. -/
def State.spanValue (s : State) : Word := s.cur.words[0]?.getD 0

def execCmbadd (r : D2) (s : State) : Res := finish1 s (r.view 0xA0) (s.spanValue, 0)
def execCmband (r : D2) (s : State) : Res := finish1 s (r.view 0xA1) (s.spanValue, 0)
def execCmbor (r : D2) (s : State) : Res := finish1 s (r.view 0xA2) (s.spanValue, 0)
def execCmbxor (r : D2) (s : State) : Res := finish1 s (r.view 0xA3) (s.spanValue, 0)
def execCmbmin (r : D2) (s : State) : Res := finish1 s (r.view 0xA4) (s.spanValue, 0)
def execCmbmax (r : D2) (s : State) : Res := finish1 s (r.view 0xA5) (s.spanValue, 0)
def execCmbfaddx (r : D2) (s : State) : Res :=
  let v := r.view 0xA6
  finish1 s v (faddxResult v (wOfSlots (s.cur.words.take 5)) (s.cur.words[5]?.getD 0))
def execCmbfmin (r : D2) (s : State) : Res := finish1 s (r.view 0xA7) (s.spanValue, 0)
def execCmbfmax (r : D2) (s : State) : Res := finish1 s (r.view 0xA8) (s.spanValue, 0)
def execCmbcnt (r : D2) (s : State) : Res := finish1 s (r.view 0xA9) (s.spanValue, 0)
def execCmbfadd (r : D2) (s : State) : Res := finish1 s (r.view 0xAA) (s.spanValue, 0)

end Sys2Proof.Machine
end

