-- ==== Sys2Proof/Machine/Head.lean ====
section
/-!
DEFINITION. The head of a ready queue: what it asks of the output stage, and whether it can issue (R78, R124, R135, R138,
R202, R233, R358).
-/
namespace Sys2Proof.Machine

/-- The macro-instructions and the external class of R159, but for the memory nodes and `wchk`: their firings leave the
ready queue without needing room in the output stage (R124, R206). -/
def external (op lit : Nat) : Bool :=
  (0x70 ≤ op && op ≤ 0x82) || (0xB0 ≤ op && op ≤ 0xBF) || op == 0x86 ||
  op == 0x10 || op == 0x11 || op == 0x12 || op == 0x14 || op == 0x18 || op == 0x1A || op == 0x1B ||
  (op == 0x1F && (lit == 2 || lit == 3 || lit == 5)) || op == 0x6A ||
  (0xC0 ≤ op && op ≤ 0xC5) || op == 0xCA || op == 0xCB || op == 0xCC || op == 0xCD || op == 0xCE

/-- The instructions that ask the region's frame allocator (R138). -/
def asksAlloc (op lit : Nat) : Bool :=
  op == 0x10 || op == 0x11 || op == 0x12 || op == 0x14 || op == 0x18 || op == 0x1A || op == 0x1C ||
  (op == 0x1F && (lit == 2 || lit == 3 || lit == 5))

/-- Tokens of one result: NDEST of R90. -/
def destCount (v : RecView) : Nat := if v.hdr.ndest = 0 then 0 else if v.hdr.ndest = 1 then 1 else 2

/-- A split or a `wchk` of the firing's local part waits for its grant, or behind one that does (R153). [DEDUCED: log 21] -/
def State.splitWaits (s : State) (f : Firing) : Bool := (s.ct f.sq).splitQ.any fun p => p.1.t0.fx == f.t0.fx

/-- `wchk` needs a grant, or its local part waits for one, and so its answer comes back later (R153, R154). -/
def State.wchkWaits (s : State) (f : Firing) : Bool :=
  decide ((s.slotOf f 2).val.toNat % 2 ^ 32 ≤ 1) || s.splitWaits f

/-- Tokens and requests that a firing puts into the output stage as it issues (R124 step 4, R233). -/
def State.tokensSent (s : State) (f : Firing) (v : RecView) : Nat :=
  let op := v.op.toNat
  if 0x90 ≤ op ∧ op ≤ 0x9C then 1
  else if external op v.lit then 0
  else
    match op with
    | 0x04 | 0x15 => 1
    | 0x07 => if portB v f = 0 then 0 else destCount v
    | 0x09 => if portB v f = 0 then 0 else destCount v
    | 0x1C => if s.wchkWaits f then 0 else destCount v
    | 0xAB => if f.words.isEmpty then 0 else destCount v
    | _ => destCount v

/-- Tokens of the answers that have come back to the element: they take the stage's room before the head (R124). -/
def State.returned (s : State) (e : Nat) : Nat :=
  (((s.elem e).answers.filter fun a => !s.crossing a.via).map fun a => a.toks.length).foldl (· + ·) 0

/-- R138: a request of the element finds 256 waiting at the allocator, and the element's output stage is held. -/
def State.stageHeld (s : State) (e : Nat) : Bool :=
  let r := s.regionOf (e / 4)
  decide (256 ≤ r.allocQ.length) && r.allocIn.any fun q => q.f.elem == e

/-- Markers of a node's round have still to enter the output stage: what the node sends goes behind them (R372). -/
def State.marksAhead (s : State) (e key : Nat) : Bool :=
  (s.elem e).answers.any fun a => a.toks.any fun fl => fl.tok.kind == 2 && fl.src == key

/-- The stage cannot take every token that the head sends: the head is held (R124, R138, R358, R372). -/
def State.noRoom (s : State) (e : Nat) (f : Firing) (v : RecView) : Bool :=
  let n := s.tokensSent f v
  (n != 0 && (s.marksAhead e f.key || (s.elem e).outStage.length + s.asked e + s.returned e + n > 4 || s.stageHeld e)) ||
  (asksAlloc v.op.toNat v.lit && s.stageHeld e)

/-- The unit or slot that the head needs is busy: the repeat unit, the element's own load of a LUT configuration, or a
slot with B = 1 that an `ldfx` or `stfx` names (R34, R78, R135, R202). -/
def State.unitBusy (s : State) (e : Nat) (f : Firing) (v : RecView) : Bool :=
  (v.op == 0x09 && (s.elem e).rpt.isSome) ||
  ((v.op == 0x68 || v.op == 0x69) && (s.elem e).lutLoads.any fun l => l.cfg == v.lit && (l.left.contains e || l.image.isEmpty)) ||
  ((v.op == 0x16 || v.op == 0x17) && (s.ct f.sq).slotBusy f.t0.fx.toNat v.lit)

/-- Whether the head issues now: the element runs, the stage has room, and what it needs is free. -/
def State.canIssue (s : State) (e : Nat) (f : Firing) (v : RecView) : Bool :=
  !(s.elem e).stop && !s.noRoom e f v && !s.unitBusy e f v

end Sys2Proof.Machine
end

