-- ==== Sys2Proof/Machine/Graph.lean ====
section
/-!
DEFINITION. Group 0x0: passing, copying, routing, merging, stream marks and repetition (R127 to R135).
-/
namespace Sys2Proof.Machine

/-! ### Passing, copying and discarding (R128, R129) -/

def execId (r : D1) (s : State) : Res := let v := r.view 0x01; finish s v (outs1 v s.pass) 0
def execConst (r : FC) (s : State) : Res :=
  let v := r.view 0x02; finish s v (outs1 v (s.cur.base 0 (expand44 v.tyN v.lit))) 0
def execSink (_r : D1) (s : State) : Res := .next s
def execFanout (r : D2) (s : State) : Res := let v := r.view 0x0F; finish s v (outs1 v s.pass) 0
def execPack2 (r : D2) (s : State) : Res :=
  let v := r.view 0x0D
  finish1 s v ((s.opB v).extractLsb' 0 32 ++ s.opA.extractLsb' 0 32, 0)
def execUnpk2 (r : D2) (s : State) : Res :=
  let v := r.view 0x0E
  finish2 s v ((s.opA.extractLsb' 0 32).zeroExtend 64, 0) ((s.opA.extractLsb' 32 32).zeroExtend 64, 0)

/-! ### Routing by predicate (R126, R130) -/

/-- Exactly one token: to DESTB when the predicate is true, to DESTA otherwise. -/
def steerOut (v : RecView) (pred : Word) (t : Token) : Out :=
  if pred != 0 then { dest := v.destB, second := true, tok := t } else { dest := v.destA, second := false, tok := t }
/-- R18: a destination that the record uses is a node destination with PORT 3: the node raises ILLOP when it fires, whether or
not this firing would send there. -/
def usedPort3 (v : RecView) : Bool :=
  let bad := fun (d : BitVec 28) => destIsCt d && destPort d == 3
  (v.hdr.ndest != 0 && bad v.destA) || (2 ≤ v.hdr.ndest.toNat && bad v.destB)
def execSteer (r : D2) (s : State) : Res :=
  let v := r.view 0x04
  if usedPort3 v then fails s v fkILLOP 5 else finish s v [steerOut v (s.opB v) s.pass] 0
def execGate (r : D2) (s : State) : Res :=
  let v := r.view 0x07
  if usedPort3 v then fails s v fkILLOP 5 else finish s v (if s.opB v != 0 then outs1 v s.pass else []) 0
/-- The chosen value with its own KIND, under the tag and AUX of the predicate. -/
def execPick (r : D2) (s : State) : Res :=
  let v := r.view 0x08
  let t := if s.opA != 0 then s.cur.base (if v.hdr.litp then 0 else s.cur.t1.kind) (s.opB v)
           else s.cur.base s.cur.t2.kind s.opC
  finish s v (outs1 v t) 0

/-! ### Merging (R131, R132): the arriving token is the firing's operand, and a `mergeo` context has put it in order -/

def execMerge (r : D2) (s : State) : Res := let v := r.view 0x05; finish s v (outs1 v s.pass) 0
/-- The held token that NEXT names: it is sent in the cycle after the one before it (R132). [DEDUCED: log 26] -/
def MCtx.due (c : MCtx) : Option Flight := c.held.find? fun fl => fl.tok.seq == c.next
/-- The context with the token `fl` sent: NEXT rises (R132). -/
def MCtx.sent (c : MCtx) (fl : Flight) : MCtx := { c with next := c.next + 1, held := c.held.filter fun x => x != fl }
/-- A context closes when it holds no token and the last one sent carries EOD (R132). -/
def MCtx.closes (c : MCtx) (last : Token) : Bool := c.held.isEmpty && last.eod != 0

/-- The next token of a context whose held tokens leave one by one (R132): it becomes the head firing, NEXT rises, and the
context closes behind the last one. [DEDUCED: log 26] -/
def State.mergeoNext (s : State) : State :=
  let f := s.cur
  let mine := fun (c : MCtx) => c.node == f.node && c.fx == f.t0.fx.toNat
  if f.k = 0 then s
  else s.modElem f.elem fun x =>
    match x.ctxs.find? mine with
    | none => x
    | some c =>
      match c.due with
      | none => x
      | some y =>
        let c' := c.sent y
        { x with ctxs := if c'.closes y.tok then x.ctxs.filter fun k => !mine k else x.ctxs.map fun k => if mine k then c' else k
                 readyQ := { elem := f.elem, node := f.node, t0 := y.tok, k := c'.due.isSome.toNat } :: x.readyQ }

def execMergeo (r : D2) (s : State) : Res := let v := r.view 0x06; finish s.mergeoNext v (outs1 v s.pass) 0

/-! ### Stream marks and repetition (R133 to R135) -/

/-- The counter of a `seq` node, which stands at its start literal until it is advanced. -/
def seqCount (x : Elem) (node start : Nat) : BitVec 8 := (x.seqCtr.look node).getD (BitVec.ofNat 8 start)
/-- [DESIGN CHOICE: log 95] -/
def execSeq (r : D2) (s : State) : Res :=
  let v := r.view 0x0A
  let c := seqCount (s.elem s.cur.elem) s.cur.node v.lit
  let c' := if s.cur.t0.eod != 0 then BitVec.ofNat 8 v.lit else c + 1
  finishWith s v (outs1 v { s.pass with seq := c }) fun t =>
    t.modElem s.cur.elem fun x => { x with seqCtr := x.seqCtr.put s.cur.node (some c') }
def execEodt (r : D2) (s : State) : Res :=
  let v := r.view 0x0B
  let flag : Word := if s.cur.t0.eod.toNat ≥ v.lit then 1 else 0
  finish s v (outs2 v s.pass (s.cur.base 0 flag)) 0
def execEods (r : D2) (s : State) : Res :=
  let v := r.view 0x0C
  if (s.opB v).toNat > 7 then fails s v fkBOUNDS 1
  else finish s v (outs1 v { s.pass with eod := BitVec.ofNat 3 (s.opB v).toNat }) 0

/-- Copy `i` of `n` (R135). -/
def copyTok (t : Token) (i n : Nat) : Token :=
  { t with seq := BitVec.ofNat 8 i, eod := if i + 1 < n then 0 else BitVec.ofNat 3 (min (t.eod.toNat + 1) 7) }

/-- The first copy is sent with the firing, and the repeat unit sends the others. [DEDUCED: log 31] -/
def execRpt (r : D2) (s : State) : Res :=
  let v := r.view 0x09
  let n := (s.opB v).toNat
  if n ≥ 2 ^ 32 then fails s v fkBOUNDS 1
  else if usedPort3 v then fails s v fkILLOP 5
  else if n = 0 then .next s
  else finishWith s v (outs1 v (copyTok s.pass 0 n)) fun t =>
    if n = 1 then t
    else t.modElem s.cur.elem fun x => { x with rpt := some { f := s.cur, sent := 1, total := n } }

/-- R135, RPT_COPY at element `a`: the repeat unit sends one copy when the output stage has room. [DEDUCED: log 31] -/
def execRptCopy (s : State) : Res :=
  let e := s.at_.a
  let x := s.elem e
  match x.rpt with
  | none => .next s
  | some p =>
    let v := s.view p.f.key
    let outs := outs1 v (copyTok (p.f.base p.f.t0.kind p.f.t0.val) p.sent p.total)
    if x.stop || s.marksAhead e p.f.key || x.outStage.length + s.asked e + outs.length > 4 || s.stageHeld e then .next s
    else
      let s1 := s.modElem e fun x =>
        { x with rpt := if p.sent + 1 < p.total then some { p with sent := p.sent + 1 } else none }
      .next (s1.send p.f v (portB v p.f) outs)

/-- The answer that has come back first, of those that are back: an element lists them in the order in which they come
back (R124). -/
def State.firstBack (s : State) (l : List Answer) : Option Answer := l.find? fun a => !s.crossing a.via

/-- R124, EXTERNAL_ANSWER_RETURN at element `a`: the answer that has come back first enters the output stage when it
fits. -/
def execExternalAnswerReturn (s : State) : Res :=
  let e := s.at_.a
  let x := s.elem e
  match s.firstBack x.answers with
  | none => .next s
  | some ans =>
    if x.outStage.length + s.asked e + ans.toks.length > 4 then .next s
    else .next (s.modElem e fun x => { x with outStage := x.outStage ++ ans.toks, answers := x.answers.erase ans })

end Sys2Proof.Machine
end

