-- ==== Sys2Proof/Machine/Frames.lean ====
section
/-!
DEFINITION. Group 0x1: frames, loops and termination (R136 to R155), and the events of the frame allocator.
-/
namespace Sys2Proof.Machine

/-! ### Requests to the allocator (R138) -/

/-- The die of the allocator of the firing's region. -/
def State.allocDie (s : State) (f : Firing) : Nat := sqDie (s.regionOf f.sq).famt
/-- The firing leaves for its region's allocator, as an object operation where that stands on another die (R404). [DEDUCED: log 25] -/
def State.askAlloc (s : State) (k : AKind) (f : Firing) : State :=
  let d := s.allocDie f
  let (s1, n) := s.post (sqDie f.sq) d
    { cls := .mreq, head := msgHead 6 8 (rqidOf f) (sqDie f.sq) d 0 0 (scratchPa (s.regionOf f.sq).famt 0), data := toBytes 8 f.t0.val.toNat
      leg := msgLeg (sqDie f.sq) d (some f.sq) (some (s.regionOf f.sq).famt) }
  s1.modRegion (s.ridOf f.sq) fun r => { r with allocIn := r.allocIn ++ [{ kind := k, f := f, via := n }] }

def execFalloc (_r : D1) (s : State) : Res := .next (s.askAlloc .falloc s.cur)
def execCall (_r : D2) (s : State) : Res := .next (s.askAlloc .call s.cur)
def execSpawn (_r : D1) (s : State) : Res := .next (s.askAlloc .spawn s.cur)
def execLoopin (_r : D2) (s : State) : Res := .next (s.askAlloc .loopin s.cur)
def execIter (_r : D2) (s : State) : Res := .next (s.askAlloc .iter s.cur)

/-- R126, R143: a value with bits above the FX field raises BOUNDS; the rest is decided at the allocator. -/
def execFfree (r : D1) (s : State) : Res :=
  if s.opA.toNat ≥ 4096 then fails s (r.view 0x11) fkBOUNDS 0 else .next (s.askAlloc .ffree s.cur)

/-! ### The weight of a local part (R153, R154) -/

/-- Slot 2 of the firing's local part. -/
def State.weightOf (s : State) (f : Firing) : Nat := (s.slotOf f 2).val.toNat % 2 ^ 32
def State.setWeight (s : State) (f : Firing) (w : Nat) : State :=
  s.modSlotOf f 2 fun x => { x with val := BitVec.ofNat 64 (w % 2 ^ 32) }

/-- The tokens of a firing whose wait on die `d` is over, as a returned answer. -/
def State.answer1 (s : State) (d : Nat) (f : Firing) (t : Token) : State :=
  let v := s.view f.key
  s.sendAnswer d f v (portB v f) (outs1 v t)

/-- One split (or `wchk`, whose FX is none) with the weight `w` of the firing's local part: R153's halving, or R154's
send. The new frame of a `spawn`, and a weight that was granted, come from the allocator. [DEDUCED: log 21] -/
def State.doSplit (s : State) (granted : Bool) (f : Firing) (g : Option Nat) (w : Nat) : State :=
  match g with
  | none => (s.setWeight f w).answer1 (if granted then s.allocDie f else sqDie f.sq) f (f.base f.t0.kind f.t0.val)
  | some gx =>
    let h := w / 2
    let s1 := s.setWeight f (w - h)
    let s2 := s1.modCt f.sq fun c => c.modSlot gx 2 fun x => { x with val := BitVec.ofNat 64 h }
    s2.answer1 (s.allocDie f) f { f.base f.t0.kind f.t0.val with fx := BitVec.ofNat 12 gx, path := 0 }

/-- What an entry of `splitQ` asks for: its number is 0 for `wchk` and FX + 1 for a `spawn`. -/
def splitFx (g : Nat) : Option Nat := if g = 0 then none else some (g - 1)

/-- The first split of the local part of `fx` on a tile. -/
def Ct.firstSplit (c : Ct) (fx : Nat) : Option (Firing × Nat) := c.splitQ.find? fun p => p.1.t0.fx.toNat == fx
/-- The first split of the local part of `fx` has been made. -/
def Ct.dropSplit (c : Ct) (fx : Nat) : Ct := { c with splitQ := c.splitQ.eraseP fun p => p.1.t0.fx.toNat == fx }

/-- The splits of one local part, one at a time in order; one that finds weight 1 or less asks for a grant and holds back
those behind it (R153). A `spawn` that reads a weight which fails its check raises ECCUE, and its new frame goes back (R326). -/
def State.runSplits (s : State) (q fx fuel : Nat) : State :=
  match fuel, (s.ct q).firstSplit fx with
  | 0, _ => s
  | _, none => s
  | n + 1, some (f, g) =>
    let w := s.weightOf f
    let s1 := s.modCt q fun c => c.dropSplit fx
    if g != 0 && s.slotsFail q fx [2] then
      ((s1.raiseFiring f fkECCUE 2 (portB (s1.view f.key) f) (BitVec.ofNat 64 (ctWordPa q)) 0).release (s1.ridOf q) (g - 1)).runSplits q fx n
    else if w ≤ 1 then s.askAlloc .weight f
    else (s1.doSplit false f (splitFx g) w).runSplits q fx n

/-- The first split of the firing's local part goes on with the 2^16 that it has been granted (R153, R154). [DEDUCED: log 21] -/
def State.grantSplit (s : State) (h : Firing) : State :=
  let q := h.sq
  let fx := h.t0.fx.toNat
  match (s.ct q).firstSplit fx with
  | none => s
  | some (f, g) =>
    ((s.modCt q fun c => c.dropSplit fx).doSplit true f (splitFx g) (s.weightOf f + 2 ^ 16)).runSplits q fx 1024

/-- A split joins those of its local part; it runs at once when none waits before it. -/
def State.joinSplit (s : State) (f : Firing) (g : Nat) : State :=
  let q := f.sq
  let idle := !s.splitWaits f
  let s1 := s.modCt q fun c => { c with splitQ := c.splitQ ++ [(f, g)] }
  if idle then s1.runSplits q f.t0.fx.toNat 1024 else s1

/-- R154: `wchk` makes sure that its local part holds weight of at least 2; it waits only where it needs a grant (R159). -/
def execWchk (r : D1) (s : State) : Res :=
  let v := r.view 0x1C
  if s.wchkWaits s.cur then .next (s.joinSplit s.cur 0) else finish s v (outs1 v s.pass) 0

/-! ### Leaving a frame (R142, R150, R151, R154) -/

/-- R142: the value goes to the continuation in slot 0, and the frame is released; a failing CDEST sends nothing and
releases nothing. -/
def execRet (r : D1) (s : State) : Res :=
  let v := r.view 0x15
  let f := s.cur
  let w := (s.slotOf f 0).val
  let t := { s.pass with fx := BitVec.ofNat 12 (slot0Pfx w), path := slot0Cpath w, rt := slot0Crt w }
  finishWith s v [{ dest := slot0Cdest w, tok := t }] fun s1 => s1.release (s1.ridOf f.sq) f.t0.fx.toNat

def execExitw (_r : D1) (s : State) : Res := .next (s.release (s.ridOf s.cur.sq) s.cur.t0.fx.toNat)

def execLeave (r : D2) (s : State) : Res := let v := r.view 0x13; finish s v (outs1 v s.pass) 0

/-- A change of ADM of frame `p`, copied into slot 3.ADM on the tile of its `loopin` node (R30, R137). [DEDUCED: log 22] -/
def State.setAdm (s : State) (rid p n node : Nat) : State :=
  (s.modFx rid p fun r => { r with link := setField r.link 44 4 n }).modCt (node / 4096) fun c =>
    c.modSlot p 3 fun x => { x with val := setField x.val 12 4 n }

/-- R150: the value leaves the loop, and the iteration frame is retired. One that is retired already, or whose release has
begun, raises ILLOP. -/
def execLoopout (r : D2) (s : State) : Res :=
  let v := r.view 0x19
  let f := s.cur
  let rid := s.ridOf f.sq
  let fr := s.fxRec rid f.t0.fx.toNat
  if !linkIt fr.link || linkRtd fr.link || fr.releasing then fails s v fkILLOP 7
  else
    let w := (s.slotOf f 0).val
    let t := { s.pass with fx := BitVec.ofNat 12 (slot0Pfx w), path := slot0Cpath w, rt := slot0Crt w }
    finishWith s v (outs1 v t) fun s1 =>
      if linkSv fr.link then s1.release rid f.t0.fx.toNat
      else
        let p := slot0Pfx fr.slot0
        let s2 := s1.modFx rid f.t0.fx.toNat fun x => { x with link := x.link ||| 0x2000000000000000#64 }
        s2.setAdm rid p (linkAdm (s2.fxRec rid p).link - 1) fr.loopNode

/-! ### Slots and tags (R144 to R146) -/

/-- R144: `ldfx` reads slot n of the local part; a slot beyond the class raises BOUNDS. -/
def execLdfx (r : D1) (s : State) : Res :=
  let v := r.view 0x16
  if v.lit ≥ clsSlots ((s.ct s.cur.sq).clsOf s.cur.t0.fx.toNat) then fails s v fkBOUNDS 3
  else finish1 s v ((s.slotOf s.cur v.lit).val, 0)

/-- R28, R144: `stfx` writes slot n, and the descriptor's image of slots 0 and 1, and then sends; slots 2 and 3 raise
PERM. -/
def execStfx (r : D1) (s : State) : Res :=
  let v := r.view 0x17
  let f := s.cur
  let fx := f.t0.fx.toNat
  if v.lit ≥ clsSlots ((s.ct f.sq).clsOf fx) then fails s v fkBOUNDS 3
  else if v.lit = 2 ∨ v.lit = 3 then fails s v fkPERM 2
  else
    let s1 := (s.mendTable (s.slotEccs f.sq fx [v.lit])).modSlotOf f v.lit fun x => { x with val := f.t0.val }
    finish
      (if v.lit = 0 then s1.modFx (s1.ridOf f.sq) fx fun x => { x with slot0 := f.t0.val }
       else if v.lit = 1 then s1.modFx (s1.ridOf f.sq) fx fun x => { x with slot1 := f.t0.val }
       else s1) v (outs1 v s.pass) 0

/-- The tag word (R145). -/
def tagWord (t : Token) : Word := (t.rt ++ t.path ++ t.fx).zeroExtend 64
def execGettag (r : D1) (s : State) : Res := let v := r.view 0x1E; finish1 s v (tagWord s.cur.t0, 0)
def execSettag (r : D2) (s : State) : Res :=
  let v := r.view 0x1D
  let w := s.opB v
  if w.toNat ≥ 2 ^ 20 then fails s v fkBOUNDS 1
  else
    finish s v (outs1 v { s.pass with fx := w.extractLsb' 0 12, path := w.extractLsb' 12 6,
                                      rt := w.extractLsb' 18 2 }) 0

/-- A frame-table entry as a word (R26). -/
def FEntry.word (e : FEntry) : Word :=
  BitVec.ofBool e.v ++ BitVec.ofBool e.sp ++ BitVec.ofBool e.pk ++ e.cls ++ e.fx ++ e.base ++ e.touch ++ 0#17
/-- The metadata of a slot (R146 selector 1). -/
def Slot.metaWord (x : Slot) : Word := (x.prt ++ BitVec.ofBool x.b ++ BitVec.ofBool x.p).zeroExtend 64

/-- R146: selectors 2, 3 and 5 are answered by the allocator. -/
def execFxinfo (r : D1) (s : State) : Res :=
  let v := r.view 0x1F
  let f := s.cur
  let c := s.ct f.sq
  let fx := f.t0.fx.toNat
  let n := s.opA.toNat
  match v.lit with
  | 0 => finish1 s v (match c.entry fx with | some p => p.2.word | none => 0, 0)
  | 1 => if n ≥ clsSlots (c.clsOf fx) then fails s v fkBOUNDS 0 else finish1 s v ((c.slot fx n).metaWord, 0)
  | 4 => if n ≥ clsSlots (c.clsOf fx) then fails s v fkBOUNDS 0 else finish1 s v ((c.slot fx n).val, 0)
  | _ => .next (s.askAlloc .info f)

/-! ### Allocation (R138, R141, R147 to R149, R153) -/

/-- FREE and RES of a region (R138). -/
def Region.freeCount (r : Region) : Nat := 4096 - (r.fx.filter fun p => p.2.alloc).length
def Region.resCount (r : Region) : Nat := (r.fx.map fun p => if p.2.alloc then linkRsv p.2.link else 0).foldl (· + ·) 0
/-- The lowest free FX. -/
def Region.lowest (r : Region) : Option Nat := firstFree 4096 0 fun i => (r.fx.look i).alloc

/-- Write the descriptor and link word of a new frame (R24, R141). [DEDUCED: log 19] -/
def State.newFrame (s : State) (rid g : Nat) (slot0 slot1 link : Word) (node : Nat) : State :=
  s.modFx rid g fun _ => { alloc := true, slot0 := slot0, slot1 := slot1, link := link, loopNode := node }

/-- CDEST with PORT 3: no continuation (R136). -/
def noCont : BitVec 28 := 3

/-- R147: whether an iteration of a loop with limit `k` and quota `ql` is granted in parent `p`, and whether it draws
from the parent's reservation. -/
def Region.iterGrant (r : Region) (p k ql : Nat) : Option Bool :=
  let l := (r.fx.look p).link
  if linkAdm l ≥ k then none
  else if linkRsv l ≥ 1 + ql then some true
  else if r.freeCount - r.resCount ≥ 1 + ql then some false
  else none

/-- The link word of a new iteration frame (R147). -/
def iterLink (drw : Bool) (k ql : Nat) : Word :=
  BitVec.ofNat 64 (2 ^ 63 + drw.toNat * 2 ^ 60 + k % 16 * 2 ^ 40 + ql % 8192 * 2 ^ 27 + ql % 8192 * 2 ^ 14)

/-- The grant of R147: the frame and its parent's counts. -/
def State.grantIter (s : State) (rid p g k ql : Nat) (drw : Bool) (slot0 slot1 : Word) (node : Nat) : State :=
  let s1 := s.newFrame rid g slot0 slot1 (iterLink drw k ql) node
  let pl := (s1.fxRec rid p).link
  let s2 := if drw then s1.modFx rid p fun x => { x with link := setField x.link 27 13 (linkRsv pl - (1 + ql)) } else s1
  s2.setAdm rid p (linkAdm pl + 1) node

/-- What the grant of a request makes of the state, with the request already taken out; none while it cannot be
granted. [DEDUCED: log 25] -/
def State.tryGrant (s : State) (rid : Nat) (q : AReq) : Option State :=
  let r := s.region rid
  let f := q.f
  let v := s.view f.key
  let p := f.t0.fx.toNat
  let fr := r.fx.look p
  let t := f.base f.t0.kind f.t0.val
  let home := sqDie r.famt
  let room := r.freeCount - r.resCount > 0
  match q.kind with
  | .falloc =>
    if !room then none
    else r.lowest.map fun g =>
      (s.newFrame rid g (mkSlot0 p 0 0 noCont) 0 0 0).answer1 home f { t with fx := BitVec.ofNat 12 g, path := 0 }
  | .call =>
    if !room then none
    else r.lowest.map fun g =>
      let s1 := s.newFrame rid g (mkSlot0 p f.t0.path f.t0.rt v.destB) 0 0 0
      s1.sendAnswer home f v (portB v f) [{ dest := v.destA, tok := { t with fx := BitVec.ofNat 12 g, path := 0 } }]
  | .spawn =>
    if !room then none
    else r.lowest.map fun g =>
      (s.newFrame rid g (mkSlot0 p 0 0 noCont) 0 0 0).modCt f.sq fun c => { c with spawnWait := c.spawnWait ++ [(f, g)] }
  | .loopin =>
    let ql := (s.elem f.elem).quota.look f.node
    match r.iterGrant p v.lit ql, r.lowest with
    | some drw, some g =>
      let s1 := s.grantIter rid p g v.lit ql drw (mkSlot0 p f.t0.path f.t0.rt noCont) 0 f.key
      some (s1.sendAnswer home f v (portB v f)
        (outs2 v { t with fx := BitVec.ofNat 12 g, path := 0 } (f.base 0 (BitVec.ofNat 64 g))))
    | _, _ => none
  | .iter =>
    if !linkIt fr.link then some (s.raise f v fkILLOP 7)
    else if linkSv fr.link then
      some (s.sendAnswer home f v (portB v f) (outs1 v { t with fx := BitVec.ofNat 12 (linkSucc fr.link) }))
    else
      let par := slot0Pfx fr.slot0
      match r.iterGrant par (linkK fr.link) (linkQl fr.link), r.lowest with
      | some drw, some g =>
        let s1 := s.grantIter rid par g (linkK fr.link) (linkQl fr.link) drw fr.slot0 (fr.slot1 + 1) fr.loopNode
        let s2 := s1.modFx rid p fun x => { x with link := setField (x.link ||| 0x4000000000000000#64) 48 12 g }
        let s3 := if linkRtd fr.link then s2.release rid p else s2
        some (s3.sendAnswer home f v (portB v f) (outs1 v { t with fx := BitVec.ofNat 12 g }))
      | _, _ => none
  | .ffree =>
    let g := f.t0.val.toNat
    let tgt := r.fx.look g
    if g = p ∨ g = 0 ∨ !tgt.alloc ∨ tgt.releasing then some (s.raise f v fkILLOP 7)
    else some ((s.release rid g).modFx rid g fun x => { x with answers := x.answers ++ [f] })
  | .info =>
    let ld := s.load r.load
    let w : Word := match v.lit with
      | 2 => fr.link
      | 3 => BitVec.ofNat 64 (r.freeCount + r.resCount % 2 ^ 13 * 2 ^ 16)
      | _ => ld.issued - ld.returned
    some (s.answer1 home f (f.base 0 w))
  | .wchk | .weight =>
    let s1 := s.modLoad r.load fun l => { l with issued := l.issued + 0x10000#64 }
    some (s1.grantSplit f)

/-- The first waiting request that can be granted, with the requests that stay (R138). [DEDUCED: log 25] -/
def firstGrant (s : State) (rid : Nat) (seen todo : List AReq) : Option State :=
  match todo with
  | [] => none
  | q :: rest =>
    match (s.modRegion rid fun r => { r with allocQ := seen ++ rest, lastGrant := s.cyc ((s.region rid).famt / 4096) }).tryGrant rid q with
    | some t => some t
    | none => firstGrant s rid (seen ++ [q]) rest

/-- The `spawn` firings of a tile that hold their new frame: the first takes a run for its local part and joins the
splits; one whose spill would pass the part's size raises SPILLFULL and its frame is released (R153). -/
def State.serveSpawns (s : State) (q fuel : Nat) : State :=
  match fuel, (s.ct q).spawnWait with
  | 0, _ => s
  | _, [] => s
  | n + 1, (f, g) :: rest =>
    let cls := (s.regionOf q).fcls
    match s.needRun q cls (.spawn g) with
    | .wait t => t
    | .got b =>
      (((s.modCt q fun c => { c with spawnWait := rest }).placePart q g b cls).joinSplit f (g + 1)).serveSpawns q n
    | .full =>
      let s1 := s.modCt q fun c => { c with spawnWait := rest }
      let v := s1.view f.key
      ((s1.raise f v fkSPILLFULL (s1.sporeSz q)).release (s1.ridOf q) g).serveSpawns q n

/-- ALLOC_REQUEST at region `a` (R138): a request reaches the allocator, which holds up to 256. -/
def execAllocRequest (s : State) : Res :=
  let rid := s.at_.a
  let r := s.region rid
  match r.allocIn.find? fun q => !s.crossing q.via with
  | none => .next s
  | some q =>
    if r.allocQ.length ≥ 256 then .next s
    else .next (s.modRegion rid fun r =>
      { r with allocIn := r.allocIn.erase q, allocQ := r.allocQ ++ [{ q with since := s.cyc (sqDie r.famt) }] })

/-- ALLOC_GRANT at region `a` (R147): the first request that can be granted. A `spawn` that holds its new frame goes on
in the same step when its local part has room (R153). -/
def execAllocGrant (s : State) : Res :=
  let rid := s.at_.a
  match firstGrant s rid [] (s.region rid).allocQ with
  | some t =>
    .next ((t.cts.filter fun p => t.ridOf p.1 == rid && !p.2.spawnWait.isEmpty).foldl
      (fun st p => (st.startRestore p.1).serveSpawns p.1 256) t)
  | none => .next s

/-- SPILL_COMPLETE of the run with BASE `b` at CT `a` (R345): its entries become invalid, and the one that waits for it
takes it. -/
def execSpillComplete (s : State) : Res :=
  let q := s.at_.a
  if !(s.ct q).spillRuns.any fun r => r.base == s.at_.b && !r.done then .next s
  else .next (((s.modCt q fun c => c.completeSpill s.at_.b).startRestore q).serveSpawns q 256)

/-- R347: an allocation waits on the tile, for a `spawn` or for a token that an input stage offers. -/
def State.allocWaits (s : State) (q : Nat) : Bool :=
  let c := s.ct q
  let r := s.regionOf q
  !c.spawnWait.isEmpty || [0, 1, 2, 3].any fun el =>
    let x := s.elem (q * 4 + el)
    (x.back ++ x.inStage).any fun fl =>
      let fx := fl.tok.fx.toNat
      let fr := r.fx.look fx
      fl.link < 16 && fl.tok.kind != 2#2 && !fl.tok.par && fr.alloc && !fr.releasing && !(s.parkedAt q fx && fl.link != 5) &&
        (c.entry fx).isNone && !c.spilledFx.contains fx

/-- RESTORE_START_SPONTANEOUS at CT `a` (R347): a waiting demanded restore goes first; otherwise the tile starts one of
its own accord. -/
def execRestoreStartSpontaneous (s : State) : Res :=
  let q := s.at_.a
  let c := s.ct q
  if c.restoring.isSome then .next s
  else if !c.restoreQ.isEmpty then .next (s.startRestore q)
  else if !c.spawnWait.isEmpty then .next (s.serveSpawns q 256)
  else if s.allocWaits q then .next s
  else
    match s.spontaneous q with
    | some p => .next (s.modCt q fun c => { c with restoring := some p })
    | none => .next s

/-! ### Release (R139) -/

/-- What a CT discards of a frame: its local part with the parked operands, its spilled part, its parked tokens; it waits
for no run any more. [DEDUCED: log 20] -/
def Ct.discardFx (c0 : Ct) (fx : Nat) : Ct :=
  let c := ((c0.leaveRun (.arrive fx)).leaveRun (.spawn fx)).leaveRun (.restore fx)
  let c1 := match c.entry fx with
    | some p =>
      { c with ftab := c.ftab.del p.1
               slots := mapTbl c.slots fun k x =>
                 if p.2.base.toNat ≤ k ∧ k < p.2.base.toNat + clsSlots p.2.cls then { x with p := false, b := false }
                 else x }
    | none => c
  { c1 with spilled := c1.spilled.del fx, taken := c1.taken.del fx, spilledFx := c1.spilledFx.filter (· != fx)
            park := c1.park.filter fun k => k.fl.tok.fx.toNat != fx
            restoreQ := c1.restoreQ.filter (· != fx), lineFull := c1.lineFull.filter (· != fx)
            restoring := if (c1.restoring.map (·.1)) == some fx then none else c1.restoring }

/-- What the spore-store part is charged for a frame on a CT: its overflow lines, its spilled part, and the part whose
spill is under way (R324, R345). [DEDUCED: log 20] -/
def Ct.charged (c : Ct) (fx : Nat) : Nat :=
  c.lineBytes fx + (c.spilled.look fx).charge +
    match c.entry fx with
    | some p => if p.2.sp then clsCharge p.2.cls else 0
    | none => 0

/-- RELEASE_NOTICE for frame `b` of region `a` at CT `c` (R139 step 2). [DEDUCED: log 20] -/
def execReleaseNotice (s : State) : Res :=
  let rid := s.at_.a
  let fx := s.at_.b
  let q := s.at_.c
  let fr := s.fxRec rid fx
  if !fr.waitCt.contains q || fr.notices.any fun p => p.1 == sqDie q && s.crossing p.2 then .next s
  else
    let c := s.ct q
    let w := (c.slot fx 2).val.toNat % 2 ^ 32
    let (s0, n) := ((s.modCt q fun c => c.discardFx fx).uncharge q (c.charged fx)).postMgmt (sqDie q) (sqDie (s.region rid).famt) fx
    let s1 := s0.modFx rid fx fun x =>
      { x with weight := x.weight + w, waitCt := x.waitCt.filter (· != q), acks := x.acks ++ [n] }
    .next ([0, 1, 2, 3].foldl (fun st el =>
      if (st.elem (q * 4 + el)).ctxs.isEmpty then st
      else st.modElem (q * 4 + el) fun x => { x with ctxs := x.ctxs.filter fun k => k.fx != fx })
      ((s1.startRestore q).serveSpawns q 256))

/-- A buffered request of a releasing frame has still to perform (R233); one that has faulted, or stands behind one that
has, holds no release back. -/
def State.buffers (s : State) (k : Nat) : Bool :=
  let chain := (s.wctx.look k).chain
  let faulted := fun (id : Nat) => (s.reqs.look id).stage == .faulted
  (chain.takeWhile fun id => !faulted id).any fun id =>
    let o := (s.reqs.look id).op
    0x91 ≤ o && o != 0x92 && o != 0x94 && o != 0x98 && o != 0x99 && o != 0x9B

/-- What is left of a frame's wave context when its FX goes back to the pool goes on by itself. -/
def State.detachCtx (s : State) (k : Nat) : State :=
  let c := s.wctx.look k
  if c.chain.isEmpty then { s with wctx := s.wctx.del k }
  else
    let n := s.serial + 1
    { s with
      serial := n
      wctx := (s.wctx.del k).put (2 ^ 28 + n) { c with closing := true, held := [], cluster := 2 ^ 28 }
      reqs := mapTbl s.reqs fun id r => if c.chain.contains id then { r with alone := some (2 ^ 28 + n) } else r }

/-- RELEASE_COMPLETE of frame `b` of region `a` (R139 step 4): once every CT has answered and the frame's buffered
requests have performed, the FX returns to the pool; the load completes when RETURNED = ISSUED (R155). [DEDUCED: log 22] [DEDUCED: log 24] -/
def execReleaseComplete (s : State) : Res :=
  let rid := s.at_.a
  let fx := s.at_.b
  let fr := s.fxRec rid fx
  if !fr.alloc || !fr.releasing || !fr.waitCt.isEmpty || fr.acks.any s.crossing || s.buffers (rid * 4096 + fx) then .next s
  else
    let lid := (s.region rid).load
    let par := slot0Pfx fr.slot0
    let s0 := (s.modRegion rid fun r => { r with lastGrant := s.cyc (sqDie r.famt) }).detachCtx (rid * 4096 + fx)
    let s1 := s0.modFx rid fx fun _ => {}
    let s2 := if linkIt fr.link && !linkRtd fr.link then
        s1.setAdm rid par (linkAdm (s1.fxRec rid par).link - 1) fr.loopNode else s1
    let pr := s2.fxRec rid par
    let s3 := if linkDrw fr.link && pr.alloc && !pr.releasing then
        s2.modFx rid par fun x => { x with link := setField x.link 27 13 (linkRsv x.link + 1 + linkRsv fr.link) } else s2
    let s4 := s3.modLoad lid fun l => { l with returned := l.returned + BitVec.ofNat 64 fr.weight }
    let s5 := fr.answers.foldl (fun st f => st.answer1 (sqDie (s.region rid).famt) f (f.base 0 (BitVec.ofNat 64 fx))) s4
    let ld := s5.load lid
    .next (if ld.phase == .running && ld.returned == ld.issued then s5.endLoad lid 2 0 0 else s5)

end Sys2Proof.Machine
end

