-- ==== Sys2Proof/Machine/Mem.lean ====
section
/-!
DEFINITION. Memory by physical address (R1, R285, R313 to R316), its error checks (R326), and address translation
(R317 to R320).
-/
namespace Sys2Proof.Machine

/-! ### Bytes -/

/-- The byte at a physical address; an unlisted byte reads 0 (R56). [DESIGN CHOICE: log 8] -/
def State.byte (s : State) (pa : Nat) : Byte := Tbl.look s.mem pa
/-- The MT square and the byte offset of a scratch offset. -/
def scratchSq (x : Nat) : Nat := mkSq (fld x 34 2) (fld x 22 6) (fld x 28 6)
def scratchOff (x : Nat) : Nat := fld x 0 22
/-- A byte above an MT's declared storage is noted for the save (R367). -/
def State.noteHigh (s : State) (pa : Nat) : List Nat :=
  if isScratch pa && 2097152 ≤ scratchOff pa && !s.high.contains (scratchSq pa) then scratchSq pa :: s.high else s.high
/-- Write one byte. -/
def State.setByte (s : State) (pa : Nat) (b : Byte) : State := { s with mem := Tbl.put s.mem pa b, high := s.noteHigh pa }
/-- `n` bytes from `pa` on, lowest first. -/
def State.bytes (s : State) (pa n : Nat) : List Byte := (List.range n).map fun i => s.byte (pa + i)
/-- The little-endian number in `n` bytes (R1). -/
def State.rd (s : State) (pa n : Nat) : Nat := leBytes (s.bytes pa n)
/-- Write a list of bytes from `pa` on. -/
def State.setBytes (s : State) (pa : Nat) (l : List Byte) : State :=
  match l with
  | [] => s
  | b :: rest => (s.setByte pa b).setBytes (pa + 1) rest
/-- Write the `n` low bytes of a number (R1). -/
def State.wr (s : State) (pa n v : Nat) : State := s.setBytes pa (toBytes n v)

/-! ### The address map (R313, R315) -/

/-- An HBM address that exists. -/
def isHbm (pa : Nat) : Bool := pa < 2 ^ 40 && pa / 2 ^ 38 != 3
/-- Bytes of an MT (R307). -/
def mtBytes : Nat := 2621440
/-- Check 1 of R316: the scratch offset names a byte of an MT. -/
def State.scratchOk (s : State) (x : Nat) : Bool :=
  fld x 36 12 == 0 && fld x 34 2 != 3 && fld x 28 6 ≤ 35 && !isCt (scratchSq x) && !s.fused.contains (scratchSq x) &&
  scratchOff x < mtBytes
/-- R314: the local stack and the package stack of an HBM address, and the byte in that stack. -/
def localStack (pa : Nat) : Nat := fld pa 12 2
def stackOf (pa : Nat) : Nat := homeDie pa * 4 + localStack pa
def stackByte (pa : Nat) : Nat := fld pa 14 24 * 2 ^ 12 + fld pa 0 12
/-- The address on a die of a byte of one of its stacks. -/
def stackPa (die stack byte : Nat) : Nat := die % 4 * 2 ^ 38 + byte / 2 ^ 12 * 2 ^ 14 + stack % 4 * 2 ^ 12 + byte % 2 ^ 12
/-- A physical address that some unit holds. -/
def State.paOk (s : State) (pa : Nat) : Bool := if isScratch pa then s.scratchOk (pa - 2 ^ 48) else isHbm pa

/-- Bytes that the rings of an MT's queues cover (R307, R308). -/
def Mt.ringHolds (m : Mt) (off : Nat) : Bool :=
  m.queues.any fun p => p.2.declared && p.2.base ≤ off && off < p.2.base + p.2.cap * 16
/-- Check 3 of R316: bytes `off` to `off + n - 1` are open to plain accesses in the MT's mode. -/
def Mt.plainOk (m : Mt) (off n : Nat) : Bool :=
  m.mode != 3 && !(m.mode == 1 && (List.range n).any fun i => m.ringHolds (off + i))

/-! ### Memory errors (R326) -/

/-- The address of the checked word that holds a byte: 8 bytes in an MT, 32 in HBM. -/
def eccWord (pa : Nat) : Nat := if isScratch pa then pa / 8 * 8 else pa / 32 * 32
/-- The first word among `n` bytes that fails its check beyond repair. [DEDUCED: log 63] -/
def State.eccBad (s : State) (pa n : Nat) : Option Nat :=
  ((List.range n).map fun i => eccWord (pa + i)).find? fun w => s.ecc.look w == 2

/-- R326, R328: correctable words that are read are corrected in the data returned and counted, each by itself. -/
def State.countCe (s : State) (pa n : Nat) : State :=
  let hits := (((List.range n).map fun i => eccWord (pa + i)).eraseDups).filter fun w => s.ecc.look w == 1
  hits.foldl (fun st _ => st.modDie (homeDie pa) fun d =>
    { d with ecccnt := bump16 d.ecccnt (if isScratch pa then 32 else 48) }) s
/-- A word written whole is good again. -/
def State.eccClear (s : State) (pa n : Nat) : State :=
  { s with ecc := s.ecc.filter fun p =>
      !(decide (pa ≤ p.1) && decide (p.1 + (if isScratch p.1 then 8 else 32) ≤ pa + n)) }

/-! ### Translation (R317 to R320) -/

/-- Index position, index length and leaf page bits of a level. -/
def lvlLo (l : Nat) : Nat := match l with | 3 => 43 | 2 => 30 | 1 => 21 | _ => 16
def lvlLen (l : Nat) : Nat := match l with | 3 => 13 | 2 => 13 | 1 => 9 | _ => 5
/-- Alignment bits of the table of a level: its own size. -/
def tblBits (l : Nat) : Nat := lvlLen l + 3

/-- The stacks of the die that holds an address (R314). -/
def stacksOfDie (pa : Nat) : List Nat := (List.range 4).map fun i => stackOf (stackPa (homeDie pa) i 0)
/-- R425: a failed stack leaves all the HBM of its die unmapped. -/
def State.hbmMapped (s : State) (pa : Nat) : Bool := isHbm pa && !((stacksOfDie pa).any fun b => s.badStacks.contains b)

/-- One step of a walk (R318): the next table, the leaf, or the cause of an XLAT. -/
inductive WalkRes where
  | next (table : Nat)
  | leaf (e : Tlb)
  | bad (cause : Nat)
  deriving DecidableEq, Repr

/-- The address of the entry of level `l` for `va` in the table at `table`. -/
def entryPa (va l table : Nat) : Nat := table + fld va (lvlLo l) (lvlLen l) * 8
/-- What the entry `e` of level `l` for `va`, read in the table at `table`, says. -/
def State.walkEntry (s : State) (rid va l table e : Nat) : WalkRes :=
  if !s.hbmMapped table then .bad 4
  else
    let leaf := tbit e 62
    let addr := fld e 8 44 * 256
    let odd := (leaf && l == 3) || (!leaf && l == 0)
    let align := if odd then 8 else if leaf then lvlLo l else tblBits (l - 1)
    if !tbit e 63 then .bad 0
    else if fld e 52 7 != 0 || fld e 0 8 != 0 || addr % 2 ^ align != 0 || (!leaf && fld e 59 3 != 0) then .bad 1
    else if odd then .bad 2
    else if leaf && tbit e 60 && !tbit e 61 then .bad 3
    else if !leaf then .next addr
    else if !s.hbmMapped addr && !isScratch addr then .bad 4
    else .leaf { rid := rid, page := va / 2 ^ lvlLo l, bits := lvlLo l, pa := addr, rd := tbit e 61, wr := tbit e 60,
                 us := tbit e 59 }

/-- Read the entry of level `l` for `va` in the table at `table`. -/
def State.walkStep (s : State) (rid va l table : Nat) : WalkRes :=
  s.walkEntry rid va l table (s.rd (entryPa va l table) 8)

/-- The levels from `l` down, `n` of them. -/
def State.walkFrom (s : State) (rid va n l table : Nat) : Except (Nat × Nat) Tlb :=
  match n with
  | 0 => .error (l, 2)
  | n + 1 =>
    match s.walkStep rid va l table with
    | .bad c => .error (l, c)
    | .leaf e => .ok e
    | .next t => s.walkFrom rid va n (l - 1) t

/-- The root of a region (R319). -/
def State.xroot (s : State) (rid : Nat) : Option Nat :=
  let w := (s.region rid).xroot
  if w.getLsbD 63 then some (fld w.toNat 16 36 * 2 ^ 16) else none

/-- A whole walk. -/
def State.walkAll (s : State) (rid va : Nat) : Except (Nat × Nat) Tlb :=
  match s.xroot rid with
  | none => .error (3, 0)
  | some root => s.walkFrom rid va 4 3 root

/-- The level of the leaf that an entry holds, by the size of its page (R317). -/
def Tlb.level (e : Tlb) : Nat := if e.bits = lvlLo 2 then 2 else if e.bits = lvlLo 1 then 1 else 0
/-- A translation entry holds the page of an address. -/
def Tlb.hits (e : Tlb) (rid va : Nat) : Bool := e.rid == rid && e.page == va / 2 ^ e.bits
/-- The entry of a cluster's shared set for an address. -/
def State.tlbFind (s : State) (c rid va : Nat) : Option Tlb := (s.tlb.look c).find? fun e => e.hits rid va
/-- Put an entry first; the least recently used of 256 goes (R320). -/
def State.tlbUse (s : State) (c : Nat) (e : Tlb) : State :=
  { s with tlb := s.tlb.put c ((e :: (s.tlb.look c).filter fun x => !(x == e)).take 256) }

/-- An address of the scratch window (R315). -/
def isWindow (va : Nat) : Bool := fld va 36 20 == 0xFFFE0

/-- What an access needs. -/
structure Acc where
  rd : Bool := false
  wr : Bool := false
  deriving DecidableEq, Repr, Inhabited
/-- DETAIL of PERM: what was refused (R356): the read, the write, and the user level. -/
def permDetail (rd wr user : Bool) : Nat := rd.toNat + 2 * wr.toNat + 4 * user.toNat

/-- XLAT's detail (R318). -/
def xlatDetail (level cause : Nat) : Nat := level + cause * 16

/-- The MT is in a region of the load of region `rid`. -/
def State.mtOfLoad (s : State) (rid q : Nat) : Bool :=
  (s.load (s.region rid).load).regions.contains (s.ridOf q)

/-- R316 checks 1 and 2 for a scratch offset reached by the window. -/
def State.windowCheck (s : State) (rid x : Nat) : Option (Nat × Nat) :=
  if !s.scratchOk x then some (fkXLAT, xlatDetail 7 5)
  else if !(s.region rid).level && !s.mtOfLoad rid (scratchSq x) then some (fkPERM, permDetail false false true)
  else none

/-- R318, R316, R425: an address translated by an entry: its decoding, the HBM of a die that has come up without all of its
stacks since the entry was filled, and then its permissions. -/
def State.leafCheck (s : State) (rid : Nat) (e : Tlb) (va : Nat) (a : Acc) : Except (Nat × Nat) Nat :=
  let pa := e.pa + va % 2 ^ e.bits
  let d := permDetail (a.rd && !e.rd) (a.wr && !e.wr) (!(s.region rid).level && !e.us)
  if isScratch pa && !s.scratchOk (pa - 2 ^ 48) then .error (fkXLAT, xlatDetail 7 5)
  else if isHbm pa && !s.hbmMapped pa then .error (fkXLAT, xlatDetail e.level 4)
  else if d != 0 then .error (fkPERM, d)
  else .ok pa

/-- A translation made in one step, through the shared set of cluster `c`, which it fills (R320): the physical address, or
the fault kind and its detail. -/
def State.translate (s : State) (c rid va : Nat) (a : Acc) : State × Except (Nat × Nat) Nat :=
  if isWindow va then
    (s, match s.windowCheck rid (fld va 0 36) with
        | some k => .error k
        | none => .ok (2 ^ 48 + fld va 0 36))
  else
    match s.tlbFind c rid va with
    | some e => (s.tlbUse c e, s.leafCheck rid e va a)
    | none =>
      match s.walkAll rid va with
      | .error (l, k) => (s, .error (fkXLAT, xlatDetail l k))
      | .ok e => (s.tlbUse c e, s.leafCheck rid e va a)

/-- Read or write the bytes at a list of addresses. -/
def State.gather (s : State) (l : List Nat) : List Byte := l.map s.byte
def State.scatter (s : State) (l : List Nat) (d : List Byte) : State :=
  (l.zip d).foldl (fun st p => st.setByte p.1 p.2) s

end Sys2Proof.Machine
end

