-- ==== Sys2Proof/Machine/Buffer.lean ====
section
/-!
DEFINITION. Tile handles and buffers: the handle and its checks (R46, R47), descriptors and where an element lies (R309,
R310, R63, R64), counts and the full/empty bit (R48, R49), and `halloc` requests that wait (R225).
-/
namespace Sys2Proof.Machine

/-! ### Data types (R63) -/

def dtW (dt : Nat) : Nat :=
  match dt with
  | 0 | 1 | 8 | 9 | 12 => 8
  | 2 | 3 => 6
  | 4 => 4
  | 5 | 6 | 11 => 16
  | 7 | 10 => 32
  | _ => 1
/-- The bytes of `cols` elements of `w` bits in the dense layout; a row of b1 elements fills its last byte up. [DESIGN CHOICE: log 88] -/
def rowBytes (cols w : Nat) : Nat := (cols * w + 7) / 8
def dtMx (dt : Nat) : Bool := dt < 5
def dtFloat (dt : Nat) : Bool := dt < 8
def dtInt (dt : Nat) : Bool := 8 ≤ dt && dt ≤ 11
def dtSigned (dt : Nat) : Bool := dt == 8 || dt == 10 || dt == 11
def dtFmt (dt : Nat) : Fmt :=
  match dt with
  | 0 => e4m3
  | 1 => e5m2
  | 2 => e2m3
  | 3 => e3m2
  | 4 => e2m1
  | 5 => bf16
  | 6 => fp16
  | _ => fp32
/-- The exponent of the largest finite value of an MX element format (R71). -/
def dtEmax (dt : Nat) : Int :=
  match dt with
  | 0 => 8
  | 1 => 15
  | 3 => 4
  | _ => 2

/-! ### Handles (R46) -/

/-- The window that a handle names: data type, MT square, buffer, generation, rows and columns, first row and column. -/
structure Win where
  dt : Nat := 0
  q : Nat := 0
  buf : Nat := 0
  gen : Nat := 0
  rows : Nat := 0
  cols : Nat := 0
  rb : Nat := 0
  cb : Nat := 0
  deriving DecidableEq, Repr, Inhabited

def winOf (h : Word) : Win :=
  let n := h.toNat
  { dt := fld n 60 4, q := fld n 46 14, buf := fld n 40 6, gen := fld n 32 8, rows := fld n 26 6 + 1,
    cols := fld n 19 7 + 1, rb := fld n 13 6, cb := fld n 6 7 }
/-- The number of elements, and the row and column of an element index (R6). -/
def Win.count (w : Win) : Nat := w.rows * w.cols
/-- Both windows lie in one buffer. -/
def Win.sameBuf (a b : Win) : Bool := a.q == b.q && a.buf == b.buf
/-- Bits that a window covers in each row. -/
def Win.lo (w : Win) : Nat := w.cb * dtW w.dt
def Win.hi (w : Win) : Nat := (w.cb + w.cols) * dtW w.dt
/-- The two windows share a bit of their buffer. -/
def Win.overlaps (a b : Win) : Bool :=
  a.sameBuf b && a.rb < b.rb + b.rows && b.rb < a.rb + a.rows && a.lo < b.hi && b.lo < a.hi
/-- The two windows cover the same bits. [DESIGN CHOICE: log 99] -/
def Win.sameArea (a b : Win) : Bool :=
  a.sameBuf b && a.rb == b.rb && a.rows == b.rows && a.lo == b.lo && a.hi == b.hi

/-! ### Descriptors (R309) -/

def dUse (d : Word) : Bool := d.getLsbD 63
def dF (d : Word) : Bool := d.getLsbD 62
def dGen (d : Word) : Nat := fld d.toNat 54 8
def dCnt (d : Word) : Nat := fld d.toNat 38 16
def dBase (d : Word) : Nat := fld d.toNat 22 16 * 64
def dRows (d : Word) : Nat := fld d.toNat 16 6 + 1
def dStride (d : Word) : Nat := (fld d.toNat 10 6 + 1) * 8
def dSc (d : Word) : Bool := d.getLsbD 9

def State.desc (s : State) (q b : Nat) : Word := (s.mt q).bufs.look b
def State.modDesc (s : State) (q b : Nat) (f : Word → Word) : State :=
  s.modMt q fun m => { m with bufs := m.bufs.upd b f }
def State.setF (s : State) (q b : Nat) (f : Bool) : State := s.modDesc q b fun d => setField d 62 1 f.toNat

/-- R47, in order: the first check of a handle on port `port` that fails; a y of 36 to 63 names no square, and is refused as a
fused-off one is. [DESIGN CHOICE: log 104] -/
def State.handleFault (s : State) (h : Word) (port : Nat) : Option (Nat × Nat) :=
  let w := winOf h
  let d := s.desc w.q w.buf
  if w.dt ≥ 14 then some (fkTYPE, port + 128)
  else if sqDie w.q == 3 || sqY w.q > 35 || isCt w.q || s.fused.contains w.q || fld h.toNat 0 6 != 0 then
    some (fkBOUNDS, port)
  else if (s.mt w.q).mode != 0 || !dUse d then some (fkBOUNDS, port)
  else if w.gen != dGen d then some (fkSTALEH, port + w.gen * 2 ^ 8 + dGen d * 2 ^ 16)
  else if w.rb + w.rows > dRows d || w.cb + w.cols > dStride d * 8 / dtW w.dt ||
      (dtMx w.dt && (w.cb % 32 != 0 || w.cols % 32 != 0)) then some (fkBOUNDS, port)
  else if dCnt d = 0 then some (fkBOUNDS, port)
  else none

/-- Check 4 of R47 alone. -/
def State.staleFault (s : State) (h : Word) (port : Nat) : Option (Nat × Nat) :=
  let w := winOf h
  let g := dGen (s.desc w.q w.buf)
  if w.gen != g then some (fkSTALEH, port + w.gen * 2 ^ 8 + g * 2 ^ 16) else none

/-! ### Elements (R310) -/

/-- The bit offset of element (r, c) within its MT. -/
def elemBit (d : Word) (w : Win) (r c : Nat) : Nat :=
  8 * (dBase d + (w.rb + r) * dStride d) + (w.cb + c) * dtW w.dt
/-- Address and length of the bytes that hold `n` elements from (r, c) on. -/
def State.elemSpan (s : State) (w : Win) (r c n : Nat) : Nat × Nat :=
  let o := elemBit (s.desc w.q w.buf) w r c
  (scratchPa w.q (o / 8), (o % 8 + n * dtW w.dt + 7) / 8)
/-- Element (r, c) as raw bits. -/
def State.elemAt (s : State) (w : Win) (r c : Nat) : Nat :=
  let o := elemBit (s.desc w.q w.buf) w r c
  let p := s.elemSpan w r c 1
  fld (s.rd p.1 p.2) (o % 8) (dtW w.dt)
/-- Write element (r, c). -/
def State.putElem (s : State) (w : Win) (r c x : Nat) : State :=
  let o := elemBit (s.desc w.q w.buf) w r c
  let p := s.elemSpan w r c 1
  let old := s.rd p.1 p.2
  s.wr p.1 p.2 (old - fld old (o % 8) (dtW w.dt) * 2 ^ (o % 8) + x % 2 ^ dtW w.dt * 2 ^ (o % 8))
/-- The scale byte of the block that holds (r, c) (R64, R310). -/
def State.scaleAddr (s : State) (w : Win) (r c : Nat) : Nat :=
  let d := s.desc w.q w.buf
  scratchPa w.q (dBase d + dRows d * dStride d + 4 * (w.rb + r) + (w.cb + c) / 32)
def State.scaleAt (s : State) (w : Win) (r c : Nat) : Nat := (s.byte (s.scaleAddr w r c)).toNat
def State.putScale (s : State) (w : Win) (r c x : Nat) : State := s.setByte (s.scaleAddr w r c) (BitVec.ofNat 8 x)

/-- The raw bits of row `r`. -/
def State.rowAt (s : State) (w : Win) (r : Nat) : List Nat := (List.range w.cols).map fun c => s.elemAt w r c
/-- Write raw bits into row `r` from column `c` on. -/
def State.putRow (s : State) (w : Win) (r c : Nat) (l : List Nat) : State :=
  match l with
  | [] => s
  | x :: rest => (s.putElem w r c x).putRow w r (c + 1) rest

/-- A value times 2^k. -/
def FVal.scale (v : FVal) (k : Int) : FVal :=
  match v with
  | .fin n m e => .fin n m (e + k)
  | v => v
/-- Element (r, c) of a float window as a value (R58, R64). -/
def State.fltAt (s : State) (w : Win) (r c : Nat) : FVal :=
  let v := (dtFmt w.dt).value (s.elemAt w r c)
  if dtMx w.dt then
    let x := s.scaleAt w r c
    if x = 255 then .nan false else v.scale ((x : Int) - 127)
  else v
/-- Element (r, c) of an integer window. -/
def State.intAt (s : State) (w : Win) (r c : Nat) : Int := laneInt (dtSigned w.dt) (dtW w.dt) (s.elemAt w r c)

/-! ### Memory errors in buffers (R326) -/

/-- A failing word under `n` elements from (r, c) on, or under their scale bytes. -/
def State.elemBad (s : State) (w : Win) (r c n : Nat) : Option Nat :=
  let p := s.elemSpan w r c n
  match s.eccBad p.1 p.2 with
  | some x => some x
  | none => if dtMx w.dt then s.eccBad (s.scaleAddr w r c) (s.scaleAddr w r (c + n - 1) - s.scaleAddr w r c + 1) else none
/-- The errors corrected in them as they are read are counted (R326, R328). -/
def State.elemCe (s : State) (w : Win) (r c n : Nat) : State :=
  let p := s.elemSpan w r c n
  let s1 := s.countCe p.1 p.2
  if dtMx w.dt then s1.countCe (s.scaleAddr w r c) (s.scaleAddr w r (c + n - 1) - s.scaleAddr w r c + 1) else s1

/-- The words of the MT that `n` elements from (r, c) on lie in, those that they fill or those that they fill in part. -/
def State.elemWords (s : State) (w : Win) (r c n : Nat) (full : Bool) : List Nat :=
  let o := elemBit (s.desc w.q w.buf) w r c
  let hi := o + n * dtW w.dt
  (((List.range ((hi - 1) / 64 + 1 - o / 64)).map fun i => o / 64 + i).filter fun k =>
    decide (o ≤ 64 * k && 64 * k + 64 ≤ hi) == full).map fun k => scratchPa w.q (8 * k)
/-- Elements cannot be written: a word that they do not fill, or that holds their scale byte, fails its check (R326). -/
def State.writeBad (s : State) (w : Win) (r c n : Nat) : Option Nat :=
  match (s.elemWords w r c n false).find? fun x => s.ecc.look x == 2 with
  | some x => some x
  | none => if dtMx w.dt then s.eccBad (s.scaleAddr w r c) (s.scaleAddr w r (c + n - 1) - s.scaleAddr w r c + 1) else none
/-- The words that they fill are good again. -/
def State.writeMend (s : State) (w : Win) (r c n : Nat) : State :=
  (s.elemWords w r c n true).foldl (fun (st : State) x => { st with ecc := st.ecc.del x }) s

/-! ### Reference counts (R48) and waiting `halloc` requests (R225) -/

/-- The pool buffers of an MT that could hold a request of `rows` by `cols` elements of `dt`, scale plane included. -/
def Mt.fits (m : Mt) (dt rows cols : Nat) : List Nat :=
  (List.range 64).filter fun b =>
    let d := m.bufs.look b
    m.mode == 0 && m.pool.contains b && dUse d && rows ≤ dRows d && cols * dtW dt ≤ dStride d * 8 && (!dtMx dt || dSc d)

/-- The handle that answers a request word with buffer `b` (R225). -/
def allocHandle (dt : Nat) (req : Word) (b gen : Nat) : Word :=
  BitVec.ofNat 64 (dt * 2 ^ 60 + fld req.toNat 46 14 * 2 ^ 46 + b * 2 ^ 40 + gen * 2 ^ 32 + fld req.toNat 19 13 * 2 ^ 19)

/-- Answer one `halloc` firing if a buffer that fits has a count of 0. -/
def State.tryHalloc (s : State) (q : Nat) (f : Firing) : Option State :=
  let v := s.view f.key
  let req := f.t0.val
  let m := s.mt q
  match (m.fits v.lit (fld req.toNat 26 6 + 1) (fld req.toNat 19 7 + 1)).find? fun b => dCnt (m.bufs.look b) == 0 with
  | none => none
  | some b =>
    let gen := dGen (m.bufs.look b)
    let s1 := s.modDesc q b fun d => setField (setField d 38 16 1) 62 1 0
    some (s1.sendAnswer (sqDie q) f v (portB v f) (outs1 v (f.base 1 (allocHandle v.lit req b gen))))

/-- Answer the waiting requests of an MT in order, each that can be answered. -/
def State.serveHallocs (s : State) (q : Nat) (todo : List Firing) : State :=
  match todo with
  | [] => s
  | f :: rest =>
    match s.tryHalloc q f with
    | some t => (t.modMt q fun m => { m with hallocQ := m.hallocQ.erase f }).serveHallocs q rest
    | none => s.serveHallocs q rest

/-- One reference fewer; a count of 0 frees the buffer: its generation rises, F is cleared, and a waiting `halloc` may
have it. [DEDUCED: log 55] -/
def State.dropRef (s : State) (q b : Nat) : State :=
  let d := s.desc q b
  if dCnt d = 0 then s
  else if dCnt d = 1 then
    let s1 := s.modDesc q b fun d => setField (setField (setField d 38 16 0) 54 8 (dGen d + 1)) 62 1 0
    s1.serveHallocs q (s1.mt q).hallocQ
  else s.modDesc q b fun d => setField d 38 16 (dCnt d - 1)
/-- One reference more; a count of 65,535 goes to 0 where a `qsteal` adds to it, since R48 sets a bound for `href` alone. [DESIGN CHOICE: log 105] -/
def State.addRef (s : State) (q b : Nat) : State := s.modDesc q b fun d => setField d 38 16 (dCnt d + 1)

/-! ### What the handle instructions read (R228, R229) -/

/-- R228: the information words. -/
def hinfoWord (sel : Nat) (w : Win) (d : Word) : Word :=
  match sel with
  | 0 => BitVec.ofNat 64 (dCnt d + (dF d).toNat * 2 ^ 16 + dGen d * 2 ^ 24)
  | 1 => BitVec.ofNat 64 w.count
  | _ => BitVec.ofNat 64 ((dRows d - 1) * 2 ^ 26 + (min (dStride d * 8 / dtW w.dt) 128 - 1) * 2 ^ 19)
/-- An element as a 64-bit value (R229). [DEDUCED: log 57] -/
def State.elemValue (s : State) (w : Win) (r c : Nat) : Word × Flags :=
  if dtMx w.dt then let p := fp32.pack rne (s.fltAt w r c); (BitVec.ofNat 64 p.1, p.2)
  else (BitVec.ofInt 64 (s.intAt w r c), 0)


end Sys2Proof.Machine
end

