-- ==== Sys2Proof/Machine/Fabric.lean ====
section
/-!
DEFINITION. Reading memory from a die past its egress store buffer (R234, R293).
-/
namespace Sys2Proof.Machine

/-- The firing stays at the head of its ready queue. [DEDUCED: log 66] -/
def State.requeue (s : State) (f : Firing) : State := s.modElem f.elem fun x => { x with readyQ := f :: x.readyQ }

/-! ### Past the egress store buffer (R293) -/

/-- Byte ranges that share a byte. -/
def overlap (a n b m : Nat) : Bool := a < b + m && b < a + n

/-- The bytes that an `st` entry writes from its address on. -/
def MReq.storeBytes (r : MReq) : List Byte := toBytes r.size ((r.data[0]?.getD 0).toNat)

/-- A GA store or update that an EF entry stands behind is still unacknowledged (R234). -/
def State.ahead (s : State) (id : Nat) : Bool :=
  let r := s.reqs.look id
  r.size != 0 && r.stage != .posted && r.stage != .faulted

/-- What a read finds in its die's egress store buffer: nothing, so that it reads its home; an entry that it must wait for;
or the bytes. -/
inductive DieRead where
  | home
  | wait
  | take (b : List Byte)
  deriving DecidableEq, Repr

/-- A read of `n` bytes at `pa` from a die: the latest entry that overlaps it supplies every byte or makes it wait for the
confirmation, and so does a GA store that the entry stands behind. An entry that its home has performed is not forwarded
from: the home holds its value or a later one (R291, R298). [DEDUCED: log 84] -/
def State.dieRead (s : State) (die pa n : Nat) : DieRead :=
  let hits := (s.egress.look die).filterMap fun id =>
    let r := s.reqs.look id
    match r.pa with
    | some p => if overlap p r.size pa n then some (p, r) else none
    | none => none
  match hits.getLast? with
  | none => .home
  | some (p, r) =>
    if !(p ≤ pa && pa + n ≤ p + r.size) || r.op == 0x97 || r.behind.any s.ahead then .wait
    else if r.performed then .home
    else .take ((r.storeBytes.drop (pa - p)).take n)

end Sys2Proof.Machine
end

