-- ==== Sys2Proof/Machine/MemNode.lean ====
section
/-!
DEFINITION. Memory nodes (R230 to R241): the checks at the node, the requests, translation and page walks (R320), the
wave-order units and their store buffers (R232, R233), and the order of GA and EF stores (R234, R293, R294).
-/
namespace Sys2Proof.Machine

/-! ### The request of a firing (R230, R231) -/

/-- Access granule (R230). -/
def granule (op ty : Nat) : Nat :=
  match op with
  | 0x90 | 0x91 | 0x92 | 0x93 => if ty = 13 then 4 else 8
  | 0x94 | 0x95 | 0x96 => 8
  | 0x97 => 128
  | 0x98 => 64
  | _ => 16

/-- The effective address (R96). -/
def effAddr (v : RecView) (a : Word) : Nat :=
  ((a.toNat + v.off.toInt * granule v.op.toNat v.tyN) % (2 ^ 56 : Int)).toNat

def isStore (op : Nat) : Bool := op == 0x91 || op == 0x93 || op == 0x95
def isUpdate (op : Nat) : Bool := op == 0x96 || op == 0x97 || op == 0x9A || op == 0x9C
def isLoad (op : Nat) : Bool := op == 0x90 || op == 0x92 || op == 0x94 || op == 0x99
/-- The region's cluster at position FX mod n: the wave-order unit of a frame (R232). -/
def State.unitOf (s : State) (rid fx : Nat) : Nat :=
  let l := (s.region rid).clusters
  l[fx % l.length]?.getD 0
/-- R239: entry `e` of a descriptor. -/
def alrOp (d : Word) (e : Nat) : Nat := fld d.toNat (8 * e + 4) 4
def alrW (d : Word) (e : Nat) : Nat := fld d.toNat (8 * e) 4
/-- R240: the first bad entry of a descriptor. A word of the line beyond 15 cannot be named. -/
def alrBad (d : Word) : Option Nat :=
  (List.range 8).find? fun e =>
    let o := alrOp d e
    (e == 0 && o == 0) || (o != 0 && e > 0 && alrOp d (e - 1) == 0) || o == 13 || o == 14 ||
    (o == 4 && (e > 5 || alrOp d (e + 1) != 15 || alrW d (e + 1) != alrW d e)) ||
    (o == 15 && (e == 0 || alrOp d (e - 1) != 4)) || (e == 7 && o > 1)
/-- Every entry is `ld`. -/
def alrOnlyLd (d : Word) : Bool := (List.range 8).all fun e => alrOp d e ≤ 1
/-- An entry is `ld` or cas. -/
def alrReturns (d : Word) : Bool := (List.range 8).any fun e => alrOp d e == 1 || alrOp d e == 4

/-- What the access needs (R231 check 3). -/
def MReq.acc (r : MReq) : Acc :=
  if r.op = 0x98 then {}
  else if isLoad r.op then { rd := true }
  else if r.op = 0x97 then (if alrOnlyLd (r.data[7]?.getD 0) then { rd := true } else { rd := true, wr := true })
  else { wr := true }

/-- The word that a fault record holds as the second operand: the data, and for `alr`, which has no second operand, its
descriptor on ALRFORM alone (R356). -/
def MReq.w2 (r : MReq) (kind : Nat) : Word :=
  if r.op = 0x97 then (if kind = fkALRFORM then r.data[7]?.getD 0 else 0) else r.f.t1.val

/-! ### Messages (R398, R399) -/

/-- The die that a request goes to. -/
def MReq.home (r : MReq) : Nat := r.io.getD (homeDie (r.pa.getD 0))
/-- MOP of a request. -/
def MReq.mop (r : MReq) : Nat :=
  match r.op with
  | 0x90 | 0x92 => 0
  | 0x91 | 0x93 => if r.ef then 2 else 1
  | 0x97 => if r.ef then 4 else 3
  | 0xC0 | 0xCA | 0xCB | 0xCC | 0xCD | 0xCE => 8
  | _ => 6
/-- The data bytes of a request. -/
def MReq.bytes (r : MReq) : List Byte :=
  if isStore r.op then r.storeBytes else r.data.flatMap fun x => toBytes 8 x.toNat
/-- The data bytes that SIZE counts: those that the request brings, or those that a read asks for. -/
def MReq.sizeOf (r : MReq) : Nat := if isLoad r.op || r.bytes.isEmpty then r.size else r.bytes.length
/-- The square that a request leaves from and its reply comes back to, where that is fixed, and the MT that it goes to, for a
scratch address or an object (R394); the places of the wave-order units, the engines and the HBM slices are open (R454). -/
def MReq.fromSq (r : MReq) : Option Nat := if r.wave || r.eng then none else some r.f.sq
def MReq.goalSq (r : MReq) : Option Nat := (r.pa.filter isScratch).map scratchSq
/-- The request sets out from die `a` to die `b`, its home unless it goes to its wave-order unit first. -/
def State.sendReq (s : State) (id a b : Nat) : State :=
  let r := s.reqs.look id
  let (s1, n) := s.post a b
    { cls := .mreq, head := msgHead r.mop r.sizeOf id a b 0 r.eseq (r.pa.getD 0), data := r.bytes
      leg := msgLeg a b r.fromSq (if b = r.home then r.goalSq else none) }
  { s1 with reqs := s1.reqs.upd id fun r => { r with via := n } }
/-- STAT of a reply. -/
def replyStat (e : Option (Nat × Nat)) : Nat :=
  match e with
  | none => 0
  | some (k, _) => if k = fkECCUE then 1 else if k = fkXLAT then 3 else 2
/-- The reply of request `id` sets out from its home: an ACK word for a store or update that brings no value, a message
with the data for any other. -/
def State.sendReply (s : State) (id : Nat) : State :=
  let r := s.reqs.look id
  let h := r.home
  let what := if r.op == 0x91 || r.op == 0x93 || r.op == 0x97 then (if r.ef then 1 else 0) else 2
  let m : Msg :=
    if isStore r.op || r.op == 0x96 || r.op == 0x9A || (r.op == 0x97 && r.acked) then
      { cls := .ack, head := ackWord id (replyStat r.err) what }
    else
      let data := if isLoad r.op then toBytes r.size r.val.toNat
        else toBytes 8 r.val.toNat ++ r.words.flatMap fun x => toBytes 8 x.toNat
      { cls := .mrsp, head := msgHead r.mop data.length id h r.die (replyStat r.err) 0 (r.pa.getD 0), data := data }
  let (s1, n) := s.post h r.die { m with leg := msgLeg h r.die r.goalSq r.fromSq }
  { s1 with reqs := s1.reqs.upd id fun r => { r with via := n } }
/-- The request has reached its home, on a die that runs. -/
def State.reached (s : State) (r : MReq) : Bool := !s.crossing r.via && (r.home == r.die || s.running r.home)

/-- A fault of a request, in a record that names the request (R235, R236). -/
def State.raiseReq (s : State) (id : Nat) (kind detail : Nat) (nofx : Bool) : State :=
  let r := s.reqs.look id
  let f := r.f
  let w2 := r.w2 kind
  let comp : Word :=
    if kind = fkACKLOST && r.op = 0x97 then r.data[7]?.getD 0
    else if kind = fkECCUE then BitVec.ofNat 64 (r.val.toNat)
    else BitVec.ofNat 64 r.ea
  s.raiseArgs r.lid r.rid
    { kind := kind, detail := detail, w1 := f.t0.val, w2 := w2, comp := comp, nofx := nofx, place := f.key,
      fx := f.t0.fx.toNat, path := f.t0.path.toNat, rt := f.t0.rt.toNat, firing := some f, req := some id }

/-- Set or clear B on the eight slots of an `alr`, and write its results (R240). -/
def State.alrSlots (s : State) (f : Firing) (slot : Nat) (b : Bool) (l : List Word) : State :=
  (List.range 8).foldl (fun st i => st.modSlotOf f (slot + i) fun x =>
    { x with b := b, val := match l[i]? with | some w => w | none => x.val }) s

/-- The request faults and keeps its place in the chain; a request outside wave order leaves nothing behind, and an
engine takes the fault of its access up itself. A faulted `alr` is no more outstanding: B clears on its slots (R34). -/
def State.faultReq (s : State) (id : Nat) (kind detail : Nat) : State :=
  let s0 := if (s.reqs.look id).op = 0x97 then
      s.alrSlots (s.reqs.look id).f (s.view (s.reqs.look id).f.key).slot false [] else s
  let s1 := s0.raiseReq id kind detail false
  if (s.reqs.look id).eng then
    { s with reqs := s.reqs.upd id fun r => { r with stage := .done, err := some (kind, detail) } }
  else if (s.reqs.look id).wave then { s1 with reqs := s1.reqs.upd id fun r => { r with stage := .faulted, err := none } }
  else { s1 with reqs := s1.reqs.del id }

/-! ### Completion and what it lets go (R233, R234) -/

/-- The wave context of a request: its frame's, or its own once the frame has been released. -/
def ctxKey (r : MReq) : Nat := r.alone.getD (r.rid * 4096 + r.f.t0.fx.toNat)

/-- The request leaves its chain. -/
def State.retire (s : State) (id : Nat) : State :=
  let r := s.reqs.look id
  let s1 := { s with reqs := s.reqs.del id }
  let chain := (s.wctx.look (ctxKey r)).chain.filter (· != id)
  if r.wave && (s.wctx.look (ctxKey r)).isOpen then
    { s1 with wctx := if r.alone.isSome && chain.isEmpty then s1.wctx.del (ctxKey r)
                      else s1.wctx.upd (ctxKey r) fun c => { c with chain := chain } }
  else s1

/-- Send the result of a request: KIND 00, with the given XD (R230). -/
def State.reqResult (s : State) (r : MReq) (x : Word) (xd : Bool) : State :=
  let v := s.view r.f.key
  s.sendAnswer r.die r.f v (r.w2 0) (outs1 v { r.f.base 0 x with xd := xd })
/-- The request is complete with its value: it leaves its chain and sends its result, or waits for its engine. -/
def State.complete (s : State) (id : Nat) (x : Word) (xd : Bool) : State :=
  let r := s.reqs.look id
  if r.eng then { s with reqs := s.reqs.upd id fun r => { r with stage := .done, val := x } }
  else (s.retire id).reqResult r x xd

/-- The address of a request, translated already or as it would be. -/
def State.paOf (s : State) (r : MReq) : Option Nat :=
  match r.pa with
  | some p => some p
  | none =>
    if isWindow r.ea then some (2 ^ 48 + fld r.ea 0 36)
    else
      match s.walkAll r.rid r.ea with
      | .ok e => some (e.pa + r.ea % 2 ^ e.bits)
      | .error _ => none

/-- Two requests share a byte. -/
def State.meets (s : State) (a b : MReq) : Bool :=
  match s.paOf a, s.paOf b with
  | some p, some q => overlap p a.size q b.size
  | _, _ => false

/-- The requests before `id` in its chain. -/
def State.before (s : State) (id : Nat) : List MReq :=
  (((s.wctx.look (ctxKey (s.reqs.look id))).chain.takeWhile (· != id)).map s.reqs.look)

/-- R287: a load of the chain that precedes request `id`, a load of the same word, has not read it yet. -/
def State.loadBefore (s : State) (id : Nat) : Bool :=
  let r := s.reqs.look id
  r.wave && isLoad r.op && (s.before id).any fun b =>
    isLoad b.op && (b.stage == .xlat || b.stage == .ready || b.stage == .sent) &&
      match s.paOf b, r.pa with
      | some p, some q => p / 8 == q / 8
      | _, _ => false

/-- A load's turn (R233): wait, take the value of a buffered store, or go. -/
inductive LoadTurn where
  | wait
  | take (x : Nat)
  | go
  deriving DecidableEq, Repr

def State.loadTurn (s : State) (id : Nat) : LoadTurn :=
  let r := s.reqs.look id
  match ((s.before id).filter fun b => (isStore b.op || isUpdate b.op) && b.stage != .posted && s.meets b r).getLast? with
  | none => .go
  | some b =>
    let p := (s.paOf b).getD 0
    let q := r.pa.getD 0
    let fits := (b.op == 0x91 && r.op == 0x90) || (b.op == 0x95 && r.op == 0x94)
    if (b.stage == .ready || b.stage == .xlat) && fits && p ≤ q && q + r.size ≤ p + b.size then
      .take (leBytes ((b.storeBytes.drop (q - p)).take r.size))
    else .wait

/-- A store or update may leave (R233, R235, R289): no store or update before it in the chain is incomplete, no request
before it has faulted, and no load of its bytes is under way. -/
def State.storeTurn (s : State) (id : Nat) : Bool :=
  let r := s.reqs.look id
  (s.before id).all fun b => b.stage != .faulted && !(isStore b.op || isUpdate b.op) && !(isLoad b.op && s.meets b r)

/-- The request goes to its home, and its timer starts (R302). -/
def State.depart (s : State) (id : Nat) : State :=
  let s1 := { s with reqs := s.reqs.upd id fun r => { r with stage := .sent, issued := true, start := s.tick r.die,
                                                             tout := (s.die r.die).reqto.toNat } }
  s1.sendReq id (s1.reqs.look id).die (s1.reqs.look id).home

/-- Requests of the die that an access to the same bytes must look at: the given stages. -/
def State.rivals (s : State) (id : Nat) (p : MReq → Bool) : List Nat :=
  let r := s.reqs.look id
  (s.reqs.filter fun q => q.1 != id && q.2.die == r.die && p q.2 && s.meets q.2 r).map (·.1)

/-- An EF store or region enters the egress store buffer with the next number for its home, and is acknowledged (R234,
R240, R293, R399). An `ist` stays in its chain, and is acknowledged once its home has performed it (R291, R296). [DEDUCED: log 85] -/
def State.enterEgress (s : State) (id : Nat) : State :=
  let r := s.reqs.look id
  let ga := s.rivals id fun x => (isStore x.op || isUpdate x.op) && x.issued && x.stage != .posted && x.stage != .faulted
  let k := r.die * 8 + homeDie (r.pa.getD 0)
  let stays := r.op == 0x95
  let s1 := { s with
    egress := s.egress.upd r.die fun l => l ++ [id]
    eseq := s.eseq.upd k (· + 1)
    reqs := s.reqs.upd id fun r => { r with stage := .posted, issued := true, behind := ga, start := s.tick r.die,
                                            tout := (s.die r.die).reqto.toNat, wave := r.wave && stays, performed := false,
                                            acked := r.acked || !stays, eseq := s.eseq.look k % 2 ^ 16 } }
  let s2 := if r.wave && !stays && (s1.wctx.look (ctxKey r)).isOpen then
      { s1 with wctx := s1.wctx.upd (ctxKey r) fun c => { c with chain := c.chain.filter (· != id) } }
    else s1
  let s3 := s2.sendReq id r.die r.home
  if r.acked || stays then s3
  else if r.op = 0x97 then (s3.alrSlots r.f (s.view r.f.key).slot false []).reqResult r 0 false
  else s3.reqResult r (BitVec.ofNat 64 r.ea) true

/-- The accesses that an engine makes together are all translated, none with a fault (R217). -/
def State.groupReady (s : State) (r : MReq) : Bool :=
  !r.eng || s.reqs.all fun p => !(p.2.eng && p.2.tgt == r.tgt) || (p.2.stage != .xlat && p.2.err.isNone)

/-- One request whose translation is at hand leaves, if it may. -/
def State.tryLeave (s : State) (id : Nat) : State :=
  let r := s.reqs.look id
  if r.stage != .ready || !s.groupReady r then s
  else if r.op = 0x9B then
    if !(s.before id).isEmpty then s
    else if r.acked then s.retire id
    else s.complete id r.f.t0.val false
  else if isLoad r.op then
    match if r.wave then s.loadTurn id else .go with
    | .wait => s
    | .take x => if s.loadBefore id then s else s.complete id (BitVec.ofNat 64 x) false
    | .go =>
      match s.dieRead r.die (r.pa.getD 0) r.size with
      | .wait => s
      | .home => s.depart id
      | .take b => if s.loadBefore id then s else s.complete id (BitVec.ofNat 64 (leBytes b)) false
  else if r.wave && !s.storeTurn id then s
  else if r.ef && homeDie (r.pa.getD 0) != r.die then
    if (s.egress.look r.die).length ≥ 4096 then s else s.enterEgress id
  else
    let ef := if r.issued then r.behind else s.rivals id fun x => x.stage == .posted
    let left := ef.filter fun k => (s.reqs.look k).stage == .posted
    if left.isEmpty then s.depart id
    else { s with reqs := s.reqs.upd id fun r => { r with issued := true, behind := left } }

/-! ### Translation (R320) -/

/-- R237: the translation word of `pref`. -/
def prefWord (home : Nat) (w scr : Bool) : Word := BitVec.ofNat 64 (1 + w.toNat * 2 + home * 4 + scr.toNat * 16)
def State.prefAnswer (s : State) (id : Nat) (x : Word) : State :=
  let r := s.reqs.look id
  (s.retire id).reqResult r x false

/-- R231 check 4, and R307: the target is of the right kind. -/
def State.kindFault (s : State) (r : MReq) (pa : Nat) : Option (Nat × Nat) :=
  let m := s.mt (scratchSq pa)
  let plain := m.plainOk (scratchOff pa) r.size
  if r.op = 0x94 ∨ r.op = 0x95 ∨ r.op = 0x96 then if isScratch pa && m.mode == 3 then none else some (fkBOUNDS, 0)
  else if r.op = 0x99 ∨ r.op = 0x9A ∨ r.op = 0x9C then
    if isScratch pa && isWindow r.ea && plain then none else some (fkBOUNDS, 0)
  else if isScratch pa && !plain then some (fkBOUNDS, 0)
  else if r.op = 0x97 && r.ef && homeDie pa != r.die && alrReturns (r.data[7]?.getD 0) then
    some (fkALRFORM, ((List.range 8).find? fun e => alrOp (r.data[7]?.getD 0) e == 1 || alrOp (r.data[7]?.getD 0) e == 4).getD 0)
  else none

/-- The translation of a request is at hand. -/
def State.located (s : State) (id pa : Nat) : State :=
  let r := s.reqs.look id
  match s.kindFault r pa with
  | some k => s.faultReq id k.1 k.2
  | none => ({ s with reqs := s.reqs.upd id fun r => { r with stage := .ready, pa := some pa } }).tryLeave id

/-- A request served by a translation entry. -/
def State.served (s : State) (id : Nat) (e : Tlb) : State :=
  let r := s.reqs.look id
  if r.op = 0x98 then
    let pa := e.pa + r.ea % 2 ^ e.bits
    s.prefAnswer id (if isScratch pa && !s.scratchOk (pa - 2 ^ 48) then 0
      else prefWord (homeDie pa) (e.wr && (e.us || (s.region r.rid).level)) (isWindow r.ea))
  else
    match s.leafCheck r.rid e r.ea r.acc with
    | .error k => s.faultReq id k.1 k.2
    | .ok pa => s.located id pa

/-- A walk of the cluster is for the page of an address, as far as the tables say which page that is (R320). -/
def State.walkFor (s : State) (c rid va : Nat) (w : Walk) : Bool :=
  !w.orphan && w.cluster == c && w.rid == rid && (w.va / 2 ^ 16 == va / 2 ^ 16 ||
    match s.walkAll rid w.va with
    | .ok e => e.hits rid va
    | .error _ => false)

/-- A request whose walk has ended without a leaf: XLAT with the level and the cause, or a translation word with V = 0. -/
def State.xlatFails (s : State) (id level cause : Nat) : State :=
  if (s.reqs.look id).op = 0x98 then s.prefAnswer id 0 else s.faultReq id fkXLAT (xlatDetail level cause)

/-- The read of an entry of a table sets out from the walk's cluster (MOP 7 of R399), and its timer starts (R320). -/
def State.walkRead (s : State) (n : Nat) (w : Walk) : State :=
  let d := w.cluster / 48
  let pa := entryPa w.va w.level w.table
  let (s1, m) := s.post d (homeDie pa) { cls := .mreq, head := msgHead 7 8 n d (homeDie pa) 0 0 pa }
  { s1 with walks := s1.walks.put n { w with via := m, got := none, start := s.tick d, tout := (s.die d).reqto.toNat } }

/-- Begin the translation of a request: the window, the shared set, or a walk (R315, R320). -/
def State.lookUp (s : State) (id : Nat) : State :=
  let r := s.reqs.look id
  if isWindow r.ea then
    let x := fld r.ea 0 36
    match s.windowCheck r.rid x with
    | some k =>
      if r.op = 0x98 then
        s.prefAnswer id (if k.1 = fkXLAT then 0 else prefWord (fld x 34 2) false true)
      else s.faultReq id k.1 k.2
    | none =>
      if r.op = 0x98 then s.prefAnswer id (prefWord (fld x 34 2) true true) else s.located id (2 ^ 48 + x)
  else
    match s.tlbFind r.cluster r.rid r.ea with
    | some e => (s.tlbUse r.cluster e).served id e
    | none =>
      match s.xroot r.rid with
      | none => s.xlatFails id 3 0
      | some root =>
        if !s.hbmMapped root then s.xlatFails id 3 4 else
        let now := fun (st : State) =>
          if r.tout != 0 then st
          else { st with reqs := st.reqs.upd id fun r => { r with start := st.tick (r.cluster / 48), tout := (st.die (r.cluster / 48)).reqto.toNat } }
        if s.walks.any fun w => s.walkFor r.cluster r.rid r.ea w.2 then now s
        else if (s.walks.filter fun w => !w.2.orphan && w.2.cluster == r.cluster).length ≥ 16 then s
        else
          let n := s.serial + 1
          (now { s with serial := n }).walkRead n
            { cluster := r.cluster, rid := r.rid, va := r.ea, level := 3, table := root, owner := id }

/-- Every waiting request of a cluster looks again, in order. -/
def State.lookAgain (s : State) (cluster : Nat) : State :=
  (s.reqs.filter fun p => p.2.cluster == cluster && p.2.stage == .xlat).foldl (fun st p =>
    if (st.reqs.look p.1).stage == .xlat then st.lookUp p.1 else st) s

/-! ### The wave-order unit (R232, R233) -/

/-- R232: whether a held request is admitted next. -/
def WCtx.admits (c : WCtx) (r : MReq) : Bool :=
  (r.pred != 0xFF && some r.pred == c.own) || (r.pred == 0xFF && c.succ != 0xFF && c.succ == r.own)

/-- Stores and updates of a chain that stand in the buffer. [DEDUCED: log 36] -/
def State.buffered (s : State) (c : WCtx) : Nat :=
  (c.chain.filter fun id =>
    let r := s.reqs.look id
    (isStore r.op || isUpdate r.op) && (r.stage == .ready || r.stage == .xlat)).length

/-- Admit held requests to the chain as long as one qualifies; nothing follows a `wfence` before its token (R289). [DEDUCED: log 36] -/
def State.takeFrom (s : State) (k fuel : Nat) : State :=
  match fuel with
  | 0 => s
  | n + 1 =>
    let c := s.wctx.look k
    if c.chain.any fun id => (s.reqs.look id).op == 0x9B then s
    else
      match c.held.find? fun id => c.admits (s.reqs.look id) with
      | none => s
      | some id =>
        let r := s.reqs.look id
        if (isStore r.op || isUpdate r.op) && s.buffered c ≥ 16 then s
        else
          let c1 := { c with held := c.held.filter (· != id), chain := c.chain ++ [id], own := some r.own, succ := r.succ }
          let s1 := { s with wctx := s.wctx.put k c1
                             reqs := s.reqs.upd id fun r => { r with stage := if r.op = 0x9B then .ready else .xlat } }
          let s2 := if r.op = 0x9B then s1.tryLeave id else s1.lookUp id
          s2.takeFrom k n

/-- Everything that can move moves: every translated request is tried, and every context admits (STORE_BUFFER_DRAIN,
EGRESS_ENTER, WAVE_ADMIT). -/
def State.pumpOnce (s : State) : State :=
  let s1 := s.reqs.foldl (fun st p => st.tryLeave p.1) s
  s1.wctx.foldl (fun st p => st.takeFrom p.1 40) s1
/-- Passes until nothing more can follow: a context holds at most 32 requests. -/
def State.pump (s : State) : State := (List.range 3).foldl (fun st _ => st.pumpOnce) s

/-- WAVE_REQUEST_ARRIVAL of request `a`: it takes a place in its frame's context, or waits at the unit's input. -/
def execWaveRequestArrival (s : State) : Res :=
  let id := s.at_.a
  let r := s.reqs.look id
  let k := ctxKey r
  let c := s.wctx.look k
  if r.stage != .toUnit || s.crossing r.via then .next s
  else if s.reqs.any fun p => p.1 < id && p.2.stage == .toUnit && p.2.f.elem == r.f.elem && p.2.cluster == r.cluster then
    .next s
  else if c.closing then .next { s with reqs := s.reqs.del id }
  else if c.isOpen && c.held.length ≥ 32 then .next s
  else if !c.isOpen && (s.wctx.filter fun p => p.2.cluster == r.cluster).length ≥ 128 then .next s
  else
    let s1 := { s with
      reqs := s.reqs.upd id fun r => { r with stage := .held }
      wctx := s.wctx.put k { c with isOpen := true, cluster := r.cluster, held := c.held ++ [id] } }
    .next ((s1.takeFrom k 40).pump)

/-- Walk `n` ends without a leaf: every request that waits for it faults, and the others look again. -/
def State.walkFails (s : State) (n level cause : Nat) : State :=
  let w := s.walks.look n
  let s1 := { s with walks := s.walks.del n }
  let mine := s1.reqs.filter fun p => p.2.stage == .xlat && s1.walkFor p.2.cluster p.2.rid p.2.ea w
  ((mine.foldl (fun st p => st.xlatFails p.1 level cause) s1).lookAgain w.cluster).pump

/-- An entry of a table fails its check (R326): the node whose access began the walk raises ECCUE over the word, and the
others look again. -/
def State.walkBad (s : State) (n pa : Nat) : State :=
  let w := s.walks.look n
  let s1 := { s with walks := s.walks.del n }
  let s2 := if (s1.reqs.look w.owner).stage != .xlat then s1
    else if (s1.reqs.look w.owner).op = 0x98 then s1.prefAnswer w.owner 0
    else { s1 with reqs := s1.reqs.upd w.owner fun r => { r with val := BitVec.ofNat 64 pa } }.faultReq w.owner fkECCUE 1
  (s2.lookAgain w.cluster).pump

/-- The entry that walk `n` has read: the next level, whose table must lie in mapped HBM (R318), a leaf, or the end of the
walk. -/
def State.walkOn (s : State) (n e : Nat) : State :=
  let w := s.walks.look n
  match s.walkEntry w.rid w.va w.level w.table e with
  | .next t =>
    if s.hbmMapped t then s.walkRead n { w with level := w.level - 1, table := t } else s.walkFails n (w.level - 1) 4
  | .leaf x => (({ s with walks := s.walks.del n }.tlbUse w.cluster x).lookAgain w.cluster).pump
  | .bad c => s.walkFails n w.level c

/-- LATE counts a reply that came after its time-out (R301). -/
def State.countLate (s : State) (die : Nat) : State :=
  s.modDie die fun d => { d with reqlate := if d.reqlate = 0xFFFFFFFF#64 then d.reqlate else d.reqlate + 1 }

/-- WALK_READ_RETURN of walk `a`: its read of one entry of a table (R318, R320) comes to the entry's home, or its reply
comes back from there. The reply to a read whose time-out has expired is late (R301). -/
def execWalkReadReturn (s : State) : Res :=
  let n := s.at_.a
  let w := s.walks.look n
  let d := w.cluster / 48
  let pa := entryPa w.va w.level w.table
  if !(s.walks.any fun p => p.1 == n) || s.crossing w.via then .next s
  else
    let fails := (s.eccBad pa 8).isSome
    let back := fun (st : State) (e : Nat) (bad : Bool) =>
      if w.orphan then { st with walks := st.walks.del n }.countLate d
      else if bad then st.walkBad n (eccWord pa)
      else st.walkOn n e
    match w.got with
    | some e => .next (back s e w.bad)
    | none =>
      if homeDie pa == d then .next (back (s.countCe pa 8) (s.rd pa 8) fails)
      else if !s.running (homeDie pa) then .next s
      else
        let (s1, m) := (s.countCe pa 8).post (homeDie pa) d
          { cls := .mrsp, head := msgHead 7 8 n (homeDie pa) d fails.toNat 0 pa, data := s.bytes pa 8 }
        .next { s1 with walks := s1.walks.upd n fun w => { w with via := m, got := some (s.rd pa 8), bad := fails } }

/-! ### The instructions -/

/-- A fault at the node before a request is formed, with the effective address as companion (R231, R351). -/
def memFails (s : State) (v : RecView) (kind detail : Nat) (w2 : Word) : Res :=
  .next (s.raiseFiring s.cur kind detail w2 (BitVec.ofNat 64 (effAddr v s.cur.t0.val)) 0)

/-- The request of a firing; the die of its wave-order unit issues it (R232, R293). -/
def State.reqOf (s : State) (f : Firing) (v : RecView) (wave : Bool) (data : List Word) : MReq :=
  let op := v.op.toNat
  let rid := s.ridOf f.sq
  let cluster := if wave then s.unitOf rid f.t0.fx.toNat else clusterOf f.sq
  { f := f, op := op, rid := rid, lid := s.lidOf f.sq, die := cluster / 48, wave := wave, cluster := cluster
    pred := v.pred, own := v.own, succ := v.succ
    ea := if op = 0x98 then effAddr v f.t0.val / 64 * 64 else effAddr v f.t0.val
    size := granule op v.tyN, ef := v.ef, data := data, stage := if wave then .toUnit else .xlat }

/-- R266: a re-issued request takes its own place in its chain again. -/
def State.askAgain (s : State) (id : Nat) (r : MReq) : State :=
  let old := s.reqs.look id
  ({ s with reqs := s.reqs.put id { r with stage := if r.op = 0x9B then .ready else .xlat, cluster := old.cluster
                                           alone := old.alone } }.lookUp id).pump

/-- A request sets out with the next number: to its wave-order unit, or to its translation. -/
def State.setOut (s : State) (r : MReq) : State :=
  let n := s.serial + 1
  let s1 := { s with serial := n, reqs := s.reqs.put n r }
  if r.wave then s1.sendReq n (sqDie r.f.sq) r.die else (s1.lookUp n).pump

/-- Form a request and send it on its way. -/
def State.ask (s : State) (v : RecView) (wave : Bool) (data : List Word) : State :=
  let r := s.reqOf s.cur v wave data
  match if wave then s.reqs.find? fun p => p.2.again && p.2.f == s.cur else none with
  | some p => s.askAgain p.1 r
  | none => s.setOut r

/-- Checks 1 and 2 of R231, and the request. -/
def memNode (v : RecView) (wave : Bool) (data : List Word) (s : State) : Res :=
  let a := s.opA.toNat
  let g := granule v.op.toNat v.tyN
  if a ≥ 2 ^ 56 then memFails s v fkBOUNDS 0 s.cur.t1.val
  else if effAddr v s.opA % g != 0 then memFails s v fkALIGN g s.cur.t1.val
  else .next (s.ask v wave data)

def execLd (r : FM) (s : State) : Res := memNode (r.view 0x90) true [] s
def execSt (r : FM) (s : State) : Res := memNode (r.view 0x91) true [s.cur.t1.val] s
def execLdn (r : FM) (s : State) : Res := memNode (r.view 0x92) false [] s
def execStn (r : FM) (s : State) : Res := memNode (r.view 0x93) false [s.cur.t1.val] s
def execIld (r : FM) (s : State) : Res := memNode (r.view 0x94) true [] s
def execIst (r : FM) (s : State) : Res := memNode (r.view 0x95) true [s.cur.t1.val] s
def execIclr (r : FM) (s : State) : Res := memNode (r.view 0x96) true [] s
def execLdsw (r : FM) (s : State) : Res := memNode (r.view 0x99) true [] s

/-- R237: a nonzero [63:56] gives a translation word with V = 0. -/
def execPref (r : FM) (s : State) : Res :=
  let v := r.view 0x98
  if s.opA.toNat ≥ 2 ^ 56 then .next (s.sendAnswer (sqDie s.cur.sq) s.cur v 0 (outs1 v (s.cur.base 0 0)))
  else .next (s.ask v false [])

/-- R233: `wfence` takes its place in the chain. -/
def execWfence (r : FM) (s : State) : Res := .next (s.ask (r.view 0x9B) true [])

/-- R240: the slots are read and set busy, and the descriptor is checked, when the request is formed. -/
def execAlr (r : FM) (s : State) : Res :=
  let v := r.view 0x97
  let f := s.cur
  let slots := (List.range 8).map fun i => s.slotOf f (v.slot + i)
  let data := slots.map (·.val)
  let d := data[7]?.getD 0
  if slots.any (·.b) then .next (s.requeue f)
  else if s.opA.toNat ≥ 2 ^ 56 then memFails s v fkBOUNDS 0 0
  else if effAddr v s.opA % 128 != 0 then memFails s v fkALIGN 128 0
  else
    match alrBad d with
    | some e => memFails s v fkALRFORM e d
    | none => .next ((s.alrSlots f v.slot true []).ask v true data)

/-- R241: a target of 0, or one above 32 bits, raises BOUNDS. -/
def execSwset (r : FM) (s : State) : Res :=
  let v := r.view 0x9A
  let n := s.cur.t1.val.toNat
  if s.opA.toNat ≥ 2 ^ 56 then memFails s v fkBOUNDS 0 s.cur.t1.val
  else if effAddr v s.opA % 16 != 0 then memFails s v fkALIGN 16 s.cur.t1.val
  else if n = 0 ∨ n ≥ 2 ^ 32 then memFails s v fkBOUNDS 1 s.cur.t1.val
  else
    match s.destFault v.destA with
    | some k => memFails s v k.1 k.2 s.cur.t1.val
    | none => .next (s.ask v true [s.cur.t1.val])
def execSwadd (r : FM) (s : State) : Res :=
  let v := r.view 0x9C
  if s.opA.toNat ≥ 2 ^ 56 then memFails s v fkBOUNDS 0 s.cur.t1.val
  else if effAddr v s.opA % 16 != 0 then memFails s v fkALIGN 16 s.cur.t1.val
  else if s.cur.t1.val.toNat ≥ 2 ^ 32 then memFails s v fkBOUNDS 1 s.cur.t1.val
  else .next (s.ask v true [s.cur.t1.val])

end Sys2Proof.Machine
end

