-- ==== Sys2Proof/Machine/Engine.lean ====
section
/-!
DEFINITION. The memory accesses of engines and tile rows (R217, R220, R251, R272, R286, R302, R321, R386, R391): each is
made as requests of one aligned word or byte, all sent together once every one of them is translated.
-/
namespace Sys2Proof.Machine

/-- `n` bytes from `va` on as aligned 8-byte words and the parts of words at the ends (R286). [DEDUCED: log 56] -/
def memWords (fuel va n : Nat) : List (Nat × Nat) :=
  match fuel with
  | 0 => []
  | k + 1 =>
    if n = 0 then []
    else
      let m := min (8 - va % 8) n
      (va, m) :: memWords k (va + m) (n - m)
/-- The accesses of an element of `n` bytes: one where its address is a multiple of `n`, and single bytes otherwise. -/
def elementOf (va n : Nat) : List (Nat × Nat) :=
  if va % n = 0 then [(va, n)] else (List.range n).map fun i => (va + i, 1)

/-- The translation of an engine's access: by the stream's own entry where that holds the page, or as any other (R321). -/
def State.engLook (s : State) (id : Nat) (t : Option Tlb) : State :=
  let r := s.reqs.look id
  match t.filter fun e => !isWindow r.ea && e.hits r.rid r.ea with
  | some e => s.served id e
  | none => s.lookUp id

/-- The accesses at the places `l` of the bytes `va` to `va + n - 1` set out, a write with its data; `r` says who makes them. [DEDUCED: log 56] -/
def State.engAsk (s : State) (r : MReq) (t : Option Tlb) (va n : Nat) (l : List (Nat × Nat)) (data : Option (List Byte)) :
    State × List Nat :=
  let first := s.serial + 1
  let req := fun (p : Nat × Nat) => { r with
    op := if data.isSome then 0x93 else 0x92, ea := p.1 % 2 ^ 56, size := p.2, eng := true, tgt := first, stage := .xlat
    lo := va, len := n, data := (data.toList.map fun b => BitVec.ofNat 64 (leBytes ((b.drop (p.1 - va)).take p.2))) }
  let s1 := l.foldl (fun (st : State) p =>
    { st with serial := st.serial + 1, reqs := st.reqs.put (st.serial + 1) (req p) }) s
  let ids := (List.range l.length).map fun i => first + i
  ((ids.foldl (fun (st : State) id => st.engLook id t) s1).pump, ids)

/-- What the accesses of an engine have come to: their bytes, a wait, or the fault of the first that has one, with the
address that the record names and the address of the access. -/
inductive EngRes where
  | ok (b : List Byte)
  | wait
  | bad (kind detail comp ea : Nat)
  deriving DecidableEq, Repr

/-- The access is under way: in its translation, to its home or back. -/
def MReq.moving (r : MReq) : Bool := r.stage == .xlat || r.stage == .sent || r.stage == .reply

/-- [DEDUCED: log 56] -/
def State.engPoll (s : State) (ids : List Nat) : EngRes :=
  let l := ids.map s.reqs.look
  let fault := l.findSome? fun r => r.err.map fun k => (k, if k.1 = fkECCUE then r.val.toNat else r.ea, r.ea)
  if l.any MReq.moving then .wait
  else
    match fault with
    | some (k, a, ea) => .bad k.1 k.2 a ea
    | none => if l.all fun r => r.stage == .done then .ok (l.flatMap fun r => toBytes r.size r.val.toNat) else .wait

/-- The accesses have been taken up. -/
def State.engDrop (s : State) (ids : List Nat) : State := { s with reqs := s.reqs.filter fun p => !ids.contains p.1 }

/-- The stream's entry after an access at `va`: its own, or the one that the refill has put into the shared set (R321). -/
def State.engTlb (s : State) (c rid va : Nat) (t : Option Tlb) : Option Tlb :=
  if isWindow va then t
  else
    match t.filter fun e => e.hits rid va with
    | some e => some e
    | none => s.tlbFind c rid va

end Sys2Proof.Machine
end

