-- ==== Sys2Proof/Machine/Macro.lean ====
section
/-!
DEFINITION. Tile macro-instructions: what each checks as it starts and what each does at one element boundary (R204 to
R223, R74 to R77, R245). The tile pipe that runs them is in Sys2Proof/Machine/TilePipe.lean.
-/
namespace Sys2Proof

/-- SHAPE, ACC and DROP of a record (R95, R91). -/
def RecView.shape (v : RecView) : Nat := v.tp % 32
def RecView.accN (v : RecView) : Nat := if v.op == 0xAB then v.lit % 8 else v.tp / 32
def RecView.ord (v : RecView) : Bool := tbit v.opfN 3
def RecView.ovw (v : RecView) : Bool := tbit v.opfN 2
def RecView.isTR (v : RecView) : Bool :=
  match v.op.toNat with
  | 0x74 | 0x75 | 0x77 | 0x78 | 0x79 | 0x7B | 0x7E => true
  | _ => false
def RecView.dropFlag (v : RecView) : Bool := if v.isTR then tbit v.tp 7 else v.op != 0x7F && tbit v.opfN 1

end Sys2Proof

namespace Sys2Proof.Machine

/-! ### Ports (R204) -/

/-- The value and the kind of a firing's operand by port. -/
def Firing.tok (f : Firing) (p : Nat) : Token := match p with | 0 => f.t0 | 1 => f.t1 | _ => f.t2
def Firing.val (f : Firing) (p : Nat) : Word := (f.tok p).val

/-- Source ports in port order, and the destination port. -/
def macroPorts (v : RecView) : List Nat × Option Nat :=
  match v.op.toNat with
  | 0x70 => ([0, 1], none)
  | 0x71 => if v.shape = 1 then ([], some 0) else ([0], none)
  | 0x72 | 0x7C => ([], some 0)
  | 0x73 | 0x79 | 0xAB => ([0], none)
  | 0x74 | 0x75 | 0x76 | 0x7E => ([0, 1], some 2)
  | 0x77 | 0x7D => ([0], some 2)
  | 0x78 | 0x7A | 0x7B | 0x82 => ([0], some 1)
  | 0x80 => ([1], some 2)
  | 0x81 => ([0, 1], none)
  | _ => ([], none)
/-- Handle ports in port order. -/
def handlePorts (v : RecView) : List Nat := (macroPorts v).1 ++ (macroPorts v).2.toList
/-- Handle ports, ascending. -/
def handlePortsUp (v : RecView) : List Nat := [0, 1, 2].filter fun p => (handlePorts v).contains p
/-- The handles that DROP drops are the sources of each instruction that admits it. -/
def dropPorts (v : RecView) : List Nat := if v.dropFlag then (macroPorts v).1 else []
/-- The window on a port. -/
def Firing.win (f : Firing) (p : Nat) : Win := winOf (f.val p)
/-- The port of an address operand (R205), of a control word. -/
def addrPort (op : Nat) : Option Nat :=
  match op with
  | 0x72 | 0x73 => some 1
  | 0x80 => some 0
  | 0x81 => some 2
  | _ => none
def controlPort (op : Nat) : Option Nat :=
  match op with
  | 0x70 => some 2
  | 0x71 => some 1
  | _ => none

/-- A fault inside the tile pipe: kind, detail and companion. -/
structure MFault where
  kind : Nat := 0
  detail : Nat := 0
  comp : Option Word := none
  deriving DecidableEq, Repr, Inhabited

def bad (kind detail : Nat) : Option MFault := some { kind := kind, detail := detail }
/-- A tile DT that fails (R356). -/
def badDt (port : Nat) : Option MFault := bad fkTYPE (port + 128)

/-! ### The checks of a start (R207, and each instruction's text) -/

/-- All the handles, in port order. -/
def State.handlesFault (s : State) (f : Firing) (ports : List Nat) : Option MFault :=
  (ports.findSome? fun p => s.handleFault (f.val p) p).map fun k => { kind := k.1, detail := k.2 }
/-- Check 4 of R47 on all the handles. -/
def State.handlesStale (s : State) (f : Firing) (ports : List Nat) : Option MFault :=
  (ports.findSome? fun p => s.staleFault (f.val p) p).map fun k => { kind := k.1, detail := k.2 }

def sameSize (a b : Win) : Bool := a.rows == b.rows && a.cols == b.cols

/-- Types of a row-wise macro: sources and destination all float, or all integer; D not MX (R221). -/
def ewTypes (f : Firing) (srcs : List Nat) (d : Nat) : Option MFault :=
  let dt := (f.win d).dt
  if !((dtFloat dt && !dtMx dt) || dtInt dt) then badDt d
  else
    match srcs.find? fun p =>
      let x := (f.win p).dt
      !(if dtFloat dt then dtFloat x else dtInt x) with
    | some p => badDt p
    | none => none

/-- R182, R221: the rounding field that a `tcvt` from DT `a` to DT `b` admits. An MX tile to the same MX type is rounded like
any other, under the scale that R71 chooses. -/
def tcvtOpfOk (a b opf : Nat) : Bool :=
  if dtInt b then opf == 0 || (dtFloat a && opf ≤ 3)
  else if a == b && !dtMx b then opf == 0
  else !tbit opf 3 || b ≤ 1

/-- The instruction's own types and window sizes: none when it may start. -/
def shapeFault (f : Firing) (v : RecView) : Option MFault :=
  let w := f.win
  let op := v.op.toNat
  let size := fun (ok : Bool) (p : Nat) => if ok then none else bad fkBOUNDS p
  match op with
  | 0x70 =>
    let a := w 0
    let b := w 1
    let m := 8 * (v.shape / 8 + 1)
    let n := 8 * (v.shape / 2 % 4 + 1)
    if !((dtMx a.dt && dtMx b.dt) || ((a.dt == 5 || a.dt == 6) && a.dt == b.dt) ||
        ((a.dt == 8 || a.dt == 9) && (b.dt == 8 || b.dt == 9))) then
      badDt (if dtMx a.dt || a.dt == 5 || a.dt == 6 || a.dt == 8 || a.dt == 9 then 1 else 0)
    else if a.rows != m || a.cols % 32 != 0 then bad fkBOUNDS 0
    else size (b.rows == n && a.cols == b.cols) 1
  | 0x71 | 0xAB =>
    let t := w 0
    if dtMx t.dt || t.dt ≥ 12 then badDt 0 else size (t.rows ≤ 32 && t.cols ≤ 32) 0
  | 0x72 | 0x73 => size ((w 0).dt != 13 || (w 0).cols % 8 == 0) 0
  | 0x74 | 0x75 =>
    match ewTypes f [0, 1] 2 with
    | some k => some k
    | none => if !sameSize (w 0) (w 1) then bad fkBOUNDS 1 else size (sameSize (w 0) (w 2)) 2
  | 0x76 =>
    if dtMx (w 0).dt || (w 0).dt ≥ 12 then badDt 0
    else if (w 1).dt != (w 0).dt then badDt 1
    else if (w 2).dt != (w 0).dt then badDt 2
    else if !sameSize (w 0) (w 1) then bad fkBOUNDS 1
    else size (sameSize (w 0) (w 2)) 2
  | 0x77 =>
    match ewTypes f [0] 2 with
    | some k => some k
    | none =>
      if dtFloat (w 0).dt && (f.val 1).toNat ≥ 2 ^ 32 then bad fkBOUNDS 1 else size (sameSize (w 0) (w 2)) 2
  | 0x78 =>
    if dtInt (w 1).dt then badDt 1
    else
      match ewTypes f [0] 1 with
      | some k => some k
      | none => size (sameSize (w 0) (w 1)) 1
  | 0x79 => if (w 0).dt ≥ 12 then badDt 0 else none
  | 0x7A =>
    let a := w 0
    let d := w 1
    if dtMx a.dt || a.dt == 13 then badDt 0
    else if d.dt != a.dt then badDt 1
    else size (d.rows == a.cols && d.cols == a.rows) 1
  | 0x7B =>
    if (w 0).dt ≥ 12 then badDt 0
    else if (w 1).dt ≥ 12 then badDt 1
    else if !tcvtOpfOk (w 0).dt (w 1).dt v.opfN then bad fkILLOP 3
    else size (sameSize (w 0) (w 1)) 1
  | 0x7D =>
    if !((w 0).dt == 8 || (w 0).dt == 9 || (w 0).dt == 12) then badDt 0
    else if (w 2).dt != 13 then badDt 2
    else if (f.val 1).toNat ≥ 256 then bad fkBOUNDS 1
    else size (sameSize (w 0) (w 2)) 2
  | 0x7E =>
    match ewTypes f [0, 1] 2 with
    | some k => some k
    | none =>
      let b := w 1
      let okB := if v.shape = 0 then b.rows == 1 && b.cols == (w 0).cols else b.rows == (w 0).rows && b.cols == 1
      if !okB then bad fkBOUNDS 1 else size (sameSize (w 0) (w 2)) 2
  | 0x80 | 0x81 =>
    let t := if op = 0x80 then w 2 else w 0
    let p := if op = 0x80 then 2 else 0
    if dtMx t.dt || t.dt == 13 then badDt p
    else if (w 1).dt != 10 then badDt 1
    else size ((w 1).count == t.rows) 1
  | 0x82 => if (w 0).dt != (w 1).dt then badDt 1 else size (sameSize (w 0) (w 1)) 1
  | _ => none

/-- The macros that allow a destination window equal to a source window (R207). -/
def inPlace (op : Nat) : Bool :=
  match op with
  | 0x74 | 0x75 | 0x76 | 0x77 | 0x7E | 0x78 => true
  | _ => false

/-- Overlap of the destination with a source in one buffer. -/
def overlapFault (f : Firing) (v : RecView) : Option MFault :=
  match (macroPorts v).2 with
  | none => none
  | some d =>
    if (macroPorts v).1.any fun p =>
      (f.win p).overlaps (f.win d) && !(inPlace v.op.toNat && (f.win p).sameArea (f.win d)) then bad fkBOUNDS d
    else none

/-- Everything that a macro checks before it waits on F (R205, R207). [DESIGN CHOICE: log 98] -/
def State.macroFault (s : State) (f : Firing) (v : RecView) : Option MFault :=
  match s.handlesFault f (handlePortsUp v) with
  | some k => some k
  | none =>
    let addr : Option MFault := match addrPort v.op.toNat with
      | none => none
      | some p =>
        let a := f.val p
        if a.toNat ≥ 2 ^ 56 then bad fkBOUNDS p else none
    match addr with
    | some k => some k
    | none =>
      match shapeFault f v with
      | some k => some k
      | none => overlapFault f v

/-- An address that is no multiple of 8 (R217, R220). -/
def alignFault (f : Firing) (v : RecView) : Option MFault :=
  match addrPort v.op.toNat with
  | none => none
  | some p => if (f.val p).toNat % 8 != 0 then some { kind := fkALIGN, detail := 8, comp := some (f.val p) } else none

/-- R207: every source full and every destination empty; a destination in a source's buffer has no condition. -/
def State.macroReady (s : State) (f : Firing) (v : RecView) : Bool :=
  let full := fun (p : Nat) => dF (s.desc (f.win p).q (f.win p).buf)
  (macroPorts v).1.all full &&
  match (macroPorts v).2 with
  | none => true
  | some d => !full d || (macroPorts v).1.any fun p => (f.win p).sameBuf (f.win d)

/-- Blocks of a `tmma` in one group (R214). -/
def mmaBlocks (f : Firing) : Nat := (f.win 0).rows / 8 * ((f.win 1).rows / 8)
/-- Element boundaries (R208). -/
def macroTotal (f : Firing) (v : RecView) : Nat :=
  let w := f.win
  match v.op.toNat with
  | 0x70 => (w 0).cols / 32 * mmaBlocks f
  | 0x79 | 0x7F => 1
  | 0x72 | 0x73 => (w 0).rows + (if dtMx (w 0).dt then 1 else 0)
  | 0x71 | 0xAB => (w 0).rows
  | 0x81 => (w 0).rows
  | _ =>
    match (macroPorts v).2 with
    | some d => (w d).rows
    | none => 1

/-! ### PG (R41, R42, R209) -/

def mkPga (op acc : Nat) (v : Bool) (st eidx : Nat) : Word :=
  BitVec.ofNat 64 (op * 2 ^ 56 + acc % 8 * 2 ^ 53 + v.toNat * 2 ^ 52 + st % 16 * 2 ^ 48 + eidx % 2 ^ 32)
def pgaV (w : Word) : Bool := w.getLsbD 52
def pgaSt (w : Word) : Nat := fld w.toNat 48 4
def pgaEidx (w : Word) : Nat := fld w.toNat 0 32
/-- The generation of the handle on a port, 0 for a port that holds none. -/
def Firing.genOf (f : Firing) (p : Nat) : Nat := if (f.tok p).kind == 1#2 then (f.win p).gen else 0
def mkPgb (kb : Nat) (f : Firing) : Word :=
  BitVec.ofNat 64 (kb % 2 ^ 16 * 2 ^ 48 + f.t0.fx.toNat * 2 ^ 36 + f.node % 1024 * 2 ^ 26 + f.genOf 0 * 2 ^ 18 +
    f.genOf 1 * 2 ^ 10 + f.genOf 2 * 2 ^ 2)
/-- The accumulator that PGA names. -/
def pgAcc (v : RecView) : Nat := if v.op == 0x70 || v.op == 0x71 || v.op == 0x7F || v.op == 0xAB then v.accN else 0
/-- OP of PGA: a `cmbtacc` arrival runs as a `tacc` (R245). -/
def pgOp (v : RecView) : Nat := if v.op == 0xAB then 0x71 else v.op.toNat
def kbOf (f : Firing) (v : RecView) (eidx : Nat) : Nat := if v.op == 0x70 then eidx / mmaBlocks f else 0
/-- Write PG of an element for a firing. -/
def State.setPg (s : State) (f : Firing) (v : RecView) (val : Bool) (st eidx : Nat) : State :=
  s.modElem f.elem fun x => { x with pga := mkPga (pgOp v) (pgAcc v) val st eidx, pgb := mkPgb (kbOf f v eidx) f }

/-! ### Accumulators (R39) -/

def State.accAt (s : State) (e acc i : Nat) : Nat := ((s.elem e).acc.look (acc * 1024 + i)).toNat
def State.putAcc (s : State) (e acc i x : Nat) : State :=
  s.modElem e fun y => { y with acc := y.acc.put (acc * 1024 + i) (BitVec.ofNat 32 x)
                                accUsed := if y.accUsed.contains acc then y.accUsed else y.accUsed ++ [acc] }

/-- A word among `n` from `i` on fails its check. -/
def State.accBad (s : State) (e acc i n : Nat) : Bool :=
  s.ecc.any fun p => p.2 == 2 && accEcc e acc i ≤ p.1 && p.1 < accEcc e acc 0 + i + n
/-- Words of an accumulator are replaced whole. -/
def State.accMend (s : State) (e acc i n : Nat) : State :=
  { s with ecc := s.ecc.filter fun p => !(accEcc e acc i ≤ p.1 && p.1 < accEcc e acc 0 + i + n) }
/-! ### tmma (R74, R76, R214) -/

/-- The value that a group adds to an accumulator word, with the flags of invalid products. -/
def State.groupSum (s : State) (a b : Win) (i j g : Nat) : FVal × Flags :=
  let raw := fun (w : Win) (r c : Nat) => (dtFmt w.dt).value (s.elemAt w r c)
  let sc := fun (w : Win) (r : Nat) => if dtMx w.dt then s.scaleAt w r (32 * g) else 127
  let xa := sc a i
  let xb := sc b j
  if xa = 255 ∨ xb = 255 then (.nan false, 0)
  else
    let prods := (List.range 32).map fun t => mulVals (raw a i (32 * g + t)) (raw b j (32 * g + t))
    let fl := orAll (prods.map (·.2))
    match sumVals 0 (prods.map (·.1)) with
    | .error (x, k) => (x, fl ||| k)
    | .ok (neg, m) => (.fin neg m.mag (m.exp + (xa : Int) + xb - 254), fl)

/-- One output word of one block: the new accumulator word (R74, R76). -/
def State.mmaWord (s : State) (a b : Win) (i j g c : Nat) : Nat × Flags :=
  if dtFloat a.dt then
    let (x, fl) := s.groupSum a b i j g
    let p := fp32.packSum rne (sumVals 0 [fp32.value c, x])
    (p.1, fl ||| p.2)
  else
    let sum := (List.range 32).foldl (fun t k => t + s.intAt a i (32 * g + k) * s.intAt b j (32 * g + k)) (0 : Int)
    ((((c : Int) + sum) % (2 ^ 32 : Int)).toNat, 0)

/-- The words of one block as (index, value) pairs, with flags. -/
def State.mmaBlock (s : State) (f : Firing) (v : RecView) (e : Nat) : List (Nat × Nat) × Flags :=
  let a := f.win 0
  let b := f.win 1
  let nb := mmaBlocks f
  let g := e / nb
  let br := e % nb / (b.rows / 8)
  let bc := e % nb % (b.rows / 8)
  let l := (List.range 64).map fun n =>
    let i := 8 * br + n / 8
    let j := 8 * bc + n % 8
    let c := if v.ovw && g == 0 then 0 else s.accAt f.elem v.accN (i * 32 + j)
    (i * 32 + j, s.mmaWord a b i j g c)
  (l.map fun p => (p.1, p.2.1), orAll (l.map fun p => p.2.2))

/-! ### tacc (R215) -/

/-- A tile element as an exact FP32 encoding, or as a 32-bit integer. -/
def State.tileWord (s : State) (t : Win) (r c : Nat) : Nat × Flags :=
  if dtFloat t.dt then fp32.pack rne (s.fltAt t r c) else ((s.intAt t r c % (2 ^ 32 : Int)).toNat, 0)

/-- Row `r` added into, or written over, the accumulator. -/
def State.taccIn (s : State) (f : Firing) (v : RecView) (ovw : Bool) (r : Nat) : List (Nat × Nat) × Flags :=
  let t := f.win 0
  let l := (List.range t.cols).map fun c =>
    let (x, fl) := s.tileWord t r c
    let w := s.accAt f.elem v.accN (r * 32 + c)
    let p := if ovw then (x, 0) else if dtFloat t.dt then fp32.add rne w x else ((w + x) % 2 ^ 32, 0)
    (r * 32 + c, p.1, fl ||| p.2)
  (l.map fun p => (p.1, p.2.1), orAll (l.map fun p => p.2.2))

/-- Row `r` drained into T: the element codes. -/
def State.taccOut (s : State) (f : Firing) (v : RecView) (r : Nat) : List Nat × Flags :=
  let t := f.win 0
  let l := (List.range t.cols).map fun c =>
    let w := s.accAt f.elem v.accN (r * 32 + c)
    if dtFloat t.dt then (dtFmt t.dt).pack rne (fp32.value w)
    else fitInt true (dtSigned t.dt) (dtW t.dt) (laneInt true 32 w)
  (l.map (·.1), orAll (l.map (·.2)))

/-! ### Elementwise (R221, R222) -/

/-- The rounding of output element `i` of D (R67, R204). -/
def State.tileRnd (s : State) (f : Firing) (v : RecView) (i : Nat) : Rnd :=
  rndOf v.opfN (s.srSeed f) f.t0.fx.toNat i

/-- A value converted to an integer of `w` bits (R70). -/
def toIntVal (r : Rnd) (sgn : Bool) (w : Nat) (x : FVal) : Nat × Flags :=
  let lo : Int := if sgn then -(2 ^ (w - 1) : Int) else 0
  let hi : Int := if sgn then (2 ^ (w - 1) : Int) - 1 else (2 ^ w : Int) - 1
  let enc := fun (y : Int) => (y % (2 ^ w : Int)).toNat
  match x with
  | .nan _ => (0, fNV)
  | .inf n => (enc (if n then lo else hi), fNV ||| fSAT)
  | .fin n m e =>
    let (k, inexact) := intRound r n m e
    let y : Int := if n then -(k : Int) else k
    if y < lo then (enc lo, fNV ||| fSAT)
    else if y > hi then (enc hi, fNV ||| fSAT)
    else (enc y, if inexact then fNX else 0)

/-- An integer as a value. -/
def FVal.ofInt (x : Int) : FVal := .fin (decide (x < 0)) x.natAbs 0
/-- Any element but b8 and b1 as a value. -/
def State.valAt (s : State) (w : Win) (r c : Nat) : FVal :=
  if dtFloat w.dt then s.fltAt w r c else FVal.ofInt (s.intAt w r c)

/-- R71: the scale byte and the codes of one MX block. -/
def mxBlock (dt : Nat) (rnd : Nat → Rnd) (l : List FVal) : Nat × List Nat × Flags :=
  let f := dtFmt dt
  let mags := l.map fun x => match x with | .fin _ m e => ({ mag := m, exp := e } : Mag) | _ => {}
  if l.any fun x => match x with | .fin _ _ _ => false | _ => true then (255, l.map fun _ => 0, fNV)
  else if mags.all fun x => x.mag == 0 then (0, l.map fun x => f.signed x.sign 0, 0)
  else
    let top := (mags.filter fun x => x.mag != 0).foldl (fun t x => max t x.top) (-100000 : Int)
    let e := max (-127) (min 127 (top - dtEmax dt))
    let out := (l.zip (List.range l.length)).map fun p => f.pack (rnd p.2) (p.1.scale (-e))
    ((e + 127).toNat, out.map (·.1), orAll (out.map (·.2)))

/-- What a row-wise macro writes: the codes of row `r` of D, the scale bytes of its blocks, and the flags. -/
structure RowOut where
  codes : List Nat := []
  scales : List Nat := []
  flags : Flags := 0
  deriving DecidableEq, Repr, Inhabited

def rowOf (l : List (Nat × Flags)) : RowOut := { codes := l.map (·.1), flags := orAll (l.map (·.2)) }

/-- Blocks of 32 columns from block `b` on. -/
def cvtBlocks (n b cols dt : Nat) (rnd : Nat → Rnd) (l : List FVal) : RowOut :=
  match n with
  | 0 => {}
  | n + 1 =>
    let (sc, cs, fl) := mxBlock dt (fun i => rnd (32 * b + i)) (l.take 32)
    let rest := cvtBlocks n (b + 1) cols dt rnd (l.drop 32)
    { codes := cs ++ rest.codes, scales := sc :: rest.scales, flags := fl ||| rest.flags }

/-- The function of `texp` by SHAPE, on an FP32 encoding (R195, R221). -/
def texpFn (shape x : Nat) : Nat × Flags :=
  match shape with
  | 0 => fp32.exp x
  | 1 => fp32.exp2 x
  | 2 => fp32.tanh x
  | _ => fp32.sigm x

/-- The raw row and scales of a window. -/
def State.copyRow (s : State) (a : Win) (r : Nat) : RowOut :=
  { codes := s.rowAt a r
    scales := if dtMx a.dt then (List.range (a.cols / 32)).map fun b => s.scaleAt a r (32 * b) else [] }

/-- A sum or a product of two elements in D's type. -/
def tileArith (d : Win) (mul : Bool) (rnd : Rnd) (x y : FVal) (i j : Int) : Nat × Flags :=
  if dtFloat d.dt then
    let f := dtFmt d.dt
    if mul then
      let (p, fl) := mulVals x y
      let o := f.pack rnd p
      (o.1, fl ||| o.2)
    else f.packSum rnd (sumVals rnd.mode [x, y])
  else fitInt true (dtSigned d.dt) (dtW d.dt) (if mul then i * j else i + j)

/-- Row `r` of D. -/
def State.rowOut (s : State) (f : Firing) (v : RecView) (r : Nat) : RowOut :=
  let w := f.win
  let d := w ((macroPorts v).2.getD 0)
  let a := w 0
  let b := w 1
  let cols := List.range d.cols
  let rnd := fun c => s.tileRnd f v (r * d.cols + c)
  let two := fun (mul : Bool) (br bc : Nat → Nat) => rowOf (cols.map fun c =>
    tileArith d mul (rnd c) (s.fltAt a r c) (s.fltAt b (br c) (bc c)) (s.intAt a r c) (s.intAt b (br c) (bc c)))
  match v.op.toNat with
  | 0x74 => two false (fun _ => r) id
  | 0x75 => two true (fun _ => r) id
  | 0x7E => if v.shape = 0 then two false (fun _ => 0) id else two false (fun _ => r) (fun _ => 0)
  | 0x76 =>
    rowOf (cols.map fun c =>
      if dtFloat d.dt then (dtFmt d.dt).minmax true (s.elemAt a r c) (s.elemAt b r c)
      else ((max (s.intAt a r c) (s.intAt b r c) % (2 ^ dtW d.dt : Int)).toNat, 0))
  | 0x77 =>
    let x := fp32.value ((f.val 1).toNat % 2 ^ 32)
    rowOf (cols.map fun c =>
      tileArith d true (rnd c) (s.fltAt a r c) x (s.intAt a r c) ((f.val 1).toInt))
  | 0x78 =>
    rowOf (cols.map fun c =>
      let (x, f1) := fp32.pack rne (s.fltAt a r c)
      let (y, f2) := texpFn v.shape x
      let (z, f3) := (dtFmt d.dt).pack (rnd c) (fp32.value y)
      (z, f1 ||| f2 ||| f3))
  | 0x7A => { codes := cols.map fun c => s.elemAt a c r }
  | 0x7B =>
    if a.dt = d.dt && !dtMx d.dt then s.copyRow a r
    else if dtMx d.dt then cvtBlocks (d.cols / 32) 0 d.cols d.dt rnd (cols.map fun c => s.valAt a r c)
    else
      rowOf (cols.map fun c =>
        if dtFloat d.dt then (dtFmt d.dt).pack (rnd c) (s.valAt a r c)
        else if dtFloat a.dt then toIntVal (rnd c) (dtSigned d.dt) (dtW d.dt) (s.fltAt a r c)
        else fitInt true (dtSigned d.dt) (dtW d.dt) (s.intAt a r c))
  | 0x7C =>
    { codes := cols.map fun _ => (f.val 1).toNat % 2 ^ dtW d.dt
      scales := if dtMx d.dt then (List.range (d.cols / 32)).map fun _ => fld (f.val 1).toNat 8 8 else [] }
  | 0x7D =>
    { codes := cols.map fun c =>
        if condHolds v.shape (ordInt (s.intAt a r c) (laneInt (dtSigned a.dt) 8 (f.val 1).toNat)) then 1 else 0 }
  | _ => s.copyRow a r

/-- Write row `r` of D. -/
def State.putRowOut (s : State) (d : Win) (r : Nat) (o : RowOut) : State :=
  (List.range o.scales.length).foldl (fun st b => st.putScale d r (32 * b) (o.scales[b]?.getD 0)) (s.putRow d r 0 o.codes)

/-! ### tred (R223) -/

/-- The largest or the smallest by R176 of values that are not NaN. -/
def bestVal (big : Bool) (l : List FVal) : Option FVal :=
  l.foldl (fun best x =>
    match best with
    | none => some x
    | some y =>
      let less := cmpVals x y == 0 || (cmpVals x y == 1 && x.sign && !y.sign)
      let more := cmpVals x y == 2 || (cmpVals x y == 1 && !x.sign && y.sign)
      if (big && more) || (!big && less) then some x else some y) none
def FVal.absV (x : FVal) : FVal :=
  match x with
  | .nan s => .nan s
  | .inf _ => .inf false
  | .fin _ m e => .fin false m e

/-- The scalar of a whole window. -/
def State.tredValue (s : State) (f : Firing) (v : RecView) : Word × Flags :=
  let a := f.win 0
  let cells := (List.range a.count).map fun i => (i / a.cols, i % a.cols)
  if dtFloat a.dt then
    let l := cells.map fun p => s.fltAt a p.1 p.2
    let rnd := s.tileRnd f v 0
    let p :=
      if v.shape = 0 then fp32.packSum rnd (sumVals rnd.mode l)
      else
        let nums := l.filter fun x => !x.isNan
        let sig := if l.any FVal.isSig then fNV else 0
        match bestVal (v.shape != 2) (if v.shape = 3 then nums.map FVal.absV else nums) with
        | none => (fp32.nan, sig)
        | some x => let o := fp32.pack rnd x; (o.1, o.2 ||| sig)
    (BitVec.ofNat 64 p.1, p.2)
  else
    let l := cells.map fun p => s.intAt a p.1 p.2
    let r : Int := match v.shape with
      | 0 => l.foldl (· + ·) 0
      | 1 => l.foldl max (l.headD 0)
      | 2 => l.foldl min (l.headD 0)
      | _ => l.foldl (fun m x => max m x.natAbs) 0
    (BitVec.ofInt 64 r, 0)

/-! ### Memory rows (R217, R220) -/

/-- The bytes of a row of a window in memory order: elements packed little-endian. -/
def packRow (w : Nat) (l : List Nat) : Nat := l.foldr (fun x acc => x % 2 ^ w + acc * 2 ^ w) 0
/-- Row length in bytes. -/
def Win.rowBytes (w : Win) : Nat := w.cols * dtW w.dt / 8



/-- The elements of a row from packed bytes. -/
def unpackRow (w cols : Nat) (b : List Byte) : List Nat := (List.range cols).map fun c => fld (leBytes b) (w * c) w

/-- The index of row `r` (R220). -/
def State.rowIndex (s : State) (i : Win) (r : Nat) : Int := s.intAt i (r / i.cols) (r % i.cols)
/-- base + x * L, modulo 2^56. -/
def rowVa (base : Nat) (x : Int) (len : Nat) : Nat := (((base : Int) + x * len) % (2 ^ 56 : Int)).toNat

/-- The memory access of boundary `e`: a row of `tld` or `tst`, or the scale bytes behind the last one (R217), and the row
that an index names (R220); none for a negative index, and for every other macro. -/
def State.rowNeed (s : State) (f : Firing) (v : RecView) (e : Nat) : Option RowNeed :=
  let w := f.win 0
  let base := (f.val 1).toNat
  let nb := w.cols / 32
  match v.op.toNat with
  | 0x72 =>
    if e < w.rows then some (.load (base + e * w.rowBytes) w.rowBytes)
    else some (.load (base + w.rows * w.rowBytes) (w.rows * nb))
  | 0x73 =>
    if e < w.rows then some (.store (base + e * w.rowBytes) (toBytes w.rowBytes (packRow (dtW w.dt) (s.rowAt w e))))
    else
      some (.store (base + w.rows * w.rowBytes)
        ((List.range (w.rows * nb)).map fun i => BitVec.ofNat 8 (s.scaleAt w (i / nb) (32 * (i % nb)))))
  | 0x80 =>
    let x := s.rowIndex (f.win 1) e
    if x < 0 then none else some (.load (rowVa (f.val 0).toNat x (f.win 2).rowBytes) (f.win 2).rowBytes)
  | 0x81 =>
    let x := s.rowIndex (f.win 1) e
    if x < 0 then none
    else some (.store (rowVa (f.val 2).toNat x w.rowBytes) (toBytes w.rowBytes (packRow (dtW w.dt) (s.rowAt w e))))
  | _ => none

/-- The bytes that boundary `e` has read go into its tile. -/
def State.rowTake (s : State) (f : Firing) (v : RecView) (e : Nat) (b : List Byte) : State :=
  match v.op.toNat with
  | 0x72 =>
    let d := f.win 0
    let nb := d.cols / 32
    if e < d.rows then (s.putRow d e 0 (unpackRow (dtW d.dt) d.cols b)).writeMend d e 0 d.cols
    else (List.range (d.rows * nb)).foldl (fun st i => st.putScale d (i / nb) (32 * (i % nb)) (b[i]?.getD 0).toNat) s
  | 0x80 =>
    let d := f.win 2
    (s.putRow d e 0 (unpackRow (dtW d.dt) d.cols b)).writeMend d e 0 d.cols
  | _ => s

/-! ### One boundary -/

/-- What boundary `e` reads of its source windows: window, row, column and count. -/
def boundaryReads (f : Firing) (v : RecView) (e : Nat) : List (Win × Nat × Nat × Nat) :=
  let w := f.win
  let row := fun (x : Win) (r : Nat) => (x, r, 0, x.cols)
  match v.op.toNat with
  | 0x70 =>
    let nb := mmaBlocks f
    let g := e / nb
    let br := e % nb / ((w 1).rows / 8)
    let bc := e % nb % ((w 1).rows / 8)
    ((List.range 8).map fun i => (w 0, 8 * br + i, 32 * g, 32)) ++ (List.range 8).map fun i => (w 1, 8 * bc + i, 32 * g, 32)
  | 0x71 => if v.shape = 1 then [] else [row (w 0) e]
  | 0x79 => (List.range (w 0).rows).map fun r => row (w 0) r
  | 0x7A => (List.range (w 0).rows).map fun r => (w 0, r, e, 1)
  | 0x7E => [row (w 0) e, if v.shape = 0 then row (w 1) 0 else (w 1, e, 0, 1)]
  | 0x73 => if e < (w 0).rows then [row (w 0) e] else (List.range (w 0).rows).map fun r => row (w 0) r
  | 0x80 => [((w 1), e / (w 1).cols, e % (w 1).cols, 1)]
  | 0x81 => [row (w 0) e, ((w 1), e / (w 1).cols, e % (w 1).cols, 1)]
  | _ => (macroPorts v).1.map fun p => row (w p) e

/-- Accumulator words written, with the flags reaching ELSTAT; a block or row covers whole code words. -/
def State.accWrite (s : State) (f : Firing) (v : RecView) (l : List (Nat × Nat) × Flags) : State :=
  let s0 := if s.ecc.isEmpty then s
    else l.1.foldl (fun st p => if p.1 % 2 = 0 then st.accMend f.elem v.accN p.1 2 else st) s
  (l.1.foldl (fun st p => st.putAcc f.elem v.accN p.1 p.2) s0).orFlags f.elem l.2
/-- Runs of accumulator words that boundary `e` reads. -/
def accReads (f : Firing) (v : RecView) (e : Nat) : List (Nat × Nat) :=
  match v.op.toNat with
  | 0x70 =>
    let nb := mmaBlocks f
    let br := e % nb / ((f.win 1).rows / 8)
    let bc := e % nb % ((f.win 1).rows / 8)
    if v.ovw && e / nb == 0 then [] else (List.range 8).map fun i => ((8 * br + i) * 32 + 8 * bc, 8)
  | 0x71 => if v.shape = 0 && v.ovw then [] else [(e * 32, (f.win 0).cols)]
  | 0xAB => [(e * 32, (f.win 0).cols)]
  | _ => []

/-- R216: every word of an accumulator 0, and its SEQ 0. -/
def State.zeroAcc (s : State) (e acc : Nat) : State :=
  s.modElem e fun x => { x with acc := x.acc.clearRange (acc * 1024) (acc * 1024 + 1024), acseq := x.acseq.put acc 0
                                accUsed := if x.accUsed.contains acc then x.accUsed else x.accUsed ++ [acc] }

/-- What boundary `e` writes of a window. -/
def boundaryWrites (f : Firing) (v : RecView) (e : Nat) : List (Win × Nat × Nat × Nat) :=
  let d := f.win ((macroPorts v).2.getD 0)
  match v.op.toNat with
  | 0x70 | 0x73 | 0x79 | 0x7F | 0x81 | 0xAB => []
  | 0x71 => if v.shape = 1 then [(d, e, 0, d.cols)] else []
  | 0x72 => if e < d.rows then [(d, e, 0, d.cols)] else (List.range d.rows).map fun r => (d, r, 0, d.cols)
  | _ => [(d, e, 0, d.cols)]

/-- A word that boundary `e` reads, or fills in part, fails its check (R326). -/
def State.boundaryBad (s : State) (f : Firing) (v : RecView) (e : Nat) : Option MFault :=
  match (boundaryReads f v e).findSome? fun p => s.elemBad p.1 p.2.1 p.2.2.1 p.2.2.2 with
  | some x => some { kind := fkECCUE, detail := 6, comp := some (BitVec.ofNat 64 x) }
  | none =>
    if (accReads f v e).any fun p => s.accBad f.elem v.accN p.1 p.2 then
      some { kind := fkECCUE, detail := 4, comp := some (BitVec.ofNat 64 (ctWordPa f.sq)) }
    else
      ((boundaryWrites f v e).findSome? fun p => s.writeBad p.1 p.2.1 p.2.2.1 p.2.2.2).map fun x =>
        { kind := fkECCUE, detail := 6, comp := some (BitVec.ofNat 64 x) }

/-- Corrected errors of what boundary `e` reads, tiles and accumulator words, are counted, and the words that it fills are
good. -/
def State.boundaryEcc (s : State) (f : Firing) (v : RecView) (e : Nat) : State :=
  if s.ecc.isEmpty then s
  else
    let s0 := s.countTableCe (sqDie f.sq) ((accReads f v e).flatMap fun p =>
      ((List.range p.2).map fun i => accEcc f.elem v.accN (p.1 + i)).eraseDups)
    let s1 := (boundaryReads f v e).foldl (fun st p => st.elemCe p.1 p.2.1 p.2.2.1 p.2.2.2) s0
    (boundaryWrites f v e).foldl (fun st p => st.writeMend p.1 p.2.1 p.2.2.1 p.2.2.2) s1

/-- Boundary `e` of a macro that does nothing in memory there, with PG still to be written. -/
def State.boundary (s : State) (f : Firing) (v : RecView) (e : Nat) : State :=
  match v.op.toNat with
  | 0x70 => s.accWrite f v (s.mmaBlock f v e)
  | 0x71 =>
    if v.shape = 1 then
      let (l, fl) := s.taccOut f v e
      let t := (s.putRow (f.win 0) e 0 l).orFlags f.elem fl
      if v.ovw then (List.range l.length).foldl (fun st c => st.putAcc f.elem v.accN (e * 32 + c) 0) t else t
    else s.accWrite f v (s.taccIn f v v.ovw e)
  | 0xAB => s.accWrite f v (s.taccIn f v false e)
  | 0x7F => s.zeroAcc f.elem v.accN
  | 0x80 => s.putRow (f.win 2) e 0 (List.replicate (f.win 2).cols 0)
  | 0x81 => s
  | 0x79 =>
    let (x, fl) := s.tredValue f v
    (s.orFlags f.elem fl).modElem f.elem fun y => { y with run := y.run.map fun r => { r with result := x } }
  | _ =>
    let o := s.rowOut f v e
    (s.putRowOut (f.win ((macroPorts v).2.getD 0)) e o).orFlags f.elem o.flags

end Sys2Proof.Machine
end

