-- ==== Sys2Proof/Machine/Arrival.lean ====
section
/-!
DEFINITION. A token reaches a node: the record checks, the local part, matching, and the ready queue (R18, R20, R27, R32
to R36, R103, R124, R132, R346), and the spill matcher of the home MT.
-/
namespace Sys2Proof.Machine

/-- The fault of a record check: kind and detail (R103, R356). -/
def recordFault (e : RecordError) (port : Nat) : Nat × Nat :=
  match e with
  | .unassigned => (fkILLOP, 1)
  | .typ => (fkTYPE, port)
  | .tag => (fkILLOP, 2)
  | .field | .slotSpan => (fkILLOP, 3)
  | .literal => (fkILLOP, 4)

/-- R18: the ports that name a token operand of the node. -/
def portOk (i : OpInfo) (v : RecView) (port : Nat) : Bool :=
  match i.ins with
  | .ports n => port < n && !(v.hdr.litp && port == 1)
  | .either => port ≤ 1
  | .combine => port == 0 || (port == 1 && combineCount v == 0)

/-- R15: whether a port takes a token of this KIND. -/
def kindOk (op port : Nat) (kind : BitVec 2) : Bool :=
  match portKind op port with
  | .any => true
  | .data => kind == 0
  | .handle => kind == 1

/-- Checks 1 to 9 of R103 in order, for a token at a node: the first that fails gives the fault. `decl` says that the
literal names what its load declares. -/
def nodeCheck (level decl : Bool) (v : RecView) (t : Token) : Option (Nat × Nat) :=
  let port := destPort t.dest
  match opInfo v.op.toNat with
  | none => some (fkILLOP, 1)
  | some i =>
    if supervisorOnly v && !level then some (fkPRIV, 0)
    else
      match recordError v with
      | some e => some (recordFault e port)
      | none =>
        if !decl then some (fkILLOP, 4)
        else if !kindOk v.op.toNat port t.kind then some (fkTYPE, port)
        else if !portOk i v port then some (fkMISPORT, port)
        else none

/-- What comes of a token that an element's input stage offers. -/
inductive ArrRes where
  | done (s : State)
  | waits (s : State)
  deriving DecidableEq, Repr

/-- A matched firing enters the ready queue, or the completing token waits while 64 firings stand there (R124). -/
def State.enqueue (s s0 : State) (f : Firing) : ArrRes :=
  if (s0.elem f.elem).readyQ.length ≥ 64 then .waits s0
  else .done (s.modElem f.elem fun x => { x with readyQ := x.readyQ ++ [f] })

/-- Change the context of a node and FX on an element. -/
def Elem.modCtx (x : Elem) (node fx : Nat) (f : MCtx → MCtx) : Elem :=
  { x with ctxs := x.ctxs.map fun c => if c.node == node && c.fx == fx then f c else c }

/-- A context that holds no token closes when the last token it has sent carries EOD (R132). -/
def Elem.closeCtx (x : Elem) (node fx : Nat) (last : Token) : Elem :=
  { x with ctxs := x.ctxs.filter fun c => !(c.node == node && c.fx == fx && c.closes last) }

/-- The token taken by its context `k`, which is open. The token that NEXT names becomes a firing, and the held tokens
that follow it in SEQ leave one by one behind it (`State.mergeoNext`); while one of them is still due, an arrival waits. [DEDUCED: log 26] -/
def State.mergeoPut (s : State) (e : Nat) (fl : Flight) (k : MCtx) : ArrRes :=
  let t := fl.tok
  let noted := fun (c : MCtx) =>
    if destPort t.dest = 0 then { c with last0 := some (fl.src / 1024) } else { c with last1 := some (fl.src / 1024) }
  let put := fun (f : MCtx → MCtx) (x : Elem) => x.modCtx k.node k.fx fun c => f (noted c)
  let d := (t.seq - k.next).toNat
  if k.due.isSome then .waits s
  else if d = 0 then
    if (s.elem e).readyQ.length ≥ 64 then .waits s
    else
      .done (s.modElem e fun x =>
        { (put (fun c => c.sent fl) x).closeCtx k.node k.fx t with
          readyQ := x.readyQ ++ [{ elem := e, node := k.node, t0 := t, k := (k.sent fl).due.isSome.toNat }] })
  else if k.held.any fun y => y.tok.seq == t.seq then .done (s.raiseToken fl fkBOUNDS (destPort t.dest) false)
  else if k.held.length < k.depth && d ≤ k.depth then
    .done (s.modElem e (put fun c => { c with held := c.held ++ [fl] }))
  else .waits s

/-- R132: one arrival at a `mergeo` context. The first opens it and takes its entries, also where the arrival itself has to
wait; the context closes when it holds no token and the last one sent carried EOD. [DEDUCED: log 26] -/
def State.mergeoTake (s : State) (e : Nat) (v : RecView) (fl : Flight) : ArrRes :=
  let x := s.elem e
  let node := destNode fl.tok.dest
  let fx := fl.tok.fx.toNat
  let total := (x.ctxs.map (·.depth)).foldl (· + ·) 0
  match x.ctxs.find? fun k => k.node == node && k.fx == fx with
  | some k => s.mergeoPut e fl k
  | none =>
    if x.ctxs.length ≥ 16 ∨ total + v.lit > 1024 then .waits s
    else
      let k : MCtx := { node := node, fx := fx, depth := v.lit }
      (s.modElem e fun x => { x with ctxs := x.ctxs ++ [k] }).mergeoPut e fl k

/-- A fault that a token raises at its node, its local part being at hand: over an open exact sum the companion is the sum's
state word (R79). -/
def State.raiseAt (s : State) (fl : Flight) (kind detail : Nat) : State :=
  let key := destKey fl.tok.dest
  s.raiseArgs (s.lidOf (destSq fl.tok.dest)) (s.ridOf (destSq fl.tok.dest))
    { tokenArgs fl kind detail false with
      comp := s.sumWord (destSq fl.tok.dest) (s.view key) fl.tok.fx.toNat key }

/-- Matching at the node, the local part being at hand (R32 to R34, R131, R132, R244). -/
def State.matchAt (s : State) (e : Nat) (v : RecView) (fl : Flight) : ArrRes :=
  let q := e / 4
  let t := fl.tok
  let f : Firing := { elem := e, node := destNode t.dest }
  let after := fun (m : MatchRes) =>
    match m with
    | .taken s1 => ArrRes.done s1
    | .fires s1 g => s1.enqueue s g
    | .busy => .waits s
    | .bad s1 k d => .done (s1.raiseAt fl k d)
  match opInfo v.op.toNat with
  | none => .done s
  | some i =>
    match i.ins with
    | .either => if v.op == 0x06 then s.mergeoTake e v fl else s.enqueue s { f with t0 := t }
    | .combine =>
      if v.op == 0xAB && destPort t.dest == 0 then
        match s.openTacc q v f t with
        | some s1 => s1.enqueue s { f with t0 := t }
        | none => .waits s
      else after (s.combineArrive q v f t)
    | .ports _ =>
      let n := tokenOperands i v
      if n = 1 then
        if (v.op == 0x16 || v.op == 0x17) && (s.ct q).slotBusy t.fx.toNat v.lit then .waits s
        else if v.op == 0x97 && (List.range 8).any fun i => (s.ct q).slotBusy t.fx.toNat (v.slot + i) then .waits s
        else s.enqueue s (f.withPort (destPort t.dest) t)
      else after (s.matchOperands q v f n t)

/-- The touch counter rises at an arrival, and the frame's entry notes it (R26, R344). [DEDUCED: log 27] -/
def State.touchFx (s : State) (q fx : Nat) : State :=
  s.modCt q fun c =>
    let n := c.touch + 1
    { c with touch := n
             ftab := mapTbl c.ftab fun _ en => if en.v && en.fx.toNat == fx then { en with touch := n } else en }



/-- R103 check 11: the slots of the node pass the class of the frame that the token reaches (R93). -/
def Ct.pastClass (c : Ct) (v : RecView) (fx : Nat) : Bool :=
  let span := match opInfo v.op.toNat with
    | some i => slotSpan i v
    | none => 0
  span != 0 && v.slot + span > clsSlots (c.clsOf fx)

/-- The slots that a match at the node reads: those with a parked operand, and all of its own open span (R32, R78, R244). -/
def State.slotsMatched (s : State) (q : Nat) (v : RecView) (fl : Flight) : List Nat :=
  let fx := fl.tok.fx.toNat
  let span := match opInfo v.op.toNat with
    | some i => slotSpan i v
    | none => 0
  let mine := (s.ct q).sumOpen v fx (destKey fl.tok.dest)
  ((List.range span).map (v.slot + ·)).filter fun n => mine || ((s.ct q).slot fx n).p

/-- A slot that the match reads fails its check: ECCUE, with the operands of the firing, parked or arriving (R326, R356). -/
def State.raiseSlot (s : State) (q : Nat) (v : RecView) (fl : Flight) : State :=
  let fx := fl.tok.fx.toNat
  let parked := ((s.slotsMatched q v fl).map ((s.ct q).slot fx)).filter (·.p)
  let ops := (destPort fl.tok.dest, fl.tok.val) :: parked.map fun x => (x.prt.toNat, x.val)
  let word := fun (n : Nat) => ((ops.find? fun p => p.1 == n).map (·.2)).getD 0
  s.raiseArgs (s.lidOf q) (s.ridOf q)
    { tokenArgs fl fkECCUE 2 false with
      w1 := word 0, w2 := portB v { t1 := { val := word 1 } }, comp := BitVec.ofNat 64 (ctWordPa q), tokf := false }

/-- R103 check 11 and matching, with the check of the slots that a match reads (R326), for a token whose local part is on the
tile. -/
def State.atPart (s : State) (e : Nat) (v : RecView) (fl : Flight) : ArrRes :=
  let q := e / 4
  let fx := fl.tok.fx.toNat
  if (s.ct q).pastClass v fx then .done (s.raiseAt fl fkBOUNDS 3)
  else if s.slotsFail q fx (s.slotsMatched q v fl) then .done (s.raiseSlot q v fl)
  else (s.countTableCe (sqDie q) (s.slotEccs q fx (s.slotsMatched q v fl))).matchAt e v fl

/-- R346: what the spill matcher does with a token of a node. -/
inductive MatcherRow where
  | forward | match_ | hold
  deriving DecidableEq, Repr

/-- The instructions that read or write the frame (third row of R346). -/
def usesFrame (op : Nat) : Bool :=
  op == 0x97 || op == 0x16 || op == 0x17 || op == 0x1F || op == 0x15 || op == 0x13 ||
  op == 0x12 || op == 0x18 || op == 0x19 || op == 0x1A || op == 0x1B || op == 0x1C

/-- The first row of R346 that applies to a token of the node. -/
def matcherRow (v : RecView) (i : OpInfo) : MatcherRow :=
  let one := match i.ins with
    | .ports _ => tokenOperands i v == 1
    | .either => true
    | .combine => false
  if one && v.hdr.tg != 3 && !usesFrame v.op.toNat then .forward
  else if !one && i.ins != .combine then .match_
  else .hold

/-- A token of the node is matched at once wherever the local part is: it uses no slot (first row of R346, R32, R34). -/
def passesMatcher (v : RecView) : Bool := (opInfo v.op.toNat).map (matcherRow v) == some .forward

/-- R246, R249, R252: whether a literal names a queue, a queue with a template, or a barrier cell of the load; one that does
not is a bad literal under check 7 of R103. [DEDUCED: log 17] -/
def State.litDeclared (s : State) (e : Nat) (v : RecView) : Bool :=
  let ld := s.load (s.lidOf (e / 4))
  if 0xB0 ≤ v.op.toNat ∧ v.op.toNat ≤ 0xB6 then
    match ld.queues[v.lit]? with
    | some k => v.op != 0xB5 || (s.queue k).tmpl.isSome
    | none => false
  else if v.op == 0xB9 || v.op == 0xBA then v.lit < ld.barriers.length
  else if v.op == 0xBB then v.lit % 32 < ld.barriers.length
  else true

/-- Two tokens of one arc on one route tag, whose order holds (R23). -/
def Flight.sameArc (a b : Flight) : Bool := a.src == b.src && a.tok.dest == b.tok.dest && a.tok.rt == b.tok.rt
/-- A token of the arc stands at the spill matcher, before it or held by it: one that arrives after it goes behind it, parked
frame or not (R23, R346). -/
def Ct.matcherHas (c : Ct) (fl : Flight) : Bool :=
  (c.matcherIn.any fl.sameArc) || (c.spilled.look fl.tok.fx.toNat).held.any fl.sameArc

/-- The whole arrival: parity (R20), withdrawal and parking (R36, R366), the checks of R103, the local part (R27, R344,
R345, R348) and matching. A token that parks or fails waits for no run any more. [DEDUCED: log 27] -/
def State.arrive (s : State) (e : Nat) (fl : Flight) : ArrRes :=
  let q := e / 4
  let t := fl.tok
  let fx := t.fx.toNat
  let rid := s.ridOf q
  let r := s.region rid
  let fr := r.fx.look fx
  let v := s.view (destKey t.dest)
  let left := fun (st : State) => if st.ct q |>.spillRuns.isEmpty then st else st.modCt q fun c => c.leaveRun (.arrive fx)
  if t.par then .done (s.raiseToken fl fkECCUE 5 false)
  else if r.withdraw || (s.parkedAt q fx && fl.link != 5) then
    if (s.ct q).matcherHas fl then .done (s.modCt q fun c => { c with matcherIn := c.matcherIn ++ [fl] })
    else
    match s.parkToken q fl with
    | some t => .done (left t)
    | none => .waits ((left s).lineSpillfull q fl)
  else
    match nodeCheck r.level (s.litDeclared e v) v t with
    | some k => .done (s.raiseAt fl k.1 k.2)
    | none =>
      if !fr.alloc || fr.releasing then .done ((left s).raiseToken fl fkILLOP 6 true)
      else
        match (s.ct q).entry fx with
        | some p => if p.2.sp && !passesMatcher v then .waits s else s.atPart e v fl
        | none =>
          if (s.ct q).spilledFx.contains fx then
            if fl.link == 8 then s.matchAt e v fl
            else .done (s.modCt q fun c => { c with matcherIn := c.matcherIn ++ [fl] })
          else
            let s1 := s.startRestore q
            match s1.needRun q r.fcls (.arrive fx) with
            | .got b => (s1.placePart q fx b r.fcls).atPart e v fl
            | .wait s2 => .waits s2
            | .full => .done (s1.raiseToken fl fkSPILLFULL (s.sporeSz q) false)

/-- The tokens that an element's input stage offers: those that have come back to it first. -/
def Elem.stage (x : Elem) : List Flight := x.back ++ x.inStage
/-- The element without the offered token `i`. -/
def Elem.without (x : Elem) (i : Nat) : Elem :=
  if i < x.back.length then { x with back := x.back.eraseIdx i }
  else { x with inStage := x.inStage.eraseIdx (i - x.back.length) }

/-- A token of the input stage is held by one before it on the same link and RT (R343), and a new arrival by a returned
token of its frame (R265, R266, R347, R370); any token is held by a returned one of its arc. One that a pre-emption found
there stays (link codes from 16 on, R366). [DEDUCED: log 28] -/
def heldBack (l : List Flight) (i : Nat) (fl : Flight) : Bool :=
  16 ≤ fl.link || (l.take i).any fun x =>
    (x.link == fl.link && x.tok.rt == fl.tok.rt && x.link < 5) ||
    (5 ≤ x.link && x.link < 8 && fl.link < 5 && x.tok.fx == fl.tok.fx) ||
    (5 ≤ x.link && x.src == fl.src && x.tok.dest == fl.tok.dest && x.tok.rt == fl.tok.rt)

/-- R372: a marker has arrived on the token's arc and route tag, and its node has not entered the round. -/
def behindMarker (x : Elem) (fl : Flight) : Bool :=
  x.marked.contains (destNode fl.tok.dest, fl.src, destPort fl.tok.dest, fl.tok.rt.toNat)

/-- Offered token `i` may be taken in this cycle, for all that the tokens before it say. -/
def State.offered (s : State) (e i : Nat) (fl : Flight) : Bool :=
  let x := s.elem e
  fl.tok.kind != 2#2 && !(s.regionOf (e / 4)).mode && fl.ready ≤ s.cycles && !heldBack x.stage i fl && !behindMarker x fl &&
  !(decide (i < x.back.length) && decide (x.back.length ≤ i + x.outside.length))

/-- R32, R341: the order in which the tokens of an input stage have arrived: by cycle, then by link in the order local, N,
E, S, W, on the local link by element, and then by port (R131). [DESIGN CHOICE: log 3] -/
def Flight.before (a b : Flight) : Bool :=
  let order := fun (fl : Flight) => ((fl.ready * 32 + fl.link) * 8 + if fl.link = 0 then fl.rank else 0) * 4 + destPort fl.tok.dest
  decide (order a < order b)

/-- The slots of a node: the first, and how many. -/
def State.spanOf (s : State) (fl : Flight) : Nat × Nat :=
  let v := s.view (destKey fl.tok.dest)
  (v.slot, match opInfo v.op.toNat with | some i => slotSpan i v | none => 0)
/-- Two tokens that have arrived in one cycle for slots in common of one frame. -/
def State.clash (s : State) (a b : Flight) : Bool :=
  let x := s.spanOf a
  let y := s.spanOf b
  a.ready == b.ready && a.tok.fx == b.tok.fx && decide (x.1 < y.1 + y.2) && decide (y.1 < x.1 + x.2)

/-- Offered token `j` waits for something that the element or the tile does not have yet. -/
def State.mustWait (s : State) (e : Nat) (fl : Flight) : Bool :=
  match (s.touchFx (e / 4) fl.tok.fx.toNat).arrive e fl with
  | .done _ => false
  | .waits _ => true

/-- A token that came to an element of square `q` by an input of its router on a route tag, and that must wait in the input
stage: the element. Everything behind it on the link and the route tag waits with it (R124, R132, R343). [DEDUCED: log 108] -/
def State.linkHeld (s : State) (q inp rt : Nat) : Option Nat :=
  ([0, 1, 2, 3].map fun el => q * 4 + el).find? fun e =>
    !(s.regionOf q).mode && (s.elem e).inStage.any fun fl =>
      fl.link == inp && fl.tok.rt.toNat == rt && fl.tok.kind != 2#2 && (s.mustWait e fl || behindMarker (s.elem e) fl)
/-- Of those, one that a `mergeo` cannot take: its wait is back-pressure at every node that would send into that link (R132). [DEDUCED: log 108] -/
def State.mergeoHolds (s : State) (q inp rt : Nat) : Bool :=
  match s.linkHeld q inp rt with
  | none => false
  | some e => (s.elem e).inStage.any fun fl =>
      fl.link == inp && fl.tok.rt.toNat == rt && (s.view (destKey fl.tok.dest)).op == 0x06 && s.mustWait e fl
/-- The route tag of the tokens that a firing sends (R87). -/
def sendRt (f : Firing) (v : RecView) : Nat := if v.hdr.tg = 5 then v.lit % 4 else f.t0.rt.toNat
/-- The head of element `e` sends into a link that a `mergeo` holds: it is held as though for want of room (R132, R358, R438). [DEDUCED: log 108] -/
def State.headBlocked (s : State) (e : Nat) (f : Firing) (v : RecView) : Bool :=
  let op := v.op.toNat
  s.tokensSent f v != 0 && !(0x90 ≤ op && op ≤ 0x9C) && s.mergeoHolds (e / 4) 0 (sendRt f v)

/-- It is the turn of offered token `i`: each token that has arrived before it is held back or must wait, and so must one of
a lower element of the tile that would use a slot in common in the same cycle (R32, R341). [DESIGN CHOICE: log 3] -/
def State.turnOf (s : State) (e i : Nat) (fl : Flight) : Bool :=
  let x := s.elem e
  let n := x.back.length
  let first := fun (j : Nat) (y : Flight) => if i < n then j < i else j < n || y.before fl || (j < i && !fl.before y)
  (((List.range x.stage.length).zip x.stage).all fun p =>
    p.1 == i || !first p.1 p.2 || !s.offered e p.1 p.2 || s.mustWait e p.2) &&
  ((List.range (e % 4)).all fun k =>
    let e2 := e - e % 4 + k
    let l := (s.elem e2).stage
    ((List.range l.length).zip l).all fun p => !s.clash p.2 fl || !s.offered e2 p.1 p.2 || s.mustWait e2 p.2)

/-- TOKEN_ARRIVAL of the token `b` that element `a`'s input stage offers (R124). Markers and the tokens of static regions
have steps of their own; a token that has come back has been counted already. -/
def execTokenArrival (s : State) : Res :=
  let e := s.at_.a
  let i := s.at_.b
  match (s.elem e).stage[i]? with
  | none => .next s
  | some fl =>
    if !s.offered e i fl || !s.turnOf e i fl then .next s
    else
      let s0 := s.modElem e fun x => x.without i
      let s1 := if fl.link < 5 then s0.touchFx (e / 4) fl.tok.fx.toNat else s0
      match s1.arrive e fl with
      | .done t => .next t
      | .waits _ =>
        match s.arrive e fl with
        | .waits t => .next t
        | .done _ => .next s

/-- SPILL_MATCHER_TOKEN at the home MT of CT `a` (R346): the first row that applies. A token whose local part has come
back in the meantime goes to the tile. A re-issued token is held ahead of the others. -/
def execSpillMatcherToken (s : State) : Res :=
  let q := s.at_.a
  let c := s.ct q
  match c.matcherIn with
  | [] => .next s
  | fl :: rest =>
    let t := fl.tok
    let fx := t.fx.toNat
    let v := s.view (destKey t.dest)
    let s0 := s.modCt q fun c => { c with matcherIn := rest, matcherCount := c.matcherCount + 1 }
    let fr := s.fxRec (s.ridOf q) fx
    if !fr.alloc || fr.releasing then .next (s0.raiseToken fl fkILLOP 6 true)
    else if !c.spilledFx.contains fx then .next (s0.giveBack q 6 [fl])
    else if s.parkedAt q fx && fl.link != 5 then
      if (c.spilled.look fx).held.any fl.sameArc then
        .next (s0.modCt q fun c => { c with spilled := c.spilled.upd fx fun sp => { sp with held := sp.held ++ [fl] } })
      else
      match s0.parkToken q fl with
      | some t => .next t
      | none => .next (s.lineSpillfull q fl)
    else
      let s1 := s0.modCt q fun c =>
        { c with taken := c.taken.put fx (c.matcherCount + 1)
                 spilled := c.spilled.upd fx fun sp => { sp with order := c.matcherCount + 1 } }
      match (opInfo v.op.toNat).map (matcherRow v) with
      | none => .next s1
      | some .forward => .next (s1.giveBack q 8 [fl])
      | some .match_ =>
        if c.pastClass v fx then .next (s1.raiseAt fl fkBOUNDS 3)
        else
          match s1.matchAt (destElem t.dest) v fl with
          | .done t => .next t
          | .waits _ => .next s
      | some .hold =>
        .next ((s1.modCt q fun c => { c with spilled := c.spilled.upd fx fun sp =>
          { sp with held := if fl.link = 5 then fl :: sp.held else sp.held ++ [fl] } }).demandRestore q fx)

end Sys2Proof.Machine
end

