-- ==== Sys2Proof/Machine/Sha.lean ====
section
/-!
DEFINITION. SHA-256 (FIPS 180-4, named by R108, R336, R422 and R429), over lists of bytes.
-/
namespace Sys2Proof.Machine

/-- Little-endian field of `n` bytes at `off` of a byte string. -/
def u (b : List Byte) (off n : Nat) : Nat := leBytes ((b.drop off).take n)

/-- The 64 round constants, eight to a line. -/
def shaK : List (BitVec 32) :=
  [0x428a2f98, 0x71374491, 0xb5c0fbcf, 0xe9b5dba5, 0x3956c25b, 0x59f111f1, 0x923f82a4, 0xab1c5ed5] ++
  [0xd807aa98, 0x12835b01, 0x243185be, 0x550c7dc3, 0x72be5d74, 0x80deb1fe, 0x9bdc06a7, 0xc19bf174] ++
  [0xe49b69c1, 0xefbe4786, 0x0fc19dc6, 0x240ca1cc, 0x2de92c6f, 0x4a7484aa, 0x5cb0a9dc, 0x76f988da] ++
  [0x983e5152, 0xa831c66d, 0xb00327c8, 0xbf597fc7, 0xc6e00bf3, 0xd5a79147, 0x06ca6351, 0x14292967] ++
  [0x27b70a85, 0x2e1b2138, 0x4d2c6dfc, 0x53380d13, 0x650a7354, 0x766a0abb, 0x81c2c92e, 0x92722c85] ++
  [0xa2bfe8a1, 0xa81a664b, 0xc24b8b70, 0xc76c51a3, 0xd192e819, 0xd6990624, 0xf40e3585, 0x106aa070] ++
  [0x19a4c116, 0x1e376c08, 0x2748774c, 0x34b0bcb5, 0x391c0cb3, 0x4ed8aa4a, 0x5b9cca4f, 0x682e6ff3] ++
  [0x748f82ee, 0x78a5636f, 0x84c87814, 0x8cc70208, 0x90befffa, 0xa4506ceb, 0xbef9a3f7, 0xc67178f2]

/-- The initial hash value. -/
def shaH0 : List (BitVec 32) :=
  [0x6a09e667, 0xbb67ae85, 0x3c6ef372, 0xa54ff53a, 0x510e527f, 0x9b05688c, 0x1f83d9ab, 0x5be0cd19]

def big0 (x : BitVec 32) : BitVec 32 := x.rotateRight 2 ^^^ x.rotateRight 13 ^^^ x.rotateRight 22
def big1 (x : BitVec 32) : BitVec 32 := x.rotateRight 6 ^^^ x.rotateRight 11 ^^^ x.rotateRight 25
def small0 (x : BitVec 32) : BitVec 32 := x.rotateRight 7 ^^^ x.rotateRight 18 ^^^ x >>> 3
def small1 (x : BitVec 32) : BitVec 32 := x.rotateRight 17 ^^^ x.rotateRight 19 ^^^ x >>> 10

/-- The message schedule, last word first, extended by `n` words. -/
def shaSchedule (n : Nat) (w : List (BitVec 32)) : List (BitVec 32) :=
  match n with
  | 0 => w
  | n + 1 =>
    let g := fun (i : Nat) => w[i]?.getD 0
    shaSchedule n ((small1 (g 1) + g 6 + small0 (g 14) + g 15) :: w)

/-- One round on the eight working variables. -/
def shaRound (h : List (BitVec 32)) (kw : BitVec 32) : List (BitVec 32) :=
  match h with
  | [a, b, c, d, e, f, g, x] =>
    let t1 := x + big1 e + (e &&& f ^^^ ~~~e &&& g) + kw
    let t2 := big0 a + (a &&& b ^^^ a &&& c ^^^ b &&& c)
    [t1 + t2, a, b, c, d + t1, e, f, g]
  | l => l

/-- The big-endian words of a block. -/
def beWords (n : Nat) (l : List Byte) : List (BitVec 32) :=
  match n with
  | 0 => []
  | n + 1 => (l[0]?.getD 0 ++ l[1]?.getD 0 ++ l[2]?.getD 0 ++ l[3]?.getD 0) :: beWords n (l.drop 4)

/-- The blocks of a padded message, one after another. -/
def shaBlocks (n : Nat) (h : List (BitVec 32)) (l : List Byte) : List (BitVec 32) :=
  match n with
  | 0 => h
  | n + 1 =>
    let w := (shaSchedule 48 (beWords 16 l).reverse).reverse
    let h1 := ((shaK.zip w).map fun p => p.1 + p.2).foldl shaRound h
    shaBlocks n ((h.zip h1).map fun p => p.1 + p.2) (l.drop 64)

/-- The digest of a message, 32 bytes. [PRESUMED: log 32] -/
def sha256 (m : List Byte) : List Byte :=
  let zeros := (119 - m.length % 64) % 64
  let padded := m ++ [0x80#8] ++ List.replicate zeros 0 ++ (toBytes 8 (8 * m.length)).reverse
  (shaBlocks (padded.length / 64) shaH0 padded).flatMap fun w =>
    [w.extractLsb' 24 8, w.extractLsb' 16 8, w.extractLsb' 8 8, w.extractLsb' 0 8]

end Sys2Proof.Machine
end

