-- ==== Sys2Proof/Machine/Float.lean ====
section
/-!
DEFINITION. Group 0x4: floating-point arithmetic, lane by lane (R174 to R180).
-/
namespace Sys2Proof.Machine

/-- The rounding of lane `i` of a firing's record (R65, R67). -/
def State.rnd (s : State) (v : RecView) (i : Nat) : Rnd := rndOf v.opfN (s.srSeed s.cur) s.cur.t0.fx.toNat i

/-- Each lane of a float instruction, made by `g` from the rounding and the lanes of the operands. -/
def fltLanes (s : State) (v : RecView) (g : Fmt → Rnd → Nat → Nat → Nat → Nat × Flags) : Word × Flags :=
  let t := v.tyN
  let w := tyW t
  mkLanesF (tyN t) w fun i => g (fmtOfTy t) (s.rnd v i) (lane w s.opA i) (lane w (s.opB v) i) (lane w s.opC i)

def execFadd (r : D2) (s : State) : Res :=
  let v := r.view 0x40; finish1 s v (fltLanes s v fun f m a b _ => f.add m a b)
def execFsub (r : D2) (s : State) : Res :=
  let v := r.view 0x41; finish1 s v (fltLanes s v fun f m a b _ => f.sub m a b)
def execFmul (r : D2) (s : State) : Res :=
  let v := r.view 0x42; finish1 s v (fltLanes s v fun f m a b _ => f.mul m a b)
def execFma (r : D2) (s : State) : Res :=
  let v := r.view 0x43; finish1 s v (fltLanes s v fun f m a b c => f.fma m a b c)
def execFmin (r : D2) (s : State) : Res :=
  let v := r.view 0x44; finish1 s v (fltLanes s v fun f _ a b _ => f.minmax false a b)
def execFmax (r : D2) (s : State) : Res :=
  let v := r.view 0x45; finish1 s v (fltLanes s v fun f _ a b _ => f.minmax true a b)

/-- The bit of a lane's sign, and a lane with its sign bit set to `b` (R177). -/
def Fmt.signBit (f : Fmt) : Nat := f.eb + f.mb
def Fmt.withSign (f : Fmt) (x : Nat) (b : Bool) : Nat := x % 2 ^ f.signBit + (if b then 2 ^ f.signBit else 0)

def execFabs (r : D2) (s : State) : Res :=
  let v := r.view 0x46; finish1 s v (fltLanes s v fun f _ a _ _ => (f.withSign a false, 0))
def execFneg (r : D2) (s : State) : Res :=
  let v := r.view 0x47; finish1 s v (fltLanes s v fun f _ a _ _ => (f.withSign a (!tbit a f.signBit), 0))

/-- R179: the ordering of two lanes, and NV for a signalling NaN, or for any NaN under LT, LE, GT and GE. -/
def fcmpLane (f : Fmt) (cond a b : Nat) : Bool × Flags :=
  let x := f.value a
  let y := f.value b
  let un := x.isNan || y.isNan
  let ord := if un then 3 else cmpVals x y
  (condHolds cond ord, if x.isSig || y.isSig || (un && 2 ≤ cond && cond ≤ 5) then fNV else 0)
def execFcmp (r : D2) (s : State) : Res :=
  let v := r.view 0x48
  let w := tyW v.tyN
  finish1 s v (fltLanes s v fun f _ a b _ =>
    let p := fcmpLane f v.opfN a b
    (if p.1 then 2 ^ w - 1 else 0, p.2))

def execFdiv (r : D2) (s : State) : Res :=
  let v := r.view 0x49; finish1 s v (fltLanes s v fun f m a b _ => f.div m a b)
def execFsqrt (r : D2) (s : State) : Res :=
  let v := r.view 0x4A; finish1 s v (fltLanes s v fun f m a _ _ => f.sqrt m a)
def execFrcp (r : D2) (s : State) : Res :=
  let v := r.view 0x4B; finish1 s v (fltLanes s v fun f m a _ _ => f.recip m a)
def execFrsqrt (r : D2) (s : State) : Res :=
  let v := r.view 0x4C; finish1 s v (fltLanes s v fun f m a _ _ => f.rsqrt m a)
def execFrnd (r : D2) (s : State) : Res :=
  let v := r.view 0x4D; finish1 s v (fltLanes s v fun f m a _ _ => f.rint m a)
def execFclass (r : D2) (s : State) : Res :=
  let v := r.view 0x4E; finish1 s v (fltLanes s v fun f _ a _ _ => (f.classify a, 0))
def execFcsgn (r : D2) (s : State) : Res :=
  let v := r.view 0x4F; finish1 s v (fltLanes s v fun f _ a b _ => (f.withSign a (tbit b f.signBit), 0))

end Sys2Proof.Machine
end

