-- ==== Sys2Proof/Machine/Transc.lean ====
section
/-!
DEFINITION. Group 0x6: transcendental functions (R194 to R197), the LUT patch (R198 to R200, R202) and hash64 (R203).
`lutld` is with the handle instructions, whose checks it shares.
-/
namespace Sys2Proof.Machine

/-- Each lane of a one-operand function that is rounded to nearest (R195). -/
def fnLanes (s : State) (v : RecView) (g : Fmt → Nat → Nat × Flags) : Word × Flags :=
  let t := v.tyN
  mkLanesF (tyN t) (tyW t) fun i => g (fmtOfTy t) (lane (tyW t) s.opA i)

def execFsin (r : D2) (s : State) : Res := let v := r.view 0x60; finish1 s v (fnLanes s v Fmt.sin)
def execFcos (r : D2) (s : State) : Res := let v := r.view 0x61; finish1 s v (fnLanes s v Fmt.cos)
def execFsincos (r : D2) (s : State) : Res :=
  let v := r.view 0x62; finish2 s v (fnLanes s v Fmt.sin) (fnLanes s v Fmt.cos)
/-- [DESIGN CHOICE: log 35] -/
def execFexp2 (r : D2) (s : State) : Res := let v := r.view 0x63; finish1 s v (fnLanes s v Fmt.exp2)
def execFlog2 (r : D2) (s : State) : Res := let v := r.view 0x64; finish1 s v (fnLanes s v Fmt.log2)
def execFexp (r : D2) (s : State) : Res := let v := r.view 0x65; finish1 s v (fnLanes s v Fmt.exp)
def execFtanh (r : D2) (s : State) : Res := let v := r.view 0x66; finish1 s v (fnLanes s v Fmt.tanh)
def execFsigm (r : D2) (s : State) : Res := let v := r.view 0x67; finish1 s v (fnLanes s v Fmt.sigm)

/-! ### The LUT patch -/

/-- R198: what a selector reads. -/
def lutSource (input st sel : Nat) : Nat :=
  if sel < 64 then input / 2 ^ sel % 2
  else if sel < 80 then st / 2 ^ (sel - 64) % 2
  else if sel = 81 then 1 else 0

/-- The output of a LUT from its truth table and control word. -/
def lutOut (tt ctl input st : Nat) : Nat :=
  let idx := (List.range 6).foldl (fun acc t => acc + lutSource input st (fld ctl (7 * t) 7) * 2 ^ t) 0
  tt / 2 ^ idx % 2

/-- All 64 outputs of configuration `cfg` (R200). -/
def lutEval (x : Elem) (cfg : Nat) (input : Word) : List Nat :=
  (List.range 64).map fun j =>
    lutOut (x.lut.look (cfg * 128 + 2 * j)).toNat (x.lut.look (cfg * 128 + 2 * j + 1)).toNat input.toNat
      x.lutState.toNat

/-- R200, `lutsm`: each LUT with NSE = 1 sets STATE[NSB]. -/
def lutNext (x : Elem) (cfg : Nat) (out : List Nat) : BitVec 16 :=
  (List.range 64).foldl (fun st j =>
    let ctl := (x.lut.look (cfg * 128 + 2 * j + 1)).toNat
    if tbit ctl 42 then
      let b := fld ctl 43 4
      if out[j]?.getD 0 = 1 then st ||| (1#16 <<< b) else st &&& ~~~(1#16 <<< b)
    else st) x.lutState

/-- The element notes the configuration as used since the commit (R367). -/
def Elem.useLut (x : Elem) (cfg : Nat) : Elem :=
  { x with lutUsed := if x.lutUsed.contains cfg then x.lutUsed else x.lutUsed ++ [cfg] }

def execLut6 (r : D2) (s : State) : Res :=
  let v := r.view 0x68
  let out := lutEval (s.elem s.cur.elem) v.lit s.opA
  finish1 (s.modElem s.cur.elem fun x => x.useLut v.lit) v (ofLanes 1 out, 0)
def execLutsm (r : D2) (s : State) : Res :=
  let v := r.view 0x69
  let out := lutEval (s.elem s.cur.elem) v.lit s.opA
  let outs := outs1 v (s.cur.base 0 (ofLanes 1 out))
  if (s.sendFault outs).isSome then finish s v outs 0
  else finish (s.modElem s.cur.elem fun x => { x.useLut v.lit with lutState := lutNext x v.lit out }) v outs 0

def execHash64 (r : D2) (s : State) : Res :=
  let v := r.view 0x6B; finish1 s v (hash64 s.opA (s.opB v), 0)

end Sys2Proof.Machine
end

