-- ==== Sys2Proof/Machine/TilePipe.lean ====
section
/-!
DEFINITION. The tile pipe (R206 to R213): the macro queue and the ordered-wait store, start, boundary and completion,
stop and re-issue; the macro-instructions, `cmbtacc` (R245) and `lutld` (R201, R202).
-/
namespace Sys2Proof.Machine

/-! ### The macro queue (R206) -/

/-- SEQ of an accumulator (R40). -/
def Elem.seqOf (x : Elem) (acc : Nat) : Nat := (x.acseq.look acc).toNat
/-- What the wait of an ordered firing compares: the whole SEQ, or SEQ modulo 256 for `cmbtacc` (R245). -/
def Elem.seqHit (x : Elem) (v : RecView) (f : Firing) : Bool :=
  if v.op == 0xAB then x.seqOf v.accN % 256 == f.t0.seq.toNat else x.seqOf v.accN == f.k

/-- A firing enters the macro queue of 8, or stays at the head. -/
def State.enterMacroQ (s : State) (f : Firing) : State :=
  if (s.elem f.elem).macroQ.length ≥ 8 then s.requeue f
  else s.modElem f.elem fun x => { x with macroQ := x.macroQ ++ [f] }

/-- Ordered firings whose turn it is move to the tail of the macro queue. [DESIGN CHOICE: log 118] -/
def State.releaseOrdered (s : State) (e : Nat) : State :=
  let x := s.elem e
  let go := x.ordWait.filter fun f => x.seqHit (s.view f.key) f
  if go.isEmpty then s
  else
    s.modElem e fun x =>
      { x with ordWait := x.ordWait.filter fun f => !go.contains f
               macroQ := x.macroQ ++ go.map fun f => { f with k := x.seqOf (s.view f.key).accN } }

/-- SEQ of an accumulator is set (R40). [DEDUCED: log 65] -/
def State.setSeq (s : State) (e acc n : Nat) : State :=
  (s.modElem e fun x => { x with acseq := x.acseq.put acc (BitVec.ofNat 16 n) }).releaseOrdered e

/-- A macro firing at issue (R205, R206). -/
def enterMacro (v : RecView) (s : State) : Res :=
  let f := s.cur
  let x := s.elem f.elem
  match controlPort v.op.toNat with
  | none => .next (s.enterMacroQ f)
  | some p =>
    let w := (f.val p).toNat
    let k := w % 2 ^ 16
    let seq := x.seqOf v.accN
    let g := { f with k := k }
    if w ≥ 2 ^ 16 then fails s v fkBOUNDS p
    else if !v.ord then .next (s.enterMacroQ g)
    else if (k + 2 ^ 16 - seq) % 2 ^ 16 ≥ 2 ^ 15 then fails s v fkBOUNDS p
    else if k = seq then .next (s.enterMacroQ g)
    else if x.ordWait.length ≥ 16 then .next (s.requeue f)
    else .next (s.modElem f.elem fun x => { x with ordWait := x.ordWait ++ [g] })

def execTmma (r : FT) (s : State) : Res := enterMacro (r.view 0x70) s
def execTacc (r : FT) (s : State) : Res := enterMacro (r.view 0x71) s
def execTld (r : FT) (s : State) : Res := enterMacro (r.view 0x72) s
def execTst (r : FT) (s : State) : Res := enterMacro (r.view 0x73) s
def execTadd (r : FT) (s : State) : Res := enterMacro (r.view 0x74) s
def execTmul (r : FT) (s : State) : Res := enterMacro (r.view 0x75) s
def execTmax (r : FT) (s : State) : Res := enterMacro (r.view 0x76) s
def execTscale (r : FT) (s : State) : Res := enterMacro (r.view 0x77) s
def execTexp (r : FT) (s : State) : Res := enterMacro (r.view 0x78) s
def execTred (r : FT) (s : State) : Res := enterMacro (r.view 0x79) s
def execTtrans (r : FT) (s : State) : Res := enterMacro (r.view 0x7A) s
def execTcvt (r : FT) (s : State) : Res := enterMacro (r.view 0x7B) s
def execTfill (r : FT) (s : State) : Res := enterMacro (r.view 0x7C) s
def execTcmpb (r : FT) (s : State) : Res := enterMacro (r.view 0x7D) s
def execTbias (r : FT) (s : State) : Res := enterMacro (r.view 0x7E) s
def execTzero (r : FT) (s : State) : Res := enterMacro (r.view 0x7F) s
def execTgath (r : FT) (s : State) : Res := enterMacro (r.view 0x80) s
def execTscat (r : FT) (s : State) : Res := enterMacro (r.view 0x81) s
def execTcopy (r : FT) (s : State) : Res := enterMacro (r.view 0x82) s

/-- R245: the release firing of `cmbtacc` sends N; an addend's firing goes to the tile pipe as a `tacc`. -/
def execCmbtacc (r : D2) (s : State) : Res :=
  let v := r.view 0xAB
  let f := s.cur
  let x := s.elem f.elem
  if !f.words.isEmpty then finish1 s v (s.spanValue, 0)
  else if !v.ord then .next (s.enterMacroQ f)
  else if x.seqHit v f then .next (s.enterMacroQ { f with k := x.seqOf v.accN })
  else if x.ordWait.length ≥ 16 then .next (s.requeue f)
  else .next (s.modElem f.elem fun x => { x with ordWait := x.ordWait ++ [f] })

/-! ### Start (R207, R209, R212) -/

/-- A fault of the tile pipe: a third operand, or the effective address, is the companion (R351). -/
def State.raiseMacro (s : State) (f : Firing) (v : RecView) (k : MFault) (eidx : Nat) : State :=
  s.raiseFiring f k.kind k.detail (portB v f) (k.comp.getD (if v.hdr.arity3 then f.t2.val else 0)) eidx

/-- The PG that a re-issued firing loads (R212, R266): the element's own while no macro has started since its stop. [DEDUCED: log 65] -/
def Elem.pgFor (x : Elem) (f : Firing) : Option (Word × Word) :=
  if x.lastStop == some { f with pg := none } && f.pg.isSome then some (x.pga, x.pgb) else f.pg

/-- R212: the first port whose handle's generation differs from the saved one. -/
def resumeFault (f : Firing) (pgb : Word) : Option MFault :=
  [0, 1, 2].findSome? fun p =>
    let saved := fld pgb.toNat (18 - 8 * p) 8
    if saved = f.genOf p then none else bad fkRESUMEMIS (p + saved * 2 ^ 8 + f.genOf p * 2 ^ 16)

/-! ### Tiles of other dies (R387, R404) -/

/-- The MTs of other dies on which tiles of a macro stand. [DEDUCED: log 106] -/
def farMts (f : Firing) (v : RecView) : List Nat :=
  (((handlePorts v).map fun p => (f.win p).q).eraseDups).filter fun q => sqDie q != sqDie f.sq && sqDie q < 3
/-- One leg of the way to MTs of other dies, or back: its messages (MOP 6). [DEDUCED: log 106] -/
def State.setLeg (s : State) (f : Firing) (mts : List Nat) (back : Bool) : State × List Nat :=
  let me := sqDie f.sq
  mts.foldl (fun p q =>
    let d := sqDie q
    let m : Msg :=
      if back then
        { cls := .mrsp, head := msgHead 6 8 (rqidOf f) d me 0 0 (scratchPa q 0), data := toBytes 8 0, leg := msgLeg d me (some q) (some f.sq) }
      else
        { cls := .mreq, head := msgHead 6 8 (rqidOf f) me d 0 0 (scratchPa q 0), data := toBytes 8 0, leg := msgLeg me d (some f.sq) (some q) }
    let (t, n) := if back then p.1.post d me m else p.1.post me d m
    (t, p.2 ++ [n])) (s, [])
/-- The leg under way has not come to its end. -/
def State.onTrip (s : State) (t : Trip) : Bool := t.vias.any s.crossing
/-- The next leg of the running macro begins. -/
def State.runLeg (s : State) (r : Run) (mts : List Nat) (back : Bool) : State :=
  let (t, l) := s.setLeg r.f mts back
  t.modElem r.f.elem fun x => { x with run := x.run.map fun y => { y with trip := { leg := y.trip.leg + 1, vias := l } } }

/-- The macro at the head of the queue starts at boundary `eidx`. -/
def State.startMacro (s : State) (e : Nat) (f : Firing) (v : RecView) (eidx : Nat) : State :=
  let total := macroTotal f v
  let g := { f with pg := none }
  let s1 := s.modElem e fun x => { x with macroQ := x.macroQ.drop 1, lastStop := none, startTrip := {},
                                          run := some { f := g, eidx := eidx, total := total } }
  if eidx < total then s1.setPg g v true 1 eidx
  else
    let s2 := s1.setPg g v false 4 eidx
    if v.op != 0x79 then s2
    else (s2.modElem e fun x => { x with run := x.run.map fun r => { r with result := Config.freeWord s.free } }).drawn

/-- The running macro stops with a fault at boundary `eidx`; its record's firing carries PG (R210, R211). -/
def State.stopMacro (s : State) (f : Firing) (v : RecView) (k : MFault) (eidx : Nat) : State :=
  let s1 := s.setPg f v true 3 eidx
  let x := s1.elem f.elem
  let s2 := s1.modElem f.elem fun x => { x with run := none, lastStop := some { f with pg := none } }
  s2.raiseMacro { f with pg := some (x.pga, x.pgb) } v k eidx

/-- The oldest entry leaves the macro queue. -/
def State.leaveMacroQ (s : State) (e : Nat) : State :=
  s.modElem e fun x => { x with macroQ := x.macroQ.drop 1, startTrip := {} }

/-- The checks of R207, the wait on F, and the start of the oldest entry at boundary `eidx`. -/
def State.startHead (s : State) (e : Nat) (f : Firing) (v : RecView) (eidx : Nat) : State :=
  match s.macroFault f v with
  | some k => (s.leaveMacroQ e).raiseMacro { f with pg := none } v k 0
  | none =>
    if !s.macroReady f v then s
    else
      let t := s.startMacro e f v eidx
      match alignFault f v with
      | some k => t.stopMacro { f with pg := none } v k 0
      | none => t

/-- As `startHead`, where the checks of tiles on other dies are made there, and their outcome comes back (R387, R404). -/
def State.startFar (s : State) (e : Nat) (f : Firing) (v : RecView) (eidx : Nat) : State :=
  let t := (s.elem e).startTrip
  let leg := fun (back : Bool) =>
    let (st, l) := s.setLeg f (farMts f v) back
    st.modElem e fun x => { x with startTrip := { leg := t.leg + 1, vias := l } }
  if farMts f v = [] then s.startHead e f v eidx
  else if t.leg = 0 then leg false
  else if s.onTrip t then s
  else if t.leg = 1 then (if (s.macroFault f v).isSome || s.macroReady f v then leg true else s)
  else s.startHead e f v eidx

/-- MACRO_START at element `a`: the oldest entry is checked, waits on F, and starts. A saved PG is loaded before the checks
and the wait (R212); a misaligned address stops the macro at its first boundary (R210, R217, R220). [DESIGN CHOICE: log 98] -/
def execMacroStart (s : State) : Res :=
  let e := s.at_.a
  let x := s.elem e
  match x.macroQ with
  | [] => .next s
  | f :: _ =>
    if x.run.isSome || x.macroDone.isSome || x.stop then .next s
    else
      let v := s.view f.key
      match x.pgFor f with
      | none => .next (s.startFar e f v 0)
      | some (a, b) =>
        if !pgaV a then .next (s.startFar e f v 0)
        else
          match resumeFault f b with
          | some k => .next (((s.leaveMacroQ e).modElem e fun x => { x with pga := a, pgb := b }).raiseMacro f v k 0)
          | none => .next ((s.modElem e fun x =>
              { x with pga := a, pgb := b, lastStop := some { f with pg := none } }).startFar e f v (pgaEidx a))

/-! ### Boundaries (R208 to R211) -/

/-- R211: park pre-emption stops the macro before its next boundary, with ST = 2; the firing keeps PG and its place. -/
def State.parkMacro (s : State) (e : Nat) (r : Run) : State :=
  let s1 := s.setPg r.f (s.view r.f.key) true 2 r.eidx
  s1.modElem e fun x => { x with run := none, macroQ := { r.f with pg := some (x.pga, x.pgb) } :: x.macroQ }

/-- Boundary `n - 1` has been passed. -/
def State.passBoundary (s : State) (r : Run) (v : RecView) : State :=
  let e := r.f.elem
  let n := r.eidx + 1
  let s1 := s.modElem e fun x =>
    { x with run := x.run.map fun y => { y with eidx := n, reqs := [], trip := {}, need := none, got := none } }
  (s1.setPg r.f v (n < r.total) (if n < r.total then 1 else 4) n).releaseOrdered e

/-- The requests of a boundary's row set out (R217, R220). -/
def State.askRow (s : State) (r : Run) (need : RowNeed) : State :=
  let f := r.f
  let base : MReq := { f := f, rid := s.ridOf f.sq, lid := s.lidOf f.sq, die := sqDie f.sq, cluster := clusterOf f.sq }
  let out := match need with
    | .load va n => s.engAsk base none va n (memWords (n + 1) va n) none
    | .store va b => s.engAsk base none va b.length (memWords (b.length + 1) va b.length) (some b)
  out.1.modElem f.elem fun x => { x with run := x.run.map fun y => { y with reqs := out.2 } }

/-- What a boundary does once nothing stands in its way: the bytes that its row has brought are taken, or the row that it
needs is asked for, or it is performed. -/
inductive BoundAct where
  | stop (k : MFault)
  | ask (need : RowNeed)
  | done (s : State)

/-- R207 check 4 of R47 at the boundary, the errors of what it reads (R326), and what it does. -/
def State.boundAct (s : State) (r : Run) (v : RecView) (got : Option (List Byte)) : BoundAct :=
  match got with
  | some b => .done ((s.rowTake r.f v r.eidx b).boundaryEcc r.f v r.eidx)
  | none =>
    match s.handlesStale r.f (handlePortsUp v) with
    | some k => .stop k
    | none =>
      match s.boundaryBad r.f v r.eidx with
      | some k => .stop k
      | none =>
        match s.rowNeed r.f v r.eidx with
        | some need => .ask need
        | none => .done ((s.boundary r.f v r.eidx).boundaryEcc r.f v r.eidx)

/-- A boundary whose tiles all stand on the element's die. -/
def State.nearBoundary (s : State) (r : Run) (v : RecView) (got : Option (List Byte)) : State :=
  match s.boundAct r v got with
  | .stop k => s.stopMacro r.f v k r.eidx
  | .ask need => s.askRow r need
  | .done t => t.passBoundary r v

/-- The bytes of a row that has been stored or read, kept while the way to a tile of another die goes on. -/
def State.keepRow (s : State) (e : Nat) (b : List Byte) : State :=
  s.modElem e fun x => { x with run := x.run.map fun y => { y with reqs := [], trip := {}, need := none, got := some b } }

/-- A boundary with a tile on another die: it goes there, is performed, and comes back; a row is asked for between two such
ways. -/
def State.farBoundary (s : State) (r : Run) (v : RecView) : State :=
  let mts := farMts r.f v
  if r.trip.leg = 0 then s.runLeg r mts false
  else if s.onTrip r.trip then s
  else if r.trip.leg = 1 then
    match s.boundAct r v r.got with
    | .stop k => s.stopMacro r.f v k r.eidx
    | .ask need => (s.runLeg r mts true).modElem r.f.elem fun x => { x with run := x.run.map fun y => { y with need := some need } }
    | .done t => t.runLeg r mts true
  else
    match r.need with
    | some need => s.askRow r need
    | none => s.passBoundary r v

/-- MACRO_BOUNDARY at element `a`: the next boundary is passed, or its row sets out, or the row's requests have come back
(R302). [DEDUCED: log 56] -/
def execMacroBoundary (s : State) : Res :=
  let e := s.at_.a
  let x := s.elem e
  match x.run with
  | none => .next s
  | some r =>
    let v := s.view r.f.key
    if r.eidx ≥ r.total then .next s
    else if !r.reqs.isEmpty then
      match s.engPoll r.reqs with
      | .wait => .next s
      | .bad k d comp _ =>
        .next ((s.engDrop r.reqs).stopMacro r.f v { kind := k, detail := d, comp := some (BitVec.ofNat 64 comp) } r.eidx)
      | .ok b =>
        if farMts r.f v = [] then .next ((s.engDrop r.reqs).nearBoundary r v (some b))
        else .next ((s.engDrop r.reqs).keepRow e b)
    else if x.stop && r.trip.leg = 0 && r.got.isNone then .next (s.parkMacro e r)
    else if farMts r.f v = [] then .next (s.nearBoundary r v none)
    else .next (s.farBoundary r v)

/-! ### Completion (R213) -/

/-- The token that a macro sends (R205). -/
def macroToken (r : Run) (v : RecView) : Token :=
  let f := r.f
  match (macroPorts v).2, v.op.toNat with
  | _, 0x71 => f.base 0 f.t1.val
  | _, 0x70 => f.base 0 f.t2.val
  | _, 0x79 => f.base 0 r.result
  | _, 0x7F => f.base 0 f.t0.val
  | some d, _ => f.base 1 (f.val d)
  | none, _ => f.base 0 (f.val ((addrPort v.op.toNat).getD 0))

/-- Steps 1 to 3: F, DROP and SEQ. [DEDUCED: log 54] [DEDUCED: log 55] -/
def State.finishMacro (s : State) (r : Run) (v : RecView) : State :=
  let f := r.f
  let s1 := match (macroPorts v).2 with
    | some d => s.setF (f.win d).q (f.win d).buf true
    | none => s
  let s2 := (dropPorts v).foldl (fun st p =>
    if dGen (st.desc (f.win p).q (f.win p).buf) = (f.win p).gen then st.dropRef (f.win p).q (f.win p).buf else st) s1
  if v.ord && (v.op == 0x70 || (v.op == 0x71 && v.shape = 0) || v.op == 0xAB) then s2.setSeq f.elem v.accN (f.k + 1)
  else s2

/-- Step 4: the result goes when the output stage has room; until then the pipe holds the macro. -/
def State.sendMacro (s : State) (e : Nat) (r : Run) (v : RecView) : State :=
  let outs := outs1 v (macroToken r v)
  if s.marksAhead e r.f.key || (s.elem e).outStage.length + s.asked e + outs.length > 4 then
    s.modElem e fun x => { x with macroDone := some r }
  else (s.modElem e fun x => { x with macroDone := none }).send r.f v (portB v r.f) outs

/-- R245: a `cmbtacc` arrival sends nothing; its completion counts it. -/
def State.countMacro (s : State) (e : Nat) (r : Run) (v : RecView) : State :=
  match s.countTacc (e / 4) v r.f with
  | .fires s1 g =>
    if (s.elem e).readyQ.length ≥ 64 then s.modElem e fun x => { x with macroDone := some r }
    else s1.modElem e fun x => { x with macroDone := none, readyQ := x.readyQ ++ [g] }
  | .taken s1 => s1.modElem e fun x => { x with macroDone := none }
  | _ => s.modElem e fun x => { x with macroDone := none }

/-- MACRO_COMPLETE at element `a`. [DEDUCED: log 54] -/
def execMacroComplete (s : State) : Res :=
  let e := s.at_.a
  let x := s.elem e
  let out := fun (t : State) (r : Run) =>
    let v := s.view r.f.key
    Host.Outcome.next (if v.op == 0xAB then t.countMacro e r v else t.sendMacro e r v)
  match x.macroDone, x.run with
  | some r, _ => if x.stop then .next s else out s r
  | none, some r =>
    let v := s.view r.f.key
    if r.eidx < r.total || s.onTrip r.trip then .next s
    else if farMts r.f v = [] then out ((s.modElem e fun x => { x with run := none }).finishMacro r v) r
    else if r.trip.leg = 0 then .next (s.runLeg r (farMts r.f v) false)
    else if r.trip.leg = 1 then .next ((s.finishMacro r v).runLeg r (farMts r.f v) true)
    else out (s.modElem e fun x => { x with run := none }) r
  | none, none => .next s

/-! ### lutld (R201, R202) -/

/-- Steps 2 of R201: the handle's checks, and the window's type and size. -/
def State.lutFault (s : State) (h : Word) : Option (Nat × Nat) :=
  match s.handleFault h 0 with
  | some k => some k
  | none => if (winOf h).dt != 12 || (winOf h).count != 1024 then some (fkBOUNDS, 0) else none
/-- The buffer of a `lutld` stands on another die. -/
def lutFar (f : Firing) : Bool := let d := sqDie (winOf f.t0.val).q; d != sqDie f.sq && d < 3

/-- R201: the load begins beside the scalar pipe; a buffer of another die is checked there. -/
def execLutld (r : D2) (s : State) : Res :=
  let v := r.view 0x6A
  let f := s.cur
  let glob := tbit v.lit 7
  let s := s.modElem f.elem fun x => x.useLut (v.lit % 4)
  if glob && !(s.regionOf f.sq).level then fails s v fkPRIV 0
  else
    match if lutFar f then none else s.lutFault f.t0.val with
    | some k => fails s v k.1 k.2
    | none => .next (s.modElem f.elem fun x => { x with lutLoads := x.lutLoads ++ [{ f := f, cfg := v.lit % 4 }] })

/-- R198: the first flaw of a configuration: LUT and cause. [DESIGN CHOICE: log 116] -/
def lutFlaw (l : List Word) : Option (Nat × Nat) :=
  let ctl := fun j => (l[2 * j + 1]?.getD 0).toNat
  (List.range 64).findSome? fun j =>
    let c := ctl j
    if fld c 47 17 != 0 then some (j, 1)
    else if (List.range 6).any fun t => fld c (7 * t) 7 > 81 then some (j, 2)
    else if tbit c 42 && (List.range j).any fun i => tbit (ctl i) 42 && fld (ctl i) 43 4 == fld c 43 4 then some (j, 3)
    else none

/-- Every element of a region (R11). -/
def regionElems (r : Region) : List Nat :=
  r.clusters.flatMap fun c =>
    let d := c / 48
    let n := c % 48
    (List.range 48).flatMap fun i =>
      let x := n % 8 * 8 + i % 8
      let y := n / 8 * 6 + i / 8
      if (x + y) % 2 == 0 then (List.range 4).map fun el => mkSq d x y * 4 + el else []

/-- Replace one element's copy of a configuration. -/
def Elem.setLut (x : Elem) (cfg : Nat) (l : List Word) : Elem :=
  { x.useLut cfg with lut := (l.zip (List.range l.length)).foldl (fun t p => t.put (cfg * 128 + p.2) p.1) x.lut }

/-- The load leaves element `e`'s list. -/
def State.dropLut (s : State) (e : Nat) (l : LutLoad) : State :=
  s.modElem e fun x => { x with lutLoads := x.lutLoads.erase l }

/-- A load under way becomes `x`. -/
def State.putLut (s : State) (e : Nat) (l x : LutLoad) : State :=
  s.modElem e fun y => { y with lutLoads := y.lutLoads.map fun z => if z == l then x else z }
/-- A leg of the way to a buffer of another die. [DEDUCED: log 106] -/
def State.lutLeg (s : State) (e : Nat) (l : LutLoad) (back : Bool) : State :=
  let (t, vs) := s.setLeg l.f [(winOf l.f.t0.val).q] back
  t.putLut e l { l with trip := { leg := l.trip.leg + 1, vias := vs } }

/-- One step of a load under way: reading and checking the image once F = 1, then one element after another; the handle
is sent after the last. [DESIGN CHOICE: log 97] -/
def State.lutStep (s : State) (e : Nat) (l : LutLoad) : State :=
  let v := s.view l.f.key
  let w := winOf l.f.t0.val
  if lutFar l.f && l.trip.leg = 0 && l.image.isEmpty then s.lutLeg e l false
  else if s.onTrip l.trip then s
  else if lutFar l.f && l.trip.leg = 1 && ((s.lutFault l.f.t0.val).isSome || dF (s.desc w.q w.buf)) then s.lutLeg e l true
  else if l.image.isEmpty then
    match s.lutFault l.f.t0.val with
    | some k => (s.dropLut e l).raise l.f v k.1 k.2
    | none =>
      if !dF (s.desc w.q w.buf) then s
      else
        match (List.range w.rows).findSome? fun r => s.elemBad w r 0 w.cols with
        | some pa =>
          (s.dropLut e l).raiseFiring l.f fkECCUE 6 0 (BitVec.ofNat 64 pa) 0
        | none =>
          let b := (List.range 1024).map fun i => s.elemAt w (i / w.cols) (i % w.cols)
          let image := (List.range 128).map fun i => ofLanes 8 ((b.drop (8 * i)).take 8)
          match lutFlaw image with
          | some (j, cause) => (s.dropLut e l).raise l.f v fkLUTCFG (j + cause * 64)
          | none =>
            (List.range w.rows).foldl (fun (st : State) r => st.elemCe w r 0 w.cols)
              (s.putLut e l { l with image := image
                                     left := if tbit v.lit 7 then regionElems (s.regionOf (e / 4)) else [e] })
  else
    match l.left with
    | [] => (s.dropLut e l).sendAnswer (sqDie l.f.sq) l.f v 0 (outs1 v (l.f.base 1 l.f.t0.val))
    | y :: rest => (s.putLut e l { l with left := rest }).modElem y fun x => x.setLut l.cfg l.image

end Sys2Proof.Machine
end

