-- ==== Sys2Proof/Machine/Image.lean ====
section
/-!
DEFINITION. The graph image: its header, sections and nodes (R105 to R107, R121), the quota of each `loopin` (R147), the arcs
and feedback arcs of its nodes (R371), and the checks that Urupo makes (R104 to R108, R140, R198, R246, R249, R277, R308,
R385).
-/
namespace Sys2Proof.Machine

/-- The bytes of a graph image. -/
abbrev Img := List Byte

/-! ### Header and sections (R106, R107) -/

def imgNodes (m : Img) : Nat := u m 0x08 4
def imgFlags (m : Img) : Nat := u m 0x06 2
def imgSuper (m : Img) : Bool := tbit (imgFlags m) 0
def imgPrio (m : Img) : Nat := u m 0x0E 1
def imgFcls (m : Img) : Nat := u m 0x0F 1
def imgSeed (m : Img) : Nat := if tbit (imgFlags m) 1 then u m 0x18 8 else 0
def imgHash (m : Img) : List Byte := (m.drop 0x40).take 32
/-- The graph's name without its padding. [DEDUCED: log 68] -/
def imgName (m : Img) : List Byte := ((m.drop 0x20).take 32).takeWhile (· != 0)

/-- A section descriptor. -/
structure Sec where
  ty : Nat := 0
  count : Nat := 0
  off : Nat := 0
  len : Nat := 0
  deriving DecidableEq, Repr, Inhabited

def secAt (m : Img) (o : Nat) : Sec := { ty := u m o 2, count := u m (o + 4) 4, off := u m (o + 8) 4, len := u m (o + 12) 4 }
def imgSecs (m : Img) : List Sec := (List.range (u m 0x0C 2)).map fun i => secAt m (0x80 + 16 * i)
/-- The section of a type; an absent one has no entry. -/
def imgSec (m : Img) (ty : Nat) : Sec := ((imgSecs m).find? fun x => x.ty == ty).getD {}
/-- Bytes of one entry of a section; `.const` data has no fixed size. -/
def secEntry (ty : Nat) : Option Nat :=
  match ty with
  | 1 | 4 | 5 | 8 | 9 => some 16
  | 3 => some 32
  | 6 => some 80
  | 7 => some 1040
  | 0xA | 0xB | 0xC => some 4
  | _ => none
/-- Offset of entry `i` of a section of fixed entries. -/
def secOff (m : Img) (ty i : Nat) : Nat := (imgSec m ty).off + i * (secEntry ty).getD 0
/-- The indices of a section's entries. -/
def secIxs (m : Img) (ty : Nat) : List Nat := List.range (imgSec m ty).count

/-! ### Entries (R107, R121) -/

/-- [DESIGN CHOICE: log 82] -/
def imgRecord (m : Img) (i : Nat) : Rec96 := BitVec.ofNat 96 (u m (secOff m 1 i) 12)
def imgView (m : Img) (i : Nat) : RecView := viewOfRecord (imgRecord m i)
/-- The PLACE word: the hinted die, and the region index. -/
def imgPlace (m : Img) (i : Nat) : Nat := u m (secOff m 1 i + 12) 4
def imgHint (m : Img) (i : Nat) : Option Nat := if tbit (imgPlace m i) 31 then some (fld (imgPlace m i) 29 2) else none
def imgRegion (m : Img) (i : Nat) : Nat := fld (imgPlace m i) 25 4

/-- 0xFFFF_FFFF in an index field. -/
def noIndex : Nat := 0xFFFFFFFF
def optIndex (n : Nat) : Option Nat := if n = noIndex then none else some n

/-- A `.tile` entry: DT, rows, columns, depth, NEAR, and the canonical destination of its handles. -/
structure ITile where
  dt : Nat := 0
  rows : Nat := 1
  cols : Nat := 1
  depth : Nat := 1
  near : Option Nat := none
  dst : Option Nat := none
  deriving DecidableEq, Repr, Inhabited
def imgTile (m : Img) (i : Nat) : ITile :=
  let o := secOff m 3 i
  { dt := u m o 1, rows := u m (o + 1) 1 + 1, cols := u m (o + 2) 1 + 1, depth := u m (o + 3) 1,
    near := optIndex (u m (o + 4) 4), dst := optIndex (u m (o + 8) 4) }
/-- R311, R310: the row stride of a buffer and its bytes. -/
def ITile.stride (t : ITile) : Nat := (t.cols * dtW t.dt + 63) / 64 * 8
def ITile.bytes (t : ITile) : Nat := (t.rows * t.stride + (if dtMx t.dt then 4 * t.rows else 0) + 63) / 64 * 64
/-- The length of the dense layout (R121, R217, R385): the codes, and rows × cols / 32 scale bytes of an MX tile. [DESIGN CHOICE: log 88] -/
def ITile.dense (t : ITile) : Nat := t.rows * rowBytes t.cols (dtW t.dt) + if dtMx t.dt then t.rows * t.cols / 32 else 0

/-- The `.const` entries: the TILES index and the data. -/
def imgConsts (m : Img) (n o : Nat) : List (Nat × List Byte) :=
  match n with
  | 0 => []
  | n + 1 =>
    let len := u m (o + 4) 4
    (u m o 4, (m.drop (o + 16)).take len) :: imgConsts m n (o + 16 + (len + 15) / 16 * 16)
/-- `n` bytes from an offset on are 0. -/
def zeros (m : Img) (o n : Nat) : Bool := (m.drop o).take n |>.all (· == 0)

/-- The bytes of the CONST section that R121 has as 0: the rest of each head, and the padding. -/
def constZeros (m : Img) (n o : Nat) : Bool :=
  match n with
  | 0 => true
  | n + 1 =>
    let len := u m (o + 4) 4
    let pad := (len + 15) / 16 * 16
    zeros m (o + 8) 8 && zeros m (o + 16 + len) (pad - len) && constZeros m n (o + 16 + pad)
def constsOf (m : Img) : List (Nat × List Byte) := imgConsts m (imgSec m 2).count (imgSec m 2).off

def imgCap (m : Img) (i : Nat) : Nat := u m (secOff m 4 i) 4
def imgQueueNear (m : Img) (i : Nat) : Option Nat := optIndex (u m (secOff m 4 i + 4) 4)
def imgBarNear (m : Img) (i : Nat) : Option Nat := optIndex (u m (secOff m 5 i) 4)

/-- A template entry of 80 bytes (R121): queue, source, destination, element bytes and levels. -/
structure ITmpl where
  queue : Nat := 0
  src : Nat := 0
  dst : Nat := 0
  esize : Nat := 1
  levels : List (Nat × Int) := []
  deriving DecidableEq, Repr, Inhabited
def tmplAt (m : Img) (o : Nat) : ITmpl :=
  { queue := u m (o + 1) 1, src := u m (o + 2) 2, dst := u m (o + 4) 2, esize := u m (o + 6) 2,
    levels := (List.range (u m o 1)).map fun l =>
      (u m (o + 16 + 8 * l) 4, (BitVec.ofNat 32 (u m (o + 20 + 8 * l) 4)).toInt) }
def imgTmpl (m : Img) (i : Nat) : ITmpl := tmplAt m (secOff m 6 i)
def ITmpl.bytes (t : ITmpl) : Nat := t.esize * t.levels.foldl (fun n p => n * p.1) 1

/-- A LUTS entry: node, configuration and the 128 words (R198). -/
def imgLut (m : Img) (i : Nat) : Nat × Nat × List Byte :=
  let o := secOff m 7 i
  (u m o 4, u m (o + 4) 1, (m.drop (o + 16)).take 1024)
def wordsOf (b : List Byte) (n : Nat) : List Word := (List.range n).map fun i => BitVec.ofNat 64 (u b (8 * i) 8)

def imgEntries (m : Img) : List Nat := (secIxs m 0xA).map fun i => u m (secOff m 0xA i) 4
def imgFault (m : Img) : Option Nat := if (imgSec m 0xB).count = 0 then none else some (u m (secOff m 0xB 0) 4)

/-- R335: clusters and mode of each region: REGIONS, or the one region of CLUST, sized from NNODE when that is 0. -/
def imgRegions (m : Img) : List (Nat × Bool) :=
  if (imgSec m 0xC).count = 0 then
    let c := u m 0x10 2
    [(if c = 0 then max 1 ((imgNodes m + 98303) / 98304) else c, false)]
  else (secIxs m 0xC).map fun i => (u m (secOff m 0xC i) 2, u m (secOff m 0xC i + 2) 1 == 1)
/-- The mode of a node's region. -/
def imgStatic (m : Img) (i : Nat) : Bool := (((imgRegions m)[imgRegion m i]?).getD (1, false)).2

/-! ### Arcs -/

/-- The canonical destinations that a record uses (R90, R98): DESTA, and DESTB where it sends or keeps it. -/
def usedDests (v : RecView) : List Nat :=
  if v.op.toNat ≥ 0xD0 then []
  else match v.hdr.ndest.toNat with
    | 0 => []
    | 1 => [v.destA.toNat]
    | _ => [v.destA.toNat, v.destB.toNat]
/-- The node of this image that a canonical destination names, with its port (R105). -/
def nodeOf (c : Nat) : Option (Nat × Nat) := if fld c 26 2 = 0 then some (fld c 2 24, fld c 0 2) else none
/-- The arcs out of a node, within the image. -/
def arcsOut (m : Img) (i : Nat) : List (Nat × Nat) := (usedDests (imgView m i)).filterMap nodeOf

/-! ### Quotas (R147) -/

/-- The instruction forms its own output tag, or sends into the parent. -/
def ownTag (op : Nat) : Bool := [0x10, 0x12, 0x13, 0x14, 0x15, 0x18, 0x19, 0x1A, 0x1D].contains op
/-- A node sends into its frame's parent: `loopout`, `leave` and TG 3. -/
def toParent (v : RecView) : Bool := v.op == 0x19 || v.op == 0x13 || v.hdr.tg == 3
def isLoopin (m : Img) (i : Nat) : Bool := (imgView m i).op == 0x18

/-- What can be reached from `todo`, which has no repeats, by arcs, in at most `n` visits; each visit is to a place of its own. -/
def closure (arcs : Nat → List Nat) (n : Nat) (todo seen : List Nat) : List Nat :=
  match n, todo with
  | 0, _ | _, [] => seen
  | n + 1, i :: rest =>
    let new := (arcs i).eraseDups.filter fun j => j != i && !rest.contains j && !seen.contains j
    closure arcs n (rest ++ new) (seen ++ [i])

/-- The body of a `loopin`, with loops nested at most `depth` deep. -/
def loopBody (m : Img) (depth l : Nat) : List Nat :=
  match depth with
  | 0 => []
  | d + 1 =>
    let arcs := fun i =>
      let v := imgView m i
      let out := (arcsOut m i).map (·.1)
      if v.op == 0x18 then
        (if v.hdr.ndest == 3 then (nodeOf v.destB.toNat).toList.map (·.1) else []) ++
        ((loopBody m d i).filter fun j => toParent (imgView m j)).flatMap fun j => (arcsOut m j).map (·.1)
      else if v.op == 0x12 then out
      else if ownTag v.op.toNat || v.hdr.tg == 3 || v.hdr.tg == 4 then []
      else out
    let start := (nodeOf (imgView m l).destA.toNat).toList.map (·.1)
    closure arcs (imgNodes m + 1) (if (imgView m l).hdr.ndest = 0 then [] else start) []

/-- The quota of a `loopin`; 4,096 stands for any quota above 4,095. -/
def quotaOf (m : Img) (depth l : Nat) : Nat :=
  match depth with
  | 0 => 4096
  | d + 1 =>
    let inner := (loopBody m (d + 1) l).filter (isLoopin m)
    min 4096 (inner.foldl (fun n i => n + (imgView m i).lit * (1 + quotaOf m d i)) 0)
def imgQuota (m : Img) (l : Nat) : Nat :=
  quotaOf m (((List.range (imgNodes m)).filter (isLoopin m)).length + 1) l

/-! ### NIN and feedback arcs (R371) -/

/-- The depth-first walk: the stack of nodes with the arcs still to follow, the nodes seen and the feedback arcs found. -/
def walkArcs (m : Img) (n : Nat) (stack : List (Nat × List (Nat × Nat))) (seen : List Nat) (fb : List (Nat × Nat × Nat)) :
    List Nat × List (Nat × Nat × Nat) :=
  match n, stack with
  | 0, _ | _, [] => (seen, fb)
  | n + 1, (_, []) :: rest => walkArcs m n rest seen fb
  | n + 1, (i, (j, p) :: more) :: rest =>
    let st := (i, more) :: rest
    if st.any fun x => x.1 == j then walkArcs m n st seen (fb ++ [(i, j, p)])
    else if seen.contains j then walkArcs m n st seen fb
    else walkArcs m n ((j, arcsOut m j) :: st) (seen ++ [j]) fb

/-- The feedback arcs: source node, node and port. -/
def imgFeedback (m : Img) : List (Nat × Nat × Nat) :=
  ((imgEntries m).foldl (fun st e =>
    if st.1.contains e then st else walkArcs m (4 * imgNodes m + 8) [(e, arcsOut m e)] (st.1 ++ [e]) st.2) ([], [])).2

/-- NIN of every node: each (source, port) pair once, an injection and a queue as one arc each, feedback arcs left out. -/
def imgNins (m : Img) : List Nat :=
  let fb := imgFeedback m
  let all := (List.range (imgNodes m)).flatMap fun i => ((arcsOut m i).eraseDups.filter fun a => !fb.contains (i, a.1, a.2))
  (List.range (imgNodes m)).map fun j =>
    (all.filter fun a => a.1 == j).length + ((imgEntries m).filter (· == j)).length + ((imgView m j).op == 0xB1).toNat

/-! ### Header and section checks (R106 to R108) -/

/-- Two ranges of bytes that share none. -/
def apart (a la b lb : Nat) : Bool := a + la ≤ b || b + lb ≤ a || la == 0 || lb == 0
def pairsOk {α : Type} (p : α → α → Bool) : List α → Bool
  | [] => true
  | a :: rest => rest.all (p a) && pairsOk p rest

def headerOk (m : Img) : Bool :=
  u m 0 4 == 0x4947334E && u m 4 2 == 1 && imgFlags m < 4 && 1 ≤ imgNodes m && imgNodes m ≤ 16777216 &&
  1 ≤ u m 0x0C 2 && u m 0x0C 2 ≤ 32 && imgPrio m ≤ 7 && imgFcls m ≤ 2 && u m 0x10 2 ≤ 144 && u m 0x12 2 == 0 &&
  u m 0x14 4 == m.length && m.length % 16 == 0 && 0x80 + 16 * u m 0x0C 2 ≤ m.length && zeros m 0x60 32

/-- [DESIGN CHOICE: log 90] -/
def secOk (m : Img) (i : Nat) : Bool :=
  let o := 0x80 + 16 * i
  let x := secAt m o
  let tool := x.ty ≥ 0x8000
  let size := match secEntry x.ty with | some n => x.len == x.count * n | none => true
  ((1 ≤ x.ty && x.ty ≤ 0xC) || tool) && u m (o + 2) 2 == 0 && x.off % 16 == 0 && x.off + x.len ≤ m.length &&
  apart x.off x.len 0 (0x80 + 16 * u m 0x0C 2) && (tool || size)

def secsOk (m : Img) : Bool :=
  let l := imgSecs m
  let n := fun ty => (l.filter fun x => x.ty == ty).length
  ((List.range l.length).all (secOk m)) && pairsOk (fun a b => apart a.off a.len b.off b.len) l &&
  n 1 == 1 && n 0xA == 1 && [2, 3, 4, 5, 6, 7, 8, 9, 0xB, 0xC].all (fun ty => n ty ≤ 1) &&
  (imgSec m 1).count == imgNodes m && 1 ≤ (imgSec m 0xA).count &&
  (n 0xB == 0 || (imgSec m 0xB).count == 1) && (n 0xC == 0 || (1 ≤ (imgSec m 0xC).count && (imgSec m 0xC).count ≤ 16))

/-- R108. -/
def hashOk (m : Img) : Bool := sha256 (m.take 0x40 ++ List.replicate 32 0 ++ m.drop 0x60) == imgHash m

/-! ### Declarations -/

/-- A canonical destination names something that can be named (R105). -/
def canonOk (m : Img) (c : Nat) : Bool :=
  let ix := fld c 2 24
  let p := fld c 0 2
  c < 2 ^ 28 &&
  match fld c 26 2 with
  | 0 => ix < imgNodes m && p ≤ 2
  | 1 => ix < (imgSec m 8).count && p ≤ 2
  | 2 => ix < (imgSec m 9).count && p == 0
  | _ => false
def nearOk (m : Img) (o : Option Nat) : Bool := match o with | some i => i < imgNodes m | none => true

def tileOk (m : Img) (i : Nat) : Bool :=
  let t := imgTile m i
  t.dt ≤ 0xD && t.rows ≤ 64 && t.cols ≤ 128 && 1 ≤ t.depth && t.depth ≤ 8 && nearOk m t.near &&
  (match t.dst with | some c => canonOk m c | none => true) && zeros m (secOff m 3 i + 12) 20 &&
  t.depth * t.bytes ≤ 2097152
/-- [DESIGN CHOICE: log 92] [DESIGN CHOICE: log 113] -/
def constsFit (m : Img) : Bool :=
  let l := constsOf m
  (l.foldl (fun n p => n + 16 + (p.2.length + 15) / 16 * 16) 0) == (imgSec m 2).len &&
  constZeros m (imgSec m 2).count (imgSec m 2).off &&
  l.all fun p => p.1 < (imgSec m 3).count && p.2.length ≤ (imgTile m p.1).dense
def capOk (n : Nat) : Bool := [16, 32, 64, 128, 256, 512, 1024, 2048, 4096, 8192, 16384, 32768, 65536].contains n
def queueOk (m : Img) (i : Nat) : Bool := capOk (imgCap m i) && nearOk m (imgQueueNear m i) && imgCap m i * 16 ≤ 2097152
def barOk (m : Img) (i : Nat) : Bool := nearOk m (imgBarNear m i) && zeros m (secOff m 5 i + 4) 12
def sideOk (m : Img) (n bytes : Nat) : Bool :=
  n == 0xFFFF || (n < (imgSec m 3).count && (imgTile m n).dense == bytes)
def tmplOk (m : Img) (i : Nat) : Bool :=
  let t := imgTmpl m i
  let o := secOff m 6 i
  1 ≤ t.levels.length && t.levels.length ≤ 8 && t.queue < (imgSec m 4).count && [1, 2, 4, 8].contains t.esize &&
  t.levels.all (fun p => 1 ≤ p.1) && zeros m (o + 16 + 8 * t.levels.length) (8 * (8 - t.levels.length)) && zeros m (o + 8) 8 &&
  !(t.src == 0xFFFF && t.dst == 0xFFFF) && sideOk m t.src t.bytes && sideOk m t.dst t.bytes
def lutEntryOk (m : Img) (i : Nat) : Bool :=
  let l := imgLut m i
  l.1 < imgNodes m && l.2.1 ≤ 3 && zeros m (secOff m 7 i + 5) 11 && (lutFlaw (wordsOf l.2.2 128)).isNone
def importOk (m : Img) (i : Nat) : Bool := u m (secOff m 8 i + 12) 1 ≤ 2 && zeros m (secOff m 8 i + 13) 3
def endpointOk (m : Img) (i : Nat) : Bool :=
  let o := secOff m 9 i
  let die := u m (o + 1) 1
  let n := u m (o + 2) 2
  let p := u m (o + 4) 1
  zeros m (o + 5) 11 &&
  match u m o 1 with
  | 0 => die ≤ 2 && n ≤ 255 && p == 0
  | 1 => die == 0 && n < 4096 && fld n 8 3 ≤ 2 && p ≤ 3
  | _ => false
def regionOk (m : Img) (i : Nat) : Bool :=
  let o := secOff m 0xC i
  1 ≤ u m o 2 && u m o 2 ≤ 144 && u m (o + 2) 1 ≤ 1 && u m (o + 3) 1 == 0

/-- Every declaration section is sound. [DESIGN CHOICE: log 92] -/
def declsOk (m : Img) : Bool :=
  (secIxs m 3).all (tileOk m) && constsFit m && (imgSec m 4).count ≤ 256 && (secIxs m 4).all (queueOk m) &&
  (imgSec m 5).count ≤ 32 && (secIxs m 5).all (barOk m) && (secIxs m 6).all (tmplOk m) &&
  pairsOk (fun a b => a != b) ((secIxs m 6).map fun i => (imgTmpl m i).queue) && (secIxs m 7).all (lutEntryOk m) &&
  (secIxs m 8).all (importOk m) && (secIxs m 9).all (endpointOk m) && (imgEntries m).all (· < imgNodes m) &&
  (match imgFault m with | some i => i < imgNodes m | none => true) && (secIxs m 0xC).all (regionOk m)

/-! ### Node checks (R84 to R105, R140, R147, R246, R249, R277) -/

/-- The slots that a record uses stay inside the graph's frame class (R93). -/
def spanFits (m : Img) (v : RecView) : Bool :=
  match opInfo v.op.toNat with
  | some i => let n := slotSpan i v; n == 0 || v.slot + n ≤ clsSlots (BitVec.ofNat 2 (imgFcls m))
  | none => false
/-- The destination fields that NDEST does not use are 0 (R98). -/
def unusedZero (v : RecView) : Bool :=
  v.op.toNat ≥ 0xD0 ||
  (match v.hdr.ndest.toNat with | 0 => v.destA == 0 && v.destB == 0 | 1 => v.destB == 0 | _ => true)
def isQueueOp (op : Nat) : Bool := 0xB0 ≤ op && op ≤ 0xB6
def isBarOp (op : Nat) : Bool := 0xB9 ≤ op && op ≤ 0xBB
def hasTmpl (m : Img) (q : Nat) : Bool := (secIxs m 6).any fun i => (imgTmpl m i).queue == q
/-- R140: a class literal of `falloc`, `call` or `spawn` is FCLS of the image that holds its DESTA's node. -/
def clsOk (m : Img) (fclsOf : Nat → Nat) (v : RecView) : Bool :=
  let op := v.op.toNat
  if (op == 0x10 || op == 0x14 || op == 0x1A) && v.hdr.ndest != 0 then
    match fld v.destA.toNat 26 2 with
    | 0 => v.lit == imgFcls m
    | 1 => v.lit == fclsOf (fld v.destA.toNat 2 24)
    | _ => true
  else true

/-- Whether node `i` passes every check; `found` tells which imports are provided, and `fclsOf` their frame class. -/
def nodeOk (m : Img) (found : Nat → Bool) (fclsOf : Nat → Nat) (i : Nat) : Bool :=
  let v := imgView m i
  let op := v.op.toNat
  let q := v.lit % 256
  let pl := imgPlace m i
  (recordError v).isNone && !(supervisorOnly v && !imgSuper m) && unusedZero v && spanFits m v &&
  (usedDests v).all (fun c => canonOk m c && !(fld c 26 2 == 1 && !found (fld c 2 24))) && clsOk m fclsOf v &&
  fld pl 29 2 != 3 && fld pl 0 25 == 0 && imgRegion m i < (imgRegions m).length && (decide (op ≥ 0xD0) == imgStatic m i) &&
  !(isQueueOp op && (q ≥ (imgSec m 4).count || (op == 0xB1 && hasTmpl m q) || (op == 0xB5 && !hasTmpl m q))) &&
  !(isBarOp op && v.lit % 32 ≥ (imgSec m 5).count) && !(op == 0x18 && imgQuota m i ≥ 4095)

/-- R277: the rings of an image are its runs of S-form records with SPOS 0, 1, 2 and so on; the first record that leaves
a gap. -/
def ringGap (m : Img) : Option Nat :=
  (List.range (imgNodes m)).find? fun i =>
    let v := imgView m i
    v.op.toNat ≥ 0xD0 && v.spos != 0 &&
    !(i ≥ 1 && (imgView m (i - 1)).op.toNat ≥ 0xD0 && (imgView m (i - 1)).spos + 1 == v.spos && imgRegion m (i - 1) == imgRegion m i)

/-- The argument of an IMAGE failure; none when Urupo accepts the image. [DEDUCED: log 69] [DESIGN CHOICE: log 82] -/
def imageFault (m : Img) (found : Nat → Bool) (fclsOf : Nat → Nat) : Option Nat :=
  if !(headerOk m && secsOk m && hashOk m && declsOk m) then some noIndex
  else
    let bad := (List.range (imgNodes m)).find? fun i => !nodeOk m found fclsOf i
    let least := match bad, ringGap m with
      | some a, some b => some (min a b)
      | some a, none => some a
      | none, b => b
    match least with
    | some i => some i
    | none =>
      -- an import that no node's destination names
      if (secIxs m 8).any fun i => !found i then some noIndex else none

end Sys2Proof.Machine
end

