-- ==== Sys2Proof/Machine/Lanes.lean ====
section
/-!
DEFINITION. Group 0x5: conversions (R181 to R183) and lane operations (R184 to R193).
-/
namespace Sys2Proof.Machine

/-! ### Conversions -/

/-- One lane converted between two types that are neither equal nor b64 (R68 to R70, R182). -/
def convLane (a b : Nat) (r : Rnd) (x : Nat) : Nat × Flags :=
  let wa := tyW a
  let wb := tyW b
  if tyIsFloat a then
    if tyIsFloat b then (fmtOfTy b).pack r ((fmtOfTy a).value x) else toInt (fmtOfTy a) r (tySigned b) wb x
  else
    let i := laneInt (tySigned a) wa x
    if tyIsFloat b then (fmtOfTy b).ofInt r i else fitInt true (tySigned b) wb i

/-- R182: a whole value converted; `first` is the number of the first destination lane, for the random bits. -/
def convert (a b : Nat) (rnd : Nat → Rnd) (x : Word) : Word × Flags :=
  if a = b ∨ a = 14 ∨ b = 14 then (x, 0)
  else
    let n := min (tyN a) (tyN b)
    mkLanesF n (tyW b) fun i => convLane a b (rnd i) (lane (tyW a) x i)

def execCvt (r : D2) (s : State) : Res :=
  let v := r.view 0x50; finish1 s v (convert v.tyN (v.lit % 16) (s.rnd v) s.opA)
def execCvtfi (r : D2) (s : State) : Res :=
  let v := r.view 0x51; finish1 s v (convert v.tyN (v.lit % 16) (s.rnd v) s.opA)
def execCvtif (r : D2) (s : State) : Res :=
  let v := r.view 0x52; finish1 s v (convert v.tyN (v.lit % 16) (s.rnd v) s.opA)
/-- R183: the seed is the port-1 value. -/
def execCvtsr (r : D2) (s : State) : Res :=
  let v := r.view 0x53
  finish1 s v (convert v.tyN (v.lit % 16) (fun i => rndOf v.opfN s.cur.t1.val s.cur.t0.fx.toNat i) s.opA)

/-! ### Lane moves -/

/-- Negation of a lane: the sign bit for floats, two's complement otherwise (R185). -/
def negLane (t x : Nat) : Nat :=
  let w := tyW t
  if tyIsFloat t then x % 2 ^ (w - 1) + (if tbit x (w - 1) then 0 else 2 ^ (w - 1)) else (2 ^ w - x) % 2 ^ w
def execVswap2 (r : D2) (s : State) : Res :=
  let v := r.view 0x54
  let t := v.tyN
  finish1 s v (mkLanes (tyN t) (tyW t) fun i =>
    let x := lane (tyW t) s.opA (if i % 2 = 0 then i + 1 else i - 1)
    if tbit v.lit i then negLane t x else x, 0)

/-- R186: byte i of the control chooses output lane i. -/
def execVperm (r : D2) (s : State) : Res :=
  let v := r.view 0x55
  let t := v.tyN
  finish1 s v (mkLanes (tyN t) (tyW t) fun i =>
    let c := lane 8 (s.opB v) i
    if tbit c 7 then 0 else lane (tyW t) s.opA (c % 8 % tyN t), 0)
def execVbcast (r : D2) (s : State) : Res :=
  let v := r.view 0x56
  let t := v.tyN
  finish1 s v (mkLanes (tyN t) (tyW t) fun _ => lane (tyW t) s.opA v.lit, 0)
def execVins (r : D2) (s : State) : Res :=
  let v := r.view 0x57
  let t := v.tyN
  finish1 s v (mkLanes (tyN t) (tyW t) fun i =>
    if i = v.lit then (s.opB v).toNat % 2 ^ tyW t else lane (tyW t) s.opA i, 0)
def execVext (r : D2) (s : State) : Res :=
  let v := r.view 0x58
  let t := v.tyN
  finish1 s v (BitVec.ofInt 64 (laneInt (tySigned t) (tyW t) (lane (tyW t) s.opA v.lit)), 0)

/-- R188: the lanes of a, then the lanes of b, converted; the random bits count output lanes. -/
def execVpack (r : D2) (s : State) : Res :=
  let v := r.view 0x59
  let t := v.tyN
  let d := v.lit % 16
  let n := tyN t
  finish1 s v (mkLanesF (2 * n) (tyW d) fun i =>
    convLane t d (s.rnd v i) (if i < n then lane (tyW t) s.opA i else lane (tyW t) (s.opB v) (i - n)))

/-- R189: half of the lanes of a, each converted exactly into twice the width. -/
def unpackFrom (v : RecView) (a : Word) (first : Nat) : Word × Flags :=
  let d := v.lit % 16
  mkLanesF (tyN d) (tyW d) fun i => convLane v.tyN d rne (lane (tyW v.tyN) a (first + i))
def execVunpk (r : D2) (s : State) : Res :=
  let v := r.view 0x5A
  finish2 s v (unpackFrom v s.opA 0) (unpackFrom v s.opA (tyN (v.lit % 16)))

/-- The lanes of a value, as integers and as floats. -/
def intsOf (t : Nat) (x : Word) : List Int :=
  (List.range (tyN t)).map fun i => laneInt (tySigned t) (tyW t) (lane (tyW t) x i)
def fltsOf (t : Nat) (x : Word) : List FVal :=
  (List.range (tyN t)).map fun i => (fmtOfTy t).value (lane (tyW t) x i)

/-- R190. -/
def execVsum (r : D2) (s : State) : Res :=
  let v := r.view 0x5B
  let t := v.tyN
  if tyIsInt t then finish1 s v (BitVec.ofInt 64 ((intsOf t s.opA).foldl (· + ·) 0), 0)
  else
    let f := fmtOfTy t
    let rd := s.rnd v 0
    let p := f.packSum rd (sumVals rd.mode (fltsOf t s.opA))
    finish1 s v (BitVec.ofNat 64 p.1, p.2)

def execVmask (r : D2) (s : State) : Res :=
  let v := r.view 0x5C
  let t := v.tyN
  finish1 s v (mkLanes (tyN t) (tyW t) fun i => if tbit (s.opB v).toNat i then lane (tyW t) s.opA i else 0, 0)
def execVsel (r : D2) (s : State) : Res :=
  let v := r.view 0x5D
  let t := v.tyN
  finish1 s v (mkLanes (tyN t) (tyW t) fun i =>
    if lane (tyW t) s.opA i != 0 then lane (tyW t) (s.opB v) i else lane (tyW t) s.opC i, 0)
/-- R193: bit i tells whether the comparison holds for byte i. -/
def execVbcmp (r : D2) (s : State) : Res :=
  let v := r.view 0x5E
  finish1 s v (mkLanes 8 1 fun i =>
    if condHolds v.opfN (ordInt (lane 8 s.opA i) v.lit) then 1 else 0, 0)

/-- R191: the exact sum of the exact products, rounded once to FP32. [DESIGN CHOICE: log 115] -/
def execVdot (r : D2) (s : State) : Res :=
  let v := r.view 0x5F
  let t := v.tyN
  if tyIsInt t then
    finish1 s v (BitVec.ofInt 64 ((List.zipWith (· * ·) (intsOf t s.opA) (intsOf t (s.opB v))).foldl (· + ·) 0), 0)
  else
    let rd := s.rnd v 0
    let ps := List.zipWith mulVals (fltsOf t s.opA) (fltsOf t (s.opB v))
    let p := fp32.packSum rd (sumVals rd.mode (ps.map (·.1)))
    finish1 s v (BitVec.ofNat 64 p.1, p.2 ||| orAll (ps.map (·.2)))

end Sys2Proof.Machine
end

