-- ==== Sys2Proof/Machine/Marker.lean ====
section
/-!
DEFINITION. Marker rounds (R267, R371, R372): sources inject markers, nodes count them on their arcs and pass them on, an
element enters a round after its nodes, and the round closes after the load's elements.
-/
namespace Sys2Proof.Machine

/-- A pre-emption at a cut of the load is under way (R366). -/
def State.cutting (s : State) (lid : Nat) : Bool :=
  s.dies.any fun d => match d.2.pm with | some p => p.lid == lid && p.grade == 2 | none => false

/-- The destinations that a node sends markers to. -/
def State.markDests (s : State) (n : Nat) : List (BitVec 28) :=
  let v := s.view n
  let rids := (s.load (s.lidOf (n / 4096))).regions
  let l := match v.hdr.ndest.toNat with
    | 0 => []
    | 1 => [v.destA]
    | _ => [v.destA, v.destB]
  l.filter fun d => destDie d != 3 && !(destIsMt d && !rids.contains (s.ridOf (destSq d)))

/-- A marker of round `r` for a destination on a route tag (R267). -/
def markToken (r : Nat) (d : BitVec 28) (rt : Nat) : Token :=
  addressed d { kind := 2, val := BitVec.ofNat 64 r, rt := BitVec.ofNat 2 rt }

/-- The element enters the round once every node on it has; under a cut it stops there (R366, R372). -/
def State.tryEnter (s : State) (e : Nat) : State :=
  let x := s.elem e
  if !x.entered && x.nodes.all fun p => x.inRound.contains p.1 then
    s.modElem e fun x => { x with entered := true, stop := x.stop || s.cutting (s.lidOf (e / 4)) }
  else s

/-- A node enters the round: its arcs let their tokens go, and it sends four markers to each destination. -/
def State.enterNode (s : State) (n : Nat) : State :=
  let e := n / 1024
  let lid := s.lidOf (e / 4)
  let r := (s.load lid).round.getD 0
  let out := (s.markDests n).flatMap fun d => (List.range 4).map fun rt =>
    ({ toks := [{ tok := markToken r d rt, src := n, lid := lid }] } : Answer)
  (s.modElem e fun x =>
    { x with inRound := n % 1024 :: x.inRound, marked := x.marked.filter fun m => m.1 != n % 1024
             answers := x.answers ++ out }).tryEnter e

/-- A node has received `m` more markers of the open round. [DEDUCED: log 62] -/
def State.countMarks (s : State) (n m : Nat) : State :=
  let e := n / 1024
  let x := s.elem e
  if x.inRound.contains (n % 1024) then s
  else
    let c := x.marks.look (n % 1024) + m
    let s1 := s.modElem e fun x => { x with marks := x.marks.put (n % 1024) c }
    if c ≥ 4 * x.nin.look (n % 1024) then s1.enterNode n else s1

/-- A marker that a `qpop` finds counts on the node's queue arc, four in all. [DEDUCED: log 62] -/
def State.countQueueMark (s : State) (n : Nat) : State :=
  let x := s.elem (n / 1024)
  let k := x.markIn.look (n % 1024)
  if k ≥ 4 then s
  else (s.modElem (n / 1024) fun x => { x with markIn := x.markIn.put (n % 1024) (k + 1) }).countMarks n 1

/-- The elements of a load that hold nodes. -/
def State.loadElems (s : State) (lid : Nat) : List Nat :=
  (s.elems.filter fun p => s.lidOf (p.1 / 4) == lid && !p.2.nodes.isEmpty).map (·.1)

/-- Every source of the load injects its markers (R267): its entry nodes, its queues that take tokens from outside, its
address-generator streams and its converters that feed a queue. -/
def State.openRound (s : State) (lid r : Nat) : State :=
  let s0 := s.modLoad lid fun l => { l with round := some r }
  let s1 := (s0.loadElems lid).foldl (fun st e =>
    let x := st.elem e
    (x.nodes.filter fun p => x.nin.look p.1 == 0).foldl (fun t p => t.countMarks (e * 1024 + p.1) 0) st |>.tryEnter e) s0
  let s2 := ((s1.load lid).entries).foldl (fun st d => st.countMarks (destKey d) 4) s1
  let fed := s2.mts.flatMap fun p =>
    if s2.lidOf p.1 == lid then
      (p.2.streams.filter fun x => x.2.on && !(p.2.ag.look (x.2.units.getLast?.getD 0)).ctl.getLsbD 24).map
          (fun x => p.1 * 4 + fld (p.2.ag.look (x.2.units.getLast?.getD 0)).ctl.toNat 22 2) ++
        (p.2.conv.filter fun x => x.1 % 2 == 1 && x.2.bind.getLsbD 2).map fun x => p.1 * 4 + fld x.2.bind.toNat 0 2
    else []
  ((s2.load lid).extQueues ++ fed).foldl (fun st k =>
    (List.range 4).foldl (fun t rt => t.sendFrom (k / 4) lid (markToken r (BitVec.ofNat 28 (k / 4 * 2 ^ 14 + k % 4 * 4)) rt))
      st) s2

/-- The round is over in every element. -/
def State.closeRound (s : State) (lid : Nat) : State :=
  let s1 := s.modLoad lid fun l => { l with round := none }
  (s1.loadElems lid).foldl (fun st e => st.modElem e fun x =>
    { x with marks := [], markIn := [], marked := [], inRound := [], entered := false }) s1

/-- A `mark` opens its round and sends its word. -/
def State.markOpens (s : State) (lid : Nat) (f : Firing) : State :=
  let v := s.view f.key
  (s.openRound lid (f.t0.val.toNat % 2 ^ 16)).sendAnswer (sqDie f.sq) f v 0 (outs1 v (f.base 0 f.t0.val))

/-- The round closes once every element of the load has entered; the next `mark` that waits opens its own. -/
def State.settleRound (s : State) (lid fuel : Nat) : State :=
  match fuel, (s.load lid).round with
  | 0, _ => s
  | _, none => s
  | n + 1, some _ =>
    if (s.loadElems lid).all fun e => (s.elem e).entered then
      let s1 := s.closeRound lid
      match (s1.load lid).marksWait with
      | [] => s1
      | f :: rest => ((s1.modLoad lid fun l => { l with marksWait := rest }).markOpens lid f).settleRound lid n
    else s

/-- MARKER_ARRIVAL of stage entry `b` at element `a`. Markers on feedback arcs, and markers of no open round, are
discarded; during a withdrawal a marker goes to the park buffer with the other tokens (R366). -/
def execMarkerArrival (s : State) : Res :=
  let e := s.at_.a
  let i := s.at_.b
  let x := s.elem e
  match x.stage[i]? with
  | none => .next s
  | some fl =>
    if fl.tok.kind != 2#2 || heldBack x.stage i fl then .next s
    else
      let st := s.modElem e fun x => x.without i
      let s0 := if fl.link < 5 then st.touchFx (e / 4) fl.tok.fx.toNat else st
      let lid := s.lidOf (e / 4)
      let ld := s.load lid
      let node := destNode fl.tok.dest
      let arc := (node, fl.src, destPort fl.tok.dest, fl.tok.rt.toNat)
      if fl.tok.par then .next (s0.raiseToken fl fkECCUE 5 false)
      else if (s.regionOf (e / 4)).withdraw then
        match s0.parkToken (e / 4) fl with
        | some t => .next t
        | none => .next (s.lineSpillfull (e / 4) fl)
      else if ld.round != some (fl.tok.val.toNat % 2 ^ 16) || ld.feedback.contains (fl.src, fl.tok.dest.toNat) then .next s0
      else
        let s1 := s0.modElem e fun x =>
          { x with marked := if x.inRound.contains node then x.marked else arc :: x.marked }
        .next ((s1.countMarks (e * 1024 + node) 1).settleRound lid (ld.marksWait.length + 2))

end Sys2Proof.Machine
end

