-- ==== Sys2Proof/Machine/Object.lean ====
section
/-!
DEFINITION. Replies of a home, and operations on objects that stand away from the element, which travel as requests
with one reply (MOP 6 and 8 of R399, R404, R410).
-/
namespace Sys2Proof.Machine

/-! ### Replies -/

/-- The home has performed request `id`: its reply sets out with a value, or with a fault that the home has found. -/
def State.answerWith (s : State) (id : Nat) (x : Word) (err : Option (Nat × Nat)) : State :=
  { s with reqs := s.reqs.upd id fun r => { r with
      stage := if r.stage == MStage.posted then .posted else .reply, performed := true, deferred := false, val := x,
      err := err } }.sendReply id
/-- Its reply brings a value. -/
def State.replyTo (s : State) (id : Nat) (x : Word) : State := s.answerWith id x none

/-- The home has found a fault: kind, detail and the address that the record names. -/
def State.replyBad (s : State) (id kind detail pa : Nat) : State :=
  s.answerWith id (BitVec.ofNat 64 pa) (some (kind, detail))

/-- The reply of an object operation brings a result token. -/
def State.replyTok (s : State) (id : Nat) (t : Token) : State :=
  { s with reqs := s.reqs.upd id fun r => { r with tok := t } }.replyTo id 0
/-- It brings a KIND 00 value under the firing's tag. -/
def State.replyVal (s : State) (id : Nat) (x : Word) : State := s.replyTok id ((s.reqs.look id).f.base 0 x)
/-- The operation faults at its node. -/
def State.replyFails (s : State) (id kind detail : Nat) : State := s.replyBad id kind detail 0
/-- The operation waits at its object, with no time-out. -/
def State.holdReq (s : State) (id : Nat) : State :=
  { s with reqs := s.reqs.upd id fun r => { r with deferred := true } }
/-- The operation goes on waiting where it is no more. -/
def State.freeReq (s : State) (id : Nat) : State :=
  { s with reqs := s.reqs.upd id fun r => { r with deferred := false } }

/-! ### Asking -/

/-- The firing becomes a request to the object `tgt` on the square of `pa`, or to an I/O die (R404). -/
def State.askDie (s : State) (v : RecView) (tgt pa : Nat) (io : Option Nat) : State :=
  let f := s.cur
  let d := sqDie f.sq
  let n := s.serial + 1
  let r : MReq :=
    { f := f, op := v.op.toNat, rid := s.ridOf f.sq, lid := s.lidOf f.sq, die := d, cluster := clusterOf f.sq, size := 16
      pa := some pa, tgt := tgt, io := io, stage := .sent, start := s.tick d, tout := (s.die d).reqto.toNat, data := [portB v f] }
  { s with serial := n, reqs := s.reqs.put n r }.sendReq n d r.home
def State.askObj (s : State) (v : RecView) (tgt pa : Nat) : State := s.askDie v tgt pa none

/-- A request to the object on MT square `q`. -/
def askMt (v : RecView) (tgt q : Nat) (s : State) : Res := .next (s.askObj v tgt (scratchPa q 0))

/-- A tile on a compute die of the right colour. -/
def mtSquare (q : Nat) : Bool := sqDie q < 3 && sqX q < 64 && sqY q < 36 && !isCt q
/-- An MT that the part has: a fused-off pair is no MT of its die (R323). -/
def State.mtThere (s : State) (q : Nat) : Bool := mtSquare q && !s.fused.contains q
/-- The square is in a region of the load. -/
def State.inLoad (s : State) (lid q : Nat) : Bool := (s.load lid).regions.contains (s.ridOf q)

end Sys2Proof.Machine
end

