-- ==== Sys2Proof/Machine/Queue.lean ====
section
/-!
DEFINITION. Named queues (R50, R246 to R249, R255) and their steal logs (R412).
-/
namespace Sys2Proof.Machine

/-! ### The ring -/

/-- The ring slot of an index. -/
def Queue.ix (q : Queue) (i : BitVec 32) : Nat := i.toNat % q.cap
/-- State of an entry: 0 free, 1 reserved, 2 published, 3 published empty; S is the bit above. -/
def Queue.stOf (q : Queue) (i : BitVec 32) : Nat := q.st.look (q.ix i) % 4
def Queue.sOf (q : Queue) (i : BitVec 32) : Bool := tbit (q.st.look (q.ix i)) 2
def Queue.setSt (q : Queue) (i : BitVec 32) (n : Nat) (sb : Bool) : Queue :=
  { q with st := q.st.put (q.ix i) (n + 4 * sb.toNat) }
/-- The entry is free; its bit S stays until the slot is taken again (R50). -/
def Queue.free (q : Queue) (i : BitVec 32) : Queue := q.setSt i 0 (q.sOf i)
/-- R247: a push or a reservation finds room. -/
def Queue.hasRoom (q : Queue) : Bool := (q.resv - q.cons).toNat < q.cap
/-- `advance_pub` of R247. -/
def Queue.advance (q : Queue) (fuel : Nat) : Queue :=
  match fuel with
  | 0 => q
  | n + 1 => if q.pub != q.resv && q.stOf q.pub ≥ 2 then { q with pub := q.pub + 1 }.advance n else q
/-- The entries published empty at CONS are passed over. -/
def Queue.skip (q : Queue) (fuel : Nat) : Queue :=
  match fuel with
  | 0 => q
  | n + 1 => if q.cons != q.pub && q.stOf q.cons == 3 then { q.free q.cons with cons := q.cons + 1 }.skip n else q
/-- The entry at CONS leaves. -/
def Queue.take (q : Queue) : Queue := { q.free q.cons with cons := q.cons + 1 }

/-- The fields of 128 bits of a token (R14). -/
def tokenOfBits (b : BitVec 128) : Token :=
  let t : Token :=
    { kind := b.extractLsb' 126 2, mc := b.getLsbD 125, dest := b.extractLsb' 97 28, fx := b.extractLsb' 85 12,
      path := b.extractLsb' 79 6, rt := b.extractLsb' 77 2, val := b.extractLsb' 13 64, eod := b.extractLsb' 10 3,
      seq := b.extractLsb' 2 8, xd := b.getLsbD 1 }
  { t with par := t.bits != b }

/-- The address of the ring slot of index `i` of queue `k`. -/
def State.entryPa (s : State) (k : Nat) (i : BitVec 32) : Nat :=
  let q := s.queue k
  scratchPa (k / 4) (q.base + q.ix i * 16)
/-- The entry at index `i`. -/
def State.entryAt (s : State) (k : Nat) (i : BitVec 32) : Token := tokenOfBits (BitVec.ofNat 128 (s.rd (s.entryPa k i) 16))

/-- Reserve the next entry. -/
def State.reserve (s : State) (k : Nat) : State :=
  s.modQueue k fun q => { q.setSt q.resv 1 false with resv := q.resv + 1 }
/-- Publish entry `i` with a token. -/
def State.publish (s : State) (k : Nat) (i : BitVec 32) (t : Token) (sb : Bool) : State :=
  (s.wr (s.entryPa k i) 16 t.bits.toNat).modQueue k fun q => (q.setSt i 2 sb).advance q.cap
/-- Append a token as one entry. -/
def State.append (s : State) (k : Nat) (t : Token) : State := (s.reserve k).publish k (s.queue k).resv t false

/-! ### Requests that wait (R247) -/

/-- A stream is writing the entry at CONS of queue `x` of the MT to memory, and pops it once that has performed (R251). -/
def Mt.popping (m : Mt) (x : Nat) : Bool :=
  m.streams.any fun p => !p.2.reqs.isEmpty &&
    (let c := (m.ag.look (p.2.units.getLast?.getD 0)).ctl
     c.getLsbD 24 && fld c.toNat 22 2 == x)

/-- The first waiting pop takes its entry: a marker is counted on the node's queue arc and the pop goes on waiting. -/
def State.popStep (s : State) (k : Nat) : Option State :=
  let q := s.queue k
  match q.waitPop with
  | [] => none
  | id :: rest =>
    if q.cons == q.pub || (s.mt (k / 4)).popping (k % 4) then none
    else
      let t := s.entryAt k q.cons
      let r := s.reqs.look id
      let s1 := s.modQueue k Queue.take
      if t.kind == 2#2 then some ((s1.countQueueMark r.f.key).settleRound r.lid 8)
      else
        some ((s1.modQueue k fun q => { q with waitPop := rest }).replyTok id
          { r.f.base t.kind t.val with eod := t.eod, seq := t.seq, par := t.par })

/-- The first waiting push or reservation takes its entry. -/
def State.pushStep (s : State) (k : Nat) : Option State :=
  let q := s.queue k
  match q.waitPush with
  | [] => none
  | id :: rest =>
    if !q.hasRoom then none
    else
      let r := s.reqs.look id
      let s1 := s.modQueue k fun q => { q with waitPush := rest }
      let i := q.resv
      let s2 := if r.op = 0xB2 then s1.reserve k else s1.append k r.f.t0
      some (s2.replyVal id (i.zeroExtend 64))

/-- Everything that waits at a queue and can go on goes on, in arrival order; a pop passes over empty entries. -/
def State.serveQueue (s : State) (k fuel : Nat) : State :=
  match fuel with
  | 0 => s
  | n + 1 =>
    let s1 := if (s.queue k).waitPop.isEmpty then s else s.modQueue k fun q => q.skip q.cap
    match s1.popStep k with
    | some t => t.serveQueue k n
    | none =>
      match s1.pushStep k with
      | some t => t.serveQueue k n
      | none => s1
/-- Enough rounds for every entry and every waiting request. -/
def State.serve (s : State) (k : Nat) : State :=
  let q := s.queue k
  s.serveQueue k (q.cap + q.waitPop.length + q.waitPush.length + 1)

/-! ### The operations at the MT -/

/-- R255: the candidate of a steal. -/
def State.stealIndex (s : State) (k : Nat) : Option (BitVec 32) :=
  let q := s.queue k
  let n := (q.pub - q.cons).toNat
  let eligible := fun (j : Nat) => let i := q.cons + BitVec.ofNat 32 j; q.stOf i == 2 && !q.sOf i
  ((List.range n).find? fun j =>
    eligible j && ((List.range j).filter eligible).length ≥ 2 &&
      (let t := s.entryAt k (q.cons + BitVec.ofNat 32 j)
       let w := winOf t.val
       t.kind == 1#2 && dF (s.desc w.q w.buf))).map fun j => q.cons + BitVec.ofNat 32 j

/-- R255 in one MT step. -/
def State.steal (s : State) (id k : Nat) : State :=
  let q := s.queue k
  let r := s.reqs.look id
  let none_ := s.replyTok id { r.f.base 0 0 with eod := 7, seq := 0 }
  match q.cell, s.stealIndex k with
  | some c, some i =>
    if !q.window || q.stc ≥ 255 then none_
    else
      let h := (s.entryAt k i).val
      let s1 := s.modQueue k fun q =>
        { q.setSt i 3 true with stc := q.stc + 1
                                log := q.log ++ [{ index := i.toNat, handle := h, thief := r.f, closes := 2 }] }
      let s2 := (s1.addRef (winOf h).q (winOf h).buf).modCt (c / 32) fun t =>
        { t with bar := t.bar.upd (c % 32) fun b => { b with w1 := b.w1 ||| 2#64 } }
      s2.replyTok id { r.f.base 1 h with eod := 0, seq := BitVec.ofNat 8 i.toNat }
  | _, _ => none_

/-- R248: the status words. -/
def Queue.stat (q : Queue) (sel : Nat) : Word :=
  match sel with
  | 0 => q.pub ++ q.cons
  | 1 => BitVec.ofNat 64 (q.resv.toNat + q.cap * 2 ^ 32)
  | _ => BitVec.ofNat 64 (q.stc + q.window.toNat * 2 ^ 16)

/-- One operation on a queue, at its MT. -/
def State.queueHome (s : State) (id : Nat) : State :=
  let r := s.reqs.look id
  let k := r.tgt
  let q := s.queue k
  let f := r.f
  match r.op with
  | 0xB0 | 0xB2 => ((s.modQueue k fun q => { q with waitPush := q.waitPush ++ [id] }).holdReq id).serve k
  | 0xB1 => ((s.modQueue k fun q => { q with waitPop := q.waitPop ++ [id] }).holdReq id).serve k
  | 0xB3 =>
    let w := f.t0.val
    let i := w.extractLsb' 0 32
    if fld w.toNat 32 30 != 0 || q.stOf i != 1 || !decide ((i - q.cons).toNat < (q.resv - q.cons).toNat) then
      s.replyFails id fkBOUNDS 0
    else
      let s1 := if w.getLsbD 63 then s.modQueue k fun q => (q.setSt i 3 (w.getLsbD 62)).advance q.cap
                else s.publish k i f.t1 (w.getLsbD 62)
      ((s1.replyVal id ((s1.queue k).pub.zeroExtend 64)).serve k)
  | 0xB4 => s.steal id k
  | 0xB5 => (s.modQueue k fun q => { q with arm := q.arm ++ [(q.pub, f, f.t0.val)] }).replyVal id f.t0.val
  | _ => s.replyVal id (q.stat f.t0.val.toNat)

/-! ### The instructions -/

/-- The queue that index `q` names in the firing's load (R246). -/
def State.queueKey (s : State) (f : Firing) (q : Nat) : Option Nat := (s.load (s.lidOf f.sq)).queues[q]?
/-- The firing goes to its queue; an index that no declaration has is a bad literal (R103). -/
def queueOp (v : RecView) (s : State) : Res :=
  match s.queueKey s.cur v.lit with
  | none => fails s v fkILLOP 4
  | some k => askMt v k (k / 4) s

def execQpush (r : D2) (s : State) : Res := queueOp (r.view 0xB0) s
def execQpop (r : D2) (s : State) : Res := queueOp (r.view 0xB1) s
def execQresv (r : D2) (s : State) : Res := queueOp (r.view 0xB2) s
def execQpub (r : D2) (s : State) : Res := queueOp (r.view 0xB3) s
def execQsteal (r : D2) (s : State) : Res := queueOp (r.view 0xB4) s
/-- R248: a selector above 2 raises BOUNDS. -/
def execQstat (r : D2) (s : State) : Res :=
  if s.opA.toNat > 2 then fails s (r.view 0xB6) fkBOUNDS 0 else queueOp (r.view 0xB6) s
/-- R231 checks 2 to 4 of an armed address: its alignment to an element, its translation, and its target. -/
def State.armFault (s : State) (t : Template) (va : Nat) : Option (Nat × Nat) :=
  let rid := s.ridOf s.cur.sq
  if va % t.esize != 0 then some (fkALIGN, t.esize)
  else
    match (s.translate (clusterOf s.cur.sq) rid va { rd := t.src == .arm, wr := t.dst == .arm }).2 with
    | .error k => some k
    | .ok pa => if isScratch pa && !(s.mt (scratchSq pa)).plainOk (scratchOff pa) t.esize then some (fkBOUNDS, 0) else none

/-- R249: the address is a virtual address, checked as in R231, or 0 for a template with no armed side. -/
def execQarm (r : D2) (s : State) : Res :=
  let v := r.view 0xB5
  match (s.queueKey s.cur v.lit).bind fun k => (s.queue k).tmpl with
  | none => fails s v fkILLOP 4
  | some t =>
    if t.src != .arm && t.dst != .arm then (if s.opA != 0 then fails s v fkBOUNDS 0 else queueOp v s)
    else if s.opA.toNat ≥ 2 ^ 56 then fails s v fkBOUNDS 0
    else
      match s.armFault t s.opA.toNat with
      | some k => fails s v k.1 k.2
      | none => queueOp v s

end Sys2Proof.Machine
end

