-- ==== Sys2Proof/Machine/Barrier.lean ====
section
/-!
DEFINITION. Barrier cells and straggler records (R51, R52, R252 to R254).
-/
namespace Sys2Proof.Machine

/-! ### The cell (R51) -/

def BarCell.nmem (b : BarCell) : Nat := fld b.w0.toNat 56 8
def BarCell.narr (b : BarCell) : Nat := fld b.w0.toNat 47 9
def BarCell.round (b : BarCell) : Nat := fld b.w0.toNat 31 16
def BarCell.lagt (b : BarCell) : Nat := fld b.w1.toNat 32 32
def BarCell.ent (b : BarCell) : Bool := b.w1.getLsbD 1
/-- The physical address of the straggler record. -/
def BarCell.recPa (b : BarCell) : Nat := scratchPa (fld b.w1.toNat 18 14) (fld b.w1.toNat 2 16 * 64)
/-- The key of the designated queue of a cell on die `d`. -/
def BarCell.queueOn (b : BarCell) (d : Nat) : Option Nat :=
  if b.w0.getLsbD 16 then some ((d * 4096 + fld b.w0.toNat 19 12) * 4 + fld b.w0.toNat 17 2) else none

/-- A cell by its key, CT square * 32 + cell. -/
def State.cell (s : State) (k : Nat) : BarCell := (s.ct (k / 32)).bar.look (k % 32)
def State.modCell (s : State) (k : Nat) (f : BarCell → BarCell) : State :=
  s.modCt (k / 32) fun c => { c with bar := c.bar.upd (k % 32) f }

/-! ### The straggler record (R52) -/

/-- Address of member m's arrival tick in a slot, of its history byte, and of the byte of its persistence bit. -/
def tickPa (rp m slot : Nat) : Nat := rp + m * 128 + slot * 8
def histPa (rp m : Nat) : Nat := rp + 32768 + m
def persistPa (rp m : Nat) : Nat := rp + 33024 + m / 8
def allOnes : Nat := 2 ^ 64 - 1
/-- The persistence bit of member m. -/
def State.persists (s : State) (rp m : Nat) : Bool := (s.byte (persistPa rp m)).getLsbD (m % 8)
/-- Set every arrival tick of a slot to all ones. -/
def State.clearSlot (s : State) (rp slot : Nat) : State :=
  (List.range 256).foldl (fun st m => st.wr (tickPa rp m slot) 8 allOnes) s

/-! ### bari (R252) -/

/-- Why a `bari` is refused: the port of the word at fault. -/
def State.bariBad (s : State) (k : Nat) (w0 w1 : Word) : Option Nat :=
  let die := k / 32 / 4096
  let b : BarCell := { w0 := w0, w1 := w1 }
  let recSq := fld w1.toNat 18 14
  if fld w0.toNat 31 16 != 0 || fld w0.toNat 47 9 != 0 || fld w0.toNat 0 16 != 0 then some 0
  else if fld w1.toNat 0 2 != 0 then some 1
  else if (s.cell k).narr != 0 then some 0
  else
    match b.queueOn die with
    | some qk =>
      if !s.mtThere (qk / 4) || !(s.queue qk).declared then some 0
      else if (s.queue qk).cell != none && (s.queue qk).cell != some k then some 0
      else if !s.mtThere recSq || fld w1.toNat 2 16 * 64 + 33056 > mtBytes then some 1
      else none
    | none => if !s.mtThere recSq || fld w1.toNat 2 16 * 64 + 33056 > mtBytes then some 1 else none

/-- Queues that a cell designated give up their registration. -/
def State.freeQueues (s : State) (k : Nat) : State :=
  { s with mts := mapTbl s.mts fun _ m =>
      { m with queues := mapTbl m.queues fun _ q => if q.cell == some k then { q with cell := none, window := false } else q } }

/-- `bari` at its cell. -/
def State.bariHome (s : State) (id : Nat) : State :=
  let r := s.reqs.look id
  let k := r.tgt
  let w0 := r.f.t0.val
  let w1 := r.f.t1.val
  match s.bariBad k w0 w1 with
  | some p => s.replyFails id fkBOUNDS p
  | none =>
    let s1 := (s.freeQueues k).modCell k fun b => { b with w0 := w0, w1 := w1, arrived := [] }
    let rp := (s1.cell k).recPa
    let s2 := (List.range 16).foldl (fun st i => st.clearSlot rp i) s1
    let s3 := s2.setBytes (rp + 32768) (List.replicate 288 0)
    let s4 := match (s3.cell k).queueOn (k / 32 / 4096) with
      | some qk => s3.modQueue qk fun q => { q with cell := some k, stc := 0, window := false }
      | none => s3
    s4.replyVal id w0

/-! ### barv (R253) -/

/-- Insert into an ascending list. -/
def insertAsc (x : Nat) (l : List Nat) : List Nat :=
  match l with
  | [] => [x]
  | y :: t => if x ≤ y then x :: y :: t else y :: insertAsc x t
def sortAsc (l : List Nat) : List Nat := l.foldr insertAsc []

/-- Close one member's round: its history and persistence bit. -/
def State.closeMember (s : State) (b : BarCell) (slot med m : Nat) : State :=
  let rp := b.recPa
  let lag := (BitVec.ofNat 64 (s.rd (tickPa rp m slot) 8) - BitVec.ofNat 64 med).toInt
  let h := ((s.byte (histPa rp m)).toNat * 2 + (decide (lag > b.lagt)).toNat) % 256
  let s1 := s.setByte (histPa rp m) (BitVec.ofNat 8 h)
  let old := (s1.byte (persistPa rp m)).toNat
  let bit := 2 ^ (m % 8)
  let on := popcount 8 h ≥ 6
  s1.setByte (persistPa rp m) (BitVec.ofNat 8 (old - (if tbit old (m % 8) then bit else 0) + if on then bit else 0))

/-- What a `barlog` in the cycle of a close of cell `k` still reads (R52). -/
def State.barWas (s : State) (k : Nat) : BarWas :=
  let b := s.cell k
  let q := match b.queueOn (k / 32 / 4096) with
    | some qk => s.queue qk
    | none => {}
  { cycle := s.cycles, w0 := b.w0, w1 := b.w1, stc := q.stc, window := q.window
    mem := s.mem.filter fun c => decide (b.recPa ≤ c.1) && decide (c.1 < b.recPa + 33056) }

/-- The round closes (R253): histories, the counters, the designated queue, and the answers. -/
def State.closeBarrier (s : State) (k : Nat) : State :=
  let b := s.cell k
  let slot := b.round % 16
  let members := List.range (b.nmem + 1)
  let ticks := members.map fun m => s.rd (tickPa b.recPa m slot) 8
  let med := (sortAsc ticks)[b.nmem / 2]?.getD 0
  let s1 := members.foldl (fun st m => st.closeMember b slot med m) s
  let s2 := s1.modCell k fun b =>
    { b with w0 := setField (setField b.w0 47 9 0) 31 16 (b.round + 1), w1 := setField b.w1 1 1 0, waiting := [], arrived := []
             was := some (s.barWas k) }
  let s3 := s2.clearSlot b.recPa ((b.round + 1) % 16)
  let window := members.any fun m => s3.persists b.recPa m
  let s4 := match b.queueOn (k / 32 / 4096) with
    | some qk => s3.modQueue qk fun q =>
        { q with stc := 0, window := window
                 log := (q.log.map fun e => { e with closes := e.closes - 1 }).filter fun e => e.closes != 0 }
    | none => s3
  b.waiting.foldl (fun st id => st.replyVal id (BitVec.ofNat 64 b.round)) s4

/-- STC of the queue that a cell designates. -/
def State.stcOf (s : State) (k : Nat) : Nat :=
  match (s.cell k).queueOn (k / 32 / 4096) with
  | some qk => (s.queue qk).stc
  | none => 0

/-- `barv` at its cell. -/
def State.barvHome (s : State) (id : Nat) : State :=
  let r := s.reqs.look id
  let k := r.tgt
  let b := s.cell k
  let w := r.f.t0.val.toNat
  let m := w % 256
  let stl := tbit w 8
  if w ≥ 512 || m > b.nmem || (stl && !b.ent) || (!stl && b.arrived.contains m) then s.replyFails id fkBOUNDS 0
  else
    let s1 := if stl then s else s.wr (tickPa b.recPa m (b.round % 16)) 8 (s.tick (k / 32 / 4096))
    let s2 := (s1.modCell k fun b =>
      { b with w0 := setField b.w0 47 9 (b.narr + 1), waiting := b.waiting ++ [id]
               arrived := if stl then b.arrived else b.arrived ++ [m] }).holdReq id
    if (s2.cell k).narr = b.nmem + 1 + s2.stcOf k then s2.closeBarrier k else s2

/-! ### barlog (R254) -/

/-- The bits that a selector reads of its argument, and the word it sends. -/
def State.barlogWord (s : State) (k sel a : Nat) : Option Word :=
  let b := s.cell k
  let rp := b.recPa
  let m := a % 256
  match sel with
  | 0 => if a = 0 then some b.w0 else none
  | 1 => if a = 0 then some b.w1 else none
  | 2 => if a < 4096 then some (BitVec.ofNat 64 (s.rd (tickPa rp m (a / 256)) 8)) else none
  | 3 => if a < 256 then some (BitVec.ofNat 64 ((s.byte (histPa rp m)).toNat + (s.persists rp m).toNat * 256)) else none
  | 4 => if a < 4 then some (BitVec.ofNat 64 (s.rd (rp + 33024 + 8 * a) 8)) else none
  | _ =>
    if a != 0 then none
    else
      match b.queueOn (k / 32 / 4096) with
      | some qk => some (BitVec.ofNat 64 ((s.queue qk).stc + (s.queue qk).window.toNat * 2 ^ 16))
      | none => some 0

/-- The state that a `barlog` of cell `k` reads: in the cycle of a close, as it was before (R52, R254). -/
def State.logView (s : State) (k : Nat) : State :=
  match (s.cell k).was with
  | none => s
  | some o =>
    if o.cycle != s.cycles then s
    else
      let s1 := { s with mem := o.mem }.modCell k fun b => { b with w0 := o.w0, w1 := o.w1 }
      match (s1.cell k).queueOn (k / 32 / 4096) with
      | some qk => s1.modQueue qk fun q => { q with stc := o.stc, window := o.window }
      | none => s1

/-- `barlog` at its cell. -/
def State.barlogHome (s : State) (id : Nat) : State :=
  let r := s.reqs.look id
  let sel := (s.view r.f.key).lit / 32
  match (s.logView r.tgt).barlogWord r.tgt sel r.f.t0.val.toNat with
  | some w => s.replyVal id w
  | none => s.replyFails id fkBOUNDS 0

/-! ### The instructions -/

/-- The firing goes to the barrier cell of declaration `b`. -/
def barrierOp (v : RecView) (b : Nat) (s : State) : Res :=
  match (s.load (s.lidOf s.cur.sq)).barriers[b]? with
  | none => fails s v fkILLOP 4
  | some k => .next (s.askObj v k (scratchPa (k / 32) 0))
def execBari (r : D2) (s : State) : Res := let v := r.view 0xB9; barrierOp v v.lit s
def execBarv (r : D2) (s : State) : Res := let v := r.view 0xBA; barrierOp v v.lit s
def execBarlog (r : D2) (s : State) : Res := let v := r.view 0xBB; barrierOp v (v.lit % 32) s

end Sys2Proof.Machine
end

