-- ==== Sys2Proof/Machine/Stream.lean ====
section
/-!
DEFINITION. Address-generator streams (R250, R251, R384), copy templates (R385, R386) and edge converters (R256, R382,
R383), with their translation (R321).
-/
namespace Sys2Proof.Machine

/-! ### Address generators (R250, R251) -/

def State.modAg (s : State) (q u : Nat) (f : AgUnit → AgUnit) : State := s.modMt q fun m => { m with ag := m.ag.upd u f }
/-- The chain through a unit is running. -/
def AgUnit.runs (a : AgUnit) : Bool := a.ctl.getLsbD 31
def AgUnit.last (a : AgUnit) : Bool := a.ctl.getLsbD 30
def AgUnit.nextUnit (a : AgUnit) : Nat := fld a.ctl.toNat 27 3
def AgUnit.esize (a : AgUnit) : Nat := 2 ^ fld a.ctl.toNat 25 2
/-- [DESIGN CHOICE: log 64] -/
def AgUnit.toMem (a : AgUnit) : Bool := a.ctl.getLsbD 24
def AgUnit.qix (a : AgUnit) : Nat := fld a.ctl.toNat 22 2
def AgUnit.count (a : AgUnit) : Nat := fld a.lvl.toNat 0 32
def AgUnit.stride (a : AgUnit) : Int := (a.lvl.extractLsb' 32 32).toInt

/-- The MT square of a selector word, when its other bits are 0 and the MT is in the firing's load (R250). -/
def State.selector (s : State) (f : Firing) (w : Word) : Option Nat :=
  let q := fld w.toNat 46 14
  if fld w.toNat 60 4 != 0 || fld w.toNat 2 44 != 0 || !mtSquare q || !s.inLoad (s.lidOf f.sq) q then none else some q

/-- R250: the limits on a register's new value. -/
def agValueOk (reg : Nat) (v : Word) : Bool :=
  match reg with
  | 0 => v.toNat < 2 ^ 56
  | 1 => fld v.toNat 0 32 != 0
  | _ => fld v.toNat 32 32 == 0 && fld v.toNat 0 22 == 0

def execAgcfg (r : D2) (s : State) : Res :=
  let v := r.view 0xB7
  let reg := fld s.opA.toNat 0 2
  match s.selector s.cur s.opA with
  | none => fails s v fkBOUNDS 0
  | some q =>
    if reg = 3 then fails s v fkBOUNDS 0
    else if !agValueOk reg s.cur.t1.val then fails s v fkBOUNDS 1
    else askMt v (q * 8 + v.lit) q s

/-- `agcfg` at its MT: a unit of a running chain keeps it waiting; RUN is not written. -/
def State.agcfgHome (s : State) (id : Nat) : State :=
  let r := s.reqs.look id
  let q := r.tgt / 8
  let u := r.tgt % 8
  let x := r.f.t1.val
  if ((s.mt q).ag.look u).runs then (s.modMt q fun m => { m with agWait := m.agWait ++ [id] }).holdReq id
  else
    let s1 := s.modAg q u fun a => match fld r.f.t0.val.toNat 0 2 with
      | 0 => { a with base := x }
      | 1 => { a with lvl := x }
      | _ => { a with ctl := setField x 31 1 0 }
    s1.replyVal id r.f.t0.val

def execAgrun (r : D2) (s : State) : Res :=
  let v := r.view 0xB8
  match s.selector s.cur s.opA with
  | none => fails s v fkBOUNDS 0
  | some q => if fld s.opA.toNat 0 2 != 0 then fails s v fkBOUNDS 0 else askMt v (q * 8 + v.lit) q s

/-- The units of the chain from `u` on, outermost first; none when it revisits a unit or reaches one that runs. [DESIGN CHOICE: log 64] -/
def agChain (m : Mt) (fuel u : Nat) (seen : List Nat) : Option (List Nat) :=
  let a := m.ag.look u
  match fuel with
  | 0 => none
  | n + 1 =>
    if seen.contains u || a.runs then none
    else if a.last then some (seen ++ [u])
    else agChain m n a.nextUnit (seen ++ [u])

/-- The levels of a chain: count and stride, outermost first. -/
def Mt.levels (m : Mt) (units : List Nat) : List (Nat × Int) := units.map fun u => ((m.ag.look u).count, (m.ag.look u).stride)
/-- The number of elements of nested levels. -/
def levelTotal (l : List (Nat × Int)) : Nat := l.foldl (fun n p => n * p.1) 1
/-- The displacement of element `x` in row-major order. -/
def levelOffset (l : List (Nat × Int)) (x : Nat) : Int :=
  match l with
  | [] => 0
  | (c, st) :: rest => (x / levelTotal rest % c : Nat) * st + levelOffset rest x
/-- How many levels end at element `x`. -/
def levelEnds (l : List (Nat × Int)) (x : Nat) : Nat :=
  match l with
  | [] => 0
  | p :: rest => levelEnds rest x + if (x + 1) % levelTotal (p :: rest) = 0 then 1 else 0
/-- An address displaced, modulo 2^56. -/
def vaPlus (a : Nat) (d : Int) : Nat := (((a : Int) + d) % (2 ^ 56 : Int)).toNat

/-- `agrun` at its MT. [DESIGN CHOICE: log 64] -/
def State.agrunHome (s : State) (id : Nat) : State :=
  let r := s.reqs.look id
  let q := r.tgt / 8
  let u := r.tgt % 8
  match agChain (s.mt q) 9 u [] with
  | none => s.replyFails id fkBOUNDS 0
  | some units =>
    let s1 := units.foldl (fun st x => st.modAg q x fun a => { a with ctl := setField a.ctl 31 1 1 }) s
    let x : Stream := { on := true, req := id, units := units, total := levelTotal ((s.mt q).levels units) }
    (s1.modMt q fun m => { m with streams := m.streams.put u x }).holdReq id

/-- The chain stops: its units are free, and the `agcfg` requests that wait try again. -/
def State.agStop (s : State) (q u : Nat) : State :=
  let st := (s.mt q).streams.look u
  let s1 := st.units.foldl (fun t x => t.modAg q x fun a => { a with ctl := setField a.ctl 31 1 0 }) s
  let wait := (s1.mt q).agWait
  let s2 := s1.modMt q fun m => { m with streams := m.streams.del u, agWait := [] }
  wait.foldl (fun t id => (t.freeReq id).agcfgHome id) s2

/-- A fault stops the stream at its element: the record names the `agrun` node and the element (R251). -/
def State.agFault (s : State) (q u kind detail comp : Nat) : State :=
  let st := (s.mt q).streams.look u
  let f := (s.reqs.look st.req).f
  let s1 := (s.engDrop st.reqs).agStop q u
  ({ s1 with reqs := s1.reqs.del st.req }).raiseFiring f kind detail 0 (BitVec.ofNat 64 comp) st.x

/-- The next element of a stream has performed. -/
def State.agNext (s : State) (q u : Nat) (t : Option Tlb) : State :=
  s.modMt q fun m => { m with streams := m.streams.upd u fun x => { x with x := x.x + 1, tlb := t, reqs := [] } }

/-- The address of the element of the chain whose outermost unit is `u`. -/
def State.agVa (s : State) (q u : Nat) : Nat :=
  let m := s.mt q
  let st := m.streams.look u
  vaPlus (fld (m.ag.look u).base.toNat 0 56) (levelOffset (m.levels st.units) st.x)

/-- The requests of the element under way set out. -/
def State.agAsk (s : State) (q u n : Nat) (data : Option (List Byte)) : State :=
  let st := (s.mt q).streams.look u
  let r := s.reqs.look st.req
  let va := s.agVa q u
  let base : MReq := { f := r.f, rid := r.rid, lid := r.lid, die := sqDie q, cluster := clusterOf q }
  let out := s.engAsk base st.tlb va n (elementOf va n) data
  out.1.modMt q fun m => { m with streams := m.streams.upd u fun x => { x with reqs := out.2 } }

/-- AG_ELEMENT of the chain whose outermost unit is `b`, at MT `a` (R251): the requests of the next element set out, or those
under way have come back. A closed load's streams have stopped (R274). -/
def execAgElement (s : State) : Res :=
  let q := s.at_.a
  let u := s.at_.b
  let m := s.mt q
  let st := m.streams.look u
  let l := m.levels st.units
  let inner := m.ag.look (st.units.getLast?.getD 0)
  let k := q * 4 + inner.qix
  if !st.on || st.x ≥ st.total then .next s
  else if !st.reqs.isEmpty then
    match s.engPoll st.reqs with
    | .wait => .next s
    | .bad kind d comp _ => .next ((s.agFault q u kind d comp).serve k)
    | .ok b =>
      let t := s.engTlb (clusterOf q) (s.reqs.look st.req).rid (s.agVa q u) st.tlb
      let s1 := s.engDrop st.reqs
      if inner.toMem then .next (((s1.modQueue k Queue.take).agNext q u t).serve k)
      else if !(s.queue k).hasRoom then
        .next (if (s.regionOf q).withdraw then s1.modMt q fun m => { m with streams := m.streams.upd u fun x => { x with reqs := [] } }
               else s)
      else
        let x : Token := { val := BitVec.ofNat 64 (leBytes b), seq := BitVec.ofNat 8 st.x,
                           eod := BitVec.ofNat 3 (min (levelEnds l st.x) 7) }
        .next (((s1.append k x).serve k).agNext q u t)
  else if (s.regionOf q).closed then .next s
  else if inner.toMem then
    let s0 := s.modQueue k fun x => x.skip x.cap
    let qu := s0.queue k
    if qu.cons == qu.pub || (s.mt q).popping inner.qix then .next s
    else
      let t := s0.entryAt k qu.cons
      if t.kind == 2#2 then .next ((s0.modQueue k Queue.take).serve k)
      else .next (s0.agAsk q u inner.esize (some (toBytes inner.esize t.val.toNat)))
  else if !(s.queue k).hasRoom then .next s
  else .next (s.agAsk q u inner.esize none)

/-- AG_STREAM_COMPLETE of the chain (R251): `agrun` sends its selector word. -/
def execAgStreamComplete (s : State) : Res :=
  let q := s.at_.a
  let u := s.at_.b
  let st := (s.mt q).streams.look u
  if !st.on || st.x < st.total then .next s
  else .next ((s.agStop q u).replyVal st.req (s.reqs.look st.req).f.t0.val)

/-! ### Copy templates (R385, R386) -/

def State.modCopy (s : State) (k : Nat) (f : Copy → Copy) : State :=
  s.modQueue k fun q => { q with copy := q.copy.map f }

/-- The address of byte `i` of a buffer's dense layout (R217, R310); scale bytes go to the blocks of the rows in turn. [DESIGN CHOICE: log 88] -/
def State.densePa (s : State) (q buf dt rows cols i : Nat) : Nat :=
  let d := s.desc q buf
  let len := rowBytes cols (dtW dt)
  if i < rows * len then scratchPa q (dBase d + i / len * dStride d + i % len)
  else
    let j := i - rows * len
    let nb := (cols + 31) / 32
    scratchPa q (dBase d + dRows d * dStride d + 4 * (j / nb) + j % nb)
/-- The addresses of element `x` of a tile side. -/
def State.sidePas (s : State) (p : Side) (esize x : Nat) : List Nat :=
  match p with
  | .arm => []
  | .tile q buf dt rows cols _ => (List.range esize).map fun i => s.densePa q buf dt rows cols (x * esize + i)
/-- R49: F of a tile side. -/
def State.sideF (s : State) (p : Side) : Option Bool :=
  match p with
  | .arm => none
  | .tile q buf _ _ _ _ => some (dF (s.desc q buf))

/-- The arming that an entry index fires with (R249): the latest one made no later than the entry's arrival, or the
first. [DEDUCED: log 58] -/
def Queue.armFor (q : Queue) (i : BitVec 32) : Option (Firing × Word) :=
  match (q.arm.filter fun a => (i - a.1).toNat < 2 ^ 31).getLast? with
  | some a => some a.2
  | none => (q.arm.head?).map (·.2)

/-- COPY_TRIGGER at queue `a` (R386): no other template of the MT is copying, and the F conditions hold. [DEDUCED: log 58] -/
def execCopyTrigger (s : State) : Res :=
  let k := s.at_.a
  let s0 := s.modQueue k fun q => q.skip q.cap
  let q := s0.queue k
  match q.tmpl, q.armFor q.cons with
  | some t, some (f, addr) =>
    if (s.regionOf (k / 4)).withdraw || q.cons == q.pub || (s0.mt (k / 4)).popping (k % 4) ||
        (s0.mt (k / 4)).queues.any fun p => p.2.copy.isSome then .next s
    else
      let trig := s0.entryAt k q.cons
      if trig.kind == 2#2 then .next ((s0.modQueue k Queue.take).serve k)
      else if s0.sideF t.src == some false || s0.sideF t.dst == some true then .next s
      else
        let s1 := s0.modQueue k fun q => { q.take with copy := some { trig := trig, f := f, addr := addr } }
        .next (s1.serve k)
  | _, _ => .next s

/-- The address of element `x` of the armed side. -/
def Copy.armVa (c : Copy) (t : Template) : Nat :=
  vaPlus (c.addr.toNat + fld c.trig.val.toNat 36 28 * 64) (levelOffset t.levels c.x)
/-- The firing that a copy's fault names: the `qarm` node, under the trigger's tag. -/
def Copy.firing (c : Copy) : Firing :=
  { c.f with t0 := { c.f.t0 with fx := c.trig.fx, path := c.trig.path, rt := c.trig.rt, eod := c.trig.eod, seq := c.trig.seq } }

/-- A fault stops the copy at element `x`; the record can take it on from there. -/
def State.copyFault (s : State) (k x kind detail comp : Nat) (c : Copy) : State :=
  let f := c.firing
  let s1 := s.engDrop c.reqs
  (s1.modCopy k fun c => { c with stopped := true, fault := none, reqs := [], data := none, n := 0 }).raiseArgs (s.lidOf f.sq) (s.ridOf f.sq)
    { kind := kind, detail := detail, w1 := f.t0.val, comp := BitVec.ofNat 64 comp, eidx := x, place := f.key,
      fx := f.t0.fx.toNat, path := f.t0.path.toNat, rt := f.t0.rt.toNat, firing := some f, site := .copy k }

/-- R325: the bytes of one write, whose confirmation has come to the engine on die `die`, set out to the sync word. -/
def State.countSync (s : State) (sync n lid die : Nat) : State :=
  if sync = 0 then s
  else
    let pa := 2 ^ 48 + sync
    let (s1, m) := s.post die (homeDie pa)
      { cls := .mreq, head := msgHead 5 8 lid die (homeDie pa) 0 0 pa, data := toBytes 8 n
        leg := msgLeg die (homeDie pa) none (if isScratch pa then some (scratchSq pa) else none) }
    { s1 with syncIn := s1.syncIn ++ [{ pa := pa, n := n, lid := lid, via := m }] }

/-- Why a trigger's sync word cannot be counted. -/
def State.syncFault (s : State) (rid sync : Nat) : Option (Nat × Nat) :=
  if sync = 0 then none
  else if sync % 16 != 0 then some (fkALIGN, 16)
  else
    match s.windowCheck rid sync with
    | some k => some k
    | none => if (s.mt (scratchSq sync)).plainOk (scratchOff sync) 16 then none else some (fkBOUNDS, 0)

/-- The elements that are moved together from element `x` on: consecutive ones whose addresses are contiguous on both sides,
up to 64 bytes (R386). -/
def State.copyUnit (s : State) (c : Copy) (t : Template) (fuel n : Nat) : Nat :=
  let va := fun (i : Nat) => Copy.armVa { c with x := c.x + i } t
  let next := fun (p : Side) =>
    match p with
    | .arm => va n == (va (n - 1) + t.esize) % 2 ^ 56
    | p => (s.sidePas p t.esize (c.x + n)).headD 0 == ((s.sidePas p t.esize (c.x + n - 1)).headD 0) + t.esize
  match fuel with
  | 0 => n
  | k + 1 =>
    if c.x + n < levelTotal t.levels && (n + 1) * t.esize ≤ 64 && next t.src && next t.dst then s.copyUnit c t k (n + 1) else n

/-- The addresses of `n` elements of a tile side, and the bytes that stand there. -/
def State.unitPas (s : State) (p : Side) (t : Template) (x n : Nat) : List Nat :=
  (List.range n).flatMap fun i => s.sidePas p t.esize (x + i)

/-- The elements of a copy that are moved together have performed: their bytes are counted as one write (R325, R386). -/
def State.copyMoved (s : State) (k : Nat) (c : Copy) (t : Template) (tlb : Option Tlb) : State :=
  let s1 := s.countSync (fld c.trig.val.toNat 0 36) (c.n * t.esize) (s.lidOf c.f.sq) (sqDie (k / 4))
  s1.modCopy k fun x => { x with x := x.x + c.n, n := 0, data := none, reqs := [], tlb := tlb }

/-- Element `j` of those moved together is at fault: the ones before it are moved by themselves, with their bytes where they
are at hand, and then the fault is raised at it (R386). -/
def State.copyCut (s : State) (k : Nat) (c : Copy) (t : Template) (j kind detail comp : Nat) (b : Option (List Byte)) : State :=
  if j = 0 then s.copyFault k c.x kind detail comp c
  else (s.engDrop c.reqs).modCopy k fun x =>
    { x with n := j, data := b.map fun l => l.take (j * t.esize), reqs := [], fault := some (kind, detail, comp) }

/-- The requests of a copy's armed side have come back with a fault at address `ea`: of a write, the elements before the one
that it names have performed. -/
def State.copyBad (s : State) (k : Nat) (c : Copy) (t : Template) (kind detail comp ea : Nat) : State :=
  let j := min ((ea + 2 ^ 56 - c.armVa t % 2 ^ 56) % 2 ^ 56 / t.esize) (c.n - 1)
  if c.data.isSome && j != 0 then
    let s1 := (s.engDrop c.reqs).copyMoved k { c with n := j } t c.tlb
    s1.copyFault k (c.x + j) kind detail comp { c with reqs := [] }
  else s.copyCut k c t j kind detail comp none

/-- The bytes of a copy's unit are written to a tile side. -/
def State.copyPut (s : State) (k : Nat) (c : Copy) (t : Template) (b : List Byte) : State :=
  let pas := s.unitPas t.dst t c.x c.n
  let pa := pas.headD 0
  let cut := (List.range pas.length).find? fun i =>
    let w := eccWord (pas[i]?.getD 0)
    s.ecc.look w == 2 && !((List.range 8).all fun j => pas.contains (w + j))
  match cut with
  | some i => s.copyCut k c t (i / t.esize) fkECCUE 6 (eccWord (pas[i]?.getD 0)) (some b)
  | none => ((s.scatter pas b).eccClear pa pas.length).copyMoved k c t c.tlb

/-- COPY_ELEMENTS at queue `a` (R386): the next elements are read, their bytes are written, and their requests are taken up
as they come back. -/
def execCopyElements (s : State) : Res :=
  let k := s.at_.a
  let qu := s.queue k
  match qu.copy, qu.tmpl with
  | some c, some t =>
    let q := k / 4
    let rid := s.ridOf c.f.sq
    let va := c.armVa t
    let base : MReq := { f := c.firing, rid := rid, lid := s.lidOf c.f.sq, die := sqDie q, cluster := clusterOf q }
    let put := fun (st : State) (n : Nat) (b : Option (List Byte)) (ids : List Nat) =>
      st.modCopy k fun x => { x with n := n, data := b, reqs := ids }
    if c.stopped || c.x ≥ levelTotal t.levels then .next s
    else if !c.reqs.isEmpty then
      match s.engPoll c.reqs with
      | .wait => .next s
      | .bad kind d comp ea => .next (s.copyBad k c t kind d comp ea)
      | .ok b =>
        let tlb := s.engTlb (clusterOf q) rid va c.tlb
        let s1 := s.engDrop c.reqs
        .next (if c.data.isSome then s1.copyMoved k c t tlb
               else (put s1 c.n (some b) []).modCopy k fun x => { x with tlb := tlb })
    else
      match c.data with
      | some b =>
        if t.dst != .arm then .next (s.copyPut k c t b)
        else
          let out := s.engAsk base c.tlb va b.length (memWords (b.length + 1) va b.length) (some b)
          .next (put out.1 c.n c.data out.2)
      | none =>
        if (s.regionOf q).withdraw then .next s
        else if c.n = 0 && c.fault.isSome then
          let (kind, detail, comp) := c.fault.getD (0, 0, 0)
          .next (s.copyFault k c.x kind detail comp c)
        else
          let n := if c.n = 0 then s.copyUnit c t 64 1 else c.n
          match s.syncFault rid (fld c.trig.val.toNat 0 36) with
          | some e => .next (s.copyFault k c.x e.1 e.2 va c)
          | none =>
            if (t.src == .arm || t.dst == .arm) && va % t.esize != 0 then .next (s.copyFault k c.x fkALIGN t.esize va c)
            else if t.src == .arm then
              let out := s.engAsk base c.tlb va (n * t.esize) (memWords (n * t.esize + 1) va (n * t.esize)) none
              .next (put out.1 n none out.2)
            else
              let pas := s.unitPas t.src t c.x n
              match (List.range pas.length).find? fun i => (s.eccBad (pas[i]?.getD 0) 1).isSome with
              | some i => .next (s.copyCut k { c with n := n } t (i / t.esize) fkECCUE 6 (eccWord (pas[i]?.getD 0)) none)
              | none => .next ((put s n (some (s.gather pas)) []).countCe (pas.headD 0) pas.length)
  | _, _ => .next s

/-- The handle to a whole buffer (R46, R386). -/
def State.fullHandle (s : State) (q buf dt rows cols : Nat) : Word :=
  BitVec.ofNat 64 (dt * 2 ^ 60 + q * 2 ^ 46 + buf * 2 ^ 40 + dGen (s.desc q buf) * 2 ^ 32 + (rows - 1) * 2 ^ 26 +
    (cols - 1) * 2 ^ 19)
/-- The completion token of a side whose declaration has `to=`. -/
def State.sideToken (s : State) (mt lid : Nat) (trig : Token) (p : Side) : State :=
  match p with
  | .tile q buf dt rows cols (some d) =>
    s.sendFrom mt lid { trig with kind := 1, mc := false, dest := d, val := s.fullHandle q buf dt rows cols, xd := false,
                                  par := false }
  | _ => s

/-- COPY_COMPLETE at queue `a` (R386). -/
def execCopyComplete (s : State) : Res :=
  let k := s.at_.a
  let qu := s.queue k
  match qu.copy, qu.tmpl with
  | some c, some t =>
    if c.stopped || (s.regionOf (k / 4)).withdraw || c.x < levelTotal t.levels then .next s
    else
      let s1 := s.modQueue k fun q => { q with copy := none }
      let s2 := match t.dst with | .tile q b _ _ _ _ => s1.setF q b true | .arm => s1
      let lid := s.lidOf c.f.sq
      .next ((s2.sideToken (k / 4) lid c.trig t.src).sideToken (k / 4) lid c.trig t.dst)
  | _, _ => .next s

/-! ### Converters (R256, R382, R383) -/

/-- A converter by its key, MT square * 8 + number. -/
def State.conv (s : State) (k : Nat) : Conv := (s.mt (k / 8)).conv.look (k % 8)
def State.modConv (s : State) (k : Nat) (f : Conv → Conv) : State :=
  s.modMt (k / 8) fun m => { m with conv := m.conv.upd (k % 8) f }
/-- The element that a converter serves. -/
def convElem (k : Nat) : Nat := pairSq (k / 8) * 4 + k % 8 / 2
def Conv.en (c : Conv) : Bool := c.bind.getLsbD 2
def Conv.ty (c : Conv) : Nat := fld c.bind.toNat 3 4
def Conv.qix (c : Conv) : Nat := fld c.bind.toNat 0 2
def Conv.grp (c : Conv) : Nat := fld c.bind.toNat 16 16

/-- R256: the checks of a binding. -/
def bindOp (v : RecView) (odd : Bool) (s : State) : Res :=
  let b := s.cur.t1.val.toNat
  match s.selector s.cur s.opA with
  | none => fails s v fkBOUNDS 0
  | some q =>
    if fld s.opA.toNat 0 2 != 0 || !(s.mt q).edge || !(s.regionOf q).mode then fails s v fkBOUNDS 0
    else if decide (v.lit % 2 = 1) != odd then fails s v fkBOUNDS 3
    else if fld b 3 4 = 15 || fld b 7 9 != 0 || fld b 32 32 != 0 || (!odd && fld b 16 16 != 0) then fails s v fkBOUNDS 1
    else askMt v (q * 8 + v.lit) q s
def execStkbind (r : D2) (s : State) : Res := bindOp (r.view 0xBC) true s
def execKtsbind (r : D2) (s : State) : Res := bindOp (r.view 0xBD) false s

/-- The binding holds at its MT, for the next ring start. -/
def State.bindHome (s : State) (id : Nat) : State :=
  let r := s.reqs.look id
  (s.modConv r.tgt fun c => { c with next := r.f.t1.val, fresh := true }).replyVal id r.f.t0.val

/-- R383: what a ring start does to a converter. A binding that has come since the last one counts its tokens anew; an STK
sends what it has staged under the old binding first. -/
def Conv.ringStart (c : Conv) (odd : Bool) : Conv :=
  if !c.fresh then c
  else if odd && (!c.beats.isEmpty || !c.out.isEmpty) then { c with closing := true, after := c.next, fresh := false }
  else if c.next.getLsbD 2 then { c with bind := c.next, sent := 0, fresh := false }
  else { c with bind := c.next, parts := [], beats := [], fresh := false }

/-- Entries of a beat, and the beat that they make (R383). -/
def beatEntries (ty : Nat) : Nat := if ty = 13 then 16 else if ty = 11 ∨ ty = 12 then 9 else 8
def beatOf (ty : Nat) (l : List Word) : Beat :=
  let pack := fun (w : Nat) (xs : List Word) => BitVec.ofNat 512 (xs.foldr (fun x acc => x.toNat % 2 ^ w + acc * 2 ^ w) 0)
  if ty = 13 then { data := pack 32 l }
  else if ty = 11 ∨ ty = 12 then { data := pack 64 (l.drop 1), side := (l.headD 0).extractLsb' 0 16 }
  else { data := pack 64 l }
/-- The values that a beat is sent as. -/
def beatValues (ty : Nat) (b : Beat) : List Word :=
  let n := b.data.toNat
  if ty = 13 then (List.range 16).map fun i => BitVec.ofNat 64 (fld n (32 * i) 32)
  else (List.range (if tyWidth ty = 64 then 8 else 16 * tyWidth ty / 64)).map fun i => BitVec.ofNat 64 (fld n (64 * i) 64)

/-- A KTS converter takes one entry, or raises TYPE on one of KIND 01 and stops there. -/
def State.ktsTake (s : State) (k : Nat) : State :=
  let c := s.conv k
  let qk := k / 8 * 4 + c.qix
  let s0 := s.modQueue qk fun q => q.skip q.cap
  let q := s0.queue qk
  if c.stopped.isSome || c.beats.length ≥ 4 || q.cons == q.pub || (s.mt (k / 8)).popping c.qix then s
  else
    let t := s0.entryAt qk q.cons
    if t.kind == 1#2 then
      let e := convElem k
      (s.modConv k fun c => { c with stopped := some c.qix }).raiseArgs (s.lidOf (e / 4)) (s.ridOf (e / 4))
        { kind := fkTYPE, w1 := t.val, nofx := true, stat := true, place := e * 1024 + (s.elem e).ring.pos,
          spos := (s.elem e).ring.pos, site := .conv k }
    else
      let s1 := (s0.modQueue qk Queue.take).serve qk
      if t.kind == 2#2 then s1
      else
        s1.modConv k fun c =>
          let l := c.parts ++ [t.val]
          if l.length < beatEntries c.ty then { c with parts := l }
          else { c with parts := [], beats := c.beats ++ [beatOf c.ty l] }

/-- An STK converter appends one token of its first beat. -/
def State.stkSend (s : State) (k : Nat) : State :=
  let c := s.conv k
  let qk := k / 8 * 4 + c.qix
  match c.out with
  | x :: rest =>
    if !(s.queue qk).hasRoom then s
    else
      let g := c.grp
      let t : Token := { val := x, seq := BitVec.ofNat 8 c.sent, eod := if g != 0 && (c.sent + 1) % g == 0 then 1 else 0 }
      let s1 := ((s.append qk t).serve qk).modConv k fun c => { c with out := rest, sent := c.sent + 1 }
      s1.modConv k fun c => if c.closing && c.out.isEmpty && c.beats.isEmpty then
          { bind := c.after, next := c.next, fresh := c.fresh } else c
  | [] =>
    match c.beats with
    | [] => s
    | b :: rest => s.modConv k fun c => { c with beats := rest, out := beatValues c.ty b }

/-- CONVERTER_TRANSFER of converter `a` (R383); a closed load's converters have stopped (R274). -/
def execConverterTransfer (s : State) : Res :=
  let k := s.at_.a
  let c := s.conv k
  if (s.regionOf (k / 8)).closed then .next s
  else if k % 2 = 1 then .next (if c.en || c.closing then s.stkSend k else s)
  else .next (if c.en then s.ktsTake k else s)

/-! ### Multicast slots (R257) and cross-package sends (R258) -/

def execMcgset (r : D2) (s : State) : Res :=
  let v := r.view 0xBE
  let w := s.opA.toNat
  let d := s.cur.t1.val.extractLsb' 0 28
  let die := fld w 62 2
  if die = 3 || fld w 7 55 != 0 then fails s v fkBOUNDS 0
  else if fld s.cur.t1.val.toNat 29 35 != 0 then fails s v fkBOUNDS 1
  else if !tbit w 6 && (!destIsCt d || destDie d != die || destPort d = 3) then fails s v fkBOUNDS 1
  else .next (s.askObj v (die * 256 + v.lit) (scratchPa (mkSq die 1 0) 0))

/-- `mcgset` at the routers of its die. -/
def State.mcgHome (s : State) (id : Nat) : State :=
  let r := s.reqs.look id
  let w := r.f.t0.val.toNat
  let s1 := if tbit w 6 then { s with mcg := s.mcg.clearRange (r.tgt * 64) (r.tgt * 64 + 64) }
            else { s with mcg := s.mcg.put (r.tgt * 64 + w % 64) (r.f.t1.val.extractLsb' 0 29) }
  s1.replyVal id r.f.t0.val

def execXsend (r : D2) (s : State) : Res :=
  let v := r.view 0xBF
  let w := s.opB v
  if fld w.toNat 26 38 != 0 then fails s v fkBOUNDS (if v.hdr.litp then 3 else 1)
  else
    .next (s.askDie v 0 0 (some (if sqDie s.cur.sq = 2 then 4 else 3)))

end Sys2Proof.Machine
end

