-- ==== Sys2Proof/Machine/Static.lean ====
section
/-!
DEFINITION. Group 0xD: the static network and the records of a static ring (R277 to R284, R379 to R381). The scheduler
has set `cur` to the element and the record's number.
-/
namespace Sys2Proof.Machine

/-! ### The array (R379) -/

def arrU (e : Nat) : Nat := 2 * (sqX (e / 4) / 2) + e % 4 % 2
def arrV (e : Nat) : Nat := 2 * sqY (e / 4) + e % 4 / 2
/-- The element at column `u` and row `v` of a die's array. -/
def arrElem (die u v : Nat) : Nat := mkSq die (u / 2 * 2 + v / 2 % 2) (v / 2) * 4 + v % 2 * 2 + u % 2

/-- The element on a link: 1 N, 2 E, 3 S, 4 W; none at the edge of the die's array. -/
def neighbour (e side : Nat) : Option Nat :=
  let d := sqDie (e / 4)
  let u := arrU e
  let v := arrV e
  match side with
  | 1 => if v = 0 then none else some (arrElem d u (v - 1))
  | 2 => if u ≥ 63 then none else some (arrElem d (u + 1) v)
  | 3 => if v ≥ 71 then none else some (arrElem d u (v + 1))
  | 4 => if u = 0 then none else some (arrElem d (u - 1) v)
  | _ => none
/-- The link as its other end names it. -/
def opposite (side : Nat) : Nat := match side with | 1 => 3 | 2 => 4 | 3 => 1 | _ => 2

/-- The enable of a link of an element under switch settings (R380). -/
def linkBit (t : Tbl Nat) (e side : Nat) : Bool := tbit (t.look (e / 4)) (8 * (e % 4) + (side - 1))
/-- A link that is set up: both of its ends enable it. -/
def linkSet (t : Tbl Nat) (e side : Nat) : Bool :=
  linkBit t e side && match neighbour e side with | some n => linkBit t n (opposite side) | none => false

/-! ### Beats (R278, R381, R382) -/

/-- The converters of an element: even to SIN code 5, odd from SOUT code 5. -/
def convKey (e odd : Nat) : Nat := pairSq (e / 4) * 8 + 2 * (e % 4) + odd

/-- The beat that waits on an input, if one does. [DEDUCED: log 71] -/
def State.beatAt (s : State) (e side : Nat) : Option Beat :=
  if side = 5 then
    let c := s.conv (convKey e 0)
    if c.en then c.beats.head? else none
  else (s.elem e).links.look side
/-- Take it. -/
def State.takeBeat (s : State) (e side : Nat) : State :=
  if side = 5 then s.modConv (convKey e 0) fun c => { c with beats := c.beats.drop 1 }
  else s.modElem e fun x => { x with links := x.links.put side none }

/-- Room on an output; an output of code 0 takes nothing and holds nothing back. [DEDUCED: log 71] -/
def State.beatRoom (s : State) (e side : Nat) : Bool :=
  if side = 0 then true
  else if side = 5 then
    let c := s.conv (convKey e 1)
    c.en && !c.closing && c.beats.length + (if c.out.isEmpty then 0 else 1) < 4
  else
    linkSet (s.regionOf (e / 4)).links e side &&
    match neighbour e side with
    | some n => ((s.elem n).links.look (opposite side)).isNone
    | none => false
def State.sendBeat (s : State) (e side : Nat) (b : Beat) : State :=
  if side = 0 then s
  else if side = 5 then s.modConv (convKey e 1) fun c => { c with beats := c.beats ++ [b] }
  else
    match neighbour e side with
    | some n => s.modElem n fun x => { x with links := x.links.put (opposite side) (some b) }
    | none => s

/-! ### The ring (R277, R279) -/

/-- Records in an element's ring. -/
def Elem.ringLen (x : Elem) : Nat := x.nodes.length

/-- A ring start: loop counters 0, and the bindings of the element's converters take effect (R256, R283). -/
def State.ringStart (s : State) (e : Nat) : State :=
  let s1 := s.modElem e fun x => { x with ring := { x.ring with pos := 0, loop := [], beats := 0, on := true } }
  (s1.modConv (convKey e 0) fun c => c.ringStart false).modConv (convKey e 1) fun c => c.ringStart true

/-- The ring goes to a position; the one after the last is 0. -/
def State.ringTo (s : State) (e n : Nat) : State :=
  if n ≥ (s.elem e).ringLen then s.ringStart e else s.modElem e fun x => { x with ring := { x.ring with pos := n, beats := 0 } }

/-- One of the record's SCNT steps is done. -/
def State.ringCount (s : State) (e : Nat) (v : RecView) : State :=
  let n := (s.elem e).ring.beats + 1
  if n ≥ v.scnt then s.ringTo e (v.spos + 1) else s.modElem e fun x => { x with ring := { x.ring with beats := n } }

/-- R284: the record at a position is stepped past. -/
def State.stepPast (s : State) (e n : Nat) : State :=
  let s1 := s.modElem e fun x => { x with ring := { x.ring with halts := x.ring.halts.filter (· != n) } }
  if (s1.elem e).ring.pos = n then s1.ringTo e (n + 1) else s1
/-- It is stepped again. -/
def State.stepAgain (s : State) (e n : Nat) : State :=
  s.modElem e fun x => { x with ring := { x.ring with halts := x.ring.halts.filter (· != n) } }

/-- A fault in a static region: the ring stops at the record, and no frame is parked (R284, R353). -/
def State.raiseStatic (s : State) (e n kind detail : Nat) (fl : Option Flight) (comp : Word) : State :=
  let w := match fl with | some x => x.tok.bits | none => 0
  (s.modElem e fun x => { x with ring := { x.ring with halts := n :: x.ring.halts.filter (· != n) } }).raiseArgs
    (s.lidOf (e / 4)) (s.ridOf (e / 4))
    { kind := kind, detail := detail, w1 := w.extractLsb' 0 64, w2 := w.extractLsb' 64 64, comp := comp, nofx := true,
      stat := true, tokf := fl.isSome, place := e * 1024 + n, spos := n, flight := fl }

/-! ### Data records (R281, R282) -/

/-- FP32 lane `i` of a beat, and a beat of 16 lanes of `w` bits. -/
def Beat.lane (b : Beat) (i : Nat) : Nat := fld b.data.toNat (32 * i) 32
def beatOfLanes (w : Nat) (l : List Nat) : Beat := { data := BitVec.ofNat 512 (packRow w l) }

/-- K values in a beat, the lane width, and the values of one group (R281). -/
def macKb (ty : Nat) : Nat := if ty = 11 ∨ ty = 12 then 64 else if ty = 9 ∨ ty = 10 then 32 else 16
def macW (ty : Nat) : Nat := 512 / macKb ty
def macFmt (ty : Nat) : Fmt := fmtOfTy ty
def macGroups (ty : Nat) : Nat := if ty = 11 ∨ ty = 12 then 2 else 1

/-- Byte `i` of an accumulator used for weights (R280). -/
def State.accByte (s : State) (e acc i : Nat) : Nat := fld (s.accAt e acc (i / 4)) (8 * (i % 4)) 8

/-- One group's addition to partial sum `n`: the exact sum of the products, scaled, and rounded once. -/
def State.macAdd (s : State) (e acc ty : Nat) (x : Beat) (n g p : Nat) : Nat × Flags :=
  let w := macW ty
  let len := macKb ty / macGroups ty
  let row := (List.range 16).map fun i => s.accAt e acc (16 * n + i)
  let weight := fun (k : Nat) => fld (packRow 32 row) (w * k) w
  let xs := if macGroups ty = 2 then fld x.side.toNat (8 * g) 8 else 127
  let ws := if macGroups ty = 2 then s.accByte e acc (1024 + 2 * n + g) else 127
  let r : FVal × Flags :=
    if xs = 255 ∨ ws = 255 then (.nan false, 0)
    else
      let prods := (List.range len).map fun t =>
        mulVals ((macFmt ty).value (fld x.data.toNat (w * (len * g + t)) w)) ((macFmt ty).value (weight (len * g + t)))
      let fl := orAll (prods.map (·.2))
      match sumVals 0 (prods.map (·.1)) with
      | .error (y, k) => (y, fl ||| k)
      | .ok (neg, m) => (.fin neg m.mag (m.exp + (xs : Int) + ws - 254), fl)
  let o := fp32.packSum rne (sumVals 0 [fp32.value p, r.1])
  (o.1, r.2 ||| o.2)

/-- R281: the partial sums that leave for one beat. -/
def State.macBeat (s : State) (e acc ty : Nat) (x : Beat) (p : List Nat) : List Nat × Flags :=
  let l := (List.range 16).map fun n =>
    (List.range (macGroups ty)).foldl (fun (y : Nat × Flags) g =>
      let o := s.macAdd e acc ty x n g y.1
      (o.1, y.2 ||| o.2)) (p[n]?.getD 0, (0 : Flags))
  (l.map (·.1), orAll (l.map (·.2)))

/-- Row of beat `i` of a record (R282), and access to it. -/
def rowNo (v : RecView) (i : Nat) : Nat := (v.slit + i) % 64
def State.sxRow (s : State) (e acc r : Nat) : List Nat := (List.range 16).map fun i => s.accAt e acc (16 * r + i)
def State.putSxRow (s : State) (e acc r : Nat) (l : List Nat) : State :=
  ((List.range 16).foldl (fun st i => st.putAcc e acc (16 * r + i) (l[i]?.getD 0)) s).accMend e acc (16 * r) 16

/-- A record that reads accumulator words: one that fails its check raises ECCUE, and corrected errors are counted (R326). -/
def accChecked (s : State) (e : Nat) (v : RecView) (i n : Nat) (go : State) : Res :=
  if s.accBad e v.acc i n then .next (s.raiseStatic e v.spos fkECCUE 4 none (BitVec.ofNat 64 (ctWordPa (e / 4))))
  else .next (go.addCe (sqDie (e / 4)) (s.correctable (((List.range n).map fun j => accEcc e v.acc (i + j)).eraseDups)))

/-- R281: both sends take place together, once both links have room. -/
def execSxmac (r : FS) (s : State) : Res :=
  let v := r.view 0xD0
  let e := s.cur.elem
  let fwd := tbit v.sub 0
  let pin := tbit v.sub 1
  match s.beatAt e v.sin, if pin then s.beatAt e 1 else some {} with
  | some x, some p =>
    if !s.beatRoom e v.sout || (fwd && (!s.beatRoom e 2 || v.sout == 2)) then .next s
    else
      accChecked s e v 0 (if macGroups v.tyN = 2 then 264 else 256)
        (let o := s.macBeat e v.acc v.tyN x ((List.range 16).map p.lane)
         let s1 := s.takeBeat e v.sin
         let s2 := if pin then s1.takeBeat e 1 else s1
         let s3 := s2.sendBeat e v.sout (beatOfLanes 32 o.1)
         let s4 := if fwd then s3.sendBeat e 2 x else s3
         (s4.ringCount e v).orFlags e o.2)
  | _, _ => .next s

/-- The SIN beat goes to SOUT unchanged. -/
def execSxpass (r : FS) (s : State) : Res :=
  let v := r.view 0xD1
  let e := s.cur.elem
  match s.beatAt e v.sin with
  | some b => if s.beatRoom e v.sout then .next (((s.takeBeat e v.sin).sendBeat e v.sout b).ringCount e v) else .next s
  | none => .next s

/-- The beat is added lane by lane into the row, or written there with OVW. -/
def execSxacc (r : FS) (s : State) : Res :=
  let v := r.view 0xD2
  let e := s.cur.elem
  let row := rowNo v (s.elem e).ring.beats
  match s.beatAt e v.sin with
  | none => .next s
  | some b =>
    let s1 := s.takeBeat e v.sin
    if tbit v.sub 0 then .next ((s1.putSxRow e v.acc row ((List.range 16).map b.lane)).ringCount e v)
    else
      accChecked s e v (16 * row) 16
        (let l := (List.range 16).map fun i => fp32.add rne (s.accAt e v.acc (16 * row + i)) (b.lane i)
         ((s1.putSxRow e v.acc row (l.map (·.1))).ringCount e v).orFlags e (orAll (l.map (·.2))))

/-- The lanes are converted to TY; `.sr` counts lanes, with FX 0 (R67: a static record has no frame). -/
def State.sxConv (s : State) (v : RecView) (l : List Nat) : Beat × Flags :=
  let o := (l.zip (List.range l.length)).map fun p =>
    if tyWidth v.tyN = 32 then (p.1, 0) else convLane 13 v.tyN (rndOf v.opfN (s.srSeed s.cur) 0 p.2) p.1
  (beatOfLanes (tyWidth v.tyN) (o.map (·.1)), orAll (o.map (·.2)))
def execSxout (r : FS) (s : State) : Res :=
  let v := r.view 0xD3
  let e := s.cur.elem
  let row := rowNo v (s.elem e).ring.beats
  if !s.beatRoom e v.sout then .next s
  else if v.sin = 0 then
    accChecked s e v (16 * row) 16
      (let o := s.sxConv v (s.sxRow e v.acc row)
       let s1 := if tbit v.sub 0 then s.putSxRow e v.acc row [] else s
       ((s1.sendBeat e v.sout o.1).ringCount e v).orFlags e o.2)
  else
    match s.beatAt e v.sin with
    | none => .next s
    | some b =>
      let o := s.sxConv v ((List.range 16).map b.lane)
      .next ((((s.takeBeat e v.sin).sendBeat e v.sout o.1).ringCount e v).orFlags e o.2)

/-- R282: a row is written from the SIN beat, or sent to SOUT. -/
def execSxmov (r : FS) (s : State) : Res :=
  let v := r.view 0xD5
  let e := s.cur.elem
  let row := rowNo v (s.elem e).ring.beats
  if tbit v.sub 0 then
    if !s.beatRoom e v.sout then .next s
    else accChecked s e v (16 * row) 16
      ((s.sendBeat e v.sout (beatOfLanes 32 (s.sxRow e v.acc row))).ringCount e v)
  else
    match s.beatAt e v.sin with
    | none => .next s
    | some b => .next (((s.takeBeat e v.sin).putSxRow e v.acc row ((List.range 16).map b.lane)).ringCount e v)

/-! ### Weights, loops and pauses (R280, R283) -/

/-- Distinct positions that the record at SPOS `n` has taken. -/
def Ring.taken (x : Ring) (n : Nat) : Nat := popcount 256 (x.wld.look n)

/-- R280: the step completes once SCNT positions have been written. -/
def execSxwld (r : FS) (s : State) : Res :=
  let v := r.view 0xD4
  let e := s.cur.elem
  if (s.elem e).ring.taken v.spos < v.scnt then .next s
  else .next ((s.modElem e fun x => { x with ring := { x.ring with wld := x.ring.wld.put v.spos 0 } }).ringTo e (v.spos + 1))

/-- R283: the body runs SCNT + 1 times in all. -/
def execSxloop (r : FS) (s : State) : Res :=
  let v := r.view 0xD6
  let e := s.cur.elem
  let c := (s.elem e).ring.loop.look v.spos
  let set := fun (n : Nat) => s.modElem e fun x => { x with ring := { x.ring with loop := x.ring.loop.put v.spos n } }
  if c < v.scnt then .next ((set (c + 1)).ringTo e (v.slit % 64)) else .next ((set 0).ringTo e (v.spos + 1))

def execSxnop (r : FS) (s : State) : Res := .next (s.ringCount s.cur.elem (r.view 0xD7))

/-- What becomes of a token at a record of a static region (R100, R280): the fault that it raises. -/
def State.weightFault (s : State) (e n : Nat) (t : Token) : Option (Nat × Nat) :=
  let v := s.view (e * 1024 + n)
  match opInfo v.op.toNat with
  | none => some (fkILLOP, 1)
  | some _ =>
    match recordError v with
    | some .unassigned => some (fkILLOP, 1)
    | some .typ => some (fkTYPE, destPort t.dest)
    | some .tag => some (fkILLOP, 2)
    | _ =>
      if v.op != 0xD4 then some (fkILLOP, 7)
      else if t.kind == 1#2 then some (fkTYPE, destPort t.dest)
      else if destPort t.dest != 0 then some (fkMISPORT, destPort t.dest)
      else if t.seq.toNat ≥ v.scnt || tbit ((s.elem e).ring.wld.look n) t.seq.toNat then some (fkBOUNDS, 0)
      else none

/-- SXWLD_WEIGHT_TOKEN of stage entry `b` at element `a` (R280): the token is checked and written at once, or waits
while the record's count is full. -/
def execSxwldWeightToken (s : State) : Res :=
  let e := s.at_.a
  let i := s.at_.b
  let x := s.elem e
  match x.stage[i]? with
  | none => .next s
  | some fl =>
    let t := fl.tok
    let n := destNode t.dest
    let v := s.view (e * 1024 + n)
    let rg := s.regionOf (e / 4)
    if !rg.mode || t.kind == 2#2 || heldBack x.stage i fl then .next s
    else
      let st := s.modElem e fun x => x.without i
      let s0 := if fl.link < 5 then st.touchFx (e / 4) t.fx.toNat else st
      if rg.withdraw then
        match s0.parkToken (e / 4) fl with
        | some u => .next u
        | none => .next (s.lineSpillfull (e / 4) fl)
      else if t.par then .next (s0.raiseStatic e n fkECCUE 5 (some fl) 0)
      else if v.op == 0xD4 && t.kind == 0#2 && destPort t.dest == 0 && x.ring.taken n ≥ v.scnt then .next s
      else
        match s.weightFault e n t with
        | some k => .next (s0.raiseStatic e n k.1 k.2 (some fl) 0)
        | none =>
          let k := 2 * t.seq.toNat
          let s1 := ((s0.putAcc e v.acc k (t.val.toNat % 2 ^ 32)).putAcc e v.acc (k + 1) (t.val.toNat / 2 ^ 32)).accMend e v.acc k 2
          .next (s1.modElem e fun x => { x with ring := { x.ring with wld := x.ring.wld.upd n fun m => m + 2 ^ t.seq.toNat } })

end Sys2Proof.Machine
end

