-- ==== Sys2Proof/Machine/Block.lean ====
section
/-!
DEFINITION. Configuration blocks (R337, R338, R380): their layout, their checks, and the block that describes a region's
active configuration (R272).
-/
namespace Sys2Proof.Machine

/-- A configuration block as data. Squares, elements, queues and cells are named by their keys. -/
structure Block where
  rid : Nat := 0
  mode : Bool := false
  level : Bool := false
  fcls : BitVec 2 := 0
  xroot : Word := 0
  srseed : Word := 0
  famt : Nat := 0
  fqmt : Nat := 0
  fslim : Nat := 0
  loadid : Nat := 0
  records : List (Nat × Rec96) := []
  quotas : List (Nat × Nat) := []
  modes : List (Nat × Nat) := []
  bufs : List (Nat × Word) := []
  queues : List (Nat × Nat × Nat) := []
  bars : List Nat := []
  tmpls : List (Nat × List Byte) := []
  mcast : List (Nat × Nat) := []
  luts : List (Nat × List Byte) := []
  entries : List (Nat × Nat) := []
  fault : Option Nat := none
  links : List (Nat × Nat) := []
  deriving DecidableEq, Repr, Inhabited

/-- Bytes of an entry of a section type, 1 to 12. -/
def blkEntry (ty : Nat) : Nat :=
  match ty with
  | 1 | 4 | 5 => 16
  | 7 => 96
  | 9 => 1040
  | 0xB => 4
  | _ => 8

def nodeTile (key : Nat) : Nat := key / 4096 % 4096
/-- The node word of a node key. -/
def nodeWord (key : Nat) : Nat := key / 4096 / 4096 * 4096 + key % 4096
def keyOf (tile word : Nat) : Nat := fld word 12 2 * 2 ^ 24 + tile % 4096 * 4096 + fld word 0 12
/-- DIE, a zero byte and TILE of a square. -/
def sqBytes (q : Nat) : List Byte := toBytes 1 (sqDie q) ++ [0] ++ toBytes 2 (q % 4096)

/-! ### Writing a block -/

/-- The entries of each section, as bytes. -/
def Block.section (b : Block) (ty : Nat) : List (List Byte) :=
  match ty with
  | 1 => b.records.map fun r => toBytes 12 r.2.toNat ++ toBytes 2 (nodeTile r.1) ++ toBytes 2 (nodeWord r.1)
  | 2 => b.quotas.map fun r => toBytes 2 (nodeTile r.1) ++ toBytes 2 (nodeWord r.1) ++ toBytes 4 (r.2 % 65536)
  | 3 => b.modes.map fun r => sqBytes r.1 ++ toBytes 4 (r.2 % 256)
  | 4 => b.bufs.map fun r => sqBytes (r.1 / 64) ++ toBytes 4 (r.1 % 64) ++ toBytes 8 r.2.toNat
  | 5 => b.queues.map fun r => sqBytes (r.1 / 4) ++ toBytes 4 (r.1 % 4) ++ toBytes 4 r.2.1 ++ toBytes 4 r.2.2
  | 6 => b.bars.map fun c => sqBytes (c / 32) ++ toBytes 4 (c % 32)
  | 7 => b.tmpls.map fun r => sqBytes (r.1 / 4) ++ toBytes 12 (r.1 % 4) ++ r.2
  | 8 => b.mcast.map fun r => toBytes 1 (r.1 / 16384) ++ toBytes 1 (r.1 / 64) ++ toBytes 2 (r.1 % 64) ++ toBytes 4 r.2
  | 9 => b.luts.map fun r => sqBytes (r.1 / 16) ++ toBytes 1 (r.1 / 4 % 4) ++ toBytes 11 (r.1 % 4) ++ r.2
  | 0xA => b.entries.map fun r => toBytes 4 r.1 ++ toBytes 4 r.2
  | 0xB => b.fault.toList.map fun d => toBytes 4 d
  | _ => b.links.map fun r => sqBytes r.1 ++ toBytes 4 r.2

def padTo (n : Nat) (b : List Byte) : List Byte := b ++ List.replicate ((n - b.length % n) % n) 0

/-- The section table and the sections, in ascending TYPE order, from offset `o` on. -/
def layOut (o : Nat) : List (Nat × List (List Byte)) → List Byte × List Byte
  | [] => ([], [])
  | (ty, es) :: rest =>
    let body := es.flatten
    let p := padTo 16 body
    let r := layOut (o + p.length) rest
    (toBytes 4 ty ++ toBytes 4 es.length ++ toBytes 4 o ++ toBytes 4 body.length ++ r.1, p ++ r.2)

/-- The bytes of a block (R337). -/
def Block.encode (b : Block) : List Byte :=
  let secs := ([1, 2, 3, 4, 5, 6, 7, 8, 9, 0xA, 0xB, 0xC].map fun ty => (ty, b.section ty)).filter fun p => !p.2.isEmpty
  let secs := if secs.isEmpty then [(1, [])] else secs
  let (table, body) := layOut (64 + 16 * secs.length) secs
  let rest := padTo 64 (table ++ body)
  toBytes 4 0x4B43334E ++ toBytes 2 1 ++ toBytes 2 b.rid ++ toBytes 1 b.mode.toNat ++ toBytes 1 b.level.toNat ++
  toBytes 1 b.fcls.toNat ++ toBytes 1 secs.length ++ toBytes 4 (64 + rest.length) ++ toBytes 8 b.xroot.toNat ++
  toBytes 8 b.srseed.toNat ++ toBytes 2 (b.famt % 4096) ++ toBytes 1 (sqDie b.famt) ++ toBytes 1 (sqDie b.fqmt) ++
  toBytes 2 (b.fqmt % 4096) ++ toBytes 2 b.fslim ++ toBytes 8 b.loadid ++ List.replicate 16 0 ++ rest

/-! ### Reading a block -/

def blkSecs (b : List Byte) : List Sec := (List.range (u b 0x0B 1)).map fun i => secAt b (0x40 + 16 * i)
/-- Offsets of the entries of a section type. -/
def blkRows (b : List Byte) (ty : Nat) : List Nat :=
  ((blkSecs b).filter fun x => x.ty == ty).flatMap fun x => (List.range x.count).map fun i => x.off + i * blkEntry ty
def blkSq (b : List Byte) (o : Nat) : Nat := u b o 1 * 4096 + u b (o + 2) 2 % 4096

/-- What a block says. -/
def Block.ofBytes (b : List Byte) : Block :=
  { rid := u b 6 2, mode := u b 8 1 == 1, level := u b 9 1 == 1, fcls := BitVec.ofNat 2 (u b 0x0A 1),
    xroot := BitVec.ofNat 64 (u b 0x10 8), srseed := BitVec.ofNat 64 (u b 0x18 8),
    famt := u b 0x22 1 * 4096 + u b 0x20 2 % 4096, fqmt := u b 0x23 1 * 4096 + u b 0x24 2 % 4096,
    fslim := u b 0x26 2, loadid := u b 0x28 8,
    records := (blkRows b 1).map fun o => (keyOf (u b (o + 12) 2) (u b (o + 14) 2), BitVec.ofNat 96 (u b o 12))
    quotas := (blkRows b 2).map fun o => (keyOf (u b o 2) (u b (o + 2) 2), u b (o + 4) 2)
    modes := (blkRows b 3).map fun o => (blkSq b o, u b (o + 4) 1)
    bufs := (blkRows b 4).map fun o => (blkSq b o * 64 + u b (o + 4) 1 % 64, BitVec.ofNat 64 (u b (o + 8) 8))
    queues := (blkRows b 5).map fun o => (blkSq b o * 4 + u b (o + 4) 1 % 4, u b (o + 8) 4, u b (o + 12) 4)
    bars := (blkRows b 6).map fun o => blkSq b o * 32 + u b (o + 4) 1 % 32
    tmpls := (blkRows b 7).map fun o => (blkSq b o * 4 + u b (o + 4) 1 % 4, (b.drop (o + 16)).take 80)
    mcast := (blkRows b 8).map fun o => ((u b o 1 * 256 + u b (o + 1) 1) * 64 + u b (o + 2) 1 % 64, u b (o + 4) 4)
    luts := (blkRows b 9).map fun o => ((blkSq b o * 4 + u b (o + 4) 1 % 4) * 4 + u b (o + 5) 1 % 4, (b.drop (o + 16)).take 1024)
    entries := (blkRows b 0xA).map fun o => (u b o 4, u b (o + 4) 4)
    fault := ((blkRows b 0xB).map fun o => u b o 4).head?
    links := (blkRows b 0xC).map fun o => (blkSq b o, u b (o + 4) 4) }

/-! ### Checks (R338, R380) -/

/-- The square stands in the region. -/
def State.sqIn (s : State) (rid q : Nat) : Bool := sqDie q < 3 && sqY q < 36 && s.ridOf q == rid && !s.fused.contains q
def State.ctIn (s : State) (rid q : Nat) : Bool := s.sqIn rid q && isCt q
def State.mtIn (s : State) (rid q : Nat) : Bool := s.sqIn rid q && !isCt q

/-- A byte at fault when a condition fails. -/
def need (ok : Bool) (o : Nat) : List Nat := if ok then [] else [o]
/-- The bytes from `o` on that differ from those of a constant field. -/
def needIs (b : List Byte) (o : Nat) (want : List Byte) : List Nat :=
  ((List.range want.length).filter fun i => b[o + i]? != want[i]?).map (o + ·)
/-- A TILE of 12 bits at `o`, whose square passes: the reserved bits stand in its second byte. -/
def needTile (b : List Byte) (o : Nat) (ok : Bool) : List Nat := need ok o ++ need (u b o 2 < 4096) (o + 1)

/-- The bytes at fault in one entry. -/
def State.entryBad (s : State) (b : List Byte) (rid ty o : Nat) : List Nat :=
  let sq := blkSq b o
  let die := need (u b o 1 < 3) o
  let dest := fun (p : Nat) =>
    let d := BitVec.ofNat 28 (u b p 4)
    need (destIsCt d && s.ctIn rid (destSq d)) p ++ need (u b p 4 < 2 ^ 28) (p + 3)
  let node := fun (p : Nat) =>
    let w := u b (p + 2) 2
    needTile b p (fld w 12 2 == 3 || s.ctIn rid (keyOf (u b p 2) w / 4096)) ++ need (w < 12288) (p + 3)
  let mtAt := die ++ needTile b (o + 2) (s.mtIn rid sq)
  let ctAt := die ++ needTile b (o + 2) (s.ctIn rid sq)
  match ty with
  | 1 => node (o + 12)
  | 2 => node o
  | 3 => mtAt ++ need (u b (o + 4) 1 ≤ 3) (o + 4)
  | 4 => mtAt ++ need (u b (o + 4) 1 < 64) (o + 4)
  | 5 => mtAt ++ need (u b (o + 4) 1 < 4) (o + 4)
  | 6 => ctAt ++ need (u b (o + 4) 1 < 32) (o + 4)
  | 7 =>
    let n := (blkRows b 4).length
    let side := fun (p : Nat) => need (u b p 2 == 0xFFFF || u b p 2 < n) p
    mtAt ++ need (u b (o + 4) 1 < 4) (o + 4) ++ need (1 ≤ u b (o + 16) 1 && u b (o + 16) 1 ≤ 8) (o + 16) ++ side (o + 18) ++ side (o + 20)
  | 8 => die ++ need (u b (o + 2) 1 < 64) (o + 2) ++ (if tbit (u b (o + 4) 4) 28 then
      let d := BitVec.ofNat 28 (u b (o + 4) 4)
      need (destIsCt d && s.ctIn rid (destSq d)) (o + 4) else [])
  | 9 => ctAt ++ need (u b (o + 4) 1 < 4) (o + 4) ++ need (u b (o + 5) 1 < 4) (o + 5)
  | 0xA => dest o
  | 0xB => dest o
  | _ => ctAt

/-- R380: byte EL of a STATICNET entry. -/
def State.linkBad (s : State) (t : Tbl Nat) (rid q el w : Nat) : Bool :=
  let e := q * 4 + el
  fld w (8 * el + 4) 4 != 0 ||
  [1, 2, 3, 4].any fun side =>
    tbit w (8 * el + (side - 1)) && !(linkSet t e side && match neighbour e side with
      | some n => s.ctIn rid (n / 4)
      | none => false)

/-- The offset of the first offending byte of a malformed block. -/
def State.blockBad (s : State) (b : List Byte) : Option Nat :=
  let rid := u b 6 2
  let len := u b 0x0C 4
  let n := u b 0x0B 1
  let head := needIs b 0 (toBytes 4 0x4B43334E) ++ needIs b 4 (toBytes 2 1) ++ need ((s.region rid).load != 0) 6 ++
    need (u b 8 1 ≤ 1) 8 ++ need (u b 9 1 ≤ 1) 9 ++ need (u b 0x0A 1 ≤ 2) 0x0A ++ need (1 ≤ n && n ≤ 16) 0x0B ++
    need (len % 64 == 0 && 64 + 16 * n ≤ len && len ≤ b.length) 0x0C ++ need (s.mtIn rid (u b 0x22 1 * 4096 + u b 0x20 2)) 0x20 ++
    need (u b 0x23 1 < 3) 0x23 ++ need (mtSquare (u b 0x23 1 * 4096 + u b 0x24 2)) 0x24 ++
    need (u b 0x26 1 ≤ 64) 0x26 ++ need (u b 0x27 1 = 0) 0x27
  match head.min? with
  | some o => some o
  | none =>
    let secs := blkSecs b
    let table := (List.range n).flatMap fun i =>
      let x := secAt b (0x40 + 16 * i)
      let o := 0x40 + 16 * i
      need (1 ≤ x.ty && x.ty ≤ 0xC) o ++ need (x.len == x.count * blkEntry x.ty) (o + 4) ++
      need (x.off % 16 == 0 && x.off + x.len ≤ len && (x.len == 0 || 64 + 16 * n ≤ x.off) &&
        ((secs.take i).all fun y => apart x.off x.len y.off y.len)) (o + 8)
    match table.min? with
    | some o => some o
    | none =>
      let links := ((blkRows b 0xC).map fun o => (blkSq b o, u b (o + 4) 4)).foldl (fun (t : Tbl Nat) p => t.put p.1 p.2) []
      let bad := secs.flatMap fun x => (List.range x.count).flatMap fun i =>
        let o := x.off + i * blkEntry x.ty
        s.entryBad b rid x.ty o ++
        if x.ty = 0xC then
          ((List.range 4).filter fun el => s.linkBad links rid (blkSq b o) el (u b (o + 4) 4)).map fun el => o + 4 + el
        else []
      bad.min?

/-! ### The block of an active configuration (R272, R338) -/

/-- The BUFFERS index of a buffer. -/
def bufIndex (l : List (Nat × Word)) (q buf : Nat) : Nat := (l.findIdx? fun p => p.1 == q * 64 + buf).getD 0xFFFF
/-- A template entry of 80 bytes with BUFFERS indices. -/
def tmplBytes (t : Template) (l : List (Nat × Word)) : List Byte :=
  let side := fun (x : Side) => match x with | .arm => 0xFFFF | .tile q buf _ _ _ _ => bufIndex l q buf
  let lv := t.levels.flatMap fun p => toBytes 4 p.1 ++ toBytes 4 (BitVec.ofInt 32 p.2).toNat
  toBytes 2 t.levels.length ++ toBytes 2 (side t.src) ++ toBytes 2 (side t.dst) ++ toBytes 10 t.esize ++ lv ++
    List.replicate (64 - lv.length) 0

/-- The active configuration of a region. -/
def State.blockOf (s : State) (rid : Nat) : Block :=
  let r := s.region rid
  let mts := s.mts.filter fun p => s.ridOf p.1 == rid
  let elems := s.elems.filter fun p => s.ridOf (p.1 / 4) == rid
  let bufs := mts.flatMap fun p => (p.2.bufs.filter fun d => dUse d.2).map fun d => (p.1 * 64 + d.1, d.2)
  { rid := rid, mode := r.mode, level := r.level, fcls := r.fcls, xroot := r.xroot, srseed := r.srseed, famt := r.famt,
    fqmt := r.fqmt, fslim := r.fslim, loadid := r.load,
    records := elems.flatMap fun p => (p.2.nodes.filter fun n => fld n.2.toNat 88 8 != 0).map fun n => (p.1 * 1024 + n.1, n.2)
    quotas := elems.flatMap fun p => p.2.quota.map fun n => (p.1 * 1024 + n.1, n.2)
    modes := mts.map fun p => (p.1, p.2.mode)
    bufs := bufs
    queues := mts.flatMap fun p => (p.2.queues.filter fun k => k.2.declared).map fun k => (p.1 * 4 + k.1, k.2.cap, k.2.base)
    bars := (s.cts.filter fun p => s.ridOf p.1 == rid).flatMap fun p =>
      (p.2.bar.filter fun c => c.2.declared).map fun c => p.1 * 32 + c.1
    tmpls := mts.flatMap fun p => p.2.queues.filterMap fun k => k.2.tmpl.map fun t => (p.1 * 4 + k.1, tmplBytes t bufs)
    mcast := (s.mcg.filter fun p => s.ridOf (destSq (p.2.extractLsb' 0 28)) == rid && p.2.getLsbD 28).map fun p => (p.1, p.2.toNat)
    luts := elems.flatMap fun p => ((List.range 4).filter fun c =>
        (List.range 128).any fun i => p.2.lut.look (c * 128 + i) != 0).map fun c =>
      (p.1 * 4 + c, (List.range 128).flatMap fun i => toBytes 8 (p.2.lut.look (c * 128 + i)).toNat)
    entries := r.entries.map fun p => (p.1.toNat, p.2)
    fault := r.faultDest.map (·.toNat)
    links := r.links }

end Sys2Proof.Machine
end

