-- ==== Sys2Proof/Machine/System.lean ====
section
/-!
DEFINITION. Group 0xC: faults raised and resolved by the graph, parking and re-issue, marker rounds, time, progress and
status registers, management calls, sources and quiescence, and `halt` (R259 to R276, R357, R450).
-/
namespace Sys2Proof.Machine

/-! ### Quiescence (R273, R275) -/

/-- The element holds no token in a stage and no firing in a queue or unit. -/
def Elem.quiet (x : Elem) : Bool :=
  x.readyQ.isEmpty && x.back.isEmpty && x.inStage.isEmpty && x.outStage.isEmpty && x.answers.isEmpty && x.macroQ.isEmpty &&
  x.run.isNone && x.macroDone.isNone && x.rpt.isNone && x.lutLoads.isEmpty

/-- A request that nothing holds back for good: one that waits at its object, was never admitted, has faulted, or stands
behind a faulted one is not on its way. The accesses of engines are no firings. -/
def State.onItsWay (s : State) (id : Nat) (r : MReq) : Bool :=
  !r.eng && !r.orphan && !r.dead && !r.deferred && r.stage != .faulted && r.stage != .held && r.stage != .posted &&
  !(r.wave && (s.before id).any fun x => x.stage == .faulted)

/-- Tokens of a load in routers and links; one from another package is the load's once it has entered its squares. -/
def State.travelling (s : State) (lid : Nat) : Bool :=
  let mine := fun (l : List Flight) => l.any fun fl => fl.lid == lid && !fl.ingress
  (s.rin.any fun p => mine p.2 || (s.lidOf (p.1 / 32) == lid && p.2.any fun fl => fl.lid == lid)) ||
  (s.srcQ.any fun p => mine p.2) || (s.ioOut.any fun p => mine p.2) ||
  (s.chans.any fun p => mine p.2.tokens) || (s.syncIn.any fun c => c.lid == lid) ||
  !(s.load lid).handlers.isEmpty || s.notices.any fun n =>
    match n.what with
    | .park rid _ _ | .unpark rid _ => (s.region rid).load == lid
    | .stop l => l == lid

/-- R275: no token of the load is in flight, and no firing of it stands in a queue or stage. [DEDUCED: log 74] -/
def State.loadQuiet (s : State) (lid : Nat) : Bool :=
  (s.elems.all fun p => s.lidOf (p.1 / 4) != lid || p.2.quiet) &&
  (s.cts.all fun p => s.lidOf p.1 != lid || (p.2.matcherIn.isEmpty && p.2.spilled.all fun x => x.2.held.isEmpty)) &&
  !(s.reqs.any fun p => p.2.lid == lid && s.onItsWay p.1 p.2) && !s.travelling lid &&
  !(s.ioIn.any fun p => p.2.any fun fl => fl.lid == lid)

/-- A token that the region has sent and that is on its way to the region itself, or to a named queue: it counts wherever it
stands (R273). One that a close holds outside the region does not. -/
def State.sentWithin (s : State) (rid : Nat) (fl : Flight) : Bool :=
  let l := if fl.tok.mc then s.destsOf fl else [fl.tok.dest]
  sqDie fl.srcSq < 3 && s.ridOf fl.srcSq == rid && l.any fun d => destDie d != 3 && (destIsMt d || s.ridOf (destSq d) == rid)

/-- R273, R274: no token stands in the region's links and buffers, and none of its own tokens is on its way within it or to a
named queue. [DEDUCED: log 67] -/
def State.regionQuiet (s : State) (rid : Nat) : Bool :=
  let none_ := fun (l : List Flight) => !(l.any (s.sentWithin rid))
  (s.elems.all fun p => s.ridOf (p.1 / 4) != rid || p.2.quiet) &&
  (s.cts.all fun p => s.ridOf p.1 != rid || (p.2.matcherIn.isEmpty && p.2.spilled.all fun x => x.2.held.isEmpty)) &&
  (s.rin.all fun p => if s.ridOf (p.1 / 32) == rid then p.2.isEmpty else none_ p.2) &&
  (s.srcQ.all fun p => if s.ridOf p.1 == rid then p.2.isEmpty else none_ p.2) &&
  (s.chans.all fun p => none_ p.2.tokens) && (s.ioOut.all fun p => none_ p.2) &&
  !(s.reqs.any fun p => p.2.rid == rid && s.onItsWay p.1 p.2)

/-- R275: the load's firings that wait at the allocator, queues, barriers, sync words and I-structure words. -/
def State.waiting (s : State) (lid : Nat) : Nat :=
  let atAlloc := ((s.load lid).regions.map fun r => ((s.region r).allocIn ++ (s.region r).allocQ).length).foldl (· + ·) 0
  let atTile := ((s.cts.filter fun p => s.lidOf p.1 == lid).map fun p => p.2.spawnWait.length).foldl (· + ·) 0
  let atObj := (s.reqs.filter fun p => p.2.lid == lid && p.2.deferred &&
    ((0xB0 ≤ p.2.op && p.2.op ≤ 0xB6) || (0xB9 ≤ p.2.op && p.2.op ≤ 0xBB))).length
  let atWord := (s.armed.filter fun p => p.2 == lid + 1).length
  let atIst := (s.mts.map fun m => (m.2.readers.filter fun d => d.lid == lid).length).foldl (· + ·) 0
  min (atAlloc + atTile + atObj + atWord + atIst) 0xFFFF

/-! ### Records (R260, R352, R357) -/

/-- The unresolved record that a handle names. -/
def State.recordOf (s : State) (lid : Nat) (h : Nat) : Option (Nat × FaultRec) :=
  let r := (s.load lid).faults.look (h % 1024)
  if fld h 10 6 == 0 && h / 2 ^ 32 == 0 && r.used && r.ser == fld h 16 16 then some (h % 1024, r) else none

def FaultRec.nofx (r : FaultRec) : Bool := r.w0.getLsbD 55
def FaultRec.stat (r : FaultRec) : Bool := r.w0.getLsbD 54
def FaultRec.tokf (r : FaultRec) : Bool := r.w0.getLsbD 53
def FaultRec.kind (r : FaultRec) : Nat := fld r.w0.toNat 56 8
def FaultRec.fx (r : FaultRec) : Nat := fld r.w0.toNat 14 12
/-- The node key of the place. -/
def FaultRec.place (r : FaultRec) : Nat := fld r.w0.toNat 26 26

/-- The record leaves the queue. -/
def State.resolve (s : State) (lid ix : Nat) : State := s.modLoad lid fun l => { l with faults := l.faults.del ix }

/-- R357: another unresolved record names the frame. -/
def State.named (s : State) (lid rid fx : Nat) : Bool :=
  (s.load lid).faults.any fun p => p.2.used && !p.2.nofx && p.2.rid == rid && p.2.fx == fx

/-- Step 4 of R262: FLT is cleared and the frame unparked, unless another record names it. -/
def State.unparkAfter (s : State) (lid : Nat) (r : FaultRec) : State :=
  if r.nofx || s.named lid r.rid r.fx then s
  else s.unpark r.rid r.fx

/-! ### fret (R262) -/

/-- Step 1: the faulted node's tokens carry the value, with the tag and AUX of its firing. A node that sends nothing of
its own sends nothing here: an arrival of `cmbtacc` (R245) and a `swset` (R241); of `call` only DESTA takes a result. -/
def State.fretSend (s : State) (from_ : Nat) (r : FaultRec) (y : Token) : State :=
  match r.firing with
  | none => s
  | some f =>
    let v := s.view f.key
    -- an EF `ist` that was lost has not been acknowledged yet
    let unacked := r.kind = fkEFLOST && (r.req.map fun id => !(s.reqs.look id).acked) == some true
    if (r.nofx && !unacked) || v.op == 0x9A || (v.op == 0xAB && f.words.isEmpty) then s
    else
      let t := f.base y.kind y.val
      let outs := if v.op == 0x04 then [steerOut v (portB v f) t]
        else if v.op == 0x14 then [{ dest := v.destA, tok := t }]
        else if v.hdr.ndest == 3 then outs2 v t t else outs1 v t
      s.sendAnswer from_ f v (portB v f) outs

/-- Step 2: the faulted request counts as completed (R235); one that faulted before it was formed takes its place in the
chain as a request that does nothing. [DEDUCED: log 101] -/
def State.fretReq (s : State) (r : FaultRec) : State :=
  match r.req, r.firing with
  | none, some f =>
    let v := s.view f.key
    let op := v.op.toNat
    -- a destination that failed when the result was sent: the request is complete
    let sent := (r.kind = fkBOUNDS && fld r.w3.toNat 0 32 = 3) || (r.kind = fkILLOP && op != 0x9A)
    if r.nofx || sent || op < 0x90 || 0x9C < op || op = 0x92 || op = 0x93 || op = 0x98 then s
    else s.setOut { s.reqOf f v true [] with op := 0x9B, ef := false, acked := true }
  | none, none => s
  | some id, _ =>
    s.retire id

/-- Step 3: a stopped macro ends with V = 0 and ST = 4, and SEQ advances (R40, R245). [DEDUCED: log 65] -/
def State.fretMacro (s : State) (r : FaultRec) : State :=
  match r.firing with
  | none => s
  | some f =>
    let v := s.view f.key
    let x := s.elem f.elem
    let s1 := if x.lastStop == some { f with pg := none } then
        s.modElem f.elem fun x => { x with lastStop := none, pga := setField (setField x.pga 52 1 0) 48 4 4 }
      else s
    if v.op == 0x70 || (v.op == 0x71 && v.shape = 0) then
      if v.ord then s1.setSeq f.elem v.accN ((f.val ((controlPort v.op.toNat).getD 0)).toNat + 1) else s1
    else if v.op == 0xAB && destPort f.t0.dest == 0 && f.words.isEmpty then
      let s2 := if v.ord then s1.setSeq f.elem v.accN (f.k + 1) else s1
      match s2.countTacc f.sq v f with
      | .taken t => t
      | .fires t g => t.modElem f.elem fun x => { x with readyQ := x.readyQ ++ [g] }
      | _ => s2
    else s1

/-- What the record stopped apart from a firing goes on past it: a copy ends (R386), a converter skips its entry (R383), a
ring steps past its record (R284), a park-buffer line is tried again (R349), and a `cfgcmt` ends with the value (R100). -/
def State.fretSite (s : State) (r : FaultRec) (x : Word) : State :=
  match r.site with
  | .commit id _ => s.replyVal id x
  | .copy k => s.modQueue k fun q => { q with copy := none }
  | .conv k =>
    let qk := k / 8 * 4 + ((s.conv k).stopped).getD 0
    let q := s.queue qk
    let s1 := s.modConv k fun c => { c with stopped := none }
    if (s.conv k).stopped.isNone || q.cons == q.pub || (s.entryAt qk q.cons).kind != 1#2 then s1
    else (s1.modQueue qk Queue.take).serve qk
  | .none =>
    if r.stat then s.stepPast (r.place / 1024) (r.place % 1024)
    else if r.kind = fkSPILLFULL && r.nofx then
      s.modCt (r.place / 4096) fun c => { c with lineFull := c.lineFull.filter (· != r.fx) }
    else s

/-- The fault queue's MT resolves the record of a `fret`, or raises BOUNDS (R260). -/
def State.fretHome (s : State) (id : Nat) : State :=
  let q := s.reqs.look id
  match s.recordOf q.lid q.f.t0.val.toNat with
  | none => s.replyFails id fkBOUNDS 0
  | some (ix, r) =>
    let s1 := (((s.resolve q.lid ix).fretSend q.home r q.f.t1).fretReq r).fretMacro r
    (((s1.fretSite r q.f.t1.val).unparkAfter q.lid r).pump).replyVal id 0

/-! ### fkill (R263) -/

/-- R235: the frame's context is discarded, with the held stores; a request that has left may still perform. -/
def State.dropCtx (s : State) (rid fx : Nat) : State :=
  let mine := fun (r : MReq) => r.rid == rid && r.f.t0.fx.toNat == fx && r.wave
  let gone := fun (r : MReq) => mine r && r.stage != .sent && r.stage != .reply && r.stage != .posted
  let s1 := { s with reqs := (mapTbl s.reqs fun _ r => if mine r then { r with dead := true } else r).filter fun p => !gone p.2 }
  { s1 with wctx := if (s1.wctx.look (rid * 4096 + fx)).isOpen then
      s1.wctx.upd (rid * 4096 + fx) fun c => { c with chain := [], held := [] } else s1.wctx }

/-- The frame is released, and the `fkill` is answered when the release has completed. -/
def State.fkillHome (s : State) (id : Nat) : State :=
  let q := s.reqs.look id
  match s.recordOf q.lid q.f.t0.val.toNat with
  | none => s.replyFails id fkBOUNDS 0
  | some (ix, r) =>
    if r.nofx then s.replyFails id fkILLOP 7
    else
      let s1 := ((s.resolve q.lid ix).dropCtx r.rid r.fx).release r.rid r.fx
      let s2 := match r.site with
        | .copy k => s1.modQueue k fun u => { u with copy := none }
        | _ => s1
      if (s2.fxRec r.rid r.fx).alloc then
        { s2.modFx r.rid r.fx fun x => { x with answers := x.answers ++ [q.f] } with reqs := s2.reqs.del id }.pump
      else s2.pump.replyVal id (BitVec.ofNat 64 r.fx)

/-! ### park and unpark (R264 to R266) -/

/-- An FX that is free or being released. -/
def State.fxGone (s : State) (rid fx : Nat) : Bool := !(s.fxRec rid fx).alloc || (s.fxRec rid fx).releasing

/-- `park` sends its word once every CT of the region holds the mark. -/
def State.parkHome (s : State) (id : Nat) : State :=
  let q := s.reqs.look id
  let fx := q.f.t0.val.toNat
  if s.fxGone q.rid fx then s.replyFails id fkILLOP 7
  else
    let s1 := if (s.fxRec q.rid fx).parked then s else s.park q.rid fx false
    if s1.marking q.rid fx then s1 else s1.replyVal id q.f.t0.val

/-- The token of a record is delivered again, ahead of the frame's parked tokens. -/
def State.redeliver (s : State) (fl : Flight) : State :=
  s.modElem (destElem fl.tok.dest) fun x => { x with back := { fl with link := 5, ready := 0 } :: x.back }

/-- An EFLOST store is sent again as an EF store outside any chain, without a second acknowledgement (R304): it waits for
room in the egress store buffer, and takes its place there anew. -/
def State.repost (s : State) (id : Nat) : State :=
  { s with reqs := s.reqs.upd id fun r => { r with stage := .ready, performed := false, issued := false, err := none } }.tryLeave id

/-- R266, R357: what a re-issue does with a record, before the frame is unparked. -/
def State.reissue (s : State) (r : FaultRec) : State :=
  match r.site with
  | .copy k => s.modQueue k fun q => { q with copy := q.copy.map fun c => { c with stopped := false } }
  | .conv k => s.modConv k fun c => { c with stopped := none }
  | .commit id rid =>
    s.modRegion rid fun x => { x with commit := some (id, tbit (s.reqs.look id).f.t0.val.toNat 17) }
  | .none =>
    if r.stat then
      let s1 := s.stepAgain (r.place / 1024) (r.place % 1024)
      match r.flight with
      | some fl => s1.redeliver fl
      | none => s1
    else if r.kind = fkEFLOST then match r.req with | some id => s.repost id | none => s
    else if r.nofx then s.fretSite r 0
    else
      match r.firing with
      | some f =>
        let s1 := match r.req with
          | some id => if (s.reqs.look id).stage == MStage.faulted then { s with reqs := s.reqs.upd id fun q => { q with again := true } } else s
          | none => s
        s1.modElem f.elem fun x => { x with readyQ := x.readyQ ++ [f] }
      | none => s

/-- The firing that a `fret` or a re-issue puts into a ready queue finds 64 firings there: the operation waits (R124). -/
def State.queueFull (s : State) (id : Nat) : Bool :=
  let q := s.reqs.look id
  let w := q.f.t0.val.toNat
  match s.recordOf q.lid (if q.op = 0xC4 then w % 2 ^ 63 else w) with
  | none => false
  | some (_, r) =>
    match r.firing with
    | none => false
    | some f =>
      ((q.op == 0xC4 && tbit w 63) || (q.op == 0xC1 && (s.view f.key).op == 0xAB)) && decide (64 ≤ (s.elem f.elem).readyQ.length)

def State.unparkHome (s : State) (id : Nat) : State :=
  let q := s.reqs.look id
  let w := q.f.t0.val.toNat
  if !tbit w 63 then
    if s.fxGone q.rid w then s.replyFails id fkILLOP 7
    else if s.faulted q.rid w then s.replyFails id fkPERM 2
    else (s.unpark q.rid w).replyVal id q.f.t0.val
  else
    match s.recordOf q.lid (w % 2 ^ 63) with
    | none => s.replyFails id fkBOUNDS 0
    | some (ix, r) =>
      let s1 := (((s.resolve q.lid ix).reissue r).unparkAfter q.lid r)
      let s2 := match !r.stat && !r.nofx && r.firing.isNone, r.flight with
        | true, some fl => s1.redeliver fl
        | _, _ => s1
      s2.pump.replyVal id q.f.t0.val

/-! ### The instructions that act on faults and frames -/

/-- R261: TRAP at its own node, with the code as detail. [DEDUCED: log 18] -/
def execTrap (r : D1) (s : State) : Res :=
  let v := r.view 0xC0; .next (s.raiseFiring s.cur fkTRAP (v.lit % 2 ^ 16) 0 0 0)

/-- The request goes to the load's fault queue. -/
def askFaults (v : RecView) (s : State) : Res := askMt v 0 (s.regionOf s.cur.sq).fqmt s
def execFret (r : D2) (s : State) : Res := askFaults (r.view 0xC1) s
def execFkill (r : D1) (s : State) : Res := askFaults (r.view 0xC2) s
def execPark (r : D1) (s : State) : Res :=
  let v := r.view 0xC3; if s.opA.toNat ≥ 4096 then fails s v fkBOUNDS 0 else askFaults v s
def execUnpark (r : D1) (s : State) : Res :=
  let v := r.view 0xC4
  if s.opA.toNat ≥ 4096 && !s.opA.getLsbD 63 then fails s v fkBOUNDS 0 else askFaults v s

/-- R267: the round opens, or waits at the region while one is open. -/
def execMark (r : D1) (s : State) : Res :=
  let v := r.view 0xC5
  let lid := s.lidOf s.cur.sq
  if s.opA.toNat ≥ 2 ^ 16 then fails s v fkBOUNDS 0
  else
    match (s.load lid).round with
    | some _ => .next (s.modLoad lid fun l => { l with marksWait := l.marksWait ++ [s.cur] })
    | none => .next ((s.markOpens lid s.cur).settleRound lid ((s.load lid).marksWait.length + 2))

/-- HANDLER_TOKEN_SEND of load `a` (R353 step 4): the handler tokens go in the order of their records, each once every CT
holds the park mark. [DEDUCED: log 87] -/
def execHandlerTokenSend (s : State) : Res :=
  let lid := s.at_.a
  match (s.load lid).handlers, s.faultDestOf lid with
  | h :: rest, some d =>
    let t : Token := { dest := d, rt := 3, val := BitVec.ofNat 64 h, seq := BitVec.ofNat 8 (h / 2 ^ 16) }
    let r := (s.load lid).faults.look (h % 2 ^ 16)
    if s.crossing r.via || (!r.nofx && s.marking r.rid r.fx) then .next s
    else .next ((s.modLoad lid fun l => { l with handlers := rest }).sendFrom (s.regionOf (destSq d)).fqmt lid t)
  | _, _ => .next s

/-! ### Time, progress and status (R268 to R270) -/

def execTime (r : D1) (s : State) : Res :=
  let v := r.view 0xC6; finish1 s v (BitVec.ofNat 64 (s.tick (sqDie s.cur.sq)), 0)

/-- R44. -/
def Elem.status (x : Elem) : Word :=
  BitVec.ofNat 64 (x.readyQ.length % 128 * 2 ^ 17 + (x.run.isSome || x.macroDone.isSome).toNat * 2 ^ 16 + x.elstat.toNat)
/-- R40: the words of ACSEQ. -/
def Elem.acseqWord (x : Elem) (w : Nat) : Word :=
  (x.acseq.look (4 * w + 3)) ++ (x.acseq.look (4 * w + 2)) ++ (x.acseq.look (4 * w + 1)) ++ (x.acseq.look (4 * w))

/-- R269: a read with selector 0 copies PGB into PGSNAP in the same step. -/
def execPgrd (r : D2) (s : State) : Res :=
  let v := r.view 0xC7
  let x := s.elem s.cur.elem
  match v.lit % 8 with
  | 0 =>
    finishWith s v (outs1 v (s.cur.base 0 x.pga)) fun t => t.modElem s.cur.elem fun x => { x with pgsnap := x.pgb }
  | 1 => finish1 s v (x.pgsnap, 0)
  | 2 => finish1 s v (x.status, 0)
  | 3 => finish1 s v (x.pgb, 0)
  | 4 => finish1 s v (x.lutState.zeroExtend 64, 0)
  | 5 => finish1 s v (x.acseqWord 0, 0)
  | 6 => finish1 s v (x.acseqWord 1, 0)
  | _ => finish1 s v (s.srSeed s.cur, 0)

/-- A register is written, and its word after the write is sent. [DEDUCED: log 66] -/
def pgPut (s : State) (v : RecView) (f : Elem → Elem) (g : Elem → Word) : Res :=
  let e := s.cur.elem
  finishWith s v (outs1 v (s.cur.base 0 (g (f (s.elem e))))) fun t => t.modElem e f

/-- R269, R41 to R44: PG is written once the macro that runs has stopped or completed. [DEDUCED: log 66] -/
def execPgwr (r : D2) (s : State) : Res :=
  let v := r.view 0xC8
  let w := s.opA
  let held := pgaSt (s.elem s.cur.elem).pga == 1
  match v.lit % 8 with
  | 0 =>
    if pgaSt w ≥ 5 then fails s v fkILLOP 7
    else if held then .next (s.requeue s.cur)
    else pgPut s v (fun x => { x with pga := w &&& 0xFFFF0000FFFFFFFF#64 }) (·.pga)
  | 1 =>
    if held then .next (s.requeue s.cur) else pgPut s v (fun x => { x with pgb := w &&& 0xFFFFFFFFFFFFFFFC#64 }) (·.pgb)
  | 2 => pgPut s v (fun x => { x with elstat := x.elstat &&& ~~~(w.extractLsb' 0 8) }) Elem.status
  | 4 =>
    if w.toNat ≥ 2 ^ 16 then fails s v fkBOUNDS 0
    else pgPut s v (fun x => { x with lutState := w.extractLsb' 0 16 }) fun x => x.lutState.zeroExtend 64
  | _ => fails s v fkPERM 2

/-- R270. -/
def execStcnt (r : D2) (s : State) : Res :=
  let v := r.view 0xC9
  let n := s.opA.toNat
  let x := s.elem s.cur.elem
  let a := x.stallOp.look n
  let b := x.stallOut.look n
  if n ≥ 1024 then fails s v fkBOUNDS 0
  else if fld (x.nodes.look n).toNat 88 8 = 0 then finish1 s v (0, 0)
  else
    let k := v.lit % 8
    let word : Word := match k % 3 with
      | 0 => a.zeroExtend 64
      | 1 => b.zeroExtend 64
      | _ => (b ++ a).zeroExtend 64
    finishWith s v (outs1 v (s.cur.base 0 word)) fun t =>
      if k < 3 then t
      else t.modElem s.cur.elem fun x =>
        { x with stallOp := if k = 4 then x.stallOp else x.stallOp.put n 0
                 stallOut := if k = 3 then x.stallOut else x.stallOut.put n 0
                 cleared := x.cleared ++ (if k = 4 then [] else [n * 2]) ++ if k = 3 then [] else [n * 2 + 1] }

/-! ### Management calls (R271, R355, R408, R450) -/

def execEcall (r : D1) (s : State) : Res :=
  let v := r.view 0xCA; .next (s.askObj v v.lit (scratchPa (mkSq (sqDie s.cur.sq) 1 0) 0))

/-- The services that Igtex is known to provide. -/
def knownService (n : Nat) : Bool := n == 0x0F00 || n == 0x0F01 || n == 0x0F10
/-- The `ecall` `id` to service `n` has reached Igtex, and no earlier call of its node is still on its way. -/
def State.callAt (s : State) (id n : Nat) : Bool :=
  let r := s.reqs.look id
  r.op == 0xCA && r.tgt == n && r.stage == .sent && s.reached r &&
  !(s.reqs.any fun p => p.1 < id && p.2.op == 0xCA && p.2.stage == .sent && p.2.f.key == r.f.key)

/-- Igtex's refusal. -/
def refusal : Word := 0xFFFFFFFFFFFFFFFF#64

/-- R355: what FRREAD answers. -/
def State.frread (s : State) (lid a : Nat) : Word :=
  let w := fld a 32 4
  if a ≥ 2 ^ 36 || w == 5 || w == 7 then refusal
  else if w = 6 then
    let ld := s.load lid
    BitVec.ofNat 64 ((ld.faults.filter fun p => p.2.used).length + ld.serial % 2 ^ 32 * 2 ^ 16)
  else
    match s.recordOf lid (a % 2 ^ 32) with
    | none => refusal
    | some (_, r) =>
      match w with
      | 0 => r.w0
      | 1 => r.w1
      | 2 => r.w2
      | 3 => r.w3
      | 4 => r.companion
      | _ => BitVec.ofNat 64 (r.trail[2 * (w - 8)]?.getD 0 + r.trail[2 * (w - 8) + 1]?.getD 0 * 2 ^ 32)

/-- FRREAD of request `a`. -/
def execFrread (s : State) : Res :=
  let id := s.at_.a
  let r := s.reqs.look id
  .next (if s.callAt id 0x0F00 then s.replyVal id (s.frread r.lid r.f.t0.val.toNat) else s)

/-- R450: the word images that designate a queue. -/
def State.qbar (s : State) (lid a : Nat) : Word :=
  let f := tbit a 16
  let low := fld a 17 15
  match (s.load lid).queues[a % 256]? with
  | none => refusal
  | some k =>
    if low != 0 || (!f && fld a 32 32 != 0) then refusal
    else if f then BitVec.ofNat 64 (fld a 32 32 * 2 ^ 32 + k / 4 * 2 ^ 18 + 32768 * 2 ^ 2)
    else BitVec.ofNat 64 (fld a 8 8 * 2 ^ 56 + k / 4 % 4096 * 2 ^ 19 + k % 4 * 2 ^ 17 + 2 ^ 16)

/-- QBAR of request `a`. -/
def execQbar (s : State) : Res :=
  let id := s.at_.a
  let r := s.reqs.look id
  .next (if s.callAt id 0x0F01 then s.replyVal id (s.qbar r.lid r.f.t0.val.toNat) else s)

/-- XREG of request `a` (R408): an ingress is registered for the call's DESTA, or freed. -/
def execXreg (s : State) : Res :=
  let id := s.at_.a
  let r := s.reqs.look id
  let a := r.f.t0.val.toNat
  let n := a % 256
  let g := s.ing.look n
  if !s.callAt id 0x0F10 then .next s
  else if a ≥ 512 then .next (s.replyVal id refusal)
  else if tbit a 8 then
    if g.v && g.lid == r.lid then .next ({ s with ing := s.ing.del n }.replyVal id 0) else .next (s.replyVal id refusal)
  else if g.v && g.lid != r.lid then .next (s.replyVal id refusal)
  else
    let v := s.view r.f.key
    let t := s.applyTg r.f v.hdr.tg.toNat 0 { dest := v.destA, tok := r.f.base 0 0 }
    .next ({ s with ing := s.ing.put n { v := true, lid := r.lid, dest := v.destA, fx := t.fx, path := t.path } }.replyVal id 0)

/-! ### Sources, quiescence and the end (R274 to R276) -/

/-- R274. -/
def execGsrc (r : D2) (s : State) : Res :=
  let v := r.view 0xCD
  let w := s.opA.toNat
  let q := (s.region w).fqmt
  if w ≥ 2 ^ 16 || (s.region w).load = 0 then fails s v fkBOUNDS 0 else askMt v w q s

/-- The load's sources are closed or opened. -/
def State.setClosed (s : State) (lid : Nat) (b : Bool) : State :=
  (s.load lid).regions.foldl (fun st r => st.modRegion r fun x => { x with closed := b }) s
/-- The status word. -/
def State.sourceWord (s : State) (rid : Nat) : Word :=
  BitVec.ofNat 64 ((s.region rid).closed.toNat + (s.regionQuiet rid).toNat * 2)

/-- `gsrc` at its region; selector 2 waits for quiescence. -/
def State.gsrcHome (s : State) (id : Nat) : State :=
  let r := s.reqs.look id
  let rid := r.tgt
  let lid := (s.region rid).load
  let done := fun (t : State) => t.replyVal id (t.sourceWord rid)
  match (s.view r.f.key).lit % 4 with
  | 0 => done ((s.setClosed lid true).holdReq id)
  | 1 => done ((s.setClosed lid false).holdReq id)
  | 2 =>
    let t := (s.setClosed lid true).holdReq id
    if t.regionQuiet rid then done t else t
  | _ => done (s.holdReq id)

/-- R275. -/
def execQuiesce (r : D1) (s : State) : Res := let v := r.view 0xCE; askMt v 0 (s.regionOf s.cur.sq).fqmt s
def State.quiesceHome (s : State) (id : Nat) : State :=
  let lid := (s.reqs.look id).lid
  let t := s.holdReq id
  if t.loadQuiet lid then t.replyVal id (BitVec.ofNat 64 (t.waiting lid)) else t

/-- A waiting `quiesce` whose load, or `gsrc` whose region, has become quiescent. -/
def State.calm (s : State) (id : Nat) : Bool :=
  let r := s.reqs.look id
  (r.op == 0xCE && s.loadQuiet r.lid) || (r.op == 0xCD && s.regionQuiet r.tgt)

/-- R276. -/
def execHalt (_r : D1) (s : State) : Res := .next (s.haltLoad (s.lidOf s.cur.sq) s.opA)

end Sys2Proof.Machine
end

