-- ==== Sys2Proof/Machine/Commit.lean ====
section
/-!
DEFINITION. `cfgld`, `cfgcmt` and the flip of a region's configuration (R56, R100, R272, R273, R307, R311, R312, R322,
R340), and the start of a load (R24, R28, R121, R136, R152).
-/
namespace Sys2Proof.Machine

/-! ### cfgld (R272) -/

/-- R272: the load word. -/
def execCfgld (r : D1) (s : State) : Res :=
  let v := r.view 0xCB
  let w := s.opA.toNat
  if fld w 57 7 != 0 then fails s v fkBOUNDS 0
  else if w % 64 != 0 then s.cur |> fun f => .next (s.raiseFiring f fkALIGN 64 0 (BitVec.ofNat 64 (fld w 0 56)) 0)
  else askFaults v s

/-- The block cannot be read or written at an offset, or is malformed there: CFGFETCH, and the shadow that was being
loaded is discarded. [DEDUCED: log 69] -/
def State.cfgFails (s : State) (id o : Nat) : State := (s.engDrop (s.reqs.look id).subs).replyFails id fkCFGFETCH o

/-- The block's address, and the region whose shadow a `cfgld` is loading. -/
def MReq.blockVa (r : MReq) : Nat := fld r.f.t0.val.toNat 0 56
def MReq.writesBlock (r : MReq) : Bool := tbit r.f.t0.val.toNat 56
def MReq.shadows (r : MReq) : Option Nat :=
  if r.op == 0xCB && !r.writesBlock && r.stage == .sent && 64 ≤ r.got.length then some (u r.got 6 2) else none

/-- The next 64 bytes of a block are read, or the next of `left` written (R286, R339). -/
def State.cfgAsk (s : State) (id o n : Nat) (b : Option (List Byte)) : State :=
  let r := s.reqs.look id
  let base : MReq := { f := r.f, rid := r.rid, lid := r.lid, die := r.cluster / 48, cluster := r.cluster }
  let va := r.blockVa + o
  let out := s.engAsk base none va n (memWords (n + 1) va n) b
  { out.1 with reqs := out.1.reqs.upd id fun x => { x with subs := out.2 } }

/-- The bytes of the block, as far as its header is known. -/
def MReq.blockLen (r : MReq) : Nat := if r.got.length < 64 then 64 else if r.writesBlock then r.len else u r.got 0x0C 4
/-- A `cfgld` has taken longer than its bound, which a block that has come whole in time has not (R339). -/
def State.cfgLate (s : State) (id : Nat) : Bool :=
  let r := s.reqs.look id
  decide (r.start + 4096 + (r.blockLen + 31) / 32 < s.tick r.die)
/-- A `cfgld` whose requests are on their way: the ticks of a translation walk, which its bound leaves out, move its start
(`own` holds the tick of the last look), and past the bound it raises CFGFETCH (R339). [DEDUCED: log 69] -/
def State.cfgWaits (s : State) (id : Nat) : State :=
  let r := s.reqs.look id
  let now := s.tick r.die
  if r.subs.any fun k => (s.reqs.look k).stage == .xlat then
    { s with reqs := s.reqs.upd id fun x => { x with start := x.start + (now - max x.own x.start), own := now } }
  else if s.cfgLate id then s.cfgFails id r.got.length
  else { s with reqs := s.reqs.upd id fun x => { x with own := now } }

/-- The whole block has been read into `got`. -/
def State.cfgRead (s : State) (id : Nat) : State :=
  let r := s.reqs.look id
  let n := r.blockLen
  match s.blockBad (if n < 64 then r.got else r.got.take n) with
  | some o => s.cfgFails id o
  | none => (s.modRegion (u r.got 6 2) fun x => { x with shadow := some (r.got.take n) }).replyVal id r.f.t0.val

/-- The header of the block has been read: a block to be written is laid out, and one to be read goes on if the region's
shadow is free (R272). -/
def State.cfgHead (s : State) (id : Nat) : State :=
  let r := s.reqs.look id
  let rid := u r.got 6 2
  let busy := s.reqs.any fun p => p.1 != id && p.2.shadows == some rid
  if r.writesBlock then
    if (s.region rid).load = 0 then s.cfgFails id 6
    else
      let b := (s.blockOf rid).encode
      { s with reqs := s.reqs.upd id fun x => { x with left := b, len := b.length } }
  else if (s.region rid).load != 0 && (s.region rid).shadow.isSome || busy then s.replyFails id fkBOUNDS 0
  else s

/-- `cfgld` at its region's control: the next part of its block is asked for, or taken up as it comes back. -/
def State.cfgldHome (s : State) (id : Nat) : State :=
  let r := s.reqs.look id
  if !r.subs.isEmpty then
    match s.engPoll r.subs with
    | .wait => s.cfgWaits id
    | .bad k _ pa ea =>
      (if k = fkECCUE then s.noteUe pa else s).cfgFails id ((ea + 2 ^ 56 - r.blockVa) % 2 ^ 56)
    | .ok b =>
      if s.cfgLate id then s.cfgFails id r.got.length else
      let s1 := s.engDrop r.subs
      let s2 := { s1 with reqs := s1.reqs.upd id fun x =>
        { x with subs := [], got := if x.left.isEmpty then x.got ++ b else x.got, left := x.left.drop 64 } }
      let x := s2.reqs.look id
      if r.got.length < 64 then s2.cfgHead id
      else if r.writesBlock && x.left.isEmpty then s2.replyVal id r.f.t0.val
      else s2
  else if r.got.length < 64 then s.cfgAsk id 0 64 none
  else if r.writesBlock then s.cfgAsk id (r.len - r.left.length) (min 64 r.left.length) (some (r.left.take 64))
  else if r.got.length < r.blockLen then s.cfgAsk id r.got.length (min 64 (r.blockLen - r.got.length)) none
  else if s.cfgLate id then s.cfgFails id r.got.length
  else s.cfgRead id

/-! ### cfgcmt (R273) -/

def execCfgcmt (r : D1) (s : State) : Res :=
  let v := r.view 0xCC
  let w := s.opA.toNat
  let rid := w % 2 ^ 16
  if w ≥ 2 ^ 18 || (s.region rid).load = 0 || rid = s.ridOf s.cur.sq then fails s v fkBOUNDS 0
  else askMt v rid (s.region rid).fqmt s

/-- `cfgcmt` at its region: an abort, or a commit that waits for the flip. [DEDUCED: log 67] -/
def State.cfgcmtHome (s : State) (id : Nat) : State :=
  let r := s.reqs.look id
  let rid := r.tgt
  let g := s.region rid
  let w := r.f.t0.val.toNat
  if g.shadow.isNone then s.replyFails id fkBOUNDS 0
  else if tbit w 16 then
    let s1 := match g.commit with
      | some (n, _) => if n = 0 then s else s.replyFails n fkBOUNDS 0
      | none => s
    (s1.modRegion rid fun x => { x with shadow := none, commit := none }).replyVal id r.f.t0.val
  else if g.commit.isSome then s.replyFails id fkBOUNDS 0
  else (s.modRegion rid fun x => { x with commit := some (id, tbit w 17) }).holdReq id

/-! ### The flip (R56) -/

/-- The first static record that breaks its checks (R100, R279, R380), which one of a token-mode region always does: node key
and SPOS. [DEDUCED: log 67] -/
def staticBad (b : Block) (t : Tbl Nat) : Option (Nat × Nat) :=
  if !b.mode then (b.records.find? fun p => fld p.2.toNat 88 8 ≥ 0xD0).map fun p => (p.1, (viewOfRecord p.2).spos)
  else
    b.records.findSome? fun p =>
      let v := viewOfRecord p.2
      let e := p.1 / 1024
      let side := fun (n : Nat) => n = 0 || n = 5 || linkSet t e n
      let gap := p.1 % 1024 != 0 && !(b.records.any fun q => q.1 == p.1 - 1)
      if v.op.toNat < 0xD0 || (recordError v).isSome || v.spos != p.1 % 1024 || gap || !side v.sin || !side v.sout then
        some (p.1, v.spos)
      else none

/-- An element after a commit (R56): accumulators, ACSEQ, LUT configurations and STATE stay. -/
def Elem.commit (x : Elem) (nodes : Tbl Rec96) (quota nin : Tbl Nat) : Elem :=
  { nodes := nodes, quota := quota, nin := nin, acc := x.acc, acseq := x.acseq, lut := x.lut, lutState := x.lutState }

/-- A CT after a commit (R56): slots keep their values, and barrier cells their words. -/
def Ct.commit (c : Ct) (cells : List Nat) : Ct :=
  let bar : Tbl BarCell := mapTbl c.bar fun _ b => { w0 := b.w0, w1 := b.w1 }
  { slots := (mapTbl c.slots fun _ x => ({ val := x.val } : Slot)).filter fun p => p.2.val != 0, touch := c.touch,
    bar := (cells.foldl (fun (t : Tbl BarCell) i => t.upd i fun b => { b with declared := true }) bar).filter fun p => p.2 != {} }

/-- R311: an MT's descriptors, from those that the block declares; a descriptor that it does not declare keeps GEN. -/
def commitBufs (m : Mt) (decl : List (Nat × Word)) : Tbl Word :=
  (List.range 64).foldl (fun (t : Tbl Word) b =>
    let old := m.bufs.look b
    match decl.find? fun p => p.1 == b with
    | some p => t.put b (setField (setField p.2 54 8 (dGen old + 1)) 0 9 0)
    | none => t.put b (setField 0 54 8 (dGen old))) []

/-- A tile side of a template, from its buffer (R121, R385). -/
def State.sideOf (s : State) (lid total : Nat) (bufs : List (Nat × Word)) (ix : Nat) : Side :=
  if ix = 0xFFFF then .arm
  else
    match bufs[ix]? with
    | none => .arm
    | some (k, d) =>
      match (s.load lid).tiles.find? fun t => t.q == k / 64 && t.buf ≤ k % 64 && k % 64 < t.buf + t.depth with
      | some t => .tile t.q (k % 64) t.dt t.rows t.cols t.dest
      | none =>
        -- the layout that R217 gives a buffer of this length
        let per := total / dRows d
        let mx := [(0, 33), (2, 25), (4, 17)].findSome? fun p =>
          ([1, 2, 3, 4].find? fun n => n * p.2 == per).map fun n => (p.1, 32 * n)
        let (dt, cols) := if dSc d then mx.getD (0, 32) else (9, per)
        .tile (k / 64) (k % 64) dt (dRows d) cols none

/-- The template of an 80-byte entry with BUFFERS indices. -/
def State.templateOf (s : State) (lid : Nat) (bufs : List (Nat × Word)) (b : List Byte) : Template :=
  let t := tmplAt b 0
  { src := s.sideOf lid t.bytes bufs t.src, dst := s.sideOf lid t.bytes bufs t.dst, esize := t.esize, levels := t.levels }

/-- An MT after a commit (R307, R311, R312). -/
def State.commitMt (s : State) (b : Block) (lid q : Nat) (m : Mt) : Mt :=
  let mode := ((b.modes.find? fun p => p.1 == q).map (·.2)).getD 0
  let bufs := commitBufs m ((b.bufs.filter fun p => p.1 / 64 == q).map fun p => (p.1 % 64, p.2))
  let queues := (b.queues.filter fun p => p.1 / 4 == q).foldl (fun (t : Tbl Queue) p =>
    t.put (p.1 % 4)
      { declared := true, cap := p.2.1, base := p.2.2,
        tmpl := (b.tmpls.find? fun x => x.1 == p.1).map fun x => s.templateOf lid b.bufs x.2 }) []
  { mode := mode, queues := queues, bufs := bufs, edge := mode == 2
    pool := (bufs.filter fun p => dUse p.2 && dCnt p.2 == 0).map (·.1)
    istate := if mode == 3 && m.mode == 3 then m.istate else []
    ag := mapTbl m.ag fun _ a => { a with ctl := setField a.ctl 31 1 0 }
    conv := m.conv }

/-- The squares of a region. -/
def regionSquares (r : Region) : List Nat :=
  r.clusters.flatMap fun c =>
    (List.range 48).map fun i => mkSq (c / 48) (c % 48 % 8 * 8 + i % 8) (c % 48 / 8 * 6 + i / 8)

/-- NIN of a record (R371): what Urupo computed for the load, else the arcs of the block that reach it. -/
def State.ninOf (s : State) (lid : Nat) (b : Block) (key : Nat) : Nat :=
  match (s.load lid).nins.find? fun p => p.1 == key with
  | some p => p.2
  | none =>
    let from_ := fun (r : Nat × Rec96) => ((usedDests (viewOfRecord r.2)).filter fun d => d / 4 == key).eraseDups.length
    (b.records.map from_).foldl (· + ·) 0 + (b.entries.filter fun p => p.1 / 4 == key).length +
      (b.records.filter fun r => r.1 == key && fld r.2.toNat 88 8 == 0xB1).length

/-- The elements, CTs and MTs of the region take the block's configuration. -/
def State.commitSquares (s : State) (rid lid : Nat) (b : Block) : State :=
  let r := s.region rid
  let recs := fun e => (b.records.filter fun p => p.1 / 1024 == e).foldl (fun (t : Tbl Rec96) p => t.put (p.1 % 1024) p.2) []
  let quo := fun e => (b.quotas.filter fun p => p.1 / 1024 == e).foldl (fun (t : Tbl Nat) p => t.put (p.1 % 1024) p.2) []
  let nin := fun e => (b.records.filter fun p => p.1 / 1024 == e).foldl (fun (t : Tbl Nat) p =>
    t.put (p.1 % 1024) (s.ninOf lid b p.1)) []
  let lut := fun e (x : Elem) => (b.luts.filter fun p => p.1 / 4 == e).foldl (fun x p =>
    { x with lut := ((wordsOf p.2 128).zip (List.range 128)).foldl (fun (t : Tbl Word) w => t.put (p.1 % 4 * 128 + w.2) w.1) x.lut }) x
  let s1 := (regionElems r).foldl (fun st e => st.modElem e fun x => lut e (x.commit (recs e) (quo e) (nin e))) s
  (regionSquares r).foldl (fun st q =>
    if isCt q then st.modCt q fun c => c.commit ((b.bars.filter fun k => k / 32 == q).map (· % 32))
    else st.modMt q fun m => s.commitMt b lid q m) s1

/-- The node records of a region are written whole, and so none of them fails its check any more (R326). -/
def State.mendRecords (s : State) (rid : Nat) : State :=
  { s with ecc := s.ecc.filter fun p => !(2 ^ 60 ≤ p.1 && p.1 < 2 ^ 61 && s.ridOf ((p.1 - 2 ^ 60) / 4096) == rid) }

/-- The region's own state, its multicast slots and its translations (R322), reserved bits of XROOT reading 0 (R319); the
requests and contexts of its old configuration go with it, but for stores in the egress store buffer, which have been
acknowledged (R293). -/
def State.commitRegion (s : State) (rid : Nat) (b : Block) : State :=
  let t := (s.mendRecords rid).modRegion rid fun r =>
    { r with mode := b.mode, level := b.level, fcls := b.fcls, xroot := b.xroot &&& 0x800FFFFFFFFF0000#64, srseed := b.srseed, famt := b.famt,
             fqmt := b.fqmt, fslim := b.fslim, stopped := false, withdraw := false, fx := [], allocIn := [], allocQ := [],
             lastGrant := s.cyc (sqDie b.famt), faultDest := b.fault.map (BitVec.ofNat 28), shadow := none, commit := none,
             entries := b.entries.map fun p => (BitVec.ofNat 28 p.1, p.2),
             links := b.links.foldl (fun (t : Tbl Nat) p => t.put p.1 p.2) [] }
  { t with
    tlb := t.tlb.filter fun p => t.clRid.look p.1 != rid
    reqs := (mapTbl t.reqs fun _ r => if r.rid == rid && r.stage == .posted then { r with wave := false } else r).filter fun p =>
      p.2.rid != rid || p.2.orphan || p.2.stage == .posted
    walks := t.walks.filter fun p => p.2.rid != rid || p.2.orphan
    wctx := t.wctx.filter fun p => p.1 / 4096 != rid
    notices := t.notices.filter fun n => !n.what.names 0 [rid]
    mcg := b.mcast.foldl (fun (m : Tbl (BitVec 29)) p => m.put p.1 (BitVec.ofNat 29 p.2)) t.mcg }

/-- R277: every element of a static region starts its ring. -/
def State.startRings (s : State) (rid : Nat) : State :=
  if !(s.region rid).mode then s
  else ((s.elems.filter fun p => s.ridOf (p.1 / 4) == rid && !p.2.nodes.isEmpty).map (·.1)).foldl (fun st e => st.ringStart e) s

/-- `.const` data fills every buffer of its tile (R121). [DESIGN CHOICE: log 88] [DESIGN CHOICE: log 93] -/
def State.fillConsts (s : State) (lid : Nat) : State :=
  let ld := s.load lid
  (constsOf ld.image).foldl (fun st c =>
    match ld.tiles[c.1]? with
    | none => st
    | some t => (List.range t.depth).foldl (fun st k =>
        let size := (imgTile ld.image c.1).bytes
        let z := st.setBytes (scratchPa t.q (dBase (st.desc t.q (t.buf + k)))) (List.replicate size 0)
        ((c.2.zip (List.range c.2.length)).foldl (fun st p =>
          st.setByte (z.densePa t.q (t.buf + k) t.dt t.rows t.cols p.2) p.1) z)) st) s

/-! ### The start of a load (R152) -/

/-- The load's entry nodes with the index of each entry value, in ENTRIES order. -/
def State.entriesOf (s : State) (lid : Nat) : List (BitVec 28 × Nat) :=
  let all := (s.load lid).regions.flatMap fun r => (s.region r).entries
  (List.range all.length).filterMap fun i => all.find? fun p => p.2 == i

/-- FX 0 is allocated in every region of the load (R24, R136). [DEDUCED: log 23] -/
def State.allocRoot (s : State) (lid : Nat) : State :=
  (s.load lid).regions.foldl (fun st r => st.modFx r 0 fun _ => { alloc := true, slot0 := 0x30000#64 }) s

/-- R28, R152: the root local part, on the tile of the first entry node, with the weight 2^31. -/
def State.rootPart (s : State) (d : BitVec 28) : State :=
  let q := destSq d
  let cls := (s.regionOf q).fcls
  let base := ((s.ct q).findRun (clsSlots cls) (s.runCount q (clsSlots cls))).getD 0
  (s.placePart q 0 base cls).modCt q fun c => c.modSlot 0 2 fun x => { x with val := 0x80000000#64 }

/-- The entry tokens: entry node i receives the word at ARGPA + 8i, or 0 (R329). -/
def State.entryTokens (s : State) (lid : Nat) (l : List (BitVec 28 × Nat)) : State :=
  let arg := cmdField (s.load lid).cmd 0x18 8
  l.foldl (fun st p =>
    let v := if arg = 0 then 0 else s.rd (arg + 8 * p.2) 8
    st.sendFrom (destSq p.1) lid { dest := p.1, val := BitVec.ofNat 64 v }) s

/-- The handle tokens of the tiles with `to=` (R121). [DESIGN CHOICE: log 94] -/
def State.handleTokens (s : State) (lid : Nat) : State :=
  (s.load lid).tiles.foldl (fun st t =>
    match t.dest with
    | none => st
    | some d => (List.range t.depth).foldl (fun st k =>
        st.sendFrom t.q lid { kind := 1, dest := d, seq := BitVec.ofNat 8 k,
                              val := st.fullHandle t.q (t.buf + k) t.dt t.rows t.cols }) st) s

/-- The entry tokens and the root weight are injected, and the journal entry becomes started. -/
def State.inject (s : State) (lid : Nat) : State :=
  let l := s.entriesOf lid
  let s0 := (s.load lid).regions.foldl (fun st r => st.modRegion r fun x => { x with idle := false }) (s.allocRoot lid)
  let s1 := s0.modLoad lid fun x =>
    { x with issued := 0x80000000#64, returned := 0, entries := l.map (·.1), phase := .running }
  let s2 := match l with
    | [] => s1
    | (d, _) :: _ => s1.rootPart d
  ((s2.entryTokens lid l).handleTokens lid).modJournal lid fun j => { j with state := 1 }

/-! ### CFG_COMMIT_FLIP -/

/-- Another region of the load still waits for its own commit. -/
def State.othersWait (s : State) (rid lid : Nat) : Bool :=
  (s.load lid).regions.any fun r => r != rid && (s.region r).commit.isSome

/-- The commit can be made: a shadow is loaded, the region is quiet, and a start finds the load's other regions
flipped (R340). -/
def State.flipReady (s : State) (rid : Nat) : Bool :=
  let g := s.region rid
  match g.commit with
  | none => false
  | some (_, start) => g.shadow.isSome && s.regionQuiet rid && !(start && s.othersWait rid g.load)

/-- A static record fails: the old configuration stays, and the committing graph gets the record. -/
def State.flipFails (s : State) (rid id key spos : Nat) : State :=
  let s1 := s.modRegion rid fun r => { r with commit := none }
  let r := s.reqs.look id
  if id = 0 then s1.endLoad (s.region rid).load 3 0x0006 rid
  else
    s1.raiseArgs r.lid r.rid
      { kind := fkILLOP, detail := 3, w1 := r.f.t0.val, nofx := true, stat := true, place := key, spos := spos,
        site := .commit id rid }

/-- A load that comes back from a save image has committed its last region: its restore is owed (R364, R370). -/
def State.owesRestore (s : State) (lid : Nat) : State :=
  let ld := s.load lid
  match ld.restore with
  | none => s
  | some pa =>
    if ld.regions.any fun r => (s.region r).shadow.isSome || (s.region r).commit.isSome then s
    else s.modDie (cmdField ld.cmd 6 1) fun x =>
      { x with pmWait := x.pmWait ++ [{ lid := lid, rid := (ld.regions[0]?).getD 0, restore := true, policy := true, pa := pa }] }

/-- CFG_COMMIT_FLIP of region `a`. -/
def execCfgCommitFlip (s : State) : Res :=
  let rid := s.at_.a
  let g := s.region rid
  if !s.flipReady rid then .next s
  else
    let b := Block.ofBytes (g.shadow.getD [])
    let id := (g.commit.getD (0, false)).1
    let start := (g.commit.getD (0, false)).2
    match staticBad b (b.links.foldl (fun (t : Tbl Nat) p => t.put p.1 p.2) []) with
    | some (k, n) => .next (s.flipFails rid id k n)
    | none =>
      let lid := g.load
      let req := s.reqs.look id
      let s1 := (((s.commitSquares rid lid b).commitRegion rid b).modRegion rid fun x => { x with idle := !start, noStart := !start }).startRings rid
      let s2 := if start then (if id = 0 then s1.fillConsts lid else s1).inject lid else s1
      .next (if id = 0 then s2.owesRestore lid else s2.replyVal id req.f.t0.val)

end Sys2Proof.Machine
end

