-- ==== Sys2Proof/Machine/Handle.lean ====
section
/-!
DEFINITION. The handle instructions (R219, R224 to R229): an operation on a buffer is performed in the step of its firing on
an MT of the firing's own die, and travels as an object operation to an MT of another die (MOP 6, R387, R404).
-/
namespace Sys2Proof.Machine

/-! ### One operation on a buffer, at its MT -/

/-- What comes of it: a fault of the node, a word that fails its check (R326), or a result token with its flags and a change
of the MT. -/
inductive TileRes where
  | bad (kind detail : Nat)
  | ecc (pa : Nat)
  | ok (tok : Token) (flags : Flags) (upd : State → State)

def State.hrefAt (s : State) (f : Firing) (w : Win) : TileRes :=
  if dCnt (s.desc w.q w.buf) = 65535 then .bad fkBOUNDS 0
  else .ok (f.base f.t0.kind f.t0.val) 0 fun t => t.addRef w.q w.buf
def State.hdropAt (s : State) (f : Firing) (w : Win) : TileRes :=
  .ok (f.base 0 (BitVec.ofNat 64 (dCnt (s.desc w.q w.buf) - 1))) 0 fun t => t.dropRef w.q w.buf
/-- R227. -/
def fullAt (b : Bool) (f : Firing) (w : Win) : TileRes :=
  .ok (f.base f.t0.kind f.t0.val) 0 fun t => t.setF w.q w.buf b
def State.hinfoAt (s : State) (f : Firing) (v : RecView) (w : Win) : TileRes :=
  .ok (f.base 0 (hinfoWord v.lit w (s.desc w.q w.buf))) 0 id

/-- R229: the element at index x. -/
def State.tgetAt (s : State) (f : Firing) (v : RecView) (w : Win) : TileRes :=
  let x := (portB v f).toNat % 2 ^ 32
  if x ≥ w.count then .bad fkBOUNDS (if v.hdr.litp then 3 else 1)
  else
    match s.elemBad w (x / w.cols) (x % w.cols) 1 with
    | some pa => .ecc pa
    | none =>
      let p := s.elemValue w (x / w.cols) (x % w.cols)
      .ok (f.base 0 p.1) p.2 fun t => t.elemCe w (x / w.cols) (x % w.cols) 1

/-- R229: the element at index x is written, unless NOWR. -/
def State.tsetAt (s : State) (f : Firing) (v : RecView) (w : Win) : TileRes :=
  let b := (portB v f).toNat
  let x := b % 2 ^ 32
  let p := if v.hdr.litp then 3 else 1
  let out := f.base 1 f.t0.val
  if fld b 32 31 != 0 then .bad fkBOUNDS p
  else if tbit b 63 then .ok out 0 id
  else if x ≥ w.count then .bad fkBOUNDS p
  else
    match (s.elemWords w (x / w.cols) (x % w.cols) 1 false).find? fun a => s.ecc.look a == 2 with
    | some pa => .ecc pa
    | none => .ok out 0 fun t =>
        (t.putElem w (x / w.cols) (x % w.cols) f.t2.val.toNat).writeMend w (x / w.cols) (x % w.cols) 1

/-- R219: the window of a window. -/
def State.tsliceAt (s : State) (f : Firing) (w : Win) : TileRes :=
  let b := f.t1.val.toNat
  let x := winOf f.t1.val
  if fld b 32 32 != 0 || fld b 0 6 != 0 then .bad fkBOUNDS 1
  else if x.rb + x.rows > w.rows || x.cb + x.cols > w.cols then .bad fkBOUNDS 1
  else
    let h := BitVec.ofNat 64 (fld f.t0.val.toNat 32 32 * 2 ^ 32 + (x.rows - 1) * 2 ^ 26 + (x.cols - 1) * 2 ^ 19 +
      (w.rb + x.rb) % 64 * 2 ^ 13 + (w.cb + x.cb) % 128 * 2 ^ 6)
    match s.handleFault h 0 with
    | some k => .bad k.1 k.2
    | none => .ok (f.base 1 h) 0 id

/-- The operation of a handle instruction on its window, once the handle has passed R47. -/
def State.tileOp (s : State) (f : Firing) (v : RecView) : TileRes :=
  match s.handleFault f.t0.val 0 with
  | some k => .bad k.1 k.2
  | none =>
    let w := winOf f.t0.val
    match v.op.toNat with
    | 0x83 => s.tsliceAt f w
    | 0x84 => s.hrefAt f w
    | 0x85 => s.hdropAt f w
    | 0x87 => s.hinfoAt f v w
    | 0x88 => s.tgetAt f v w
    | 0x89 => s.tsetAt f v w
    | 0x8A => fullAt true f w
    | _ => fullAt false f w

/-- R225: `halloc` at its MT, which answers or holds it; none for a request that no buffer of the MT could ever hold. -/
def State.hallocAt (s : State) (f : Firing) (v : RecView) : Option State :=
  let n := f.t0.val.toNat
  let q := fld n 46 14
  let cols := fld n 19 7 + 1
  if (dtMx v.lit && cols % 32 != 0) || ((s.mt q).fits v.lit (fld n 26 6 + 1) cols).isEmpty then none
  else
    match if (s.mt q).hallocQ.isEmpty then s.tryHalloc q f else none with
    | some t => some t
    | none =>
      let s1 := s.modMt q fun m => { m with hallocQ := m.hallocQ ++ [f] }
      some (s1.serveHallocs q (s1.mt q).hallocQ)

/-- An operation that has travelled to the MT of another die (R404): its result goes back with the reply. -/
def State.tileHome (s : State) (id : Nat) : State :=
  let f := (s.reqs.look id).f
  let v := s.view f.key
  if v.op == 0x86 then
    match s.hallocAt f v with
    | none => s.replyFails id fkBOUNDS 0
    | some t => { t with reqs := t.reqs.del id }
  else
    match s.tileOp f v with
    | .bad k d => s.replyFails id k d
    | .ecc pa => s.replyBad id fkECCUE 6 pa
    | .ok t fl upd =>
      let s1 := upd s
      { s1 with reqs := s1.reqs.upd id fun r => { r with words := if fl = 0 then [] else [fl.zeroExtend 64] } }.replyTok id t

/-! ### The instructions -/

/-- The MT of the handle stands on another die than the firing. -/
def State.tileFar (s : State) (f : Firing) (h : Word) : Bool :=
  s.mtThere (winOf h).q && sqDie (winOf h).q != sqDie f.sq

/-- R326: the operand word fails its check. -/
def eccFails (s : State) (v : RecView) (src pa : Nat) : Res :=
  .next (s.raiseFiring s.cur fkECCUE src (s.opB v) (BitVec.ofNat 64 pa) 0)

/-- A handle instruction: here, or at the other die's MT. -/
def tileNode (v : RecView) (s : State) : Res :=
  if s.tileFar s.cur s.opA then askMt v 0 (winOf s.opA).q s
  else
    match s.tileOp s.cur v with
    | .bad k d => fails s v k d
    | .ecc pa => eccFails s v 6 pa
    | .ok t fl upd => finishWith s v (outs1 v t) fun st => if fl = 0 then upd st else (upd st).orFlags s.cur.elem fl

def execTslice (r : FT) (s : State) : Res := tileNode (r.view 0x83) s
def execHref (r : D2) (s : State) : Res := tileNode (r.view 0x84) s
def execHdrop (r : D2) (s : State) : Res := tileNode (r.view 0x85) s
def execHinfo (r : D2) (s : State) : Res := tileNode (r.view 0x87) s
/-- [DEDUCED: log 57] -/
def execTget (r : D2) (s : State) : Res := tileNode (r.view 0x88) s
def execTset (r : D2) (s : State) : Res := tileNode (r.view 0x89) s
def execTfull (r : D2) (s : State) : Res := tileNode (r.view 0x8A) s
def execTempty (r : D2) (s : State) : Res := tileNode (r.view 0x8B) s

/-- R225: the request word is checked, and `halloc` goes to its MT. -/
def execHalloc (r : D2) (s : State) : Res :=
  let v := r.view 0x86
  let n := s.opA.toNat
  let q := fld n 46 14
  if fld n 60 4 != 0 || fld n 32 14 != 0 || fld n 0 19 != 0 then fails s v fkBOUNDS 0
  else if !s.mtThere q then fails s v fkBOUNDS 0
  else if sqDie q != sqDie s.cur.sq then askMt v 0 q s
  else
    match s.hallocAt s.cur v with
    | none => fails s v fkBOUNDS 0
    | some t => .next t

end Sys2Proof.Machine
end

