-- ==== Sys2Proof/Machine/Home.lean ====
section
/-!
DEFINITION. What a home does with a request (R234, R238 to R241, R285 to R294), sync words (R53, R325), replies,
confirmations and time-outs (R302 to R304), and the patrol scrubber (R327).
-/
namespace Sys2Proof.Machine

/-! ### Sync words (R53, R241) -/

/-- COUNT and GEN as `swadd` and `ldsw` send them. -/
def State.syncWord (s : State) (pa : Nat) : Word := BitVec.ofNat 64 (s.rd (pa + 4) 4 + s.rd (pa + 14) 2 * 2 ^ 32)

/-- One arrival of `n` bytes at a sync word: an armed word whose COUNT reaches TARGET releases once, and the COUNT that is
stored stops at its largest value. -/
def State.syncAdd (s : State) (pa n lid : Nat) : State :=
  let target := s.rd pa 4
  let count := s.rd (pa + 4) 4 + n
  let stop := fun (c : Nat) => min c 0xFFFFFFFF
  if target = 0 ∨ count < target then s.wr (pa + 4) 4 (stop count)
  else
    let w1 := BitVec.ofNat 64 (s.rd (pa + 8) 8)
    let gen := (fld w1.toNat 48 16 + 1) % 2 ^ 16
    ({ s with armed := s.armed.del pa }.wr (pa + 4) 4 (stop (count - target)) |>.wr (pa + 14) 2 gen).sendFrom (scratchSq pa) lid
      { dest := w1.extractLsb' 0 28, fx := w1.extractLsb' 28 12, path := w1.extractLsb' 40 6, rt := w1.extractLsb' 46 2,
        val := BitVec.ofNat 64 gen }

/-- A count on its way comes to its sync word; one that finds a word that fails its check does not perform, and ECCUE names
the word's MT (R326). -/
def State.countArrives (s : State) (c : SyncArr) : State :=
  let s1 := s.countCe c.pa 16
  match s.eccBad c.pa 16 with
  | none => s1.syncAdd c.pa c.n c.lid
  | some w => s1.raiseArgs c.lid (s.ridOf (scratchSq c.pa))
      { kind := fkECCUE, detail := 1, comp := BitVec.ofNat 64 w, nofx := true, place := scratchSq c.pa * 4096 }

/-- SYNC_COUNT_ARRIVAL of the count at position `a` (R325): counts to one word are taken in order. -/
def execSyncCountArrival (s : State) : Res :=
  match s.syncIn[s.at_.a]? with
  | none => .next s
  | some c =>
    if s.crossing c.via || (s.syncIn.take s.at_.a).any fun x => x.pa == c.pa && !s.crossing x.via then .next s
    else .next ({ s with syncIn := s.syncIn.eraseIdx s.at_.a }.countArrives c)

/-! ### I-structure words (R54, R238) -/

/-- State of a word: 0 empty, 1 full, 2 deferred. -/
def State.iState (s : State) (pa : Nat) : Nat := (s.mt (scratchSq pa)).istate.look (scratchOff pa / 8)
def State.setIState (s : State) (pa n : Nat) : State :=
  s.modMt (scratchSq pa) fun m => { m with istate := m.istate.put (scratchOff pa / 8) n }
/-- The readers deferred at a word, in the order in which they were queued (R312). -/
def State.readersOf (s : State) (pa : Nat) : List DReader :=
  (s.mt (scratchSq pa)).readers.filter fun d => d.word == scratchOff pa / 8
def State.dropReaders (s : State) (pa : Nat) : State :=
  s.modMt (scratchSq pa) fun m => { m with readers := m.readers.filter fun d => d.word != scratchOff pa / 8 }

/-- Every deferred reader of a word is sent its value, in order (R238). -/
def State.answerReaders (s : State) (pa : Nat) (x : Word) : State :=
  ((s.readersOf pa).foldl (fun st d =>
    if d.send then st.sendFrom (scratchSq pa) d.lid { d.tok with val := x } else st) s).dropReaders pa

/-- The deferred reader of an `ild` request: its destination and tag with TG applied (R312). -/
def State.readerOf (s : State) (r : MReq) (pa : Nat) : DReader :=
  let v := s.view r.f.key
  let t := s.applyTg r.f v.hdr.tg.toNat 0 { dest := v.destA, tok := r.f.base 0 0 }
  { word := scratchOff pa / 8, tok := { t with dest := v.destA }, send := v.hdr.ndest != 0, lid := r.lid }

/-! ### Performing a request -/

/-- The bytes that are written together with `n` bytes at `pa` cover their word: a word of an MT by itself, and one of HBM in
a row or unit of an engine, whose bytes lie in one page with it (R326). -/
def MReq.fillsWord (r : MReq) (pa n : Nat) : Bool :=
  if isScratch pa then n == 8 || (r.eng && r.lo ≤ r.ea - r.ea % 8 && r.ea - r.ea % 8 + 8 ≤ r.lo + r.len)
  else r.eng && r.lo ≤ r.ea - r.ea % 32 && r.ea - r.ea % 32 + 32 ≤ r.lo + r.len
/-- The stores that a boundary of `tst` or `tscat` makes together with request `r`: none performs where one of them fails, and
they are checked as the first of them comes to its home (R210). -/
def State.rowOf (s : State) (r : MReq) : List MReq :=
  let op := (s.view r.f.key).op
  if r.eng && (op == 0x73 || op == 0x81) then (s.reqs.filter fun p => p.2.eng && p.2.tgt == r.tgt && p.2.op == 0x93).map (·.2) else []
/-- The word that a store of part of it finds failing (R326). -/
def State.partBad (s : State) (r : MReq) (pa : Nat) : Option Nat := if r.fillsWord pa r.size then none else s.eccBad pa r.size
/-- A store of `n` bytes; one that does not cover a word that fails its check does not perform (R326). -/
def State.storeAt (s : State) (id pa n x : Nat) (ack : Word) : State :=
  let r := s.reqs.look id
  let whole := r.fillsWord pa n
  let row := s.rowOf r
  let checked := row.any fun y => y.performed && y.err.isNone
  match if checked then none else s.partBad r pa with
  | some w => s.replyBad id fkECCUE 1 w
  | none =>
    if !checked && row.any (fun y => (s.partBad y (y.pa.getD 0)).isSome) then s.replyTo id ack
    else
    let s1 := if whole then s else s.countCe pa n
    let s2 := if checked && !whole then s1 else { s1 with ecc := s1.ecc.del (eccWord pa) }
    (s2.wr pa n x).replyTo id ack

/-- R239: what one entry makes of its word. -/
def alrNew (op : Nat) (old a cas : Word) : Word :=
  match op with
  | 2 | 5 => a
  | 3 => old + a
  | 4 => if old = a then cas else old
  | 6 => if a.toInt < old.toInt then a else old
  | 7 => if old.toInt < a.toInt then a else old
  | 8 => old &&& a
  | 9 => old ||| a
  | 10 => old ^^^ a
  | 11 => if a < old then a else old
  | 12 => if old < a then a else old
  | _ => old

/-- The entries of a region from `e` on, `n` of them: the memory, the slots and the cas mask (R239, R240). -/
def State.alrRun (s : State) (pa n e : Nat) (d : Word) (slots : List Word) (mask : Nat) : State × List Word × Nat :=
  match n with
  | 0 => (s, slots, mask)
  | n + 1 =>
    let op := alrOp d e
    if op = 0 ∨ op = 15 then s.alrRun pa n (e + 1) d slots mask
    else
      let at_ := pa + alrW d e * 8
      let old := BitVec.ofNat 64 (s.rd at_ 8)
      let a := slots[e]?.getD 0
      let s1 := s.wr at_ 8 (alrNew op old a (slots[e + 1]?.getD 0)).toNat
      let l := slots.set e old
      if op = 4 then
        let ok := old == a
        s1.alrRun pa n (e + 1) d (l.set (e + 1) (if ok then 1 else 0)) (mask + if ok then 2 ^ e else 0)
      else s1.alrRun pa n (e + 1) d l mask

/-- An operation on an object that stands away from the element. -/
def State.objHome (s : State) (id : Nat) : State :=
  match (s.reqs.look id).op with
  | 0xB7 => s.agcfgHome id
  | 0xB8 => s.agrunHome id
  | 0xB9 => s.bariHome id
  | 0xBA => s.barvHome id
  | 0xBB => s.barlogHome id
  | 0xBC | 0xBD => s.bindHome id
  | 0xBE => s.mcgHome id
  | 0xC1 => s.fretHome id
  | 0xC2 => s.fkillHome id
  | 0xC3 => s.parkHome id
  | 0xC4 => s.unparkHome id
  | 0xCA => s.replyVal id refusal
  | 0xCB => s.cfgldHome id
  | 0xCC => s.cfgcmtHome id
  | 0xCD => s.gsrcHome id
  | 0xCE => s.quiesceHome id
  | 0xBF => s
  | 0x83 | 0x84 | 0x85 | 0x86 | 0x87 | 0x88 | 0x89 | 0x8A | 0x8B => s.tileHome id
  | _ => s.queueHome id

/-- The home performs a memory request in one step. -/
def State.atHome (s : State) (id : Nat) : State :=
  let r := s.reqs.look id
  let pa := r.pa.getD 0
  let ea := BitVec.ofNat 64 r.ea
  let x := r.data[0]?.getD 0
  let queues := r.op = 0x94 && s.iState pa != 1
  let readBad := if queues then none else s.eccBad pa r.size
  let s1 := if queues then s else s.countCe pa r.size
  match r.op with
  | 0x91 | 0x93 => s.storeAt id pa r.size x.toNat ea
  | 0x95 =>
    if s.iState pa = 1 then s.replyBad id fkISTWICE 0 r.ea
    else (((s.setIState pa 1).wr pa 8 x.toNat).eccClear pa 8 |>.answerReaders pa x).replyTo id ea
  | 0x96 =>
    let waiting := s.readersOf pa
    let s2 := (s.setIState pa 0).dropReaders pa
    if s.iState pa = 2 then s2.replyBad id fkISTWICE waiting.length r.ea else s2.replyTo id ea
  | 0x9A =>
    let v := s.view r.f.key
    let t := s.applyTg r.f v.hdr.tg.toNat 0 { dest := v.destA, tok := r.f.base 0 0 }
    let w1 := v.destA.toNat + t.fx.toNat * 2 ^ 28 + t.path.toNat * 2 ^ 40 + t.rt.toNat * 2 ^ 46
    (({ s with armed := s.armed.put pa (r.lid + 1) }.wr pa 8 x.toNat).wr (pa + 8) 8 w1).eccClear pa 16 |>.replyTo id 0
  | op =>
    match readBad with
    | some w => s.replyBad id fkECCUE 1 w
    | none =>
      match op with
      | 0x94 =>
        if s.iState pa = 1 then s1.replyTo id (BitVec.ofNat 64 (s.rd pa 8))
        else if r.orphan then s1.replyTo id 0
        else if (s.mt (scratchSq pa)).readers.length ≥ 4096 then s
        else
          match if (s.view r.f.key).hdr.ndest = 0 then none else s.destFault (s.view r.f.key).destA with
          | some k => s.replyBad id k.1 k.2 r.ea
          | none =>
            let s2 := (s.setIState pa 2).modMt (scratchSq pa) fun m => { m with readers := m.readers ++ [s.readerOf r pa] }
            let s3 := s2.replyTo id 0
            { s3 with reqs := s3.reqs.upd id fun r => { r with deferred := true } }
      | 0x97 =>
        let (t, l, mask) := s1.alrRun pa 8 0 (r.data[7]?.getD 0) r.data 0
        let t1 := t.replyTo id (BitVec.ofNat 64 mask)
        { t1 with reqs := t1.reqs.upd id fun r => { r with words := l } }
      | 0x99 => s1.replyTo id (s.syncWord pa)
      | 0x9C =>
        let t := s1.syncAdd pa x.toNat r.lid
        t.replyTo id (t.syncWord pa)
      | _ => s1.replyTo id (BitVec.ofNat 64 (s.rd pa r.size))

/-- An egress entry may be performed: everything posted to the same home before it has been, and the GA stores it
stands behind are acknowledged (R234, R293). -/
def State.postedTurn (s : State) (id : Nat) : Bool :=
  let r := s.reqs.look id
  !r.performed && !r.behind.any s.ahead &&
  (((s.egress.look r.die).takeWhile (· != id)).all fun k =>
    let x := s.reqs.look k
    x.performed || homeDie (x.pa.getD 0) != homeDie (r.pa.getD 0))



/-- Whether the home of request `id` can take it now: an `ecall` comes here for a service that Igtex does not provide, in
the order of its node's calls (R271). -/
def State.homeReady (s : State) (id : Nat) : Bool :=
  let r := s.reqs.look id
  ((r.stage == .sent && (!r.deferred || s.calm id)) || (r.stage == .posted && s.postedTurn id)) &&
  s.reached r && !s.loadBefore id && r.io.isNone &&
  !(r.op == 0xCA && (knownService r.tgt || !s.callAt id r.tgt)) && !((r.op == 0xC1 || r.op == 0xC4) && s.queueFull id)

/-- HOME_ACCESS of request `a`. -/
def execHomeAccess (s : State) : Res := .next
  (if !s.homeReady s.at_.a then s
   else if (s.reqs.look s.at_.a).atObject then s.objHome s.at_.a
   else s.atHome s.at_.a)

/-! ### Replies and confirmations (R302) -/



/-- A fault that a reply reports. -/
def State.replyFault (s : State) (id kind detail : Nat) : State :=
  let r := s.reqs.look id
  if r.atObject then
    { s with reqs := s.reqs.del id }.raiseFiring r.f kind detail (r.data.headD 0) (if kind = fkECCUE then r.val else 0) 0
  else s.faultReq id kind detail

/-- What the reply of a request brings its node. -/
def State.deliver (s : State) (id : Nat) : State :=
  let r := s.reqs.look id
  let s1 := s.retire id
  if r.atObject then
    let v := s.view r.f.key
    (r.words.foldl (fun (st : State) x => st.orFlags r.f.elem (x.extractLsb' 0 8)) s1).sendAnswer r.die r.f v (r.data.headD 0)
      (outs1 v r.tok)
  else
  match r.op with
  | 0x9A => s1
  | 0x97 => (s1.alrSlots r.f (s.view r.f.key).slot false r.words).reqResult r r.val false
  | 0x91 | 0x93 | 0x95 => s1.reqResult r r.val r.ef
  | _ => s1.reqResult r r.val false

/-- MEMORY_REPLY of request `a`. -/
def execMemoryReply (s : State) : Res :=
  let id := s.at_.a
  let r := s.reqs.look id
  if r.stage != .reply || s.crossing r.via then .next s
  else if r.orphan then .next ({ s with reqs := s.reqs.del id }.countLate r.die)
  else if r.dead then .next { s with reqs := s.reqs.del id }
  else
    match r.err with
    | some (k, d) => .next ((s.replyFault id k d).pump)
    | none => .next ((if r.deferred then s.retire id else if r.eng then s.complete id r.val false else s.deliver id).pump)

/-- The entry leaves its die's egress store buffer. -/
def State.dropEgress (s : State) (die id : Nat) : State := { s with egress := s.egress.upd die fun l => l.filter (· != id) }

/-- EGRESS_CONFIRM of request `a` (R293): the home's confirmation returns, and the entry is removed; an `ist`, which has stayed
in its chain, is acknowledged (R291). A fault that the home found names the frame of another store only while that is still
allocated. [DEDUCED: log 85] -/
def execEgressConfirm (s : State) : Res :=
  let id := s.at_.a
  let r := s.reqs.look id
  if r.stage != .posted || !r.performed || s.crossing r.via then .next s
  else
    let s1 := s.dropEgress r.die id
    if !r.acked then
      .next ((if r.dead then { s1 with reqs := s1.reqs.del id } else match r.err with | some (k, d) => s1.replyFault id k d | none => s1.deliver id).pump)
    else
    let s2 := match r.err with
      | some (k, d) =>
        let fr := s1.fxRec r.rid r.f.t0.fx.toNat
        s1.raiseReq id k d (!fr.alloc || fr.releasing)
      | none => s1
    .next ({ s2 with reqs := s2.reqs.del id }.pump)

/-! ### Time-outs (R302 to R304) -/

/-- A copy of a request whose record has been written goes on by itself: it may still perform, and its reply is
late. -/
def State.orphaned (s : State) (r : MReq) : State :=
  let n := s.serial + 1
  { s with serial := n
           reqs := s.reqs.put n { r with orphan := true, wave := false,
                                         stage := if r.stage == .posted then (if r.performed then .reply else .sent) else r.stage } }

/-- The time-out of request `id` expires: EFLOST for an entry of the egress store buffer (R236, R302), which leaves its chain if
it is still in one. [DEDUCED: log 17] [DEDUCED: log 85] -/
def State.expire (s : State) (id : Nat) : State :=
  let r := s.reqs.look id
  let s1 := s.orphaned r
  if r.stage == .posted then
    let s2 := (s1.dropEgress r.die id).raiseReq id fkEFLOST 0 true
    let s3 := s2.retire id
    { s3 with reqs := s3.reqs.put id { r with stage := .faulted, performed := false, wave := false } }
  else if r.eng then s1.faultReq id fkTIMEOUT (isStore r.op).toNat
  else if r.op = 0x98 then s.prefAnswer id 0
  else if r.op = 0xBF then
    { s1 with reqs := s1.reqs.del id }.raiseFiring r.f fkTIMEOUT 1 (r.data.headD 0) (r.data.headD 0) 0
  else if r.op = 0xCA then { s1 with reqs := s1.reqs.del id }.raiseFiring r.f fkTIMEOUT 1 0 0 0
  else if isLoad r.op then s1.faultReq id fkTIMEOUT 0
  else s1.faultReq id fkACKLOST 0

/-- A page walk gets no answer in time: the request that began it faults, and the others look again. What the read still
brings is late (R301). -/
def State.expireWalk (s : State) (n : Nat) : State :=
  let w := s.walks.look n
  let s1 := { s with walks := s.walks.put n { w with orphan := true } }
  let r := s1.reqs.look w.owner
  let s2 := if r.stage != .xlat then s1
    else if r.op = 0x98 then s1.prefAnswer w.owner 0
    else s1.faultReq w.owner fkTIMEOUT 0
  s2.lookAgain w.cluster

/-- Whether the timer of request `id` runs and has expired: it runs until the reply or confirmation has come, and for an
`ild` until its MT has accepted it; for a `pref` from the start of its walk. The DMA queues have no time-out (R302). -/
def State.overdue (s : State) (id : Nat) : Bool :=
  let r := s.reqs.look id
  let out := r.stage == .sent || (r.stage == .reply && r.op != 0x94 && s.crossing r.via) ||
    (r.stage == .posted && !(r.performed && !s.crossing r.via)) || (r.stage == .xlat && r.op == 0x98 && r.tout != 0)
  out && !r.orphan && !r.dead && !r.deferred && r.die < 3 &&
  (!r.atObject || r.op == 0xBF || r.op == 0xCA) && r.start + r.tout ≤ s.tick r.die

def State.walkOverdue (s : State) (n : Nat) : Bool :=
  let w := s.walks.look n
  (s.walks.any fun p => p.1 == n) && !w.orphan && w.start + w.tout ≤ s.tick (w.cluster / 48)

/-- REQUEST_TIMEOUT of request `a`, or of walk `a` when `b` is 1. -/
def execRequestTimeout (s : State) : Res :=
  let n := s.at_.a
  if s.at_.b = 1 then .next (if s.walkOverdue n then (s.expireWalk n).pump else s)
  else .next (if s.overdue n then (s.expire n).pump else s)

/-! ### The scrubber (R327, R328) -/

/-- SCRUB_WORD at the word of address `a`: a correctable error is corrected and counted, any other is counted and left;
a word of a CT is none of the scrubber's. -/
def execScrubWord (s : State) : Res :=
  let pa := s.at_.a
  if !s.paOk pa then .next s
  else
    match s.ecc.look pa with
    | 0 => .next s
    | 1 => .next { s.countCe pa 1 with ecc := s.ecc.del pa }
    | _ => .next (s.modDie (homeDie pa) fun d =>
        { d with ecccnt := bump16 d.ecccnt 16, ecclast := BitVec.ofNat 64 (2 ^ 63 + pa % 2 ^ 52) })

end Sys2Proof.Machine
end

