-- ==== Sys2Proof/Machine/Network.lean ====
section
/-!
DEFINITION. The token mesh (R16 to R20, R341 to R343, R375 to R378), queue destinations (R97), and the die-to-die links:
paths and entry squares (R394), frames and their check (R397 to R402).
-/
namespace Sys2Proof.Machine

/-! ### Routing on a die (R375, R394) -/

/-- Key of a router input: square, input (0 local, 1 N, 2 E, 3 S, 4 W) and route tag. -/
def rinKey (q inp rt : Nat) : Nat := (q * 8 + inp) * 4 + rt
/-- The die that a destination lies on: an I/O die, 3 or 4, for DIE = 3 (R17). -/
def targetDie (d : BitVec 28) : Nat := if destDie d = 3 then 3 + (fld d.toNat 25 1) else destDie d

/-- Where a token on square `q` goes next. -/
inductive Hop where
  | deliver
  | hop (q inp : Nat)
  | link (l dir : Nat)
  deriving DecidableEq, Repr

/-- The next square towards (x, y), x first. -/
def stepTo (q x y : Nat) : Hop :=
  if sqX q < x then .hop (q + 1) 4
  else if x < sqX q then .hop (q - 1) 2
  else if sqY q < y then .hop (q + 64) 1
  else if y < sqY q then .hop (q - 64) 3
  else .deliver

/-- The next hop of a token on square `q`. -/
def nextHop (q : Nat) (dest : BitVec 28) : Hop :=
  let t := targetDie dest
  if t = sqDie q then stepTo q (destX dest) (destY dest)
  else
    match pathLinks (sqDie q) t with
    | [] => .deliver
    | l :: _ =>
      let (x, y, dir) := gateway q l
      match stepTo q x y with
      | .deliver => .link l dir
      | h => h

/-! ### Tokens on the links (R397 to R402) -/

/-- A token leaves a die on a link; none when its channel has no permit for it besides those that wait to be framed, or
the link is down (R401, R402). -/
def State.sendLink (s : State) (l dir : Nat) (fl : Flight) : Option State :=
  let m : Msg := { fl := fl, dst := targetDie fl.tok.dest }
  let c := s.chans.look (chanKey l dir ((s.links.look l).channel m))
  if s.linkUp l && permitOk (c.q.foldl (fun t x => x.charge t) c.used) m.code 1 then some (s.onLink l dir m) else none

/-! ### Multicast (R16, R378) -/

/-- A copy for the destinations `l`: one destination makes it unicast. -/
def Flight.copyTo (fl : Flight) (l : List (BitVec 28)) : Flight :=
  match l with
  | [d] => { fl with tok := { fl.tok with mc := false, dest := d }, dests := [] }
  | _ => { fl with dests := l }

/-- The destinations that go the way of the first, by a function that says where each goes, and the rest. -/
def branch {α : Type} [DecidableEq α] (way : BitVec 28 → α) (l : List (BitVec 28)) : List (BitVec 28) × List (BitVec 28) :=
  match l with
  | [] => ([], [])
  | d :: _ => l.partition fun x => way x == way d

/-! ### Endpoint inputs of the I/O dies -/

/-- The endpoint of a DIE = 3 destination: side, class and number (R17). -/
def ioKey (d : BitVec 28) : Nat := fld d.toNat 25 1 * 2048 + fld d.toNat 22 3 * 256 + fld d.toNat 14 8
/-- A token waits at an endpoint's input, which holds 8; none while it is full. [DESIGN CHOICE: log 61] -/
def State.toEndpoint (s : State) (fl : Flight) : Option State :=
  let k := ioKey fl.tok.dest
  if (s.ioIn.look k).length ≥ 8 then none else some { s with ioIn := s.ioIn.upd k fun l => l ++ [fl] }
/-- An I/O die sends a token (NOTIFY of R330, completions of R392, deliveries of R409). -/
def State.sendIo (s : State) (side lid : Nat) (t : Token) : State :=
  { s with ioOut := s.ioOut.upd side fun l => l ++ [{ tok := addressed t.dest t, src := 2 ^ 26 + 3 * 4096 + side, lid := lid }] }

/-! ### A hop -/

/-- The first of a list on a route tag, and the list without it. -/
def takeRt (l : List Flight) (rt : Nat) : Option (Flight × List Flight) :=
  match l.find? fun fl => fl.tok.rt.toNat == rt with
  | none => none
  | some fl => some (fl, l.erase fl)

/-- R20: whether all three retries of a hop fail, which is open; the token is then delivered with its parity wrong. -/
def State.checked (s : State) (fl : Flight) : Flight × State :=
  ({ fl with tok := { fl.tok with par := fl.tok.par || Config.chance s.free } }, s.drawn)

/-- Into a local router input: by cycle, and within one by element (R341). -/
def insertLocal (l : List Flight) (fl : Flight) : List Flight :=
  let first := fun (x : Flight) => x.ready < fl.ready || x.rank ≤ fl.rank
  l.filter first ++ [fl] ++ l.filter fun x => !first x

/-- A router input takes a token; none while it holds 8 of its route tag (R341). A token makes one hop in a cycle (R375). -/
def State.toRouter (s : State) (q inp : Nat) (fl : Flight) : Option State :=
  let k := rinKey q inp fl.tok.rt.toNat
  if (s.rin.look k).length ≥ 8 then none
  else
    let (fl, s1) := s.checked { fl with ready := s.cycles + 1 }
    some { s1 with rin := s1.rin.upd k fun l => if inp = 0 then insertLocal l fl else l ++ [fl] }

/-- An element's input stage takes a token from an input of its router; none while it holds 4 (R341). -/
def State.toElement (s : State) (inp : Nat) (fl : Flight) : Option State :=
  let e := destElem fl.tok.dest
  if (s.elem e).inStage.length + (s.elem e).back.length ≥ 4 && !(s.regionOf (e / 4)).withdraw then none
  else some (s.modElem e fun x => { x with inStage := x.inStage ++ [{ fl with link := inp, ready := s.cycles + 1 }] })

/-- R274: a token from outside the load to one of its queues or entry nodes, and one of another package, does not enter square
`q2` of a closed region from outside the load. -/
def State.heldOut (s : State) (outside : Bool) (q2 : Nat) (d : BitVec 28) (fl : Flight) : Bool :=
  outside && (s.regionOf q2).closed && (fl.lid != s.lidOf q2 || fl.ingress) && targetDie d == sqDie q2 &&
  s.lidOf (destSq d) == s.lidOf q2

/-- A token on square `q`, come by input `inp`, goes on; none while it cannot. A token for a fused-off square is
discarded by the router next to it, which raises BOUNDS (R18); a queue destination is the MT's own step. -/
def State.forward (s : State) (q inp : Nat) (fl : Flight) : Option State :=
  let d := (fl.dests.head?).getD fl.tok.dest
  match nextHop q d with
  | .link l dir => s.sendLink l dir { fl with row := sqY q }
  | .hop q2 i2 =>
    if destSq d = q2 ∧ targetDie d = sqDie q ∧ s.fused.contains q2 then some (s.raiseAway fl fkBOUNDS 3 (q * 4096))
    else if s.heldOut (s.lidOf q2 != s.lidOf q) q2 d fl then none
    else s.toRouter q2 i2 fl
  | .deliver =>
    if s.fused.contains q then some (s.raiseAway fl fkBOUNDS 3 (q * 4096))
    else if isCt q then s.toElement inp fl
    else none

/-- Take the head of a router input away. -/
def State.popRin (s : State) (k : Nat) : State := { s with rin := s.rin.upd k fun l => l.drop 1 }

/-- Where a destination of a multicast token goes from square `q`: each destination that ends at the next router, or
here, by itself. [DEDUCED: log 60] -/
def State.wayOf (s : State) (q : Nat) (d : BitVec 28) : Hop × Nat :=
  match nextHop q d with
  | .deliver => (.deliver, d.toNat)
  | h => (h, if s.fused.contains (destSq d) then d.toNat else 0)
/-- The branch that leaves first, and the destinations that stay: a delivered destination leaves by itself, so that two slots
with one destination get two copies (R378). -/
def State.branchAt (s : State) (q : Nat) (l : List (BitVec 28)) : List (BitVec 28) × List (BitVec 28) :=
  match l with
  | [] => ([], [])
  | d :: rest => if nextHop q d = .deliver ∨ s.fused.contains (destSq d) then ([d], rest) else branch (s.wayOf q) l

/-- The head of a router input goes on, or the branch of it that its first destination is on (R378); none while it cannot. [DEDUCED: log 60] -/
def State.headGoes (s : State) (q inp rt : Nat) : Option State :=
  let k := rinKey q inp rt
  match s.rin.look k with
  | [] => none
  | fl :: rest =>
    if s.cycles < fl.ready || (isCt q && (s.linkHeld q inp rt).isSome) then none
    else if fl.tok.mc && destDie fl.tok.dest == sqDie q then
      match s.branchAt q (s.destsOf fl) with
      | ([], _) => some (s.popRin k)
      | (l, []) => (s.popRin k).forward q inp (fl.copyTo l)
      | (l, m) => { s with rin := s.rin.put k ({ fl with dests := m } :: rest) }.forward q inp (fl.copyTo l)
    else (s.popRin k).forward q inp fl

/-- The destination that the head of a router input goes to next: of a multicast token on the die of its group, the first
that it still stands for. -/
def State.headDest (s : State) (q : Nat) (fl : Flight) : BitVec 28 :=
  if fl.tok.mc && destDie fl.tok.dest == sqDie q then ((s.destsOf fl).head?).getD fl.tok.dest else fl.tok.dest

/-- The output of the router of square `q` that the head of an input goes to: 1 to 4 a link to a neighbour by its input
there, 5 or 6 a die-to-die link (the corner squares of CD1 are gateways of two, R393), 8 to 11 an element, 12 a queue. -/
def State.outputOf (s : State) (q : Nat) (fl : Flight) : Nat :=
  let d := s.headDest q fl
  match nextHop q d with
  | .hop _ i => i
  | .link l _ => if l < 4 then 5 else 6
  | .deliver => if isCt q then 8 + destEl d else 12

/-- The queue of an MT takes a token that ends there. -/
def State.queueTakes (s : State) (fl : Flight) : Bool :=
  let qk := destQueue fl.tok.dest
  fl.ready ≤ s.cycles && (!(s.queue qk).declared || (s.queue qk).hasRoom)

/-- The head of an input can leave by an output. -/
def State.headReady (s : State) (q inp rt out : Nat) : Bool :=
  match s.rin.look (rinKey q inp rt) with
  | [] => false
  | fl :: _ =>
    fl.tok.kind != 3#2 && s.outputOf q fl == out &&
      if out = 12 then s.queueTakes fl else (s.headGoes q inp rt).isSome

/-- R342: no route tag that an output serves before `rt`, in turn from the one that is next, has a head that can leave by
it. -/
def State.rtTurn (s : State) (q out rt : Nat) : Bool :=
  let from_ := s.rtNext.look (q * 16 + out)
  (List.range ((rt + 4 - from_ % 4) % 4)).all fun i =>
    (List.range 5).all fun inp => !s.headReady q inp ((from_ + i) % 4) out
/-- The output has served `rt`. -/
def State.rtServed (s : State) (q out rt : Nat) : State := { s with rtNext := s.rtNext.put (q * 16 + out) ((rt + 1) % 4) }

/-- ROUTER_HOP out of router input `b` (0 to 4) of square `a` on route tag `c` (R375). A control token is consumed, and
one of a reserved sub-kind is counted as an error (R15). -/
def State.hopRin (s : State) (q inp rt : Nat) : State :=
  let k := rinKey q inp rt
  match s.rin.look k with
  | [] => s
  | fl :: _ =>
    if fl.tok.kind == 3#2 then
      let s1 := s.popRin k
      if fld fl.tok.val.toNat 60 4 ≥ 3 then { s1 with routerErr := s1.routerErr.upd q (· + 1) } else s1
    else if !s.rtTurn q (s.outputOf q fl) rt then s
    else
      match s.headGoes q inp rt with
      | some t => t.rtServed q (s.outputOf q fl) rt
      | none => s

/-- Token `i` of an element's output stage goes into the local input of its router, ahead of those of other nodes and
other route tags (R23, R342); not while the stage is held (R138). -/
def State.hopOut (s : State) (e i : Nat) : State :=
  let l := (s.elem e).outStage
  match l[i]? with
  | none => s
  | some fl =>
    if s.cycles < fl.ready || s.stageHeld e || (l.take i).any fun x => x.src == fl.src && x.tok.rt == fl.tok.rt then s
    else
      match (s.modElem e fun x => { x with outStage := l.eraseIdx i }).toRouter (e / 4) 0 fl with
      | some t => t
      | none => s
/-- Out of a square's own control. -/
def State.hopSrc (s : State) (q rt : Nat) : State :=
  match takeRt (s.srcQ.look q) rt with
  | none => s
  | some (fl, rest) =>
    match { s with srcQ := s.srcQ.put q rest }.toRouter q 0 fl with
    | some t => t
    | none => s

/-- Where a received token enters a compute die (R394); a compute die's token enters in its own row. [DEDUCED: log 60] -/
def entrySquare (l dir : Nat) (fl : Flight) : Nat × Nat :=
  let d := fl.tok.dest
  entryPlace l dir (if 2 ^ 26 + 3 * 4096 ≤ fl.src then destY d else fl.row) (destX d) (destY d)

/-- Where the copy of a multicast token for destination `d` enters. -/
def entryFor (l dir : Nat) (fl : Flight) (d : BitVec 28) : Nat × Nat :=
  entrySquare l dir { fl with tok := { fl.tok with dest := d } }

/-- A received token that ends on this die enters its mesh, or its endpoint; none while it cannot. [DEDUCED: log 60] -/
def State.enter (s : State) (l dir : Nat) (fl : Flight) : Option State :=
  if dirTo l dir ≥ 3 then s.toEndpoint fl
  else
    let d := (fl.dests.head?).getD fl.tok.dest
    let (q, inp) := entryFor l dir fl d
    if s.heldOut true q d fl then none else s.toRouter q inp fl

/-- The first message of a receiver that is charged to a CODE, and the others. -/
def takeCode (l : List Msg) (code : Nat) : Option (Msg × List Msg) :=
  match l.find? fun m => m.code == code with
  | none => none
  | some m => some (m, l.erase m)

/-- Park mark, unpark or stop `n` has come to its die: it takes effect there, and the answer sets out; or its answer is back. -/
def State.notified (s : State) (n : Nat) : State :=
  match s.notices.find? fun x => x.via == n && n != 0 with
  | none => s
  | some x =>
    let s1 := { s with notices := s.notices.erase x }
    if x.back then s1
    else
      let (s2, m) := (s1.takeNotice x.die x.what).postMgmt x.die (s1.noticeHome x.what) 0
      if m = 0 then s2 else { s2 with notices := s2.notices ++ [{ x with via := m, back := true }] }

/-- A message other than a token has come to its die: an answer that it brings is back (R124), and a notice takes effect
(R398). [DESIGN CHOICE: log 86] -/
def State.arrived (s : State) (n : Nat) : State :=
  let back := fun (x : Elem) =>
    match x.answers.find? fun a => a.via == n && n != 0 with
    | none => x
    | some a => { x with answers := x.answers.erase a ++ [{ a with via := 0 }] }
  ({ s with elems := mapTbl s.elems fun _ x => back x } : State).notified n

/-- The receiver of channel `k` passes message `m` on; `rest` stay. -/
def State.passOn (s : State) (k : Nat) (m : Msg) (rest : List Msg) : State :=
  { s with chans := s.chans.upd k fun c => { c.passed [m] with rx := rest } }
/-- A multicast token at the receiver of channel `k` now stands for the destinations `l`. -/
def State.leftOver (s : State) (k : Nat) (m : Msg) (l : List (BitVec 28)) : State :=
  { s with chans := s.chans.upd k fun c =>
      { c with rx := c.rx.map fun x => if x == m then { m with fl := { m.fl with dests := l } } else x } }

/-- An older token of the same node, destination and route tag stands at the receiver of another channel of the link, from
before the channels changed: the token waits for it (R23, R395). [DEDUCED: log 107] -/
def State.overtakes (s : State) (k : Nat) (m : Msg) : Bool :=
  m.cls == .tok && s.chans.any fun p => p.1 / 32 == k / 32 && p.1 != k && p.2.rx.any fun x =>
    x.cls == .tok && x.fl.src == m.fl.src && x.fl.tok.dest == m.fl.tok.dest && x.fl.tok.rt == m.fl.tok.rt &&
    x.notBefore < m.notBefore

/-- Out of the receiver of channel `k`: a message of another die waits for the bridge, a message to another package is taken up
there, and any other message is taken up here. A multicast token enters the mesh once for each entry square of its destinations (R378, R394). -/
def State.hopRx (s : State) (k code : Nat) : State :=
  let l := k / 64
  let dir := k / 32 % 2
  match takeCode (s.chans.look k).rx code with
  | none => s
  | some (m, rest) =>
    if m.dst != dirTo l dir || s.overtakes k m then s
    else if dirTo l dir = 5 then s.passOn k m rest
    else if m.cls != .tok then (s.passOn k m rest).arrived m.id
    else if m.fl.tok.mc then
      match branch (entryFor l dir m.fl) (s.destsOf m.fl) with
      | ([], _) => s.passOn k m rest
      | (x, []) => ((s.passOn k m rest).enter l dir (m.fl.copyTo x)).getD s
      | (x, y) => ((s.leftOver k m y).enter l dir (m.fl.copyTo x)).getD s
    else ((s.passOn k m rest).enter l dir m.fl).getD s

/-- Out of an I/O die, to an endpoint of its own or to the first link of the path. -/
def State.hopIo (s : State) (side rt : Nat) : State :=
  match takeRt (s.ioOut.look side) rt with
  | none => s
  | some (fl, rest) =>
    let s1 := { s with ioOut := s.ioOut.put side rest }
    let t := targetDie fl.tok.dest
    let r := if t = 3 + side then s1.toEndpoint fl
      else
        match pathLinks (3 + side) t with
        | [] => none
        | l :: _ => s1.sendLink l 0 fl
    r.getD s

/-- ROUTER_HOP: `b` says out of what the token on route tag `c` goes: 0 to 4 an input of the router of square `a`, 8 to 11
its element's output stage, token `c`, 12 the square's control, 13 the receiver of channel `a`, the message of CODE `c`,
14 I/O die `a`. -/
def execRouterHop (s : State) : Res :=
  let a := s.at_.a
  let b := s.at_.b
  let rt := s.at_.c
  .next
    (if b ≤ 4 then s.hopRin a b rt
     else if 8 ≤ b ∧ b ≤ 11 then s.hopOut (a * 4 + (b - 8)) rt
     else if b = 12 then s.hopSrc a rt
     else if b = 13 then s.hopRx a rt
     else s.hopIo a rt)

/-- QUEUE_DESTINATION_APPEND of the head of router input `b` of MT `a` on route tag `c` (R97). A full queue holds it
back; an undeclared queue index raises BOUNDS. -/
def execQueueDestinationAppend (s : State) : Res :=
  let q := s.at_.a
  let k := rinKey q s.at_.b s.at_.c
  match s.rin.look k with
  | [] => .next s
  | fl :: _ =>
    if fl.tok.kind == 3#2 || fl.tok.mc || isCt q || s.fused.contains q || destSq fl.tok.dest != q ||
        destDie fl.tok.dest != sqDie q then .next s
    else
      let qk := destQueue fl.tok.dest
      let s1 := (s.popRin k).rtServed q 12 s.at_.c
      if !s.queueTakes fl || !s.rtTurn q 12 s.at_.c then .next s
      else if !(s.queue qk).declared then .next (s1.raiseAway fl fkBOUNDS 3 (q * 4096))
      else .next ((s1.append qk fl.tok).serve qk)

/-! ### Frames (R397 to R402) -/

/-- CRC-32 with polynomial 0x04C11DB7 over the bits of a number, the highest of `n` first. [DESIGN CHOICE: log 34] -/
def crc32 (n x acc : Nat) : Nat :=
  match n with
  | 0 => acc
  | n + 1 =>
    let top := acc / 2 ^ 31
    let sh := acc % 2 ^ 31 * 2
    let b := (top + x / 2 ^ n) % 2
    crc32 n (x % 2 ^ n) (if b = 1 then sh ^^^ 0x04C11DB7 else sh)

/-- The receiver's check of a frame. [DESIGN CHOICE: log 34] -/
def frameOk (x : Nat) : Bool :=
  let crc := fld x (256 * 15) 32
  crc32 4096 (x - crc * 2 ^ (256 * 15)) 0xFFFFFFFF == crc

/-- A payload flit: CLS and H, the content, the permits it takes by CODE, and the messages that end in it (R397, R398). -/
structure Flit where
  desc : Nat := 0
  body : Nat := 0
  costs : List (Nat × Nat) := []
  ends : List Msg := []
  deriving DecidableEq, Repr, Inhabited

/-- CLS of a class. -/
def MClass.cls (c : MClass) : Nat :=
  match c with
  | .tok => 1
  | .mreq => 2
  | .mrsp => 3
  | .ack => 4
  | .mgmt => 6
  | .probe => 7
/-- A token addressed to DIE = 3 (R398). -/
def Msg.toIo (m : Msg) : Bool := m.cls == .tok && destDie m.fl.tok.dest == 3 && !m.fl.tok.mc
/-- The first flit of a message, but for its second half: a token, with the sending load's LID for DIE = 3, an ACK word, or a
header with 16 data bytes. -/
def Msg.lead (m : Msg) : Nat :=
  match m.cls with
  | .tok => m.fl.tok.bits.toNat + if m.toIo then m.fl.lid % 2 ^ 16 * 2 ^ 128 else 0
  | .probe => m.fl.tok.bits.toNat
  | .ack => m.head
  | _ => m.head + leBytes (m.data.take 16) * 2 ^ 128
/-- The BULK flits that carry `n` times 32 bytes of the rest of a message's data. -/
def bulkFlits (m : Msg) (n : Nat) (d : List Byte) : List Flit :=
  match n with
  | 0 => []
  | n + 1 =>
    { desc := 5 + if n = 0 then 0 else 8, body := leBytes (d.take 32), costs := [(7, 2)], ends := if n = 0 then [m] else [] } ::
      bulkFlits m n (d.drop 32)
/-- The flits of one message. -/
def Msg.flits (m : Msg) : List Flit :=
  { desc := m.cls.cls + if m.bulk = 0 then 0 else 8, body := m.lead, costs := [(m.code, m.cost)],
    ends := if m.bulk = 0 then [m] else [] } :: bulkFlits m m.bulk (m.data.drop 16)
/-- Two messages go into one flit with H = 1: tokens, ACK words or probes, but no token addressed to DIE = 3. -/
def pairs (a b : Msg) : Bool := a.cls == b.cls && (a.cls == .tok || a.cls == .ack || a.cls == .probe) && !a.toIo && !b.toIo
/-- The flits of a row of messages. [DESIGN CHOICE: log 34] -/
def flitsOf (l : List Msg) : List Flit :=
  match l with
  | [] => []
  | [m] => m.flits
  | a :: b :: rest =>
    if pairs a b then
      { desc := a.cls.cls + 8, body := a.lead + b.lead * 2 ^ 128,
        costs := if a.cls == .ack then [(6, 2)] else [(a.code, 1), (b.code, 1)]
        ends := [{ a with half := a.cls == .ack }, { b with half := b.cls == .ack }] } :: flitsOf rest
    else a.flits ++ flitsOf (b :: rest)

/-- Up to `n` flits that have their permits, and the permits then in use. -/
def fillFrame (n : Nat) (used : Tbl Nat) (l : List Flit) : List Flit × Tbl Nat :=
  match n, l with
  | n + 1, f :: rest =>
    match f.costs.foldl (fun t p => t.bind fun t => if permitOk t p.1 p.2 then some (t.upd p.1 (· + p.2)) else none) (some used) with
    | none => ([], used)
    | some t => let (x, y) := fillFrame n t rest; (f :: x, y)
  | _, _ => ([], used)

/-- The sender builds its next frame at tick `now` of the receiver, of messages that have had the time of a crossing
(R395); while the link drains, only of those that are replayed (R402). Idle flits fill it up. [DESIGN CHOICE: log 34] -/
def Chan.build (c : Chan) (now : Nat) (drain : Bool) : Chan :=
  let l := (c.q.takeWhile fun m => m.notBefore ≤ now && (!drain || m.replay)).take 30
  let (fs, used) := fillFrame 15 c.used ((flitsOf l).drop c.cut)
  let ended := fs.flatMap fun f => f.ends
  { c with
    q := c.q.drop ended.length
    cut := if ended.isEmpty then c.cut + fs.length else (fs.reverse.takeWhile fun f => f.ends.isEmpty).length
    used := used, fseq := c.fseq + 1
    frames := c.frames ++ [{ seq := c.fseq, flits := fs.map fun f => (f.desc, f.body), msgs := ended }] }

/-- The permit returns of a receiver: CODE, SH and COUNT; shared permits go back first. [DESIGN CHOICE: log 34] -/
def Chan.returns (c : Chan) : List (Nat × Nat × Nat) :=
  ((List.range 10).flatMap fun k =>
    let n := c.ret.look k
    let sh := min n (c.used.look k - 16)
    (if sh = 0 then [] else [(k, 1, sh)]) ++ if n = sh then [] else [(k, 0, n - sh)]).take 4

/-- The control flit (R397) with CRC 0: the frame's FSEQ and descriptors, and the acknowledgements and permit returns of
the other direction, `rv`. -/
def controlFlit (seq : BitVec 12) (descs : List Nat) (rv : Chan) : Nat :=
  let pdesc := ((List.range descs.length).zip descs).foldl (fun n p => n + p.2 % 16 * 2 ^ (4 * (p.1 + 1) + 166)) 0
  let rets := rv.returns
  let pret := (List.range 4).foldl (fun n j =>
    let w := match rets[j]? with | some (k, sh, x) => k * 1024 + sh * 512 + x % 512 | none => 15 * 1024
    n + w * 2 ^ (14 * j + 114)) 0
  seq.toNat * 2 ^ 244 + (rv.rseq - 1).toNat * 2 ^ 232 + rv.nak.toNat * 2 ^ 231 + rv.any_.toNat * 2 ^ 230 + pdesc + pret

/-- The 16 flits of a frame as one number: flit 0 highest, with its CRC. [DESIGN CHOICE: log 34] -/
def frameBits (f : Frame) (rv : Chan) : Nat :=
  let pay := (f.flits.map fun p => p.2 % 2 ^ 256) ++ List.replicate (15 - f.flits.length) 0
  let body := (controlFlit f.seq (f.flits.map (·.1)) rv :: pay).foldl (fun acc x => acc * 2 ^ 256 + x) 0
  body + crc32 4096 body 0xFFFFFFFF * 2 ^ (256 * 15)

/-- What the control flit `x` says to the sender of the other direction: frames that it acknowledges leave the replay store,
a NAK makes the frames after them be sent again, and permits come back. -/
def Chan.control (c : Chan) (x : Nat) : Chan :=
  let n := match c.frames with
    | f :: _ => if tbit x 230 then (BitVec.ofNat 12 (fld x 232 12) - f.seq + 1).toNat else 0
    | [] => 0
  let n := if n ≤ c.next then n else 0
  let c1 := { c with frames := c.frames.drop n, next := if tbit x 231 then 0 else c.next - n, replay := c.replay || tbit x 231 }
  (List.range 4).foldl (fun c j =>
    let code := fld x (14 * j + 124) 4
    let k := fld x (14 * j + 114) 9
    if code < 10 then { c with used := c.used.upd code (· - k), ret := c.ret.upd code (· - k) } else c) c1

/-- A 16-bit count of a link end that stops at 0xFFFF (R403). -/
def bump (n k : Nat) : Nat := min (n + k) 0xFFFF

/-- A replay is counted at the sending end (R403). -/
def State.countRetry (s : State) (k : Nat) : State :=
  { s with links := s.links.upd (k / 64) fun x =>
      if k / 32 % 2 = 0 then { x with retry0 := bump x.retry0 1 } else { x with retry1 := bump x.retry1 1 } }
/-- A discarded message is counted at the receiving end (R399). -/
def State.countDisc (s : State) (k : Nat) : State :=
  { s with links := s.links.upd (k / 64) fun x =>
      if k / 32 % 2 = 0 then { x with disc1 := bump x.disc1 1 } else { x with disc0 := bump x.disc0 1 } }

/-- The channel of the same module in the other direction. -/
def otherWay (c : Nat) : Nat := if c / 32 % 2 = 0 then c + 32 else c - 32

/-- The messages that wait to be framed on a link choose their channels again among the active ones; one whose first flits
have left stays on its channel. [DEDUCED: log 107] -/
def State.redistribute (s : State) (l : Nat) : State :=
  let act := (s.links.look l).active
  [0, 1].foldl (fun st dir =>
    let stays := fun (m : Nat) (c : Chan) => if c.cut = 0 || !act.contains m then 0 else 1
    let all := (List.range 32).flatMap fun m => let c := st.chans.look (chanKey l dir m); c.q.drop (stays m c)
    let st1 := (List.range 32).foldl (fun (x : State) m =>
      { x with chans := x.chans.upd (chanKey l dir m) fun c =>
          { c with q := c.q.take (stays m c), cut := if act.contains m then c.cut else 0 } }) st
    all.foldl (fun (x : State) m =>
      { x with chans := x.chans.upd (chanKey l dir ((x.links.look l).channel m)) fun c => { c with q := c.q ++ [m] } }) st1) s

/-- R402 step 3: the link goes on once every replayed message has been acknowledged and no frame of it is on its way; only then
do messages choose among the channels that remain, so that none passes an older one. [DEDUCED: log 107] -/
def State.drained (s : State) (l : Nat) : State :=
  let waits := s.chans.any fun p => p.1 / 64 == l &&
    ((p.2.q ++ p.2.frames.flatMap fun f => f.msgs).any (fun m => m.replay) || !p.2.framed.isEmpty)
  if !(s.links.look l).draining || waits then s
  else
    let s1 : State := { s with links := s.links.upd l fun x => { x with draining := false, old := [] } }
    s1.redistribute l

/-- The control flit of frame `x` of channel `c` is taken up by the sender of the other direction. -/
def State.takeControl (s : State) (c x : Nat) : State :=
  let s1 : State := { s with chans := s.chans.upd (otherWay c) fun h => h.control (x / 2 ^ (256 * 15)) }
  s1.drained (c / 64)
/-- A frame that has come whole is taken up at its receiver, and its control flit by the sender there. -/
def State.takeFrame (s : State) (c : Nat) (f : Frame) (x : Nat) : State :=
  let s1 : State := { s with chans := s.chans.upd c fun h =>
    { h with rx := h.rx ++ f.msgs.map (fun (m : Msg) => { m with replay := false }), next := h.next + 1, rseq := h.rseq + 1, any_ := true,
             nak := false, replay := false, fails := 0 } }
  s1.takeControl c x

/-- MPL_FRAME_RECEIVE on channel `c`: the next frame reaches the receiver, the one that a NAK asked for or a new one while
the replay store has room. `err` says what happened to it on the way: 0 nothing, n from 1 to 4,096 that bit n - 1 was
flipped, and above that a message with a reserved MOP stands in it, which is discarded and counted (R399). A frame that
fails its CRC is answered with NAK and replayed, and of what comes before the replay only the control flit is taken; after eight failed replays
the channel retrains, and a frame that passes then shows that it has (R402). [DESIGN CHOICE: log 12] [DESIGN CHOICE: log 34] -/
def execMplFrameReceive (c err : Nat) (s : State) : Res :=
  let ch := s.chans.look c
  if !((s.links.look (c / 64)).active.contains (c % 32)) then .next s
  else if err > 4096 then .next (s.countDisc c)
  else if ch.nak && !ch.replay then
    let x := frameBits { seq := ch.fseq } (s.chans.look (otherWay c))
    let y := if err = 0 then x else x ^^^ 2 ^ (err - 1)
    .next (if frameOk y then s.takeControl c y else s)
  else if ch.next = ch.frames.length && 64 ≤ ch.frames.length then .next s
  else
    let ch1 := if ch.next < ch.frames.length then ch
      else ch.build (s.tick (dirTo (c / 64) (c / 32 % 2))) (s.links.look (c / 64)).draining
    let s1 := { s with chans := s.chans.put c ch1 }
    let s2 := if ch.nak then s1.countRetry c else s1
    let f := (ch1.frames[ch1.next]?).getD {}
    let x := frameBits f (s.chans.look (otherWay c))
    let y := if err = 0 then x else x ^^^ 2 ^ (err - 1)
    if frameOk y then .next (s2.takeFrame c f y)
    else .next { s2 with chans := s2.chans.upd c fun h =>
      { h with nak := true, replay := false, fails := if ch.nak then h.fails + 1 else h.fails } }

/-- What a removed or retrained channel has not delivered: the messages of frames not received, and one cut between frames. -/
def Chan.undelivered (c : Chan) : List Msg :=
  (c.framed.map fun m => { m with half := false }) ++ c.q.take (if c.cut = 0 then 0 else 1)
/-- The channel without them, as it stands after training. -/
def Chan.fresh (c : Chan) : Chan :=
  { q := c.q.drop (if c.cut = 0 then 0 else 1), rx := c.rx, used := c.rx.foldl (fun t m => m.charge t) [] }

/-- What channel `m` of link `l` has not delivered is replayed on channel `m2`, behind a message that `m2` has begun. -/
def State.replayOn (s : State) (l dir m m2 : Nat) : State :=
  let c := s.chans.look (chanKey l dir m)
  let mark := fun (x : Msg) => { x with replay := true }
  { s with chans := (s.chans.put (chanKey l dir m) c.fresh).upd (chanKey l dir m2) fun d =>
      let n := if d.cut = 0 then 0 else 1
      { d with q := (d.q.take n).map mark ++ c.undelivered.map mark ++ d.q.drop n } }

/-- CHANNEL_REMOVE of channel `a` (R402): after eight failed replays its retraining has failed too. The module leaves the
link, what it has not delivered is replayed on the lowest module that remains, and the link sends nothing else until that
is acknowledged. With no module left the link is down. -/
def execChannelRemove (s : State) : Res :=
  let k := s.at_.a
  let l := k / 64
  let m := k % 32
  if (s.chans.look k).fails < 8 || !(s.links.look l).active.contains m then .next s
  else
    let left := (s.links.look l).active.filter (· != m)
    let s1 := { s with links := s.links.upd l fun x =>
      { x with active := left, draining := !left.isEmpty, old := if x.old.isEmpty then x.active else x.old } }
    match left with
    | [] => .next s1
    | m2 :: _ => .next (((s1.replayOn l 0 m m2).replayOn l 1 m m2).drained l)

/-- The rates that a module trains to, and the highest that is no more than `r` (R396). -/
def rates : List Nat := [32, 24, 16, 12, 8, 4]
def rateFloor (r : Nat) : Nat := (rates.find? fun x => x ≤ r).getD 0
/-- Modules built on a link (R393). -/
def linkModules (l : Nat) : Nat := if l < 2 then 24 else if l < 6 then 16 else 1

/-- Every channel of a link as it stands after training: what has not been delivered is sent again. -/
def State.retrained (s : State) (l : Nat) : State :=
  let s1 : State := { s with chans := mapTbl s.chans fun k c =>
    if k / 64 = l then { c.fresh with q := c.undelivered ++ c.fresh.q } else c }
  s1.redistribute l

/-- LINK_TRAINING of link `l`: `pass` gives for each module the highest rate that it passes, 0 for one that fails. The
modules that pass train to the highest rate common to them (R396). -/
def execLinkTraining (l : Nat) (pass : List Nat) (s : State) : Res :=
  let got := ((pass.take (linkModules l)).zip (List.range 32)).filter fun p => rateFloor p.1 != 0
  let rate := got.foldl (fun r p => min r (rateFloor p.1)) 32
  let s1 : State := { s with links := s.links.upd l fun x =>
    { x with built := linkModules l, draining := false, active := got.map Prod.snd, old := []
             rate := if got.isEmpty then 0 else rate } }
  .next (s1.retrained l)

/-- BRIDGE_FORWARD of the message of CODE `b` in the receiver of channel `a` (R394): CD1's bridge passes it to the
link on which it leaves CD1 again, by the rule of R400. -/
def execBridgeForward (s : State) : Res :=
  let k := s.at_.a
  let l := k / 64
  let dir := k / 32 % 2
  match takeCode (s.chans.look k).rx s.at_.b with
  | none => .next s
  | some (m, rest) =>
    if dirTo l dir != 1 || m.dst = 1 || s.overtakes k m then .next s
    else
      match pathLinks 1 m.dst with
      | [] => .next s
      | l2 :: _ =>
        let s1 := s.passOn k m rest
        let d2 := dirOf l2 1
        .next (if m.cls == .tok then (s1.sendLink l2 d2 m.fl).getD s else s1.onLink l2 d2 { m with leg := 0 })

end Sys2Proof.Machine
end

