-- ==== Sys2Proof/Machine/Launch.lean ====
section
/-!
DEFINITION. The journal (R422, R423), launch commands and their steps (R329, R330), the launch queues (R331 to R333), the
allocation of clusters (R335) and the checking of an image against the machine (R105).
-/
namespace Sys2Proof.Machine

/-! ### The journal (R422, R423) -/

/-- A new entry; none when it would overwrite one that is accepted or started. [DEDUCED: log 75] -/
def State.journalNew (s : State) (e : JEntry) : Option State :=
  let full := s.jhead - s.jtail ≥ 4096
  if full && (s.journal.look s.jtail).state ≤ 1 then none
  else
    some { s with journal := (if full then s.journal.del s.jtail else s.journal).put s.jhead { e with tick := s.tick 3 }
                  jhead := s.jhead + 1
                  jtail := if full then s.jtail + 1 else s.jtail }

/-- An entry of the device's own, written completed; HID 0xFFFF (R422). -/
def State.journalNote (s : State) (cmd arg : Nat) (aux : List Byte) : State :=
  (s.journalNew { hid := 0xFFFF, cmd := cmd, state := 2, arg := arg, aux := aux }).getD s

/-! ### Acceptance (R329, R330 step 1) -/

/-- The offset of the first bad field of a launch command. -/
def cmdBad (c : List Byte) : Option Nat :=
  let f := cmdField c
  (need (f 0 4 == 1) 0 ++ need (f 4 1 ≤ 7 || f 4 1 == 0xFF) 4 ++ need (f 5 1 ≤ 1) 5 ++ need (f 6 1 ≤ 2) 6 ++ need (f 7 1 == 0) 7 ++
    need (f 8 8 % 64 == 0) 8 ++ need (f 0x18 8 % 8 == 0) 0x18 ++ need (f 0x20 1 == 0 || (24 ≤ f 0x20 1 && f 0x20 1 ≤ 32)) 0x20 ++
    need (f 0x21 1 == 0) 0x21 ++ need (f 0x22 2 ≤ 64) 0x22 ++ need (f 0x24 4 == 0) 0x24 ++ need (fld (f 0x28 8) 48 15 == 0) 0x28 ++
    need (f 0x30 8 == 0 && f 0x38 8 == 0) 0x30).head?

/-- A command is accepted: its entry is written, and a bad field fails it at once, without a NOTIFY token. The state and
the sequence number; none when the journal cannot take an entry. -/
def State.accept (s : State) (hid : Nat) (cmd : List Byte) : Option (State × Nat) :=
  let seq := s.jhead
  (s.journalNew { hid := hid, cmd := 1, digest := (sha256 cmd).take 16 }).map fun t =>
    match cmdBad cmd with
    | none => (t.modLoad seq fun _ => { phase := .accepted, cmd := cmd }, seq)
    | some o =>
      ((t.modJournal seq fun j => { j with state := 3, code := 1, arg := o }).modLoad seq fun _ => { phase := .ended }, seq)

/-- The place of an endpoint in a fault record: DIE = 3 and the TILE (R351). -/
def endpointPlace (t : Token) : Nat := (destSq t.dest) * 4096
/-- The head token of an endpoint's input is gone. -/
def State.popIo (s : State) (k : Nat) : State := { s with ioIn := s.ioIn.upd k fun l => l.drop 1 }

/-- LAUNCH_TOKEN at journal endpoint `a` (R329): the token names the command's physical address. [DEDUCED: log 75] -/
def execLaunchToken (s : State) : Res :=
  let k := s.at_.a
  match s.ioIn.look k with
  | [] => .next s
  | fl :: _ =>
    if k / 256 % 8 != 2 then .next s
    else
      let t := fl.tok
      let s1 := s.popIo k
      if t.kind != 0#2 || destPort t.dest != 0 then .next (s1.raiseAway fl fkBOUNDS 3 (endpointPlace t))
      else
        match s1.accept 0xFFFF (s.bytes t.val.toNat 64) with
        | some (t, _) => .next t
        | none => .next s1

/-! ### Clusters (R335) -/

/-- Clusters that share an edge. -/
def adjacent (a b : Nat) : Bool :=
  a / 48 == b / 48 &&
  ((a % 48 / 8 == b % 48 / 8 && (a + 1 == b || b + 1 == a)) || (a % 8 == b % 8 && (a + 8 == b || b + 8 == a)))
/-- The set is connected. -/
def connected (l : List Nat) : Bool :=
  match l with
  | [] => true
  | a :: _ => (closure (fun x => l.filter (adjacent x)) (l.length + 1) [a] []).length == l.length
/-- The first connected set of `n` clusters in dictionary order, among ascending candidates. -/
def pickSet (n : Nat) (chosen : List Nat) (cands : List Nat) : Option (List Nat) :=
  match cands with
  | [] => if n = chosen.length && connected chosen then some chosen else none
  | c :: rest =>
    if n = chosen.length then (if connected chosen then some chosen else none)
    else
      match pickSet n (chosen ++ [c]) rest with
      | some l => some l
      | none => pickSet n chosen rest

/-- The clusters of one region request: `n` clusters, its die, and the clusters that are free. -/
def allocRegion (free : Nat → Bool) (n die : Nat) : Option (List Nat) :=
  let on := fun (d : Nat) => ((List.range 48).map fun c => d * 48 + c).filter free
  if n ≤ 48 then pickSet n [] (on die)
  else
    let w := n / 48
    let r := n % 48
    (List.range (4 - w)).findSome? fun d =>
      let run := (List.range w).map fun i => d + i
      if !(run.all fun x => (on x).length == 48) then none
      else
        let whole := run.flatMap on
        if r = 0 then some whole
        else
          let east := if d + w < 3 then pickSet r [] (on (d + w)) else none
          let west := if 0 < d then pickSet r [] (on (d - 1)) else none
          (east.orElse fun _ => west).map fun l => whole ++ l

/-- The clusters of a load's regions, in order, each taken from what the ones before it leave. -/
def allocRegions (free : Nat → Bool) (l : List (Nat × Nat)) : Option (List (List Nat)) :=
  match l with
  | [] => some []
  | (n, die) :: rest =>
    match allocRegion free n die with
    | none => none
    | some cs => (allocRegions (fun c => free c && !cs.contains c) rest).map fun r => cs :: r

/-- The region requests of an image: clusters and die. -/
def regionReqs (m : Img) (hdie : Nat) : List (Nat × Nat) :=
  ((imgRegions m).zip (List.range 16)).map fun p =>
    (p.1.1, ((List.range (imgNodes m)).findSome? fun i => if imgRegion m i = p.2 then imgHint m i else none).getD hdie)

/-- A cluster that is free, on a die that has finished its boot. [DEDUCED: log 48] -/
def State.clusterFree (s : State) (c : Nat) : Bool := s.clRid.look c == 0 && s.running (c / 48)

/-! ### Check and queueing (R105, R330 steps 2 and 3, R331) -/

/-- The loads whose journal entry reads started, and whose NAME has an 8-byte digest; a pre-empted one is among them (R364). -/
def State.providers (s : State) (digest : List Byte) : List Nat :=
  (s.loads.filter fun p => (s.journal.look p.1).state == 1 && p.2.phase != .ended && (sha256 (imgName p.2.image)).take 8 == digest).map (·.1)
/-- The provider of import `i` of an image: one started load, with the node that the import names. [DEDUCED: log 68] -/
def State.importFrom (s : State) (m : Img) (i : Nat) : Option Nat :=
  let o := secOff m 8 i
  match s.providers ((m.drop o).take 8) with
  | [l] => if u m (o + 8) 4 < (s.load l).places.length then some l else none
  | _ => none
/-- What import `i` resolves to. [DESIGN CHOICE: log 91] -/
def State.importDest (s : State) (m : Img) (i : Nat) : BitVec 28 :=
  match s.importFrom m i with
  | some l => mkDest (((s.load l).places[u m (secOff m 8 i + 8) 4]?).getD 0) (u m (secOff m 8 i + 12) 1)
  | none => 0
/-- The frame class of its provider. -/
def State.importFcls (s : State) (m : Img) (i : Nat) : Nat :=
  match s.importFrom m i with
  | some l => imgFcls (s.load l).image
  | none => 3

/-- Requests in the launch queues of a die at a level. -/
def Die.atLevel (d : Die) (p : Nat) : Nat := (d.launchQ.filter fun r => r.level == p).length
def Die.interval (d : Die) : Nat := fld d.ageq.toNat 0 40

/-- The request enters its home die's queues. -/
def State.enqueueLaunch (s : State) (die lid level since : Nat) : State :=
  s.modDie die fun d => { d with launchQ := d.launchQ ++ [{ lid := lid, level := level, since := since, interval := d.interval }] }

/-- LAUNCH_CHECK of load `a`: the image is copied and checked, and the request queued. [DEDUCED: log 69] -/
def execLaunchCheck (s : State) : Res :=
  let lid := s.at_.a
  let ld := s.load lid
  let hdie := cmdField ld.cmd 6 1
  let pa := cmdField ld.cmd 8 8
  if ld.phase != .accepted || !s.running hdie then .next s
  else
    let m := if isHbm pa then s.bytes pa (max 128 (s.rd (pa + 0x14) 4)) else []
    let m := if isHbm pa && s.rd (pa + 0x14) 4 < 128 then m.take 127 else m
    match imageFault m (fun i => (s.importFrom m i).isSome) (s.importFcls m) with
    | some n => .next (s.endLoad lid 3 0x0002 n)
    | none =>
      let s1 := s.modLoad lid fun l =>
        { l with image := m, prio := if cmdField l.cmd 4 1 = 0xFF then imgPrio m else cmdField l.cmd 4 1, level := 0,
                 imports := (secIxs m 8).map (s.importDest m) }
      let s2 := { s1 with journal := s1.journal.upd lid fun j => { j with aux := (imgHash m).take 8 ++ List.replicate 8 0 } }
      let big := (imgRegions m).any fun r => r.1 > 144
      if big || (allocRegions (fun _ => true) (regionReqs m hdie)).isNone then .next (s2.endLoad lid 3 0x0004 0)
      else if (s2.die hdie).launchQ.length ≥ 256 then .next (s2.endLoad lid 3 0x0003 0)
      else
        let s3 := s2.modLoad lid fun l => { l with phase := .checked }
        .next (s3.enqueueLaunch hdie lid (s3.load lid).prio (s3.tick hdie))

/-! ### Aging and dispatch (R331 to R333, R335) -/

/-- The request is due to move up. -/
def State.agingDue (s : State) (d : Nat) (r : LReq) : Bool := r.level < 7 && r.since + r.interval ≤ s.tick d

/-- LAUNCH_AGING of load `b` on die `a`: the move takes place at the tick at which it falls due. -/
def execLaunchAging (s : State) : Res :=
  let d := s.at_.a
  .next (s.modDie d fun x =>
    { x with launchQ := x.launchQ.map fun r =>
        if r.lid = s.at_.b && s.agingDue d r then
          { r with level := r.level + 1, since := r.since + r.interval, interval := x.interval }
        else r })

/-- `a` stands before `b` (R331). -/
def LReq.before (a b : LReq) : Bool :=
  a.level > b.level || (a.level == b.level && (a.since < b.since || (a.since == b.since && a.lid < b.lid)))
/-- The head of a die's launch queues (R333). -/
def Die.head (d : Die) : Option LReq := d.launchQ.find? fun r => d.launchQ.all fun x => !x.before r

/-- RIDs that no region has, 0 left out; which, is open. [DESIGN CHOICE: log 109] -/
def State.freeRids (s : State) (n : Nat) : List Nat :=
  (((List.range (s.regions.length + n)).map fun i => (Config.pick s.free + i) % 65535 + 1).filter fun r =>
    !(s.regions.any fun p => p.1 == r)).take n

/-- The clusters that a load can be given now. -/
def State.fits (s : State) (free : Nat → Bool) (lid : Nat) : Option (List (List Nat)) :=
  let ld := s.load lid
  allocRegions free (regionReqs ld.image (cmdField ld.cmd 6 1))

/-- The regions of a load take their clusters. -/
def State.bindRegions (s : State) (lid : Nat) (l : List (Nat × List Nat)) : State :=
  l.foldl (fun st p =>
    { st with regions := st.regions.put p.1 { load := lid, clusters := p.2 }
              clRid := p.2.foldl (fun (t : Tbl Nat) c => t.put c p.1) st.clRid }) s

/-- LAUNCH_DISPATCH on die `a`: the head's clusters are allocated, and it leaves the queues in the same step. -/
def execLaunchDispatch (s : State) : Res :=
  let d := s.at_.a
  let x := s.die d
  match x.head with
  | none => .next s
  | some r =>
    if !s.running d || x.launchQ.any (s.agingDue d) then .next s
    else
      match s.fits s.clusterFree r.lid with
      | none => .next s
      | some cs =>
        let rids := s.freeRids cs.length
        let s1 := s.modDie d fun y => { y with launchQ := y.launchQ.filter fun q => q.lid != r.lid }
        let s2 := s1.drawn.bindRegions r.lid (rids.zip cs)
        .next (s2.modLoad r.lid fun l =>
          { l with phase := .dispatched, regions := rids, level := r.level, dispatched := s.tick d })

end Sys2Proof.Machine
end

