-- ==== Sys2Proof/Machine/Own.lean ====
section
/-!
DEFINITION. Ownership of the package (R418 to R421): claims and the election, the lease, and castling. A time that is due
takes effect before any write of its tick.
-/
namespace Sys2Proof.Machine

def leaseTicks : Nat := 1000000000
def windowTicks : Nat := 10000000

/-- IOW's tick. -/
def State.iowTick (s : State) : Nat := s.tick 3
/-- IOW serves the ownership registers, running or in its loader (R428). -/
def State.ownServes (s : State) : Bool := s.boot.look 3 == 6 || s.boot.look 3 == 7
def State.modOwn (s : State) (f : Own → Own) : State := { s with own := f s.own }

/-- R414: vector `n` is signalled to a host, or to every host that has a HID. -/
def HostSt.signal (h : HostSt) (n : Nat) : HostSt := { h with msi := h.msi ||| BitVec.ofNat 2 (2 ^ n) }
def State.msiAll (s : State) : State := { s with hosts := mapTbl s.hosts fun _ h => if h.known then h.signal 1 else h }

/-- A change of owner is journalled (R421, R422), and every host is told. -/
def State.ownerBecomes (s : State) (new : Nat) : State :=
  ((s.journalNote 2 (s.own.owner * 2 ^ 16 + new) []).modOwn fun o => { o with owner := new, target := 0xFFFF }).msiAll

/-- A host becomes owner: EPOCH rises by 1 and the lease is full. [DEDUCED: log 45] -/
def State.install (s : State) (hid : Nat) : State :=
  (s.ownerBecomes hid).modOwn fun o =>
    { o with st := 2, epoch := (o.epoch + 1) % 2 ^ 30, lapse := s.iowTick + leaseTicks, claims := [] }

/-- The lowest nonce, then the lower HID (R419). -/
def winner (l : List (Nat × Nat)) : Option Nat :=
  (l.find? fun a => l.all fun b => a.1 < b.1 || (a.1 == b.1 && a.2 ≤ b.2)).map (·.2)

/-- The window of an election closes, and the winner's lease runs from its end (R419). -/
def State.closeElection (s : State) : State :=
  if s.own.st != 1 || s.iowTick < s.own.window then s
  else
    match winner s.own.claims with
    | some h => (s.install h).modOwn fun o => { o with lapse := s.own.window + leaseTicks }
    | none => s
/-- The lease has run out (R420). -/
def State.lapse (s : State) : State :=
  if (s.own.st != 2 && s.own.st != 3) || s.iowTick < s.own.lapse then s
  else ((s.journalNote 3 0 []).modOwn fun o => { o with st := 0, owner := 0xFFFF, target := 0xFFFF }).msiAll
/-- What is due takes effect. -/
def State.ownDue (s : State) : State := s.closeElection.lapse

/-- ELECTION_WINDOW_END. -/
def execElectionWindowEnd (s : State) : Res := .next s.closeElection
/-- LEASE_LAPSE. -/
def execLeaseLapse (s : State) : Res := .next s.lapse

/-- Ticks left of the lease, and OWNSTAT and OWNLEASE as a read finds them, what is due having taken effect (R418, R420). -/
def State.leaseLeft (s : State) : Nat :=
  let o := s.ownDue.own
  if o.st = 2 ∨ o.st = 3 then o.lapse - s.iowTick else 0
def State.ownstat (s : State) : Word :=
  let o := s.ownDue.own
  BitVec.ofNat 64 (o.st * 2 ^ 62 + o.owner * 2 ^ 46 + o.target * 2 ^ 30 + o.epoch)
def State.ownlease (s : State) : Word := BitVec.ofNat 64 (s.leaseLeft % 2 ^ 40)

/-- A HID that an I/O die has given (R415). -/
def hidOk (hid : Nat) : Bool := hid < 16
/-- The host owns the package. -/
def State.isOwner (s : State) (hid : Nat) : Bool :=
  let o := s.ownDue.own
  (o.st == 2 || o.st == 3) && o.owner == hid

/-- IOE runs or is in its loader: it forwards accesses to the ownership registers (R418, R428). -/
def State.ioeForwards (s : State) : Bool := s.boot.look 4 == 6 || s.boot.look 4 == 7
/-- A write to the ownership registers: from a host of IOW at once; from a host of IOE it is forwarded as MGMT, `arg` saying what
is written and `op` which instruction writes it, and with place `b` = k + 1 the forwarded write `k` has reached IOW (R418). [DEDUCED: log 45] -/
def State.atIow (s : State) (hid op : Nat) (arg : List Byte) (f : State → State) : State :=
  match s.at_.b with
  | 0 =>
    if !hidOk hid then s
    else if hid < 8 then (if s.ownServes then f s else s)
    else if !s.ioeForwards then s
    else
      let (s1, n) := s.postMgmt 4 3 op
      { s1 with mgmt := s1.mgmt ++ [{ hid := hid, die := 3, ep := 256, op := op, arg := arg, via := n }] }
  | k + 1 =>
    match s.mgmt[k]? with
    | none => s
    | some r =>
      if r.ep != 256 || r.hid != hid || r.op != op || r.arg != arg || s.crossing r.via ||
          (s.mgmt.take k).any fun x => x.ep == 256 then s
      else
        let s1 := { s with mgmt := s.mgmt.eraseIdx k }
        if s1.ownServes then f s1 else s1

/-- OWN_CLAIM: a write to OWNCLAIM. -/
def execOwnClaim (hid : Nat) (nonce : Word) (s : State) : Res :=
  .next (s.atIow hid 0 (toBytes 8 nonce.toNat) fun t =>
    let s1 := t.ownDue
    if s1.own.st = 0 then
      s1.modOwn fun o => { o with st := 1, claims := [(nonce.toNat, hid)], window := t.iowTick + windowTicks }
    else if s1.own.st = 1 then s1.modOwn fun o => { o with claims := o.claims ++ [(nonce.toNat, hid)] }
    else s1)

/-- A write to OWNCTL by the owner, with the epoch it must name (R420). -/
def State.ownOp (s : State) (hid epoch : Nat) (f : State → State) : State :=
  let s1 := s.ownDue
  if s.isOwner hid && epoch == s1.own.epoch then f s1 else s1

/-- OWN_RENEW. -/
def execOwnRenew (hid : Nat) (epoch : BitVec 32) (s : State) : Res :=
  .next (s.atIow hid 1 (toBytes 4 epoch.toNat) fun t =>
    t.ownOp hid epoch.toNat fun u => u.modOwn fun o => { o with lapse := u.iowTick + leaseTicks })
/-- OWN_OFFER. -/
def execOwnOffer (hid : Nat) (tgt : BitVec 16) (epoch : BitVec 32) (s : State) : Res :=
  .next (s.atIow hid 2 (toBytes 4 epoch.toNat ++ toBytes 2 tgt.toNat) fun t =>
    t.ownOp hid epoch.toNat fun u => u.modOwn fun o => { o with st := 3, target := tgt.toNat })
/-- OWN_ACCEPT: only from the target. -/
def execOwnAccept (hid : Nat) (epoch : BitVec 32) (s : State) : Res :=
  .next (s.atIow hid 3 (toBytes 4 epoch.toNat) fun t =>
    let s1 := t.ownDue
    if s1.own.st = 3 && s1.own.target = hid && epoch.toNat = s1.own.epoch then s1.install hid else s1)
/-- OWN_RELEASE. [DEDUCED: log 45] -/
def execOwnRelease (hid : Nat) (epoch : BitVec 32) (s : State) : Res :=
  .next (s.atIow hid 4 (toBytes 4 epoch.toNat) fun t =>
    t.ownOp hid epoch.toNat fun u => (u.ownerBecomes 0xFFFF).modOwn fun o => { o with st := 0 })

end Sys2Proof.Machine
end

