-- ==== Sys2Proof/Machine/Boot.lean ====
section
/-!
DEFINITION. Power and bring-up: the firmware image (R429), the boot steps (R426 to R428), a die or the package that powers off
(R305, R424, R427), power modes and PWRSTAT (R433, R434), and temperatures (R435).
-/
namespace Sys2Proof.Machine

/-! ### The firmware image (R428, R429) -/

def flashBytes : Nat := 16777216 + 7856
/-- [DESIGN CHOICE: log 9] -/
def State.flashRead (s : State) (off n : Nat) : List Byte := (List.range n).map fun i => Tbl.look s.flash (off + i)
def State.flashField (s : State) (off n : Nat) : Nat := leBytes (s.flashRead off n)
/-- LEN of the slot. -/
def State.fwLen (s : State) : Nat := s.flashField 4 4
/-- The slot holds a LEN that R429 allows, and so an image that can be read. -/
def State.fwReadable (s : State) : Bool := 64 ≤ s.fwLen && s.fwLen % 64 == 0 && s.fwLen ≤ 16777216
/-- The slot holds a header: MAGIC and such a LEN. -/
def State.fwHeader (s : State) : Bool := s.flashField 0 4 == 0x4657334E && s.fwReadable
/-- What a die learns of the image in the slot. [DEDUCED: log 43] -/
def State.fwOf (s : State) : Fw :=
  { ver := BitVec.ofNat 64 (s.flashField 8 8), svn := s.flashField 0x10 4, digest := sha256 (s.flashRead 0 s.fwLen) }
/-- R429: the checks by which die `d` accepts the image. -/
def State.fwAccepted (s : State) (d : Nat) : Bool :=
  s.fwHeader && (s.flashRead 0x14 44).all (· == 0) && Config.verifies (s.flashRead 0 s.fwLen) (s.flashRead s.fwLen 7856) &&
  Config.minSvn d ≤ s.flashField 0x10 4

/-! ### Powering off (R305, R427) -/

/-- The package without power: the flash, the fused squares, what stands outside the package and the sensors stay. -/
def State.packageOff (s : State) : State :=
  { State.reset with flash := s.flash, fused := s.fused, hostMem := s.hostMem, ethOut := s.ethOut, portOut := s.portOut, free := s.free
                     power := { temp := s.power.temp, hotOff := s.power.hotOff } }

def onDie (d : Nat) (q : Nat) : Bool := sqDie q == d
/-- The tables of die `d` by square, and by key. -/
def dropDie {α : Type} (d w : Nat) (t : Tbl α) : Tbl α := t.filter fun p => p.1 / w / 4096 != d

/-- Regions lose the clusters of a die; one whose allocator or last cluster stood there is gone. [DEDUCED: log 48] -/
def State.dropRegions (s : State) (d : Nat) : State :=
  let gone := fun (p : Nat × Region) => p.2.famt / 4096 == d && p.2.load != 0 || p.2.clusters.all fun c => c / 48 == d
  let dead := (s.regions.filter gone).map (·.1)
  { s with
    regions := mapTbl (s.regions.filter fun p => !gone p) fun _ g => { g with clusters := g.clusters.filter fun c => c / 48 != d }
    clRid := s.clRid.filter fun p => p.1 / 48 != d && !dead.contains p.2
    loads := mapTbl s.loads fun _ l => { l with regions := l.regions.filter fun r => !dead.contains r }
    wctx := s.wctx.filter fun p => p.2.cluster / 48 != d && !dead.contains (p.1 / 4096) }

/-- Links of the die go down, and the messages in them are lost. -/
def State.dropLinks (s : State) (d : Nat) : State :=
  let at_ := fun l => (linkDies l).1 == d || (linkDies l).2 == d
  let of := fun (p : Nat × Chan) => at_ (p.1 / 64)
  { s with
    links := mapTbl s.links fun l k => if at_ l then { k with active := [], rate := 0 } else k
    lostMsgs := s.lostMsgs ++ msgIds (s.chans.filter of)
    chans := s.chans.filter fun p => !of p }

/-- A request of die `d` at the frame allocator of another die. -/
def AReq.abroad (q : AReq) (d : Nat) (r : Region) : Bool := sqDie q.f.sq == d && sqDie r.famt != d
/-- The requests that a die has outstanding, page walks and those at allocators of other dies among them (R305, R404). -/
def State.outstanding (s : State) (d : Nat) : List Nat :=
  ((s.reqs.filter fun p => p.2.die == d && !p.2.orphan &&
      (p.2.stage == .sent || p.2.stage == .posted || p.2.stage == .reply)).map (·.1)) ++
  (s.walks.filter fun p => p.2.cluster / 48 == d && !p.2.orphan).map (·.1) ++
  s.regions.flatMap fun p => ((p.2.allocIn ++ p.2.allocQ).filter fun q => q.abroad d p.2).map fun q => rqidOf q.f
/-- The requests at allocators that a die has made go with it. -/
def State.dropAsked (s : State) (d : Nat) : State :=
  { s with regions := mapTbl s.regions fun _ g =>
      { g with allocIn := g.allocIn.filter fun q => sqDie q.f.sq != d, allocQ := g.allocQ.filter fun q => sqDie q.f.sq != d } }
/-- A request that has come to a die, and has not been performed there, is lost with the die; it runs to its time-out. -/
def State.loseAt (s : State) (d : Nat) : State :=
  let n := s.serial + 1
  { s with
    serial := n, lostMsgs := s.lostMsgs ++ [n]
    reqs := mapTbl s.reqs fun _ r =>
      if r.die != d && r.home == d && (r.stage == .sent || r.stage == .posted && !r.performed) && !s.crossing r.via
      then { r with via := n } else r
    walks := mapTbl s.walks fun _ w =>
      if w.cluster / 48 != d && homeDie w.table == d && w.got.isNone && !s.crossing w.via then { w with via := n } else w }

/-- A compute die or IOE without power: its state is that of reset, and its requests are abandoned. [DEDUCED: log 48] -/
def State.dieOff (s : State) (d : Nat) : State :=
  let mine := s.outstanding d
  let s1 := (((s.dropRegions d).dropAsked d).loseAt d).dropLinks d
  let s2 := { s1 with
    lost := s1.lost.put d (some ((s1.lost.look d).getD [] ++ mine))
    reqs := s1.reqs.filter fun p => p.2.die != d
    elems := dropDie d 4 s1.elems
    cts := dropDie d 1 s1.cts
    mts := dropDie d 1 s1.mts
    high := s1.high.filter fun q => sqDie q != d
    rin := dropDie d 32 s1.rin
    srcQ := dropDie d 1 s1.srcQ
    routerErr := dropDie d 1 s1.routerErr
    rtNext := dropDie d 16 s1.rtNext
    eseq := s1.eseq.filter fun p => p.1 / 8 != d
    tlb := s1.tlb.filter fun p => p.1 / 48 != d
    walks := s1.walks.filter fun p => p.2.cluster / 48 != d
    notices := s1.notices.filter fun n => n.die != d
    egress := s1.egress.del d
    syncIn := s1.syncIn.filter fun c => homeDie c.pa != d
    armed := s1.armed.filter fun p => homeDie p.1 != d
    probes := s1.probes.filter fun p => sqDie (p.2.goal / 4) != d && sqDie (p.2.origin / 4) != d
    saves := s1.saves.filter fun p => homeDie p.1 != d
    spores := s1.spores.filter fun p => p.1 % 4 != d
    mcg := s1.mcg.filter fun p => p.1 / 64 / 256 != d
    mcgLoad := s1.mcgLoad.filter fun p => p.1 / 256 != d
    dies := s1.dies.del d
    boot := s1.boot.del d
    fw := s1.fw.del d
    mgmt := s1.mgmt.filter fun r => r.die != d && !(d == 4 && r.ep == 256)
    power := { s1.power with throttled := s1.power.throttled.filter (· != d) } }
  if d != 4 then s2
  else
    { s2 with
      ioIn := s2.ioIn.filter fun p => p.1 / 2048 != 1
      ioOut := s2.ioOut.del 1
      dq := s2.dq.filter fun p => p.1 / 256 != 1
      eth := s2.eth.filter fun p => p.1 / 4 != 1
      ports := s2.ports.filter fun p => p.1 < 72
      hosts := s2.hosts.filter fun p => p.1 < 8
      requesters := s2.requesters.del 1 }

/-- Die `d` loses power; IOW takes the package with it. -/
def State.powerOff (s : State) (d : Nat) : State :=
  if d = 3 then s.packageOff else if d < 5 then s.dieOff d else s

/-- DIE_POWER_OFF of die `d`. -/
def execDiePowerOff (d : Nat) (s : State) : Res := .next (s.powerOff d)

/-! ### Coming up (R426, R427) -/

/-- A die that has been too hot stays off until its sensors are below 70 °C. [DEDUCED: log 49] -/
def State.hot (s : State) (d : Nat) : Bool := s.power.hotOff.contains d
/-- Every sensor of every die is below 70 °C. [DEDUCED: log 49] -/
def State.allCool (s : State) : Bool := (List.range 5).all fun i => s.power.temp.look i < 70

/-- Step 1 of every die: the timebase starts at tick 0. -/
def State.powerUp (s : State) : State :=
  if s.boot.look 3 = 0 then { s with units := 0, cycles := 0, boot := [(0, 2), (1, 2), (2, 2), (3, 2), (4, 2)] } else s
/-- POWER_ON: after a die has powered off for heat, once every sensor of every die is below 70 °C (R435). -/
def execPowerOn (s : State) : Res :=
  .next (if (List.range 5).any s.hot && !s.allCool then s
         else ({ s with power := { s.power with hotOff := [] } } : State).powerUp)

/-- A compute die or IOE comes out of reset again, while IOW has power. -/
def State.restart (s : State) (d : Nat) : State :=
  if d = 3 || d ≥ 5 || s.boot.look 3 = 0 then s
  else
    let s1 := if s.boot.look d = 0 then s else s.dieOff d
    { s1 with boot := s1.boot.put d 2 }
/-- DIE_RESTART of die `d`. [DEDUCED: log 48] -/
def execDieRestart (d : Nat) (s : State) : Res := .next (if s.hot d then s else s.restart d)

/-- The CMD 4 entry of a die that starts again while IOW keeps power (R424). -/
def State.listLost (s : State) (d : Nat) : State :=
  match s.lost.look d with
  | none => s
  | some l => { s.journalNote 4 l.length ((l.take 8).flatMap fun n => toBytes 2 n) with lost := s.lost.del d }

/-- Die `d` reaches the boot flash on IOW: an I/O die by itself, a compute die by MGMT messages (R426). -/
def State.readsFlash (s : State) (d : Nat) : Bool := d ≥ 3 || (pathLinks 3 d).all s.linkUp
/-- BOOT_VERIFY of die `a`: the image is read and verified, or the die waits in its loader, with FWVER and the measurement of an
image that it has read and rejected (R428). -/
def execBootVerify (s : State) : Res :=
  let d := s.at_.a
  if s.boot.look d != 2 || s.boot.look 3 = 0 then .next s
  else
    let s1 := s.drawn
    let unread := Config.chance s.free || !s.readsFlash d || !s.fwReadable
    let fw := if unread then {} else s.fwOf
    let up := !unread && s.fwAccepted d
    let s2 := { s1 with fw := s1.fw.put d fw, boot := s1.boot.put d (if up then 5 else 7) }
    .next (if up then s2.listLost d else s2)

/-- The die of a word that fails its check; node records stand from 2 ^ 60 on, frame slots from 2 ^ 61 on (16,384 to a
CT), and accumulators from 2 ^ 62 on (8,192 words to an element). [DESIGN CHOICE: log 13] -/
def eccDie (k : Nat) : Nat :=
  if 2 ^ 62 ≤ k then (k - 2 ^ 62) / 2 ^ 27
  else if 2 ^ 61 ≤ k then (k - 2 ^ 61) / 2 ^ 26
  else if 2 ^ 60 ≤ k then (k - 2 ^ 60) / 2 ^ 24
  else homeDie k
/-- BOOT_SCRUB of die `a`: every word becomes 0 with a valid check code; a failed stack is marked. [DESIGN CHOICE: log 8] -/
def execBootScrub (s : State) : Res :=
  let d := s.at_.a
  if s.boot.look d != 5 then .next s
  else
    let bad := (List.range 4).filter fun i => d < 3 && Config.chance (s.free + i)
    .next { s with
      free := s.free + 4
      mem := s.mem.filter fun p => homeDie p.1 != d
      ecc := s.ecc.filter fun p => eccDie p.1 != d
      high := s.high.filter fun q => sqDie q != d
      badStacks := (s.badStacks.filter fun b => b / 4 != d) ++ bad.map (d * 4 + ·)
      boot := s.boot.put d 6 }

/-! ### Power modes and temperatures (R433 to R435) -/

/-- PWRSTAT (R434). -/
def State.pwrstat (s : State) : Word :=
  let p := s.power
  let thr := (List.range 5).foldl (fun n d => n + if p.throttled.contains d then 2 ^ d else 0) 0
  let tmax := p.temp.foldl (fun n x => max n x.2) 0
  BitVec.ofNat 64 (p.mode % 4 * 2 ^ 62 + p.next.isSome.toNat * 2 ^ 61 + thr * 2 ^ 56 + tmax % 256 * 2 ^ 48 + p.watts % 2 ^ 32)

/-- MODE_CHANGE_EFFECT: at a tick boundary (R433). -/
def execModeChangeEffect (s : State) : Res :=
  match s.power.next with
  | none => .next s
  | some (m, _) =>
    if s.units % 18 != 0 then .next s
    else .next { s with power := { s.power with mode := m, next := none, skip := s.power.skip && m == 1 } }

/-- A window of 1,000 ticks of IOW's timebase has ended. -/
def State.windowOver (s : State) : Bool := s.power.windowEnd + 1000 ≤ s.units / 18
/-- It ends, with this power. -/
def State.endWindow (s : State) (watts : Nat) : State :=
  let p := s.power
  { s with power := { p with watts := watts, windowEnd := p.windowEnd + 1000, skip := p.mode == 1 && decide (2000 < watts) } }
/-- BALANCED_WINDOW_END: a window has ended with this power; one that has not been measured by then ends with a power that
is open. -/
def execBalancedWindowEnd (watts : BitVec 32) (s : State) : Res :=
  .next (if s.windowOver then s.endWindow watts.toNat else s)

/-- The highest sensor of die `d` reads `t`. -/
def State.setTemp (s : State) (d t : Nat) : State := { s with power := { s.power with temp := s.power.temp.put d t } }

/-- Die `d` powers off for heat. -/
def State.heatOff (s : State) (d : Nat) : State :=
  ({ s with power := { s.power with hotOff := s.power.hotOff.filter (· != d) ++ [d] } } : State).powerOff d
/-- What a reading does on a die that runs (R434, R435): it is the die's temperature; at 110 °C the die powers off, from 100 °C on
it is throttled, and below 95 °C no more. -/
def State.thermal (s : State) (d t : Nat) : State :=
  let s1 := s.setTemp d t
  let set := fun (l : List Nat) => ({ s1 with power := { s1.power with throttled := l } } : State)
  if 110 ≤ t then s1.heatOff d
  else if 100 ≤ t then (if s.power.throttled.contains d then s1 else set (s.power.throttled ++ [d]))
  else if t < 95 then set (s.power.throttled.filter (· != d))
  else s1
/-- THERMAL_THROTTLE: a reading of die `d`. -/
def execThermalThrottle (d : Nat) (temp : BitVec 8) (s : State) : Res :=
  .next (if s.boot.look d = 0 then s else s.thermal d temp.toNat)
/-- THERMAL_UNTHROTTLE: a reading of die `d`. -/
def execThermalUnthrottle (d : Nat) (temp : BitVec 8) (s : State) : Res :=
  .next (if s.boot.look d = 0 then s else s.thermal d temp.toNat)
/-- THERMAL_SHUTDOWN of die `d`. [DEDUCED: log 49] -/
def execThermalShutdown (d : Nat) (temp : BitVec 8) (s : State) : Res :=
  .next (if temp.toNat < 110 || s.boot.look d = 0 then s else s.thermal d temp.toNat)
/-- THERMAL_RESTART: the sensors of die `d` are below 70 °C. The package waits for every die. [DEDUCED: log 49] -/
def execThermalRestart (d : Nat) (temp : BitVec 8) (s : State) : Res :=
  let s1 := s.setTemp d temp.toNat
  .next (if temp.toNat ≥ 70 || s.boot.look d != 0 then s
         else if s.boot.look 3 = 0 then
           (if !s1.allCool then s1 else ({ s1 with power := { s1.power with hotOff := [] } } : State).powerUp)
         else ({ s1 with power := { s1.power with hotOff := s1.power.hotOff.filter (· != d) } } : State).restart d)

end Sys2Proof.Machine
end

