-- ==== Sys2Proof/Machine/Deadlock.lean ====
section
/-!
DEFINITION. Deadlock probes (R358 to R360) and the detection of FRAMEDRY and STARVED (R361, R362).
-/
namespace Sys2Proof.Machine

/-! ### Wait-for edges (R359) -/

/-- The head of element `e`'s ready queue, when it is held (R358). -/
def State.heldHead (s : State) (e : Nat) : Option Firing :=
  match (s.elem e).readyQ with
  | [] => none
  | f :: _ => if s.noRoom e f (s.view f.key) || s.headBlocked e f (s.view f.key) then some f else none

/-- The element whose input a stuck token waits on, with the input and route tag: the token at the head of a router
input (`at_` is its square and input), or the first of its route tag in the receiver of a channel (R400). None where the
way ends at an MT or an endpoint. -/
def State.stuckAt (s : State) (fuel : Nat) (at_ : Nat × Nat ⊕ Nat) (rt : Nat) : Option (Nat × Nat × Nat) :=
  match fuel with
  | 0 => none
  | n + 1 =>
    match at_ with
    | .inl (q, inp) =>
      match s.linkHeld q inp rt, s.rin.look (rinKey q inp rt) with
      | some e, _ => some (e, inp, rt)
      | none, [] => none
      | none, fl :: _ =>
        let d := s.headDest q fl
        match nextHop q d with
        | .link l dir => s.stuckAt n (.inr (chanKey l dir ((s.links.look l).channel { fl := fl }))) rt
        | .hop q2 i2 => s.stuckAt n (.inl (q2, i2)) rt
        | .deliver => if destIsCt d then some (destElem d, inp, rt) else none
    | .inr k =>
      match takeCode (s.chans.look k).rx rt with
      | none => none
      | some (m, _) =>
        let d := dirTo (k / 64) (k / 32 % 2)
        if m.dst = d then
          if d < 3 then s.stuckAt n (.inl (entryFor (k / 64) (k / 32 % 2) m.fl (s.headDest (mkSq d 0 0) m.fl))) rt else none
        else
          match pathLinks d m.dst with
          | [] => none
          | l2 :: _ => s.stuckAt n (.inr (chanKey l2 (dirOf l2 d) ((s.links.look l2).channel m))) rt

/-- What the head of an element waits on: the link that it would send into, or where the first token of its output stage is
stuck. -/
def State.waitsOn (s : State) (e : Nat) : Option (Nat × Nat × Nat) :=
  match (s.elem e).readyQ.head?.filter fun f => s.headBlocked e f (s.view f.key), (s.elem e).outStage with
  | some f, _ => s.stuckAt 512 (.inl (e / 4, 0)) (sendRt f (s.view f.key))
  | none, [] => none
  | none, fl :: _ => s.stuckAt 512 (.inl (e / 4, 0)) fl.tok.rt.toNat

/-- The element that owns the slot with B = 1 that a token waits for (R34). -/
def State.slotOwner (s : State) (e : Nat) (v : RecView) (t : Token) : Option Nat :=
  let q := e / 4
  let fx := t.fx.toNat
  let n := match opInfo v.op.toNat with | some i => max 1 (slotSpan i v) | none => 0
  let first := if v.op == 0x16 || v.op == 0x17 then v.lit else v.slot
  (List.range n).findSome? fun i =>
    let x := (s.ct q).slot fx (first + i)
    if !x.b then none
    else
      match s.reqs.find? fun p => p.2.op == 0x97 && p.2.f.sq == q && p.2.f.t0.fx.toNat == fx &&
          (s.view p.2.f.key).slot ≤ first + i && first + i < (s.view p.2.f.key).slot + 8 with
      | some p => some p.2.f.elem
      | none => if x.tok == {} then none else some (destElem x.tok.dest)

/-- The edge that a probe follows at element `e`, over the token its last hop waits on: the node that it is passed on
for, and where it goes. An element whose head is not held, though its ready queue is full, passes no probe on (R360). -/
def State.probeEdge (s : State) (e link rt : Nat) : Option (Nat × Nat × Nat × Nat) :=
  let x := s.elem e
  let on := fun (n : Nat) => (s.waitsOn e).map fun w => (n, w)
  match s.heldHead e with
  | some f => on f.key
  | none =>
    match x.stage.find? fun fl => fl.link == link && fl.tok.rt.toNat == rt with
    | none => none
    | some fl =>
      let k := destKey fl.tok.dest
      let v := s.view k
      if x.readyQ.length ≥ 64 then none
      else if v.op == 0x06 then
        match x.ctxs.find? fun c => c.node == k % 1024 && c.fx == fl.tok.fx.toNat with
        | none => none
        | some c => (if destPort fl.tok.dest = 0 then c.last1 else c.last0).map fun n => (k, n, 8, 0)
      else (s.slotOwner e v fl.tok).map fun n => (k, n, 8, 0)

/-- The message of a probe: a control token of sub-kind 0 (R15, R359, R398). -/
def probeMsg : Msg := { cls := .probe, fl := { tok := { kind := 3#2 } } }

/-- A probe sets out for, or goes on to, an element, on the probe lane of the links between their dies. -/
def State.sendProbe (s : State) (p : Probe) (from_ goal link rt : Nat) : State :=
  let (s1, via) := s.post (sqDie (from_ / 4)) (sqDie (goal / 4))
    { probeMsg with leg := msgLeg (sqDie (from_ / 4)) (sqDie (goal / 4)) (some (from_ / 4)) (some (goal / 4)) }
  { s1 with
    probes := s1.probes.put s1.serial { p with goal := goal, link := link, rt := rt, via := via }
    serial := s1.serial + 1 }

/-- DLKT of the element's die. -/
def State.dlktOf (s : State) (e : Nat) : Nat := (s.die (sqDie (e / 4))).dlkt.toNat % 2 ^ 32

/-- The held head of element `e` is due to send a probe (R358, R359). -/
def State.probeDue (s : State) (e : Nat) : Bool :=
  let h := (s.elem e).held
  s.heldHead e == some h.f && (h.probes + 1) * s.dlktOf e ≤ h.cycles

/-- HOLD_COUNT_EXPIRY at element `a`. -/
def execHoldCountExpiry (s : State) : Res :=
  let e := s.at_.a
  if !s.probeDue e then .next s
  else
    let f := (s.elem e).held.f
    let s1 := s.modElem e fun x => { x with held := { x.held with probes := x.held.probes + 1 } }
    match s.waitsOn e with
    | none => .next s1
    | some (n, link, rt) => .next (s1.sendProbe { origin := e, f := f } e n link rt)

/-- R360: the held head goes into the record, with the cycle as its trail, and its frame is parked. -/
def State.deadlock (s : State) (p : Probe) : State :=
  let e := p.origin
  let f := p.f
  let v := s.view f.key
  let s1 := s.modElem e fun x => { x with readyQ := x.readyQ.drop 1, held := {} }
  s1.raiseArgs (s.lidOf f.sq) (s.ridOf f.sq)
    { kind := fkDEADLOCK, detail := p.trail.length, w1 := f.t0.val, w2 := portB v f, comp := if v.hdr.arity3 then f.t2.val else 0,
      place := f.key, fx := f.t0.fx.toNat, path := f.t0.path.toNat, rt := f.t0.rt.toNat, firing := some f,
      trail := p.trail.map fun k => k % 2 ^ 26 * 2 ^ 6 }

/-- PROBE_HOP of probe `a`. -/
def execProbeHop (s : State) : Res :=
  let p := s.probes.look s.at_.a
  let e := p.goal
  let s1 := { s with probes := s.probes.del s.at_.a }
  if !(s.probes.any fun x => x.1 == s.at_.a) || s.crossing p.via then .next s
  else if e = p.origin then
    if s.heldHead e == some p.f then .next (s1.deadlock p) else .next s1
  else if e < p.origin || p.trail.length ≥ 16 then .next s1
  else
    match s.probeEdge e p.link p.rt with
    | none => .next s1
    | some (k, n, link, rt) => .next (s1.sendProbe { p with trail := p.trail ++ [k] } e n link rt)

/-! ### FRAMEDRY and STARVED -/

/-- A pre-emption of the load is under way. -/
def State.preempting (s : State) (lid : Nat) : Bool := s.dies.any fun d => d.2.pm.any fun p => p.lid == lid

/-- A trail of frame entries (R351). -/
def frameTrail (l : List Nat) : List Nat := (l.take 16).map fun fx => 3 * 2 ^ 30 + fx % 4096

/-- The request that FRAMEDRY is due for (R361): one that can be granted is granted (R147, R443). -/
def State.framedry (s : State) (rid : Nat) : Option AReq :=
  let r := s.region rid
  let d := sqDie r.famt
  let late := fun (t : Nat) => t + (s.die d).dlkt.toNat % 2 ^ 32 ≤ s.cyc d
  match r.allocQ with
  | [] => none
  | q :: _ =>
    if late q.since && late r.lastGrant && !(r.fx.any fun p => p.2.releasing) && s.loadQuiet r.load && !s.preempting r.load &&
      r.allocQ.all fun x => (s.tryGrant rid x).isNone
    then some q else none

/-- FRAMEDRY_DETECT at region `a`. -/
def execFramedryDetect (s : State) : Res :=
  let rid := s.at_.a
  match s.framedry rid with
  | none => .next s
  | some q =>
    let r := s.region rid
    let trail := frameTrail ((r.fx.filter fun p => p.2.alloc).map (·.1))
    let f := q.f
    let v := s.view f.key
    let s1 := s.modRegion rid fun r => { r with allocQ := r.allocQ.drop 1 }
    .next (s1.raiseArgs r.load (s.ridOf f.sq)
      { kind := fkFRAMEDRY, detail := trail.length, w1 := f.t0.val, w2 := portB v f, comp := if v.hdr.arity3 then f.t2.val else 0,
        place := f.key, fx := f.t0.fx.toNat, path := f.t0.path.toNat, rt := f.t0.rt.toNat, firing := some f, trail := trail })

/-- The frames of a region that hold a parked operand, a wave request that was never admitted, or a token of a
`mergeo` context (R362). [DEDUCED: log 73] -/
def State.starving (s : State) (rid : Nat) : List Nat :=
  let cts := s.cts.filter fun p => s.ridOf p.1 == rid
  let operand := fun (x : Slot) => x.p
  let parts := cts.flatMap fun p =>
    ((p.2.ftab.filter fun e => e.2.v && (List.range (clsSlots e.2.cls)).any fun i =>
        operand (p.2.slots.look (e.2.base.toNat + i))).map fun e => e.2.fx.toNat) ++
    (p.2.spilled.filter fun x => x.2.slots.any operand).map (·.1)
  let reqs := (s.reqs.filter fun p => p.2.rid == rid && p.2.wave && p.2.stage == .held).map fun p => p.2.f.t0.fx.toNat
  let held := (s.elems.filter fun p => s.ridOf (p.1 / 4) == rid).flatMap fun p =>
    (p.2.ctxs.filter fun c => !c.held.isEmpty).map (·.fx)
  (List.range 4096).filter fun fx => parts.contains fx || reqs.contains fx || held.contains fx

/-- STARVED is due: the conditions of R362. [DEDUCED: log 73] -/
def State.starved (s : State) (lid : Nat) : Bool :=
  let ld := s.load lid
  ld.phase == .running && !ld.wasQuiet && s.loadQuiet lid && ld.returned < ld.issued && !s.preempting lid &&
  (ld.regions.all fun r => (s.region r).allocIn.isEmpty && (s.region r).allocQ.isEmpty) &&
  !(ld.faults.any fun p => p.2.used)

/-- The frames of several regions, lowest first. -/
def mergeRising (l : List (List Nat)) : List Nat :=
  (List.range 4096).flatMap fun fx => (l.filter fun m => m.contains fx).map fun _ => fx

/-- STARVED_DETECT of load `a`. -/
def execStarvedDetect (s : State) : Res :=
  let lid := s.at_.a
  if !s.starved lid then .next s
  else
    let ld := s.load lid
    let trail := frameTrail (mergeRising (ld.regions.map s.starving))
    .next ((s.modLoad lid fun l => { l with wasQuiet := true }).raiseArgs lid ((ld.regions[0]?).getD 0)
      { kind := fkSTARVED, detail := trail.length, nofx := true, trail := trail })

end Sys2Proof.Machine
end

