-- ==== Sys2Proof/Machine/Cycle.lean ====
section
/-!
DEFINITION. A cycle of the arithmetic clock: the timebase (R4, R433, R435), the stall counters (R38), the hold counts (R358),
table loads (R201), the times of ownership (R419, R420), and memory words that come to fail their check (R326).
-/
namespace Sys2Proof.Machine

/-- Units of 1/18 ns in a cycle: 1.2 GHz, or 0.9 GHz in efficiency mode (R433). [DESIGN CHOICE: log 4] -/
def Power.cycleUnits (p : Power) : Nat := if p.mode = 2 then 20 else 15
/-- The die skips this cycle: 1 in 2 while throttled (R435), otherwise 1 in 8 in a gated window (R433). -/
def State.skips (s : State) (d : Nat) : Bool :=
  if s.power.throttled.contains d then s.cycles % 2 == 1 else s.power.mode == 1 && s.power.skip && s.cycles % 8 == 7
/-- The element's die has a cycle and its region is not stopped. [DESIGN CHOICE: log 117] -/
def State.clocks (s : State) (e : Nat) : Bool :=
  s.running (sqDie (e / 4)) && !s.skips (sqDie (e / 4)) && !s.stoppedAt (e / 4)

/-- One more, up to 0xFFFF. -/
def sat16 (x : BitVec 16) : BitVec 16 := if x = 0xFFFF#16 then x else x + 1

/-- The nodes of element `e` with a parked operand in a frame slot. -/
def State.parkedNodes (s : State) (e : Nat) : List Nat :=
  ((((s.ct (e / 4)).slots.filter fun p => p.2.p && destElem p.2.tok.dest == e).map fun p =>
    destKey p.2.tok.dest % 1024)).eraseDups

/-- The hold count of an element's head (R358). -/
def Held.count (h : Held) (head : Option Firing) : Held :=
  match head with
  | none => {}
  | some f => if h.f == f then { h with cycles := h.cycles + 1 } else { f := f, cycles := 1 }

/-- One cycle of an element; a stall counter that it has cleared in this cycle stays 0 (R38). -/
def State.elemCycle (s : State) (e : Nat) : State :=
  let head := s.heldHead e
  let parked := s.parkedNodes e
  let s1 := s.modElem e fun x =>
    { x with held := x.held.count head, cleared := []
             stallOp := (parked.filter fun n => !x.cleared.contains (n * 2)).foldl (fun (t : Tbl (BitVec 16)) n => t.upd n sat16) x.stallOp
             stallOut := match head with
               | some f => if x.cleared.contains (f.node * 2 + 1) then x.stallOut else x.stallOut.upd f.node sat16
               | none => x.stallOut }
  (s1.elem e).lutLoads.foldl (fun st l => st.lutStep e l) s1

/-- A request for a power mode takes effect at the last tick boundary before its time is up: such a boundary comes at least
once in 10 ticks (R433). -/
def State.modeDue (s : State) : State :=
  match s.power.next with
  | some (m, t) =>
    if s.units % 18 = 0 ∧ t ≤ s.tick 3 + 10 then
      { s with power := { s.power with mode := m, next := none, skip := s.power.skip && m == 1 } }
    else s
  | none => s
/-- A window over which power is measured ends in time (R433), with a power that is open. [DESIGN CHOICE: log 6] -/
def State.windowDue (s : State) : State := if s.windowOver then (s.endWindow (Config.pick s.free)).drawn else s

/-- A word of memory or a record may come to fail its check; which, is open. [DESIGN CHOICE: log 13] [DEDUCED: log 14] -/
def State.softError (s : State) : State :=
  if Config.chance s.free then
    { s with free := s.free + 3, ecc := s.ecc.put (Config.pick (s.free + 1)) (1 + Config.pick (s.free + 2) % 2) }
  else s.drawn

/-- STALL_COUNTER_CYCLE: the whole package advances by one cycle. [DESIGN CHOICE: log 4] -/
def execStallCounterCycle (s : State) : Res :=
  let s0 := s.modeDue.windowDue
  let s1 := ((s0.elems.map (·.1)).eraseDups.filter s0.clocks).foldl (fun st e => st.elemCycle e) s0
  let s2 := [0, 1, 2].foldl (fun st d => if s0.running d && !s0.skips d then st.modDie d fun x => { x with cyc := x.cyc + 1 } else st) s1
  .next ({ s2.softError with units := s2.units + s2.power.cycleUnits, cycles := s2.cycles + 1 } : State).ownDue

end Sys2Proof.Machine
end

