-- ==== Sys2Proof/Machine/Topo.lean ====
section
/-!
DEFINITION. The topology tables of the dies (R425, R428).
-/
namespace Sys2Proof.Machine

/-- The die has finished its boot (R426 step 6). -/
def State.booted (s : State) (d : Nat) : Bool := s.boot.look d == 6

/-- The fused-off CTs of a die. -/
def State.fusedCts (s : State) (d : Nat) : List Nat := s.fused.filter fun q => sqDie q == d && isCt q

/-- Igtex has built the die's table (R426 step 4). -/
def State.tableBuilt (s : State) (d : Nat) : Bool := s.boot.look d == 5 || s.boot.look d == 6

/-- Bytes 0x000 to 0x02F: what the loader's table shows too (R428). -/
def State.topoId (s : State) (d : Nat) : List Byte :=
  let f := s.fw.look d
  toBytes 4 0x5444334E ++ toBytes 2 1 ++ toBytes 1 d ++ toBytes 1 (s.booted d).toNat ++ toBytes 8 f.ver.toNat ++
    (f.digest ++ List.replicate 32 0).take 32

/-- Bytes 0x030 to 0x07F: the defect map. -/
def State.topoFuse (s : State) (d : Nat) : List Byte :=
  let l := s.fusedCts d
  toBytes 16 l.length ++ (List.range 32).flatMap fun i => toBytes 2 (match l[i]? with | some q => q % 4096 | none => 0xFFFF)

/-- The die's part of TOPOD. -/
def State.topoHead (s : State) (d : Nat) : List Byte := s.topoId d ++ s.topoFuse d

/-- The links of a die, by ascending number. -/
def linksOf (d : Nat) : List Nat := (List.range 6).filter fun l => (linkDies l).1 == d || (linkDies l).2 == d

/-- The topology table, or the loader's before the die has one. [DEDUCED: log 70] -/
def State.topology (s : State) (d : Nat) : List Byte :=
  if !s.tableBuilt d then s.topoId d ++ List.replicate 976 0
  else
    let hbm := (List.range 4).flatMap fun i =>
      if d ≥ 3 then List.replicate 8 0
      else toBytes 2 (if s.badStacks.contains (d * 4 + i) then 2 else 1) ++ toBytes 2 64 ++ toBytes 4 (Config.pinRate (d * 4 + i))
    let links := (List.range 8).flatMap fun i =>
      match (linksOf d)[i]? with
      | none => toBytes 8 0xFF
      | some l =>
        let k := s.links.look l
        let peer := if (linkDies l).1 == d then (linkDies l).2 else (linkDies l).1
        toBytes 1 peer ++ toBytes 1 (linkModules l) ++ toBytes 1 k.active.length ++ toBytes 5 k.rate
    let ports := (List.range 72).flatMap fun i =>
      if d < 3 then List.replicate 8 0
      else
        let p := s.ports.look ((d - 3) * 72 + i)
        toBytes 1 p.status ++ toBytes 1 2 ++ toBytes 2 p.pkg.toNat ++ toBytes 4 p.peer.toNat
    let eth := (List.range 4).flatMap fun i => toBytes 8 (if d < 3 then 0 else s.eth.look ((d - 3) * 4 + i))
    s.topoHead d ++ hbm ++ links ++ List.replicate 32 0 ++ ports ++ eth ++ List.replicate 160 0

/-- The measurement that TOPOD takes from some dies, in die order (R336). -/
def State.topod (s : State) (dies : List Nat) : List Byte := sha256 (dies.flatMap s.topoHead)

end Sys2Proof.Machine
end

