-- ==== Sys2Proof/Machine/Place.lean ====
section
/-!
DEFINITION. Placement of an image on its clusters (R105, R307, R308, R311, R336, R371, R373, R377, R382, R385, R388, R446),
the loading of its configuration blocks (R323, R330 step 6, R337 to R339) and its start (R330 step 7).
-/
namespace Sys2Proof.Machine

/-! ### Groups of nodes (R277, R373, R446) -/

/-- Nodes that must share an element: those that name one accumulator, or those of one ring, in order. -/
structure Item where
  nodes : List Nat := []
  ring : Bool := false
  deriving DecidableEq, Repr, Inhabited

/-- The accumulator that a record names (R446). -/
def namedAcc (v : RecView) : Option Nat :=
  if v.op == 0x70 || v.op == 0x71 || v.op == 0x7F || v.op == 0xAB then some v.accN else none

/-- The ring that begins at a node. -/
def ringFrom (m : Img) (i : Nat) : List Nat :=
  ((List.range 64).map fun k => i + k).takeWhile fun j =>
    j < imgNodes m && imgStatic m j && (imgView m j).spos == j - i && imgRegion m j == imgRegion m i

/-- The items of an image: accumulator sets, rings, and the other nodes one by one. -/
def itemsOf (m : Img) : List Item :=
  let ns := List.range (imgNodes m)
  let acc := fun i => if imgStatic m i then none else namedAcc (imgView m i)
  ((List.range 8).filterMap fun a =>
    match ns.filter fun i => acc i == some a with
    | [] => none
    | l => some { nodes := l }) ++
  (ns.filter fun i => imgStatic m i && (imgView m i).spos == 0).map (fun i => { nodes := ringFrom m i, ring := true }) ++
  (ns.filter fun i => !imgStatic m i && (acc i).isNone).map fun i => { nodes := [i] }

/-- The LUTS entries of some nodes. -/
def lutsOf (m : Img) (l : List Nat) : List (Nat × Nat × List Byte) :=
  ((secIxs m 7).map (imgLut m)).filter fun x => l.contains x.1

/-- An item fits beside the nodes that an element group holds. -/
def groupRoom (m : Img) (old : List Nat) (x : Item) : Bool :=
  if x.ring then old.isEmpty
  else
    !(old.any (imgStatic m)) && old.length + x.nodes.length ≤ 1024 &&
    pairsOk (fun a b => a.2.1 != b.2.1 || a.2.2 == b.2.2) (lutsOf m (old ++ x.nodes))

/-- What the grouping depends on (R373). -/
def groupKey (m : Img) : List Byte := imgHash m ++ (imgRegions m).flatMap fun r => toBytes 2 r.1 ++ toBytes 1 r.2.toNat

/-- The element groups, by region * 65536 + group, and the first nodes of the items that found no room. -/
def groupsOf (m : Img) : Tbl (List Nat) × List Nat :=
  let l := itemsOf m
  (l.zip (List.range l.length)).foldl (fun (st : Tbl (List Nat) × List Nat) p =>
    let first := (p.1.nodes[0]?).getD 0
    let r := imgRegion m first
    let n := (((imgRegions m)[r]?).getD (1, false)).1 * 96
    let at_ := fun k => r * 65536 + (Config.group (groupKey m) p.2 + k) % n
    if p.1.nodes.any fun i => imgRegion m i != r then (st.1, st.2 ++ [first])
    else
      match (List.range n).find? fun k => groupRoom m (st.1.look (at_ k)) p.1 with
      | some k => (st.1.upd (at_ k) fun old => old ++ p.1.nodes, st.2)
      | none => (st.1, st.2 ++ [first])) ([], [])

/-! ### Squares for the groups (R336, R380) -/

/-- The links and converters that the ring of a group uses. -/
def sidesUsed (m : Img) (l : List Nat) : List Nat :=
  l.flatMap fun i => let v := imgView m i; if v.op.toNat ≥ 0xD0 then [v.sin, v.sout] else []

/-- The static links that a CT group needs lead to squares of its region. -/
def State.linksFit (s : State) (m : Img) (g : Tbl (List Nat)) (rid gk q : Nat) : Bool :=
  (List.range 4).all fun el =>
    (sidesUsed m (g.look (gk + el))).all fun side =>
      side = 0 || side = 5 ||
      match neighbour (q * 4 + el) side with
      | some n => s.ctIn rid (n / 4)
      | none => false

/-- The key that a placement depends on (R336). -/
def State.placeKey (s : State) (m : Img) (rids : List Nat) : List Byte :=
  let cl := rids.flatMap fun r => (s.region r).clusters
  let dies := [0, 1, 2].filter fun d => cl.any fun c => c / 48 == d
  let mask := fun (r d : Nat) => ((s.region r).clusters.filter fun c => c / 48 == d).foldl (fun n c => n + 2 ^ (c % 48)) 0
  let shape := (rids.zip (imgRegions m)).flatMap fun p =>
    toBytes 1 p.2.2.toNat ++ [0, 1, 2].flatMap fun d => toBytes 6 (mask p.1 d)
  sha256 (imgHash m ++ s.topod dies ++ sha256 shape)

/-- The squares of a region that satisfy a condition. -/
def State.squaresOf (s : State) (rid : Nat) (p : Nat → Bool) : List Nat :=
  (regionSquares (s.region rid)).filter fun q => p q && !s.fused.contains q

/-- A square for group `k` where none that fits it is free: groups placed already move on to other squares that fit them,
each square in turn no more than once. -/
def augment (fits : Nat → List Nat) (n : Nat) (used : List Nat) (sq : List (Nat × Nat)) (k : Nat) : Option (List (Nat × Nat)) :=
  match n with
  | 0 => none
  | n + 1 => (fits k).findSome? fun q =>
    if used.contains q then none
    else
      match sq.find? fun p => p.2 == q with
      | none => some (sq ++ [(k, q)])
      | some p => (augment fits n (q :: used) (sq.erase p) p.1).map fun l => l ++ [(k, q)]

/-- Squares for the CT groups, by the key of the group's first element group, and the groups that found none: those for
which no placement of the groups before them leaves a square. [DESIGN CHOICE: log 77] -/
def State.placeGroups (s : State) (m : Img) (key : List Byte) (rids : List Nat) (g : Tbl (List Nat)) : List (Nat × Nat) × List Nat :=
  let cts := (g.map fun p => p.1 / 4 * 4).eraseDups
  let fits := fun (k : Nat) =>
    let rid := (rids[k / 65536]?).getD 0
    s.squaresOf rid fun q => isCt q && s.linksFit m g rid k q
  cts.foldl (fun (st : List (Nat × Nat) × List Nat) k =>
    let free := (fits k).filter fun q => !(st.1.any fun p => p.2 == q)
    match free[Config.place key k % free.length]? with
    | some q => (st.1 ++ [(k, q)], st.2)
    | none =>
      match augment fits (cts.length + 1) [] st.1 k with
      | some l => (l, st.2)
      | none => (st.1, st.2 ++ [k])) ([], [])

/-- The node key of node `i`: its group's element, and its SPOS, or a number in the element that Urupo chooses: the group's nodes
stand one after another from an open number on. [DESIGN CHOICE: log 77] -/
def nodeKeyOf (m : Img) (g : Tbl (List Nat)) (sq : List (Nat × Nat)) (i : Nat) : Nat :=
  match g.find? fun p => p.2.contains i with
  | none => 0
  | some p =>
    let q := ((sq.find? fun x => x.1 == p.1 / 4 * 4).map (·.2)).getD 0
    (q * 4 + p.1 % 4) * 1024 + if imgStatic m i then (imgView m i).spos else (Config.nodeFrom (groupKey m) p.1 + p.2.idxOf i) % 1024

/-! ### Storage (R307, R308, R311, R336) -/

/-- What has been placed in an MT: 1 tiles or 2 queues, the bytes, the buffers and the queues. -/
structure MtUse where
  kind : Nat := 0
  off : Nat := 0
  bufs : Nat := 0
  qs : Nat := 0
  deriving DecidableEq, Repr, Inhabited

/-- Storage placed so far; `bad` holds the argument of the first declaration without a place. -/
structure Store where
  use : Tbl MtUse := []
  tiles : List TileDecl := []
  queues : List Nat := []
  rings : List (Nat × Nat) := []
  cells : Tbl Nat := []
  bars : List Nat := []
  bad : Option Nat := none
  deriving DecidableEq, Repr, Inhabited

/-- How far a square is from a CT: by distance, then the lower y, then the lower x (R336), then the lower die. [DESIGN CHOICE: log 77] -/
def farness (q x : Nat) : Nat :=
  let d := fun (a b : Nat) => (a - b) + (b - a)
  (d (sqX q) (sqX x) + d (sqY q) (sqY x)) * 2 ^ 20 + sqY x * 2 ^ 8 + sqX x * 4 + sqDie x
/-- The nearest of some squares. -/
def nearest (q : Nat) (l : List Nat) : Option Nat := l.find? fun x => l.all fun y => farness q x ≤ farness q y

/-- The square for a declaration: the nearest to its NEAR node among the squares of that node's region, else any. -/
def State.storeAt_ (s : State) (m : Img) (key : List Byte) (rids keys : List Nat) (n : Nat) (near : Option Nat) (rix : Option Nat)
    (room : Nat → Bool) : Option Nat :=
  let ridOf := fun (i : Nat) => (rids[imgRegion m i]?).getD 0
  match near with
  | some i =>
    if rix.any fun r => r != imgRegion m i then none
    else nearest ((keys[i]?).getD 0 / 4096) (s.squaresOf (ridOf i) room)
  | none =>
    let l := match rix with
      | some r => s.squaresOf ((rids[r]?).getD 0) room
      | none => rids.flatMap fun r => s.squaresOf r room
    l[Config.place key (2 ^ 32 + n) % l.length]?

/-- The region index that a template ties a tile to: that of the NEAR node of its queue (R338). -/
def tileRegion (m : Img) (i : Nat) : Option Nat :=
  (secIxs m 6).findSome? fun k =>
    let t := imgTmpl m k
    if t.src == i || t.dst == i then (imgQueueNear m t.queue).map (imgRegion m) else none
/-- The tiles of the template of a queue. -/
def queueTiles (m : Img) (q : Nat) : List Nat :=
  (secIxs m 6).flatMap fun k =>
    let t := imgTmpl m k
    if t.queue == q then [t.src, t.dst].filter (· != 0xFFFF) else []

def State.storeTile (s : State) (m : Img) (key : List Byte) (rids keys edges : List Nat) (st : Store) (i : Nat) : Store :=
  let t := imgTile m i
  let room := fun q => !isCt q && !edges.contains q &&
    let u := st.use.look q
    u.kind != 2 && u.off + t.depth * t.bytes ≤ 2097152 && u.bufs + t.depth ≤ 64
  match s.storeAt_ m key rids keys i t.near (tileRegion m i) room with
  | none => { st with bad := st.bad.orElse fun _ => some (t.near.getD noIndex), tiles := st.tiles ++ [{}] }
  | some q =>
    let u := st.use.look q
    { st with
      use := st.use.put q { u with kind := 1, off := u.off + t.depth * t.bytes, bufs := u.bufs + t.depth }
      tiles := st.tiles ++ [{ q := q, buf := u.bufs, depth := t.depth, dt := t.dt, rows := t.rows, cols := t.cols, base := u.off }] }

def State.storeQueue (s : State) (m : Img) (key : List Byte) (rids keys : List Nat) (st : Store) (i : Nat) : Store :=
  let cap := imgCap m i
  let room := fun q => !isCt q &&
    let u := st.use.look q
    u.kind != 1 && u.off + cap * 16 ≤ 2097152 && u.qs + 1 ≤ 4
  let rix := ((queueTiles m i).head?).bind fun t => (st.tiles[t]?).bind fun d => rids.idxOf? (s.ridOf d.q)
  match s.storeAt_ m key rids keys (2 ^ 16 + i) (imgQueueNear m i) rix room with
  | none => { st with bad := st.bad.orElse fun _ => some ((imgQueueNear m i).getD noIndex), queues := st.queues ++ [0], rings := st.rings ++ [(0, 0)] }
  | some q =>
    let u := st.use.look q
    { st with
      use := st.use.put q { u with kind := 2, off := u.off + cap * 16, qs := u.qs + 1 }
      queues := st.queues ++ [q * 4 + u.qs], rings := st.rings ++ [(cap, u.off)] }

def State.storeBar (s : State) (m : Img) (key : List Byte) (rids keys : List Nat) (st : Store) (i : Nat) : Store :=
  let room := fun q => isCt q && st.cells.look q < 32
  match s.storeAt_ m key rids keys (2 ^ 17 + i) (imgBarNear m i) none room with
  | none => { st with bad := st.bad.orElse fun _ => some ((imgBarNear m i).getD noIndex), bars := st.bars ++ [0] }
  | some q => { st with cells := st.cells.upd q (· + 1), bars := st.bars ++ [q * 32 + st.cells.look q] }

/-- Every declaration, in order. -/
def State.storeAll (s : State) (m : Img) (key : List Byte) (rids keys edges : List Nat) : Store :=
  let a := (secIxs m 3).foldl (s.storeTile m key rids keys edges) {}
  let b := (secIxs m 4).foldl (s.storeQueue m key rids keys) a
  let c := (secIxs m 5).foldl (s.storeBar m key rids keys) b
  -- the tiles of one template stand in one region
  let split := (secIxs m 6).findSome? fun k =>
    let l := (queueTiles m (imgTmpl m k).queue).filterMap fun t => (c.tiles[t]?).map fun d => (t, s.ridOf d.q)
    match l with
    | [(_, r), (t, r2)] => if r == r2 then none else some ((imgTile m t).near.getD noIndex)
    | _ => none
  { c with bad := c.bad.orElse fun _ => split }

/-! ### Endpoints (R17, R377, R388) -/

def endpointOff (m : Img) (k : Nat) : Nat := secOff m 9 k
/-- A multicast endpoint: die * 256 + group. -/
def endpointGroup (m : Img) (k : Nat) : Option Nat :=
  let o := endpointOff m k
  if u m o 1 = 0 then some (u m (o + 1) 1 * 256 + u m (o + 2) 2) else none
/-- A DMA queue endpoint: side * 256 + number. -/
def endpointDma (m : Img) (k : Nat) : Option Nat :=
  let o := endpointOff m k
  let n := u m (o + 2) 2
  if u m o 1 = 1 && fld n 8 3 == 0 then some (fld n 11 1 * 256 + n % 256) else none
/-- The first node that sends to an endpoint. -/
def firstSender (m : Img) (k : Nat) : Nat :=
  ((List.range (imgNodes m)).find? fun i =>
    (usedDests (imgView m i)).any fun c => fld c 26 2 == 2 && fld c 2 24 == k).getD noIndex

/-- The die's free group for each group that the image names, and the endpoints without one. -/
def State.groupMap (s : State) (m : Img) : List (Nat × Nat) × List Nat :=
  (secIxs m 9).foldl (fun (st : List (Nat × Nat) × List Nat) k =>
    match endpointGroup m k with
    | none => st
    | some g =>
      if st.1.any fun p => p.1 == g then st
      else
        match (List.range 256).find? fun i => s.mcgLoad.look (g / 256 * 256 + i) == 0 && !(st.1.any fun p => p.2 == g / 256 * 256 + i) with
        | some i => (st.1 ++ [(g, g / 256 * 256 + i)], st.2)
        | none => (st.1, st.2 ++ [k])) ([], [])

/-- The DMA queues that the image names. -/
def dmasOf (m : Img) : List Nat := ((secIxs m 9).filterMap (endpointDma m)).eraseDups
/-- Another load holds the queue. -/
def State.dmaHeld (s : State) (lid n : Nat) : Bool :=
  s.loads.any fun p => p.1 != lid && p.2.phase != .ended && p.2.dmas.contains n

/-! ### Placed destinations (R97, R105) -/

/-- The placed form of a canonical destination, for a load whose places, imports and groups are known. -/
def Load.placeDest (ld : Load) (m : Img) (c : Nat) : BitVec 28 :=
  let ix := fld c 2 24
  match fld c 26 2 with
  | 0 => mkDest ((ld.places[ix]?).getD 0) (fld c 0 2)
  | 1 => (ld.imports[ix]?).getD 0
  | _ =>
    let o := endpointOff m ix
    match endpointGroup m ix with
    | some g =>
      let k := ((ld.groups.find? fun p => p.1 == g).map (·.2)).getD 0
      BitVec.ofNat 28 (k / 256 * 2 ^ 26 + 63 * 2 ^ 20 + k % 64 * 2 ^ 14 + k / 64 % 4 * 2 ^ 12)
    | none => BitVec.ofNat 28 (3 * 2 ^ 26 + u m (o + 2) 2 * 2 ^ 14 + u m (o + 4) 1)

/-- The record as it is placed: only its destination fields change (R105). -/
def Load.placeRecord (ld : Load) (m : Img) (i : Nat) : Rec96 :=
  let r := imgRecord m i
  let v := imgView m i
  let two : Bool := match opInfo v.op.toNat with
    | some x => x.form == .d2 || x.form == .t
    | none => false
  let n := v.hdr.ndest.toNat
  if v.op.toNat ≥ 0xD0 || n = 0 then r
  else if two then
    let a := (ld.placeDest m v.destA.toNat).toNat
    let b := if n = 1 then 0 else (ld.placeDest m v.destB.toNat).toNat
    BitVec.ofNat 96 (r.toNat / 2 ^ 56 * 2 ^ 56 + a * 2 ^ 28 + b)
  else BitVec.ofNat 96 (r.toNat / 2 ^ 28 * 2 ^ 28 + (ld.placeDest m v.destA.toNat).toNat)

/-! ### LAUNCH_PLACE -/

/-- What placing comes to: the load as it stands placed, or the argument of NOPLACE. [DESIGN CHOICE: log 77] -/
def State.placement (s : State) (lid : Nat) (key : List Byte) : Except Nat Load :=
  let ld := s.load lid
  let m := ld.image
  let g := groupsOf m
  let sq := s.placeGroups m key ld.regions g.1
  let lost := sq.2.flatMap fun k => (List.range 4).flatMap fun el => g.1.look (k + el)
  let mg := s.groupMap m
  let held := ((secIxs m 9).filter fun k => (endpointDma m k).any (s.dmaHeld lid)).map (firstSender m)
  match (g.2 ++ lost ++ mg.2.map (firstSender m) ++ held).min? with
  | some i => .error i
  | none =>
    let keys := (List.range (imgNodes m)).map (nodeKeyOf m g.1 sq.1)
    let edges := (g.1.filter fun p => (sidesUsed m p.2).contains 5).map fun p =>
      pairSq (((sq.1.find? fun x => x.1 == p.1 / 4 * 4).map (·.2)).getD 0)
    let st := s.storeAll m key ld.regions keys edges
    match st.bad with
    | some i => .error i
    | none =>
      let ld1 := { ld with places := keys, groups := mg.1 }
      let keyAt := fun i => (keys[i]?).getD 0
      .ok { ld1 with
        phase := .placed, edges := edges.eraseDups, dmas := dmasOf m
        tiles := st.tiles.zip (secIxs m 3) |>.map fun p => { p.1 with dest := (imgTile m p.2).dst.map (ld1.placeDest m) }
        queues := st.queues, rings := st.rings, barriers := st.bars
        quotas := ((List.range (imgNodes m)).filter (isLoopin m)).map fun i => (keyAt i, imgQuota m i)
        nins := (imgNins m).zip (List.range (imgNodes m)) |>.map fun p => (keyAt p.2, p.1)
        feedback := (imgFeedback m).map fun a => (keyAt a.1, (mkDest (keyAt a.2.1) a.2.2).toNat)
        extQueues := ((secIxs m 4).filter fun i => !zeros m (secOff m 4 i + 8) 8).filterMap fun i => st.queues[i]? }

/-- The placement cache of the home die: the key is the most recently used one. -/
def Die.cache (d : Die) (key : List Byte) : Die :=
  { d with placed := (key :: d.placed.filter (· != key)).take 64 }

/-- LAUNCH_PLACE of load `a`. -/
def execLaunchPlace (s : State) : Res :=
  let lid := s.at_.a
  let ld := s.load lid
  let key := s.placeKey ld.image ld.regions
  if ld.phase != .dispatched then .next s
  else
    match s.placement lid key with
    | .error n => .next (s.endLoad lid 3 0x0005 n)
    | .ok l =>
      let s1 := (s.modDie (cmdField ld.cmd 6 1) fun d => d.cache key).modLoad lid fun _ => l
      .next { s1 with mcgLoad := l.groups.foldl (fun (t : Tbl Nat) p => t.put p.2 lid) s1.mcgLoad }

/-! ### LAUNCH_LOAD -/

/-- The descriptor image of a declared buffer (R309, R311). -/
def descImage (t : ITile) (const : Bool) (base : Nat) : Word :=
  BitVec.ofNat 64 (2 ^ 63 + const.toNat * 2 ^ 62 + t.dst.isSome.toNat * 2 ^ 38 + base / 64 * 2 ^ 22 + (t.rows - 1) * 2 ^ 16 +
    (t.stride / 8 - 1) * 2 ^ 10 + (dtMx t.dt).toNat * 2 ^ 9)

/-- The MTs of a region's lowest cluster by y, then x: the frame allocator's comes first (R336). -/
def State.mtsInOrder (s : State) (rid : Nat) : List Nat :=
  match (s.region rid).clusters.min? with
  | none => []
  | some c => s.squaresOf rid fun q => !isCt q && clusterOf q == c

/-- The switch settings of a region (R380): a link that a ring at either end uses. -/
def Load.switches (ld : Load) (m : Img) (r : Nat) : List (Nat × Nat) :=
  let rings := ((List.range (imgNodes m)).filter fun i => imgRegion m i == r && imgStatic m i).map fun i =>
    (((ld.places[i]?).getD 0) / 1024, imgView m i)
  let bits := rings.flatMap fun p => ([p.2.sin, p.2.sout].filter fun x => 1 ≤ x && x ≤ 4).flatMap fun side =>
    (p.1, side) :: (match neighbour p.1 side with | some n => [(n, opposite side)] | none => [])
  (bits.eraseDups).foldl (fun (t : Tbl Nat) b => t.upd (b.1 / 4) fun w => w + 2 ^ (8 * (b.1 % 4) + (b.2 - 1))) []

/-- Igtex's block for region number `r` of a load (R337, R338). -/
def State.buildBlock (s : State) (lid r : Nat) : Block :=
  let ld := s.load lid
  let m := ld.image
  let rid := (ld.regions[r]?).getD 0
  let key := fun i => (ld.places[i]?).getD 0
  let here := (List.range (imgNodes m)).filter fun i => imgRegion m i == r
  let mine := fun q => s.ridOf q == rid
  let mts := s.mtsInOrder rid
  let mt0 := s.mtsInOrder ((ld.regions[0]?).getD 0)
  let tl := ld.tiles.zip (secIxs m 3) |>.filter fun p => mine p.1.q
  let const := fun i => (constsOf m).any fun c => c.1 == i
  let bufs := tl.flatMap fun p => (List.range p.1.depth).map fun k =>
    let t := imgTile m p.2
    (p.1.q * 64 + p.1.buf + k, descImage t (const p.2) (p.1.base + k * t.bytes))
  let qs := (ld.queues.zip ld.rings).filter fun p => mine (p.1 / 4)
  let side := fun (t : Nat) => if t = 0xFFFF then 0xFFFF else
    match ld.tiles[t]? with
    | some d => bufIndex bufs d.q d.buf
    | none => 0xFFFF
  let tm := (secIxs m 6).filterMap fun k =>
    let t := imgTmpl m k
    let o := secOff m 6 k
    let q := (ld.queues[t.queue]?).getD 0
    if mine (q / 4) then
      some (q, toBytes 2 t.levels.length ++ toBytes 2 (side t.src) ++ toBytes 2 (side t.dst) ++ toBytes 10 t.esize ++
        (m.drop (o + 16)).take 64)
    else none
  let edges := ld.edges.filter mine
  { rid := rid, mode := (((imgRegions m)[r]?).getD (1, false)).2, level := imgSuper m, fcls := BitVec.ofNat 2 (imgFcls m)
    xroot := BitVec.ofNat 64 (cmdField ld.cmd 0x10 8), srseed := BitVec.ofNat 64 (imgSeed m)
    famt := (mts[0]?).getD 0, fqmt := (mt0[1]?).getD 0, fslim := cmdField ld.cmd 0x22 2, loadid := lid
    records := here.map fun i => (key i, ld.placeRecord m i)
    quotas := ld.quotas.filter fun p => s.ridOf (p.1 / 4096) == rid
    modes := (edges.map fun q => (q, 2)) ++ ((tl.map fun p => p.1.q).eraseDups.map fun q => (q, 0)) ++
      (((qs.map fun p => p.1 / 4).eraseDups.filter fun q => !edges.contains q).map fun q => (q, 1))
    bufs := bufs, queues := qs.map fun p => (p.1, p.2.1, p.2.2), bars := ld.barriers.filter fun c => mine (c / 32)
    tmpls := tm
    luts := (((secIxs m 7).map (imgLut m)).filter fun l => imgRegion m l.1 == r).map (fun l => (key l.1 / 1024 * 4 + l.2.1, l.2.2))
      |>.eraseDups
    entries := ((imgEntries m).zip (List.range (imgEntries m).length)).filterMap fun p =>
      if imgRegion m p.1 == r then some (key p.1 * 4, p.2) else none
    fault := (imgFault m).bind fun i => if imgRegion m i == r then some (key i * 4) else none
    links := ld.switches m r }

/-- SPCFG of the load's part on a die: SZ of the command, and a BASE that the spec leaves to Igtex (R323). [DESIGN CHOICE: log 76] -/
def spcfg (cmd : List Byte) (base : Word) : Word :=
  let sz := cmdField cmd 0x20 1
  BitVec.ofNat 64 ((if sz = 0 then 26 else sz) * 2 ^ 58) ||| (base &&& 0x000FFFFFFFFF0000#64)
/-- BASE lies in the HBM of its die. [DESIGN CHOICE: log 76] -/
def baseOn (d : Nat) (w : Word) : Word := (w &&& 0x0000003FFFFF0000#64) ||| BitVec.ofNat 64 (d * 2 ^ 38)

/-- The dies that hold a region of a load. -/
def State.diesOf (s : State) (lid : Nat) : List Nat :=
  [0, 1, 2].filter fun d => (s.load lid).regions.any fun r => (s.region r).clusters.any fun c => c / 48 == d

/-- SPCFG is written on every die that holds a region. [DESIGN CHOICE: log 76] -/
def State.writeSpcfg (s : State) (lid : Nat) : State :=
  (s.diesOf lid).foldl (fun st d =>
    { st.drawn with
      spores := st.spores.put (lid * 4 + d) { cfg := spcfg (s.load lid).cmd (baseOn d (Config.freeWord st.free)) } }) s

/-- DQCTL is written for every queue that the load holds (R388, R390). -/
def State.claimDmas (s : State) (lid : Nat) : State :=
  ((s.load lid).dmas.filter fun n => !(s.dq.look n).ctl.getLsbD 63).foldl (fun st n =>
    { st with dq := st.dq.upd n fun q =>
        { q with ctl := BitVec.ofNat 64 (2 ^ 63 + lid % 65536 * 2 ^ 32 + fld q.ctl.toNat 16 16 * 2 ^ 16), ptr := setField q.ptr 0 32 0 } }) s

/-- Queue `n` is enabled for another load than `lid`. -/
def State.dqOfOther (s : State) (n lid : Nat) : Bool :=
  let c := (s.dq.look n).ctl
  c.getLsbD 63 && fld c.toNat 32 16 != lid % 65536

/-- The blocks stand in the shadow banks. -/
def State.loadShadows (s : State) (lid : Nat) : State :=
  let rids := (s.load lid).regions
  (rids.zip (List.range rids.length)).foldl (fun st p =>
    st.modRegion p.1 fun g => { g with shadow := some (s.buildBlock lid p.2).encode }) s

/-- LAUNCH_LOAD of load `a`: with place `b` = k + 1 the block of its region k could not be read, which fails the launch; a DMA
queue that an ended load has not yet released holds it back. [DEDUCED: log 69] -/
def execLaunchLoad (s : State) : Res :=
  let lid := s.at_.a
  let ld := s.load lid
  if ld.phase != .placed || (ld.dmas.any fun n => s.dqOfOther n lid) then .next s
  else
    match s.at_.b with
    | 0 => .next ((((s.loadShadows lid).writeSpcfg lid).claimDmas lid).modLoad lid fun l => { l with phase := .loaded })
    | k + 1 =>
      match ld.regions[k]? with
      | some r => .next (s.endLoad lid 3 0x0006 r)
      | none => .next s

/-- LAUNCH_START of load `a`: every region is given its commit, the last with START = 1; a load that is to be restored
starts with none, and its restore waits for the commits (R370). -/
def execLaunchStart (s : State) : Res :=
  let lid := s.at_.a
  let ld := s.load lid
  let todo := ld.regions.filter fun r => (s.region r).shadow.isSome && (s.region r).commit.isNone
  if ld.phase != .loaded || todo.isEmpty then .next s
  else .next (todo.foldl (fun st r =>
    st.modRegion r fun g => { g with commit := some (0, ld.restore.isNone && some r == ld.regions.getLast?) }) s)

end Sys2Proof.Machine
end

