-- ==== Sys2Proof/Machine/Reloc.lean ====
section
/-!
DEFINITION. Migration: the places of a saved load and the places that it is restored to, and the rewriting of the location
fields of its state (R373, R374).
-/
namespace Sys2Proof.Machine

/-- Old and new places: the load, regions, CTs, MTs, multicast groups, and die of a place by its square. [DEDUCED: log 53] -/
structure Reloc where
  lid : Nat := 0
  rids : List (Nat × Nat) := []
  cts : List (Nat × Nat) := []
  mts : List (Nat × Nat) := []
  groups : List (Nat × Nat) := []
  deriving DecidableEq, Repr, Inhabited

/-- What a place becomes; one that the table does not name stays. -/
def moved (l : List (Nat × Nat)) (k : Nat) : Nat := ((l.find? fun p => p.1 == k).map (·.2)).getD k

def Reloc.sq (r : Reloc) (q : Nat) : Nat := if isCt q then moved r.cts q else moved r.mts q
def Reloc.elem (r : Reloc) (e : Nat) : Nat := r.sq (e / 4) * 4 + e % 4
def Reloc.node (r : Reloc) (n : Nat) : Nat := r.elem (n / 1024) * 1024 + n % 1024
def Reloc.queue (r : Reloc) (k : Nat) : Nat := moved r.mts (k / 4) * 4 + k % 4
def Reloc.cell (r : Reloc) (k : Nat) : Nat := moved r.cts (k / 32) * 32 + k % 32
def Reloc.rid (r : Reloc) (n : Nat) : Nat := moved r.rids n
/-- A scratch address. -/
def Reloc.pa (r : Reloc) (a : Nat) : Nat := if isScratch a then scratchPa (r.sq (scratchSq a)) (scratchOff a) else a

/-- A placed destination. [DEDUCED: log 53] -/
def Reloc.dest (r : Reloc) (d : BitVec 28) : BitVec 28 :=
  if destDie d = 3 || destPort d = 3 then d
  else if destY d < 36 then BitVec.ofNat 28 (r.sq (destSq d) * 2 ^ 14 + d.toNat % 2 ^ 14)
  else if destY d = 63 then
    let g := moved r.groups (destDie d * 256 + destEl d * 64 + destX d)
    BitVec.ofNat 28 (g / 256 * 2 ^ 26 + 63 * 2 ^ 20 + g % 64 * 2 ^ 14 + g / 64 % 4 * 2 ^ 12)
  else d
/-- DIE and MT of a handle. [DEDUCED: log 53] -/
def Reloc.handle (r : Reloc) (v : Word) : Word := setField v 46 14 (r.sq (fld v.toNat 46 14))

def Reloc.tok (r : Reloc) (t : Token) : Token :=
  { t with dest := if t.mc then t.dest else r.dest t.dest, val := if t.kind = 1 then r.handle t.val else t.val }
def Reloc.flight (r : Reloc) (fl : Flight) : Flight :=
  { fl with tok := r.tok fl.tok, src := if fl.src < 2 ^ 26 then r.node fl.src else 2 ^ 26 + r.sq (fl.src - 2 ^ 26), lid := r.lid }
def Reloc.firing (r : Reloc) (f : Firing) : Firing :=
  { f with elem := r.elem f.elem, t0 := r.tok f.t0, t1 := r.tok f.t1, t2 := r.tok f.t2 }
/-- A slot; the value of a parked operand is rewritten as its token's is (R374). -/
def Reloc.slot (r : Reloc) (x : Slot) : Slot :=
  { x with tok := r.tok x.tok, val := if x.p && x.tok.kind == 1#2 then r.handle x.val else x.val }
/-- CDEST of a slot 0. -/
def Reloc.slot0 (r : Reloc) (w : Word) : Word := setField w 16 28 (r.dest (slot0Cdest w)).toNat

/-- What a fault record needs for its resolution; its words are kept (R370). -/
def Reloc.record (r : Reloc) (x : FaultRec) : FaultRec :=
  { x with
    firing := x.firing.map r.firing, flight := x.flight.map r.flight, rid := r.rid x.rid
    site := match x.site with
      | .none => .none
      | .copy k => .copy (r.queue k)
      | .conv k => .conv (moved r.mts (k / 8) * 8 + k % 8)
      | .commit id rid => .commit id rid }

def Reloc.copy (r : Reloc) (c : Copy) : Copy := 
  { c with trig := r.tok c.trig, f := r.firing c.f, tlb := none, n := 0, data := none, reqs := [] }
def Reloc.side (r : Reloc) (x : Side) : Side :=
  match x with
  | .arm => .arm
  | .tile q b dt rows cols d => .tile (r.sq q) b dt rows cols (d.map r.dest)

/-- The state of CT `q`. -/
def Reloc.ct (r : Reloc) (q : Nat) (c : Ct) : Ct :=
  let slots := mapTbl c.slots fun _ x => r.slot x
  { c with
    slots := c.ftab.foldl (fun (t : Tbl Slot) p =>
      if p.2.v then t.upd p.2.base.toNat fun x => { x with val := r.slot0 x.val } else t) slots
    spilled := mapTbl c.spilled fun _ sp =>
      { sp with
        held := sp.held.map r.flight
        slots := match sp.slots.map r.slot with
          | [] => []
          | x :: rest => { x with val := r.slot0 x.val } :: rest }
    park := c.park.map fun p => { p with fl := r.flight p.fl }
    spawnWait := c.spawnWait.map fun p => (r.firing p.1, p.2)
    splitQ := c.splitQ.map fun p => (r.firing p.1, p.2)
    matcherIn := c.matcherIn.map r.flight
    bar := mapTbl c.bar fun _ b =>
      { b with
        w0 := if b.w0.getLsbD 16 then setField b.w0 19 12 (r.sq (sqDie q * 4096 + fld b.w0.toNat 19 12) % 4096) else b.w0
        w1 := setField b.w1 18 14 (r.sq (fld b.w1.toNat 18 14)) } }

/-- The elements that a table load has still to reach, in a region of the elements `all`: the moved ones, and where squares
without nodes were among them, those of the new place. -/
def Reloc.left (r : Reloc) (all : List Nat) (l : List Nat) : List Nat :=
  let known := fun e => r.cts.any fun p => p.1 == e / 4
  ((l.filter known).map r.elem) ++
    if l.all known then [] else all.filter fun e => !(r.cts.any fun p => p.2 == e / 4)

/-- An element's state beside its records; `all` are the elements of its region at the new place. -/
def Reloc.elemState (r : Reloc) (all : List Nat) (x : Elem) : Elem :=
  { x with
    readyQ := x.readyQ.map r.firing, back := x.back.map r.flight, inStage := x.inStage.map r.flight
    outStage := x.outStage.map r.flight
    answers := x.answers.map fun a => { a with toks := a.toks.map r.flight }
    macroQ := x.macroQ.map r.firing, ordWait := x.ordWait.map r.firing
    macroDone := x.macroDone.map fun y => { y with f := r.firing y.f }
    lastStop := x.lastStop.map r.firing
    rpt := x.rpt.map fun y => { y with f := r.firing y.f }
    ctxs := x.ctxs.map fun c =>
      { c with held := c.held.map r.flight, last0 := c.last0.map r.elem, last1 := c.last1.map r.elem }
    lutLoads := x.lutLoads.map fun l => { l with f := r.firing l.f, left := r.left all l.left, trip := {} }
    startTrip := {}
    marked := x.marked.map fun m => (m.1, r.node m.2.1, m.2.2) }

def Reloc.queueState (r : Reloc) (q : Queue) : Queue :=
  { q with
    cell := q.cell.map r.cell
    log := q.log.map fun x => { x with handle := r.handle x.handle, thief := r.firing x.thief }
    tmpl := q.tmpl.map fun t => { t with src := r.side t.src, dst := r.side t.dst }
    arm := q.arm.map fun a => (a.1, r.firing a.2.1, a.2.2)
    copy := q.copy.map r.copy }

def Reloc.mt (r : Reloc) (m : Mt) : Mt :=
  { m with
    queues := mapTbl m.queues fun _ q => r.queueState q
    hallocQ := m.hallocQ.map r.firing
    readers := m.readers.map fun d => { d with tok := r.tok d.tok, lid := r.lid }
    streams := mapTbl m.streams fun _ x => { x with tlb := none, reqs := [] } }

def Reloc.fx (r : Reloc) (x : FxRec) : FxRec :=
  { x with slot0 := r.slot0 x.slot0, loopNode := r.node x.loopNode, answers := x.answers.map r.firing }
def Reloc.areq (r : Reloc) (x : AReq) : AReq := { x with f := r.firing x.f }

/-- A request that waits at an object, was never admitted, or has faulted. -/
def Reloc.req (r : Reloc) (x : MReq) : MReq :=
  let f := r.firing x.f
  { x with
    f := f, rid := r.rid x.rid, lid := r.lid, die := sqDie f.sq, cluster := clusterOf f.sq, pa := x.pa.map r.pa, tok := r.tok x.tok
    tgt := if 0xB0 ≤ x.op && x.op ≤ 0xB6 then r.queue x.tgt
      else if 0xB9 ≤ x.op && x.op ≤ 0xBB then r.cell x.tgt
      else if x.op == 0xB7 || x.op == 0xB8 || x.op == 0xBC || x.op == 0xBD then moved r.mts (x.tgt / 8) * 8 + x.tgt % 8
      else x.tgt }

/-- Handles that the published entries of the queues of an MT hold (R374). -/
def State.relocEntries (s : State) (r : Reloc) (q : Nat) : State :=
  (s.mt q).queues.foldl (fun st p =>
    let k := q * 4 + p.1
    (List.range p.2.cap).foldl (fun st i =>
      let ix := BitVec.ofNat 32 i
      let t := st.entryAt k ix
      if p.2.st.look i % 4 == 2 && t.kind == 1#2 then
        st.wr (st.entryPa k ix) 16 ({ t with val := r.handle t.val } : Token).bits.toNat else st) st) s

/-! ### Where a saved load goes (R373) -/

/-- Pairs of old and new places, each old place once and each new place once; an old place whose new one is taken goes to
one that `spare` offers. -/
def pairUp (l : List (Nat × Nat)) (spare : List Nat) (acc : List (Nat × Nat)) : List (Nat × Nat) :=
  match l with
  | [] => acc
  | (a, b) :: rest =>
    if acc.any fun p => p.1 == a then pairUp rest spare acc
    else if !(acc.any fun p => p.2 == b) then pairUp rest spare (acc ++ [(a, b)])
    else
      match spare.find? fun x => !((acc ++ rest).any fun p => p.2 == x) with
      | some x => pairUp rest spare (acc ++ [(a, x)])
      | none => pairUp rest spare (acc ++ [(a, b)])

/-- The places of a saved load against those of load `lid`. [DEDUCED: log 53] -/
def State.reloc (s : State) (im : Save) (lid : Nat) : Reloc :=
  let a := im.load
  let b := s.load lid
  let squares := fun (p : Nat → Bool) => b.regions.flatMap fun r => s.squaresOf r p
  let cts0 := (a.places.zip b.places).map fun p => (p.1 / 4096, p.2 / 4096)
  let cts := pairUp (cts0 ++ (a.barriers.zip b.barriers).map fun p => (p.1 / 32, p.2 / 32)) (squares isCt) []
  let edge := a.edges.map fun q => (q, pairSq (moved cts (pairSq q)))
  let decl := (a.tiles.zip b.tiles).map (fun p => (p.1.q, p.2.q)) ++ (a.queues.zip b.queues).map fun p => (p.1 / 4, p.2 / 4)
  let homes := cts.map fun p => (pairSq p.1, pairSq p.2)
  { lid := lid, rids := im.rids.zip b.regions, cts := cts
    mts := pairUp (edge ++ decl ++ homes) (squares fun q => !isCt q) []
    groups := a.groups.map fun p => (p.2, moved b.groups p.1) }

end Sys2Proof.Machine
end

