-- ==== Sys2Proof/Machine/Preempt.lean ====
section
/-!
DEFINITION. Pre-emption: PMCTL, PMSAVE and PMSTAT (R363), drain, park and cut (R365, R366, R369), the save image (R367), the
restore (R370, R373, R374), and pre-emption for the launch queues (R364).
-/
namespace Sys2Proof.Machine

/-! ### Registers (R363) -/

def pmGo (v : Word) : Bool := v.getLsbD 63
def pmGrade (v : Word) : Nat := fld v.toNat 61 2
def pmRst (v : Word) : Bool := v.getLsbD 60
def pmRid (v : Word) : Nat := fld v.toNat 44 16
def pmTout (v : Word) : Nat := fld v.toNat 0 40
def Die.busy (d : Die) : Bool := d.pmstat.getLsbD 63
/-- The word that Igtex writes for a save or restore that it owes. -/
def Preempt.word (p : Preempt) : Word :=
  BitVec.ofNat 64 (2 ^ 63 + p.grade * 2 ^ 61 + p.restore.toNat * 2 ^ 60 + p.rid % 65536 * 2 ^ 44 + p.tout % 2 ^ 40)

/-- A request is refused: ERR, and nothing else changes. -/
def State.pmRefuse (s : State) (d : Nat) : State := s.modDie d fun x => { x with pmstat := x.pmstat ||| 0x1000000000000000#64 }

/-! ### Stopping (R365, R366) -/

/-- A region of the load is being loaded or committed: a pre-emption waits (R273, R369). -/
def State.committing (s : State) (lid : Nat) : Bool :=
  (s.load lid).regions.any fun r => (s.region r).shadow.isSome || (s.region r).commit.isSome ||
    s.reqs.any fun p => p.2.shadows == some r

/-- Probes of the load are discarded (R369). -/
def State.dropProbes (s : State) (lid : Nat) : State :=
  { s with probes := s.probes.filter fun p => s.lidOf (p.2.origin / 4) != lid }

/-- The sources of a load close, and what reaches its CTs is withdrawn from now on (R366). -/
def State.withdrawLoad (s : State) (lid : Nat) : State :=
  (s.load lid).regions.foldl (fun st r => st.modRegion r fun x => { x with stopped := true, withdraw := true, closed := true })
    (s.dropProbes lid)
/-- A quiescent load stops: nothing of it moves on any die (R365). -/
def State.stopLoad (s : State) (lid : Nat) : State :=
  (s.noticeDies (.stop lid)).foldl (fun st d => st.stopOn d lid) (s.withdrawLoad lid)

/-- The pre-emption of die `d`. -/
def State.modPm (s : State) (d : Nat) (f : Preempt → Preempt) : State := s.modDie d fun x => { x with pm := x.pm.map f }
def State.setEsc (s : State) (d : Nat) : State := s.modDie d fun x => { x with pmstat := x.pmstat ||| 0x2000000000000000#64 }

/-- Steps 1 and 2 of a park: the sources close, every element stops as the notice reaches its die, every frame is parked (R26),
and the withdrawal begins. [DESIGN CHOICE: log 110] -/
def State.parkBegins (s : State) (d lid : Nat) : State :=
  ((s.withdrawLoad lid).notifyDies (.stop lid)).modPm d fun p => { p with withdrawing := true }

/-- A cut begins: a round is opened, unless one is open already, and elements in it stop. -/
def State.cutBegins (s : State) (lid : Nat) : State :=
  let s1 := s.setClosed lid true
  let s2 := match (s1.load lid).round with
    | some _ => s1
    | none => s1.drawn.openRound lid ((Config.freeWord s1.free).toNat % 2 ^ 16)
  let s3 := { s2 with elems := mapTbl s2.elems fun e x => if s2.lidOf (e / 4) == lid && x.entered then { x with stop := true } else x }
  s3.settleRound lid ((s3.load lid).marksWait.length + 2)

/-- What a restore compares of two images of one load (R370). -/
def shapesOf (m : Img) : List (Nat × Bool) := imgRegions m

/-- A restore from the image at `pa` into the regions of a load: every one of them was committed with START = 0, and nothing
has run in them since, or the load stands parked there. -/
def State.restoreOk (s : State) (d lid : Nat) (pa : Word) : Bool :=
  let im := s.saves.look pa.toNat
  let ld := s.load lid
  lid != 0 && (s.saves.any fun p => p.1 == pa.toNat) && imgHash ld.image == im.hash && shapesOf ld.image == im.shapes &&
  cmdField ld.cmd 6 1 == d && !ld.regions.isEmpty &&
  ld.regions.all fun r => (s.region r).noStart && ((s.region r).idle || ld.saved)

/-- The pre-emption of die `d` begins, once no region of the load is being committed; a commit in between may leave nothing
to restore into. A load that stands parked is saved again as it stands. -/
def State.pmBegin (s : State) (d : Nat) : State :=
  match (s.die d).pm with
  | none => s
  | some p =>
    if p.begun || s.committing p.lid then s
    else
      let s1 := s.modPm d fun p => { p with begun := true }
      let static := (s.load p.lid).regions.any fun r => (s.region r).mode
      if p.restore then
        if s.restoreOk d p.lid p.pa then s1
        else (s.modDie d fun x => { x with pm := none, pmctl := x.pmctl &&& 0x7FFFFFFFFFFFFFFF#64, pmstat := x.pmstat &&& 0x7FFFFFFFFFFFFFFF#64 }).pmRefuse d
      else if (s.load p.lid).saved then s1.modPm d fun p => { p with withdrawing := true }
      else
        match p.grade with
        | 0 => if static then (s1.setEsc d).parkBegins d p.lid else s1.setClosed p.lid true
        | 1 => s1.parkBegins d p.lid
        | _ => s1.cutBegins p.lid

/-! ### Writing PMCTL (R363, R370) -/

/-- A save or restore that a write of PMCTL asks for can be made: the load runs with this home die, or the image fits. -/
def State.pmAccepts (s : State) (d lid : Nat) (restore : Bool) (pa : Word) : Bool :=
  if restore then s.restoreOk d lid pa
  else lid != 0 && (s.load lid).phase == .running && cmdField (s.load lid).cmd 6 1 == d

/-- A write of PMCTL on die `d`; `owed` marks one that Igtex owes (R364). -/
def State.pmWrite (s : State) (d : Nat) (v : Word) (owed : Bool) : State :=
  let rid := pmRid v
  let lid := (s.region rid).load
  if (s.die d).busy then s
  else if pmGrade v = 3 then s.pmRefuse d
  else
    let keep := fun (st : State) => st.modDie d fun x => { x with pmctl := v &&& 0x7FFFF0FFFFFFFFFF#64 }
    let go := fun (st : State) =>
      ((keep st).modDie d fun x =>
        { x with pmctl := x.pmctl ||| 0x8000000000000000#64, pmstat := x.pmstat ||| 0x8000000000000000#64
                 pm := some { lid := lid, rid := rid, grade := pmGrade v, restore := pmRst v, since := s.tick d, tout := pmTout v,
                              policy := owed, pa := x.pmsave } }).pmBegin d
    if !pmGo v then keep s
    else if s.pmAccepts d lid (pmRst v) (s.die d).pmsave then go s
    else s.pmRefuse d

/-- The first page from `n` on at which no save image lies. [DEDUCED: log 50] -/
def State.freePage (s : State) (n : Nat) : Nat :=
  ((List.range (s.saves.length + 1)).map fun i => n + i * 4096).find? (fun a => !(s.saves.any fun p => p.1 == a)) |>.getD n

/-- Igtex writes PMSAVE and PMCTL for the first request that it owes, once it would be accepted, so that none is lost; a
save goes to a place of Igtex's choice in the HBM of the die. [DEDUCED: log 50] -/
def State.pmOwed (s : State) (d : Nat) (p : Preempt) : State :=
  let base := d * 2 ^ 38 + (Config.freeWord s.free).toNat % 2 ^ 37 / 4096 * 4096
  let pa := if p.restore then p.pa else BitVec.ofNat 64 (s.freePage base)
  if (s.die d).busy || !s.pmAccepts d (s.region p.rid).load p.restore pa then s
  else
    ((s.drawn.modDie d fun x => { x with pmWait := x.pmWait.drop 1, pmsave := pa }).pmWrite d p.word true).modPm d fun y =>
      { y with queue := p.queue }

/-- A PREEMPT event on die `d` with the word `v`: a write of PMCTL, by Igtex when it owes it, or the step that a write
waits for. -/
def State.pmEvent (s : State) (d : Nat) (v : Word) : State :=
  match (s.die d).pm with
  | some p =>
    if !p.begun then s.pmBegin d
    else if p.grade = 2 && !p.restore && !p.withdrawing && !p.saving && (s.loadElems p.lid).all fun e => (s.elem e).stop then
      s.parkBegins d p.lid
    else s
  | none =>
    match (s.die d).pmWait with
    | p :: _ => if p.word == v then s.pmOwed d p else s.pmWrite d v false
    | [] => s.pmWrite d v false

/-- PREEMPT_DRAIN. -/
def execPreemptDrain (d : Nat) (v : Word) (s : State) : Res :=
  .next (if pmGo v && pmGrade v == 0 && !pmRst v then s.pmEvent d v else s)
/-- PREEMPT_PARK. -/
def execPreemptPark (d : Nat) (v : Word) (s : State) : Res :=
  .next (if pmGo v && pmGrade v == 1 && !pmRst v then s.pmEvent d v else s)
/-- PREEMPT_PARK_AT_CUT: once every element has stopped, the withdrawal follows. -/
def execPreemptParkAtCut (d : Nat) (v : Word) (s : State) : Res :=
  .next (if pmGo v && pmGrade v == 2 && !pmRst v then s.pmEvent d v else s)
/-- PREEMPT_RESTORE. -/
def execPreemptRestore (d : Nat) (v : Word) (s : State) : Res :=
  .next (if pmGo v && pmRst v then s.pmEvent d v else s)

/-! ### The save image (R367) -/

/-- End of a buffer, and of the storage declared in an MT. -/
def dEnd (d : Word) : Nat := dBase d + (dRows d * dStride d + (if dSc d then 4 * dRows d else 0) + 63) / 64 * 64
def Mt.declEnd (m : Mt) : Nat :=
  let bs : List Nat := (m.bufs.filter (fun (p : Nat × Word) => dUse p.2)).map (fun (p : Nat × Word) => dEnd p.2)
  let qs : List Nat := (m.queues.filter (fun p => p.2.declared)).map (fun p => (p.2.base + p.2.cap * 16 + 63) / 64 * 64)
  (bs ++ qs).foldl max 0
/-- The MT holds declared storage, a queue or an AG unit in use. -/
def Mt.inUse (m : Mt) : Bool :=
  (m.bufs.any fun p => dUse p.2) || (m.queues.any fun p => p.2.declared) || !m.ag.isEmpty

/-- Bytes of memory of an MT that the image holds: its declared storage, all words of a structure store, and the bytes
above offset 2,097,152 where they have been written. -/
def State.savedByte (s : State) (q off : Nat) : Bool :=
  let m := s.mt q
  off < m.declEnd || m.mode == 3 || (2097152 ≤ off && s.high.contains q)

/-- The state of a load as it stands. -/
def State.snapshot (s : State) (lid : Nat) : Save :=
  let ld := s.load lid
  let rids := ld.regions
  let mine := fun q => rids.contains (s.ridOf q)
  let elems := s.elems.filter fun p => mine (p.1 / 4)
  let cts := s.cts.filter fun p => mine p.1
  let mts := s.mts.filter fun p => mine p.1 && (p.2.inUse || p.2.mode == 3 || !p.2.conv.isEmpty || s.high.contains p.1)
  let ixOf := fun (r : Nat) => rids.idxOf r
  { hash := imgHash ld.image, shapes := shapesOf ld.image, lid := lid, load := ld, rids := rids
    regions := (s.regions.filter fun p => rids.contains p.1).map fun p => (ixOf p.1, p.2)
    elems := elems, cts := cts, mts := mts, high := s.high.filter mine
    mem := s.mem.filter fun p => isScratch p.1 && (mts.any fun m => m.1 == scratchSq p.1) && s.savedByte (scratchSq p.1) (scratchOff p.1)
    mcg := s.mcg.filter fun p => s.mcgLoad.look (p.1 / 64) == lid
    reqs := s.reqs.filter fun p => p.2.lid == lid && !p.2.orphan && !p.2.dead && !p.2.eng
    wctx := (s.wctx.filter fun p => rids.contains (p.1 / 4096)).map fun p => (ixOf (p.1 / 4096) * 4096 + p.1 % 4096, p.2)
    armed := (s.armed.filter fun p => p.2 == lid + 1).map (·.1) }

def total (l : List Nat) : Nat := l.foldl (· + ·) 0

/-- Bytes of one saved element, MT and CT, by R367. -/
def Elem.saveBytes (x : Elem) (static : Bool) : Nat :=
  let firings := x.readyQ ++ x.macroQ ++ x.ordWait ++ x.macroDone.toList.map (·.f) ++ x.lutLoads.map (·.f)
  (if x.nodes.isEmpty then 0 else 256) + 4096 * x.accUsed.length + 1024 * x.lutUsed.length +
  total (firings.map fun f => if f.pg.isSome then 48 else 32) +
  16 * (x.stage.length + x.outStage.length + total (x.answers.map fun a => a.toks.length)) +
  total (x.ctxs.map fun c => 16 + 16 * c.held.length) +
  8 * (x.nodes.filter fun p => fld p.2.toNat 88 8 == 0x0A).length +
  if static then 64 + 66 * (x.links.filter fun p => p.2.isSome).length else 0
def Ct.saveBytes (c : Ct) (nodes : Bool) : Nat :=
  let parts := c.ftab.filter fun p => p.2.v
  (if nodes || (c.bar.any fun p => p.2.declared) || !parts.isEmpty || !c.spilled.isEmpty then 576 else 0) +
  total (parts.map fun p => clsCharge p.2.cls) + total (c.spilled.map fun p => clsCharge p.2.cls) +
  16 * (c.park.length + c.matcherIn.length + total (c.spilled.map fun p => p.2.held.length)) +
  32 * (c.spawnWait.length + c.splitQ.length)
def Mt.saveBytes (m : Mt) (high : Bool) : Nat :=
  (if m.inUse then 1024 else 0) + m.declEnd + total (m.queues.map fun p => if p.2.declared then (p.2.cap + 1) / 2 else 0) +
  (if high then 524288 else 0) + (if m.mode == 3 then 2703360 + 16 * m.readers.length else 0) + 32 * m.hallocQ.length

/-- The request is a firing that waits at a queue, a barrier cell or a wave-order unit. -/
def MReq.waitsThere (x : MReq) : Bool :=
  x.stage == .held || x.stage == .toUnit || (x.deferred && ((0xB0 ≤ x.op && x.op ≤ 0xB6) || x.op == 0xBA))

/-- SIZE (R367). [DESIGN CHOICE: log 51] -/
def Save.bytes (im : Save) : Nat :=
  let fx := total (im.regions.map fun p => (p.2.fx.filter fun x => x.2.alloc).length)
  let waits := total (im.regions.map fun p =>
      p.2.allocIn.length + p.2.allocQ.length + total (p.2.fx.map fun x => x.2.answers.length)) +
    (im.reqs.filter fun p => p.2.waitsThere).length + im.armed.length + im.load.marksWait.length
  4096 + 24 * fx + 128 * (im.load.faults.filter fun p => p.2.used).length + 32 * waits +
  let noded := ((im.elems.filter fun p => !p.2.nodes.isEmpty).map fun p => p.1 / 4).eraseDups
  total (im.elems.map fun p => p.2.saveBytes p.2.ring.on) +
  total (((noded ++ im.cts.map (·.1)).eraseDups).map fun q => (im.cts.look q).saveBytes (noded.contains q)) +
  total (im.mts.map fun p => p.2.saveBytes (im.high.contains p.1))

/-- The state of R367 is taken at the stop. [DESIGN CHOICE: log 51] [DEDUCED: log 52] -/
def State.saveNow (s : State) (d : Nat) (p : Preempt) : State :=
  let im := s.snapshot p.lid
  { s.modPm d fun p => { p with saving := true } with saves := s.saves.put p.pa.toNat { im with size := im.bytes } }

/-- No engine of the load's MTs, and no tile row, has accesses under way; the DMA queues are none of the load's state. [DEDUCED: log 52] -/
def State.enginesRest (s : State) (lid : Nat) : Bool := s.reqs.all fun p => p.2.lid != lid || !p.2.eng || 3 ≤ p.2.die

/-- PREEMPT_QUIESCED on die `a` (R365): the drained load is quiescent. [DEDUCED: log 52] -/
def execPreemptQuiesced (s : State) : Res :=
  let d := s.at_.a
  match (s.die d).pm with
  | none => .next s
  | some p =>
    if !p.begun || p.restore || p.grade != 0 || p.withdrawing || p.saving || !s.loadQuiet p.lid || !s.enginesRest p.lid then .next s
    else .next ((s.stopLoad p.lid).saveNow d p)

/-- R366 step 2 has ended: nothing of the load is on its way, no macro runs and no spill or restore is under way. -/
def State.withdrawn (s : State) (lid : Nat) : Bool :=
  (s.elems.all fun p => s.lidOf (p.1 / 4) != lid || (p.2.outStage.isEmpty && p.2.answers.isEmpty && p.2.run.isNone &&
    p.2.stage.all fun fl => 16 ≤ fl.link)) &&
  (s.cts.all fun p => s.lidOf p.1 != lid || ((p.2.spillRuns.all fun r => r.done) && p.2.restoring.isNone)) &&
  !(s.reqs.any fun p => p.2.lid == lid && !p.2.orphan && !p.2.dead &&
    ((s.onItsWay p.1 p.2 && p.2.stage != .toUnit) || p.2.stage == .posted)) && s.enginesRest lid && !s.travelling lid

/-- PREEMPT_WITHDRAWAL_END on die `a`. [DEDUCED: log 52] -/
def execPreemptWithdrawalEnd (s : State) : Res :=
  let d := s.at_.a
  match (s.die d).pm with
  | none => .next s
  | some p => if !p.withdrawing || p.saving || !s.withdrawn p.lid then .next s else .next (s.saveNow d p)

/-- PREEMPT_ESCALATE on die `a`: TOUT has passed. -/
def execPreemptEscalate (s : State) : Res :=
  let d := s.at_.a
  match (s.die d).pm with
  | none => .next s
  | some p =>
    if !p.begun || p.restore || p.grade == 1 || p.withdrawing || p.saving || p.tout = 0 || s.tick d < p.since + p.tout then .next s
    else .next ((s.setEsc d).parkBegins d p.lid)

/-- PMSTAT and PMCTL at the end of a save or restore. -/
def Die.pmEnds (x : Die) (size : Option Nat) : Die :=
  let st := (x.pmstat &&& 0x7FFFFFFFFFFFFFFF#64) ||| 0x4000000000000000#64
  { x with pm := none, pmctl := x.pmctl &&& 0x7FFFFFFFFFFFFFFF#64
           pmstat := match size with | some n => setField st 0 48 n | none => st }

/-- PREEMPT_SAVE_COMPLETE on die `a`: the spore-store parts are emptied. A victim gives up its clusters and re-enters the
launch queues that it was picked for (R364), once they have room; another load stands where it is. -/
def execPreemptSaveComplete (s : State) : Res :=
  let d := s.at_.a
  match (s.die d).pm with
  | none => .next s
  | some p =>
    if !p.saving || (p.policy && decide (256 ≤ (s.die p.queue).launchQ.length)) then .next s
    else
      let size := (s.saves.look p.pa.toNat).size
      let s1 := s.modDie d fun x => x.pmEnds (some size)
      let s2 := { s1 with spores := mapTbl s1.spores fun k x => if k / 4 == p.lid then { x with occ := 0 } else x }
      if !p.policy then .next (s2.modLoad p.lid fun l => { l with saved := true })
      else
        let ld := s2.load p.lid
        let s3 := (s2.discardLoad p.lid).modLoad p.lid fun l => { l with phase := .checked, regions := [], restore := some p.pa }
        .next (s3.enqueueLaunch p.queue p.lid ld.level (s.tick d))

/-! ### Restore (R370, R373, R374) -/

/-- Bytes of an MT from `lo` up to `hi` are cleared. -/
def State.clearMt (s : State) (q lo hi : Nat) : State := { s with mem := Tbl.clearRange s.mem (scratchPa q lo) (scratchPa q hi) }

/-- An element of a saved group: its records, quotas and NIN are those committed; the rest comes back, the four LUT
configurations included (R199). Tokens of its input stage come back to it. -/
def Elem.restored (now old : Elem) : Elem :=
  let keep := fun (t : Tbl (BitVec 32)) (u : Tbl (BitVec 32)) (used : List Nat) =>
    used.foldl (fun (t : Tbl (BitVec 32)) a => (List.range 1024).foldl (fun t i => t.put (a * 1024 + i) (u.look (a * 1024 + i))) t) t
  { old with
    nodes := now.nodes, quota := now.quota, nin := now.nin, stallOp := [], stallOut := [], held := {}, stop := false, run := none
    acc := keep now.acc old.acc old.accUsed
    back := (old.back ++ old.inStage).map fun fl => { fl with link := if fl.link < 21 then 7 else fl.link - 16 }, inStage := [] }

/-- The elements, CTs and MTs of the load. An element without nodes keeps its state where it stands only, in a square
that the load still has. -/
def State.restoreSquares (s : State) (im : Save) (r : Reloc) : State :=
  let rids := (s.load r.lid).regions
  let bare := im.elems.filter fun p => p.2.nodes.isEmpty && rids.contains (s.ridOf (p.1 / 4))
  let old := fun (e : Nat) (x : Elem) => r.elemState (regionElems (s.regionOf (r.elem e / 4))) x
  let s0 := bare.foldl (fun st p => st.modElem p.1 fun x => x.restored (old p.1 p.2)) s
  let s1 := (im.elems.filter fun p => !p.2.nodes.isEmpty).foldl (fun st p => st.modElem (r.elem p.1) fun x => x.restored (old p.1 p.2)) s0
  let s2 := im.cts.foldl (fun st p => st.modCt (r.sq p.1) fun _ => r.ct p.1 p.2) s1
  -- declared storage is that of the image
  let s3 := { s2 with mts := mapTbl s2.mts fun q m =>
      if rids.contains (s2.ridOf q) then
        { m with mode := 0, queues := [], pool := [], hallocQ := [], readers := [], streams := [], agWait := []
                 bufs := (mapTbl m.bufs fun _ d => setField 0 54 8 (dGen d)).filter fun p => p.2 != 0 } else m }
  let s4 := im.mts.foldl (fun st p =>
    let q := r.sq p.1
    let t := (st.modMt q fun _ => r.mt p.2).clearMt q 0 p.2.declEnd
    let t1 := if p.2.mode = 3 then t.clearMt q 0 mtBytes else if im.high.contains p.1 then t.clearMt q 2097152 mtBytes else t
    { t1 with high := if im.high.contains p.1 && !t1.high.contains q then t1.high ++ [q] else t1.high }) s3
  let s5 := { s4 with mem := im.mem.foldl (fun (t : List Host.Cell) c => Tbl.put t (r.pa c.1) c.2) s4.mem }
  im.mts.foldl (fun st p => st.relocEntries r (r.sq p.1)) s5

/-- The allocators, the account, the fault queue, and the requests that wait. -/
def State.restoreLoad (s : State) (im : Save) (r : Reloc) : State :=
  let s1 := im.regions.foldl (fun st p =>
    st.modRegion (((s.load r.lid).regions[p.1]?).getD 0) fun g =>
      { g with fx := mapTbl p.2.fx fun _ x => r.fx x, allocIn := p.2.allocIn.map r.areq, allocQ := p.2.allocQ.map r.areq
               srseed := p.2.srseed, idle := false, lastGrant := s.cyc (sqDie g.famt) }) s
  let s2 := s1.modLoad r.lid fun l =>
    { l with issued := im.load.issued, returned := im.load.returned, serial := im.load.serial, handlers := im.load.handlers
             faults := mapTbl im.load.faults fun _ x => r.record x, round := im.load.round
             marksWait := im.load.marksWait.map r.firing, wasQuiet := im.load.wasQuiet
             tiles := im.load.tiles.map fun t => { t with q := r.sq t.q, dest := t.dest.map r.dest }
             queues := im.load.queues.map r.queue, rings := im.load.rings, barriers := im.load.barriers.map r.cell
             extQueues := im.load.extQueues.map r.queue, entries := im.load.entries.map r.dest
             phase := .running, saved := false, restore := none }
  let rids := (s.load r.lid).regions
  let clusterAt := fun (c : WCtx) => match (c.held ++ c.chain).head? with
    | some id => clusterOf (r.elem (im.reqs.look id).f.elem / 4)
    | none => c.cluster
  { s2 with
    reqs := im.reqs.foldl (fun (t : Tbl MReq) p => t.put p.1 (r.req p.2)) (s2.reqs.filter fun p => p.2.lid != r.lid || p.2.orphan || p.2.dead || p.2.eng)
    wctx := im.wctx.foldl (fun (t : Tbl WCtx) p =>
      t.put (((rids[p.1 / 4096]?).getD 0) * 4096 + p.1 % 4096) { p.2 with cluster := clusterAt p.2 })
      (s2.wctx.filter fun p => !rids.contains (p.1 / 4096))
    armed := im.armed.foldl (fun (t : Tbl Nat) a => t.put (r.pa a) (r.lid + 1)) s2.armed
    mcg := im.mcg.foldl (fun (t : Tbl (BitVec 29)) p =>
      t.put (moved r.groups (p.1 / 64) * 64 + p.1 % 64) (p.2.extractLsb' 28 1 ++ r.dest (p.2.extractLsb' 0 28))) s2.mcg
    spores := mapTbl s2.spores fun k x =>
      if k / 4 == r.lid then
        { x with occ := total ((s2.cts.filter fun p => s2.lidOf p.1 == r.lid && sqDie p.1 == k % 4).map fun p =>
            total (p.2.spilled.map fun y => clsCharge y.2.cls) +
            total ((p.2.park.map fun y => y.fl.tok.fx.toNat).eraseDups.map fun fx => p.2.lineBytes fx)) }
      else x }

/-- R370 step 3: the park-buffer tokens go back to the input stages, but for those of frames with FLT = 1. -/
def State.unparkAll (s : State) (lid : Nat) : State :=
  (s.cts.filter fun p => s.lidOf p.1 == lid && !p.2.park.isEmpty).foldl (fun st p =>
    let q := p.1
    let rid := st.ridOf q
    let stays := fun (x : Parked) => st.faulted rid x.fl.tok.fx.toNat
    let back := (p.2.park.filter fun x => !stays x).map (·.fl)
    let gone := total (((p.2.park.filter fun x => !stays x).map fun x => x.fl.tok.fx.toNat).eraseDups.map p.2.lineBytes)
    ((st.modCt q fun c => { c with park := c.park.filter stays }).uncharge q gone).giveBack q 7 back) s

/-- Elements run, the sources open, and the frames that a fault parked stay parked (R26). -/
def State.resume (s : State) (lid : Nat) : State :=
  let rids := (s.load lid).regions
  let s1 := rids.foldl (fun st r => st.modRegion r fun x => { x with stopped := false, withdraw := false, closed := false }) s
  { s1 with elems := mapTbl s1.elems fun e x => if rids.contains (s1.ridOf (e / 4)) then { x with stop := false } else x
            cts := mapTbl s1.cts fun q c =>
              if rids.contains (s1.ridOf q) then
                { c with ftab := mapTbl c.ftab fun _ en => { en with pk := en.v && (s1.fxRec (s1.ridOf q) en.fx.toNat).parked } }
              else c }

/-- PREEMPT_RESTORE_COMPLETE on die `a`: every item of the image is back in place. -/
def execPreemptRestoreComplete (s : State) : Res :=
  let d := s.at_.a
  match (s.die d).pm with
  | none => .next s
  | some p =>
    if !p.begun || !p.restore then .next s
    else
      let im := s.saves.look p.pa.toNat
      let r := s.reloc im p.lid
      let s1 := (((s.restoreSquares im r).restoreLoad im r).unparkAll p.lid).resume p.lid
      .next (s1.pump.modDie d fun x => x.pmEnds none)

/-! ### Pre-emption for the launch queues (R364) -/

/-- `a` is a victim before `b`: the lower dispatch level, then the later dispatch. -/
def State.sooner (s : State) (a b : Nat) : Bool :=
  let x := s.load a
  let y := s.load b
  x.level < y.level || (x.level == y.level && (x.dispatched > y.dispatched || (x.dispatched == y.dispatched && a ≥ b)))
/-- Put a load at its place among victims. -/
def State.insertVictim (s : State) (l : List Nat) (a : Nat) : List Nat :=
  (l.filter fun b => s.sooner b a && b != a) ++ [a] ++ l.filter fun b => !(s.sooner b a)

/-- Loads that Igtex has picked already. [DEDUCED: log 50] -/
def State.owedSaves (s : State) : List Nat :=
  s.dies.flatMap fun d => ((d.2.pm.toList ++ d.2.pmWait).filter fun p => !p.restore).map (·.lid)

/-- The victims for the head of die `d`: the first set whose clusters let it be allocated. -/
def State.victims (s : State) (d : Nat) : List Nat :=
  let x := s.die d
  match x.head with
  | none => []
  | some h =>
    if !x.pmpol.getLsbD 63 || x.launchQ.length ≥ 256 || (s.fits s.clusterFree h.lid).isSome then []
    else
      let cands := ((s.loads.filter fun p => p.2.phase == .running && !p.2.saved && p.2.level < h.level &&
        p.2.regions.any fun r => (s.region r).clusters.any fun c => c / 48 == d).map (·.1)).foldl s.insertVictim []
      let freeBy := fun (l : List Nat) (c : Nat) => s.clusterFree c || (l.contains (s.region (s.clRid.look c)).load && s.clRid.look c != 0)
      match (List.range cands.length).find? fun k => (s.fits (freeBy (cands.take (k + 1))) h.lid).isSome with
      | some k => cands.take (k + 1)
      | none => []

/-- POLICY_PREEMPTION on die `a`: each victim is owed a save on its home die. [DEDUCED: log 50] -/
def execPolicyPreemption (s : State) : Res :=
  let d := s.at_.a
  let pol := (s.die d).pmpol
  .next (((s.victims d).filter fun l => !s.owedSaves.contains l).foldl (fun st l =>
    let ld := st.load l
    st.modDie (cmdField ld.cmd 6 1) fun x =>
      { x with pmWait := x.pmWait ++ [{ lid := l, rid := (ld.regions[0]?).getD 0, grade := fld pol.toNat 61 2,
                                        tout := fld pol.toNat 0 40, policy := true, queue := d }] }) s)

end Sys2Proof.Machine
end

