-- ==== Sys2Proof/Machine/Dma.lean ====
section
/-!
DEFINITION. The DMA queues of the I/O dies (R388 to R392): their registers, data tokens to the host ring, commands by
descriptor, Ethernet frames, and completions. A queue's key is side * 256 + number.
-/
namespace Sys2Proof.Machine

/-! ### Registers (R390) -/

def Dq.en (q : Dq) : Bool := q.ctl.getLsbD 63
def Dq.lid (q : Dq) : Nat := fld q.ctl.toNat 32 16
def Dq.ci (q : Dq) : Nat := fld q.ptr.toNat 32 32
def Dq.pi (q : Dq) : Nat := fld q.ptr.toNat 0 32
/-- Records of a ring, and the host address of its record `i`; HQ, HR and DQRING are laid out alike (R415). -/
def ringSize (ring : Word) : Nat := 2 ^ (fld ring.toNat 0 4 + 8)
def ringAddr (ring : Word) (bytes i : Nat) : Nat := fld ring.toNat 12 52 * 4096 + i % ringSize ring * bytes
/-- A written DQRING, HQBASE or HRBASE: RSZ 13 to 15 sets 12. -/
def ringValue (v : Word) : Word :=
  (v &&& 0xFFFFFFFFFFFFF000#64) ||| BitVec.ofNat 64 (min (fld v.toNat 0 4) 12)
/-- A written DQCTL: EN and LID; with EN 1, ERRN and PI become 0. -/
def Dq.writeCtl (q : Dq) (v : Word) : Dq :=
  let err : Word := if v.getLsbD 63 then q.ctl &&& 0x00000000FFFF0000#64 else q.ctl &&& 0x00000000FFFFFFFF#64
  { q with ctl := (v &&& 0x8000FFFF00000000#64) ||| err, ptr := if v.getLsbD 63 then setField q.ptr 0 32 0 else q.ptr }
def State.modDq (s : State) (k : Nat) (f : Dq → Dq) : State := { s with dq := s.dq.upd k f }

/-- DQPTR_CI_WRITE: the host writes CI of queue `k`. -/
def execDqptrCiWrite (k : Nat) (ci : BitVec 32) (s : State) : Res :=
  .next (s.modDq k fun q => { q with ptr := setField q.ptr 32 32 ci.toNat })
/-- DQCTL_WRITE of queue `k`. [DEDUCED: log 39] -/
def execDqctlWrite (k : Nat) (v : Word) (s : State) : Res := .next (s.modDq k fun q => q.writeCtl v)

/-- Write bytes to host memory. [DESIGN CHOICE: log 10] -/
def State.hostPut (s : State) (a : Nat) (b : List Byte) : State :=
  { s with hostMem := (b.zip (List.range b.length)).foldl (fun (t : List Host.Cell) p => Tbl.put t ((a + p.2) % 2 ^ 64) p.1) s.hostMem }
/-- Bytes that come from outside the package. [DESIGN CHOICE: log 10] -/
def State.outsideBytes (s : State) (n : Nat) : List Byte × State :=
  ((List.range n).map fun i => Config.freeByte (s.free + i), { s with free := s.free + n })

/-! ### Tokens at a queue (R388, R389) -/

/-- The endpoint of queue `k`. -/
def dqIo (k : Nat) : Nat := k / 256 * 2048 + k % 256
/-- A token that the queue does not take: EN 0, another load's, port 2 or 3, or not KIND 00. -/
def Dq.refuses (q : Dq) (fl : Flight) : Bool :=
  !q.en || q.lid != fl.lid % 65536 || 2 ≤ destPort fl.tok.dest || fl.tok.kind != 0#2
def State.dqDiscard (s : State) (k : Nat) (fl : Flight) : State :=
  (s.popIo (dqIo k)).raiseAway fl fkBOUNDS 3 (endpointPlace fl.tok)

/-- The record of R389. -/
def dqRecord (t : Token) (pi : Nat) : List Byte :=
  toBytes 8 t.val.toNat ++ [BitVec.ofNat 8 t.eod.toNat, t.seq, 0, 0] ++ toBytes 4 pi

/-- DMA_DATA_TOKEN at queue `a`: the head token is written as a record; a full ring holds it back. -/
def execDmaDataToken (s : State) : Res :=
  let k := s.at_.a
  let q := s.dq.look k
  match s.ioIn.look (dqIo k) with
  | [] => .next s
  | fl :: _ =>
    if q.cmd.isSome || destPort fl.tok.dest = 1 then .next s
    else if q.refuses fl then .next (s.dqDiscard k fl)
    else if (q.pi + 2 ^ 32 - q.ci) % 2 ^ 32 = ringSize q.ring then .next s
    else
      .next (((s.popIo (dqIo k)).hostPut (ringAddr q.ring 16 q.pi) (dqRecord fl.tok q.pi)).modDq k fun x =>
        { x with ptr := setField x.ptr 0 32 (q.pi + 1) })

/-! ### Commands (R391, R392) -/

def DmaCmd.f (c : DmaCmd) (off n : Nat) : Nat := u c.desc off n
def DmaCmd.op (c : DmaCmd) : Nat := c.f 0 1
def DmaCmd.sv (c : DmaCmd) : Bool := tbit (c.f 1 1) 1
def DmaCmd.len (c : DmaCmd) : Nat := c.f 4 4
def DmaCmd.haddr (c : DmaCmd) : Nat := c.f 8 8
def DmaCmd.va (c : DmaCmd) : Nat := c.f 0x10 8
def DmaCmd.ends (c : DmaCmd) (code : Nat) : DmaCmd := { c with fail := code, ended := true }

/-- A malformed descriptor. A sync word must be 16-aligned in [35:0]. [DEDUCED: log 37] -/
def DmaCmd.malformed (c : DmaCmd) : Bool :=
  !(1 ≤ c.op && c.op ≤ 4) || c.f 1 1 > 3 || c.f 2 2 != 0 || c.len = 0 || (c.op = 3 && !(60 ≤ c.len && c.len ≤ 9216)) ||
  (c.op ≥ 3 && c.haddr > 3) || (c.sv && (c.op = 2 || c.op = 3 || c.f 0x18 8 % 16 != 0 || c.f 0x18 8 ≥ 2 ^ 36)) ||
  fld (c.f 0x20 8) 48 16 != 0 || tbit (c.f 0x28 8) 63 || !(c.desc.drop 0x30).all (· == 0)

/-- The load's first region, read at user permission. -/
def State.dmaView (s : State) (lid : Nat) : Nat × State :=
  let rid := ((s.load lid).regions[0]?).getD 0
  (rid, s.modRegion rid fun r => { r with level := false })
/-- The physical address of an access of the load's space, of a kind that takes one; an I/O die keeps no translation entry. [DESIGN CHOICE: log 38] -/
def State.dmaPa (s : State) (lid va n : Nat) (a : Acc) : Option Nat :=
  let v := s.dmaView lid
  match (v.2.translate 256 v.1 (va % 2 ^ 56) a).2 with
  | .error _ => none
  | .ok pa => if isScratch pa && !(s.mt (scratchSq pa)).plainOk (scratchOff pa) n then none else some pa
/-- The accesses of a command for `n` bytes from `va` on set out from the I/O die, a write with its data; none where an
address has no translation. -/
def State.dmaAsk (s : State) (k lid va n : Nat) (data : Option (List Byte)) : Option (State × List Nat) :=
  let acc : Acc := { rd := data.isNone, wr := data.isSome }
  let l := (memWords (n + 1) va n).map fun p => (p.1, p.2, s.dmaPa lid p.1 p.2 acc)
  if l.any fun p => p.2.2.isNone then none
  else
    let first := s.serial + 1
    let req := fun (p : Nat × Nat × Option Nat) => ({
      op := if data.isSome then 0x93 else 0x92, rid := (s.dmaView lid).1, lid := lid, die := 3 + k / 256, cluster := 256,
      ea := p.1 % 2 ^ 56, size := p.2.1, eng := true, tgt := first, stage := .ready, pa := p.2.2, lo := va, len := n,
      data := data.toList.map fun b => BitVec.ofNat 64 (leBytes ((b.drop (p.1 - va)).take p.2.1)) } : MReq)
    let s1 := l.foldl (fun (st : State) p =>
      { st with serial := st.serial + 1, reqs := st.reqs.put (st.serial + 1) (req p) }) s
    some (s1.pump, (List.range l.length).map fun i => first + i)

/-- A code of R392 where the spec names none: a word that fails its check outside OP 2 and OP 3. [DEDUCED: log 37] -/
def State.freeCode (s : State) : Nat × State := (Config.pick s.free % 6 + 1, s.drawn)

/-- The port of the queue's die that an Ethernet command names is up. -/
def State.ethUp (s : State) (k : Nat) (c : DmaCmd) : Bool := s.eth.look (k / 256 * 4 + c.haddr) == 1
def State.modCmd (s : State) (k : Nat) (f : DmaCmd → DmaCmd) : State := s.modDq k fun q => { q with cmd := q.cmd.map f }

/-- The requests of a command set out, or it fails: with code 1 at its descriptor, with code 2 at its data. -/
def State.dmaGo (s : State) (k : Nat) (c : DmaCmd) (va n : Nat) (data : Option (List Byte)) : State :=
  match s.dmaAsk k c.lid va n data with
  | none => s.modDq k fun q => { q with cmd := some (c.ends (if c.desc.isEmpty then 1 else 2)) }
  | some (s1, l) => s1.modDq k fun q => { q with cmd := some { c with reqs := l } }

/-- A command begins: its descriptor is fetched (R388, R391). -/
def State.dmaFetch (s : State) (k : Nat) (fl : Flight) : State :=
  let c : DmaCmd := { lid := fl.lid }
  if fl.tok.val.toNat % 64 != 0 then (s.popIo (dqIo k)).modDq k fun q => { q with cmd := some (c.ends 1) }
  else (s.popIo (dqIo k)).dmaGo k c fl.tok.val.toNat 64 none

/-- The next bytes of a command in one 64-byte line. [DESIGN CHOICE: log 38] -/
def DmaCmd.piece (c : DmaCmd) : Nat := min (64 - (c.va + c.moved) % 64) (c.total - c.moved)

/-- The requests of a command have come back with the bytes `b`: its descriptor, the bytes read for OP 2 and OP 3, or the
confirmations of a write, which is then counted (R325, R391). -/
def State.dmaTook (s : State) (k : Nat) (c : DmaCmd) (b : List Byte) : State :=
  let n := c.piece
  let on := fun (c : DmaCmd) => { c with moved := c.moved + n }
  if c.desc.isEmpty then
    s.modCmd k fun c =>
      let c1 := { c with desc := b }
      if c1.malformed then c1.ends 1 else { c1 with total := c1.len }
  else
    match c.op with
    | 2 => (s.hostPut (c.haddr + c.moved) b).modCmd k on
    | 3 => s.modCmd k fun c => on { c with frame := c.frame ++ b }
    | _ => (if c.sv then s.countSync (c.f 0x18 8) n c.lid (3 + k / 256) else s).modCmd k on
/-- They have come back with a fault (R392). -/
def State.dmaBad (s : State) (k : Nat) (c : DmaCmd) (kind word : Nat) : State :=
  if kind = fkECCUE then
    let s1 := s.noteUe word
    if !c.desc.isEmpty && (c.op = 2 || c.op = 3) then s1.modCmd k fun c => c.ends 4
    else let r := s1.freeCode; r.2.modCmd k fun c => c.ends r.1
  else s.modCmd k fun c => c.ends (if c.desc.isEmpty then 1 else 2)
/-- Take up the requests of a command. -/
def State.dmaPoll (s : State) (k : Nat) (c : DmaCmd) : State :=
  let s1 := (s.engDrop c.reqs).modCmd k fun c => { c with reqs := [] }
  match s.engPoll c.reqs with
  | .wait => s
  | .bad kind _ word _ => s1.dmaBad k c kind word
  | .ok b => s1.dmaTook k c b

/-- The next frame on the port, of an open length, is here. [DESIGN CHOICE: log 40] -/
def State.frameIn (s : State) (k : Nat) (c : DmaCmd) : State :=
  let n := 60 + Config.pick s.free % 9157
  let r := s.drawn.outsideBytes n
  r.2.modCmd k fun x => { x with frame := r.1, total := min n c.len, cut := decide (c.len < n) }

/-- One step of a command that has not ended. [DESIGN CHOICE: log 38] -/
def State.dmaMove (s : State) (k : Nat) (c : DmaCmd) : State :=
  let chance := Config.chance s.free
  if !c.reqs.isEmpty then s.dmaPoll k c
  else if c.sv && (s.syncFault (s.dmaView c.lid).1 (c.f 0x18 8)).isSome then s.modCmd k fun c => c.ends 1
  else if c.op ≥ 3 && !s.ethUp k c then s.modCmd k fun c => c.ends 6
  else
    match c.op with
    | 1 =>
      if c.moved = c.total then s.modCmd k fun c => { c with ended := true }
      else if chance then s.drawn.modCmd k fun c => c.ends 3
      else let r := s.drawn.outsideBytes c.piece; r.2.dmaGo k c (c.va + c.moved) c.piece (some r.1)
    | 2 =>
      if c.moved = c.total then s.modCmd k fun c => { c with ended := true }
      else if chance then s.drawn.modCmd k fun c => c.ends 3
      else s.drawn.dmaGo k c (c.va + c.moved) c.piece none
    | 3 =>
      if c.moved = c.total then
        { s with ethOut := s.ethOut ++ [(k / 256 * 4 + c.haddr, c.frame)] }.modCmd k fun c => { c with ended := true }
      else s.dmaGo k c (c.va + c.moved) c.piece none
    | _ =>
      if c.frame.isEmpty then (if chance then s.drawn.frameIn k c else s.drawn)
      else if c.moved = c.total then s.modCmd k fun c => { c.ends (if c.cut then 5 else 0) with ended := true }
      else s.dmaGo k c (c.va + c.moved) c.piece (some ((c.frame.drop c.moved).take c.piece))

/-- DMA_COMMAND_TOKEN at queue `a`: the head token begins a command, or the command under way takes up its requests or moves
its next bytes. [DEDUCED: log 37] -/
def execDmaCommandToken (s : State) : Res :=
  let k := s.at_.a
  let q := s.dq.look k
  match q.cmd, s.ioIn.look (dqIo k) with
  | some c, _ => .next (if c.ended then s else s.dmaMove k c)
  | none, [] => .next s
  | none, fl :: _ =>
    if destPort fl.tok.dest != 1 then .next s
    else if q.refuses fl then .next (s.dqDiscard k fl)
    else if (s.load fl.lid).regions.isEmpty && (s.load fl.lid).phase != .ended then .next s
    else .next (s.dmaFetch k fl)

/-- VALUE of a completion. -/
def DmaCmd.value (c : DmaCmd) : Word :=
  if c.fail != 0 then BitVec.ofNat 64 (2 ^ 63 + c.moved * 2 ^ 16 + c.fail)
  else if c.op = 4 then BitVec.ofNat 64 (c.total + fld (c.f 0x28 8) 32 32 * 2 ^ 32)
  else BitVec.ofNat 64 (c.f 0x28 8)

/-- DMA_COMMAND_COMPLETE at queue `a`: the completion goes out if CV asks for one, and a failure is recorded in ERRC
and ERRN. [DEDUCED: log 37] -/
def execDmaCommandComplete (s : State) : Res :=
  let k := s.at_.a
  match (s.dq.look k).cmd with
  | none => .next s
  | some c =>
    if !c.ended then .next s
    else
      let s1 := s.modDq k fun q =>
        { q with cmd := none
                 ctl := if c.fail = 0 then q.ctl
                        else setField (setField q.ctl 16 16 c.fail) 0 16 (min (fld q.ctl.toNat 0 16 + 1) 0xFFFF) }
      if tbit (c.f 1 1) 0 && (s.load c.lid).phase != .ended then
        .next (s1.sendIo (k / 256) c.lid { notifyToken (c.f 0x20 8) 0 0 0 with val := c.value })
      else .next s1

/-- ETHERNET_LINK_CHANGE of port `port`, side * 4 + number (R392, R425). -/
def execEthernetLinkChange (port : Nat) (up : Bool) (s : State) : Res :=
  .next { s with eth := s.eth.put port up.toNat }

end Sys2Proof.Machine
end

