-- ==== Sys2Proof/Machine/ScaleUp.lean ====
section
/-!
DEFINITION. Scale-up (R405 to R409): ports, the route of an `xsend`, and the delivery of a token under its ingress
registration. IOW holds ports 0 to 71, IOE 72 to 143.
-/
namespace Sys2Proof.Machine

/-- A port's link goes down: what stands on it is lost. -/
def State.portOff (s : State) (p : Nat) : State :=
  let of := fun (c : Nat × Chan) => c.1 / 64 == portLink p
  { s with links := s.links.upd (portLink p) fun k => { k with active := [] }
           lostMsgs := s.lostMsgs ++ msgIds (s.chans.filter of), chans := s.chans.filter fun c => !of c }
/-- A port's link comes up, and the package sends its PKG and port number over it (R405, R406). [DESIGN CHOICE: log 86] -/
def State.portOn (s : State) (p : Nat) : State :=
  let s1 := s.portOff p
  { s1 with links := s1.links.put (portLink p) { built := 1, active := [0] } }.onLink (portLink p) 0
    { cls := .mgmt, head := msgHead 8 3 p (portDie p) 5 0 0 0, data := toBytes 2 s.pkgid ++ toBytes 1 p, dst := 5 }

/-- SCALEUP_LINK_UP: the two ends have exchanged PKG and port number. While PKGID is 0xFFFF every port stays down. -/
def execScaleupLinkUp (port : Nat) (pkg : BitVec 16) (peer : BitVec 8) (s : State) : Res :=
  .next (if s.pkgid = 0xFFFF || port ≥ 144 || !s.running (portDie port) then s
         else ({ s with ports := s.ports.put port { status := 1, pkg := pkg, peer := peer } } : State).portOn port)

/-- SCALEUP_PORT_DOWN: the partner is lost, or the port has failed. -/
def execScaleupPortDown (port : Nat) (failed : Bool) (s : State) : Res :=
  .next (({ s with ports := s.ports.upd port fun p => { p with status := if failed then 2 else 0 } } : State).portOff port)

/-- A port serves: it is up, and its I/O die runs (R405). -/
def State.portServes (s : State) (p : Nat) : Bool := p < 144 && (s.ports.look p).status == 1 && s.running (portDie p)
/-- A token leaves on a port's link, and the number by which its sender knows it; none when it has no permit (R401, R405). -/
def State.sendPort (s : State) (p : Nat) (fl : Flight) : Option (State × Nat) :=
  let n := s.serial + 1
  let m : Msg := { fl := fl, dst := 5, id := n }
  let c := s.chans.look (chanKey (portLink p) 0 0)
  if s.portServes p && permitOk (c.q.foldl (fun t x => x.charge t) c.used) m.code 1 then
    some (({ s with serial := n } : State).onLink (portLink p) 0 m, n)
  else none
/-- The answer to a token over a port's link: STAT 0 an ACK, 2 a refusal; direction 0 leaves the package. [DESIGN CHOICE: log 47] -/
def State.portAnswer (s : State) (p dir rqid stat : Nat) : State × Nat :=
  let n := s.serial + 1
  (({ s with serial := n } : State).onLink (portLink p) dir
    { cls := .ack, head := ackWord rqid stat 2, dst := dirTo (portLink p) dir, id := n }, n)

/-- An XRT entry is valid for a package and an ingress. -/
def xrtHits (w : Word) (pkg ing : Nat) : Bool :=
  w.getLsbD 63 && fld w.toNat 24 2 != 0 && fld w.toNat 40 16 == pkg && fld w.toNat 32 8 == ing
/-- The port that an entry gives for a route tag. -/
def xrtPort (w : Word) (ing rt : Nat) : Nat := fld w.toNat (8 * ((ing + rt) % fld w.toNat 24 2)) 8

/-- The token that a port sends for an `xsend`: KIND 00 to DIE 3, class 001, endpoint ING (R409); which I/O die its address names is
open. [DESIGN CHOICE: log 47] -/
def State.xsendTok (s : State) (r : MReq) (ing rt : Nat) : Token :=
  { kind := 0, dest := BitVec.ofNat 28 (3 * 2 ^ 26 + Config.pick s.free % 2 * 2 ^ 25 + 2 ^ 22 + ing * 2 ^ 14),
    rt := BitVec.ofNat 2 rt, val := r.f.t0.val, eod := r.f.t0.eod, seq := r.f.t0.seq }

/-- XSEND_ROUTE of request `a`: the token leaves on the entry's port, through the other I/O die where that lies there. Once it has
crossed, the remote I/O die accepts it, refuses it, or does not answer; its ACK or refusal comes back over the link. Tokens of one
node leave in order. A pair that the table does not hold raises BOUNDS. [DESIGN CHOICE: log 47] -/
def execXsendRoute (s : State) : Res :=
  let id := s.at_.a
  let r := s.reqs.look id
  let io := r.io.getD 3
  let v := s.view r.f.key
  let w := (r.data[0]?.getD 0).toNat
  let pkg := fld w 0 16
  let ing := fld w 16 8
  let rt := fld w 24 2
  if r.op != 0xBF || r.stage != .sent || !s.reached r ||
      (!r.issued && s.reqs.any fun p => p.1 < id && p.2.op == 0xBF && p.2.stage == .sent && !p.2.issued && p.2.f.key == r.f.key) then .next s
  else
    match (List.range 1024).find? fun i => xrtHits (s.xrt.look i) pkg ing with
    | none => .next (s.replyFails id fkBOUNDS (if v.hdr.litp then 3 else 1))
    | some i =>
      let p := xrtPort (s.xrt.look i) ing rt
      if !r.issued && portDie p != io then
        let (s1, n) := s.post io (portDie p) { cls := .mreq, head := msgHead r.mop 16 id io (portDie p) 0 0 0, data := r.bytes }
        .next { s1 with reqs := s1.reqs.upd id fun r => { r with io := some (portDie p), via := n } }
      else if !r.issued then
        let fl : Flight := { tok := s.xsendTok r ing rt, src := r.f.key, lid := r.lid }
        match s.drawn.sendPort p fl with
        | none => .next s
        | some (s1, n) =>
          .next { s1 with portOut := s1.portOut ++ [(p, fl)]
                          reqs := s1.reqs.upd id fun r => { r with issued := true, via := n } }
      else
        match r.words with
        | [] =>
          match Config.pick s.free % 3 with
          | 2 => .next s.drawn
          | k =>
            let (s1, n) := s.drawn.portAnswer p 1 id (2 * k)
            .next { s1 with reqs := s1.reqs.upd id fun r => { r with via := n, words := [BitVec.ofNat 64 k] } }
        | k :: _ => .next (if k = 0 then s.replyVal id (BitVec.ofNat 64 w) else s.replyFails id fkBOUNDS 3)

/-- A token for ingress `n` is delivered under its registration, from I/O die `side`; without one it goes no further. [DESIGN CHOICE: log 42] -/
def State.ingress (s : State) (side n : Nat) (val : Word) (eod : BitVec 3) (seq : BitVec 8) (rt : BitVec 2) : State :=
  let g := s.ing.look n
  let t : Token := { dest := g.dest, fx := g.fx, path := g.path, rt := rt, val := val, eod := eod, seq := seq }
  if g.v then { s with ioOut := s.ioOut.upd side fun l => l ++ [{ tok := addressed g.dest t, src := ingressSrc side, lid := g.lid }] }
  else s

/-- INGRESS_DELIVERY: of a token that has come over the link of scale-up port `b`, which is answered with an ACK, or with a refusal
where the ingress is not registered; or, with `a` = k + 1, of the head token of endpoint `k` of class 001, which a graph of this
package has sent. [DESIGN CHOICE: log 47] -/
def execIngressDelivery (ing : Nat) (val : Word) (eod : BitVec 3) (seq : BitVec 8) (rt : BitVec 2) (s : State) : Res :=
  match s.at_.a with
  | 0 =>
    let p := s.at_.b
    let n := ing % 256
    if !s.portServes p then .next s
    else .next ((s.drawn.ingress (portDie p - 3) n val eod seq rt).portAnswer p 0 (Config.pick s.free) (if (s.ing.look n).v then 0 else 2)).1
  | k + 1 =>
    match s.ioIn.look k with
    | [] => .next s
    | fl :: _ =>
      if k / 256 % 8 != 1 then .next s
      else .next ((s.popIo k).ingress (k / 2048) (k % 256) fl.tok.val fl.tok.eod fl.tok.seq fl.tok.rt)

end Sys2Proof.Machine
end

