-- ==== Sys2Proof/Machine/Regs.lean ====
section
/-!
DEFINITION. The device registers of R417 by number, die and instance, their reads and writes, the host's BAR0 (R415), and
XINV (R322).
-/
namespace Sys2Proof.Machine

/-! ### XINV (R322) -/

def xinvGo (w : Word) : Bool := w.getLsbD 63
def xinvAllBit (w : Word) : Bool := w.getLsbD 62
def xinvRid (w : Word) : Nat := fld w.toNat 46 16
/-- The page's address. -/
def xinvVa (w : Word) : Nat := fld w.toNat 0 40 * 2 ^ 16

/-- The write names this translation entry. [DEDUCED: log 46] -/
def xinvHits (w : Word) (t : Tlb) : Bool := t.rid == xinvRid w && (xinvAllBit w || t.page == xinvVa w / 2 ^ t.bits)
def keepTlb (w : Word) (t : Option Tlb) : Option Tlb := t.filter fun t => !xinvHits w t

/-- The entries that a write names leave the shared sets and the streams of die `d`. -/
def State.xinvClear (s : State) (d : Nat) (w : Word) : State :=
  let left := mapTbl s.tlb fun c l => if c / 48 == d then l.filter fun t => !xinvHits w t else l
  { s with
    tlb := left.filter fun p => !(left.look p.1).isEmpty
    mts := mapTbl s.mts fun q m =>
      if sqDie q != d then m
      else { m with streams := mapTbl m.streams fun _ x => { x with tlb := keepTlb w x.tlb }
                    queues := mapTbl m.queues fun _ x => { x with copy := x.copy.map fun c => { c with tlb := keepTlb w c.tlb } } } }

/-- What the completion waits for: an access of the die in the region that stands translated and has not performed, or a walk, in
the 1 GiB of the page, since no page is larger; and the stores acknowledged before the write of GO that have not performed. [DEDUCED: log 46] -/
def State.xinvPending (s : State) (d : Nat) (w : Word) : Bool :=
  let near := fun va => xinvAllBit w || va / 2 ^ 30 == xinvVa w / 2 ^ 30
  (s.reqs.any fun p => p.2.die == d && p.2.rid == xinvRid w && !p.2.atObject && p.2.pa.isSome && !p.2.deferred && near p.2.ea &&
    (p.2.stage == .ready || p.2.stage == .sent || (p.2.stage == .posted && !p.2.performed))) ||
  (s.walks.any fun p => p.2.cluster / 48 == d && p.2.rid == xinvRid w && near p.2.va && !p.2.orphan) ||
  s.reqs.any fun p => (s.die d).xinvAfter.contains p.1 && p.2.stage == .posted && !p.2.performed

/-- A write of XINV on die `d`; ignored while GO is 1. -/
def State.xinvWrite (s : State) (d : Nat) (v : Word) : State :=
  if xinvGo (s.die d).xinv then s
  else
    let w := v &&& 0xFFFFC0FFFFFFFFFF#64
    let s1 := s.modDie d fun x => { x with xinv := w, xinvAfter := if xinvGo v then s.egress.flatMap (·.2) else [] }
    if xinvGo v then s1.xinvClear d w else s1

/-- XINV_PAGE. -/
def execXinvPage (d : Nat) (v : Word) (s : State) : Res := .next (if xinvGo v && !xinvAllBit v then s.xinvWrite d v else s)
/-- XINV_ALL. -/
def execXinvAll (d : Nat) (v : Word) (s : State) : Res := .next (if xinvGo v && xinvAllBit v then s.xinvWrite d v else s)
/-- XINV_COMPLETE on die `a`. [DEDUCED: log 46] -/
def execXinvComplete (s : State) : Res :=
  let d := s.at_.a
  let w := (s.die d).xinv
  if !xinvGo w || s.xinvPending d w then .next s
  else .next ((s.xinvClear d w).modDie d fun x => { x with xinv := x.xinv &&& 0x7FFFFFFFFFFFFFFF#64, xinvAfter := [] })

/-! ### Reads and writes (R417) -/

/-- The register has this number on die `d`, with this instance. [DEDUCED: log 41] -/
def regThere (num d inst : Nat) : Bool :=
  let one := inst == 0
  match num with
  | 0x01 | 0x02 | 0x03 | 0x06 | 0x07 => one && d < 5
  | 0x04 | 0x05 => d < 3
  | 0x08 | 0x09 | 0x0A | 0x0B | 0x0C | 0x0D | 0x0E | 0x0F => one && d < 3
  | 0x10 | 0x11 | 0x12 | 0x14 => (d == 3 || d == 4) && inst < 256
  | 0x13 => (d == 3 || d == 4) && inst < 1024
  | 0x15 | 0x17 | 0x18 => one && d == 3
  | 0x16 => inst < (linksOf d).length
  | _ => false

/-- The queue key of a DMA queue on an I/O die. -/
def dqKey (d inst : Nat) : Nat := (d - 3) * 256 + inst

/-- LQSTAT0 and LQSTAT1 (R332). -/
def Die.lqstat (x : Die) (high : Bool) : Word :=
  BitVec.ofNat 64 ((List.range 4).foldl (fun n i => n + x.atLevel (i + if high then 4 else 0) * 2 ^ (16 * i)) 0)

/-- MPLSTAT of a link at one of its dies (R403). -/
def State.mplstat (s : State) (d l : Nat) : Word :=
  let k := s.links.look l
  let first := (linkDies l).1 == d
  BitVec.ofNat 64 (k.active.length * 2 ^ 48 + k.built % 2 ^ 8 * 2 ^ 40 + k.rate % 256 * 2 ^ 32 +
    (if first then k.retry0 else k.retry1) % 2 ^ 16 * 2 ^ 16 + (if first then k.disc0 else k.disc1) % 2 ^ 16)

/-- The spore-store part of a region's load on a die (R323). -/
def State.sporeOf (s : State) (d rid : Nat) : Spore := s.spores.look ((s.region rid).load * 4 + d)

/-- The value of a register that is there. INGTAB's layout is not given: its word is open. [DESIGN CHOICE: log 42] -/
def State.regGet (s : State) (d num inst : Nat) : Word :=
  let x := s.die d
  match num with
  | 0x01 => x.reqto
  | 0x02 => x.reqlate
  | 0x03 => x.xinv
  | 0x04 => (s.sporeOf d inst).cfg
  | 0x05 => BitVec.ofNat 64 ((s.sporeOf d inst).occ % 2 ^ 40)
  | 0x06 => x.ecccnt
  | 0x07 => x.ecclast
  | 0x08 => x.ageq
  | 0x09 => x.lqstat false
  | 0x0A => x.lqstat true
  | 0x0B => x.dlkt
  | 0x0C => x.pmctl
  | 0x0D => x.pmsave
  | 0x0E => x.pmstat
  | 0x0F => x.pmpol
  | 0x10 => (s.dq.look (dqKey d inst)).ring
  | 0x11 => (s.dq.look (dqKey d inst)).ptr
  | 0x12 => (s.dq.look (dqKey d inst)).ctl
  | 0x13 => s.xrt.look inst
  | 0x14 => Config.freeWord s.free
  | 0x15 => BitVec.ofNat 64 s.pkgid
  | 0x16 => s.mplstat d (((linksOf d)[inst]?).getD 0)
  | 0x17 => BitVec.ofNat 64 s.jhead
  | 0x18 => BitVec.ofNat 64 s.jtail
  | _ => 0

/-- Registers every field of which is RO. -/
def regRo (num : Nat) : Bool := [0x04, 0x05, 0x09, 0x0A, 0x14, 0x17, 0x18].contains num

/-- A written value below the floor takes the floor (R300, R332, R358). -/
def floored (v mask : Word) (lo : Nat) : Word := BitVec.ofNat 64 (max lo (v &&& mask).toNat)

/-- RETRY and DISC of a link's end. -/
def Link.setStat (k : Link) (first : Bool) (v : Word) : Link :=
  if first then { k with retry0 := fld v.toNat 16 16, disc0 := fld v.toNat 0 16 }
  else { k with retry1 := fld v.toNat 16 16, disc1 := fld v.toNat 0 16 }

/-- GRADE of PMPOL after a write: 11 is ignored (R364). -/
def pmpolGrade (old v : Word) : Word := (if fld v.toNat 61 2 = 3 then old else v) &&& 0x6000000000000000#64

/-- A write of PKGID; 0xFFFF takes every port down (R406). -/
def State.pkgWrite (s : State) (n : Nat) : State :=
  if n = 0xFFFF then
    (List.range 144).foldl (fun st p => st.portOff p)
      { s with pkgid := n, ports := mapTbl s.ports fun _ p => { p with status := if p.status = 1 then 0 else p.status } }
  else { s with pkgid := n }

/-- A write, by the access codes of the register's fields (R8). -/
def State.regSet (s : State) (d num inst : Nat) (v : Word) : State :=
  let die := fun f => s.modDie d f
  match num with
  | 0x01 => die fun x => { x with reqto := floored v 0xFFFFFFFFFF#64 4096 }
  | 0x02 => die fun x => { x with reqlate := v &&& 0xFFFFFFFF#64 }
  | 0x03 => s.xinvWrite d v
  | 0x06 => die fun x => { x with ecccnt := v }
  | 0x07 => die fun x => { x with ecclast := x.ecclast &&& (~~~(v &&& 0x8000000000000000#64)) }
  | 0x08 => die fun x => { x with ageq := floored v 0xFFFFFFFFFF#64 1024 }
  | 0x0B => die fun x => { x with dlkt := floored v 0xFFFFFFFF#64 1024 }
  | 0x0C => s.pmWrite d v false
  | 0x0D => die fun x => { x with pmsave := v &&& 0x000FFFFFFFFFF000#64 }
  | 0x0E => die fun x => { x with pmstat := x.pmstat &&& (~~~(v &&& 0x7800000000000000#64)) }
  | 0x0F => die fun x => { x with pmpol := (v &&& 0x800000FFFFFFFFFF#64) ||| pmpolGrade x.pmpol v }
  | 0x10 => s.modDq (dqKey d inst) fun q => { q with ring := ringValue v }
  | 0x11 => s.modDq (dqKey d inst) fun q => { q with ptr := setField q.ptr 32 32 (fld v.toNat 32 32) }
  | 0x12 => s.modDq (dqKey d inst) fun q => q.writeCtl v
  | 0x13 => { s with xrt := s.xrt.put inst (v &&& 0x80FFFFFF03FFFFFF#64) }
  | 0x15 => s.pkgWrite (fld v.toNat 0 16)
  | 0x16 =>
    let l := ((linksOf d)[inst]?).getD 0
    { s with links := s.links.upd l fun k => k.setStat ((linkDies l).1 == d) v }
  | _ => s

/-! ### BAR0 (R415) -/

/-- The HID of a requester ID at an I/O die (0 IOW, 1 IOE), once it has one. -/
def State.hidOf (s : State) (side req : Nat) : Option Nat := ((s.requesters.look side).idxOf? req).map (side * 8 + ·)
/-- An access of a requester to BAR0: its first gives it the next host index, if one of the eight is left. -/
def State.requester (s : State) (side req : Nat) : State :=
  let l := s.requesters.look side
  if l.contains req || 8 ≤ l.length then s
  else { s with requesters := s.requesters.put side (l ++ [req]),
                hosts := s.hosts.upd (side * 8 + l.length) fun h => { h with known := true } }
/-- BAR0 of an I/O die answers: IOW and IOE running or in their loaders (R418, R428). -/
def State.barServes (s : State) (side : Nat) : Bool := if side = 0 then s.ownServes else s.ioeForwards

/-- What a read of BAR0 finds, when its requester has been admitted (R415). -/
def State.barWord (s : State) (side req off : Nat) : Word :=
  match s.hidOf side req with
  | none => if off = 0x120 then 0xFFFF#64 else 0
  | some hid =>
    let h := s.hosts.look hid
    match off with
    | 0x000 => h.hqbase
    | 0x008 => h.hqptr
    | 0x010 => h.hrbase
    | 0x018 => h.hrptr
    | 0x110 => s.ownstat
    | 0x118 => s.ownlease
    | 0x120 => BitVec.ofNat 64 hid
    | _ => 0
/-- A read of BAR0: the state after it and the word read. -/
def State.barRead (s : State) (side req off : Nat) : State × Word :=
  if 2 ≤ side || !s.barServes side then (s, 0) else (s.requester side req, (s.requester side req).barWord side req off)

/-- A write to the rings of a host, or to the ownership registers, through BAR0 offset `off` of an I/O die; the first access
gives a requester its host index. A requester without one is ignored, and so is the rest of BAR0. -/
def State.barWrite (s : State) (side req off : Nat) (v : Word) : Res :=
  let s1 := if 2 ≤ side || !s.barServes side then s else s.requester side req
  match if 2 ≤ side || !s.barServes side then none else s1.hidOf side req with
  | none => .next s1
  | some hid =>
    let host := fun (f : HostSt → HostSt) => Host.Outcome.next { s1 with hosts := s1.hosts.upd hid f }
    match off with
    | 0x000 => host fun h => { h with hqbase := ringValue v }
    | 0x008 => host fun h => { h with hqptr := setField h.hqptr 0 32 (fld v.toNat 0 32) }
    | 0x010 => host fun h => { h with hrbase := ringValue v }
    | 0x018 => host fun h => { h with hrptr := setField h.hrptr 32 32 (fld v.toNat 32 32) }
    | 0x100 => execOwnClaim hid v s1
    | 0x108 =>
      let e := v.extractLsb' 0 32
      match fld v.toNat 62 2 with
      | 0 => execOwnRenew hid e s1
      | 1 => execOwnOffer hid (v.extractLsb' 32 16) e s1
      | 2 => execOwnAccept hid e s1
      | _ => execOwnRelease hid e s1
    | _ => .next s1

/-- REGISTER_WRITE: Igtex writes register `num` of die `d`; 0x1000 and above are BAR0 offsets of I/O die `d`, which the
requester ID `inst` writes. -/
def execRegisterWrite (d num inst : Nat) (v : Word) (s : State) : Res :=
  if 0x1000 ≤ num then (if d = 3 ∨ d = 4 then s.barWrite (d - 3) inst (num - 0x1000) v else .next s)
  else if !regThere num d inst || regRo num then .next s
  else .next (s.regSet d num inst v)

end Sys2Proof.Machine
end

