-- ==== Sys2Proof/Machine/Host.lean ====
section
/-!
DEFINITION. The host's requests: the rings (R415, R416), the endpoints and who may use them (R417, R420, R428), and what each
OP does (R417, R423, R425, R430, R431, R433, R434).
-/
namespace Sys2Proof.Machine

/-! ### Requests and replies (R416) -/

/-- The reply ring of a host is full. -/
def HostSt.full (h : HostSt) : Bool :=
  (fld h.hrptr.toNat 0 32 + 2 ^ 32 - fld h.hrptr.toNat 32 32) % 2 ^ 32 == ringSize h.hrbase

/-- A reply is written: the record, PI, and vector 0 (R414). -/
def State.putReply (s : State) (c : HostCtx) (ep status : Nat) (data : List Byte) : State :=
  let h := s.hosts.look c.hid
  let pi := fld h.hrptr.toNat 0 32
  let rec_ := toBytes 1 c.die ++ toBytes 1 ep ++ toBytes 2 status ++ toBytes 4 c.tag.toNat ++ (data ++ List.replicate 56 0).take 56
  let s1 := s.hostPut (ringAddr h.hrbase 64 pi) rec_
  { s1 with hosts := s1.hosts.upd c.hid fun h => { h.signal 0 with hrptr := setField h.hrptr 0 32 (pi + 1) } }

/-- The I/O die of a host. -/
def hostDie (hid : Nat) : Nat := 3 + hid / 8
/-- The reply of a die sets out to the host's I/O die, which writes it (R416). -/
def State.reply (s : State) (c : HostCtx) (ep status : Nat) (data : List Byte) : State :=
  let (s1, n) := s.postMgmt c.die (hostDie c.hid) ep
  if n = 0 then s.putReply c ep status data
  else { s1 with mgmt := s1.mgmt ++ [{ hid := c.hid, die := c.die, ep := ep, tag := c.tag, via := n, answer := some (status, data) }] }

/-- What an OP comes to: the state, the status, and DATA. -/
structure Done where
  s : State
  status : Nat := 0
  data : List Byte := []

/-- The request that this OP answers: the first pending one of its host, die, endpoint and OP. -/
def State.pending (s : State) (c : HostCtx) (ep op : Nat) : Option Nat :=
  s.mgmt.findIdx? fun r => r.hid == c.hid && r.die == c.die && r.ep == ep && r.op == op && r.answer.isNone
/-- It leaves the pending ones. -/
def State.unpend (s : State) (c : HostCtx) (ep op : Nat) : State :=
  match s.pending c ep op with
  | some i => { s with mgmt := s.mgmt.eraseIdx i }
  | none => s
/-- It has not reached its die yet. -/
def State.underway (s : State) (c : HostCtx) (ep op : Nat) : Bool :=
  match s.pending c ep op with
  | some i => s.crossing ((s.mgmt[i]?.getD {}).via)
  | none => false

/-- The endpoint is answered by the die as it stands (R417, R425, R428): DISC always, IMG by IOW in its loader, LAUNCH by
the I/O dies. -/
def State.answers (s : State) (d ep : Nat) : Bool :=
  if s.boot.look d = 6 then ep != 1 || d ≥ 3 else ep == 0 || (ep == 4 && d == 3)

/-- A die that is off or on its way up answers nothing yet but DISC; a full reply ring holds the request back. -/
def State.waits (s : State) (c : HostCtx) (ep : Nat) : Bool :=
  (s.hosts.look c.hid).full || s.boot.look c.die = 0 || (s.boot.look c.die < 6 && ep != 0)

/-- Perform an OP for a host and reply; `owned` marks one that only the owner may use. [DEDUCED: log 43] -/
def State.hostOp (s : State) (c : HostCtx) (ep op : Nat) (owned : Bool) (f : State → Done) : State :=
  if c.die ≥ 5 || !hidOk c.hid || s.waits c ep || s.underway c ep op then s
  else
    let s1 := s.unpend c ep op
    if !s.answers c.die ep then s1.reply c ep 1 []
    else if owned && !s.isOwner c.hid then s1.reply c ep 2 []
    else
      let r := f s1
      r.s.reply c ep r.status r.data

/-- DISC_READ (R425). -/
def execDiscRead (c : HostCtx) (off : Nat) (s : State) : Res :=
  .next (s.hostOp c 0 0 false fun t => { s := t, data := ((t.topology c.die).drop (off % 2 ^ 16)).take 56 })

/-- LAUNCH_CMD (R417, R329). -/
def execLaunchCmd (c : HostCtx) (cmd : List Byte) (s : State) : Res :=
  .next (s.hostOp c 1 1 true fun t =>
    match t.accept c.hid ((cmd ++ List.replicate 56 0).take 56 ++ List.replicate 8 0) with
    | some (u, seq) => { s := u, data := toBytes 8 seq }
    | none => { s := t, status := 4 })

/-- The bytes of a journal entry (R422); a reply holds the first 56. -/
def JEntry.bytes (j : JEntry) (seq : Nat) : List Byte :=
  toBytes 8 seq ++ toBytes 8 j.tick ++ toBytes 2 j.hid ++ toBytes 2 j.cmd ++ toBytes 2 j.state ++ toBytes 2 j.code ++
    toBytes 8 j.arg ++ (j.digest ++ List.replicate 16 0).take 16 ++ (j.aux ++ List.replicate 16 0).take 16

/-- JRN_ENTRY. [DEDUCED: log 41] -/
def execJrnEntry (c : HostCtx) (seq : Nat) (s : State) : Res :=
  .next (s.hostOp c 2 0 false fun t =>
    if t.jtail ≤ seq && seq < t.jhead then { s := t, data := ((t.journal.look seq).bytes seq).take 56 } else { s := t, status := 3 })
/-- JRN_PTRS (R423). -/
def execJrnPtrs (c : HostCtx) (s : State) : Res :=
  .next (s.hostOp c 2 1 false fun t => { s := t, data := toBytes 8 t.jhead ++ toBytes 8 t.jtail })

/-- REG_READ (R417). [DEDUCED: log 41] -/
def execRegRead (c : HostCtx) (num inst : Nat) (s : State) : Res :=
  .next (s.hostOp c 3 0 false fun t =>
    if num = 0 || 0x19 ≤ num then { s := t, status := 1 }
    else if !regThere num c.die inst then { s := t, status := 3 }
    else { s := if num = 0x14 then t.drawn else t, data := toBytes 8 (t.regGet c.die num inst).toNat })
/-- REG_WRITE (R417, R363). [DEDUCED: log 41] -/
def execRegWrite (c : HostCtx) (num inst : Nat) (v : Word) (s : State) : Res :=
  .next (s.hostOp c 3 1 true fun t =>
    if num = 0 || 0x19 ≤ num then { s := t, status := 1 }
    else if !regThere num c.die inst || regRo num then { s := t, status := 3 }
    else if num = 0x0C && (t.die c.die).busy then { s := t, status := 4 }
    else { s := t.regSet c.die num inst v })

/-! ### IMG (R430, R433, R434) -/

/-- IMG_WRITE. -/
def execImgWrite (c : HostCtx) (off len : Nat) (data : List Byte) (s : State) : Res :=
  .next (s.hostOp c 4 0 true fun t =>
    if len = 0 || 48 < len || flashBytes < off + len then { s := t, status := 3 }
    else
      let b := (data ++ List.replicate 48 0).take len
      { s := { t with flash := (b.zip (List.range len)).foldl (fun (f : List Host.Cell) p => Tbl.put f (off + p.2) p.1) t.flash } })
/-- IMG_COMMIT: when the image is accepted, every die in its loader boots from step 2. [DEDUCED: log 43] -/
def execImgCommit (c : HostCtx) (s : State) : Res :=
  .next (s.hostOp c 4 1 true fun t =>
    if t.fwAccepted c.die then { s := { t with boot := mapTbl t.boot fun _ b => if b = 7 then 2 else b }, data := [1] } else { s := t })
/-- IMG_ERASE. [DESIGN CHOICE: log 9] -/
def execImgErase (c : HostCtx) (s : State) : Res := .next (s.hostOp c 4 2 true fun t => { s := { t with flash := [] } })
/-- IMG_PSTAT. -/
def execImgPstat (c : HostCtx) (s : State) : Res :=
  .next (s.hostOp c 4 3 false fun t => { s := t, data := toBytes 8 t.pwrstat.toNat })
/-- IMG_PMODE. -/
def execImgPmode (c : HostCtx) (mode : Nat) (s : State) : Res :=
  .next (s.hostOp c 4 4 true fun t =>
    if 2 < mode then { s := t, status := 3 }
    else { s := { t with power := { t.power with next := some (mode, t.tick 3 + 100000) } } })

/-! ### ATT (R431) -/

/-- A signature of SLH-DSA-SHA2-128s has 7,856 bytes. [DESIGN CHOICE: log 33] [DEDUCED: log 44] -/
def signature (d : Nat) (b : List Byte) : List Byte := (Config.signs d b ++ List.replicate 7856 0).take 7856
/-- The fields of a quote, in the order of R431. [DEDUCED: log 44] -/
def State.quote (s : State) (d : Nat) (nonce : List Byte) : List Byte :=
  let f := s.fw.look d
  (nonce ++ List.replicate 32 0).take 32 ++ toBytes 1 d ++ toBytes 8 f.ver.toNat ++ toBytes 4 f.svn ++
    (f.digest ++ List.replicate 32 0).take 32 ++ sha256 (s.topoHead d)
/-- Bytes go to the host's buffer of 8,192, and the reply counts them. [DEDUCED: log 44] -/
def attest (t : State) (addr : Word) (b : List Byte) : Done :=
  { s := t.hostPut addr.toNat (b.take 8192), data := toBytes 2 (min b.length 8192) }
/-- ATT_QUOTE. -/
def execAttQuote (c : HostCtx) (nonce : List Byte) (addr : Word) (s : State) : Res :=
  .next (s.hostOp c 5 0 false fun t =>
    let b := t.quote c.die nonce
    attest t addr (b ++ signature c.die b))
/-- ATT_CERT. -/
def execAttCert (c : HostCtx) (addr : Word) (s : State) : Res :=
  .next (s.hostOp c 5 1 false fun t => attest t addr (Config.certificate c.die))

/-! ### HOST_REQUEST (R416) -/

/-- The event that answers a pending request, if one does. -/
def HReq.event (r : HReq) : Option Instr :=
  let c : HostCtx := { hid := r.hid, tag := r.tag, die := r.die }
  let a := fun off n => u r.arg off n
  let w := fun off => BitVec.ofNat 64 (a off 8)
  match r.ep, r.op with
  | 0, 0 => some (.discRead c (a 0 2))
  | 1, 1 => some (.launchCmd c r.arg)
  | 2, 0 => some (.jrnEntry c (a 0 8))
  | 2, 1 => some (.jrnPtrs c)
  | 3, 0 => some (.regRead c (a 0 2) (a 2 2))
  | 3, 1 => some (.regWrite c (a 0 2) (a 2 2) (w 8))
  | 4, 0 => some (.imgWrite c (a 0 4) (a 4 2) (r.arg.drop 8))
  | 4, 1 => some (.imgCommit c)
  | 4, 2 => some (.imgErase c)
  | 4, 3 => some (.imgPstat c)
  | 4, 4 => some (.imgPmode c (a 0 1))
  | 5, 0 => some (.attQuote c (r.arg.take 32) (w 32))
  | 5, 1 => some (.attCert c (w 0))
  | _, _ => none

/-- The write to the ownership registers that IOE has forwarded (R418). -/
def HReq.ownEvent (r : HReq) : Instr :=
  let e := BitVec.ofNat 32 (u r.arg 0 4)
  match r.op with
  | 0 => .ownClaim r.hid (BitVec.ofNat 64 (u r.arg 0 8))
  | 1 => .ownRenew r.hid e
  | 2 => .ownOffer r.hid (BitVec.ofNat 16 (u r.arg 4 2)) e
  | 3 => .ownAccept r.hid e
  | _ => .ownRelease r.hid e

/-- A record of a request ring. -/
def hreqOf (hid : Nat) (b : List Byte) : HReq :=
  { hid := hid, die := u b 0 1, ep := u b 1 1, op := u b 2 2, tag := BitVec.ofNat 32 (u b 4 4), arg := (b.drop 8).take 56 }

/-- No earlier request of the host to the same die and endpoint is pending before position `i`, nor an earlier reply. -/
def State.firstPending (s : State) (i : Nat) (r : HReq) : Bool :=
  !((s.mgmt.take i).any fun x => x.hid == r.hid && x.die == r.die && x.ep == r.ep && x.answer.isSome == r.answer.isSome)

/-- A request taken from a ring sets out to its die as MGMT (R416); one that names no die stays. -/
def State.sendHreq (s : State) (r : HReq) : State :=
  if r.die < 5 then
    let (s1, n) := s.postMgmt (hostDie r.hid) r.die r.ep
    { s1 with mgmt := s1.mgmt ++ [{ r with via := n }] }
  else { s with mgmt := s.mgmt ++ [r] }

/-- HOST_REQUEST of host `a`: with `b` = 0 the next record of its request ring is taken; with `b` = k + 1 the reply `k` that
has come back is written, or the pending request `k`, which names no die, endpoint or OP, is answered with status 1. -/
def execHostRequest (s : State) : Res :=
  let hid := s.at_.a
  let h := s.hosts.look hid
  let ci := fld h.hqptr.toNat 32 32
  match s.at_.b with
  | 0 =>
    if !hidOk hid || ci = fld h.hqptr.toNat 0 32 || s.boot.look (hostDie hid) < 6 then .next s
    else
      let b := s.outsideBytes 64
      let s1 := { b.2 with hosts := b.2.hosts.upd hid fun h => { h with hqptr := setField h.hqptr 32 32 (ci + 1) } }
      .next (s1.sendHreq (hreqOf hid b.1))
  | k + 1 =>
    match s.mgmt[k]? with
    | none => .next s
    | some r =>
      let c : HostCtx := { hid := r.hid, tag := r.tag, die := r.die }
      let s1 := { s with mgmt := s.mgmt.eraseIdx k }
      if r.ep = 256 || !hidOk r.hid || (s.hosts.look r.hid).full || !s.firstPending k r || s.crossing r.via then .next s
      else
        match r.answer with
        | some (status, data) => .next (s1.putReply c r.ep status data)
        | none =>
          if 5 ≤ r.die then .next (s1.putReply c r.ep 1 [])
          else .next (if r.event.isSome then s else s1.reply c r.ep 1 [])

end Sys2Proof.Machine
end

