-- ==== Sys2Proof/Machine/Enabled.lean ====
section
/-!
DEFINITION. The steps that a state offers: everything that stands somewhere and may move on, and what the outside world may
do. Which of them comes next is open (R23, R454), and `Config.pick` chooses. A step that cannot be made yet leaves the state
as it is.
-/
namespace Sys2Proof.Machine

/-- An event at a place. -/
def ev (i : Instr) (a : Nat) : Work := .event i a 0 0
def ev2 (i : Instr) (a b : Nat) : Work := .event i a b 0

/-- The route tags of tokens in a queue. -/
def rts (l : List Flight) : List Nat := (l.map fun fl => fl.tok.rt.toNat).eraseDups

/-- Steps at an element. -/
def enabledElem (e : Nat) (x : Elem) : List Work :=
  (if x.readyQ.isEmpty && !x.ring.on then [] else [.issue e]) ++
  (List.range x.outStage.length).map (fun i => .event .routerHop (e / 4) (8 + e % 4) i) ++
  (List.range x.stage.length).flatMap (fun i => [ev2 .tokenArrival e i, ev2 .markerArrival e i, ev2 .sxwldWeightToken e i]) ++
  (if x.answers.isEmpty then [] else [ev .externalAnswerReturn e]) ++
  (if x.rpt.isNone then [] else [ev .rptCopy e]) ++
  (if x.macroQ.isEmpty then [] else [ev .macroStart e]) ++
  (if x.run.isNone && x.macroDone.isNone then [] else [ev .macroBoundary e, ev .macroComplete e]) ++
  (if x.held == {} then [] else [ev .holdCountExpiry e])

/-- Steps at a compute tile. -/
def enabledCt (q : Nat) (c : Ct) : List Work :=
  (c.spillRuns.filter fun r => !r.done).map (fun r => ev2 .spillComplete q r.base) ++
  (if c.restoring.isNone then [] else [ev .restoreComplete q]) ++
  (if c.matcherIn.isEmpty then [] else [ev .spillMatcherToken q]) ++
  (if c.spilledFx.isEmpty && c.restoreQ.isEmpty && c.spawnWait.isEmpty then [] else [ev .restoreStartSpontaneous q])

/-- Steps at a memory tile. -/
def enabledMt (q : Nat) (m : Mt) : List Work :=
  (m.streams.map (·.1)).flatMap (fun u => [ev2 .agElement q u, ev2 .agStreamComplete q u]) ++
  ((m.queues.filter fun p => p.2.tmpl.isSome).map fun p => q * 4 + p.1).flatMap
    (fun k => [ev .copyTrigger k, ev .copyElements k, ev .copyComplete k]) ++
  m.conv.map (fun p => ev .converterTransfer (q * 8 + p.1))

/-- Steps at a region's allocator and configuration. -/
def enabledRegion (rid : Nat) (r : Region) : List Work :=
  (if r.allocIn.isEmpty then [] else [ev .allocRequest rid]) ++
  (if r.allocQ.isEmpty then [] else [ev .allocGrant rid, ev .framedryDetect rid]) ++
  (r.fx.filter fun p => p.2.releasing).flatMap (fun p =>
    ev2 .releaseComplete rid p.1 :: p.2.waitCt.map fun q => .event .releaseNotice rid p.1 q) ++
  (if r.commit.isNone then [] else [ev .cfgCommitFlip rid])

/-- Steps of a memory request or object operation. -/
def enabledReq (id : Nat) (r : MReq) : List Work :=
  ev .requestTimeout id ::
  match r.stage with
  | .toUnit => [ev .waveRequestArrival id]
  | .sent =>
    if r.op == 0xCA then [ev .homeAccess id, ev .frread id, ev .qbar id, ev .xreg id]
    else if r.op == 0xBF then [ev .xsendRoute id] else [ev .homeAccess id]
  | .posted => [ev .homeAccess id, ev .egressConfirm id]
  | .reply => [ev .memoryReply id]
  | _ => []

/-- Steps of a load. -/
def enabledLoad (lid : Nat) (l : Load) : List Work :=
  match l.phase with
  | .accepted => [ev .launchCheck lid]
  | .dispatched => [ev .launchPlace lid]
  | .placed => (List.range (l.regions.length + 1)).map (ev2 .launchLoad lid)
  | .loaded => [ev .launchStart lid]
  | .running => ev .starvedDetect lid :: (if l.handlers.isEmpty then [] else [ev .handlerTokenSend lid])
  | _ => []

/-- The event by which Igtex writes PMCTL for a save or restore, or goes on with one. -/
def pmWork (d : Nat) (p : Preempt) : Work :=
  ev (if p.restore then .preemptRestore d p.word
      else match p.grade with | 0 => .preemptDrain d p.word | 1 => .preemptPark d p.word | _ => .preemptParkAtCut d p.word) 0
/-- Steps of a compute die. -/
def enabledDie (d : Nat) (x : Die) : List Work :=
  (match x.pm with
   | some p => [pmWork d p, ev .preemptQuiesced d, ev .preemptWithdrawalEnd d, ev .preemptSaveComplete d, ev .preemptEscalate d,
                ev .preemptRestoreComplete d]
   | none => (x.pmWait.take 1).map (pmWork d)) ++
  (if x.launchQ.isEmpty then [] else [ev .launchDispatch d, ev .policyPreemption d]) ++
  x.launchQ.map (fun r => ev2 .launchAging d r.lid) ++ (if xinvGo x.xinv then [ev .xinvComplete d] else [])

/-- A frame arrives on a channel, right or in error; an active channel sends without a pause (R397). [DESIGN CHOICE: log 12] -/
def State.frameEvent (s : State) (c : Nat) : Work :=
  ev (.mplFrameReceive c (if Config.chance s.free then Config.pick (s.free + 1) % 4097 + 1 else 0)) 0
/-- Steps of the links. -/
def State.enabledLinks (s : State) : List Work :=
  s.rin.flatMap (fun p => [.event .routerHop (p.1 / 32) (p.1 / 4 % 8) (p.1 % 4), .event .queueDestinationAppend (p.1 / 32) (p.1 / 4 % 8) (p.1 % 4)]) ++
  s.srcQ.flatMap (fun p => (rts p.2).map fun rt => .event .routerHop p.1 12 rt) ++
  s.links.flatMap (fun p => p.2.active.flatMap fun m => [s.frameEvent (chanKey p.1 0 m), s.frameEvent (chanKey p.1 1 m)]) ++
  s.chans.flatMap (fun p =>
    (if p.2.fails < 8 then [] else [ev .channelRemove p.1]) ++
    ((p.2.rx.map Msg.code).eraseDups).flatMap fun k => [.event .routerHop p.1 13 k, ev2 .bridgeForward p.1 k]) ++
  s.ioOut.flatMap (fun p => (rts p.2).map fun rt => .event .routerHop p.1 14 rt)

/-- Igtex releases a DMA queue of an ended load, once no token of it is on its way (R388). [DEDUCED: log 39] -/
def State.dqRelease (s : State) (k : Nat) (q : Dq) : List Work :=
  let mine := fun lid => lid % 65536 == q.lid
  let on := fun (l : List Flight) => l.any fun fl => mine fl.lid
  let live := s.loads.any fun p => mine p.1 && p.2.phase != .ended
  let ended := s.loads.any fun p => mine p.1 && p.2.phase == .ended
  let way := (s.rin.any fun p => on p.2) || (s.srcQ.any fun p => on p.2) || (s.ioOut.any fun p => on p.2) ||
    (s.ioIn.any fun p => on p.2) || s.chans.any fun p => on p.2.tokens
  if q.en && ended && !live && !way && q.cmd.isNone then [ev (.dqctlWrite k (q.ctl &&& 0x7FFFFFFFFFFFFFFF#64)) 0] else []
/-- The head token of an endpoint, by the endpoint's class. -/
def endpointEvent (k : Nat) (l : List Flight) : List Work :=
  match l, k / 256 % 8 with
  | [], _ => []
  | _ :: _, 0 => [ev .dmaDataToken (k / 2048 * 256 + k % 256), ev .dmaCommandToken (k / 2048 * 256 + k % 256)]
  | fl :: _, 1 => [ev (.ingressDelivery (k % 256) fl.tok.val fl.tok.eod fl.tok.seq fl.tok.rt) (k + 1)]
  | _ :: _, _ => [ev .launchToken k]
/-- Steps of the I/O dies and the hosts. -/
def State.enabledIo (s : State) : List Work :=
  s.ioIn.flatMap (fun p => endpointEvent p.1 p.2) ++
  s.dq.flatMap (fun p => (if p.2.cmd.isNone then [] else [ev .dmaCommandToken p.1, ev .dmaCommandComplete p.1]) ++ s.dqRelease p.1 p.2) ++
  s.hosts.map (fun p => ev2 .hostRequest p.1 0) ++
  ((List.range s.mgmt.length).zip s.mgmt).flatMap (fun p =>
    if p.2.ep = 256 then [.event p.2.ownEvent 0 (p.1 + 1) 0]
    else if !s.firstPending p.1 p.2 then []
    else match if p.2.answer.isSome then none else p.2.event with
      | some i => if p.2.die < 5 then [ev i 0] else [ev2 .hostRequest p.2.hid (p.1 + 1)]
      | none => [ev2 .hostRequest p.2.hid (p.1 + 1)]) ++
  (if s.own.st = 1 then [ev .electionWindowEnd 0] else []) ++ (if s.own.st ≥ 2 then [ev .leaseLapse 0] else []) ++
  (if s.power.next.isSome then [ev .modeChangeEffect 0] else [])

/-- Steps of bring-up, and a patrol read. -/
def State.enabledBoot (s : State) : List Work :=
  (if s.boot.look 3 = 0 then [ev .powerOn 0] else []) ++
  s.boot.flatMap (fun p => if p.2 = 2 then [ev .bootVerify p.1] else if p.2 = 5 then [ev .bootScrub p.1] else []) ++
  (s.ecc.filter fun p => p.2 != 0).map (fun p => ev .scrubWord p.1)

/-- What the outside world does by itself: hosts at BAR0, other packages, wires, power and sensors; and Igtex when it
changes translations (R322). [DESIGN CHOICE: log 6] -/
def outside (i : Instr) : Bool :=
  match i with
  | .dqptrCiWrite .. | .ingressDelivery .. | .linkTraining .. | .scaleupLinkUp .. | .scaleupPortDown .. | .ownClaim .. |
    .ownRenew .. | .ownOffer .. | .ownAccept .. | .ownRelease .. | .xinvPage .. | .xinvAll .. | .dieRestart .. |
    .diePowerOff .. | .balancedWindowEnd .. | .thermalThrottle .. | .thermalUnthrottle .. | .thermalShutdown .. |
    .thermalRestart .. | .ethernetLinkChange .. => true
  | .registerWrite _ num _ _ => decide (0x1000 ≤ num)
  | _ => false
def State.enabledOutside (s : State) : List Work :=
  (match Config.input s.free with
   | some i => if outside i then [.event i 0 (match i with | .ingressDelivery .. => Config.pick (s.free + 2) % 144 | _ => 0) 0] else []
   | none => []) ++
  (match Config.hostStore s.free with
   | some (pa, b) => [.hostStore pa b]
   | none => []) ++
  (match Config.hostRead s.free with
   | some (pa, n) => [.hostRead pa n]
   | none => []) ++
  match Config.barRead s.free with
  | some (side, req, off) => [.barRead side req off]
  | none => []

/-- Every step that the state offers. A cycle can always pass. [DESIGN CHOICE: log 2] -/
def enabled (s : State) : List Work :=
  ev .stallCounterCycle 0 ::
  (s.elems.flatMap (fun p => enabledElem p.1 p.2) ++ s.cts.flatMap (fun p => enabledCt p.1 p.2) ++
   s.mts.flatMap (fun p => enabledMt p.1 p.2) ++ s.regions.flatMap (fun p => enabledRegion p.1 p.2) ++
   s.reqs.flatMap (fun p => enabledReq p.1 p.2) ++ s.loads.flatMap (fun p => enabledLoad p.1 p.2) ++
   s.dies.flatMap (fun p => enabledDie p.1 p.2) ++
   s.walks.flatMap (fun p => [ev .walkReadReturn p.1, ev2 .requestTimeout p.1 1]) ++
   (List.range s.syncIn.length).map (ev .syncCountArrival) ++ s.probes.map (fun p => ev .probeHop p.1) ++
   s.enabledLinks ++ s.enabledIo ++ s.enabledBoot ++ s.enabledOutside)

/-- The step chosen among those offered: the only one, or an open choice. [DESIGN CHOICE: log 2] -/
def choose (s : State) (l : List Work) : Option Work × State :=
  match l with
  | [] => (none, s)
  | [w] => (some w, s)
  | _ => (l[Config.pick s.free % l.length]?, s.drawn)

end Sys2Proof.Machine
end

