-- ==== Sys2Proof/Machine/Integer.lean ====
section
/-!
DEFINITION. Groups 0x2 and 0x3: integer arithmetic (R160 to R166) and bit operations (R167 to R173).
-/
namespace Sys2Proof.Machine

/-- Each lane of a two-operand integer instruction: the exact value `g a b`, fitted to the lane (R161). -/
def intLanes2 (v : RecView) (sat : Bool) (a b : Word) (g : Nat → Int → Int → Int) : Word × Flags :=
  let t := v.tyN
  let w := tyW t
  let sg := tySigned t
  mkLanesF (tyN t) w fun i =>
    fitInt sat sg w (g w (laneInt sg w (lane w a i)) (laneInt sg w (lane w b i)))

/-- Each lane of a one-operand integer instruction. -/
def intLanes1 (v : RecView) (sat : Bool) (a : Word) (g : Int → Int) : Word × Flags :=
  let t := v.tyN
  let w := tyW t
  let sg := tySigned t
  mkLanesF (tyN t) w fun i => fitInt sat sg w (g (laneInt sg w (lane w a i)))

def execAdd (r : D2) (s : State) : Res :=
  let v := r.view 0x20
  finish1 s v (intLanes2 v v.sat s.opA (s.opB v) fun _ a b => a + b)
def execSub (r : D2) (s : State) : Res :=
  let v := r.view 0x21
  finish1 s v (intLanes2 v v.sat s.opA (s.opB v) fun _ a b => a - b)
def execMul (r : D2) (s : State) : Res :=
  let v := r.view 0x22
  finish1 s v (intLanes2 v v.sat s.opA (s.opB v) fun _ a b => a * b)
/-- The high w bits of the 2w-bit product: floor(a b / 2^w). -/
def execMulh (r : D2) (s : State) : Res :=
  let v := r.view 0x23
  finish1 s v (intLanes2 v false s.opA (s.opB v) fun w a b => Int.fdiv (a * b) (2 ^ w))

/-- The lanes whose divisor is zero, as a mask (R162, R356). -/
def zeroLanes (v : RecView) (b : Word) : Nat :=
  let t := v.tyN
  (List.range (tyN t)).foldl (fun m i => if lane (tyW t) b i = 0 then m + 2 ^ i else m) 0

/-- R162: `div` and `rem` share the check for a zero divisor. -/
def divRem (s : State) (v : RecView) (g : Int → Int → Int) : Res :=
  if !v.zdiv && zeroLanes v (s.opB v) != 0 then fails s v fkDIVZ (zeroLanes v (s.opB v))
  else finish1 s v (intLanes2 v false s.opA (s.opB v) fun _ a b => if b = 0 then 0 else g a b)

def execDiv (r : D2) (s : State) : Res := divRem s (r.view 0x24) fun a b => Int.tdiv a b
def execRem (r : D2) (s : State) : Res := divRem s (r.view 0x25) fun a b => Int.tmod a b
def execMin (r : D2) (s : State) : Res :=
  let v := r.view 0x26
  finish1 s v (intLanes2 v false s.opA (s.opB v) fun _ a b => min a b)
def execMax (r : D2) (s : State) : Res :=
  let v := r.view 0x27
  finish1 s v (intLanes2 v false s.opA (s.opB v) fun _ a b => max a b)
def execAbs (r : D2) (s : State) : Res :=
  let v := r.view 0x28
  finish1 s v (intLanes1 v v.sat s.opA fun a => (a.natAbs : Int))
def execNeg (r : D2) (s : State) : Res :=
  let v := r.view 0x29
  finish1 s v (intLanes1 v v.sat s.opA fun a => -a)
def execAddsat (r : D2) (s : State) : Res :=
  let v := r.view 0x2A
  finish1 s v (intLanes2 v true s.opA (s.opB v) fun _ a b => a + b)
def execSubsat (r : D2) (s : State) : Res :=
  let v := r.view 0x2B
  finish1 s v (intLanes2 v true s.opA (s.opB v) fun _ a b => a - b)
/-- floor((a + b + 1) / 2), always in range. -/
def execAvg (r : D2) (s : State) : Res :=
  let v := r.view 0x2C
  finish1 s v (intLanes2 v false s.opA (s.opB v) fun _ a b => Int.fdiv (a + b + 1) 2)
/-- R164: all ones where COND holds. -/
def execCmp (r : D2) (s : State) : Res :=
  let v := r.view 0x2D
  finish1 s v (intLanes2 v false s.opA (s.opB v) fun _ a b => if condHolds v.opfN (ordInt a b) then -1 else 0)

/-- R165: the bounds are applied lower first; SAT records a change. -/
def clampLane (x lo hi : Int) : Int :=
  let y := if x < lo then lo else x
  if y > hi then hi else y
def execClamp (r : D2) (s : State) : Res :=
  let v := r.view 0x2E
  let t := v.tyN
  let w := tyW t
  let sg := tySigned t
  finish1 s v (mkLanesF (tyN t) w fun i =>
    let x := laneInt sg w (lane w s.opA i)
    let y := clampLane x (laneInt sg w (lane w (s.opB v) i)) (laneInt sg w (lane w s.opC i))
    ((y % (2 ^ w : Int)).toNat, if v.sat && y != x then fSAT else 0))

/-- R166: half of the lanes, each of twice the width. -/
def widenFrom (v : RecView) (a : Word) (first : Nat) : Word × Flags :=
  let t := v.tyN
  let w := tyW t
  (mkLanes (tyN t / 2) (2 * w) fun i =>
    (laneInt (tySigned t) w (lane w a (first + i)) % (2 ^ (2 * w) : Int)).toNat, 0)
def execWiden (r : D2) (s : State) : Res :=
  let v := r.view 0x2F
  finish2 s v (widenFrom v s.opA 0) (widenFrom v s.opA (tyN v.tyN / 2))

/-! ### Group 0x3 -/

/-- R157: TY 0xD writes [63:32] as 0. -/
def keep32 (t : Nat) (x : Word) : Word := if t = 13 then x &&& 0xFFFFFFFF#64 else x

def execAnd (r : D2) (s : State) : Res :=
  let v := r.view 0x30
  finish1 s v (keep32 v.tyN (s.opA &&& s.opB v), 0)
def execOr (r : D2) (s : State) : Res :=
  let v := r.view 0x31
  finish1 s v (keep32 v.tyN (s.opA ||| s.opB v), 0)
def execXor (r : D2) (s : State) : Res :=
  let v := r.view 0x32
  finish1 s v (keep32 v.tyN (s.opA ^^^ s.opB v), 0)
def execAndn (r : D2) (s : State) : Res :=
  let v := r.view 0x33
  finish1 s v (keep32 v.tyN (s.opA &&& ~~~(s.opB v)), 0)
def execNot (r : D2) (s : State) : Res :=
  let v := r.view 0x34
  finish1 s v (keep32 v.tyN (~~~s.opA), 0)

/-- Each lane of `a` with the lane of `b`, as unsigned numbers of `w` bits. -/
def bitLanes (v : RecView) (a b : Word) (g : Nat → Nat → Nat → Nat) : Word × Flags :=
  let w := tyW v.tyN
  (mkLanes (tyN v.tyN) w fun i => g w (lane w a i) (lane w b i), 0)

def shlLane (w a c : Nat) : Nat := a * 2 ^ (c % w) % 2 ^ w
def shrLane (w a c : Nat) : Nat := a / 2 ^ (c % w)
def sraLane (w a c : Nat) : Nat := (laneInt true w a / 2 ^ (c % w) % (2 ^ w : Int)).toNat
def rotlLane (w a c : Nat) : Nat := a * 2 ^ (c % w) % 2 ^ w + a / 2 ^ (w - c % w)
/-- Zero bits above the highest one bit of `x` among `w`. -/
def clzLane (w x : Nat) : Nat := if x = 0 then w else w - 1 - Nat.log2 x
/-- Zero bits below the lowest one bit of `x` among `w`. -/
def ctzLane (w x : Nat) : Nat :=
  match w with
  | 0 => 0
  | n + 1 => if x % 2 = 1 then 0 else ctzLane n (x / 2) + 1

def execShl (r : D2) (s : State) : Res := let v := r.view 0x35; finish1 s v (bitLanes v s.opA (s.opB v) shlLane)
def execShr (r : D2) (s : State) : Res := let v := r.view 0x36; finish1 s v (bitLanes v s.opA (s.opB v) shrLane)
def execSra (r : D2) (s : State) : Res := let v := r.view 0x37; finish1 s v (bitLanes v s.opA (s.opB v) sraLane)
def execRotl (r : D2) (s : State) : Res := let v := r.view 0x38; finish1 s v (bitLanes v s.opA (s.opB v) rotlLane)
def execClz (r : D2) (s : State) : Res := let v := r.view 0x39; finish1 s v (bitLanes v s.opA 0 fun w a _ => clzLane w a)
def execCtz (r : D2) (s : State) : Res := let v := r.view 0x3A; finish1 s v (bitLanes v s.opA 0 fun w a _ => ctzLane w a)
def execPopc (r : D2) (s : State) : Res :=
  let v := r.view 0x3B
  finish1 s v (bitLanes v s.opA 0 fun w a _ => popcount w a)

/-- R170: pos and k = min(len, w - pos) of a control lane. -/
def fieldPos (w c : Nat) : Nat := c % w
def fieldLen (w c : Nat) : Nat := min (c / w % w + 1) (w - c % w)
def bextLane (sgn : Bool) (w a c : Nat) : Nat :=
  let k := fieldLen w c
  let f := a / 2 ^ fieldPos w c % 2 ^ k
  (laneInt sgn k f % (2 ^ w : Int)).toNat
def binsLane (w a c x : Nat) : Nat :=
  let p := fieldPos w c
  let k := fieldLen w c
  a - a / 2 ^ p % 2 ^ k * 2 ^ p + x % 2 ^ k * 2 ^ p

def execBext (r : D2) (s : State) : Res :=
  let v := r.view 0x3C
  finish1 s v (bitLanes v s.opA (s.opB v) (bextLane (tySigned v.tyN)))
def execBins (r : D2) (s : State) : Res :=
  let v := r.view 0x3D
  let w := tyW v.tyN
  finish1 s v (mkLanes (tyN v.tyN) w fun i => binsLane w (lane w s.opA i) (lane w (s.opB v) i) (lane w s.opC i), 0)

/-- The carry-less product (R172), from the bits of `b`. -/
def clmulNat (n a b : Nat) : Nat :=
  match n with
  | 0 => 0
  | n + 1 => (if b % 2 = 1 then a else 0) ^^^ clmulNat n (2 * a) (b / 2)
def execClmul (r : D2) (s : State) : Res :=
  let v := r.view 0x3E
  let p := clmulNat 64 s.opA.toNat (s.opB v).toNat
  finish2 s v (BitVec.ofNat 64 p, 0) (BitVec.ofNat 64 (p / 2 ^ 64), 0)

/-- R173: the prefix XOR with a carry-in, from bit 0 up. -/
def prefixXor (n c x : Nat) : Nat :=
  match n with
  | 0 => 0
  | n + 1 => let b := (c + x) % 2; b + 2 * prefixXor n b (x / 2)
def execPxor (r : D2) (s : State) : Res :=
  let v := r.view 0x3F
  let c := s.opB v
  if c.toNat > 1 then fails s v fkBOUNDS 1
  else
    let y := prefixXor 64 c.toNat s.opA.toNat
    finish2 s v (BitVec.ofNat 64 y, 0) (BitVec.ofNat 64 (y / 2 ^ 63), 0)

end Sys2Proof.Machine
end

