-- ==== Sys2Proof/Machine/Dispatch.lean ====
section
/-!
DEFINITION. One arm per constructor of Instr: the meaning of that instruction or event.
-/
namespace Sys2Proof.Machine

def exec (i : Instr) (s : State) : Host.Outcome State Fault Refusal :=
  match i with
  | .id r => Sys2Proof.Machine.execId r s
  | .const r => Sys2Proof.Machine.execConst r s
  | .sink r => Sys2Proof.Machine.execSink r s
  | .steer r => Sys2Proof.Machine.execSteer r s
  | .merge r => Sys2Proof.Machine.execMerge r s
  | .mergeo r => Sys2Proof.Machine.execMergeo r s
  | .gate r => Sys2Proof.Machine.execGate r s
  | .pick r => Sys2Proof.Machine.execPick r s
  | .rpt r => Sys2Proof.Machine.execRpt r s
  | .seq r => Sys2Proof.Machine.execSeq r s
  | .eodt r => Sys2Proof.Machine.execEodt r s
  | .eods r => Sys2Proof.Machine.execEods r s
  | .pack2 r => Sys2Proof.Machine.execPack2 r s
  | .unpk2 r => Sys2Proof.Machine.execUnpk2 r s
  | .fanout r => Sys2Proof.Machine.execFanout r s
  | .falloc r => Sys2Proof.Machine.execFalloc r s
  | .ffree r => Sys2Proof.Machine.execFfree r s
  | .iter r => Sys2Proof.Machine.execIter r s
  | .leave r => Sys2Proof.Machine.execLeave r s
  | .call r => Sys2Proof.Machine.execCall r s
  | .ret r => Sys2Proof.Machine.execRet r s
  | .ldfx r => Sys2Proof.Machine.execLdfx r s
  | .stfx r => Sys2Proof.Machine.execStfx r s
  | .loopin r => Sys2Proof.Machine.execLoopin r s
  | .loopout r => Sys2Proof.Machine.execLoopout r s
  | .spawn r => Sys2Proof.Machine.execSpawn r s
  | .exitw r => Sys2Proof.Machine.execExitw r s
  | .wchk r => Sys2Proof.Machine.execWchk r s
  | .settag r => Sys2Proof.Machine.execSettag r s
  | .gettag r => Sys2Proof.Machine.execGettag r s
  | .fxinfo r => Sys2Proof.Machine.execFxinfo r s
  | .add r => Sys2Proof.Machine.execAdd r s
  | .sub r => Sys2Proof.Machine.execSub r s
  | .mul r => Sys2Proof.Machine.execMul r s
  | .mulh r => Sys2Proof.Machine.execMulh r s
  | .div r => Sys2Proof.Machine.execDiv r s
  | .rem r => Sys2Proof.Machine.execRem r s
  | .min r => Sys2Proof.Machine.execMin r s
  | .max r => Sys2Proof.Machine.execMax r s
  | .abs r => Sys2Proof.Machine.execAbs r s
  | .neg r => Sys2Proof.Machine.execNeg r s
  | .addsat r => Sys2Proof.Machine.execAddsat r s
  | .subsat r => Sys2Proof.Machine.execSubsat r s
  | .avg r => Sys2Proof.Machine.execAvg r s
  | .cmp r => Sys2Proof.Machine.execCmp r s
  | .clamp r => Sys2Proof.Machine.execClamp r s
  | .widen r => Sys2Proof.Machine.execWiden r s
  | .and r => Sys2Proof.Machine.execAnd r s
  | .or r => Sys2Proof.Machine.execOr r s
  | .xor r => Sys2Proof.Machine.execXor r s
  | .andn r => Sys2Proof.Machine.execAndn r s
  | .not r => Sys2Proof.Machine.execNot r s
  | .shl r => Sys2Proof.Machine.execShl r s
  | .shr r => Sys2Proof.Machine.execShr r s
  | .sra r => Sys2Proof.Machine.execSra r s
  | .rotl r => Sys2Proof.Machine.execRotl r s
  | .clz r => Sys2Proof.Machine.execClz r s
  | .ctz r => Sys2Proof.Machine.execCtz r s
  | .popc r => Sys2Proof.Machine.execPopc r s
  | .bext r => Sys2Proof.Machine.execBext r s
  | .bins r => Sys2Proof.Machine.execBins r s
  | .clmul r => Sys2Proof.Machine.execClmul r s
  | .pxor r => Sys2Proof.Machine.execPxor r s
  | .fadd r => Sys2Proof.Machine.execFadd r s
  | .fsub r => Sys2Proof.Machine.execFsub r s
  | .fmul r => Sys2Proof.Machine.execFmul r s
  | .fma r => Sys2Proof.Machine.execFma r s
  | .fmin r => Sys2Proof.Machine.execFmin r s
  | .fmax r => Sys2Proof.Machine.execFmax r s
  | .fabs r => Sys2Proof.Machine.execFabs r s
  | .fneg r => Sys2Proof.Machine.execFneg r s
  | .fcmp r => Sys2Proof.Machine.execFcmp r s
  | .fdiv r => Sys2Proof.Machine.execFdiv r s
  | .fsqrt r => Sys2Proof.Machine.execFsqrt r s
  | .frcp r => Sys2Proof.Machine.execFrcp r s
  | .frsqrt r => Sys2Proof.Machine.execFrsqrt r s
  | .frnd r => Sys2Proof.Machine.execFrnd r s
  | .fclass r => Sys2Proof.Machine.execFclass r s
  | .fcsgn r => Sys2Proof.Machine.execFcsgn r s
  | .cvt r => Sys2Proof.Machine.execCvt r s
  | .cvtfi r => Sys2Proof.Machine.execCvtfi r s
  | .cvtif r => Sys2Proof.Machine.execCvtif r s
  | .cvtsr r => Sys2Proof.Machine.execCvtsr r s
  | .vswap2 r => Sys2Proof.Machine.execVswap2 r s
  | .vperm r => Sys2Proof.Machine.execVperm r s
  | .vbcast r => Sys2Proof.Machine.execVbcast r s
  | .vins r => Sys2Proof.Machine.execVins r s
  | .vext r => Sys2Proof.Machine.execVext r s
  | .vpack r => Sys2Proof.Machine.execVpack r s
  | .vunpk r => Sys2Proof.Machine.execVunpk r s
  | .vsum r => Sys2Proof.Machine.execVsum r s
  | .vmask r => Sys2Proof.Machine.execVmask r s
  | .vsel r => Sys2Proof.Machine.execVsel r s
  | .vbcmp r => Sys2Proof.Machine.execVbcmp r s
  | .vdot r => Sys2Proof.Machine.execVdot r s
  | .fsin r => Sys2Proof.Machine.execFsin r s
  | .fcos r => Sys2Proof.Machine.execFcos r s
  | .fsincos r => Sys2Proof.Machine.execFsincos r s
  | .fexp2 r => Sys2Proof.Machine.execFexp2 r s
  | .flog2 r => Sys2Proof.Machine.execFlog2 r s
  | .fexp r => Sys2Proof.Machine.execFexp r s
  | .ftanh r => Sys2Proof.Machine.execFtanh r s
  | .fsigm r => Sys2Proof.Machine.execFsigm r s
  | .lut6 r => Sys2Proof.Machine.execLut6 r s
  | .lutsm r => Sys2Proof.Machine.execLutsm r s
  | .lutld r => Sys2Proof.Machine.execLutld r s
  | .hash64 r => Sys2Proof.Machine.execHash64 r s
  | .tmma r => Sys2Proof.Machine.execTmma r s
  | .tacc r => Sys2Proof.Machine.execTacc r s
  | .tld r => Sys2Proof.Machine.execTld r s
  | .tst r => Sys2Proof.Machine.execTst r s
  | .tadd r => Sys2Proof.Machine.execTadd r s
  | .tmul r => Sys2Proof.Machine.execTmul r s
  | .tmax r => Sys2Proof.Machine.execTmax r s
  | .tscale r => Sys2Proof.Machine.execTscale r s
  | .texp r => Sys2Proof.Machine.execTexp r s
  | .tred r => Sys2Proof.Machine.execTred r s
  | .ttrans r => Sys2Proof.Machine.execTtrans r s
  | .tcvt r => Sys2Proof.Machine.execTcvt r s
  | .tfill r => Sys2Proof.Machine.execTfill r s
  | .tcmpb r => Sys2Proof.Machine.execTcmpb r s
  | .tbias r => Sys2Proof.Machine.execTbias r s
  | .tzero r => Sys2Proof.Machine.execTzero r s
  | .tgath r => Sys2Proof.Machine.execTgath r s
  | .tscat r => Sys2Proof.Machine.execTscat r s
  | .tcopy r => Sys2Proof.Machine.execTcopy r s
  | .tslice r => Sys2Proof.Machine.execTslice r s
  | .href r => Sys2Proof.Machine.execHref r s
  | .hdrop r => Sys2Proof.Machine.execHdrop r s
  | .halloc r => Sys2Proof.Machine.execHalloc r s
  | .hinfo r => Sys2Proof.Machine.execHinfo r s
  | .tget r => Sys2Proof.Machine.execTget r s
  | .tset r => Sys2Proof.Machine.execTset r s
  | .tfull r => Sys2Proof.Machine.execTfull r s
  | .tempty r => Sys2Proof.Machine.execTempty r s
  | .ld r => Sys2Proof.Machine.execLd r s
  | .st r => Sys2Proof.Machine.execSt r s
  | .ldn r => Sys2Proof.Machine.execLdn r s
  | .stn r => Sys2Proof.Machine.execStn r s
  | .ild r => Sys2Proof.Machine.execIld r s
  | .ist r => Sys2Proof.Machine.execIst r s
  | .iclr r => Sys2Proof.Machine.execIclr r s
  | .alr r => Sys2Proof.Machine.execAlr r s
  | .pref r => Sys2Proof.Machine.execPref r s
  | .ldsw r => Sys2Proof.Machine.execLdsw r s
  | .swset r => Sys2Proof.Machine.execSwset r s
  | .wfence r => Sys2Proof.Machine.execWfence r s
  | .swadd r => Sys2Proof.Machine.execSwadd r s
  | .cmbadd r => Sys2Proof.Machine.execCmbadd r s
  | .cmband r => Sys2Proof.Machine.execCmband r s
  | .cmbor r => Sys2Proof.Machine.execCmbor r s
  | .cmbxor r => Sys2Proof.Machine.execCmbxor r s
  | .cmbmin r => Sys2Proof.Machine.execCmbmin r s
  | .cmbmax r => Sys2Proof.Machine.execCmbmax r s
  | .cmbfaddx r => Sys2Proof.Machine.execCmbfaddx r s
  | .cmbfmin r => Sys2Proof.Machine.execCmbfmin r s
  | .cmbfmax r => Sys2Proof.Machine.execCmbfmax r s
  | .cmbcnt r => Sys2Proof.Machine.execCmbcnt r s
  | .cmbfadd r => Sys2Proof.Machine.execCmbfadd r s
  | .cmbtacc r => Sys2Proof.Machine.execCmbtacc r s
  | .qpush r => Sys2Proof.Machine.execQpush r s
  | .qpop r => Sys2Proof.Machine.execQpop r s
  | .qresv r => Sys2Proof.Machine.execQresv r s
  | .qpub r => Sys2Proof.Machine.execQpub r s
  | .qsteal r => Sys2Proof.Machine.execQsteal r s
  | .qarm r => Sys2Proof.Machine.execQarm r s
  | .qstat r => Sys2Proof.Machine.execQstat r s
  | .agcfg r => Sys2Proof.Machine.execAgcfg r s
  | .agrun r => Sys2Proof.Machine.execAgrun r s
  | .bari r => Sys2Proof.Machine.execBari r s
  | .barv r => Sys2Proof.Machine.execBarv r s
  | .barlog r => Sys2Proof.Machine.execBarlog r s
  | .stkbind r => Sys2Proof.Machine.execStkbind r s
  | .ktsbind r => Sys2Proof.Machine.execKtsbind r s
  | .mcgset r => Sys2Proof.Machine.execMcgset r s
  | .xsend r => Sys2Proof.Machine.execXsend r s
  | .trap r => Sys2Proof.Machine.execTrap r s
  | .fret r => Sys2Proof.Machine.execFret r s
  | .fkill r => Sys2Proof.Machine.execFkill r s
  | .park r => Sys2Proof.Machine.execPark r s
  | .unpark r => Sys2Proof.Machine.execUnpark r s
  | .mark r => Sys2Proof.Machine.execMark r s
  | .time r => Sys2Proof.Machine.execTime r s
  | .pgrd r => Sys2Proof.Machine.execPgrd r s
  | .pgwr r => Sys2Proof.Machine.execPgwr r s
  | .stcnt r => Sys2Proof.Machine.execStcnt r s
  | .ecall r => Sys2Proof.Machine.execEcall r s
  | .cfgld r => Sys2Proof.Machine.execCfgld r s
  | .cfgcmt r => Sys2Proof.Machine.execCfgcmt r s
  | .gsrc r => Sys2Proof.Machine.execGsrc r s
  | .quiesce r => Sys2Proof.Machine.execQuiesce r s
  | .halt r => Sys2Proof.Machine.execHalt r s
  | .sxmac r => Sys2Proof.Machine.execSxmac r s
  | .sxpass r => Sys2Proof.Machine.execSxpass r s
  | .sxacc r => Sys2Proof.Machine.execSxacc r s
  | .sxout r => Sys2Proof.Machine.execSxout r s
  | .sxwld r => Sys2Proof.Machine.execSxwld r s
  | .sxmov r => Sys2Proof.Machine.execSxmov r s
  | .sxloop r => Sys2Proof.Machine.execSxloop r s
  | .sxnop r => Sys2Proof.Machine.execSxnop r s
  | .preemptDrain d v => Sys2Proof.Machine.execPreemptDrain d v s
  | .preemptPark d v => Sys2Proof.Machine.execPreemptPark d v s
  | .preemptParkAtCut d v => Sys2Proof.Machine.execPreemptParkAtCut d v s
  | .preemptRestore d v => Sys2Proof.Machine.execPreemptRestore d v s
  | .dqptrCiWrite k ci => Sys2Proof.Machine.execDqptrCiWrite k ci s
  | .dqctlWrite k v => Sys2Proof.Machine.execDqctlWrite k v s
  | .ingressDelivery ing val eod seq rt => Sys2Proof.Machine.execIngressDelivery ing val eod seq rt s
  | .mplFrameReceive c err => Sys2Proof.Machine.execMplFrameReceive c err s
  | .linkTraining l pass => Sys2Proof.Machine.execLinkTraining l pass s
  | .scaleupLinkUp port pkg peer => Sys2Proof.Machine.execScaleupLinkUp port pkg peer s
  | .discRead c off => Sys2Proof.Machine.execDiscRead c off s
  | .launchCmd c cmd => Sys2Proof.Machine.execLaunchCmd c cmd s
  | .jrnEntry c seq => Sys2Proof.Machine.execJrnEntry c seq s
  | .jrnPtrs c => Sys2Proof.Machine.execJrnPtrs c s
  | .regRead c num inst => Sys2Proof.Machine.execRegRead c num inst s
  | .regWrite c num inst v => Sys2Proof.Machine.execRegWrite c num inst v s
  | .imgWrite c off len data => Sys2Proof.Machine.execImgWrite c off len data s
  | .imgCommit c => Sys2Proof.Machine.execImgCommit c s
  | .imgErase c => Sys2Proof.Machine.execImgErase c s
  | .imgPstat c => Sys2Proof.Machine.execImgPstat c s
  | .imgPmode c mode => Sys2Proof.Machine.execImgPmode c mode s
  | .attQuote c nonce addr => Sys2Proof.Machine.execAttQuote c nonce addr s
  | .attCert c addr => Sys2Proof.Machine.execAttCert c addr s
  | .ownClaim hid nonce => Sys2Proof.Machine.execOwnClaim hid nonce s
  | .ownRenew hid epoch => Sys2Proof.Machine.execOwnRenew hid epoch s
  | .ownOffer hid tgt epoch => Sys2Proof.Machine.execOwnOffer hid tgt epoch s
  | .ownAccept hid epoch => Sys2Proof.Machine.execOwnAccept hid epoch s
  | .ownRelease hid epoch => Sys2Proof.Machine.execOwnRelease hid epoch s
  | .xinvPage d v => Sys2Proof.Machine.execXinvPage d v s
  | .xinvAll d v => Sys2Proof.Machine.execXinvAll d v s
  | .registerWrite d num inst v => Sys2Proof.Machine.execRegisterWrite d num inst v s
  | .dieRestart d => Sys2Proof.Machine.execDieRestart d s
  | .diePowerOff d => Sys2Proof.Machine.execDiePowerOff d s
  | .balancedWindowEnd watts => Sys2Proof.Machine.execBalancedWindowEnd watts s
  | .thermalThrottle d temp => Sys2Proof.Machine.execThermalThrottle d temp s
  | .thermalUnthrottle d temp => Sys2Proof.Machine.execThermalUnthrottle d temp s
  | .thermalShutdown d temp => Sys2Proof.Machine.execThermalShutdown d temp s
  | .thermalRestart d temp => Sys2Proof.Machine.execThermalRestart d temp s
  | .scaleupPortDown port failed => Sys2Proof.Machine.execScaleupPortDown port failed s
  | .ethernetLinkChange port up => Sys2Proof.Machine.execEthernetLinkChange port up s
  | .routerHop => Sys2Proof.Machine.execRouterHop s
  | .bridgeForward => Sys2Proof.Machine.execBridgeForward s
  | .tokenArrival => Sys2Proof.Machine.execTokenArrival s
  | .queueDestinationAppend => Sys2Proof.Machine.execQueueDestinationAppend s
  | .markerArrival => Sys2Proof.Machine.execMarkerArrival s
  | .externalAnswerReturn => Sys2Proof.Machine.execExternalAnswerReturn s
  | .rptCopy => Sys2Proof.Machine.execRptCopy s
  | .allocRequest => Sys2Proof.Machine.execAllocRequest s
  | .allocGrant => Sys2Proof.Machine.execAllocGrant s
  | .releaseNotice => Sys2Proof.Machine.execReleaseNotice s
  | .releaseComplete => Sys2Proof.Machine.execReleaseComplete s
  | .spillComplete => Sys2Proof.Machine.execSpillComplete s
  | .spillMatcherToken => Sys2Proof.Machine.execSpillMatcherToken s
  | .restoreStartSpontaneous => Sys2Proof.Machine.execRestoreStartSpontaneous s
  | .restoreComplete => Sys2Proof.Machine.execRestoreComplete s
  | .macroStart => Sys2Proof.Machine.execMacroStart s
  | .macroBoundary => Sys2Proof.Machine.execMacroBoundary s
  | .macroComplete => Sys2Proof.Machine.execMacroComplete s
  | .waveRequestArrival => Sys2Proof.Machine.execWaveRequestArrival s
  | .homeAccess => Sys2Proof.Machine.execHomeAccess s
  | .memoryReply => Sys2Proof.Machine.execMemoryReply s
  | .egressConfirm => Sys2Proof.Machine.execEgressConfirm s
  | .requestTimeout => Sys2Proof.Machine.execRequestTimeout s
  | .walkReadReturn => Sys2Proof.Machine.execWalkReadReturn s
  | .syncCountArrival => Sys2Proof.Machine.execSyncCountArrival s
  | .scrubWord => Sys2Proof.Machine.execScrubWord s
  | .agElement => Sys2Proof.Machine.execAgElement s
  | .agStreamComplete => Sys2Proof.Machine.execAgStreamComplete s
  | .copyTrigger => Sys2Proof.Machine.execCopyTrigger s
  | .copyElements => Sys2Proof.Machine.execCopyElements s
  | .copyComplete => Sys2Proof.Machine.execCopyComplete s
  | .handlerTokenSend => Sys2Proof.Machine.execHandlerTokenSend s
  | .holdCountExpiry => Sys2Proof.Machine.execHoldCountExpiry s
  | .probeHop => Sys2Proof.Machine.execProbeHop s
  | .framedryDetect => Sys2Proof.Machine.execFramedryDetect s
  | .starvedDetect => Sys2Proof.Machine.execStarvedDetect s
  | .preemptQuiesced => Sys2Proof.Machine.execPreemptQuiesced s
  | .preemptWithdrawalEnd => Sys2Proof.Machine.execPreemptWithdrawalEnd s
  | .preemptSaveComplete => Sys2Proof.Machine.execPreemptSaveComplete s
  | .preemptEscalate => Sys2Proof.Machine.execPreemptEscalate s
  | .preemptRestoreComplete => Sys2Proof.Machine.execPreemptRestoreComplete s
  | .policyPreemption => Sys2Proof.Machine.execPolicyPreemption s
  | .launchToken => Sys2Proof.Machine.execLaunchToken s
  | .launchCheck => Sys2Proof.Machine.execLaunchCheck s
  | .launchAging => Sys2Proof.Machine.execLaunchAging s
  | .launchDispatch => Sys2Proof.Machine.execLaunchDispatch s
  | .launchPlace => Sys2Proof.Machine.execLaunchPlace s
  | .launchLoad => Sys2Proof.Machine.execLaunchLoad s
  | .launchStart => Sys2Proof.Machine.execLaunchStart s
  | .cfgCommitFlip => Sys2Proof.Machine.execCfgCommitFlip s
  | .sxwldWeightToken => Sys2Proof.Machine.execSxwldWeightToken s
  | .converterTransfer => Sys2Proof.Machine.execConverterTransfer s
  | .dmaDataToken => Sys2Proof.Machine.execDmaDataToken s
  | .dmaCommandToken => Sys2Proof.Machine.execDmaCommandToken s
  | .dmaCommandComplete => Sys2Proof.Machine.execDmaCommandComplete s
  | .xsendRoute => Sys2Proof.Machine.execXsendRoute s
  | .channelRemove => Sys2Proof.Machine.execChannelRemove s
  | .hostRequest => Sys2Proof.Machine.execHostRequest s
  | .modeChangeEffect => Sys2Proof.Machine.execModeChangeEffect s
  | .electionWindowEnd => Sys2Proof.Machine.execElectionWindowEnd s
  | .leaseLapse => Sys2Proof.Machine.execLeaseLapse s
  | .xinvComplete => Sys2Proof.Machine.execXinvComplete s
  | .frread => Sys2Proof.Machine.execFrread s
  | .qbar => Sys2Proof.Machine.execQbar s
  | .xreg => Sys2Proof.Machine.execXreg s
  | .powerOn => Sys2Proof.Machine.execPowerOn s
  | .bootVerify => Sys2Proof.Machine.execBootVerify s
  | .bootScrub => Sys2Proof.Machine.execBootScrub s
  | .stallCounterCycle => Sys2Proof.Machine.execStallCounterCycle s

end Sys2Proof.Machine
end

