-- ==== Sys2Proof/Machine/Issue.lean ====
section
/-!
DEFINITION. The issue of an element (R124): the head of the ready queue leaves it and its effect is performed, when the
output stage can take every token that it sends; the ring of a static-mode element performs its record instead (R277).
-/
namespace Sys2Proof.Machine

/-- A firing of the load issues: it can become quiescent anew (R362). -/
def State.noteIssue (s : State) (lid : Nat) : State :=
  if (s.load lid).wasQuiet then s.modLoad lid fun l => { l with wasQuiet := false } else s

/-- The frame slots that a firing reads as it issues: the continuation and TG 3, `ldfx`, the weight of `wchk`, `fxinfo` of a
slot's value, and the operands of `alr` (R87, R142, R144, R146, R150, R154, R240). -/
def slotsRead (f : Firing) (v : RecView) : List Nat :=
  (if v.hdr.tg = 3#4 then [0] else []) ++
  match v.op.toNat with
  | 0x15 | 0x19 => [0]
  | 0x16 => [v.lit]
  | 0x1C => [2]
  | 0x1F => if v.lit = 4 then [f.t0.val.toNat] else []
  | 0x97 => (List.range 8).map (v.slot + ·)
  | _ => []
/-- Those of them that the frame's class has, as places in the table of failing words. -/
def State.slotsAt (s : State) (f : Firing) (v : RecView) : List Nat :=
  s.slotEccs f.sq f.t0.fx.toNat ((slotsRead f v).filter fun n => n < clsSlots ((s.ct f.sq).clsOf f.t0.fx.toNat))

/-- The word of a firing that its record or slots fail raises ECCUE over: detail 3 a record, 2 a slot (R326, R328, R356). -/
def State.raiseTable (s : State) (f : Firing) (detail : Nat) (w2 : Word) : State :=
  s.raiseFiring f fkECCUE detail w2 (BitVec.ofNat 64 (ctWordPa f.sq)) 0

/-- Perform the head firing of element `e`, or wait; a record or a slot that fails its check raises ECCUE, and corrected
errors are counted (R326). -/
def issueHead (e : Nat) (s : State) : Res :=
  let x := s.elem e
  match x.readyQ with
  | [] => .next s
  | f :: rest =>
    let w := s.record f.key
    let v := viewOfRecord w
    if s.stoppedAt (e / 4) || !s.canIssue e f v || s.headBlocked e f v then .next s
    else
      let s0 := { (s.noteIssue (s.lidOf (e / 4))).modElem e fun x => { x with readyQ := rest, held := {} } with cur := f }
      if s.ecc.look (recordEcc f.key) == 2 then .next (s0.raiseTable f 3 f.t1.val)
      else if (s.slotsAt f v).any fun k => s.ecc.look k == 2 then .next (s0.raiseTable f 2 (portB v f))
      else
        let s1 := s0.countTableCe (sqDie (e / 4)) (recordEcc f.key :: s.slotsAt f v)
        match decode w with
        | .ok i => exec i s1
        | .error _ => .next (s1.raiseFiring f fkILLOP 7 f.t1.val 0 0)

/-- The step of a static ring: the record at its position is read and performed (R277). One that fails its check raises ECCUE
(R326). [DEDUCED: log 14] -/
def ringStep (e : Nat) (s : State) : Res :=
  let x := s.elem e
  let key := e * 1024 + x.ring.pos
  if !x.ring.on || x.ring.halts.contains x.ring.pos || x.stop || s.stoppedAt (e / 4) then .next s
  else if s.ecc.look (recordEcc key) == 2 then
    .next (s.raiseStatic e x.ring.pos fkECCUE 3 none (BitVec.ofNat 64 (ctWordPa (e / 4))))
  else
    match decode (s.record key) with
    | .ok i => exec i { s.countTableCe (sqDie (e / 4)) [recordEcc key] with cur := { elem := e, node := x.ring.pos } }
    | .error _ => .next s

/-- Issue from the ready queue in token mode, from the ring in static mode (R12). -/
def issue (e : Nat) (s : State) : Res :=
  if (s.regionOf (e / 4)).mode then ringStep e s else issueHead e s

/-- The HDM range holds these bytes: HBM of a running die with all of its stacks (R414, R425). -/
def State.hdmOk (s : State) (pa n : Nat) : Bool :=
  (List.range n).all fun i => s.hbmMapped (pa + i) && s.running (homeDie (pa + i))
/-- The word that a host store covers in part only and that fails its check (R326). -/
def State.hdmPart (s : State) (pa n : Nat) : Option Nat :=
  ((List.range n).map fun i => eccWord (pa + i)).find? fun w => s.ecc.look w == 2 && !(pa ≤ w && w + 32 ≤ pa + n)
/-- A store of a host performs at its home (R292, R414): at most 64 bytes. One of part of a word that fails its check does not
perform, and the word is recorded (R326, R328). [DESIGN CHOICE: log 6] [DEDUCED: log 63] -/
def State.hostStore (s : State) (pa : Nat) (b : List Byte) : State :=
  let n := min b.length 64
  if !s.hdmOk pa n then s
  else
    match s.hdmPart pa n with
    | some w => s.noteUe w
    | none => ((s.countCe pa n).setBytes pa (b.take 64)).eccClear pa n
/-- A load of a host, of at most 64 bytes: what it reads, and the state after it, in which corrected errors are counted. A word
that fails its check is recorded. [DESIGN CHOICE: log 6] [DEDUCED: log 63] -/
def State.hostRead (s : State) (pa n : Nat) : State × List Byte :=
  let k := min n 64
  if !s.hdmOk pa k then (s, [])
  else
    match s.eccBad pa k with
    | some w => (s.noteUe w, [])
    | none => (s.countCe pa k, s.bytes pa k)

/-- One step of the machine: an issue, or a device event at its place. [DESIGN CHOICE: log 3] [DESIGN CHOICE: log 6] -/
def perform (w : Work) (s : State) : Res :=
  match w with
  | .issue e => issue e s
  | .event i a b c => exec i { s with at_ := { a := a, b := b, c := c } }
  | .hostStore pa b => .next (s.hostStore pa b)
  | .hostRead pa n => .next (s.hostRead pa n).1
  | .barRead side req off => .next (s.barRead side req off).1

/-- Element 0 of the package with one firing of node 0 at the head of its ready queue, its output stage empty. [DESIGN CHOICE: log 1] -/
def readyState (s : State) (w : Rec96) : State :=
  { s.modElem 0 (fun x => { x with nodes := x.nodes.put 0 w, readyQ := [{ elem := 0, node := 0 }], outStage := [],
                                   answers := [], rpt := none }) with sel := some (.issue 0) }

end Sys2Proof.Machine
end

