-- ==== Sys2Proof/Machine/Step.lean ====
section
/-!
DEFINITION. The step: the step that `State.sel` names, otherwise a choice among the enabled steps; with nothing enabled a
cycle passes.
-/
namespace Sys2Proof.Machine

/-- [DESIGN CHOICE: log 1] [DESIGN CHOICE: log 3] -/
def step (s : State) : Host.Outcome State Fault Refusal :=
  match s.sel with
  | some w => perform w { s with sel := none }
  | none =>
    match choose s (enabled s) with
    | (some w, t) => perform w t
    | (none, t) => perform (.event .stallCounterCycle 0 0 0) t

/-- The record of `nbits` bits `w` stands at node 0 of element 0, and the very next step issues a firing of it. [DESIGN CHOICE: log 1] -/
def State.withFetchWord (s : State) (nbits w : Nat) : State :=
  if nbits > 96 then s else readyState s (BitVec.ofNat 96 w)

end Sys2Proof.Machine
end

