-- ==== Sys2Proof/Safety.lean ====
section
/-!
DEFINITION. What counts as a safe step, and the terms in which statements say what a step changes and what it leaves.
-/
namespace Sys2Proof
open Machine

/-- The step from `s` goes on. -/
def SafeStep (s : State) : Prop := ∃ t, step s = .next t

/-- From `s` to `t` only the element `e` has changed: every other register, table and element, and every byte of memory
is as it was. -/
def OnlyElem (e : Nat) (s t : State) : Prop :=
  t = { s with elems := t.elems } ∧ (∀ k, k ≠ e → t.elem k = s.elem k) ∧ ∀ a, t.byte a = s.byte a

/-- The instruction completes: element `e` is changed by `g`, and nothing else is. -/
def Changes (i : Instr) (s : State) (e : Nat) (g : Elem → Elem) : Prop :=
  ∃ t, exec i s = .next t ∧ OnlyElem e s t ∧ t.elem e = g (s.elem e)

/-- The firing completes: its tokens stand behind those of the output stage, its flags are gathered in ELSTAT[7:0], and
nothing else has changed (R125, R158). -/
def Sends (i : Instr) (s : State) (v : RecView) (outs : List Out) (fl : Flags) : Prop :=
  Changes i s s.cur.elem fun x => { x with outStage := x.outStage ++ s.flights s.cur v outs, elstat := x.elstat ||| fl }

/-- A message `n` has set out from die `a` to die `b` between `s` and `t`: where the dies have links between them it is on its
way, and otherwise there is none. -/
def Posts (s t : State) (a b n : Nat) : Prop :=
  (pathLinks a b = [] → n = 0 ∧ t.serial = s.serial ∧ t.chans = s.chans) ∧ (pathLinks a b ≠ [] → t.crossing n = true)

/-- Every destination that a record with one result sends to passes the check of R103. -/
def Dests1Ok (s : State) (v : RecView) : Prop := s.sendFault (outs1 v {}) = none
/-- Every destination that a record with two results sends to passes it. -/
def Dests2Ok (s : State) (v : RecView) : Prop := s.sendFault (outs2 v {} {}) = none

/-- The firing sends one KIND 00 value, under NDEST, that `P` holds of. -/
def Gives (i : Instr) (s : State) (v : RecView) (P : Word → Flags → Prop) : Prop :=
  Dests1Ok s v → ∃ x fl, P x fl ∧ Sends i s v (outs1 v (s.cur.base 0 x)) fl

/-- The firing sends two KIND 00 values. -/
def Gives2 (i : Instr) (s : State) (v : RecView) (P : Word → Word → Flags → Prop) : Prop :=
  Dests2Ok s v → ∃ x y fl, P x y fl ∧ Sends i s v (outs2 v (s.cur.base 0 x) (s.cur.base 0 y)) fl

/-- `x` holds `n` lanes of `w` bits, lane k being `g k`, and zeros above them (R62). -/
def Lanes (n w : Nat) (g : Nat → Nat) (x : Word) : Prop :=
  (∀ k, k < n → lane w x k = g k % 2 ^ w) ∧ x.toNat < 2 ^ (n * w)

/-- The lanes of `x`, with the OR of the lanes' flags. -/
def LanesF (n w : Nat) (g : Nat → Nat × Flags) (x : Word) (fl : Flags) : Prop :=
  Lanes n w (fun k => (g k).1) x ∧ ∀ b : Nat, fl.getLsbD b = true ↔ ∃ k, k < n ∧ (g k).2.getLsbD b = true

/-- `y` is the exact integer `e` in a lane of `w` bits: `e` itself where it is in range, otherwise the nearest bound
when the instruction saturates and `e` modulo 2^w when it does not (R57, R161). -/
def Fits (sat sg : Bool) (w : Nat) (e y : Int) : Prop :=
  let lo : Int := if sg then -2 ^ (w - 1) else 0
  let hi : Int := if sg then 2 ^ (w - 1) - 1 else 2 ^ w - 1
  (lo ≤ e ∧ e ≤ hi → y = e) ∧ (lo ≤ y ∧ y ≤ hi) ∧ (sat = false → (y - e) % 2 ^ w = 0) ∧
    (sat = true → (e < lo → y = lo) ∧ (hi < e → y = hi))

/-- Every lane of `x` is the exact `e k` fitted to the lane, zeros stand above the lanes, and the flags are SAT exactly
when a saturating lane changed its value. -/
def IntLanes (t : Nat) (sat : Bool) (e : Nat → Int) (x : Word) (fl : Flags) : Prop :=
  (∀ k, k < tyN t → Fits sat (tySigned t) (tyW t) (e k) (laneInt (tySigned t) (tyW t) (lane (tyW t) x k))) ∧
  x.toNat < 2 ^ (tyN t * tyW t) ∧
  fl = if sat = true ∧ ∃ k, k < tyN t ∧ laneInt (tySigned t) (tyW t) (lane (tyW t) x k) ≠ e k then fSAT else 0

/-- Lane `k` of a value as an integer under a TY. -/
def laneOf (t : Nat) (x : Word) (k : Nat) : Int := laneInt (tySigned t) (tyW t) (lane (tyW t) x k)

end Sys2Proof
end

