-- ==== Sys2Proof/Certificates/Slice0/Obligations.lean ====
section
/-!
DEFINITION. The statements for the provers, each with the rules of spec/ that it formalises. `Changes`, `Sends` and `Gives`
(Safety.lean) say what an instruction changes and that nothing else has changed.
-/
open Sys2Proof Sys2Proof.Machine

/-- R160, R161, R163: `add`, `sub`, `mul`, `mulh`, `min`, `max`, `abs`, `neg`, `addsat`, `subsat` and `avg` complete in
every state whose destinations pass their check: the value sent holds in each lane the exact result of the lanes of the
operands, wrapped, or saturated under SAT with the SAT flag gathered in ELSTAT, and nothing else changes. -/
def Obligations.IntegerArithmetic : Prop := ∀ (r : D2) (s : State),
  (let v := r.view 0x20; Gives (.add r) s v (IntLanes v.tyN v.sat fun k => laneOf v.tyN s.opA k + laneOf v.tyN (s.opB v) k)) ∧
  (let v := r.view 0x21; Gives (.sub r) s v (IntLanes v.tyN v.sat fun k => laneOf v.tyN s.opA k - laneOf v.tyN (s.opB v) k)) ∧
  (let v := r.view 0x22; Gives (.mul r) s v (IntLanes v.tyN v.sat fun k => laneOf v.tyN s.opA k * laneOf v.tyN (s.opB v) k)) ∧
  (let v := r.view 0x23; Gives (.mulh r) s v (IntLanes v.tyN false fun k =>
    Int.fdiv (laneOf v.tyN s.opA k * laneOf v.tyN (s.opB v) k) (2 ^ tyW v.tyN))) ∧
  (let v := r.view 0x26; Gives (.min r) s v (IntLanes v.tyN false fun k => min (laneOf v.tyN s.opA k) (laneOf v.tyN (s.opB v) k))) ∧
  (let v := r.view 0x27; Gives (.max r) s v (IntLanes v.tyN false fun k => max (laneOf v.tyN s.opA k) (laneOf v.tyN (s.opB v) k))) ∧
  (let v := r.view 0x28; Gives (.abs r) s v (IntLanes v.tyN v.sat fun k => |laneOf v.tyN s.opA k|)) ∧
  (let v := r.view 0x29; Gives (.neg r) s v (IntLanes v.tyN v.sat fun k => -laneOf v.tyN s.opA k)) ∧
  (let v := r.view 0x2A; Gives (.addsat r) s v (IntLanes v.tyN true fun k => laneOf v.tyN s.opA k + laneOf v.tyN (s.opB v) k)) ∧
  (let v := r.view 0x2B; Gives (.subsat r) s v (IntLanes v.tyN true fun k => laneOf v.tyN s.opA k - laneOf v.tyN (s.opB v) k)) ∧
  (let v := r.view 0x2C; Gives (.avg r) s v (IntLanes v.tyN false fun k =>
    Int.fdiv (laneOf v.tyN s.opA k + laneOf v.tyN (s.opB v) k + 1) 2))

/-- R162: with no zero lane in the divisor, or with ZDIV, `div` gives in each lane the quotient truncated toward zero and
`rem` the remainder with the sign of the dividend; under ZDIV a lane with a zero divisor gives 0. R162, R356: without ZDIV
a zero lane of the divisor raises DIVZ, whose detail is the mask of those lanes; no token is sent and no flag is set. -/
def Obligations.IntegerDivision : Prop :=
  (∀ (r : D2) (s : State),
    (let v := r.view 0x24; (v.zdiv = true ∨ ∀ k, k < tyN v.tyN → laneOf v.tyN (s.opB v) k ≠ 0) →
      Gives (.div r) s v (IntLanes v.tyN false fun k =>
        if laneOf v.tyN (s.opB v) k = 0 then 0 else Int.tdiv (laneOf v.tyN s.opA k) (laneOf v.tyN (s.opB v) k))) ∧
    (let v := r.view 0x25; (v.zdiv = true ∨ ∀ k, k < tyN v.tyN → laneOf v.tyN (s.opB v) k ≠ 0) →
      Gives (.rem r) s v (IntLanes v.tyN false fun k =>
        if laneOf v.tyN (s.opB v) k = 0 then 0 else Int.tmod (laneOf v.tyN s.opA k) (laneOf v.tyN (s.opB v) k)))) ∧
  (∀ (r : D2) (s : State) (k : Nat),
    (let v := r.view 0x24; v.zdiv = false → k < tyN v.tyN → laneOf v.tyN (s.opB v) k = 0 →
      ∃ m : Nat, exec (.div r) s = .next (s.raise s.cur v 0x03 m) ∧
        ∀ j : Nat, tbit m j = true ↔ j < tyN v.tyN ∧ laneOf v.tyN (s.opB v) j = 0) ∧
    (let v := r.view 0x25; v.zdiv = false → k < tyN v.tyN → laneOf v.tyN (s.opB v) k = 0 →
      ∃ m : Nat, exec (.rem r) s = .next (s.raise s.cur v 0x03 m) ∧
        ∀ j : Nat, tbit m j = true ↔ j < tyN v.tyN ∧ laneOf v.tyN (s.opB v) j = 0))

/-- R92, R157, R164, R165, R166: `cmp` gives all ones in the lanes where COND holds and 0 in the others; `clamp` brings
each lane between its bounds, the lower bound first, and sets SAT under its SAT bit where that changes a lane; `widen`
gives the lanes of the lower half, then those of the upper half, each extended to twice its width. A `cmp` record with
COND 6 or 7 and a `widen` record with TY 0 or 1 decode to nothing. R168: `and`, `or`, `xor`, `andn` and `not` work on
every bit of the value; under TY 0xD bits 63:32 of the result are 0. They set no flag. -/
def Obligations.CompareClampWidenLogic : Prop :=
  (∀ (r : D2) (s : State),
    (let v := r.view 0x2D; Gives (.cmp r) s v (LanesF (tyN v.tyN) (tyW v.tyN) fun k =>
      (if condHolds v.opfN (ordInt (laneOf v.tyN s.opA k) (laneOf v.tyN (s.opB v) k)) then 2 ^ tyW v.tyN - 1 else 0, 0))) ∧
    (let v := r.view 0x2E
     let y := fun k => min (max (laneOf v.tyN s.opA k) (laneOf v.tyN (s.opB v) k)) (laneOf v.tyN s.opC k)
     Gives (.clamp r) s v fun x fl =>
      (∀ k, k < tyN v.tyN → laneOf v.tyN x k = y k) ∧ x.toNat < 2 ^ (tyN v.tyN * tyW v.tyN) ∧
      fl = if v.sat = true ∧ ∃ k, k < tyN v.tyN ∧ y k ≠ laneOf v.tyN s.opA k then fSAT else 0) ∧
    (let v := r.view 0x2F
     let n := tyN v.tyN / 2
     let w := tyW v.tyN
     Gives2 (.widen r) s v fun x y fl =>
      Lanes n (2 * w) (fun k => (laneOf v.tyN s.opA k % 2 ^ (2 * w)).toNat) x ∧
      Lanes n (2 * w) (fun k => (laneOf v.tyN s.opA (n + k) % 2 ^ (2 * w)).toNat) y ∧ fl = 0) ∧
    (∀ (w : Rec96) (i : Instr), w.extractLsb' 88 8 = 0x2D#8 → w.extractLsb' 72 4 = 6#4 ∨ w.extractLsb' 72 4 = 7#4 → decode w ≠ .ok i) ∧
    (∀ w : Rec96, w.extractLsb' 88 8 = 0x2F#8 → w.extractLsb' 84 4 = 0#4 ∨ w.extractLsb' 84 4 = 1#4 → decode w = .error .typ)) ∧
  (∀ (r : D2) (s : State),
    let bit := fun (v : RecView) (f : Nat → Bool) (x : Word) (fl : Flags) =>
      (∀ k : Nat, k < 64 → x.getLsbD k = (decide (v.tyN ≠ 13 ∨ k < 32) && f k)) ∧ fl = 0
    (let v := r.view 0x30; Gives (.and r) s v (bit v fun k => s.opA.getLsbD k && (s.opB v).getLsbD k)) ∧
    (let v := r.view 0x31; Gives (.or r) s v (bit v fun k => s.opA.getLsbD k || (s.opB v).getLsbD k)) ∧
    (let v := r.view 0x32; Gives (.xor r) s v (bit v fun k => s.opA.getLsbD k != (s.opB v).getLsbD k)) ∧
    (let v := r.view 0x33; Gives (.andn r) s v (bit v fun k => s.opA.getLsbD k && !(s.opB v).getLsbD k)) ∧
    (let v := r.view 0x34; Gives (.not r) s v (bit v fun k => !s.opA.getLsbD k)))

/-- R169, R171: in each lane of width w, `shl`, `shr` and `sra` shift by the count modulo w and `rotl` rotates by it;
`clz` and `ctz` count the zero bits above and below the one bits, and `popc` the one bits. They set no flag. R170, R172,
R173: with pos and len from the control lane and k = min(len, w - pos), `bext` gives the field of k bits at pos, sign-
extended for signed TY, and `bins` replaces it by the low k bits of the third operand; `clmul` gives the low and the high
half of the carry-less product; `pxor` gives in bit j the XOR of bits 0 to j and the carry-in, then the carry-out. -/
def Obligations.ShiftsCountsFieldsProducts : Prop :=
  (∀ (r : D2) (s : State),
    (let v := r.view 0x35; let w := tyW v.tyN; Gives (.shl r) s v fun x fl => fl = 0 ∧ Lanes (tyN v.tyN) w
      (fun k => lane w s.opA k <<< (lane w (s.opB v) k % w)) x) ∧
    (let v := r.view 0x36; let w := tyW v.tyN; Gives (.shr r) s v fun x fl => fl = 0 ∧ Lanes (tyN v.tyN) w
      (fun k => lane w s.opA k >>> (lane w (s.opB v) k % w)) x) ∧
    (let v := r.view 0x37; let w := tyW v.tyN; Gives (.sra r) s v fun x fl => fl = 0 ∧ x.toNat < 2 ^ (tyN v.tyN * w) ∧
      ∀ k, k < tyN v.tyN → laneInt true w (lane w x k) = laneInt true w (lane w s.opA k) / 2 ^ (lane w (s.opB v) k % w)) ∧
    (let v := r.view 0x38; let w := tyW v.tyN; Gives (.rotl r) s v fun x fl => fl = 0 ∧ x.toNat < 2 ^ (tyN v.tyN * w) ∧
      ∀ k j, k < tyN v.tyN → j < w →
        tbit (lane w x k) ((j + lane w (s.opB v) k) % w) = tbit (lane w s.opA k) j) ∧
    (let v := r.view 0x39; let w := tyW v.tyN; Gives (.clz r) s v fun x fl => fl = 0 ∧ x.toNat < 2 ^ (tyN v.tyN * w) ∧
      ∀ k, k < tyN v.tyN → lane w x k ≤ w ∧ lane w s.opA k < 2 ^ (w - lane w x k) ∧
        (lane w x k < w → 2 ^ (w - lane w x k) ≤ 2 * lane w s.opA k)) ∧
    (let v := r.view 0x3A; let w := tyW v.tyN; Gives (.ctz r) s v fun x fl => fl = 0 ∧ x.toNat < 2 ^ (tyN v.tyN * w) ∧
      ∀ k, k < tyN v.tyN → lane w x k ≤ w ∧ lane w s.opA k % 2 ^ lane w x k = 0 ∧
        (lane w x k < w → tbit (lane w s.opA k) (lane w x k) = true)) ∧
    (let v := r.view 0x3B; let w := tyW v.tyN; Gives (.popc r) s v fun x fl => fl = 0 ∧ x.toNat < 2 ^ (tyN v.tyN * w) ∧
      ∀ k, k < tyN v.tyN → lane w x k = ((List.range w).filter fun j => tbit (lane w s.opA k) j).length)) ∧
  (∀ (r : D2) (s : State),
    (let v := r.view 0x3C; let w := tyW v.tyN; Gives (.bext r) s v fun x fl => fl = 0 ∧ x.toNat < 2 ^ (tyN v.tyN * w) ∧
      ∀ i, i < tyN v.tyN →
        let c := lane w (s.opB v) i
        let k := min (c / w % w + 1) (w - c % w)
        laneInt (tySigned v.tyN) w (lane w x i) = laneInt (tySigned v.tyN) k (fld (lane w s.opA i) (c % w) k)) ∧
    (let v := r.view 0x3D; let w := tyW v.tyN; Gives (.bins r) s v fun x fl => fl = 0 ∧ x.toNat < 2 ^ (tyN v.tyN * w) ∧
      ∀ i j, i < tyN v.tyN → j < w →
        let c := lane w (s.opB v) i
        let k := min (c / w % w + 1) (w - c % w)
        tbit (lane w x i) j = if c % w ≤ j ∧ j < c % w + k then tbit (lane w s.opC i) (j - c % w) else tbit (lane w s.opA i) j) ∧
    (let v := r.view 0x3E; Gives2 (.clmul r) s v fun x y fl => fl = 0 ∧ ∀ j : Nat, j < 128 →
      (if j < 64 then x.getLsbD j else y.getLsbD (j - 64)) =
        (((List.range (j + 1)).filter fun i => s.opA.getLsbD (j - i) && (s.opB v).getLsbD i).length % 2 == 1)) ∧
    (let v := r.view 0x3F; (s.opB v).toNat ≤ 1 → Gives2 (.pxor r) s v fun x y fl => fl = 0 ∧ y = (x >>> 63) ∧
      ∀ j : Nat, j < 64 →
        x.getLsbD j = (((s.opB v).toNat + ((List.range (j + 1)).filter fun i => s.opA.getLsbD i).length) % 2 == 1)))

/-- R174, R175, R176, R180: the float instructions complete in every state whose destinations pass their check, and every
lane of the value sent is the operation of that lane, rounded once by the record's mode in the lane's format; the flags
gathered are those of the lanes. `fmin` and `fmax` choose a lane, and `frnd` rounds to an integral value. R194 to R197:
the transcendental functions complete lane by lane, rounded to nearest; `fsincos` sends exactly what `fsin` and `fcos`
send, with the flags of both. That their exact values are taken to 1,100 fraction bits is the model's choice (log 35). -/
def Obligations.FloatArithmeticAndTranscendentals : Prop :=
  (∀ (r : D2) (s : State),
    let does := fun (i : Instr) (op : BitVec 8) (g : Fmt → Rnd → Nat → Nat → Nat → Nat × Flags) =>
      let v := r.view op
      let w := tyW v.tyN
      Gives i s v (LanesF (tyN v.tyN) w fun k =>
        g (fmtOfTy v.tyN) (s.rnd v k) (lane w s.opA k) (lane w (s.opB v) k) (lane w s.opC k))
    does (.fadd r) 0x40 (fun f m a b _ => f.add m a b) ∧ does (.fsub r) 0x41 (fun f m a b _ => f.sub m a b) ∧
    does (.fmul r) 0x42 (fun f m a b _ => f.mul m a b) ∧ does (.fma r) 0x43 (fun f m a b c => f.fma m a b c) ∧
    does (.fmin r) 0x44 (fun f _ a b _ => f.minmax false a b) ∧ does (.fmax r) 0x45 (fun f _ a b _ => f.minmax true a b) ∧
    does (.fdiv r) 0x49 (fun f m a b _ => f.div m a b) ∧ does (.fsqrt r) 0x4A (fun f m a _ _ => f.sqrt m a) ∧
    does (.frcp r) 0x4B (fun f m a _ _ => f.recip m a) ∧ does (.frsqrt r) 0x4C (fun f m a _ _ => f.rsqrt m a) ∧
    does (.frnd r) 0x4D (fun f m a _ _ => f.rint m a)) ∧
  (∀ (r : D2) (s : State),
    let does := fun (i : Instr) (op : BitVec 8) (g : Fmt → Nat → Nat × Flags) =>
      let v := r.view op
      Gives i s v (LanesF (tyN v.tyN) (tyW v.tyN) fun k => g (fmtOfTy v.tyN) (lane (tyW v.tyN) s.opA k))
    does (.fsin r) 0x60 Fmt.sin ∧ does (.fcos r) 0x61 Fmt.cos ∧ does (.fexp2 r) 0x63 Fmt.exp2 ∧
    does (.flog2 r) 0x64 Fmt.log2 ∧ does (.fexp r) 0x65 Fmt.exp ∧ does (.ftanh r) 0x66 Fmt.tanh ∧
    does (.fsigm r) 0x67 Fmt.sigm ∧
    (let v := r.view 0x62; Gives2 (.fsincos r) s v fun x y fl => ∃ f g, fl = f ||| g ∧
      LanesF (tyN v.tyN) (tyW v.tyN) (fun k => (fmtOfTy v.tyN).sin (lane (tyW v.tyN) s.opA k)) x f ∧
      LanesF (tyN v.tyN) (tyW v.tyN) (fun k => (fmtOfTy v.tyN).cos (lane (tyW v.tyN) s.opA k)) y g))

/-- R177 to R179: in each float lane `fabs` clears the sign bit, `fneg` inverts it and `fcsgn` takes it from b, every
other bit being a's; `fclass` gives the class code; none of them sets a flag. `fcmp` gives all ones where COND holds. -/
def Obligations.FloatSignsAndClasses : Prop := ∀ (r : D2) (s : State),
  let signs := fun (i : Instr) (op : BitVec 8) (sg : Nat → Nat → Bool) =>
    let v := r.view op
    let w := tyW v.tyN
    tyIsFloat v.tyN = true → Gives i s v fun x fl => fl = 0 ∧ x.toNat < 2 ^ (tyN v.tyN * w) ∧ ∀ k, k < tyN v.tyN →
      (∀ j, j < w - 1 → tbit (lane w x k) j = tbit (lane w s.opA k) j) ∧
      tbit (lane w x k) (w - 1) = sg (lane w s.opA k) (lane w (s.opB v) k)
  signs (.fabs r) 0x46 (fun _ _ => false) ∧
  signs (.fneg r) 0x47 (fun a _ => !tbit a (tyW (r.view 0x47).tyN - 1)) ∧
  signs (.fcsgn r) 0x4F (fun _ b => tbit b (tyW (r.view 0x4F).tyN - 1)) ∧
  (let v := r.view 0x4E; let w := tyW v.tyN; Gives (.fclass r) s v fun x fl => fl = 0 ∧ Lanes (tyN v.tyN) w
    (fun k => (fmtOfTy v.tyN).classify (lane w s.opA k)) x) ∧
  (let v := r.view 0x48
   let w := tyW v.tyN
   let a := fun k => (fmtOfTy v.tyN).value (lane w s.opA k)
   let b := fun k => (fmtOfTy v.tyN).value (lane w (s.opB v) k)
   let nan := fun k => (a k).isNan || (b k).isNan
   Gives (.fcmp r) s v (LanesF (tyN v.tyN) w fun k =>
    (if condHolds v.opfN (if nan k then 3 else cmpVals (a k) (b k)) then 2 ^ w - 1 else 0,
     if (a k).isSig || (b k).isSig || (nan k && decide (2 ≤ v.opfN ∧ v.opfN ≤ 5)) then fNV else 0)))

/-- R72, R59: when an operand lane of `fadd`, `fsub`, `fmul`, `fma`, `fdiv`, `fsqrt`, `frcp` or `frsqrt` is NaN, that lane
of the result is the canonical NaN of the format, whatever the NaN's payload and sign. R65, R66, R175: a nonzero magnitude
below 2^24 with exponent 0, an exact FP32 number, rounds to itself in every mode and sets no flag; and the sum and the
product that `fadd` and `fmul` take of two FP32 lanes that hold integers, where it is an integer of magnitude below 2^24,
are exactly that integer, without a flag. -/
def Obligations.NanAndExactIntegers : Prop :=
  (∀ (f : Fmt) (m : Rnd) (a b c : Nat),
    ((f.value a).isNan = true ∨ (f.value b).isNan = true →
      (f.add m a b).1 = f.nan ∧ (f.sub m a b).1 = f.nan ∧ (f.mul m a b).1 = f.nan ∧ (f.div m a b).1 = f.nan ∧
      (f.fma m a b c).1 = f.nan) ∧
    ((f.value c).isNan = true → (f.fma m a b c).1 = f.nan) ∧
    ((f.value a).isNan = true → (f.sqrt m a).1 = f.nan ∧ (f.recip m a).1 = f.nan ∧ (f.rsqrt m a).1 = f.nan ∧
      (f.rint m a).1 = f.nan)) ∧
  (
    let holds := fun (a : Nat) (x : Int) => ∃ g k e, fp32.value a = .fin g k e ∧
      ((0 ≤ e ∧ k * 2 ^ e.toNat = x.natAbs) ∨ (e < 0 ∧ k = x.natAbs * 2 ^ (-e).toNat)) ∧ (x ≠ 0 → g = decide (x < 0))
    (∀ (m : Rnd) (neg : Bool) (n : Nat), 0 < n → n < 2 ^ 24 →
      (fp32.round m neg { mag := n, exp := 0 }).2 = 0 ∧
      ∃ g k e, fp32.value (fp32.round m neg { mag := n, exp := 0 }).1 = .fin g k e ∧ g = neg ∧
        ((0 ≤ e ∧ k * 2 ^ e.toNat = n) ∨ (e < 0 ∧ k = n * 2 ^ (-e).toNat))) ∧
    ∀ (m : Rnd) (a b : Nat) (x y : Int), holds a x → holds b y →
      ((x + y).natAbs < 2 ^ 24 → holds (fp32.add m a b).1 (x + y) ∧ (fp32.add m a b).2 = 0) ∧
      ((x * y).natAbs < 2 ^ 24 → holds (fp32.mul m a b).1 (x * y) ∧ (fp32.mul m a b).2 = 0))

/-- R181 to R183: each conversion completes and its destination lanes, as many as source and destination both have, are
the source lanes converted by the pair of types; equal types and b64 copy all 64 bits without a flag. `cvtsr` takes its
random bits from the seed in port 1; that it copies between equal types other than f32 too is the model's choice (log 96).
R188 to R191: `vpack` converts the lanes of a and then those of b into lanes of half the width, `vunpk` the lanes of a
into lanes of twice the width; `vsum` and `vdot` give the exact integer sum modulo 2^64, and of floats the exact sum
rounded once, to the lane format for `vsum` and to FP32 for `vdot`. That an integer `vdot` beyond 64 bits wraps is the
model's choice (log 115). -/
def Obligations.ConversionsAndLaneSums : Prop :=
  (∀ (r : D2) (s : State),
    let does := fun (i : Instr) (op : BitVec 8) (rnd : Nat → Rnd) =>
      let v := r.view op
      let d := v.lit % 16
      (v.tyN = d ∨ v.tyN = 14 ∨ d = 14 → Gives i s v fun x fl => x = s.opA ∧ fl = 0) ∧
      (v.tyN ≠ d → v.tyN ≠ 14 → d ≠ 14 → Gives i s v (LanesF (min (tyN v.tyN) (tyN d)) (tyW d) fun k =>
        convLane v.tyN d (rnd k) (lane (tyW v.tyN) s.opA k)))
    does (.cvt r) 0x50 (s.rnd (r.view 0x50)) ∧ does (.cvtfi r) 0x51 (s.rnd (r.view 0x51)) ∧
    does (.cvtif r) 0x52 (s.rnd (r.view 0x52)) ∧
    does (.cvtsr r) 0x53 (fun k => rndOf (r.view 0x53).opfN s.cur.t1.val s.cur.t0.fx.toNat k)) ∧
  (∀ (r : D2) (s : State),
    (let v := r.view 0x59
     let d := v.lit % 16
     let n := tyN v.tyN
     2 * n * tyW d ≤ 64 → Gives (.vpack r) s v (LanesF (2 * n) (tyW d) fun k => convLane v.tyN d (s.rnd v k)
      (if k < n then lane (tyW v.tyN) s.opA k else lane (tyW v.tyN) (s.opB v) (k - n)))) ∧
    (let v := r.view 0x5A
     let d := v.lit % 16
     let half := fun (first k : Nat) => convLane v.tyN d rne (lane (tyW v.tyN) s.opA (first + k))
     Gives2 (.vunpk r) s v fun x y fl => ∃ f g, fl = f ||| g ∧ LanesF (tyN d) (tyW d) (half 0) x f ∧
      LanesF (tyN d) (tyW d) (half (tyN d)) y g) ∧
    (let v := r.view 0x5B
     (tyIsInt v.tyN = true → Gives (.vsum r) s v fun x fl =>
       fl = 0 ∧ x = BitVec.ofInt 64 (((List.range (tyN v.tyN)).map fun k => laneOf v.tyN s.opA k).sum)) ∧
     (tyIsInt v.tyN = false → Gives (.vsum r) s v fun x fl =>
       let p := (fmtOfTy v.tyN).packSum (s.rnd v 0) (sumVals (s.rnd v 0).mode (fltsOf v.tyN s.opA))
       x = BitVec.ofNat 64 p.1 ∧ fl = p.2)) ∧
    (let v := r.view 0x5F
     (tyIsInt v.tyN = true → Gives (.vdot r) s v fun x fl => fl = 0 ∧
       x = BitVec.ofInt 64 (((List.range (tyN v.tyN)).map fun k => laneOf v.tyN s.opA k * laneOf v.tyN (s.opB v) k).sum)) ∧
     (tyIsInt v.tyN = false → Gives (.vdot r) s v fun x fl =>
       let ps := List.zipWith mulVals (fltsOf v.tyN s.opA) (fltsOf v.tyN (s.opB v))
       let p := fp32.packSum (s.rnd v 0) (sumVals (s.rnd v 0).mode (ps.map (·.1)))
       x = BitVec.ofNat 64 p.1 ∧ fl = p.2 ||| orAll (ps.map (·.2)))))

/-- R185, R186, R187, R192, R193: the lane moves complete, set no flag, and place the lanes as the rules say. -/
def Obligations.LaneMoves : Prop := ∀ (r : D2) (s : State),
  let moves := fun (i : Instr) (op : BitVec 8) (g : Nat → Nat) =>
    Gives i s (r.view op) fun x fl => fl = 0 ∧ Lanes (tyN (r.view op).tyN) (tyW (r.view op).tyN) g x
  let la := fun (op : BitVec 8) (x : Word) (k : Nat) => lane (tyW (r.view op).tyN) x k
  moves (.vswap2 r) 0x54 (fun k => let x := la 0x54 s.opA (if k % 2 = 0 then k + 1 else k - 1)
    if tbit r.lit.toNat k then negLane (r.view 0x54).tyN x else x) ∧
  moves (.vperm r) 0x55 (fun k => let c := lane 8 (s.opB (r.view 0x55)) k
    if tbit c 7 then 0 else la 0x55 s.opA (c % 8 % tyN (r.view 0x55).tyN)) ∧
  moves (.vbcast r) 0x56 (fun _ => la 0x56 s.opA r.lit.toNat) ∧
  moves (.vins r) 0x57 (fun k => if k = r.lit.toNat then (s.opB (r.view 0x57)).toNat else la 0x57 s.opA k) ∧
  moves (.vmask r) 0x5C (fun k => if (s.opB (r.view 0x5C)).getLsbD k then la 0x5C s.opA k else 0) ∧
  moves (.vsel r) 0x5D (fun k => if la 0x5D s.opA k ≠ 0 then la 0x5D (s.opB (r.view 0x5D)) k else la 0x5D s.opC k) ∧
  (let v := r.view 0x58; Gives (.vext r) s v fun x fl => fl = 0 ∧ x = BitVec.ofInt 64 (laneOf v.tyN s.opA v.lit)) ∧
  (let v := r.view 0x5E; Gives (.vbcmp r) s v fun x fl => fl = 0 ∧ x.toNat < 256 ∧ ∀ k : Nat, k < 8 →
    x.getLsbD k = condHolds v.opfN (ordInt (lane 8 s.opA k) v.lit))

/-- R198 to R200, R203: bit j of what `lut6` and `lutsm` send is the output of LUT j on the input word and STATE, and the
element notes the configuration as used; `lutsm` then steps STATE, bit NSB of which takes the output of the LUT with NSE,
and `lut6` does not. `hash64` sends its function of both operands. Where two LUTs write one bit of STATE, which R198
refuses at load, the highest of them wins: the model's choice (log 116). R244: the release firing of a combine sends the
value that its span held when the count was reached; `cmbfaddx` sends the sum of its six slots, rounded once, with the
flags of R81. -/
def Obligations.LutsHashesCombines : Prop :=
  (∀ (r : D2) (s : State),
    let e := s.cur.elem
    let outs := fun (v : RecView) => outs1 v (s.cur.base 0 (ofLanes 1 (lutEval (s.elem e) v.lit s.opA)))
    (let v := r.view 0x68; Dests1Ok s v → Changes (.lut6 r) s e fun x =>
      { x.useLut v.lit with outStage := x.outStage ++ s.flights s.cur v (outs v) }) ∧
    (let v := r.view 0x69; Dests1Ok s v → Changes (.lutsm r) s e fun x =>
      { x.useLut v.lit with outStage := x.outStage ++ s.flights s.cur v (outs v)
                            lutState := lutNext x v.lit (lutEval x v.lit s.opA) }) ∧
    (∀ (cfg j : Nat) (a : Word), j < 64 → lane 1 (ofLanes 1 (lutEval (s.elem e) cfg a)) j =
      lutOut ((s.elem e).lut.look (cfg * 128 + 2 * j)).toNat ((s.elem e).lut.look (cfg * 128 + 2 * j + 1)).toNat a.toNat
        (s.elem e).lutState.toNat) ∧
    (let v := r.view 0x6B; Gives (.hash64 r) s v fun x fl => x = hash64 s.opA (s.opB v) ∧ fl = 0)) ∧
  (∀ (r : D2) (s : State),
    let gives := fun (i : Instr) (op : BitVec 8) =>
      Gives i s (r.view op) fun x fl => x = s.cur.words[0]?.getD 0 ∧ fl = 0
    gives (.cmbadd r) 0xA0 ∧ gives (.cmband r) 0xA1 ∧ gives (.cmbor r) 0xA2 ∧ gives (.cmbxor r) 0xA3 ∧
    gives (.cmbmin r) 0xA4 ∧ gives (.cmbmax r) 0xA5 ∧ gives (.cmbfmin r) 0xA7 ∧ gives (.cmbfmax r) 0xA8 ∧
    gives (.cmbcnt r) 0xA9 ∧ gives (.cmbfadd r) 0xAA ∧
    (let v := r.view 0xA6; Gives (.cmbfaddx r) s v fun x fl =>
      (x, fl) = faddxResult v (wOfSlots (s.cur.words.take 5)) (s.cur.words[5]?.getD 0)))

/-- R128: `id` sends its token to DESTA and `fanout` to the destinations of NDEST, to DESTA alone under NDEST 01 as `id`
does; `const` sends its literal, expanded under TY, as KIND 00 with the tag and AUX of its trigger, whatever the trigger's
value and KIND; `sink` discards its token and changes nothing. -/
def Obligations.PassingAndCopying : Prop := ∀ (s : State),
  let passed : Token := { s.cur.t0 with mc := false, xd := false, par := false }
  (∀ r : D1, Dests1Ok s (r.view 0x01) → Sends (.id r) s (r.view 0x01) (outs1 (r.view 0x01) passed) 0) ∧
  (∀ r : D2, Dests1Ok s (r.view 0x0F) → Sends (.fanout r) s (r.view 0x0F) (outs1 (r.view 0x0F) passed) 0) ∧
  (∀ r : D2, r.ndest = 2#2 → outs1 (r.view 0x0F) passed =
    [{ dest := r.destA, second := false, tok := passed }, { dest := r.destB, second := true, tok := passed }]) ∧
  (∀ r : D2, r.ndest = 1#2 → outs1 (r.view 0x0F) passed = [{ dest := r.destA, second := false, tok := passed }]) ∧
  (∀ r : D1, r.ndest = 1#2 → outs1 (r.view 0x01) passed = [{ dest := r.destA, second := false, tok := passed }]) ∧
  (∀ r : FC, Dests1Ok s (r.view 0x02) → Sends (.const r) s (r.view 0x02)
    (outs1 (r.view 0x02) { passed with kind := 0, val := expand44 r.ty.toNat r.lit.toNat }) 0) ∧
  (∀ r : D1, exec (.sink r) s = .next s)

/-- R18, R126, R130: `steer` sends its token to DESTB alone when the predicate is nonzero and to DESTA alone when it is 0;
`gate` sends it only when the predicate is nonzero; `pick` sends the value of port 1 or of port 2, with its KIND, under
the tag of the predicate. A `steer` or `gate` that uses a node destination with PORT 3 raises ILLOP 5 whichever way the
predicate points. R131, R132, R151: a firing of `merge`, of `mergeo` or of `leave` sends the token that fired it, with its
KIND, VALUE, tag and AUX, to the destinations of NDEST. Of a `mergeo` behind which held tokens of its context leave one by
one, the token that NEXT names is taken out of the held ones, NEXT rises, the token is put at the head of the ready queue
as the firing issues, and the context closes behind a token with EOD when it holds none. That the order is made at
arrival, so that each token sent is a firing of its own, is the model's reading (log 26). -/
def Obligations.RoutingMergingLeaving : Prop :=
  (∀ (r : D2) (s : State),
    let passed : Token := { s.cur.t0 with mc := false, xd := false, par := false }
    let port3 := fun (d : BitVec 28) => destIsCt d = true ∧ destPort d = 3
    let bad := (r.ndest ≠ 0#2 ∧ port3 r.destA) ∨ ((r.ndest = 2#2 ∨ r.ndest = 3#2) ∧ port3 r.destB)
    (let v := r.view 0x04; s.opB v ≠ 0 → ¬ bad → s.destFault r.destB = none →
      Sends (.steer r) s v [{ dest := r.destB, second := true, tok := passed }] 0) ∧
    (let v := r.view 0x04; s.opB v = 0 → ¬ bad → s.destFault r.destA = none →
      Sends (.steer r) s v [{ dest := r.destA, second := false, tok := passed }] 0) ∧
    (let v := r.view 0x07; s.opB v ≠ 0 → Dests1Ok s v → ¬ bad → Sends (.gate r) s v (outs1 v passed) 0) ∧
    (let v := r.view 0x07; s.opB v = 0 → ¬ bad → Sends (.gate r) s v [] 0) ∧
    (bad → exec (.steer r) s = .next (s.raise s.cur (r.view 0x04) 0x01 5) ∧
      exec (.gate r) s = .next (s.raise s.cur (r.view 0x07) 0x01 5)) ∧
    (let v := r.view 0x08; Dests1Ok s v → s.opA ≠ 0 → Sends (.pick r) s v
      (outs1 v { passed with kind := if r.litp then 0 else s.cur.t1.kind, val := s.opB v }) 0) ∧
    (let v := r.view 0x08; Dests1Ok s v → s.opA = 0 → Sends (.pick r) s v
      (outs1 v { passed with kind := s.cur.t2.kind, val := s.cur.t2.val }) 0)) ∧
  (∀ (s : State),
    let passed : Token := { s.cur.t0 with mc := false, xd := false, par := false }
    (∀ r : D2, Dests1Ok s (r.view 0x05) → Sends (.merge r) s (r.view 0x05) (outs1 (r.view 0x05) passed) 0) ∧
    (∀ r : D2, Dests1Ok s (r.view 0x06) → s.cur.k = 0 → Sends (.mergeo r) s (r.view 0x06) (outs1 (r.view 0x06) passed) 0) ∧
    (∀ (r : D2) (c : MCtx) (y : Flight),
      let mine := fun (c : MCtx) => c.node == s.cur.node && c.fx == s.cur.t0.fx.toNat
      let left := c.held.filter fun z => z != y
      Dests1Ok s (r.view 0x06) → s.cur.k ≠ 0 → (s.elem s.cur.elem).ctxs.find? mine = some c →
      c.held.find? (fun z => z.tok.seq == c.next) = some y →
      Changes (.mergeo r) s s.cur.elem fun x => { x with
        outStage := x.outStage ++ s.flights s.cur (r.view 0x06) (outs1 (r.view 0x06) passed)
        readyQ := { elem := s.cur.elem, node := s.cur.node, t0 := y.tok,
                    k := if left.any fun z => z.tok.seq == c.next + 1 then 1 else 0 } :: x.readyQ
        ctxs := if left = [] ∧ y.tok.eod ≠ 0 then x.ctxs.filter fun k => !mine k
                else x.ctxs.map fun k => if mine k then { c with next := c.next + 1, held := left } else k }) ∧
    (∀ r : D2, Dests1Ok s (r.view 0x13) → Sends (.leave r) s (r.view 0x13) (outs1 (r.view 0x13) passed) 0))

/-- R129, R144, R145, R146: `pack2` joins the low halves of its operands, `unpk2` sends the two halves of its operand,
`gettag` sends the tag of its token as a word, `ldfx` the VALUE of slot n of the local part, and `fxinfo` under selector 0
the entry of the frame table, under 1 the metadata of slot s (P in bit 0, B in bit 1, PRT in bits 3:2) and under 4 its
value. R134, R145: `eodt` sends its token and whether EOD is at least the literal; `eods` sends it with EOD from the
operand, at most 7; `settag` sends it with the tag from the operand's 20 bits. -/
def Obligations.PackingStreamMarksTags : Prop :=
  (∀ (s : State),
    (∀ r : D2, Gives (.pack2 r) s (r.view 0x0D) fun x fl => fl = 0 ∧ x.extractLsb' 0 32 = s.opA.extractLsb' 0 32 ∧
      x.extractLsb' 32 32 = (s.opB (r.view 0x0D)).extractLsb' 0 32) ∧
    (∀ r : D2, Gives2 (.unpk2 r) s (r.view 0x0E) fun x y fl => fl = 0 ∧ x.toNat = s.opA.toNat % 2 ^ 32 ∧
      y.toNat = s.opA.toNat / 2 ^ 32) ∧
    (∀ r : D1, Gives (.gettag r) s (r.view 0x1E) fun x fl => fl = 0 ∧ x.toNat =
      s.cur.t0.fx.toNat + s.cur.t0.path.toNat * 2 ^ 12 + s.cur.t0.rt.toNat * 2 ^ 18) ∧
    (∀ r : D1, r.lit.toNat < clsSlots ((s.ct s.cur.sq).clsOf s.cur.t0.fx.toNat) →
      Gives (.ldfx r) s (r.view 0x16) fun x fl => fl = 0 ∧ x = ((s.ct s.cur.sq).slot s.cur.t0.fx.toNat r.lit.toNat).val) ∧
    (∀ r : D1, r.lit.toNat = 0 → Gives (.fxinfo r) s (r.view 0x1F) fun x fl => fl = 0 ∧
      x = (((s.ct s.cur.sq).entry s.cur.t0.fx.toNat).map fun p => p.2.word).getD 0) ∧
    (∀ r : D1, r.lit.toNat = 1 → s.opA.toNat < clsSlots ((s.ct s.cur.sq).clsOf s.cur.t0.fx.toNat) →
      let z := (s.ct s.cur.sq).slot s.cur.t0.fx.toNat s.opA.toNat
      Gives (.fxinfo r) s (r.view 0x1F) fun x fl => fl = 0 ∧ x.toNat = z.p.toNat + 2 * z.b.toNat + 4 * z.prt.toNat) ∧
    (∀ r : D1, r.lit.toNat = 4 → s.opA.toNat < clsSlots ((s.ct s.cur.sq).clsOf s.cur.t0.fx.toNat) →
      Gives (.fxinfo r) s (r.view 0x1F) fun x fl => fl = 0 ∧ x = ((s.ct s.cur.sq).slot s.cur.t0.fx.toNat s.opA.toNat).val)) ∧
  (∀ (r : D2) (s : State),
    let passed : Token := { s.cur.t0 with mc := false, xd := false, par := false }
    (let v := r.view 0x0B; Dests2Ok s v → Sends (.eodt r) s v
      (outs2 v passed { passed with kind := 0, val := if r.lit.toNat ≤ s.cur.t0.eod.toNat then 1 else 0 }) 0) ∧
    (let v := r.view 0x0C; (s.opB v).toNat ≤ 7 → Dests1Ok s v → Sends (.eods r) s v
      (outs1 v { passed with eod := (s.opB v).extractLsb' 0 3 }) 0) ∧
    (let v := r.view 0x1D; (s.opB v).toNat < 2 ^ 20 → Dests1Ok s v → Sends (.settag r) s v
      (outs1 v { passed with fx := (s.opB v).extractLsb' 0 12, path := (s.opB v).extractLsb' 12 6,
                             rt := (s.opB v).extractLsb' 18 2 }) 0))

/-- R126, R134, R135, R143, R144, R145, R173, R356: an operand outside what the instruction takes raises BOUNDS and a
`stfx` to slot 2 or 3 raises PERM, with the detail of R356; the firing sends nothing. R231 checks 1 and 2, R241: an
address operand of 2^56 or above raises BOUNDS, a misaligned effective address raises ALIGN with the granule as detail;
the record holds the effective address. No request is formed. -/
def Obligations.OperandFaults : Prop :=
  (∀ (s : State),
    (∀ r : D2, 7 < (s.opB (r.view 0x0C)).toNat → exec (.eods r) s = .next (s.raise s.cur (r.view 0x0C) 0x08 1)) ∧
    (∀ r : D2, 2 ^ 20 ≤ (s.opB (r.view 0x1D)).toNat → exec (.settag r) s = .next (s.raise s.cur (r.view 0x1D) 0x08 1)) ∧
    (∀ r : D2, 2 ^ 32 ≤ (s.opB (r.view 0x09)).toNat → exec (.rpt r) s = .next (s.raise s.cur (r.view 0x09) 0x08 1)) ∧
    (∀ r : D1, clsSlots ((s.ct s.cur.sq).clsOf s.cur.t0.fx.toNat) ≤ r.lit.toNat →
      exec (.ldfx r) s = .next (s.raise s.cur (r.view 0x16) 0x08 3) ∧
      exec (.stfx r) s = .next (s.raise s.cur (r.view 0x17) 0x08 3)) ∧
    (∀ r : D1, r.lit.toNat = 2 ∨ r.lit.toNat = 3 → exec (.stfx r) s = .next (s.raise s.cur (r.view 0x17) 0x05 2)) ∧
    (∀ r : D1, 4096 ≤ s.opA.toNat → exec (.ffree r) s = .next (s.raise s.cur (r.view 0x11) 0x08 0)) ∧
    (∀ r : D2, 1 < (s.opB (r.view 0x3F)).toNat → exec (.pxor r) s = .next (s.raise s.cur (r.view 0x3F) 0x08 1))) ∧
  (∀ (r : FM) (s : State),
    let fault := fun (i : Instr) (op : BitVec 8) =>
      let v := r.view op
      let comp := BitVec.ofNat 64 (effAddr v s.opA)
      (2 ^ 56 ≤ s.opA.toNat → exec i s = .next (s.raiseFiring s.cur 0x08 0 s.cur.t1.val comp 0)) ∧
      (s.opA.toNat < 2 ^ 56 → effAddr v s.opA % granule op.toNat r.ty.toNat ≠ 0 →
        exec i s = .next (s.raiseFiring s.cur 0x06 (granule op.toNat r.ty.toNat) s.cur.t1.val comp 0))
    fault (.ld r) 0x90 ∧ fault (.st r) 0x91 ∧ fault (.ldn r) 0x92 ∧ fault (.stn r) 0x93 ∧ fault (.ild r) 0x94 ∧
    fault (.ist r) 0x95 ∧ fault (.iclr r) 0x96 ∧ fault (.ldsw r) 0x99 ∧ fault (.swset r) 0x9A ∧ fault (.swadd r) 0x9C)

/-- R18, R133, R135, R159: `seq` sends its token with the node's counter as SEQ and advances the counter, back to the
start literal after a token with EOD; `rpt` of n sends the first copy and leaves n - 1 to the repeat unit and of 0 sends
nothing, and with a node destination of PORT 3 it raises ILLOP 5; each RPT_COPY sends one more copy when the output stage
has room. That the first copy enters the stage as the firing issues, as R159's control class does, is the model's reading
(log 31). R124: of the answers that have come back, the one that came back first enters the output stage as soon as the
stage has room for its tokens beside the requests that stand in it; one that is still on its way holds nothing up. -/
def Obligations.SequencingAndAnswers : Prop :=
  (∀ (s : State),
    let e := s.cur.elem
    let port3 := fun (d : BitVec 28) => destIsCt d = true ∧ destPort d = 3
    let bad := fun (r : D2) => (r.ndest ≠ 0#2 ∧ port3 r.destA) ∨ ((r.ndest = 2#2 ∨ r.ndest = 3#2) ∧ port3 r.destB)
    let passed : Token := { s.cur.t0 with mc := false, xd := false, par := false }
    (∀ r : D2, let v := r.view 0x0A
      let c := ((s.elem e).seqCtr.look s.cur.node).getD r.lit
      Dests1Ok s v → ∃ t, exec (.seq r) s = .next t ∧ OnlyElem e s t ∧
        t.elem e = { s.elem e with
          outStage := (s.elem e).outStage ++ s.flights s.cur v (outs1 v { passed with seq := c })
          seqCtr := (t.elem e).seqCtr } ∧
        ∀ n, (t.elem e).seqCtr.look n = if n = s.cur.node then some (if s.cur.t0.eod = 0 then c + 1 else r.lit)
          else (s.elem e).seqCtr.look n) ∧
    (∀ r : D2, (s.opB (r.view 0x09)).toNat = 0 → ¬ bad r → exec (.rpt r) s = .next s) ∧
    (∀ r : D2, (s.opB (r.view 0x09)).toNat < 2 ^ 32 → bad r →
      exec (.rpt r) s = .next (s.raise s.cur (r.view 0x09) 0x01 5)) ∧
    (∀ r : D2, let v := r.view 0x09
      let n := (s.opB v).toNat
      0 < n → n < 2 ^ 32 → ¬ bad r → Dests1Ok s v → Changes (.rpt r) s e fun x => { x with
        outStage := x.outStage ++ s.flights s.cur v (outs1 v (copyTok passed 0 n))
        rpt := if n = 1 then x.rpt else some { f := s.cur, sent := 1, total := n } }) ∧
    (∀ p : Rpt, let k := s.at_.a
      let v := s.view p.f.key
      (s.elem k).rpt = some p → p.f.elem = k → (s.elem k).stop = false → s.marksAhead k p.f.key = false → Dests1Ok s v →
      (s.elem k).outStage.length + s.asked k + (outs1 v {}).length ≤ 4 → s.stageHeld k = false → Changes .rptCopy s k fun x => { x with
        outStage := x.outStage ++ s.flights p.f v (outs1 v (copyTok { p.f.t0 with mc := false, xd := false, par := false } p.sent p.total))
        rpt := if p.sent + 1 < p.total then some { p with sent := p.sent + 1 } else none })) ∧
  (∀ (s : State) (a : Answer) (away rest : List Answer),
    let k := s.at_.a
    (s.elem k).answers = away ++ a :: rest → (∀ x ∈ away, s.crossing x.via = true) → s.crossing a.via = false →
    (s.elem k).outStage.length + s.asked k + a.toks.length ≤ 4 →
    Changes .externalAnswerReturn s k fun x => { x with outStage := x.outStage ++ a.toks, answers := away ++ rest })

/-- R138: `falloc`, `call`, `spawn`, `loopin`, `iter`, `ffree` of an FX value, and `fxinfo` with selector 2, 3 or 5 leave
for the allocator of their region: the request stands behind those on their way to it, brought by a message where the
allocator is on another die (R404), and nothing else changes. R138: ALLOC_REQUEST puts the oldest request of a region that
has come to it into its allocator, which holds up to 256, with the cycle at which it arrived. -/
def Obligations.AllocatorRequests : Prop :=
  (∀ (s : State),
    let rid := s.ridOf s.cur.sq
    let asks := fun (i : Instr) (k : AKind) => ∃ t n, exec i s = .next t ∧
      t = { s with regions := t.regions, serial := t.serial, chans := t.chans } ∧
      Posts s t (sqDie s.cur.sq) (sqDie (s.region rid).famt) n ∧
      (t.region rid) = { s.region rid with allocIn := (s.region rid).allocIn ++ [{ kind := k, f := s.cur, via := n }] } ∧
      ∀ x, x ≠ rid → t.region x = s.region x
    (∀ r : D1, asks (.falloc r) .falloc) ∧ (∀ r : D2, asks (.call r) .call) ∧ (∀ r : D1, asks (.spawn r) .spawn) ∧
    (∀ r : D2, asks (.loopin r) .loopin) ∧ (∀ r : D2, asks (.iter r) .iter) ∧
    (∀ r : D1, s.opA.toNat < 4096 → asks (.ffree r) .ffree) ∧
    (∀ r : D1, r.lit.toNat = 2 ∨ r.lit.toNat = 3 ∨ r.lit.toNat = 5 → asks (.fxinfo r) .info)) ∧
  (∀ (s : State) (q : AReq),
    let rid := s.at_.a
    (s.region rid).allocIn.find? (fun x => !s.crossing x.via) = some q → (s.region rid).allocQ.length < 256 →
    ∃ t, exec .allocRequest s = .next t ∧ t = { s with regions := t.regions } ∧ (∀ x, x ≠ rid → t.region x = s.region x) ∧
      t.region rid = { s.region rid with
        allocIn := (s.region rid).allocIn.erase q
        allocQ := (s.region rid).allocQ ++ [{ q with since := s.cyc (sqDie (s.region rid).famt) }] })

/-- R138, R141: ALLOC_GRANT of a `falloc` whose region has a free frame beyond its reservations takes the lowest free FX,
writes its descriptor, whose parent is the firing's frame and which has no continuation, and answers the firing with its
own value under the new FX and PATH 0. -/
def Obligations.FallocGrant : Prop := ∀ (s : State) (q : AReq) (rest : List AReq) (g : Nat),
  let rid := s.at_.a
  let r := s.region rid
  let v := s.view q.f.key
  let p := q.f.t0
  r.allocQ = q :: rest → q.kind = .falloc → r.freeCount - r.resCount > 0 →
  g < 4096 → (r.fx.look g).alloc = false → (∀ k, k < g → (r.fx.look k).alloc = true) →
  v.hdr.ndest ≠ 0 → Dests1Ok s v → (∀ c ∈ s.cts, c.2.spawnWait = []) →
  ∃ t b, exec .allocGrant s = .next t ∧ (t.region rid).allocQ = rest ∧ Posts s t (sqDie r.famt) (sqDie q.f.sq) b ∧
    t.fxRec rid g = { alloc := true, slot0 := mkSlot0 p.fx.toNat 0 0 3 } ∧ (∀ k, k ≠ g → t.fxRec rid k = s.fxRec rid k) ∧
    (∀ x, x ≠ rid → t.region x = s.region x) ∧
    t = { s with regions := t.regions, elems := t.elems, serial := t.serial, chans := t.chans } ∧
    (∀ e, e ≠ q.f.elem → t.elem e = s.elem e) ∧
    t.elem q.f.elem = { s.elem q.f.elem with answers := (s.elem q.f.elem).answers ++
      [{ toks := s.flights q.f v (outs1 v { p with mc := false, xd := false, par := false, fx := BitVec.ofNat 12 g, path := 0 }), via := b }] }

/-- R139 steps 1 and 3, R154: `exitw` begins the release of its frame and sends nothing; the frame is marked releasing,
and a release notice goes to the die of every CT that holds something of it. R142, R150: `ret` sends its token to the
continuation in slot 0, under the tag in slot 0, and releases its frame; `loopout` in an iteration frame with a successor
sends under that tag and releases the frame, and without one retires it: RTD is set and the parent admits one iteration
fewer. A `loopout` in any other frame, in one that is retired, or in one whose release has begun raises ILLOP. R139 steps
2 and 4, R155: RELEASE_NOTICE, once the notice is there, takes the weight in slot 2 of a CT's local part to the frame's
record, and the CT discards what it holds of the frame, a part on its way out or in too (the model's reading, log 20);
RELEASE_COMPLETE of a frame that no CT and no memory request keeps returns its FX to the pool and its weight to the load
(the account is the load's: log 24), which completes when RETURNED then equals ISSUED. -/
def Obligations.FrameReleases : Prop :=
  (∀ (r : D1) (s : State),
    let rid := s.ridOf s.cur.sq
    let fx := s.cur.t0.fx.toNat
    exec (.exitw r) s = .next (s.release rid fx) ∧
    (fx ≠ 0 → (s.fxRec rid fx).alloc = true → (s.fxRec rid fx).releasing = false →
      ∃ l, (s.release rid fx).fxRec rid fx = { s.fxRec rid fx with releasing := true, waitCt := s.holders rid fx, notices := l, acks := [] } ∧
        l.map Prod.fst = ((s.holders rid fx).map sqDie).eraseDups) ∧
    (s.release rid fx).mem = s.mem ∧ (s.release rid fx).elems = s.elems ∧ (s.release rid fx).cts = s.cts) ∧
  (∀ (s : State),
    let f := s.cur
    let e := f.elem
    let rid := s.ridOf f.sq
    let fx := f.t0.fx.toNat
    let w := ((s.ct f.sq).slot fx 0).val
    let out : Token := { f.t0 with mc := false, xd := false, par := false, fx := w.extractLsb' 52 12, path := w.extractLsb' 46 6,
                                   rt := w.extractLsb' 44 2 }
    (∀ r : D1, let v := r.view 0x15
      let outs : List Out := [{ dest := w.extractLsb' 16 28, tok := out }]
      s.destFault (w.extractLsb' 16 28) = none →
      ∃ t, exec (.ret r) s = .next (t.release rid fx) ∧ OnlyElem e s t ∧
        t.elem e = { s.elem e with outStage := (s.elem e).outStage ++ s.flights f v outs }) ∧
    (∀ r : D2, let v := r.view 0x19
      let fr := s.fxRec rid fx
      Dests1Ok s v → linkIt fr.link = true → linkRtd fr.link = false → fr.releasing = false →
      ∃ t, OnlyElem e s t ∧ t.elem e = { s.elem e with outStage := (s.elem e).outStage ++ s.flights f v (outs1 v out) } ∧
        (linkSv fr.link = true → exec (.loopout r) s = .next (t.release rid fx)) ∧
        (linkSv fr.link = false → ∃ u, exec (.loopout r) s = .next u ∧ u = { t with regions := u.regions, cts := u.cts } ∧
          (slot0Pfx fr.slot0 ≠ fx → linkRtd (u.fxRec rid fx).link = true ∧
            linkAdm (u.fxRec rid (slot0Pfx fr.slot0)).link = linkAdm (s.fxRec rid (slot0Pfx fr.slot0)).link - 1))) ∧
    (∀ r : D2, let fr := s.fxRec rid fx
      linkIt fr.link = false ∨ linkRtd fr.link = true ∨ fr.releasing = true →
      exec (.loopout r) s = .next (s.raise f (r.view 0x19) 0x01 7))) ∧
  (∀ (s : State),
    let rid := s.at_.a
    let fx := s.at_.b
    let q := s.at_.c
    let fr := s.fxRec rid fx
    let lid := (s.region rid).load
    (q ∈ fr.waitCt → (∀ p ∈ fr.notices, p.1 = sqDie q → s.crossing p.2 = false) → (s.ct q).restoreQ = [] →
      (s.ct q).spawnWait = [] → ∃ t, exec .releaseNotice s = .next t ∧
      (t.fxRec rid fx).weight = fr.weight + ((s.ct q).slot fx 2).val.toNat % 2 ^ 32 ∧
      (t.fxRec rid fx).waitCt = fr.waitCt.filter (· ≠ q) ∧ fx ∉ (t.ct q).spilledFx ∧
      (∀ k ∈ (t.ct q).park, k.fl.tok.fx.toNat ≠ fx) ∧ t.mem = s.mem) ∧
    (fr.alloc = true → fr.releasing = true → fr.waitCt = [] → (∀ n ∈ fr.acks, s.crossing n = false) →
      (s.wctx.look (rid * 4096 + fx)).chain = [] →
      linkIt fr.link = false → linkDrw fr.link = false → fr.answers = [] →
      (s.load lid).phase = .running → (s.load lid).returned + BitVec.ofNat 64 fr.weight ≠ (s.load lid).issued →
      ∃ t, exec .releaseComplete s = .next t ∧ t = { s with regions := t.regions, loads := t.loads, wctx := t.wctx } ∧
        t.fxRec rid fx = {} ∧ (∀ k, k ≠ fx → t.fxRec rid k = s.fxRec rid k) ∧
        t.load lid = { s.load lid with returned := (s.load lid).returned + BitVec.ofNat 64 fr.weight } ∧
        (∀ l, l ≠ lid → t.load l = s.load l)) ∧
    (fr.alloc = true → fr.releasing = true → fr.waitCt = [] → (∀ n ∈ fr.acks, s.crossing n = false) →
      (s.wctx.look (rid * 4096 + fx)).chain = [] →
      linkIt fr.link = false → linkDrw fr.link = false → fr.answers = [] →
      (s.load lid).phase = .running → (s.load lid).returned + BitVec.ofNat 64 fr.weight = (s.load lid).issued →
      ∃ t : State, exec .releaseComplete s = .next (t.endLoad lid 2 0 0) ∧
        (t.load lid).returned = (t.load lid).issued ∧ t.fxRec rid fx = {}))

/-- R28, R144, R326: `stfx` writes its token's VALUE into slot n of the local part, whose check then holds, and into the
descriptor's copy of slots 0 and 1, and sends the token on. R153, R154, R159: `wchk` on a local part of weight 2 or more,
with no split of that part before it, sends its own token on and changes nothing else; on one of weight 0 or 1 it asks the
allocator for a grant, and its token waits. That it waits its turn behind a split of its own part that waits for a grant,
also with weight 2 or more, is the model's reading (log 21). -/
def Obligations.FrameSlotsAndWeights : Prop :=
  (∀ (r : D1) (s : State) (p : Nat × FEntry),
    let v := r.view 0x17
    let f := s.cur
    let fx := f.t0.fx.toNat
    let n := r.lit.toNat
    (s.ct f.sq).entry fx = some p → n < clsSlots p.2.cls → n ≠ 2 → n ≠ 3 → Dests1Ok s v →
    ∃ t, exec (.stfx r) s = .next t ∧ t = { s with elems := t.elems, cts := t.cts, regions := t.regions, ecc := t.ecc } ∧
      (∀ k, t.ecc.look k = if k = slotEcc f.sq (p.2.base.toNat + n) then 0 else s.ecc.look k) ∧
      t.elem f.elem = { s.elem f.elem with outStage := (s.elem f.elem).outStage ++ s.flights f v (outs1 v { f.t0 with mc := false, xd := false, par := false }) } ∧
      (∀ e, e ≠ f.elem → t.elem e = s.elem e) ∧ (∀ q, q ≠ f.sq → t.ct q = s.ct q) ∧
      (t.ct f.sq).slot fx n = { (s.ct f.sq).slot fx n with val := f.t0.val } ∧
      (∀ m, m ≠ n → (t.ct f.sq).slot fx m = (s.ct f.sq).slot fx m) ∧
      (∀ x, x ≠ s.ridOf f.sq → t.region x = s.region x) ∧
      (∀ k, k ≠ fx → t.fxRec (s.ridOf f.sq) k = s.fxRec (s.ridOf f.sq) k) ∧
      (n = 0 → (t.fxRec (s.ridOf f.sq) fx).slot0 = f.t0.val) ∧ (n = 1 → (t.fxRec (s.ridOf f.sq) fx).slot1 = f.t0.val) ∧
      (1 < n → t.regions = s.regions)) ∧
  (∀ (r : D1) (s : State),
    let v := r.view 0x1C
    let f := s.cur
    let rid := s.ridOf f.sq
    let behind := ∃ p ∈ (s.ct f.sq).splitQ, p.1.t0.fx = f.t0.fx
    let joined := { s.ct f.sq with splitQ := (s.ct f.sq).splitQ ++ [(f, 0)] }
    (2 ≤ s.weightOf f → ¬ behind → Dests1Ok s v →
      Sends (.wchk r) s v (outs1 v { f.t0 with mc := false, xd := false, par := false }) 0) ∧
    (s.weightOf f ≤ 1 → ¬ behind → ∃ t n, exec (.wchk r) s = .next t ∧
      t = { s with cts := t.cts, regions := t.regions, serial := t.serial, chans := t.chans } ∧
      Posts s t (sqDie f.sq) (sqDie (s.region rid).famt) n ∧ (∀ q, q ≠ f.sq → t.ct q = s.ct q) ∧ t.ct f.sq = joined ∧
      t.region rid = { s.region rid with allocIn := (s.region rid).allocIn ++ [{ kind := .weight, f := f, via := n }] } ∧
      ∀ x, x ≠ rid → t.region x = s.region x) ∧
    (behind → ∃ t, exec (.wchk r) s = .next t ∧ t = { s with cts := t.cts } ∧
      (∀ q, q ≠ f.sq → t.ct q = s.ct q) ∧ t.ct f.sq = joined))

/-- R345, R347: SPILL_COMPLETE moves the local parts that are being spilled in a run into the spore store, and the run
stands ready for the one that waits for it; RESTORE_COMPLETE writes the local part that is being restored back into its
run. A demanded restore begins in the lowest free run. R346: at the spill matcher of the home MT a token whose local part
has come back goes to its element, ahead of new arrivals, and so does one for a node with one operand that does not use
the frame; the first of two operands parks in the spilled part; a token for a node that reads or writes the frame is held
with the part, and the part's restore is demanded: it takes a free run of its class, or waits behind the restore under
way. That a token that has come back has its turn ahead of new arrivals is the model's reading (log 28). -/
def Obligations.SpillRestoreMatcher : Prop :=
  (∀ (s : State),
    let q := s.at_.a
    let c := s.ct q
    (∀ run ∈ c.spillRuns, run.base = s.at_.b → run.done = false → c.restoreQ = [] → c.spawnWait = [] →
      ∃ t, exec .spillComplete s = .next t ∧ t = { s with cts := t.cts } ∧ (∀ k, k ≠ q → t.ct k = s.ct k) ∧
        t.ct q = c.completeSpill s.at_.b ∧ ∀ fx ∈ c.spilledFx, fx ∈ (t.ct q).spilledFx) ∧
    (∀ fx b, c.restoring = some (fx, b) → c.restoreQ = [] → ∃ t, exec .restoreComplete s = .next t ∧
        (t.ct q).restoring = none ∧ fx ∉ (t.ct q).spilledFx ∧ (t.ct q).spilled.look fx = {} ∧ t.mem = s.mem ∧
        ∃ ix : Nat, ((t.ct q).ftab.look ix).v = true ∧ ((t.ct q).ftab.look ix).fx = BitVec.ofNat 12 fx ∧
          ((t.ct q).ftab.look ix).base = BitVec.ofNat 14 b ∧ ((t.ct q).ftab.look ix).cls = (c.spilled.look fx).cls) ∧
    (∀ fx rest, c.restoring = none → c.restoreQ = fx :: rest → fx ∈ c.spilledFx → ∀ b : Nat,
      (∀ run ∈ c.spillRuns, run.need ≠ .restore fx) →
      c.findRun (clsSlots (c.spilled.look fx).cls) (s.runCount q (clsSlots (c.spilled.look fx).cls)) = some b →
      ∃ t, exec .restoreStartSpontaneous s = .next t ∧ t = { s with cts := t.cts } ∧ (∀ k, k ≠ q → t.ct k = s.ct k) ∧
        t.ct q = { c.takeRun b with restoring := some (fx, b), restoreQ := rest })) ∧
  (∀ (s : State) (fl : Flight) (rest : List Flight) (i : OpInfo),
    let q := s.at_.a
    let c := s.ct q
    let t := fl.tok
    let fx := t.fx.toNat
    let v := s.view (destKey t.dest)
    let fr := s.fxRec (s.ridOf q) fx
    let e := q * 4 + destEl t.dest
    let sp := c.spilled.look fx
    c.matcherIn = fl :: rest → fr.alloc = true → fr.releasing = false →
    (fx ∉ c.spilledFx → ∃ u, exec .spillMatcherToken s = .next u ∧ u = { s with elems := u.elems, cts := u.cts } ∧
      u.ct q = { c with matcherIn := rest, matcherCount := c.matcherCount + 1 } ∧
      u.elem e = { s.elem e with back := (s.elem e).back ++ [{ fl with link := 6, ready := 0 }] }) ∧
    (fx ∈ c.spilledFx → s.parkedAt q fx = false → opInfo v.op.toNat = some i →
      (matcherRow v i = .forward → ∃ u, exec .spillMatcherToken s = .next u ∧ u = { s with elems := u.elems, cts := u.cts } ∧
        (u.ct q).matcherIn = rest ∧ u.elem e = { s.elem e with back := (s.elem e).back ++ [{ fl with link := 8, ready := 0 }] }) ∧
      (matcherRow v i = .match_ → tokenOperands i v = 2 → (∃ n, i.ins = .ports n) → c.entry fx = none → c.pastClass v fx = false →
        v.slot < sp.slots.length → destSq t.dest = q → (c.slot fx v.slot).b = false → (c.slot fx v.slot).p = false →
        ∃ u, exec .spillMatcherToken s = .next u ∧ u = { s with cts := u.cts } ∧ (u.ct q).matcherIn = rest ∧
          (u.ct q).slot fx v.slot = { c.slot fx v.slot with val := t.val, p := true, prt := BitVec.ofNat 2 (destPort t.dest), tok := t }) ∧
      (matcherRow v i = .hold → fl.link ≠ 5 → c.restoreQ = [] →
        (c.restoring = none → c.spillRuns = [] ∧ (c.findRun (clsSlots sp.cls) (s.runCount q (clsSlots sp.cls))).isSome = true) → ∃ u, exec .spillMatcherToken s = .next u ∧
        u = { s with cts := u.cts } ∧ (u.ct q).matcherIn = rest ∧ ((u.ct q).spilled.look fx).held = sp.held ++ [fl] ∧
        (∀ b, c.restoring = none → c.spillRuns = [] → c.findRun (clsSlots sp.cls) (s.runCount q (clsSlots sp.cls)) = some b →
          (u.ct q).restoring = some (fx, b) ∧ (u.ct q).restoreQ = []) ∧
        (∀ g b, c.restoring = some (g, b) → g ≠ fx → (u.ct q).restoring = some (g, b) ∧ (u.ct q).restoreQ = [fx]))))

/-- R80 to R82: `cmbfaddx` over up to 2^31 addends of FP32, BF16 or FP16: W is the exact sum of the finite addends in
units of 2^-160, in [-2^319, 2^319), OVF is not set, and when every addend is finite and the sum is not 0 the released
value is that sum rounded once, to nearest even; W, the state word, the result and its flags are the same in every order
of arrival. The worked example: 1.0, 2^24 and -2^24 in any order leave W = 2^160 and release 1.0 with no flag. -/
def Obligations.ExactSumIgnoresOrder : Prop := ∀ (v : RecView) (l : List Word),
  let f := fmtOfTy v.tyN
  let addend := fun (x : Word) => match f.value (lane (tyW v.tyN) x 0) with
    | .fin n m e => (if n then -1 else 1 : Int) * (m * 2 ^ (e + 160).toNat : Nat)
    | _ => 0
  let sum := fun (x : List Word) => x.foldl (fun p a => faddxTake v p.1 p.2 a) (0, 1#64 <<< 58)
  let exact := (l.map addend).sum
  (v.tyN = 9 ∨ v.tyN = 10 ∨ v.tyN = 13 → l.length ≤ 2 ^ 31 →
    wInt (sum l).1 = exact ∧ -2 ^ 319 ≤ exact ∧ exact < 2 ^ 319 ∧ (sum l).2.getLsbD 59 = false ∧
    ((∀ x ∈ l, ∃ n m e, f.value (lane (tyW v.tyN) x 0) = .fin n m e) → exact ≠ 0 →
      faddxResult v (sum l).1 (sum l).2 = (let y := f.round rne (decide (exact < 0)) { mag := exact.natAbs, exp := -160 }
        (BitVec.ofNat 64 y.1, y.2))) ∧
    ∀ m, l.Perm m → sum m = sum l ∧ faddxResult v (sum m).1 (sum m).2 = faddxResult v (sum l).1 (sum l).2) ∧
  (v.tyN = 13 → l.Perm [0x3F800000#64, 0x4B800000#64, 0xCB800000#64] →
    (sum l).1 = 2 ^ 160 ∧ faddxResult v (sum l).1 (sum l).2 = (0x3F800000#64, 0#8))

/-- R32, R33, R34, R103, R124: a data token whose turn it is among those that an element's input stage offers, and that
passes the checks of R103 at its node, leaves the stage. It is a firing of a node with one operand; at a node with two it
parks in the node's slot, and the token that finds the other port's operand parked makes the firing with it and frees the
slot. A second token for the parked port raises MISPORT, whose detail is the port. That of several offered tokens the one
that came first has its turn is the model's choice where R32 and R341 leave it open (log 3). -/
def Obligations.TokenArrivalMatches : Prop := ∀ (s : State) (fl : Flight) (p : Nat × FEntry) (i : OpInfo) (n : Nat),
  let e := s.at_.a
  let q := e / 4
  let t := fl.tok
  let fx := t.fx.toNat
  let port := destPort t.dest
  let v := s.view (destKey t.dest)
  let fr := s.fxRec (s.ridOf q) fx
  let x := s.elem e
  let y := x.without s.at_.b
  let sl := (s.ct q).slot fx v.slot
  let f : Firing := { elem := e, node := destNode t.dest }
  x.stage[s.at_.b]? = some fl → s.offered e s.at_.b fl = true → s.turnOf e s.at_.b fl = true → t.par = false →
  (s.regionOf q).withdraw = false → nodeCheck (s.regionOf q).level (s.litDeclared e v) v t = none →
  fr.alloc = true → fr.releasing = false → s.parkedAt q fx = false → (s.ct q).entry fx = some p → p.2.sp = false →
  (∀ k, s.ecc.look k = 0) → opInfo v.op.toNat = some i → i.ins = .ports n →
  v.op.toNat ≠ 0x16 → v.op.toNat ≠ 0x17 → v.op.toNat ≠ 0x97 → x.readyQ.length < 64 → v.slot + slotSpan i v ≤ clsSlots p.2.cls →
  (tokenOperands i v = 1 → ∃ u, exec .tokenArrival s = .next u ∧ u = { s with elems := u.elems, cts := u.cts } ∧
    u.elem e = { y with readyQ := x.readyQ ++ [f.withPort port t] }) ∧
  (tokenOperands i v = 2 → sl.b = false → sl.p = false → ∃ u, exec .tokenArrival s = .next u ∧
    u = { s with elems := u.elems, cts := u.cts } ∧ u.elem e = y ∧
    (u.ct q).slot fx v.slot = { sl with val := t.val, p := true, prt := BitVec.ofNat 2 port, tok := t }) ∧
  (tokenOperands i v = 2 → sl.b = false → sl.p = true → sl.prt.toNat ≠ port → ∃ u, exec .tokenArrival s = .next u ∧
    u = { s with elems := u.elems, cts := u.cts } ∧
    u.elem e = { y with readyQ := x.readyQ ++ [(f.withPort port t).withPort sl.prt.toNat { sl.tok with val := sl.val }] } ∧
    ((u.ct q).slot fx v.slot).p = false) ∧
  (tokenOperands i v = 2 → sl.b = false → sl.p = true → sl.prt.toNat = port → ∃ u : State, u = { s with elems := u.elems, cts := u.cts } ∧
    u.elem e = y ∧ exec .tokenArrival s = .next (u.raiseToken fl 0x19 port false))

/-- R341, R342, R375, R378: ROUTER_HOP takes a token of an output stage, behind none of its node and route tag, into the
local input of its router, and the head of a router input, when its route tag has its turn at the output, one square on, x
first and then y, or into the input stage of its element, each where there is room; a control token is consumed; a
multicast token on its group's die goes on as one copy for the destinations that go the same way, and stays for the
others; of those that end here each leaves by itself. Only whether a hop's three parity retries all fail is open (log 12).
That a multicast copy splits where its destinations' ways part (log 60), and that a token which must wait in an input
stage holds what is behind it on its link and route tag (log 108), are the model's readings. R375: on its own die a token
goes x first: while its column differs the next hop changes the column by one towards it, then the row, and at its square
it is delivered; every such hop comes nearer by one. -/
def Obligations.RouterHops : Prop :=
  (∀ (s : State) (fl : Flight) (rest : List Flight),
    let a := s.at_.a
    let b := s.at_.b
    let rt := s.at_.c
    let k := rinKey a b rt
    let dst := fun (q inp : Nat) => rinKey q inp fl.tok.rt.toNat
    let moved := fun (x : Flight) =>
      ({ x with tok := { x.tok with par := x.tok.par || Config.chance s.free }, ready := s.cycles + 1 } : Flight)
    let turn := s.rtNext.put (a * 16 + s.outputOf a fl) ((rt + 1) % 4)
    let goes := b ≤ 4 ∧ s.rin.look k = fl :: rest ∧ fl.tok.kind ≠ 3#2 ∧ fl.ready ≤ s.cycles ∧
      s.rtTurn a (s.outputOf a fl) rt = true ∧ (isCt a = true → s.linkHeld a b rt = none)
    let e := a * 4 + (b - 8)
    let out := (s.elem e).outStage
    (8 ≤ b → b ≤ 11 → out[rt]? = some fl → fl.ready ≤ s.cycles → s.stageHeld e = false →
      (∀ x ∈ out.take rt, ¬ (x.src = fl.src ∧ x.tok.rt = fl.tok.rt)) → (s.rin.look (dst a 0)).length < 8 →
      ∃ t, exec .routerHop s = .next t ∧ t = { s with elems := t.elems, rin := t.rin, free := s.free + 1 } ∧
        t.elem e = { s.elem e with outStage := out.eraseIdx rt } ∧ (∀ j, j ≠ e → t.elem j = s.elem j) ∧
        ∀ j, t.rin.look j = if j = dst a 0 then insertLocal (s.rin.look j) (moved fl) else s.rin.look j) ∧
    (b ≤ 4 → s.rin.look k = fl :: rest → fl.tok.kind = 3#2 → ∃ t, exec .routerHop s = .next t ∧
      t = { s with rin := t.rin, routerErr := t.routerErr } ∧ ∀ j, t.rin.look j = if j = k then rest else s.rin.look j) ∧
    (goes → fl.tok.mc = true → destDie fl.tok.dest = sqDie a → s.destsOf fl = [] →
      ∃ t, exec .routerHop s = .next t ∧ t = { s with rin := t.rin, rtNext := turn } ∧
        ∀ j, t.rin.look j = if j = k then rest else s.rin.look j) ∧
    (∀ d l m q2 i2, goes → fl.tok.mc = true → destDie fl.tok.dest = sqDie a → s.branchAt a (s.destsOf fl) = (d :: l, m) →
      nextHop a d = .hop q2 i2 → q2 ∉ s.fused → s.heldOut (s.lidOf q2 != s.lidOf a) q2 d (fl.copyTo (d :: l)) = false →
      dst q2 i2 ≠ k → (s.rin.look (dst q2 i2)).length < 8 → ∃ t, exec .routerHop s = .next t ∧
        t = { s with rin := t.rin, free := s.free + 1, rtNext := turn } ∧ ∀ j, t.rin.look j =
          if j = k then (if m = [] then rest else { fl with dests := m } :: rest)
          else if j = dst q2 i2 then s.rin.look j ++ [moved (fl.copyTo (d :: l))] else s.rin.look j) ∧
    (∀ q2 i2, goes → fl.tok.mc = false → fl.dests = [] → nextHop a fl.tok.dest = .hop q2 i2 →
      q2 ∉ s.fused → s.heldOut (s.lidOf q2 != s.lidOf a) q2 fl.tok.dest fl = false →
      dst q2 i2 ≠ k → (s.rin.look (dst q2 i2)).length < 8 → ∃ t, exec .routerHop s = .next t ∧
        t = { s with rin := t.rin, free := s.free + 1, rtNext := turn } ∧ ∀ j, t.rin.look j = if j = k then rest else
          if j = dst q2 i2 then s.rin.look j ++ [moved fl] else s.rin.look j) ∧
    (goes → fl.tok.mc = false → fl.dests = [] → nextHop a fl.tok.dest = .deliver →
      a ∉ s.fused → isCt a = true →
      (s.elem (destElem fl.tok.dest)).inStage.length + (s.elem (destElem fl.tok.dest)).back.length < 4 →
      ∃ t, exec .routerHop s = .next t ∧ t = { s with rin := t.rin, elems := t.elems, rtNext := turn } ∧
        (∀ j, t.rin.look j = if j = k then rest else s.rin.look j) ∧
        t.elem (destElem fl.tok.dest) = { s.elem (destElem fl.tok.dest) with
          inStage := (s.elem (destElem fl.tok.dest)).inStage ++ [{ fl with link := b, ready := s.cycles + 1 }] }) ∧
    (∀ d m, goes → fl.tok.mc = true → destDie fl.tok.dest = sqDie a → s.destsOf fl = d :: m → nextHop a d = .deliver →
      a ∉ s.fused → isCt a = true → (s.elem (destElem d)).inStage.length + (s.elem (destElem d)).back.length < 4 →
      ∃ t, exec .routerHop s = .next t ∧ t = { s with rin := t.rin, elems := t.elems, rtNext := turn } ∧
        (∀ j, t.rin.look j = if j = k then (if m = [] then rest else { fl with dests := m } :: rest) else s.rin.look j) ∧
        t.elem (destElem d) = { s.elem (destElem d) with inStage := (s.elem (destElem d)).inStage ++
          [{ fl with tok := { fl.tok with mc := false, dest := d }, dests := [], link := b, ready := s.cycles + 1 }] })) ∧
  (∀ (q x y : Nat), sqX q < 64 → sqY q < 64 → x < 64 → y < 64 →
    (sqX q = x → sqY q = y → stepTo q x y = .deliver) ∧
    (sqX q ≠ x → ∃ q2 inp, stepTo q x y = .hop q2 inp ∧ sqY q2 = sqY q ∧ sqDie q2 = sqDie q ∧
      (sqX q < x → sqX q2 = sqX q + 1) ∧ (x < sqX q → sqX q2 = sqX q - 1)) ∧
    (sqX q = x → sqY q ≠ y → ∃ q2 inp, stepTo q x y = .hop q2 inp ∧ sqX q2 = x ∧ sqDie q2 = sqDie q ∧
      (sqY q < y → sqY q2 = sqY q + 1) ∧ (y < sqY q → sqY q2 = sqY q - 1)))

/-- R394, R395, R397 to R402: the next frame of a channel carries what has had the time of a crossing and has its permits;
one that comes as it was sent is received whole, and its control flit goes to the sender of the other direction; one that
fails its check is answered with NAK and nothing of it is taken; a discarded message is counted. A channel of eight failed
replays leaves its link, what it has not delivered is replayed on the lowest module that remains, and until then the link
sends nothing else. At its die a token enters the mesh at its entry square, and any other message is taken up; CD1's
bridge passes a message on to the link by which it leaves again, for a crossing more by the timebase of the die that
receives it. Training sets the modules that pass. The layout of a frame's flits (log 34), what travels as a message (log
86), the order of the messages while a link drains (log 107) and the entry squares of open places (log 60) are the
model's. -/
def Obligations.LinkEvents : Prop := ∀ (s : State),
  (∀ (c : Nat), let ch := s.chans.look c
    let up := s.links.look (c / 64)
    let b := ch.build (s.tick (dirTo (c / 64) (c / 32 % 2))) false
    let f := (b.frames[ch.next]?).getD {}
    let o := if c / 32 % 2 = 0 then c + 32 else c - 32
    c % 32 ∈ up.active → up.draining = false → ch.nak = false → ch.next = ch.frames.length → ch.next < 64 →
    ∃ t, exec (.mplFrameReceive c 0) s = .next t ∧ t = { s with chans := t.chans } ∧
      (∀ k, k ≠ c → k ≠ o → t.chans.look k = s.chans.look k) ∧
      t.chans.look c = { b with rx := ch.rx ++ f.msgs.map (fun m => { m with replay := false }), next := ch.next + 1
                                rseq := ch.rseq + 1, any_ := true, nak := false, replay := false, fails := 0 } ∧
      t.chans.look o = (s.chans.look o).control (frameBits f (s.chans.look o) / 2 ^ (256 * 15))) ∧
  (∀ c err : Nat, let ch := s.chans.look c
    let up := s.links.look (c / 64)
    let b := ch.build (s.tick (dirTo (c / 64) (c / 32 % 2))) up.draining
    let f := (b.frames[ch.next]?).getD {}
    let o := if c / 32 % 2 = 0 then c + 32 else c - 32
    c % 32 ∈ up.active → 0 < err → err ≤ 4096 → ch.nak = false → ch.next = ch.frames.length → ch.next < 64 →
    frameOk (frameBits f (s.chans.look o) ^^^ 2 ^ (err - 1)) = false →
    exec (.mplFrameReceive c err) s = .next { s with chans := (s.chans.put c b).upd c fun h => { h with nak := true, replay := false } }) ∧
  (∀ c err : Nat, let up := s.links.look (c / 64)
    c % 32 ∈ up.active → 4096 < err → ∃ t, exec (.mplFrameReceive c err) s = .next t ∧ t = { s with links := t.links } ∧
      (∀ l, l ≠ c / 64 → t.links.look l = s.links.look l) ∧
      t.links.look (c / 64) = if c / 32 % 2 = 0 then { up with disc1 := min (up.disc1 + 1) 0xFFFF }
        else { up with disc0 := min (up.disc0 + 1) 0xFFFF }) ∧
  (let k := s.at_.a
   let m := k % 32
   let l := k / 64
   let left := (s.links.look l).active.filter (· ≠ m)
   let mark := fun (l : List Msg) => l.map fun x => ({ x with replay := true } : Msg)
   8 ≤ (s.chans.look k).fails → m ∈ (s.links.look l).active → ∃ t, exec .channelRemove s = .next t ∧
    t = { s with links := t.links, chans := t.chans } ∧ (t.links.look l).active = left ∧ (left = [] → t.linkUp l = false) ∧
    (∀ m2 tl dir, left = m2 :: tl → dir < 2 → m2 < 32 →
      let c := s.chans.look (chanKey l dir m)
      let d := s.chans.look (chanKey l dir m2)
      let n := if d.cut = 0 then 0 else 1
      c.undelivered ≠ [] → (t.links.look l).draining = true ∧
        (t.chans.look (chanKey l dir m2)).q = mark (d.q.take n) ++ mark c.undelivered ++ d.q.drop n)) ∧
  (∀ (m : Msg) (rest : List Msg) (l2 : Nat) (tl : List Nat), let k := s.at_.a
    let dir := k / 32 % 2
    let c := s.chans.look k
    let d2 := dirOf l2 1
    let o := chanKey l2 d2 ((s.links.look l2).channel m)
    takeCode c.rx s.at_.b = some (m, rest) → dirTo (k / 64) dir = 1 → m.dst ≠ 1 → pathLinks 1 m.dst = l2 :: tl → o ≠ k →
    s.overtakes k m = false →
    (m.cls = .tok → m = { fl := m.fl, dst := targetDie m.fl.tok.dest, notBefore := m.notBefore } ∧ s.linkUp l2 = true ∧
      permitOk ((s.chans.look o).q.foldl (fun t x => x.charge t) (s.chans.look o).used) m.code 1 = true) →
    ∃ t, exec .bridgeForward s = .next t ∧ t = { s with chans := t.chans } ∧
      t.chans.look k = { c.passed [m] with rx := rest } ∧
      t.chans.look o = { s.chans.look o with q := (s.chans.look o).q ++
        [{ m with leg := 0, notBefore := s.tick (dirTo l2 d2) + 12 }] }) ∧
  (∀ (m : Msg) (rest : List Msg), let k := s.at_.a
    let c := s.chans.look k
    let l := k / 64
    let dir := k / 32 % 2
    let e := entrySquare l dir m.fl
    let fl := m.fl
    s.at_.b = 13 → takeCode c.rx s.at_.c = some (m, rest) → m.dst = dirTo l dir → s.overtakes k m = false →
    (m.cls ≠ .tok → (∀ x ∈ s.notices, x.via = m.id → m.id = 0) →
      ∃ t, exec .routerHop s = .next t ∧ t = { s with chans := t.chans, elems := t.elems } ∧
      t.chans.look k = { c.passed [m] with rx := rest }) ∧
    (m.cls = .tok → fl.tok.mc = false → fl.dests = [] → dirTo l dir < 3 → s.heldOut true e.1 fl.tok.dest fl = false →
      (s.rin.look (rinKey e.1 e.2 fl.tok.rt.toNat)).length < 8 → ∃ t, exec .routerHop s = .next t ∧
      t = { s with chans := t.chans, rin := t.rin, free := s.free + 1 } ∧ t.chans.look k = { c.passed [m] with rx := rest } ∧
      ∃ par, (t.rin.look (rinKey e.1 e.2 fl.tok.rt.toNat)) = s.rin.look (rinKey e.1 e.2 fl.tok.rt.toNat) ++
        [{ fl with tok := { fl.tok with par := par }, ready := s.cycles + 1 }])) ∧
  (∀ (l : Nat) (pass : List Nat), ∃ t, exec (.linkTraining l pass) s = .next t ∧ t = { s with links := t.links, chans := t.chans } ∧
    (∀ k, k ≠ l → t.links.look k = s.links.look k) ∧ (∀ k, k / 64 ≠ l → t.chans.look k = s.chans.look k) ∧
    ∀ m, m ∈ (t.links.look l).active ↔ m < 32 ∧ m < linkModules l ∧ 4 ≤ pass.getD m 0)

/-- R405 to R409: a link-up of a running I/O die's port records the partner, once the package has its PKGID, and sends PKG
and the port's number to it; a port-down records its loss; a token from a scale-up port that serves is sent on under its
ingress registration and answered with an ACK, and without a registration with a refusal; so is one from an endpoint of
class 001, without an answer; `xsend` sends its token, KIND 00 to endpoint ING of class 001, out on the port of the first
XRT entry that holds the pair, and the firing answers with its value or with BOUNDS 3 as the remote die accepted or
refused it. What the outside answers (log 47), the INGTAB word (log 42) and the messages on a port's link (log 86) are the
model's. R258, R404: `xsend` with its reserved bits 0 becomes a request to its side's I/O die, which keeps the routing
word. -/
def Obligations.ScaleUpAndCrossPackage : Prop :=
  (∀ (s : State),
    (∀ (port : Nat) (pkg : BitVec 16) (peer : BitVec 8), s.pkgid ≠ 0xFFFF → port < 144 → s.running (portDie port) = true →
      ∃ t, exec (.scaleupLinkUp port pkg peer) s = .next t ∧
        t = { s with ports := t.ports, links := t.links, chans := t.chans, lostMsgs := t.lostMsgs } ∧
        (∀ k, t.ports.look k = if k = port then { status := 1, pkg := pkg, peer := peer } else s.ports.look k) ∧
        (∀ l, t.links.look l = if l = portLink port then { built := 1, active := [0] } else s.links.look l) ∧
        (t.chans.look (chanKey (portLink port) 0 0)).q.map (·.data) = [toBytes 2 s.pkgid ++ toBytes 1 port] ∧
        ∀ k, k / 64 ≠ portLink port → t.chans.look k = s.chans.look k) ∧
    (∀ (port : Nat) (failed : Bool), ∃ t, exec (.scaleupPortDown port failed) s = .next t ∧
        t = { s with ports := t.ports, links := t.links, chans := t.chans, lostMsgs := t.lostMsgs } ∧
        (∀ k, t.ports.look k = if k = port then { s.ports.look k with status := if failed then 2 else 0 } else s.ports.look k) ∧
        (∀ l, t.links.look l = if l = portLink port then { s.links.look l with active := [] } else s.links.look l) ∧
        ∀ k, t.chans.look k = if k / 64 = portLink port then {} else s.chans.look k) ∧
    (∀ (n p : Nat) (val : Word) (eod : BitVec 3) (seq : BitVec 8) (rt : BitVec 2), let g := s.ing.look n
      let side := portDie p - 3
      let k := chanKey (portLink p) 0 0
      n < 256 → s.at_.a = 0 → s.at_.b = p → p < 144 → (s.ports.look p).status = 1 → s.running (portDie p) = true →
      (s.links.look (portLink p)).active = [0] → (s.links.look (portLink p)).old = [] →
      ∃ t m, exec (.ingressDelivery n val eod seq rt) s = .next t ∧
        t = { s with ioOut := t.ioOut, free := s.free + 1, serial := s.serial + 1, chans := t.chans } ∧
        (t.chans.look k).q = (s.chans.look k).q ++ [m] ∧ m.cls = .ack ∧
        m.head = ackWord (Config.pick s.free) (if g.v then 0 else 2) 2 ∧
        t.ioOut.look side = s.ioOut.look side ++ (if g.v then
          [{ tok := addressed g.dest { dest := g.dest, fx := g.fx, path := g.path, rt := rt, val := val, eod := eod, seq := seq }
             src := ingressSrc side, lid := g.lid }] else [])) ∧
    (∀ (n k : Nat) (val : Word) (eod : BitVec 3) (seq : BitVec 8) (rt : BitVec 2) (fl : Flight) (rest : List Flight),
      let g := s.ing.look (k % 256)
      s.at_.a = k + 1 → s.ioIn.look k = fl :: rest → k / 256 % 8 = 1 → g.v = true →
      ∃ t, exec (.ingressDelivery n val eod seq rt) s = .next t ∧ t = { s with ioIn := t.ioIn, ioOut := t.ioOut } ∧
        t.ioIn.look k = rest ∧ t.ioOut.look (k / 2048) = s.ioOut.look (k / 2048) ++
          [{ tok := addressed g.dest { dest := g.dest, fx := g.fx, path := g.path, rt := fl.tok.rt, val := fl.tok.val,
                                       eod := fl.tok.eod, seq := fl.tok.seq }
             src := ingressSrc (k / 2048), lid := g.lid }]) ∧
    (let id := s.at_.a
     let r := s.reqs.look id
     let w := (r.data[0]?.getD 0).toNat
     ∀ i p : Nat, r.op = 0xBF → r.stage = .sent → s.reached r = true → portDie p = r.io.getD 3 → r.issued = false →
      (∀ o ∈ s.reqs, ¬ (o.1 < id ∧ o.2.op = 0xBF ∧ o.2.stage = .sent ∧ o.2.issued = false ∧ o.2.f.key = r.f.key)) →
      ((List.range 1024).find? fun j => xrtHits (s.xrt.look j) (fld w 0 16) (fld w 16 8)) = some i →
      p = xrtPort (s.xrt.look i) (fld w 16 8) (fld w 24 2) → p < 144 → (s.ports.look p).status = 1 → s.running (portDie p) = true →
      (let c := s.chans.look (chanKey (portLink p) 0 0)
       permitOk (c.q.foldl (fun t x => x.charge t) c.used) (fld w 24 2) 1 = true) →
      ∃ t tok, exec .xsendRoute s = .next t ∧
        t = { s with portOut := t.portOut, reqs := t.reqs, free := s.free + 1, serial := s.serial + 1, chans := t.chans } ∧
        t.portOut = s.portOut ++ [(p, { tok := tok, src := r.f.key, lid := r.lid })] ∧
        t.reqs.look id = { r with issued := true, via := s.serial + 1 } ∧ t.crossing (s.serial + 1) = true ∧
        tok.kind = 0 ∧ fld tok.dest.toNat 26 2 = 3 ∧ fld tok.dest.toNat 22 3 = 1 ∧ fld tok.dest.toNat 14 8 = fld w 16 8 ∧
        tok.val = r.f.t0.val ∧ tok.eod = r.f.t0.eod ∧ tok.seq = r.f.t0.seq ∧ tok.rt = BitVec.ofNat 2 (fld w 24 2)) ∧
    (let id := s.at_.a
     let r := s.reqs.look id
     let w := (r.data[0]?.getD 0).toNat
     ∀ (k : Word) (rest : List Word), r.op = 0xBF → r.stage = .sent → s.reached r = true → r.issued = true → r.words = k :: rest →
      ((List.range 1024).any fun j => xrtHits (s.xrt.look j) (fld w 0 16) (fld w 16 8)) = true →
      exec .xsendRoute s = .next (if k = 0 then s.replyVal id (BitVec.ofNat 64 w) else s.replyFails id 0x08 3))) ∧
  (∀ (r : D2) (s : State),
    let d := sqDie s.cur.sq
    let v := r.view 0xBF
    fld (s.opB v).toNat 26 38 = 0 → ∃ t, exec (.xsend r) s = .next t ∧
      t = { s with serial := t.serial, reqs := t.reqs, chans := t.chans } ∧ (∀ n, n ≠ s.serial + 1 → t.reqs.look n = s.reqs.look n) ∧
      let q := t.reqs.look (s.serial + 1)
      Posts { s with serial := s.serial + 1 } t d (if d = 2 then 4 else 3) q.via ∧
      q.f = s.cur ∧ q.op = 0xBF ∧ q.lid = s.lidOf s.cur.sq ∧ q.die = d ∧ q.stage = .sent ∧
        q.io = some (if d = 2 then 4 else 3) ∧ q.data = [s.opB v])

/-- R96, R230 to R233: `ld`, `st`, `ild`, `ist`, `iclr`, `ldsw`, `swset` and `swadd` whose address operand is below 2^56
and whose effective address is a multiple of the access granule become a request of that address and size, with the data
of port 1, on its way to the frame's wave-order unit, by a message where that is on another die; `wfence` takes its place
there too. Nothing else changes: no byte of memory is read or written before the request is performed at its home. R230,
R237: `ldn`, `stn` and `pref` stand outside wave order: the request is formed, its translation begins at once, and every
request that can move moves; `pref` aligns its address to 64 bytes, and one of 2^56 or above sends a word with V = 0.
R239, R240: an `alr` whose descriptor is well formed reads its eight slots into its request and sets them busy. -/
def Obligations.MemoryRequestsLeave : Prop :=
  (∀ (r : FM) (s : State),
    let f := s.cur
    let asks := fun (i : Instr) (op : BitVec 8) (data : List Word) =>
      let v := r.view op
      let unit := s.unitOf (s.ridOf f.sq) f.t0.fx.toNat
      (∀ p ∈ s.reqs, p.2.again = false) →
      ∃ t b, exec i s = .next t ∧ t = { s with serial := t.serial, reqs := t.reqs, chans := t.chans } ∧
        Posts { s with serial := s.serial + 1 } t (sqDie f.sq) (unit / 48) b ∧
        (∀ n, n ≠ s.serial + 1 → t.reqs.look n = s.reqs.look n) ∧
        t.reqs.look (s.serial + 1) =
          { f := f, op := op.toNat, rid := s.ridOf f.sq, lid := s.lidOf f.sq, die := unit / 48, wave := true
            cluster := unit, pred := r.pred.toNat, own := r.own.toNat, succ := r.succ.toNat
            ea := effAddr v s.opA, size := granule op.toNat r.ty.toNat, ef := r.opf.getLsbD 3, data := data, stage := .toUnit, via := b }
    let aligned := fun (op : BitVec 8) => s.opA.toNat < 2 ^ 56 ∧ effAddr (r.view op) s.opA % granule op.toNat r.ty.toNat = 0
    (aligned 0x90 → asks (.ld r) 0x90 []) ∧ (aligned 0x91 → asks (.st r) 0x91 [f.t1.val]) ∧
    (aligned 0x94 → asks (.ild r) 0x94 []) ∧ (aligned 0x95 → asks (.ist r) 0x95 [f.t1.val]) ∧
    (aligned 0x96 → asks (.iclr r) 0x96 []) ∧ (aligned 0x99 → asks (.ldsw r) 0x99 []) ∧
    (aligned 0x9C → f.t1.val.toNat < 2 ^ 32 → asks (.swadd r) 0x9C [f.t1.val]) ∧
    (aligned 0x9A → 0 < f.t1.val.toNat → f.t1.val.toNat < 2 ^ 32 → s.destFault r.destA = none →
      asks (.swset r) 0x9A [f.t1.val]) ∧
    asks (.wfence r) 0x9B []) ∧
  (∀ (r : FM) (s : State),
    let f := s.cur
    let asks := fun (i : Instr) (op : BitVec 8) (ea : Nat) (data : List Word) =>
      ∃ t : State, exec i s = .next ((t.lookUp (s.serial + 1)).pump) ∧ t = { s with serial := s.serial + 1, reqs := t.reqs } ∧
        (∀ n, n ≠ s.serial + 1 → t.reqs.look n = s.reqs.look n) ∧
        t.reqs.look (s.serial + 1) =
          { f := f, op := op.toNat, rid := s.ridOf f.sq, lid := s.lidOf f.sq, die := clusterOf f.sq / 48, wave := false
            cluster := clusterOf f.sq, pred := r.pred.toNat, own := r.own.toNat, succ := r.succ.toNat
            ea := ea, size := granule op.toNat r.ty.toNat, ef := r.opf.getLsbD 3, data := data, stage := .xlat }
    (let ea := effAddr (r.view 0x92) s.opA
     s.opA.toNat < 2 ^ 56 → ea % granule 0x92 r.ty.toNat = 0 → asks (.ldn r) 0x92 ea []) ∧
    (let ea := effAddr (r.view 0x93) s.opA
     s.opA.toNat < 2 ^ 56 → ea % granule 0x93 r.ty.toNat = 0 → asks (.stn r) 0x93 ea [f.t1.val]) ∧
    (s.opA.toNat < 2 ^ 56 → asks (.pref r) 0x98 (effAddr (r.view 0x98) s.opA / 64 * 64) []) ∧
    (let v := r.view 0x98
     2 ^ 56 ≤ s.opA.toNat → v.hdr.ndest ≠ 0 → Dests1Ok s v → Changes (.pref r) s f.elem fun x =>
      { x with answers := x.answers ++ [{ toks := s.flights f v (outs1 v (f.base 0 0)), via := 0 }] })) ∧
  (∀ (r : FM) (s : State),
    let f := s.cur
    let v := r.view 0x97
    let data := (List.range 8).map fun i => (s.slotOf f (v.slot + i)).val
    (∀ p ∈ s.reqs, p.2.again = false) → (∀ i, i < 8 → (s.slotOf f (v.slot + i)).b = false) → s.opA.toNat < 2 ^ 56 →
    effAddr v s.opA % 128 = 0 → alrBad (data[7]?.getD 0) = none →
    ∃ t, exec (.alr r) s = .next t ∧ t = { s with serial := t.serial, reqs := t.reqs, cts := t.cts, chans := t.chans } ∧
      (t.reqs.look (s.serial + 1)).data = data ∧ (t.reqs.look (s.serial + 1)).ea = effAddr v s.opA ∧
      (t.reqs.look (s.serial + 1)).size = 128 ∧ (t.reqs.look (s.serial + 1)).stage = .toUnit ∧
      ∀ i, i < 8 → (s.ct f.sq).entry f.t0.fx.toNat ≠ none →
        (t.ct f.sq).slot f.t0.fx.toNat (v.slot + i) = { s.slotOf f (v.slot + i) with b := true })

/-- R232, R233: WAVE_REQUEST_ARRIVAL of the oldest request on its way from its element takes it into its frame's context,
held until the context's chain admits it; then whatever can move moves. R236, R293, R302 to R304: EGRESS_CONFIRM of a
performed entry removes it from its die's egress store buffer and the request is done; REQUEST_TIMEOUT of a load whose
timer has run out leaves a copy that may still perform, and faults TIMEOUT; that of an entry of the egress store buffer
takes the entry out, leaves such a copy too, and raises EFLOST. That an `ist` is among those entries is the model's
reading (log 85). R302, R230: the reply of a `ld`, `ldn`, `st`, `stn` or `ldsw` that has come back, whose time has not run
out, takes the request out of its chain and answers its firing with the reply's value, XD set for an acknowledged EF
store; then whatever can move moves. The reply of an expired request is only counted in REQLATE. -/
def Obligations.RequestsArriveAndReturn : Prop :=
  (∀ (s : State),
    let id := s.at_.a
    let r := s.reqs.look id
    let k := ctxKey r
    let c := s.wctx.look k
    r.stage = .toUnit → s.crossing r.via = false →
    (∀ p ∈ s.reqs, ¬ (p.1 < id ∧ p.2.stage = .toUnit ∧ p.2.f.elem = r.f.elem ∧ p.2.cluster = r.cluster)) →
    (c.closing = true → ∃ t, exec .waveRequestArrival s = .next t ∧ t = { s with reqs := t.reqs } ∧ t.reqs.look id = {}) ∧
    (c.closing = false → c.isOpen = true → c.held.length < 32 → ∃ t : State,
      exec .waveRequestArrival s = .next ((t.takeFrom k 40).pump) ∧ t = { s with reqs := t.reqs, wctx := t.wctx } ∧
      t.reqs.look id = { r with stage := .held } ∧
      t.wctx.look k = { c with isOpen := true, cluster := r.cluster, held := c.held ++ [id] })) ∧
  (∀ (s : State),
    let id := s.at_.a
    let r := s.reqs.look id
    (r.stage = .posted → r.performed = true → s.crossing r.via = false → r.acked = true →
      r.err = none → ∃ t : State, exec .egressConfirm s = .next t.pump ∧ t = { s with reqs := t.reqs, egress := t.egress } ∧
        t.reqs.look id = {} ∧ id ∉ t.egress.look r.die ∧ t.egress.look r.die = (s.egress.look r.die).filter (· ≠ id)) ∧
    (s.at_.b = 0 → s.overdue id = true → isLoad r.op = true → r.stage ≠ .posted → r.eng = false → ∃ t : State,
      exec .requestTimeout s = .next ((t.faultReq id 0x17 0).pump) ∧ t = { s with serial := s.serial + 1, reqs := t.reqs } ∧
      t.reqs.look (s.serial + 1) = { r with orphan := true, wave := false }) ∧
    (s.at_.b = 0 → s.overdue id = true → r.stage = .posted → id ≤ s.serial → ∃ t u : State,
      exec .requestTimeout s = .next u.pump ∧ t = { s with serial := s.serial + 1, reqs := t.reqs, egress := t.egress } ∧
      t.egress.look r.die = (s.egress.look r.die).filter (· ≠ id) ∧
      t.reqs.look (s.serial + 1) = { r with orphan := true, wave := false, stage := if r.performed then .reply else .sent } ∧
      u = { t.raiseReq id 0x0E 0 true with reqs := u.reqs, wctx := u.wctx } ∧ (u.reqs.look id).stage = .faulted)) ∧
  (∀ (s : State),
    let id := s.at_.a
    let r := s.reqs.look id
    let v := s.view r.f.key
    r.stage = .reply → s.crossing r.via = false →
    (r.orphan = true → ∃ t, exec .memoryReply s = .next t ∧ t = { s with reqs := t.reqs, dies := t.dies } ∧
      (t.die r.die).reqlate = (if (s.die r.die).reqlate = 0xFFFFFFFF#64 then 0xFFFFFFFF#64 else (s.die r.die).reqlate + 1) ∧
      t.reqs.look id = {}) ∧
    (r.orphan = false → r.dead = false → r.err = none → r.deferred = false → r.eng = false →
      r.op ∈ [0x90, 0x91, 0x92, 0x93, 0x99] → v.hdr.ndest ≠ 0 → Dests1Ok s v →
      let xd := decide (r.op = 0x91 ∨ r.op = 0x93) && r.ef
      ∃ (t : State) (b : Nat), exec .memoryReply s = .next t.pump ∧
        t = { s with reqs := t.reqs, wctx := t.wctx, elems := t.elems, serial := t.serial, chans := t.chans } ∧
        Posts s t r.die (sqDie r.f.sq) b ∧
        t.reqs.look id = {} ∧ t.elem r.f.elem = { s.elem r.f.elem with answers := (s.elem r.f.elem).answers ++
          [{ toks := s.flights r.f v (outs1 v { r.f.base 0 r.val with xd := xd }), via := b }] }))

/-- R285, R1, R399: HOME_ACCESS of a ready `st` or `stn` writes the granule's low bytes of the data, lowest first, at its
physical address; every other byte keeps its value. HOME_ACCESS of a ready `ld` or `ldn` writes none and its reply brings
the little-endian number in the granule's bytes. The reply sets out for the die of the request. -/
def Obligations.HomeStoresAndLoads : Prop := ∀ (s : State) (pa : Nat),
  let id := s.at_.a
  let r := s.reqs.look id
  s.homeReady id = true → r.pa = some pa → (∀ w, s.ecc.look w = 0) →
  ((r.op = 0x91 ∨ r.op = 0x93) → ∃ t, exec .homeAccess s = .next t ∧
    (∀ a, (a < pa ∨ pa + r.size ≤ a) → t.byte a = s.byte a) ∧
    (∀ i, i < r.size → t.byte (pa + i) = BitVec.extractLsb' (8 * i) 8 (r.data[0]?.getD (0 : Word))) ∧
    t = { s with mem := t.mem, high := t.high, reqs := t.reqs, ecc := t.ecc, serial := t.serial, chans := t.chans } ∧
    Posts s t r.home r.die (t.reqs.look id).via ∧
    (t.reqs.look id).performed = true ∧ (t.reqs.look id).val = BitVec.ofNat 64 r.ea ∧
    (∀ n, n ≠ id → t.reqs.look n = s.reqs.look n)) ∧
  ((r.op = 0x90 ∨ r.op = 0x92) → ∃ t, exec .homeAccess s = .next t ∧
    t = { s with reqs := t.reqs, serial := t.serial, chans := t.chans } ∧ Posts s t r.home r.die (t.reqs.look id).via ∧
    (t.reqs.look id).performed = true ∧ (t.reqs.look id).val = BitVec.ofNat 64 (s.rd pa r.size) ∧
    (∀ n, n ≠ id → t.reqs.look n = s.reqs.look n))

/-- R239: what each entry of an `alr` makes of its word: swap, add, compare and swap, write, signed minimum and maximum,
and, or, xor, unsigned minimum and maximum; a load leaves it. The slot of the entry then holds the old word. R53, R241,
R325: an arrival of n at a sync word adds n to COUNT; at an armed word whose COUNT then reaches TARGET, TARGET is taken
off, GEN rises by one and the word's token is sent with the new GEN. The COUNT that is stored is at most 2^32 - 1. R325,
R326: SYNC_COUNT_ARRIVAL takes a count that has come to its word, behind none that has come there before it, and adds it;
one that finds a word that fails its check writes nothing. -/
def Obligations.AtomicAndSyncWords : Prop :=
  ((∀ old a c : Word, alrNew 1 old a c = old ∧ alrNew 2 old a c = a ∧ alrNew 3 old a c = old + a ∧
      (old = a → alrNew 4 old a c = c) ∧ (old ≠ a → alrNew 4 old a c = old) ∧ alrNew 5 old a c = a ∧
      (alrNew 6 old a c).toInt = min old.toInt a.toInt ∧ (alrNew 7 old a c).toInt = max old.toInt a.toInt ∧
      alrNew 8 old a c = old &&& a ∧ alrNew 9 old a c = old ||| a ∧ alrNew 10 old a c = old ^^^ a ∧
      (alrNew 11 old a c).toNat = min old.toNat a.toNat ∧ (alrNew 12 old a c).toNat = max old.toNat a.toNat) ∧
    (∀ (s : State) (pa w op : Nat) (l : List Word), 1 ≤ op → op ≤ 12 → op ≠ 4 → w < 16 → 0 < l.length →
      let d := BitVec.ofNat 64 (op * 16 + w)
      let old := BitVec.ofNat 64 (s.rd (pa + w * 8) 8)
      let p := s.alrRun pa 1 0 d l 0
      BitVec.ofNat 64 (p.1.rd (pa + w * 8) 8) = alrNew op old (l[0]?.getD 0) (l[1]?.getD 0) ∧ p.2.1[0]? = some old ∧ p.2.2 = 0 ∧
      ∀ a, (a < pa + w * 8 ∨ pa + w * 8 + 8 ≤ a) → p.1.byte a = s.byte a)) ∧
  (∀ (s : State) (pa n lid : Nat),
    let target := s.rd pa 4
    let count := s.rd (pa + 4) 4 + n
    let gen := (s.rd (pa + 14) 2 + 1) % 2 ^ 16
    let t := s.syncAdd pa n lid
    (∀ a, (a < pa + 4 ∨ (pa + 8 ≤ a ∧ a < pa + 14) ∨ pa + 16 ≤ a) → t.byte a = s.byte a) ∧
    (target = 0 ∨ count < target → t.rd (pa + 4) 4 = min count (2 ^ 32 - 1) ∧ t.rd (pa + 14) 2 = s.rd (pa + 14) 2 ∧ t.srcQ = s.srcQ) ∧
    (0 < target → target ≤ count → t.rd (pa + 4) 4 = min (count - target) (2 ^ 32 - 1) ∧ t.rd (pa + 14) 2 = gen ∧
      ∃ fl, t.srcQ.look (scratchSq pa) = s.srcQ.look (scratchSq pa) ++ [fl] ∧ fl.tok.val = BitVec.ofNat 64 gen ∧
        fl.lid = lid ∧ fl.tok.fx = BitVec.ofNat 12 (s.rd (pa + 8) 8 / 2 ^ 28))) ∧
  (∀ (s : State) (c : SyncArr),
    s.syncIn[s.at_.a]? = some c → s.crossing c.via = false →
    (∀ x ∈ s.syncIn.take s.at_.a, x.pa = c.pa → s.crossing x.via = true) →
    ((∀ w, s.ecc.look w = 0) → ∃ t : State, exec .syncCountArrival s = .next (t.syncAdd c.pa c.n c.lid) ∧
      t = { s with syncIn := s.syncIn.eraseIdx s.at_.a }) ∧
    (s.eccBad c.pa 16 ≠ none → ∃ t, exec .syncCountArrival s = .next t ∧
      ∀ a, t.byte a = s.byte a))

/-- R54, R238: a ready `ist` at an empty I-structure word fills it, writes its data and sends the value to every deferred
reader in order; at a full one it raises ISTWICE and writes nothing. A ready `ild` at a full word is answered with it, at
an empty one it is deferred. `iclr` empties a word. -/
def Obligations.IStructures : Prop := ∀ (s : State) (pa : Nat),
  let id := s.at_.a
  let r := s.reqs.look id
  let q := scratchSq pa
  s.homeReady id = true → r.pa = some pa → (∀ w, s.ecc.look w = 0) → isScratch pa = true →
  (r.op = 0x95 → s.iState pa = 1 → ∃ t, exec .homeAccess s = .next t ∧
    t = { s with reqs := t.reqs, serial := t.serial, chans := t.chans } ∧ (t.reqs.look id).err = some (0x0F, 0)) ∧
  (r.op = 0x95 → s.iState pa ≠ 1 → ∃ t, exec .homeAccess s = .next t ∧ t.iState pa = 1 ∧
    t.rd pa 8 = (r.data[0]?.getD 0).toNat ∧ (∀ a, (a < pa ∨ pa + 8 ≤ a) → t.byte a = s.byte a) ∧ t.readersOf pa = [] ∧
    (s.readersOf pa = [] → t.srcQ = s.srcQ) ∧ (t.reqs.look id).val = BitVec.ofNat 64 r.ea) ∧
  (r.op = 0x94 → s.iState pa = 1 → ∃ t, exec .homeAccess s = .next t ∧
    t = { s with reqs := t.reqs, serial := t.serial, chans := t.chans } ∧ (t.reqs.look id).val = BitVec.ofNat 64 (s.rd pa 8)) ∧
  (r.op = 0x94 → s.iState pa ≠ 1 → r.orphan = false → (s.mt q).readers.length < 4096 →
    ((s.view r.f.key).hdr.ndest = 0 ∨ s.destFault (s.view r.f.key).destA = none) → ∃ t, exec .homeAccess s = .next t ∧
    t.iState pa = 2 ∧ (t.mt q).readers = (s.mt q).readers ++ [s.readerOf r pa] ∧ (t.reqs.look id).deferred = true ∧ t.mem = s.mem) ∧
  (r.op = 0x96 → s.iState pa ≠ 2 → ∃ t, exec .homeAccess s = .next t ∧ t.iState pa = 0 ∧ t.mem = s.mem ∧
    (t.reqs.look id).val = BitVec.ofNat 64 r.ea)

/-- R301, R318, R320: the read of a page walk that comes to the entry's home on another die sends the entry back; with the
entry at hand, read here or brought back, a table entry leads one level down, to a table in mapped HBM or to XLAT with
cause 4, a leaf enters the cluster's translation set, whose waiting requests look again, and an entry that is none ends
the walk with its level and cause. The reply to a walk whose time-out has expired counts in REQLATE. R318: a translation
entry of a page table without V, or with a reserved bit set, ends the walk with that cause; an aligned leaf gives its page
and its permissions. R327, R328: SCRUB_WORD corrects a correctable word and counts it; a word beyond repair is counted in
ECCCNT, recorded in ECCLAST with V set, and left. -/
def Obligations.PageWalksAndScrubbing : Prop :=
  (∀ (s : State),
    let n := s.at_.a
    let w := s.walks.look n
    let d := w.cluster / 48
    let pa := entryPa w.va w.level w.table
    (∃ p ∈ s.walks, p.1 = n) → s.crossing w.via = false → w.bad = false → (∀ x, s.ecc.look x = 0) →
    (∀ x, w.orphan = true → w.got = some x → ∃ u, exec .walkReadReturn s = .next u ∧ u = { s with walks := u.walks, dies := u.dies } ∧
      u.walks.look n = {} ∧ (u.die d).reqlate = (if (s.die d).reqlate = 0xFFFFFFFF#64 then 0xFFFFFFFF#64 else (s.die d).reqlate + 1)) ∧
    (w.got = none → homeDie pa ≠ d → s.running (homeDie pa) = true → ∃ u, exec .walkReadReturn s = .next u ∧
      u = { s with walks := u.walks, serial := u.serial, chans := u.chans } ∧
      ∃ b, Posts s u (homeDie pa) d b ∧ u.walks.look n = { w with via := b, got := some (s.rd pa 8) }) ∧
    (∀ x, w.orphan = false → w.got = some x ∨ (w.got = none ∧ homeDie pa = d ∧ x = s.rd pa 8) →
      (∀ c, s.walkEntry w.rid w.va w.level w.table x = .bad c → exec .walkReadReturn s = .next (s.walkFails n w.level c)) ∧
      (∀ t, s.walkEntry w.rid w.va w.level w.table x = .next t → s.hbmMapped t = false →
        exec .walkReadReturn s = .next (s.walkFails n (w.level - 1) 4)) ∧
      (∀ t, s.walkEntry w.rid w.va w.level w.table x = .next t → s.hbmMapped t = true → ∃ u, exec .walkReadReturn s = .next u ∧
        u = { s with walks := u.walks, serial := u.serial, chans := u.chans } ∧ (u.walks.look n).level = w.level - 1 ∧
        (u.walks.look n).table = t ∧ (u.walks.look n).got = none ∧ ∀ k, k ≠ n → u.walks.look k = s.walks.look k) ∧
      (∀ e, s.walkEntry w.rid w.va w.level w.table x = .leaf e → ∃ u : State,
        exec .walkReadReturn s = .next ((u.lookAgain w.cluster).pump) ∧ u = { s with walks := u.walks, tlb := u.tlb } ∧
        u.walks.look n = {} ∧ (u.tlb.look w.cluster).head? = some e ∧ (u.tlb.look w.cluster).length ≤ 256))) ∧
  (∀ (s : State) (rid va l table : Nat), s.hbmMapped table = true →
    let e := s.rd (table + fld va (lvlLo l) (lvlLen l) * 8) 8
    (tbit e 63 = false → s.walkStep rid va l table = .bad 0) ∧
    (tbit e 63 = true → fld e 52 7 ≠ 0 → s.walkStep rid va l table = .bad 1) ∧
    (tbit e 63 = true → tbit e 62 = true → l < 3 → fld e 52 7 = 0 → fld e 0 8 = 0 → fld e 8 44 * 256 % 2 ^ lvlLo l = 0 →
      tbit e 61 = true → s.hbmMapped (fld e 8 44 * 256) = true →
      s.walkStep rid va l table = .leaf { rid := rid, page := va / 2 ^ lvlLo l, bits := lvlLo l, pa := fld e 8 44 * 256
                                          rd := true, wr := tbit e 60, us := tbit e 59 })) ∧
  (∀ (s : State),
    let pa := s.at_.a
    let d := homeDie pa
    s.paOk pa = true →
    (s.ecc.look pa = 1 → eccWord pa = pa → ∃ t, exec .scrubWord s = .next t ∧ t = { s with ecc := t.ecc, dies := t.dies } ∧
      t.ecc.look pa = 0 ∧ t.die d = { s.die d with ecccnt := bump16 (s.die d).ecccnt (if isScratch pa then 32 else 48) }) ∧
    (s.ecc.look pa = 2 → ∃ t, exec .scrubWord s = .next t ∧ t = { s with dies := t.dies } ∧
      t.die d = { s.die d with ecccnt := bump16 (s.die d).ecccnt 16, ecclast := BitVec.ofNat 64 (2 ^ 63 + pa % 2 ^ 52) }))

/-- R246, R250, R252, R256, R257, R260, R264, R271 to R275: an instruction on a queue, barrier cell, address generator,
converter, multicast table, fault queue, service or region, whose operands pass its checks, becomes one request to that
object, which leaves at once, by a message where the object is on another die; nothing else changes before it arrives
there. -/
def Obligations.ObjectRequests : Prop := ∀ (s : State),
  let f := s.cur
  let d := sqDie f.sq
  let ld := s.load (s.lidOf f.sq)
  let asks := fun (i : Instr) (v : RecView) (tgt pa : Nat) => ∃ t b, exec i s = .next t ∧
    t = { s with serial := t.serial, reqs := t.reqs, chans := t.chans } ∧ (∀ n, n ≠ s.serial + 1 → t.reqs.look n = s.reqs.look n) ∧
    Posts { s with serial := s.serial + 1 } t d (homeDie pa) b ∧
    t.reqs.look (s.serial + 1) =
      { f := f, op := v.op.toNat, rid := s.ridOf f.sq, lid := s.lidOf f.sq, die := d, cluster := clusterOf f.sq, size := 16
        pa := some pa, tgt := tgt, stage := .sent, start := s.tick d, tout := (s.die d).reqto.toNat
        via := b, data := [portB v f] }
  let fq := scratchPa (s.regionOf f.sq).fqmt 0
  (∀ (r : D2) (k : Nat), ld.queues[r.lit.toNat]? = some k → let pa := scratchPa (k / 4) 0
    asks (.qpush r) (r.view 0xB0) k pa ∧ asks (.qpop r) (r.view 0xB1) k pa ∧ asks (.qresv r) (r.view 0xB2) k pa ∧
    asks (.qpub r) (r.view 0xB3) k pa ∧ asks (.qsteal r) (r.view 0xB4) k pa ∧
    (s.opA.toNat ≤ 2 → asks (.qstat r) (r.view 0xB6) k pa) ∧ (∀ t, (s.queue k).tmpl = some t →
      (t.src ≠ .arm ∧ t.dst ≠ .arm ∧ s.opA = 0) ∨ ((t.src = .arm ∨ t.dst = .arm) ∧ s.opA.toNat < 2 ^ 56 ∧ s.armFault t s.opA.toNat = none) →
      asks (.qarm r) (r.view 0xB5) k pa)) ∧
  (∀ (r : D2) (k : Nat), (ld.barriers[r.lit.toNat]? = some k → asks (.bari r) (r.view 0xB9) k (scratchPa (k / 32) 0) ∧
      asks (.barv r) (r.view 0xBA) k (scratchPa (k / 32) 0)) ∧
    (ld.barriers[r.lit.toNat % 32]? = some k → asks (.barlog r) (r.view 0xBB) k (scratchPa (k / 32) 0))) ∧
  (∀ (r : D2) (q : Nat), s.selector f s.opA = some q → let k := q * 8 + r.lit.toNat
    (fld s.opA.toNat 0 2 ≠ 3 → agValueOk (fld s.opA.toNat 0 2) f.t1.val = true → asks (.agcfg r) (r.view 0xB7) k (scratchPa q 0)) ∧
    (fld s.opA.toNat 0 2 = 0 → asks (.agrun r) (r.view 0xB8) k (scratchPa q 0)) ∧
    (fld s.opA.toNat 0 2 = 0 → (s.mt q).edge = true → (s.regionOf q).mode = true → fld f.t1.val.toNat 3 4 ≠ 15 →
      fld f.t1.val.toNat 7 9 = 0 → fld f.t1.val.toNat 32 32 = 0 →
      (r.lit.toNat % 2 = 1 → asks (.stkbind r) (r.view 0xBC) k (scratchPa q 0)) ∧
      (r.lit.toNat % 2 = 0 → fld f.t1.val.toNat 16 16 = 0 → asks (.ktsbind r) (r.view 0xBD) k (scratchPa q 0)))) ∧
  (∀ (r : D2), let die := fld s.opA.toNat 62 2
    die ≠ 3 → fld s.opA.toNat 7 55 = 0 → fld f.t1.val.toNat 29 35 = 0 → tbit s.opA.toNat 6 = true →
    asks (.mcgset r) (r.view 0xBE) (die * 256 + r.lit.toNat) (scratchPa (mkSq die 1 0) 0)) ∧
  (∀ (r : D2), let die := fld s.opA.toNat 62 2
    let dest := f.t1.val.extractLsb' 0 28
    die ≠ 3 → fld s.opA.toNat 7 55 = 0 → fld f.t1.val.toNat 29 35 = 0 → tbit s.opA.toNat 6 = false →
    destIsCt dest = true → destDie dest = die → destPort dest ≠ 3 →
    asks (.mcgset r) (r.view 0xBE) (die * 256 + r.lit.toNat) (scratchPa (mkSq die 1 0) 0)) ∧
  (∀ (r : D2), asks (.fret r) (r.view 0xC1) 0 fq) ∧
  (∀ (r : D2), s.opA.toNat < 2 ^ 16 → (s.region s.opA.toNat).load ≠ 0 →
    asks (.gsrc r) (r.view 0xCD) s.opA.toNat (scratchPa (s.region s.opA.toNat).fqmt 0)) ∧
  (∀ (r : D1), asks (.fkill r) (r.view 0xC2) 0 fq ∧ (s.opA.toNat < 4096 → asks (.park r) (r.view 0xC3) 0 fq) ∧
    (s.opA.toNat < 4096 ∨ s.opA.getLsbD 63 = true → asks (.unpark r) (r.view 0xC4) 0 fq) ∧
    asks (.ecall r) (r.view 0xCA) r.lit.toNat (scratchPa (mkSq d 1 0) 0) ∧
    (fld s.opA.toNat 57 7 = 0 → s.opA.toNat % 64 = 0 → asks (.cfgld r) (r.view 0xCB) 0 fq) ∧
    (s.opA.toNat < 2 ^ 18 → (s.region (s.opA.toNat % 2 ^ 16)).load ≠ 0 → s.opA.toNat % 2 ^ 16 ≠ s.ridOf f.sq →
      asks (.cfgcmt r) (r.view 0xCC) (s.opA.toNat % 2 ^ 16) (scratchPa (s.region (s.opA.toNat % 2 ^ 16)).fqmt 0)) ∧
    asks (.quiesce r) (r.view 0xCE) 0 fq)

/-- R246 to R249: at its memory tile `qstat` reads the indices, passing over no empty entry; `qarm` joins the armings with
the PUB of its time; `qpush` to a queue with room writes its token's 16 bytes into the ring slot of RESV, takes RESV on by
one and answers with the index; at a full queue it waits, and changes no byte. R50, R247, R255: at its memory tile `qpop`
takes the entry at CONS, with its KIND, VALUE and AUX, and waits at an empty queue; `qresv` reserves the entry at RESV;
`qpub` publishes a reserved entry with its token or as an empty one, and of any other index raises BOUNDS; `qsteal` takes
the oldest entry that may be stolen while the window is open, which stays as an empty entry with S set, takes a reference,
counts in STC and enters the steal log, and otherwise answers 0 with EOD 7. R253: a `barv` of a member that has not
arrived, and that is not the last awaited, writes its tick into the straggler record, counts one arrival, and waits. R52,
R252 to R254: `bari` with operands in order writes both words of its cell, sets every arrival tick of its straggler record
to all ones and its histories and persistence bits to 0, registers the queue that it designates, and answers with its
word; the `barv` that is the last awaited closes the round: each member's history takes in whether it lags behind the
median by more than LAGT, NARR and ENT go to 0, ROUND rises, the ticks of the next slot are set to all ones, and every
`barv` that waits is answered with the round; `barlog` answers with the word that its selector names. -/
def Obligations.QueuesAndBarriers : Prop :=
  (∀ (s : State),
    let id := s.at_.a
    let r := s.reqs.look id
    let k := r.tgt
    let q := s.queue k
    let answers := fun (t : State) (x : Word) =>
      (t.reqs.look id).tok = r.f.base 0 x ∧ (t.reqs.look id).performed = true ∧ (t.reqs.look id).stage = .reply
    s.homeReady id = true → r.stage = .sent →
    (r.op = 0xB6 → ∃ t, exec .homeAccess s = .next t ∧ t = { s with reqs := t.reqs, serial := t.serial, chans := t.chans } ∧
      answers t (q.stat r.f.t0.val.toNat)) ∧
    (r.op = 0xB5 → ∃ t, exec .homeAccess s = .next t ∧
      t = { s with reqs := t.reqs, mts := t.mts, serial := t.serial, chans := t.chans } ∧
      t.queue k = { q with arm := q.arm ++ [(q.pub, r.f, r.f.t0.val)] } ∧ answers t r.f.t0.val) ∧
    (r.op = 0xB0 → q.waitPush = [] → q.waitPop = [] → q.hasRoom = true →
      ∃ t, exec .homeAccess s = .next t ∧
        t = { s with reqs := t.reqs, mts := t.mts, mem := t.mem, high := t.high, serial := t.serial, chans := t.chans } ∧
        (t.queue k).resv = q.resv + 1 ∧ (t.queue k).waitPush = [] ∧ answers t (q.resv.zeroExtend 64) ∧
        t.rd (s.entryPa k q.resv) 16 = r.f.t0.bits.toNat ∧
        ∀ a, (a < s.entryPa k q.resv ∨ s.entryPa k q.resv + 16 ≤ a) → t.byte a = s.byte a) ∧
    (r.op = 0xB0 → q.waitPush = [] → q.waitPop = [] → q.hasRoom = false →
      ∃ t, exec .homeAccess s = .next t ∧ t = { s with reqs := t.reqs, mts := t.mts } ∧
        t.queue k = { q with waitPush := [id] } ∧ (t.reqs.look id).deferred = true)) ∧
  (∀ (s : State),
    let id := s.at_.a
    let r := s.reqs.look id
    let k := r.tgt
    let q := s.queue k
    let answers := fun (t : State) (y : Token) =>
      (t.reqs.look id).tok = y ∧ (t.reqs.look id).performed = true ∧ (t.reqs.look id).stage = .reply
    let frame := fun (t : State) => t = { s with reqs := t.reqs, mts := t.mts, serial := t.serial, chans := t.chans }
    s.homeReady id = true → r.stage = .sent → q.waitPush = [] → q.waitPop = [] →
    (r.op = 0xB1 → q.cons ≠ q.pub → q.stOf q.cons ≠ 3 → (s.mt (k / 4)).popping (k % 4) = false →
      let e := s.entryAt k q.cons
      e.kind ≠ 2 → ∃ t, exec .homeAccess s = .next t ∧ frame t ∧ (t.queue k).cons = q.cons + 1 ∧ (t.queue k).waitPop = [] ∧
        (t.queue k).stOf q.cons = 0 ∧ (t.queue k).sOf q.cons = q.sOf q.cons ∧
        answers t { r.f.base e.kind e.val with eod := e.eod, seq := e.seq, par := e.par }) ∧
    (r.op = 0xB1 → q.cons = q.pub → ∃ t, exec .homeAccess s = .next t ∧ t = { s with reqs := t.reqs, mts := t.mts } ∧
      t.queue k = { q with waitPop := [id] } ∧ (t.reqs.look id).deferred = true) ∧
    (r.op = 0xB2 → q.hasRoom = true → ∃ t, exec .homeAccess s = .next t ∧ frame t ∧ (t.queue k).resv = q.resv + 1 ∧
      (t.queue k).stOf q.resv = 1 ∧ answers t (r.f.base 0 (q.resv.zeroExtend 64))) ∧
    (r.op = 0xB3 → let w := r.f.t0.val
      let i := w.extractLsb' 0 32
      fld w.toNat 32 30 = 0 → q.stOf i = 1 → (i - q.cons).toNat < (q.resv - q.cons).toNat →
      ∃ t, exec .homeAccess s = .next t ∧ (t.queue k).cons = q.cons ∧ (t.queue k).resv = q.resv ∧
        (t.queue k).sOf i = w.getLsbD 62 ∧ answers t (r.f.base 0 ((t.queue k).pub.zeroExtend 64)) ∧
        (w.getLsbD 63 = true → frame t ∧ (t.queue k).stOf i = 3) ∧
        (w.getLsbD 63 = false → (t.queue k).stOf i = 2 ∧ t.rd (s.entryPa k i) 16 = r.f.t1.bits.toNat ∧
          ∀ a, (a < s.entryPa k i ∨ s.entryPa k i + 16 ≤ a) → t.byte a = s.byte a)) ∧
    (r.op = 0xB3 → q.stOf (r.f.t0.val.extractLsb' 0 32) ≠ 1 → exec .homeAccess s = .next (s.replyFails id 0x08 0)) ∧
    (r.op = 0xB4 → q.cell = none ∨ q.window = false ∨ s.stealIndex k = none →
      ∃ t, exec .homeAccess s = .next t ∧ t = { s with reqs := t.reqs, serial := t.serial, chans := t.chans } ∧
        answers t { r.f.base 0 0 with eod := 7, seq := 0 }) ∧
    (∀ (c : Nat) (i : BitVec 32), r.op = 0xB4 → q.cell = some c → s.stealIndex k = some i → q.window = true → q.stc < 255 →
      let h := (s.entryAt k i).val
      ∃ t, exec .homeAccess s = .next t ∧ t = { s with reqs := t.reqs, mts := t.mts, cts := t.cts, serial := t.serial, chans := t.chans } ∧
        (t.queue k).stOf i = 3 ∧ (t.queue k).sOf i = true ∧ (t.queue k).stc = q.stc + 1 ∧ (t.queue k).cons = q.cons ∧
        (t.queue k).log = q.log ++ [{ index := i.toNat, handle := h, thief := r.f, closes := 2 }] ∧
        (t.cell c).w1 = (s.cell c).w1 ||| 2 ∧ dCnt (t.desc (winOf h).q (winOf h).buf) = (dCnt (s.desc (winOf h).q (winOf h).buf) + 1) % 65536 ∧
        answers t { r.f.base 1 h with eod := 0, seq := BitVec.ofNat 8 i.toNat })) ∧
  (∀ (s : State),
    let id := s.at_.a
    let r := s.reqs.look id
    let k := r.tgt
    let b := s.cell k
    let m := r.f.t0.val.toNat
    let pa := tickPa b.recPa m (b.round % 16)
    s.homeReady id = true → r.op = 0xBA → m < 256 → m ≤ b.nmem → m ∉ b.arrived → b.narr + 1 < b.nmem + 1 + s.stcOf k →
    b.narr < 511 →
    ∃ t, exec .homeAccess s = .next t ∧ (t.cell k).narr = b.narr + 1 ∧ (t.cell k).waiting = b.waiting ++ [id] ∧
      (t.cell k).arrived = b.arrived ++ [m] ∧ (t.cell k).round = b.round ∧ (t.reqs.look id).deferred = true ∧
      t.rd pa 8 = s.tick (k / 32 / 4096) % 2 ^ 64 ∧ ∀ a, (a < pa ∨ pa + 8 ≤ a) → t.byte a = s.byte a) ∧
  (∀ (s : State),
    let id := s.at_.a
    let r := s.reqs.look id
    let k := r.tgt
    let b := s.cell k
    let m := r.f.t0.val.toNat
    let answers := fun (t : State) (n : Nat) (y : Token) => (t.reqs.look n).tok = y ∧ (t.reqs.look n).performed = true
    s.homeReady id = true → r.stage = .sent →
    (∀ p, r.op = 0xB9 → s.bariBad k r.f.t0.val r.f.t1.val = some p → exec .homeAccess s = .next (s.replyFails id 0x08 p)) ∧
    (r.op = 0xB9 → s.bariBad k r.f.t0.val r.f.t1.val = none → ∃ t, exec .homeAccess s = .next t ∧
      let c := t.cell k
      c.w0 = r.f.t0.val ∧ c.w1 = r.f.t1.val ∧ c.arrived = [] ∧ answers t id (r.f.base 0 r.f.t0.val) ∧
      (∀ j i, j < 256 → i < 16 → t.rd (tickPa c.recPa j i) 8 = 2 ^ 64 - 1) ∧
      (∀ j, j < 256 → t.byte (histPa c.recPa j) = 0 ∧ t.persists c.recPa j = false) ∧
      (∀ a, (a < c.recPa ∨ c.recPa + 33056 ≤ a) → t.byte a = s.byte a) ∧
      ∀ qk, c.queueOn (k / 32 / 4096) = some qk → (t.queue qk).cell = some k ∧ (t.queue qk).stc = 0 ∧ (t.queue qk).window = false) ∧
    (r.op = 0xBA → m < 256 → m ≤ b.nmem → m ∉ b.arrived → b.narr + 1 = b.nmem + 1 + s.stcOf k → b.narr < 511 →
      let u := s.wr (tickPa b.recPa m (b.round % 16)) 8 (s.tick (k / 32 / 4096))
      let tick := fun (j : Nat) => u.rd (tickPa b.recPa j (b.round % 16)) 8
      let med := (sortAsc ((List.range (b.nmem + 1)).map tick))[b.nmem / 2]?.getD 0
      let hist := fun (j : Nat) => ((s.byte (histPa b.recPa j)).toNat * 2 +
        if (BitVec.ofNat 64 (tick j) - BitVec.ofNat 64 med).toInt > b.lagt then 1 else 0) % 256
      ∃ t, exec .homeAccess s = .next t ∧ (t.cell k).narr = 0 ∧ (t.cell k).round = (b.round + 1) % 2 ^ 16 ∧ (t.cell k).ent = false ∧
        (t.cell k).waiting = [] ∧ (t.cell k).arrived = [] ∧
        (∀ j, j ≤ b.nmem → (t.byte (histPa b.recPa j)).toNat = hist j ∧ t.persists b.recPa j = decide (6 ≤ popcount 8 (hist j))) ∧
        (∀ j, j < 256 → t.rd (tickPa b.recPa j ((b.round + 1) % 16)) 8 = 2 ^ 64 - 1) ∧
        (∀ n ∈ b.waiting ++ [id], answers t n ((s.reqs.look n).f.base 0 (BitVec.ofNat 64 b.round))) ∧
        ∀ qk, b.queueOn (k / 32 / 4096) = some qk → (t.queue qk).stc = 0 ∧
          ((t.queue qk).window = true ↔ ∃ j, j ≤ b.nmem ∧ 6 ≤ popcount 8 (hist j))) ∧
    (r.op = 0xBB → b.was = none →
      let sel := (s.view r.f.key).lit / 32
      let tells := fun (w : Word) => ∃ t, exec .homeAccess s = .next t ∧
        t = { s with reqs := t.reqs, serial := t.serial, chans := t.chans } ∧ answers t id (r.f.base 0 w)
      (sel = 0 → m = 0 → tells b.w0) ∧ (sel = 1 → m = 0 → tells b.w1) ∧
      (sel = 2 → m < 4096 → tells (BitVec.ofNat 64 (s.rd (tickPa b.recPa (m % 256) (m / 256)) 8))) ∧
      (sel = 3 → m < 256 → tells (BitVec.ofNat 64 ((s.byte (histPa b.recPa m)).toNat + if s.persists b.recPa m then 256 else 0))) ∧
      (sel = 4 → m < 4 → tells (BitVec.ofNat 64 (s.rd (b.recPa + 33024 + 8 * m) 8))) ∧
      (sel = 0 → m ≠ 0 → exec .homeAccess s = .next (s.replyFails id 0x08 0))))

/-- R250, R257, R274, R275: at its object `agcfg` writes the register of an address generator that does not run, and waits
at one that does; `mcgset` writes a slot of its group, or clears the group; `gsrc` closes or opens the sources of the
region's load and answers with its status, under selector 2 once the region is quiescent; `quiesce` answers with the count
of the load's waiting firings once the load is quiescent (that tokens at the I/O dies count is the model's reading, log
74). R260 to R266, R357: at the fault queue `park` and `unpark` of a free frame raise ILLOP and `unpark` of a faulted one
PERM; `park` marks the frame in every CT that its allocator's die has and tells the others, and answers once none is left
to be told; `unpark` clears the mark. `fret` takes its record out, sends its second operand where the faulted node sends,
and unparks the frame unless another record names it; `fkill` takes its record out and releases the frame; `unpark` of a
record issues the firing again. A handle of no record raises BOUNDS, and `fkill` of one without a frame ILLOP. How a mark
comes to another die is the model's choice (log 110). -/
def Obligations.ObjectsAndFaultsAtHome : Prop :=
  (∀ (s : State),
    let id := s.at_.a
    let r := s.reqs.look id
    let w := r.f.t0.val.toNat
    let answers := fun (t : State) (x : Word) => (t.reqs.look id).tok = r.f.base 0 x ∧ (t.reqs.look id).performed = true
    s.homeReady id = true →
    (r.op = 0xB7 → let q := r.tgt / 8
      let u := r.tgt % 8
      let a := (s.mt q).ag.look u
      (a.runs = true → ∃ t, exec .homeAccess s = .next t ∧ t = { s with reqs := t.reqs, mts := t.mts } ∧
        t.mt q = { s.mt q with agWait := (s.mt q).agWait ++ [id] } ∧ (t.reqs.look id).deferred = true) ∧
      (a.runs = false → ∃ t, exec .homeAccess s = .next t ∧
        t = { s with reqs := t.reqs, mts := t.mts, serial := t.serial, chans := t.chans } ∧ answers t r.f.t0.val ∧
        (∀ x, x ≠ q → t.mt x = s.mt x) ∧ ∀ x, (t.mt q).ag.look x = if x ≠ u then (s.mt q).ag.look x
          else if fld w 0 2 = 0 then { a with base := r.f.t1.val } else if fld w 0 2 = 1 then { a with lvl := r.f.t1.val }
          else { a with ctl := setField r.f.t1.val 31 1 0 })) ∧
    (r.op = 0xBE → ∃ t, exec .homeAccess s = .next t ∧ t = { s with reqs := t.reqs, mcg := t.mcg, serial := t.serial, chans := t.chans } ∧
      answers t r.f.t0.val ∧
      (tbit w 6 = false → ∀ j, t.mcg.look j = if j = r.tgt * 64 + w % 64 then r.f.t1.val.extractLsb' 0 29 else s.mcg.look j) ∧
      (tbit w 6 = true → ∀ j, t.mcg.look j = if r.tgt * 64 ≤ j ∧ j < r.tgt * 64 + 64 then 0 else s.mcg.look j)) ∧
    (r.op = 0xCD → let sel := (s.view r.f.key).lit % 4
      let lid := (s.region r.tgt).load
      let set := fun (u : State) => u = { s with regions := u.regions, reqs := u.reqs } ∧ (u.reqs.look id).deferred = true ∧
        ∀ x, u.region x = if x ∈ (s.load lid).regions ∧ sel ≠ 3 then { s.region x with closed := decide (sel ≠ 1) } else s.region x
      let told := fun (u : State) => u.replyVal id (BitVec.ofNat 64 ((u.region r.tgt).closed.toNat + (u.regionQuiet r.tgt).toNat * 2))
      ∃ u, set u ∧ (sel ≠ 2 ∨ u.regionQuiet r.tgt = true → exec .homeAccess s = .next (told u)) ∧
        (sel = 2 → u.regionQuiet r.tgt = false → exec .homeAccess s = .next u)) ∧
    (r.op = 0xCE → ∃ u : State, u = { s with reqs := u.reqs } ∧ (u.reqs.look id).deferred = true ∧
      (u.loadQuiet r.lid = true → exec .homeAccess s = .next (u.replyVal id (BitVec.ofNat 64 (u.waiting r.lid)))) ∧
      (u.loadQuiet r.lid = false → exec .homeAccess s = .next u))) ∧
  (∀ (s : State),
    let id := s.at_.a
    let q := s.reqs.look id
    let x := q.f.t0.val.toNat
    let gone := (s.fxRec q.rid x).alloc = false ∨ (s.fxRec q.rid x).releasing = true
    let named := fun (ix : Nat) (r : FaultRec) => ∃ p ∈ (s.load q.lid).faults, p.1 ≠ ix ∧ p.2.used = true ∧ p.2.nofx = false ∧
      p.2.rid = r.rid ∧ p.2.fx = r.fx
    (∀ (rid fx : Nat) (flt : Bool), let t := s.park rid fx flt
      let home := sqDie (s.region rid).famt
      t.fxRec rid fx = { s.fxRec rid fx with parked := true } ∧ (∀ k, k ≠ fx → t.fxRec rid k = s.fxRec rid k) ∧
      (∀ c, s.ridOf c = rid → sqDie c = home → (t.ct c).entry fx = ((s.ct c).entry fx).map fun p => (p.1, { p.2 with pk := true })) ∧
      t.notices.map (fun n => (n.die, n.what, n.back)) = s.notices.map (fun n => (n.die, n.what, n.back)) ++
        ((((s.region rid).clusters.map (· / 48)).eraseDups).filter (· ≠ home)).map fun d => (d, .park rid fx flt, false)) ∧
    (∀ (n : Nat) (y : Notified) (rid fx : Nat) (flt : Bool), s.notices.find? (fun z => z.via == n && n != 0) = some y →
      y.back = false → y.what = .park rid fx flt → ∀ c, s.ridOf c = rid → sqDie c = y.die →
      ((s.notified n).ct c).entry fx = ((s.ct c).entry fx).map fun p => (p.1, { p.2 with pk := true })) ∧
    (s.homeReady id = true → (q.op = 0xC3 ∨ (q.op = 0xC4 ∧ x < 2 ^ 63)) → gone → exec .homeAccess s = .next (s.replyFails id 0x01 7)) ∧
    (s.homeReady id = true → q.op = 0xC3 → ¬ gone →
      let u := if (s.fxRec q.rid x).parked then s else s.park q.rid x false
      exec .homeAccess s = .next (if u.marking q.rid x then u else u.replyVal id q.f.t0.val)) ∧
    (s.homeReady id = true → q.op = 0xC4 → x < 2 ^ 63 → ¬ gone →
      (s.faulted q.rid x = true → exec .homeAccess s = .next (s.replyFails id 0x05 2)) ∧
      (s.faulted q.rid x = false → ∃ u : State, exec .homeAccess s = .next (u.replyVal id q.f.t0.val) ∧
        u.fxRec q.rid x = { s.fxRec q.rid x with parked := false } ∧
        ∀ c, s.ridOf c = q.rid → sqDie c = sqDie (s.region q.rid).famt →
          (u.ct c).entry x = ((s.ct c).entry x).map fun p => (p.1, { p.2 with pk := false }))) ∧
    (s.homeReady id = true → q.op = 0xC1 ∨ q.op = 0xC2 → s.recordOf q.lid x = none →
      exec .homeAccess s = .next (s.replyFails id 0x08 0)) ∧
    (∀ (ix : Nat) (r : FaultRec), s.homeReady id = true → q.op = 0xC2 → s.recordOf q.lid x = some (ix, r) →
      (r.nofx = true → exec .homeAccess s = .next (s.replyFails id 0x01 7)) ∧
      (r.nofx = false → (s.fxRec r.rid r.fx).alloc = true → ∃ u : State, exec .homeAccess s = .next u.pump ∧
        (u.load q.lid).faults.look ix = {} ∧ (u.fxRec r.rid r.fx).releasing = true ∧ q.f ∈ (u.fxRec r.rid r.fx).answers ∧
        u.reqs.look id = {})) ∧
    (∀ (ix : Nat) (r : FaultRec) (f : Firing), let v := s.view f.key
      s.homeReady id = true → r.firing = some f → r.req = none → r.site = .none → r.stat = false → r.nofx = false →
      (q.op = 0xC1 → s.recordOf q.lid x = some (ix, r) → 0x20 ≤ v.op.toNat → v.op.toNat < 0x60 →
        (s.elem f.elem).lastStop = none → v.hdr.ndest = 1 → s.destFault v.destA = none →
        ∃ (u : State) (b : Nat), exec .homeAccess s = .next ((u.pump).replyVal id 0) ∧ (u.load q.lid).faults.look ix = {} ∧
          (u.elem f.elem).answers = (s.elem f.elem).answers ++
            [{ toks := s.flights f v [{ dest := v.destA, second := false, tok := f.base q.f.t1.kind q.f.t1.val }], via := b }] ∧
          (named ix r → (u.fxRec r.rid r.fx).parked = (s.fxRec r.rid r.fx).parked) ∧
          (¬ named ix r → (u.fxRec r.rid r.fx).parked = false)) ∧
      (q.op = 0xC4 → 2 ^ 63 ≤ x → s.recordOf q.lid (x - 2 ^ 63) = some (ix, r) → r.kind ≠ 0x0E →
        ∃ u : State, exec .homeAccess s = .next ((u.pump).replyVal id q.f.t0.val) ∧ (u.load q.lid).faults.look ix = {} ∧
          (u.elem f.elem).readyQ = (s.elem f.elem).readyQ ++ [f] ∧
          (named ix r → (u.fxRec r.rid r.fx).parked = (s.fxRec r.rid r.fx).parked) ∧
          (¬ named ix r → (u.fxRec r.rid r.fx).parked = false))))

/-- R268 to R270: `time` sends its die's timebase; `pgrd` reads PGA, PGSNAP, ELSTAT's word, PGB, STATE, the words of ACSEQ
and the stochastic seed, a read of PGA copying PGB into PGSNAP; `pgwr` writes PGA, PGB (ORD and BF zero), clears flags of
ELSTAT or writes STATE; `stcnt` sends a node's stall counters, and clears what it reads from selector 3 on. -/
def Obligations.TimeAndProgress : Prop := ∀ (s : State),
  let e := s.cur.elem
  let x := s.elem e
  (∀ r : D1, Gives (.time r) s (r.view 0xC6) fun y fl => y = BitVec.ofNat 64 (s.tick (sqDie s.cur.sq)) ∧ fl = 0) ∧
  (∀ r : D2, let v := r.view 0xC7
    let reads := fun (n : Nat) (w : Word) => r.lit.toNat % 8 = n → Gives (.pgrd r) s v fun y fl => y = w ∧ fl = 0
    (r.lit.toNat % 8 = 0 → Dests1Ok s v → Changes (.pgrd r) s e fun x =>
      { x with outStage := x.outStage ++ s.flights s.cur v (outs1 v (s.cur.base 0 x.pga)), pgsnap := x.pgb }) ∧
    reads 1 x.pgsnap ∧ reads 2 x.status ∧ reads 3 x.pgb ∧ reads 4 (x.lutState.zeroExtend 64) ∧
    reads 5 (x.acseqWord 0) ∧ reads 6 (x.acseqWord 1) ∧ reads 7 (s.srSeed s.cur)) ∧
  (∀ r : D2, let v := r.view 0xC8
    let sent := fun (y : Word) => s.flights s.cur v (outs1 v (s.cur.base 0 y))
    let w := s.opA
    Dests1Ok s v →
    (r.lit.toNat % 8 = 0 → pgaSt w < 5 → pgaSt x.pga ≠ 1 → Changes (.pgwr r) s e fun x =>
      { x with pga := w &&& 0xFFFF0000FFFFFFFF#64, outStage := x.outStage ++ sent (w &&& 0xFFFF0000FFFFFFFF#64) }) ∧
    (r.lit.toNat % 8 = 1 → pgaSt x.pga ≠ 1 → Changes (.pgwr r) s e fun x =>
      { x with pgb := w &&& 0xFFFFFFFFFFFFFFFC#64, outStage := x.outStage ++ sent (w &&& 0xFFFFFFFFFFFFFFFC#64) }) ∧
    (r.lit.toNat % 8 = 2 → Changes (.pgwr r) s e fun x => { x with
      elstat := x.elstat &&& ~~~(w.extractLsb' 0 8)
      outStage := x.outStage ++ sent ({ x with elstat := x.elstat &&& ~~~(w.extractLsb' 0 8) } : Elem).status }) ∧
    (r.lit.toNat % 8 = 4 → w.toNat < 2 ^ 16 → Changes (.pgwr r) s e fun x =>
      { x with lutState := w.extractLsb' 0 16, outStage := x.outStage ++ sent w })) ∧
  (∀ r : D2, let v := r.view 0xC9
    let n := s.opA.toNat
    let k := r.lit.toNat % 8
    let word : Word := if k % 3 = 0 then (x.stallOp.look n).zeroExtend 64 else if k % 3 = 1 then (x.stallOut.look n).zeroExtend 64
      else (x.stallOut.look n ++ x.stallOp.look n).zeroExtend 64
    n < 1024 → fld (x.nodes.look n).toNat 88 8 ≠ 0 → Dests1Ok s v →
    ∃ t, exec (.stcnt r) s = .next t ∧ OnlyElem e s t ∧
      t.elem e = { x with outStage := x.outStage ++ s.flights s.cur v (outs1 v (s.cur.base 0 word))
                          stallOp := (t.elem e).stallOp, stallOut := (t.elem e).stallOut, cleared := (t.elem e).cleared } ∧
      ∀ j, (t.elem e).stallOp.look j = (if j = n ∧ 3 ≤ k ∧ k ≠ 4 then 0 else x.stallOp.look j) ∧
        (t.elem e).stallOut.look j = (if j = n ∧ 4 ≤ k then 0 else x.stallOut.look j))

/-- R261, R276: `trap` raises TRAP at its own node, with its code as the detail; `halt` ends its load, failed, with the
code 0x0007 and bits 31:0 of its operand in the journal, and the load holds no region any more. R351, R352, R353, R356: a
fault raised at a node by a firing, when the fault queue of its load has room and the root frame of the `.fault`
destination stands, takes the lowest free record: its four words and its companion hold what R351 and R356 give them, the
serial number is the next, every CT of the region on its allocator's die marks the frame parked with PARK and FLT set in
slot 3, a notice sets out to each other die of the region (log 110), the handler token is due after those due before it,
and no other record and no byte of memory changes. R103: a firing with a destination that fails its check raises that
fault and sends to neither destination. -/
def Obligations.TrapsHaltsFaultRecords : Prop :=
  (∀ (r : D1) (s : State),
    exec (.trap r) s = .next (s.raiseFiring s.cur 0x14 (r.lit.toNat % 2 ^ 16) 0 0 0) ∧
    (let lid := s.lidOf s.cur.sq
     (s.load lid).phase ≠ .ended → ∃ t, exec (.halt r) s = .next t ∧ (t.load lid).phase = .ended ∧ (t.load lid).regions = [] ∧
      t.mem = s.mem ∧ (∀ l, l ≠ lid → t.load l = s.load l) ∧ ∀ n, t.journal.look n = if n = lid then
        { s.journal.look n with state := 3, code := 0x0007, arg := s.opA.toNat % 2 ^ 32, tick := s.tick 3 } else s.journal.look n)) ∧
  (∀ (s : State) (f : Firing) (v : RecView) (kind detail : Nat),
    (let lid := s.lidOf f.sq
     let rid := s.ridOf f.sq
     let fx := f.t0.fx.toNat
     let ser := (s.load lid).serial + 1
     ∀ (ix : Nat) (d : BitVec 28), lid ≠ 0 → s.faultDestOf lid = some d →
      (s.fxRec (s.ridOf (destSq d)) 0).alloc = true → (s.fxRec (s.ridOf (destSq d)) 0).releasing = false →
      ((s.load lid).faults.filter fun p => p.2.used).length < 1024 →
      ix < 1024 → ((s.load lid).faults.look ix).used = false → (∀ j, j < ix → ((s.load lid).faults.look j).used = true) →
      (∀ m ∈ s.mts, ∀ q ∈ m.2.queues, q.2.log = []) →
      let t := s.raise f v kind detail
      (∃ n, (t.load lid).faults.look ix = ({
        used := true, ser := ser % 2 ^ 16,
        w0 := BitVec.ofNat 64 (kind * 2 ^ 56 + f.key % 2 ^ 26 * 2 ^ 26 + fx * 2 ^ 14 + f.t0.path.toNat * 2 ^ 8 + f.t0.rt.toNat * 2 ^ 6),
        w1 := f.t0.val, w2 := portB v f, w3 := BitVec.ofNat 64 (detail % 2 ^ 32),
        companion := if v.hdr.arity3 then f.t2.val else 0, firing := some f, rid := rid, via := n } : FaultRec) ∧
        (placeDie f.key = (s.region rid).fqmt / 4096 → n = 0)) ∧
      (∀ j, j ≠ ix → (t.load lid).faults.look j = (s.load lid).faults.look j) ∧ (t.load lid).serial = ser ∧
      (t.load lid).handlers = (s.load lid).handlers ++ [ix + ser % 2 ^ 16 * 2 ^ 16] ∧
      (t.fxRec rid fx).parked = true ∧
      (∀ c ∈ (s.region rid).clusters, c / 48 ≠ sqDie (s.region rid).famt →
        ∃ n ∈ t.notices, n.die = c / 48 ∧ n.what = .park rid fx true ∧ n.back = false) ∧
      (∀ q, s.ridOf q = rid → sqDie q = sqDie (s.region rid).famt → ((s.ct q).entry fx).isSome = true →
        ((t.ct q).slot fx 3).val = ((s.ct q).slot fx 3).val ||| 0xC00#64 ∧ ∃ p, (t.ct q).entry fx = some p ∧ p.2.pk = true) ∧
      t.elems = s.elems ∧ t.mem = s.mem) ∧
    (∀ (outs : List Out) (fl : Flags) (k : Nat × Nat), s.sendFault outs = some k →
      finish s v outs fl = .next (s.raiseFiring s.cur k.1 k.2 (portB v s.cur) (if v.hdr.arity3 then s.cur.t2.val else 0) 0)))

/-- R48, R224, R226 to R228: with a handle that passes its check and destinations that pass theirs, `href` adds one
reference to the buffer's count and sends its handle on; `hdrop` takes one off and sends how many remain, the last one
raising the generation and clearing F where no `halloc` waits; `tfull` and `tempty` write F; `hinfo` reads the descriptor.
No other descriptor and no byte of memory changes. So on an MT of the firing's own die; `RemoteTiles` says what happens
for an MT of another. R225: `halloc` whose MT has no request waiting takes the lowest free buffer of the pool that fits,
with a count of 1 and F clear, and answers with a handle for it; while none is free it waits there, and nothing else
changes. So at an MT of the firing's own die. R387, R404: a handle instruction, or a `halloc` whose request word is in
order, whose MT stands on another die leaves as one request to that MT. There the handle is checked: a check that fails
answers with its fault; otherwise `href`, `hdrop`, `tfull` and `tempty` change the descriptor and answer with the token
that the instruction sends. -/
def Obligations.HandlesAndBuffers : Prop :=
  (∀ (r : D2) (s : State),
    let w := winOf s.opA
    let d := s.desc w.q w.buf
    let e := s.cur.elem
    let x := s.elem e
    let does := fun (i : Instr) (v : RecView) (tok : Token) (new : Word) => Dests1Ok s v →
      ∃ t, exec i s = .next t ∧ t = { s with elems := t.elems, mts := t.mts } ∧ t.desc w.q w.buf = new ∧
        (∀ q b, (q ≠ w.q ∨ b ≠ w.buf) → t.desc q b = s.desc q b) ∧ (∀ k, k ≠ e → t.elem k = s.elem k) ∧
        t.elem e = { x with outStage := x.outStage ++ s.flights s.cur v (outs1 v tok) }
    s.handleFault s.opA 0 = none → sqDie w.q = sqDie s.cur.sq →
    (dCnt d ≠ 65535 → does (.href r) (r.view 0x84) s.pass (setField d 38 16 (dCnt d + 1))) ∧
    (1 < dCnt d → does (.hdrop r) (r.view 0x85) (s.cur.base 0 (BitVec.ofNat 64 (dCnt d - 1))) (setField d 38 16 (dCnt d - 1))) ∧
    (dCnt d = 1 → (s.mt w.q).hallocQ = [] → does (.hdrop r) (r.view 0x85) (s.cur.base 0 0)
      (setField (setField (setField d 38 16 0) 54 8 (dGen d + 1)) 62 1 0)) ∧
    does (.tfull r) (r.view 0x8A) s.pass (setField d 62 1 1) ∧ does (.tempty r) (r.view 0x8B) s.pass (setField d 62 1 0) ∧
    (let v := r.view 0x87; Gives (.hinfo r) s v fun y fl => fl = 0 ∧
      (r.lit.toNat = 0 → y.toNat = dCnt d + (dF d).toNat * 2 ^ 16 + dGen d * 2 ^ 24) ∧
      (r.lit.toNat = 1 → y.toNat = w.rows * w.cols) ∧
      (r.lit.toNat = 2 → fld y.toNat 26 6 = dRows d - 1 ∧ fld y.toNat 19 7 = min (dStride d * 8 / dtW w.dt) 128 - 1))) ∧
  (∀ (r : D2) (s : State),
    let v := r.view 0x86
    let n := s.opA.toNat
    let q := fld n 46 14
    let m := s.mt q
    let fits := m.fits r.lit.toNat (fld n 26 6 + 1) (fld n 19 7 + 1)
    let h := fun (b : Nat) => allocHandle r.lit.toNat s.opA b (dGen (m.bufs.look b))
    fld n 60 4 = 0 → fld n 32 14 = 0 → fld n 0 19 = 0 → s.mtThere q = true → sqDie q = sqDie s.cur.sq →
    (dtMx r.lit.toNat = true → (fld n 19 7 + 1) % 32 = 0) → m.hallocQ = [] → (s.view s.cur.key) = v →
    (∀ b, b ∈ fits → dCnt (m.bufs.look b) = 0 → (∀ c ∈ fits, c < b → dCnt (m.bufs.look c) ≠ 0) → v.hdr.ndest ≠ 0 → Dests1Ok s v →
      ∃ t b2, exec (.halloc r) s = .next t ∧
        t = { s with elems := t.elems, mts := t.mts, serial := t.serial, chans := t.chans } ∧ Posts s t (sqDie q) (sqDie s.cur.sq) b2 ∧
        t.desc q b = setField (setField (m.bufs.look b) 38 16 1) 62 1 0 ∧ (∀ p c, (p ≠ q ∨ c ≠ b) → t.desc p c = s.desc p c) ∧
        (∀ k, k ≠ s.cur.elem → t.elem k = s.elem k) ∧
        t.elem s.cur.elem = { s.elem s.cur.elem with answers := (s.elem s.cur.elem).answers ++
          [{ toks := s.flights s.cur v (outs1 v (s.cur.base 1 (h b))), via := b2 }] }) ∧
    (fits ≠ [] → (∀ b ∈ fits, dCnt (m.bufs.look b) ≠ 0) → s.cur.t0.val = s.opA → ∃ t, exec (.halloc r) s = .next t ∧
      t = { s with mts := t.mts } ∧ (∀ p, p ≠ q → t.mt p = s.mt p) ∧ t.mt q = { m with hallocQ := [s.cur] })) ∧
  (∀ (s : State),
    (let f := s.cur
     let d := sqDie f.sq
     let q := (winOf s.opA).q
     let pa := scratchPa q 0
     let asks := fun (i : Instr) (v : RecView) => ∃ t b, exec i s = .next t ∧
       t = { s with serial := t.serial, reqs := t.reqs, chans := t.chans } ∧ (∀ n, n ≠ s.serial + 1 → t.reqs.look n = s.reqs.look n) ∧
       Posts { s with serial := s.serial + 1 } t d (homeDie pa) b ∧
       t.reqs.look (s.serial + 1) =
         { f := f, op := v.op.toNat, rid := s.ridOf f.sq, lid := s.lidOf f.sq, die := d, cluster := clusterOf f.sq, size := 16
           pa := some pa, tgt := 0, stage := .sent, start := s.tick d, tout := (s.die d).reqto.toNat
           via := b, data := [portB v f] }
     s.mtThere q = true → sqDie q ≠ d →
     (∀ r : FT, asks (.tslice r) (r.view 0x83)) ∧
     ∀ r : D2, asks (.href r) (r.view 0x84) ∧ asks (.hdrop r) (r.view 0x85) ∧ asks (.hinfo r) (r.view 0x87) ∧
       asks (.tget r) (r.view 0x88) ∧ asks (.tset r) (r.view 0x89) ∧ asks (.tfull r) (r.view 0x8A) ∧ asks (.tempty r) (r.view 0x8B) ∧
       (fld s.opA.toNat 60 4 = 0 → fld s.opA.toNat 32 14 = 0 → fld s.opA.toNat 0 19 = 0 → asks (.halloc r) (r.view 0x86))) ∧
    (let id := s.at_.a
     let r := s.reqs.look id
     let w := winOf r.f.t0.val
     let d := s.desc w.q w.buf
     let does := fun (tok : Token) (new : Word) => ∃ t, exec .homeAccess s = .next t ∧
       t = { s with reqs := t.reqs, mts := t.mts, serial := t.serial, chans := t.chans } ∧ t.desc w.q w.buf = new ∧
       (∀ q b, (q ≠ w.q ∨ b ≠ w.buf) → t.desc q b = s.desc q b) ∧ (t.reqs.look id).tok = tok ∧ (t.reqs.look id).performed = true ∧
       (t.reqs.look id).err = none
     s.homeReady id = true → r.stage = .sent → (s.view r.f.key).op.toNat = r.op → 0x83 ≤ r.op → r.op ≤ 0x8B →
     (∀ k, r.op ≠ 0x86 → s.handleFault r.f.t0.val 0 = some k → exec .homeAccess s = .next (s.replyFails id k.1 k.2)) ∧
     (s.handleFault r.f.t0.val 0 = none →
       (r.op = 0x84 → dCnt d ≠ 65535 → does (r.f.base r.f.t0.kind r.f.t0.val) (setField d 38 16 (dCnt d + 1))) ∧
       (r.op = 0x84 → dCnt d = 65535 → exec .homeAccess s = .next (s.replyFails id 0x08 0)) ∧
       (r.op = 0x85 → 1 < dCnt d → does (r.f.base 0 (BitVec.ofNat 64 (dCnt d - 1))) (setField d 38 16 (dCnt d - 1))) ∧
       (r.op = 0x8A → does (r.f.base r.f.t0.kind r.f.t0.val) (setField d 62 1 1)) ∧
       (r.op = 0x8B → does (r.f.base r.f.t0.kind r.f.t0.val) (setField d 62 1 0)))))

/-- R219, R229: `tslice` sends the handle of a window within its window; `tget` sends an element as a 64-bit value; `tset`
writes the low bits of its value into one element, every other bit of the bytes that hold it and every other byte being
kept, and sends its handle; with bit 63 of its index set it only sends the handle. So on the firing's own die. An element
of an MX tile is sent in FP32, with the flags of that rounding (log 57). -/
def Obligations.WindowsAndElements : Prop := ∀ (s : State),
  let w := winOf s.opA
  let e := s.cur.elem
  s.handleFault s.opA 0 = none → sqDie w.q = sqDie s.cur.sq →
  (∀ (r : FT) (h : Word), let v := r.view 0x83
    let b := s.cur.t1.val
    let x := winOf b
    fld b.toNat 32 32 = 0 → fld b.toNat 0 6 = 0 → x.rb + x.rows ≤ w.rows → x.cb + x.cols ≤ w.cols → w.rb + x.rb < 64 →
    w.cb + x.cb < 128 → h.extractLsb' 32 32 = s.opA.extractLsb' 32 32 → fld h.toNat 0 6 = 0 →
    winOf h = { w with rows := x.rows, cols := x.cols, rb := w.rb + x.rb, cb := w.cb + x.cb } →
    s.handleFault h 0 = none → Dests1Ok s v → Sends (.tslice r) s v (outs1 v (s.cur.base 1 h)) 0) ∧
  (∀ r : D2, let v := r.view 0x88
    let i := (s.opB v).toNat % 2 ^ 32
    i < w.count → s.elemBad w (i / w.cols) (i % w.cols) 1 = none → (∀ k, s.ecc.look k ≠ 1) → dtMx w.dt = false →
    Gives (.tget r) s v fun y fl =>
      fl = 0 ∧ y = BitVec.ofInt 64 (laneInt (dtSigned w.dt) (dtW w.dt) (s.elemAt w (i / w.cols) (i % w.cols)))) ∧
  (∀ r : D2, let v := r.view 0x88
    let i := (s.opB v).toNat % 2 ^ 32
    i < w.count → s.elemBad w (i / w.cols) (i % w.cols) 1 = none → (∀ k, s.ecc.look k ≠ 1) → dtMx w.dt = true →
    Gives (.tget r) s v fun y fl => (y.toNat, fl) = fp32.pack rne (s.fltAt w (i / w.cols) (i % w.cols))) ∧
  (∀ r : D2, let v := r.view 0x89
    let b := (s.opB v).toNat
    fld b 32 31 = 0 → tbit b 63 = true → Dests1Ok s v → Sends (.tset r) s v (outs1 v (s.cur.base 1 s.opA)) 0) ∧
  (∀ r : D2, let v := r.view 0x89
    let i := (s.opB v).toNat
    let p := s.elemSpan w (i / w.cols) (i % w.cols) 1
    let o := elemBit (s.desc w.q w.buf) w (i / w.cols) (i % w.cols) % 8
    i < w.count → i < 2 ^ 32 → s.elemBad w (i / w.cols) (i % w.cols) 1 = none → Dests1Ok s v →
    ∃ t, exec (.tset r) s = .next t ∧ t = { s with elems := t.elems, mem := t.mem, high := t.high, ecc := t.ecc } ∧
      (∀ k, k ≠ e → t.elem k = s.elem k) ∧
      t.elem e = { s.elem e with outStage := (s.elem e).outStage ++ s.flights s.cur v (outs1 v (s.cur.base 1 s.opA)) } ∧
      (∀ j, tbit (t.rd p.1 p.2) j = if j < o ∨ o + dtW w.dt ≤ j then tbit (s.rd p.1 p.2) j else tbit s.opC.toNat (j - o)) ∧
      ∀ a, (a < p.1 ∨ p.1 + p.2 ≤ a) → t.byte a = s.byte a)

/-- R201, R205, R206, R245: a macro-instruction's firing enters its element's macro queue, which holds 8, an ordered one
when the SEQ of its accumulator is its number; an ordered one whose turn is still to come goes to the ordered-wait store,
which holds 16. `cmbtacc` does the same with an addend, and its release sends the count N of its addends, the word that it
was released with. `lutld` of a b8 window of 1,024 elements begins its load. R207 to R209, R213, R216: the oldest entry of
the macro queue, with an idle pipe, its checks passed and its buffers ready, starts, and PGA shows it valid and running at
boundary 0; the one boundary of `tzero` leaves its accumulator with no word but 0 and SEQ 0, and PGA no longer valid; a
completed macro whose result finds room leaves the pipe and sends it. -/
def Obligations.MacrosQueueAndRun : Prop :=
  (∀ (r : FT) (s : State),
    let f := s.cur
    let e := f.elem
    let x := s.elem e
    let queued := fun (i : Instr) (g : Firing) => x.macroQ.length < 8 → Changes i s e fun x => { x with macroQ := x.macroQ ++ [g] }
    let waits := fun (i : Instr) (g : Firing) => x.ordWait.length < 16 → Changes i s e fun x => { x with ordWait := x.ordWait ++ [g] }
    let ordered := fun (i : Instr) (v : RecView) (w : Nat) => let g := { f with k := w }
      w < 2 ^ 16 → (v.ord = false ∨ w = x.seqOf v.accN → queued i g) ∧
        (v.ord = true → 0 < (w + 2 ^ 16 - x.seqOf v.accN) % 2 ^ 16 → (w + 2 ^ 16 - x.seqOf v.accN) % 2 ^ 16 < 2 ^ 15 → waits i g)
    ordered (.tmma r) (r.view 0x70) f.t2.val.toNat ∧ ordered (.tacc r) (r.view 0x71) f.t1.val.toNat ∧
    queued (.tld r) f ∧ queued (.tst r) f ∧ queued (.tadd r) f ∧ queued (.tmul r) f ∧ queued (.tmax r) f ∧
    queued (.tscale r) f ∧ queued (.texp r) f ∧ queued (.tred r) f ∧ queued (.ttrans r) f ∧ queued (.tcvt r) f ∧
    queued (.tfill r) f ∧ queued (.tcmpb r) f ∧ queued (.tbias r) f ∧ queued (.tzero r) f ∧ queued (.tgath r) f ∧
    queued (.tscat r) f ∧ queued (.tcopy r) f ∧
    (∀ c : D2, let v := c.view 0xAB
      (f.words = [] → v.ord = false → queued (.cmbtacc c) f) ∧
      (f.words = [] → v.ord = true → x.seqOf v.accN % 256 = f.t0.seq.toNat → queued (.cmbtacc c) { f with k := x.seqOf v.accN }) ∧
      (f.words = [] → v.ord = true → x.seqOf v.accN % 256 ≠ f.t0.seq.toNat → waits (.cmbtacc c) f) ∧
      (f.words ≠ [] → Gives (.cmbtacc c) s v fun y fl => fl = 0 ∧ some y = f.words[0]?)) ∧
    (∀ c : D2, let w := winOf s.opA
      s.handleFault s.opA 0 = none → sqDie w.q = sqDie f.sq → w.dt = 12 → w.count = 1024 → (c.lit.getLsbD 7 = true → (s.regionOf f.sq).level = true) →
      Changes (.lutld c) s e fun x => { x.useLut (c.lit.toNat % 4) with lutLoads := x.lutLoads ++ [{ f := f, cfg := c.lit.toNat % 4 }] })) ∧
  (∀ (s : State),
    let e := s.at_.a
    let x := s.elem e
    (∀ (f : Firing) (rest : List Firing), let v := s.view f.key
      x.macroQ = f :: rest → f.elem = e → x.run = none → x.macroDone = none → x.stop = false → f.pg = none →
      farMts f v = [] → s.macroFault f v = none → alignFault f v = none → s.macroReady f v = true → 0 < macroTotal f v → ∃ t, exec .macroStart s = .next t ∧
        OnlyElem e s t ∧ (t.elem e).macroQ = rest ∧ (t.elem e).run = some { f := f, total := macroTotal f v } ∧
        pgaV (t.elem e).pga = true ∧ pgaSt (t.elem e).pga = 1 ∧ pgaEidx (t.elem e).pga = 0 ∧ (t.elem e).outStage = x.outStage) ∧
    (∀ r : Run, let v := s.view r.f.key
      x.run = some r → r.f.elem = e → v.op = 0x7F → r.eidx = 0 → r.total = 1 → r.reqs = [] → x.stop = false → x.ordWait = [] →
      s.ecc = [] → ∃ t, exec .macroBoundary s = .next t ∧ OnlyElem e s t ∧ (t.elem e).run = some { f := r.f, eidx := 1, total := 1, result := r.result } ∧
        (∀ i, i < 1024 → (t.elem e).acc.look (v.accN * 1024 + i) = 0) ∧
        (∀ j, j / 1024 ≠ v.accN → (t.elem e).acc.look j = x.acc.look j) ∧ (t.elem e).seqOf v.accN = 0 ∧
        (∀ a, a ≠ v.accN → (t.elem e).acseq.look a = x.acseq.look a) ∧ pgaV (t.elem e).pga = false ∧ pgaSt (t.elem e).pga = 4) ∧
    (∀ r : Run, let v := s.view r.f.key
      x.macroDone = none → x.run = some r → r.f.elem = e → r.eidx = r.total → v.op ≠ 0xAB → v.dropFlag = false →
      farMts r.f v = [] → r.trip = {} → s.marksAhead e r.f.key = false → v.ord = false → Dests1Ok s v → x.outStage.length + s.asked e + (outs1 v {}).length ≤ 4 → ∃ t, exec .macroComplete s = .next t ∧
        t = { s with elems := t.elems, mts := t.mts } ∧ (∀ k, k ≠ e → t.elem k = s.elem k) ∧
        t.elem e = { x with run := none, outStage := x.outStage ++ s.flights r.f v (outs1 v (macroToken r v)) } ∧
        (∀ d, (macroPorts v).2 = some d → t.desc (r.f.win d).q (r.f.win d).buf =
          setField (s.desc (r.f.win d).q (r.f.win d).buf) 62 1 1)))

/-- R76, R214, R39, R208: a boundary of an integer `tmma` brings each entry (i, j) of its block of the accumulator to the
sum of the 32 exact products of its K block, on top of the entry as it stood, modulo 2^32, or on top of 0 at the first K
block under OVW. No flag is set. R76, R208, R210, R211, R215 to R217, R220 to R223, R245: a boundary of a running macro-
instruction, its handles as they were and its tiles on the element's die, writes its row of the destination, its block or
row of the accumulator, or its result, gathers its flags, takes EIDX on by one and changes no other byte; a row in memory
is asked for, or stored, and its bytes go into the tile once they have come (all its accesses at once: log 56). A stale
handle stops the macro, and a stop for a save parks it. An entry of a float `tmma` is the accumulator's word plus the
exact sum of the group's exact products under both scales, rounded once; a scale that is NaN makes it NaN. -/
def Obligations.IntegerTileProducts : Prop :=
  (∀ (s : State) (f : Firing) (v : RecView) (k : Nat),
    let a := f.win 0
    let b := f.win 1
    let nb := mmaBlocks f
    let g := k / nb
    let br := k % nb / (b.rows / 8)
    let bc := k % nb % (b.rows / 8)
    dtInt a.dt = true → dtInt b.dt = true → 0 < nb →
    (s.mmaBlock f v k).2 = 0 ∧
    ∀ i j, i < 8 → j < 8 → ∃ y, ((8 * br + i) * 32 + 8 * bc + j, y) ∈ (s.mmaBlock f v k).1 ∧ ((y : Int) -
      ((if v.ovw = true ∧ g = 0 then 0 else (s.accAt f.elem v.accN ((8 * br + i) * 32 + 8 * bc + j) : Int)) +
        ((List.range 32).map fun c => s.intAt a (8 * br + i) (32 * g + c) * s.intAt b (8 * bc + j) (32 * g + c)).sum)) % 2 ^ 32 = 0) ∧
  (∀ (s : State) (r : Run),
    let e := s.at_.a
    let x := s.elem e
    let f := r.f
    let v := s.view f.key
    let k := r.eidx
    let w := f.win
    let op := v.op.toNat
    let d := w ((macroPorts v).2.getD 0)
    let width := dtW d.dt
    let fm := dtFmt d.dt
    let rnd := fun (c : Nat) => s.tileRnd f v (k * d.cols + c)
    let acc := fun (n : Nat) => v.accN * 1024 + n
    let passes := fun (t : State) => exec .macroBoundary s = .next t ∧ (∀ n, n ≠ e → t.elem n = s.elem n) ∧
      (t.elem e).outStage = x.outStage ∧ (t.elem e).run.map (·.eidx) = some (k + 1)
    let keeps := fun (t : State) => let p := s.elemSpan d k 0 d.cols
      ∀ a, (a < p.1 ∨ p.1 + p.2 ≤ a) → (dtMx d.dt = false ∨ ∀ b, a ≠ s.scaleAddr d k (32 * b)) → t.byte a = s.byte a
    let row := fun (P Q : Nat → Nat → Prop) (R : Elem → Prop) => ∃ t, passes t ∧
      t = { s with elems := t.elems, mem := t.mem, high := t.high } ∧ (∀ c, c < d.cols → P c (t.elemAt d k c)) ∧
      (∀ b, b < d.cols / 32 → Q b (t.scaleAt d k (32 * b))) ∧ R (t.elem e) ∧ keeps t
    let plain := fun (y : Elem) => y.acc = x.acc ∧ y.elstat = x.elstat ||| (s.rowOut f v k).flags
    let rows := fun (P : Nat → Nat → Prop) => row P (fun _ _ => True) plain
    let fits := fun (y : Int) (u : Nat) => Fits true (dtSigned d.dt) width y (laneInt (dtSigned d.dt) width u)
    let adds := fun (r2 c2 c u : Nat) =>
      (dtFloat d.dt = true → u = (fm.packSum (rnd c) (sumVals (rnd c).mode [s.fltAt (w 0) k c, s.fltAt (w 1) r2 c2])).1 % 2 ^ width) ∧
      (dtFloat d.dt = false → fits (s.intAt (w 0) k c + s.intAt (w 1) r2 c2) u)
    let muls := fun (y : FVal) (j : Int) (c u : Nat) =>
      (dtFloat d.dt = true → u = (fm.pack (rnd c) (mulVals (s.fltAt (w 0) k c) y).1).1 % 2 ^ width) ∧
      (dtFloat d.dt = false → fits (s.intAt (w 0) k c * j) u)
    let same := (w 0).dt = d.dt ∧ (w 0).cols = d.cols
    let block := fun (b : Nat) => mxBlock d.dt (fun i => rnd (32 * b + i)) ((List.range 32).map fun i => s.valAt (w 0) k (32 * b + i))
    let len := fun (y : Win) => y.cols * dtW y.dt / 8
    let packed := fun (b : List Byte) => b.length = len (w 0) ∧
      ∀ c, c < (w 0).cols → fld (leBytes b) (dtW (w 0).dt * c) (dtW (w 0).dt) = s.elemAt (w 0) k c
    let at' := fun (base : Nat) (i : Int) (n : Nat) => (((base : Int) + i * n) % 2 ^ 56).toNat
    let nb := (w 0).cols / 32
    x.run = some r → f.elem = e → k < r.total → farMts f v = [] →
    (r.reqs = [] → r.got = none → x.stop = true → r.trip = {} → exec .macroBoundary s = .next (s.parkMacro e r)) ∧
    (∀ m, r.reqs = [] → x.stop = false → s.handlesStale f (handlePortsUp v) = some m →
      exec .macroBoundary s = .next (s.stopMacro f v m k)) ∧
    (x.ordWait = [] → s.ecc = [] → r.reqs = [] → x.stop = false → s.handlesStale f (handlePortsUp v) = none →
      (dtMx d.dt = false →
        (op = 0x74 → rows fun c => adds k c c) ∧ (op = 0x7E → v.shape = 0 → rows fun c => adds 0 c c) ∧
        (op = 0x7E → v.shape ≠ 0 → rows fun c => adds k 0 c) ∧
        (op = 0x75 → rows fun c => muls (s.fltAt (w 1) k c) (s.intAt (w 1) k c) c) ∧
        (op = 0x77 → rows fun c => muls (fp32.value ((f.val 1).toNat % 2 ^ 32)) (f.val 1).toInt c) ∧
        (op = 0x76 → (w 0).dt = d.dt → (w 1).dt = d.dt → rows fun c u =>
          (dtFloat d.dt = true → u = (fm.minmax true (s.elemAt (w 0) k c) (s.elemAt (w 1) k c)).1 % 2 ^ width) ∧
          (dtFloat d.dt = false → laneInt (dtSigned d.dt) width u = max (s.intAt (w 0) k c) (s.intAt (w 1) k c))) ∧
        (op = 0x78 → rows fun c u => u = (fm.pack (rnd c) (fp32.value
          (texpFn v.shape (fp32.pack rne (s.fltAt (w 0) k c)).1).1)).1 % 2 ^ width) ∧
        (op = 0x7A → (w 0).dt = d.dt → rows fun c u => u = s.elemAt (w 0) c k) ∧
        (op = 0x7B ∨ op = 0x82 → same → rows fun c u => u = s.elemAt (w 0) k c) ∧
        (op = 0x7B → (w 0).dt ≠ d.dt → rows fun c u =>
          (dtFloat d.dt = true → u = (fm.pack (rnd c) (s.valAt (w 0) k c)).1 % 2 ^ width) ∧
          (dtFloat d.dt = false → dtFloat (w 0).dt = true →
            u = (toIntVal (rnd c) (dtSigned d.dt) width (s.fltAt (w 0) k c)).1 % 2 ^ width) ∧
          (dtFloat d.dt = false → dtFloat (w 0).dt = false → fits (s.intAt (w 0) k c) u)) ∧
        (op = 0x7C → rows fun _ u => u = (f.val 1).toNat % 2 ^ width) ∧
        (op = 0x7D → rows fun c u => u =
          if condHolds v.shape (ordInt (s.intAt (w 0) k c) (laneInt (dtSigned (w 0).dt) 8 (f.val 1).toNat)) then 1 else 0)) ∧
      (dtMx d.dt = true → s.handleFault (f.val ((macroPorts v).2.getD 0)) 0 = none → k < d.rows →
        (op = 0x7B → row (fun c u => u = ((block (c / 32)).2.1[c % 32]?.getD 0) % 2 ^ width) (fun b y => y = (block b).1) plain) ∧
        (op = 0x7C → row (fun _ u => u = (f.val 1).toNat % 2 ^ width) (fun _ y => y = fld (f.val 1).toNat 8 8) plain) ∧
        (op = 0x82 → same → row (fun c u => u = s.elemAt (w 0) k c) (fun b y => y = s.scaleAt (w 0) k (32 * b)) plain)) ∧
      (op = 0x70 → let n := mmaBlocks f
        let br := k % n / ((w 1).rows / 8)
        let bc := k % n % ((w 1).rows / 8)
        let cell := fun (i j : Nat) => (8 * br + i) * 32 + 8 * bc + j
        ∃ t, passes t ∧ OnlyElem e s t ∧ (t.elem e).elstat = x.elstat ||| (s.mmaBlock f v k).2 ∧
          (∀ i j, i < 8 → j < 8 → (t.elem e).acc.look (acc (cell i j)) = BitVec.ofNat 32 (s.mmaWord (w 0) (w 1) (8 * br + i)
            (8 * bc + j) (k / n) (if v.ovw = true ∧ k / n = 0 then 0 else (x.acc.look (acc (cell i j))).toNat)).1) ∧
          ∀ m, (∀ i j, i < 8 → j < 8 → m ≠ acc (cell i j)) → (t.elem e).acc.look m = x.acc.look m) ∧
      (op = 0xAB ∨ (op = 0x71 ∧ v.shape = 0) → ∃ t, passes t ∧ OnlyElem e s t ∧
        (∀ c, c < (w 0).cols → let a := (x.acc.look (acc (k * 32 + c))).toNat
          let y := (s.tileWord (w 0) k c).1
          (t.elem e).acc.look (acc (k * 32 + c)) = BitVec.ofNat 32 (if op = 0x71 ∧ v.ovw = true then y
            else if dtFloat (w 0).dt then (fp32.add rne a y).1 else a + y)) ∧
        ∀ m, (m < acc (k * 32) ∨ acc (k * 32 + (w 0).cols) ≤ m) → (t.elem e).acc.look m = x.acc.look m) ∧
      (op = 0x71 → v.shape = 1 → dtMx d.dt = false → row (fun c u =>
        (dtFloat d.dt = true → u = (fm.pack rne (fp32.value (x.acc.look (acc (k * 32 + c))).toNat)).1 % 2 ^ width) ∧
        (dtFloat d.dt = false → fits (laneInt true 32 (x.acc.look (acc (k * 32 + c))).toNat) u)) (fun _ _ => True)
        fun y => ∀ m, y.acc.look m = if v.ovw = true ∧ acc (k * 32) ≤ m ∧ m < acc (k * 32 + d.cols) then 0 else x.acc.look m) ∧
      (op = 0x79 → let cell := fun (i : Nat) => s.intAt (w 0) (i / (w 0).cols) (i % (w 0).cols)
        let top := fun (g : Nat → Int) (y : Int) => (∀ i, i < (w 0).count → g i ≤ y) ∧ ∃ i, i < (w 0).count ∧ g i = y
        ∃ t y, passes t ∧ OnlyElem e s t ∧ (t.elem e).acc = x.acc ∧ (t.elem e).run.map (·.result) = some y ∧
          (dtFloat (w 0).dt = true → v.shape = 0 → let z := s.tileRnd f v 0
            y = BitVec.ofNat 64 (fp32.packSum z (sumVals z.mode ((List.range (w 0).count).map fun i =>
              s.fltAt (w 0) (i / (w 0).cols) (i % (w 0).cols)))).1) ∧
          (dtInt (w 0).dt = true → (v.shape = 0 → y = BitVec.ofInt 64 ((List.range (w 0).count).map cell).sum) ∧
            (v.shape = 1 → top cell y.toInt) ∧ (v.shape = 2 → top (fun i => -cell i) (-y.toInt)) ∧
            (v.shape = 3 → top (fun i => |cell i|) y.toInt))) ∧
      (op = 0x72 → k < d.rows → exec .macroBoundary s = .next (s.askRow r (.load ((f.val 1).toNat + k * len d) (len d)))) ∧
      (op = 0x72 → d.rows ≤ k → exec .macroBoundary s = .next (s.askRow r (.load ((f.val 1).toNat + d.rows * len d) (d.rows * nb)))) ∧
      (op = 0x73 → k < (w 0).rows → (w 0).cols * dtW (w 0).dt % 8 = 0 → ∃ b, packed b ∧
        exec .macroBoundary s = .next (s.askRow r (.store ((f.val 1).toNat + k * len (w 0)) b))) ∧
      (op = 0x73 → (w 0).rows ≤ k → ∃ b : List Byte, b.length = (w 0).rows * nb ∧
        (∀ i, i < (w 0).rows * nb → (b[i]?.getD 0).toNat = s.scaleAt (w 0) (i / nb) (32 * (i % nb))) ∧
        exec .macroBoundary s = .next (s.askRow r (.store ((f.val 1).toNat + (w 0).rows * len (w 0)) b))) ∧
      (op = 0x80 → let i := s.rowIndex (w 1) k
        (i < 0 → rows fun _ u => u = 0) ∧
        (0 ≤ i → exec .macroBoundary s = .next (s.askRow r (.load (at' (f.val 0).toNat i (len d)) (len d))))) ∧
      (op = 0x81 → let i := s.rowIndex (w 1) k
        (i < 0 → ∃ t, passes t ∧ OnlyElem e s t) ∧
        (0 ≤ i → (w 0).cols * dtW (w 0).dt % 8 = 0 → ∃ b, packed b ∧
          exec .macroBoundary s = .next (s.askRow r (.store (at' (f.val 2).toNat i (len (w 0))) b))))) ∧
    (∀ b, r.reqs ≠ [] → s.engPoll r.reqs = .ok b → x.ordWait = [] → s.ecc = [] →
      ∃ t, passes t ∧ t = { s with elems := t.elems, mem := t.mem, high := t.high, reqs := s.reqs.filter fun p => !r.reqs.contains p.1 } ∧
        ((op = 0x72 ∧ k < d.rows) ∨ op = 0x80 →
          (∀ c, c < d.cols → t.elemAt d k c = fld (leBytes b) (width * c) width) ∧ keeps t) ∧
        (op = 0x72 → d.rows ≤ k → s.handleFault (f.val 0) 0 = none → d.cb + d.cols ≤ 128 →
          ∀ i, i < d.rows * nb → t.scaleAt d (i / nb) (32 * (i % nb)) = (b[i]?.getD 0).toNat) ∧
        (op = 0x73 ∨ op = 0x81 → ∀ a, t.byte a = s.byte a)) ∧
    ∀ (a b : Win) (i j g c : Nat), dtFloat a.dt = true →
      let sc := fun (w : Win) (n : Nat) => if dtMx w.dt then s.scaleAt w n (32 * g) else 127
      let raw := fun (w : Win) (n t : Nat) => (dtFmt w.dt).value (s.elemAt w n (32 * g + t))
      let num := fun (y : FVal) => match y with | .fin n m e => (if n then -1 else 1) * (m : ℚ) * 2 ^ e | _ => 0
      let fine := fun (y : FVal) => match y with | .fin _ _ _ => True | _ => False
      (sc a i = 255 ∨ sc b j = 255 → (s.mmaWord a b i j g c).1 = fp32.nan) ∧
      (sc a i ≠ 255 → sc b j ≠ 255 → (∀ t, t < 32 → fine (raw a i t) ∧ fine (raw b j t)) → ∃ n m z,
        (s.mmaWord a b i j g c).1 = (fp32.packSum rne (sumVals 0 [fp32.value c, .fin n m z])).1 ∧
        num (.fin n m z) = 2 ^ ((sc a i : Int) + sc b j - 254) * ((List.range 32).map fun t => num (raw a i t) * num (raw b j t)).sum))

/-- R277 to R283: a static record whose input beats wait and whose outputs have room takes them, sends, writes its
accumulator rows, and its ring counts the step, going on to the next record, or to a new start with its loop counters 0
after the last: `sxpass` sends its beat unchanged, `sxmac` the sums of R281, `sxacc` adds the beat to its row or writes
it, `sxout` sends the row or the beat converted, `sxmov` moves a row in or out, `sxnop` only counts, `sxloop` repeats its
body SCNT times more, and `sxwld` ends when SCNT positions have been written. A record whose input or room is missing
changes nothing; one whose SIN names no link waits for ever (log 71). -/
def Obligations.StaticRecords : Prop := ∀ (r : FS) (s : State),
  let e := s.cur.elem
  let x := s.elem e
  let bound := fun (t : State) (odd : Nat) => (s.conv (convKey e odd)).fresh = false ∨ (t.elem e).ring.pos ≠ 0
  let took := fun (t : State) (side : Nat) => (1 ≤ side → side ≤ 4 → (t.elem e).links.look side = none) ∧
    (side = 5 → bound t 0 → (t.conv (convKey e 0)).beats = (s.conv (convKey e 0)).beats.drop 1)
  let sent := fun (t : State) (side : Nat) (b : Beat) =>
    (1 ≤ side → side ≤ 4 → ∃ n, neighbour e side = some n ∧ (t.elem n).links.look (opposite side) = some b) ∧
    (side = 5 → bound t 1 → (t.conv (convKey e 1)).beats = (s.conv (convKey e 1)).beats ++ [b])
  let goes := fun (t : State) (n : Nat) => let ring := (t.elem e).ring
    ring.beats = 0 ∧ (n < x.ringLen → ring.pos = n) ∧ (x.ringLen ≤ n → ring.pos = 0 ∧ ring.loop = [] ∧ ring.on = true)
  let counts := fun (v : RecView) (t : State) =>
    (x.ring.beats + 1 < v.scnt → (t.elem e).ring = { x.ring with beats := x.ring.beats + 1 }) ∧
    (v.scnt ≤ x.ring.beats + 1 → goes t (v.spos + 1))
  let keeps := fun (t : State) => t = { s with elems := t.elems, mts := t.mts, ecc := t.ecc } ∧
    (∀ k, k ≠ e → (∀ side, 1 ≤ side → side ≤ 4 → neighbour e side ≠ some k) → t.elem k = s.elem k) ∧
    (t.elem e).outStage = x.outStage ∧ (t.elem e).nodes = x.nodes
  let row := fun (t : State) (acc n i : Nat) => t.accAt e acc (16 * (n % 64) + i)
  let rest := fun (t : State) (acc n : Nat) => ∀ j, (j < acc * 1024 + 16 * (n % 64) ∨ acc * 1024 + 16 * (n % 64) + 16 ≤ j) →
    (t.elem e).acc.look j = x.acc.look j
  let noMiss := ∀ p ∈ s.ecc, p.2 ≠ 2 ∧ p.2 ≠ 1
  (∀ v : RecView,
    (∀ b, v = r.view 0xD1 → v.sin ≤ 5 → v.sout ≤ 5 → s.beatAt e v.sin = some b → s.beatRoom e v.sout = true →
      ∃ t, exec (.sxpass r) s = .next t ∧ keeps t ∧ took t v.sin ∧ sent t v.sout b ∧ counts v t ∧ (t.elem e).acc = x.acc) ∧
    (∀ b, v = r.view 0xD0 → v.sin ≤ 5 → v.sout ≤ 5 → s.beatAt e v.sin = some b → s.beatRoom e v.sout = true → noMiss →
      (tbit v.sub 0 = true → s.beatRoom e 2 = true ∧ v.sout ≠ 2) → (tbit v.sub 1 = true → s.beatAt e 1 ≠ none) →
      ∃ t, exec (.sxmac r) s = .next t ∧ keeps t ∧ took t v.sin ∧ (tbit v.sub 1 = true → took t 1) ∧ counts v t ∧
        (tbit v.sub 0 = true → sent t 2 b) ∧ (t.elem e).acc = x.acc ∧
        let p := if tbit v.sub 1 then (s.beatAt e 1).getD {} else {}
        sent t v.sout (beatOfLanes 32 (s.macBeat e v.acc v.tyN b ((List.range 16).map p.lane)).1)) ∧
    (∀ b, v = r.view 0xD2 → v.sin ≤ 5 → s.beatAt e v.sin = some b → noMiss → ∃ t, exec (.sxacc r) s = .next t ∧ keeps t ∧
      took t v.sin ∧ counts v t ∧ rest t v.acc (v.slit + x.ring.beats) ∧ ∀ i, i < 16 →
        row t v.acc (v.slit + x.ring.beats) i = (if tbit v.sub 0 then b.lane i
          else (fp32.add rne (row s v.acc (v.slit + x.ring.beats) i) (b.lane i)).1) % 2 ^ 32) ∧
    (v = r.view 0xD3 → v.sin = 0 → v.sout ≤ 5 → s.beatRoom e v.sout = true → noMiss → ∃ t, exec (.sxout r) s = .next t ∧
      keeps t ∧ counts v t ∧ rest t v.acc (v.slit + x.ring.beats) ∧
      sent t v.sout (s.sxConv v ((List.range 16).map fun i => row s v.acc (v.slit + x.ring.beats) i)).1 ∧ ∀ i, i < 16 →
        row t v.acc (v.slit + x.ring.beats) i = if tbit v.sub 0 then 0 else row s v.acc (v.slit + x.ring.beats) i) ∧
    (∀ b, v = r.view 0xD3 → v.sin ≠ 0 → v.sin ≤ 5 → v.sout ≤ 5 → s.beatRoom e v.sout = true → s.beatAt e v.sin = some b →
      ∃ t, exec (.sxout r) s = .next t ∧ keeps t ∧ took t v.sin ∧ counts v t ∧ (t.elem e).acc = x.acc ∧
        sent t v.sout (s.sxConv v ((List.range 16).map b.lane)).1) ∧
    (v = r.view 0xD5 → tbit v.sub 0 = true → v.sout ≤ 5 → s.beatRoom e v.sout = true → noMiss → ∃ t,
      exec (.sxmov r) s = .next t ∧ keeps t ∧ counts v t ∧ (t.elem e).acc = x.acc ∧
      sent t v.sout (beatOfLanes 32 ((List.range 16).map fun i => row s v.acc (v.slit + x.ring.beats) i))) ∧
    (∀ b, v = r.view 0xD5 → tbit v.sub 0 = false → v.sin ≤ 5 → s.beatAt e v.sin = some b → ∃ t,
      exec (.sxmov r) s = .next t ∧ keeps t ∧ took t v.sin ∧ counts v t ∧ rest t v.acc (v.slit + x.ring.beats) ∧
      ∀ i, i < 16 → row t v.acc (v.slit + x.ring.beats) i = b.lane i) ∧
    (v = r.view 0xD7 → ∃ t, exec (.sxnop r) s = .next t ∧ keeps t ∧ counts v t ∧ (t.elem e).acc = x.acc) ∧
    (v = r.view 0xD6 → v.scnt ≤ x.ring.loop.look v.spos → ∃ t, exec (.sxloop r) s = .next t ∧ keeps t ∧
      goes t (v.spos + 1) ∧ (t.elem e).ring.loop.look v.spos = 0) ∧
    (v = r.view 0xD6 → x.ring.loop.look v.spos < v.scnt → ∃ t, exec (.sxloop r) s = .next t ∧ keeps t ∧ goes t (v.slit % 64) ∧
      (v.slit % 64 < x.ringLen → (t.elem e).ring.loop.look v.spos = x.ring.loop.look v.spos + 1)) ∧
    (v = r.view 0xD4 → v.scnt ≤ x.ring.taken v.spos → ∃ t, exec (.sxwld r) s = .next t ∧ keeps t ∧
      goes t (v.spos + 1) ∧ (t.elem e).ring.wld.look v.spos = 0)) ∧
  ((r.view 0xD4).scnt > x.ring.taken (r.view 0xD4).spos → exec (.sxwld r) s = .next s) ∧
  (s.beatAt e (r.view 0xD1).sin = none ∨ s.beatRoom e (r.view 0xD1).sout = false → exec (.sxpass r) s = .next s) ∧
  (s.beatAt e (r.view 0xD0).sin = none ∨ s.beatRoom e (r.view 0xD0).sout = false → exec (.sxmac r) s = .next s) ∧
  (s.beatAt e (r.view 0xD2).sin = none → exec (.sxacc r) s = .next s)

/-- R280: a weight token for position SEQ, with nothing before it on its link and route tag, writes the two words of its
position into the accumulator and marks the position; the token leaves the stage. While the record has its SCNT positions
the token waits; one that fails a check raises its fault, and the ring stops at the record. A token from a link counts as
an arrival at its CT (R344). R383, R97, R342: a converter from its queue takes the next entry that holds a value, and from
8, 9 or 16 of them makes a beat; at one of KIND 01 it stops and raises TYPE. One into its queue appends the next value of
its beat, SEQ counting from the binding and EOD 1 at the end of each group. A token that reaches a declared queue with
room through its memory tile's router, its route tag having its turn, becomes its entry; whatever waits at the queue is
then served. -/
def Obligations.WeightTokensAndConverters : Prop :=
  (∀ (s : State) (fl : Flight),
    let e := s.at_.a
    let x := s.elem e
    let y := x.without s.at_.b
    let t := fl.tok
    let n := destNode t.dest
    let v := s.view (e * 1024 + n)
    let k := v.acc * 1024 + 2 * t.seq.toNat
    let cts := (if fl.link < 5 then s.touchFx (e / 4) t.fx.toNat else s).cts
    x.stage[s.at_.b]? = some fl → (s.regionOf (e / 4)).mode = true → (s.regionOf (e / 4)).withdraw = false → t.kind ≠ 2#2 →
    heldBack x.stage s.at_.b fl = false → t.par = false →
    (v.op = 0xD4 → x.ring.taken n < v.scnt → s.weightFault e n t = none →
      ∃ u, exec .sxwldWeightToken s = .next u ∧ u = { s with elems := u.elems, ecc := u.ecc, cts := cts } ∧ (∀ j, j ≠ e → u.elem j = s.elem j) ∧
        (u.elem e).back = y.back ∧ (u.elem e).inStage = y.inStage ∧ (u.elem e).acc.look k = t.val.extractLsb' 0 32 ∧
        (u.elem e).acc.look (k + 1) = t.val.extractLsb' 32 32 ∧ (∀ j, j ≠ k → j ≠ k + 1 → (u.elem e).acc.look j = x.acc.look j) ∧
        (u.elem e).ring.wld.look n = x.ring.wld.look n + 2 ^ t.seq.toNat) ∧
    (v.op = 0xD4 → v.scnt ≤ x.ring.taken n → t.kind = 0#2 → destPort t.dest = 0 → exec .sxwldWeightToken s = .next s) ∧
    (∀ f, s.weightFault e n t = some f → (v.op = 0xD4 → t.kind = 0#2 → destPort t.dest = 0 → x.ring.taken n < v.scnt) →
      ∃ (u : State) (a : FaultArgs), exec .sxwldWeightToken s = .next (u.raiseArgs (s.lidOf (e / 4)) (s.ridOf (e / 4)) a) ∧
        OnlyElem e { s with cts := cts } u ∧ (u.elem e).inStage = y.inStage ∧ n ∈ (u.elem e).ring.halts ∧ a.kind = f.1 ∧ a.detail = f.2 ∧ a.spos = n ∧
        a.nofx = true ∧ a.flight = some fl)) ∧
  (∀ (s : State),
    let appends := fun (t : State) (qk : Nat) (tok : Token) => (t.queue qk).resv = (s.queue qk).resv + 1 ∧
      t.rd (s.entryPa qk (s.queue qk).resv) 16 = tok.bits.toNat ∧
      ∀ a, (a < s.entryPa qk (s.queue qk).resv ∨ s.entryPa qk (s.queue qk).resv + 16 ≤ a) → t.byte a = s.byte a
    let calm := fun (qk : Nat) => (s.queue qk).waitPop = [] ∧ (s.queue qk).waitPush = []
    (let k := s.at_.a
     let c := s.conv k
     let qk := k / 8 * 4 + c.qix
     let qu := s.queue qk
     let x := s.entryAt qk qu.cons
     let l := c.parts ++ [x.val]
     (s.regionOf (k / 8)).closed = false → c.en = true →
     (k % 2 = 0 → c.stopped = none → c.beats.length < 4 → qu.cons ≠ qu.pub → qu.stOf qu.cons ≠ 3 → (s.mt (k / 8)).popping c.qix = false →
      (x.kind ≠ 1#2 → x.kind ≠ 2#2 → calm qk → ∃ t, exec .converterTransfer s = .next t ∧ t = { s with mts := t.mts } ∧
        (t.queue qk).cons = qu.cons + 1 ∧ t.conv k = if l.length < beatEntries c.ty then { c with parts := l }
          else { c with parts := [], beats := c.beats ++ [beatOf c.ty l] }) ∧
      (x.kind = 2#2 → ∃ t : State, exec .converterTransfer s = .next (t.serve qk) ∧ t = { s with mts := t.mts } ∧ t.conv k = c ∧
        (t.queue qk).cons = qu.cons + 1) ∧
      (x.kind = 1#2 → ∃ (t : State) (a : FaultArgs), t = { s with mts := t.mts } ∧ t.conv k = { c with stopped := some c.qix } ∧
        exec .converterTransfer s = .next (t.raiseArgs (s.lidOf (convElem k / 4)) (s.ridOf (convElem k / 4)) a) ∧ a.kind = 0x02 ∧
        a.w1 = x.val ∧ a.nofx = true ∧ a.stat = true)) ∧
     (∀ y rest, k % 2 = 1 → c.closing = false → c.out = y :: rest → qu.hasRoom = true → calm qk → ∃ t, exec .converterTransfer s = .next t ∧
        t = { s with mts := t.mts, mem := t.mem, high := t.high } ∧ t.conv k = { c with out := rest, sent := c.sent + 1 } ∧
        appends t qk { val := y, seq := BitVec.ofNat 8 c.sent, eod := if c.grp ≠ 0 ∧ (c.sent + 1) % c.grp = 0 then 1 else 0 }) ∧
     (∀ b rest, k % 2 = 1 → c.out = [] → c.beats = b :: rest → ∃ t, exec .converterTransfer s = .next t ∧ t = { s with mts := t.mts } ∧
        t.conv k = { c with beats := rest, out := beatValues c.ty b })) ∧
    (∀ (fl : Flight) (rest : List Flight), let q := s.at_.a
      let j := rinKey q s.at_.b s.at_.c
      let qk := destQueue fl.tok.dest
      s.rin.look j = fl :: rest → fl.tok.kind ≠ 3#2 → fl.tok.mc = false → isCt q = false → q ∉ s.fused → destSq fl.tok.dest = q →
      destDie fl.tok.dest = sqDie q → fl.ready ≤ s.cycles → s.rtTurn q 12 s.at_.c = true →
      (s.queue qk).declared = true → (s.queue qk).hasRoom = true → ∃ t : State, exec .queueDestinationAppend s = .next (t.serve qk) ∧
        t = { s with rin := t.rin, rtNext := s.rtNext.put (q * 16 + 12) ((s.at_.c + 1) % 4), mts := t.mts, mem := t.mem, high := t.high } ∧
        t.rin.look j = rest ∧ (∀ i, i ≠ j → t.rin.look i = s.rin.look i) ∧ appends t qk fl.tok ∧ (calm qk → t.serve qk = t)))

/-- R251, R384: the requests of a stream's next element set out, where its queue has room, or an entry to be written. When
they have come back, an element of a stream that fills its queue becomes one entry: its value zero-extended, SEQ the low 8
bits of its index and EOD the levels that end with it, at most 7; one of a stream that empties its queue takes its entry.
The stream then stands at the next element, and a fault stops it. After its last one the chain's `agrun` is answered with
its selector word and the chain is free. How an unstated chain corner goes is log 64. R386: COPY_TRIGGER of a queue's
oldest entry, with an arming, F as the copy needs it and no other copy on its memory tile, takes the entry and begins the
copy. The elements that are moved together are read from a tile side, or come back from memory, and are written to a tile
side at their places and at no other byte; the copy then stands behind them, and a fault found at an element is raised
there when the ones before it are moved. At the end F of a destination buffer is set. Which arming an entry fires with,
and the bytes of a dense layout, are logs 58 and 88. -/
def Obligations.GeneratorsAndCopies : Prop :=
  (∀ (s : State),
    let q := s.at_.a
    let u := s.at_.b
    let m := s.mt q
    let st := m.streams.look u
    let l := m.levels st.units
    let inner := m.ag.look (st.units.getLast?.getD 0)
    let k := q * 4 + inner.qix
    let va := vaPlus (fld (m.ag.look u).base.toNat 0 56) (levelOffset l st.x)
    let qu := s.queue k
    let calm := qu.waitPop = [] ∧ qu.waitPush = []
    st.on = true → (st.x < st.total →
      (st.reqs = [] → (s.regionOf q).closed = false → inner.toMem = false → qu.hasRoom = true → ∃ t, exec .agElement s = .next t ∧
        t.mem = s.mem ∧ ((t.mt q).streams.look u).x = st.x ∧ ((t.mt q).streams.look u).reqs =
          (List.range (elementOf va inner.esize).length).map fun i => s.serial + 1 + i) ∧
      (st.reqs = [] → (s.regionOf q).closed = false → inner.toMem = true → m.popping inner.qix = false →
        qu.cons ≠ qu.pub → qu.stOf qu.cons ≠ 3 → (s.entryAt k qu.cons).kind ≠ 2#2 → ∃ t, exec .agElement s = .next t ∧
        t.mem = s.mem ∧ ((t.mt q).streams.look u).x = st.x ∧ ((t.mt q).streams.look u).reqs =
          (List.range (elementOf va inner.esize).length).map fun i => s.serial + 1 + i) ∧
      (∀ b, st.reqs ≠ [] → s.engPoll st.reqs = .ok b → inner.toMem = false → qu.hasRoom = true → calm →
        ∃ t, exec .agElement s = .next t ∧ t = { s with reqs := t.reqs, mts := t.mts, mem := t.mem, high := t.high } ∧
          (t.queue k).resv = qu.resv + 1 ∧ t.rd (s.entryPa k qu.resv) 16 = Token.bits { val := BitVec.ofNat 64 (leBytes b)
                                                                                        seq := BitVec.ofNat 8 st.x
                                                                                        eod := BitVec.ofNat 3 (min (levelEnds l st.x) 7) } ∧
          (∀ a, (a < s.entryPa k qu.resv ∨ s.entryPa k qu.resv + 16 ≤ a) → t.byte a = s.byte a) ∧
          ((t.mt q).streams.look u).x = st.x + 1 ∧ ((t.mt q).streams.look u).reqs = []) ∧
      (∀ b, st.reqs ≠ [] → s.engPoll st.reqs = .ok b → inner.toMem = true → calm → ∃ t, exec .agElement s = .next t ∧
        t = { s with reqs := t.reqs, mts := t.mts } ∧ (t.queue k).cons = qu.cons + 1 ∧ ((t.mt q).streams.look u).x = st.x + 1 ∧
        ((t.mt q).streams.look u).reqs = []) ∧
      (∀ kind d comp ea, st.reqs ≠ [] → s.engPoll st.reqs = .bad kind d comp ea →
        exec .agElement s = .next ((s.agFault q u kind d comp).serve k))) ∧
    (st.total ≤ st.x → m.agWait = [] → ∃ t, exec .agStreamComplete s = .next t ∧
      t = { s with mts := t.mts, reqs := t.reqs, serial := t.serial, chans := t.chans } ∧
      (t.mt q).streams.look u = {} ∧ (∀ x ∈ st.units, ((t.mt q).ag.look x).runs = false) ∧
      (t.reqs.look st.req).tok = (s.reqs.look st.req).f.base 0 (s.reqs.look st.req).f.t0.val ∧
      (t.reqs.look st.req).performed = true)) ∧
  (∀ (s : State),
    let k := s.at_.a
    let qu := s.queue k
    let q := k / 4
    (s.regionOf q).withdraw = false →
    (∀ t f addr, qu.tmpl = some t → qu.armFor qu.cons = some (f, addr) → qu.waitPop = [] → qu.waitPush = [] → qu.cons ≠ qu.pub →
      qu.stOf qu.cons ≠ 3 → (s.mt q).popping (k % 4) = false → (∀ p ∈ (s.mt q).queues, p.2.copy = none) →
      (s.entryAt k qu.cons).kind ≠ 2#2 → s.sideF t.src ≠ some false → s.sideF t.dst ≠ some true →
      ∃ u, exec .copyTrigger s = .next u ∧ u = { s with mts := u.mts } ∧
        (u.queue k).copy = some { trig := s.entryAt k qu.cons, f := f, addr := addr } ∧ (u.queue k).tmpl = some t ∧
        (u.queue k).cons = qu.cons + 1) ∧
    (∀ (c : Copy) (t : Template), qu.copy = some c → qu.tmpl = some t → c.stopped = false → c.x < levelTotal t.levels →
      fld c.trig.val.toNat 0 36 = 0 → (∀ w, s.ecc.look w = 0) →
      let n := if c.n = 0 then s.copyUnit c t 64 1 else c.n
      (∀ kd d comp, c.reqs = [] → c.data = none → c.n = 0 → c.fault = some (kd, d, comp) →
        exec .copyElements s = .next (s.copyFault k c.x kd d comp c)) ∧
      (c.reqs = [] → c.data = none → c.fault = none → t.src ≠ .arm → t.dst ≠ .arm → ∃ u, exec .copyElements s = .next u ∧ u = { s with mts := u.mts } ∧
        (u.queue k).copy = some { c with n := n, data := some (s.gather (s.unitPas t.src t c.x n)) }) ∧
      (c.reqs = [] → c.data = none → c.fault = none → t.src = .arm → c.armVa t % t.esize = 0 → ∃ u, exec .copyElements s = .next u ∧ u.mem = s.mem ∧
        let ids := (List.range (memWords (n * t.esize + 1) (c.armVa t) (n * t.esize)).length).map fun i => s.serial + 1 + i
        (u.queue k).copy = some { c with n := n, reqs := ids }) ∧
      (∀ b, c.reqs ≠ [] → s.engPoll c.reqs = .ok b → ∃ u tlb, exec .copyElements s = .next u ∧
        u = { s with reqs := u.reqs, mts := u.mts } ∧ (u.queue k).copy = some
          (if c.data = none then { c with data := some b, reqs := [], tlb := tlb }
           else { c with x := c.x + c.n, n := 0, data := none, reqs := [], tlb := tlb })) ∧
      (∀ b, c.reqs = [] → c.data = some b → t.dst ≠ .arm → let pas := s.unitPas t.dst t c.x c.n
        b.length = pas.length → pas.Nodup → ∃ u, exec .copyElements s = .next u ∧
        (u.queue k).copy = some { c with x := c.x + c.n, n := 0, data := none } ∧
        (∀ (i pa : Nat), pas[i]? = some pa → some (u.byte pa) = b[i]?) ∧ (∀ a, a ∉ pas → u.byte a = s.byte a))) ∧
    (∀ c t qd bd dtd rd cd, qu.copy = some c → qu.tmpl = some t → c.stopped = false → levelTotal t.levels ≤ c.x → t.src = .arm →
      t.dst = .tile qd bd dtd rd cd none → ∃ u, exec .copyComplete s = .next u ∧ u = { s with mts := u.mts } ∧
        (u.queue k).copy = none ∧ u.desc qd bd = setField (s.desc qd bd) 62 1 1))

/-- R267, R372: a `mark` during an open round waits at its load; with none open, and no other waiting, it opens the round
of its number and is answered with its word, and the round is open afterwards unless every element of the load has entered
it. A marker of the open round that is not the last its node awaits is counted there, leaves the stage, and holds its
arc's later tokens back; with the last one the node enters the round, its arcs let their tokens go, and it sends four
markers to each of its destinations. One of no open round, or on a feedback arc, is discarded; one with failed parity
raises ECCUE with its words (R20); any marker from a link counts as an arrival (R344). How markers are counted where an
arc has several is the model's reading (log 62). -/
def Obligations.MarkerRounds : Prop := ∀ (s : State),
  (∀ r : D1, let f := s.cur
    let v := s.view f.key
    let lid := s.lidOf f.sq
    s.opA.toNat < 2 ^ 16 → v = r.view 0xC5 →
    ((s.load lid).round ≠ none → ∃ t, exec (.mark r) s = .next t ∧ t = { s with loads := t.loads } ∧
      t.load lid = { s.load lid with marksWait := (s.load lid).marksWait ++ [f] } ∧ ∀ l, l ≠ lid → t.load l = s.load l) ∧
    ((s.load lid).round = none → (s.load lid).marksWait = [] → Dests1Ok s v → ∃ t, exec (.mark r) s = .next t ∧
      t.mem = s.mem ∧ t.cts = s.cts ∧ t.regions = s.regions ∧
      (v.hdr.ndest ≠ 0 → { toks := s.flights f v (outs1 v (f.base 0 s.opA)), via := 0 } ∈ (t.elem f.elem).answers) ∧
      ((t.load lid).round = none ∨ ((t.load lid).round = some s.opA.toNat ∧ ∃ e ∈ t.loadElems lid, (t.elem e).entered = false)))) ∧
  (∀ fl : Flight, let e := s.at_.a
    let x := s.elem e
    let ld := s.load (s.lidOf (e / 4))
    let n := destNode fl.tok.dest
    let y := x.without s.at_.b
    let cts := (if fl.link < 5 then s.touchFx (e / 4) fl.tok.fx.toNat else s).cts
    x.stage[s.at_.b]? = some fl → fl.tok.kind = 2#2 → heldBack x.stage s.at_.b fl = false →
    (fl.tok.par = true → ∃ u : State, exec .markerArrival s = .next (u.raiseToken fl 0x13 5 false) ∧
      OnlyElem e { s with cts := cts } u ∧ u.elem e = y) ∧
    (fl.tok.par = false → (s.regionOf (e / 4)).withdraw = false →
    (ld.round ≠ some (fl.tok.val.toNat % 2 ^ 16) ∨ (fl.src, fl.tok.dest.toNat) ∈ ld.feedback →
      ∃ t, exec .markerArrival s = .next t ∧ OnlyElem e { s with cts := cts } t ∧ t.elem e = y) ∧
    (ld.round = some (fl.tok.val.toNat % 2 ^ 16) → (fl.src, fl.tok.dest.toNat) ∉ ld.feedback → n ∉ x.inRound →
      x.marks.look n + 1 < 4 * x.nin.look n → (∃ k ∈ s.loadElems (s.lidOf (e / 4)), k ≠ e ∧ (s.elem k).entered = false) →
      ∃ t, exec .markerArrival s = .next t ∧ OnlyElem e { s with cts := cts } t ∧ (t.elem e).back = y.back ∧ (t.elem e).inStage = y.inStage ∧
        (t.elem e).marked = (n, fl.src, destPort fl.tok.dest, fl.tok.rt.toNat) :: x.marked ∧
        ∀ j, (t.elem e).marks.look j = if j = n then x.marks.look n + 1 else x.marks.look j) ∧
    (ld.round = some (fl.tok.val.toNat % 2 ^ 16) → (fl.src, fl.tok.dest.toNat) ∉ ld.feedback → n ∉ x.inRound →
      4 * x.nin.look n ≤ x.marks.look n + 1 → x.entered = false → (∃ p ∈ x.nodes, p.1 ≠ n ∧ p.1 ∉ x.inRound) →
      ∃ t, exec .markerArrival s = .next t ∧ OnlyElem e { s with cts := cts } t ∧ (t.elem e).back = y.back ∧ (t.elem e).inStage = y.inStage ∧
        (t.elem e).inRound = n :: x.inRound ∧ (t.elem e).marked = x.marked.filter (fun a => a.1 ≠ n) ∧
        (t.elem e).answers.length = x.answers.length + 4 * (s.markDests (e * 1024 + n)).length)))

/-- R353, R355, R271, R408, R450: the handler token of a record, KIND 00 under the root frame on route tag 3, goes to the
load's fault destination in the records' order, once the record has come to the fault queue's die and every CT holds the
park mark (log 87); FRREAD answers with the words of the record that its handle names; QBAR with the word that designates
the queue to a barrier cell; XREG registers its DESTA at a free ingress and answers 0. R359 to R362: a held head whose
count is due sends a probe to the element it waits on; a probe that reaches an element below its origin, or with 16 hops
behind it, ends there, and one that comes back to its origin while the head is still held takes the head out and raises
DEADLOCK. FRAMEDRY takes the oldest request out of its allocator; STARVED is raised once while its load stays quiet; what
counts for it is the model's reading (log 73). -/
def Obligations.FaultServiceAndDetection : Prop :=
  (∀ (s : State),
    (let lid := s.at_.a
     ∀ h rest d, (s.load lid).handlers = h :: rest → s.faultDestOf lid = some d →
      let fr := (s.load lid).faults.look (h % 2 ^ 16)
      s.crossing fr.via = false → (fr.nofx = true ∨ s.marking fr.rid fr.fx = false) → ∃ t, exec .handlerTokenSend s = .next t ∧
      t = { s with loads := t.loads, srcQ := t.srcQ } ∧ t.load lid = { s.load lid with handlers := rest } ∧
      (∀ l, l ≠ lid → t.load l = s.load l) ∧
      let q := (s.regionOf (destSq d)).fqmt
      t.srcQ.look q = s.srcQ.look q ++ [{ tok := addressed d { dest := d, rt := 3, val := BitVec.ofNat 64 h
                                                               seq := BitVec.ofNat 8 (h / 2 ^ 16) }
                                          src := 2 ^ 26 + q, lid := lid }]) ∧
    (let id := s.at_.a
     let r := s.reqs.look id
     let a := r.f.t0.val.toNat
     let answers := fun (i : Instr) (x : Word) => ∃ t, exec i s = .next t ∧
       t = { s with reqs := t.reqs, ing := t.ing, serial := t.serial, chans := t.chans } ∧
       (t.reqs.look id).tok = r.f.base 0 x ∧ (t.reqs.look id).performed = true ∧ ∀ n, n ≠ id → t.reqs.look n = s.reqs.look n
     (s.callAt id 0x0F00 = true → ∀ ix fr, s.recordOf r.lid (a % 2 ^ 32) = some (ix, fr) → a < 2 ^ 36 →
       (fld a 32 4 = 0 → answers .frread fr.w0) ∧ (fld a 32 4 = 1 → answers .frread fr.w1) ∧
       (fld a 32 4 = 2 → answers .frread fr.w2) ∧ (fld a 32 4 = 3 → answers .frread fr.w3) ∧
       (fld a 32 4 = 4 → answers .frread fr.companion)) ∧
     (s.callAt id 0x0F01 = true → ∀ k, (s.load r.lid).queues[a % 256]? = some k → a < 2 ^ 16 →
       answers .qbar (BitVec.ofNat 64 (fld a 8 8 * 2 ^ 56 + k / 4 % 4096 * 2 ^ 19 + k % 4 * 2 ^ 17 + 2 ^ 16))) ∧
     (s.callAt id 0x0F10 = true → a < 256 → (s.ing.look a).v = false → (s.view r.f.key).hdr.tg = 0 → answers .xreg 0 ∧
       ∀ t, exec .xreg s = .next t → t.ing.look a = { v := true, lid := r.lid, dest := (s.view r.f.key).destA, fx := r.f.t0.fx
                                                      path := r.f.t0.path } ∧ ∀ n, n ≠ a → t.ing.look n = s.ing.look n))) ∧
  (∀ (s : State),
    (let e := s.at_.a
     let x := s.elem e
     ∀ n link rt, s.probeDue e = true → s.waitsOn e = some (n, link, rt) → sqDie (n / 4) = sqDie (e / 4) →
      ∃ t, exec .holdCountExpiry s = .next t ∧ t = { s with elems := t.elems, probes := t.probes, serial := s.serial + 1 } ∧
        t.elem e = { x with held := { x.held with probes := x.held.probes + 1 } } ∧
        t.probes.look s.serial = { origin := e, f := x.held.f, goal := n, link := link, rt := rt, via := 0 }) ∧
    (let p := s.probes.look s.at_.a
     let gone := { s with probes := s.probes.del s.at_.a }
     (∃ x ∈ s.probes, x.1 = s.at_.a) → s.crossing p.via = false →
      (p.goal < p.origin ∨ (16 ≤ p.trail.length ∧ p.goal ≠ p.origin) → exec .probeHop s = .next gone) ∧
      (p.goal = p.origin → s.heldHead p.origin ≠ some p.f → exec .probeHop s = .next gone) ∧
      (p.goal = p.origin → s.heldHead p.origin = some p.f → ∃ u : State, OnlyElem p.origin gone u ∧
        u.elem p.origin = { s.elem p.origin with readyQ := (s.elem p.origin).readyQ.drop 1, held := {} } ∧
        ∃ a : FaultArgs, exec .probeHop s = .next (u.raiseArgs (s.lidOf p.f.sq) (s.ridOf p.f.sq) a) ∧ a.kind = 0x0B ∧
          a.detail = p.trail.length ∧ a.place = p.f.key ∧ a.fx = p.f.t0.fx.toNat ∧ a.firing = some p.f ∧ a.nofx = false)) ∧
    (∀ q, s.framedry s.at_.a = some q → ∃ u : State, u = { s with regions := u.regions } ∧
      u.region s.at_.a = { s.region s.at_.a with allocQ := (s.region s.at_.a).allocQ.drop 1 } ∧
      ∃ a : FaultArgs, exec .framedryDetect s = .next (u.raiseArgs (s.region s.at_.a).load (s.ridOf q.f.sq) a) ∧ a.kind = 0x09 ∧
        a.place = q.f.key ∧ a.firing = some q.f ∧ a.nofx = false) ∧
    (s.starved s.at_.a = true → ∃ u : State, u = { s with loads := u.loads } ∧
      u.load s.at_.a = { s.load s.at_.a with wasQuiet := true } ∧ u.starved s.at_.a = false ∧
      ∃ (a : FaultArgs) (rid : Nat), exec .starvedDetect s = .next (u.raiseArgs s.at_.a rid a) ∧ a.kind = 0x0C ∧ a.nofx = true))

/-- R38, R358, R4: a cycle takes the timebase on by 15 units of 1/18 ns, or by 20 in efficiency mode; in an element that
has its cycle a node with a parked operand counts one more operand stall, up to 0xFFFF, the held head's node one more
output stall, unless it has cleared the counter in this cycle, and the hold count goes up by one while one firing stays
held; an element without a cycle keeps its counters. No byte of memory changes. The length of a cycle in efficiency mode
is the model's reading (log 4), and an element of a stopped region has no cycle (log 117). -/
def Obligations.CyclesAndStalls : Prop := ∀ (s : State) (e : Nat),
  s.power.next = none → s.windowOver = false → (∀ p ∈ s.elems, p.2.lutLoads = []) →
  ∃ t, exec .stallCounterCycle s = .next t ∧ t.units = s.units + (if s.power.mode = 2 then 20 else 15) ∧
    t.cycles = s.cycles + 1 ∧ t.mem = s.mem ∧ t.cts = s.cts ∧ t.reqs = s.reqs ∧ t.loads = s.loads ∧
    (s.clocks e = false → t.elem e = s.elem e) ∧
    (s.clocks e = true → (∃ p ∈ s.elems, p.1 = e) →
      (∀ n, (t.elem e).stallOp.look n = if n ∈ s.parkedNodes e ∧ n * 2 ∉ (s.elem e).cleared then sat16 ((s.elem e).stallOp.look n) else (s.elem e).stallOp.look n) ∧
      (∀ f, s.heldHead e = some f → ∀ n, (t.elem e).stallOut.look n =
        if n = f.node ∧ n * 2 + 1 ∉ (s.elem e).cleared then sat16 ((s.elem e).stallOut.look n) else (s.elem e).stallOut.look n) ∧
      (∀ f, s.heldHead e = some f → (s.elem e).held.f = f → (t.elem e).held = { (s.elem e).held with cycles := (s.elem e).held.cycles + 1 }) ∧
      (s.heldHead e = none → (t.elem e).held = {} ∧ (t.elem e).stallOut = (s.elem e).stallOut) ∧
      (t.elem e).readyQ = (s.elem e).readyQ ∧ (t.elem e).outStage = (s.elem e).outStage)

/-- R56, R273, R322: CFG_COMMIT_FLIP of a region whose commit can be made, in dataflow mode and without START, gives its
elements the records of the shadow block, keeps their accumulators, ACSEQ, LUTs that the block does not write and STATE,
empties their stages, and leaves their stall counters, PGA, PGB and ELSTAT 0; every slot of their frame stores keeps its
value with P and B 0, the frame tables are empty, barrier cells keep their words, the queues start at index 0, a declared
buffer has the next generation and any other its own, and every FX is free. It takes the region's registers from the block
(reserved bits 0, R319), drops the translations of its clusters, and answers the `cfgcmt`; other regions, elements
outside, memory and the stores of the egress store buffer (R293) stay. A block with a static record that fails its check,
or with any in token mode (R100), changes nothing: which record is named is the model's reading (log 67). -/
def Obligations.ConfigurationCommit : Prop := ∀ (s : State) (blk : List Byte) (id : Nat),
  let rid := s.at_.a
  let g := s.region rid
  let b := Block.ofBytes blk
  let bad := staticBad b (b.links.foldl (fun (t : Tbl Nat) p => t.put p.1 p.2) [])
  s.flipReady rid = true → g.shadow = some blk → g.commit = some (id, false) →
  (∀ k n, bad = some (k, n) → exec .cfgCommitFlip s = .next (s.flipFails rid id k n)) ∧
  (id ≠ 0 → b.mode = false → bad = none → (s.reqs.look id).rid ≠ rid → g.clusters.Nodup → ∃ t, exec .cfgCommitFlip s = .next t ∧ t.mem = s.mem ∧ (∀ r, r ≠ rid → t.region r = s.region r) ∧
    (t.region rid).shadow = none ∧ (t.region rid).commit = none ∧ (t.region rid).xroot = b.xroot &&& 0x800FFFFFFFFF0000#64 ∧ (t.region rid).fcls = b.fcls ∧
    (t.region rid).level = b.level ∧ (t.region rid).srseed = b.srseed ∧ (t.region rid).stopped = false ∧
    (t.region rid).clusters = g.clusters ∧ (t.region rid).load = g.load ∧ (t.region rid).fx = [] ∧ (t.region rid).allocQ = [] ∧
    (∀ e, e ∉ regionElems g → t.elem e = s.elem e) ∧
    (∀ e, e ∈ regionElems g → (t.elem e).acc = (s.elem e).acc ∧ (t.elem e).acseq = (s.elem e).acseq ∧
      (t.elem e).lutState = (s.elem e).lutState ∧ (b.luts = [] → (t.elem e).lut = (s.elem e).lut) ∧ (t.elem e).readyQ = [] ∧
      (t.elem e).inStage = [] ∧ (t.elem e).elstat = 0 ∧ (t.elem e).stallOp = [] ∧ (t.elem e).stallOut = [] ∧ (t.elem e).pga = 0 ∧
      (t.elem e).pgb = 0 ∧
      ∀ n, n < 1024 → (t.elem e).nodes.look n = ((b.records.filter fun p => p.1 == e * 1024 + n).getLast?.map (·.2)).getD 0) ∧
    (∀ q, q ∈ regionSquares g → isCt q = true → (s.ct q).slots.wf = true → (s.ct q).bar.wf = true → (t.ct q).ftab = [] ∧
      (∀ i, (t.ct q).slots.look i = { val := ((s.ct q).slots.look i).val }) ∧
      ∀ i, ((t.ct q).bar.look i).w0 = ((s.ct q).bar.look i).w0 ∧ ((t.ct q).bar.look i).w1 = ((s.ct q).bar.look i).w1) ∧
    (∀ q, q ∈ regionSquares g → isCt q = false →
      (∀ i, ((t.mt q).queues.look i).cons = 0 ∧ ((t.mt q).queues.look i).pub = 0 ∧ ((t.mt q).queues.look i).resv = 0) ∧
      ((s.mt q).mode = 3 → (t.mt q).mode = 3 → (t.mt q).istate = (s.mt q).istate) ∧
      ∀ n, n < 64 → (∀ p, b.bufs.find? (fun p => p.1 == q * 64 + n) = some p →
          t.desc q n = setField (setField p.2 54 8 (dGen (s.desc q n) + 1)) 0 9 0) ∧
        (b.bufs.find? (fun p => p.1 == q * 64 + n) = none → t.desc q n = setField 0 54 8 (dGen (s.desc q n)))) ∧
    (∀ n, n ≠ id → (s.reqs.look n).stage = .posted → (t.reqs.look n).stage = .posted) ∧
    (∀ c, s.clRid.look c = rid → t.tlb.look c = []) ∧ (∀ c, s.clRid.look c ≠ rid → t.tlb.look c = s.tlb.look c) ∧
    (t.reqs.look id).tok = (s.reqs.look id).f.base 0 (s.reqs.look id).f.t0.val ∧ (t.reqs.look id).performed = true)

/-- R363 to R366, R369, R370: PMCTL written with GO on the home die of a running load, whose regions are not being
committed, with no pre-emption there: BUSY and GO are set; a drain of a dataflow load closes its sources; a park also
stops its elements and begins its withdrawal: its frames and elements stop at once on the die of its first region's
allocator, and a notice of the stop sets out to each other die that it has (log 110). A restore begins where the image
fits a load committed with START = 0, or parked there (R370); while a region is being committed a save or restore waits.
While one is under way that is no cut, another write changes nothing; of a load that does not run, or on another die, it
only sets ERR. What Igtex owes waits until it would be accepted (log 50). TOUT passed, a drain becomes a park, with ESC
set. -/
def Obligations.PreemptionBegins : Prop := ∀ (s : State) (d : Nat) (w : Word),
  let rid := pmRid w
  let lid := (s.region rid).load
  let ld := s.load lid
  let runs := lid ≠ 0 ∧ ld.phase = .running ∧ cmdField ld.cmd 6 1 = d
  let starts := fun (i : Instr) (t : State) => exec i s = .next t ∧ t.mem = s.mem ∧ (t.die d).pmstat.getLsbD 63 = true ∧
    (t.die d).pmctl.getLsbD 63 = true ∧ ∃ p, (t.die d).pm = some p ∧ p.lid = lid ∧ p.rid = rid ∧ p.grade = pmGrade w ∧
      p.restore = pmRst w ∧ p.tout = pmTout w ∧ p.begun = true
  let idle := (s.die d).pm = none ∧ (s.die d).pmWait = [] ∧ (s.die d).busy = false
  pmGo w = true →
  let home := sqDie (s.region ((ld.regions[0]?).getD 0)).famt
  (idle → runs → ld.saved = false → s.committing lid = false → pmRst w = false →
    (pmGrade w = 0 → (∀ r ∈ ld.regions, (s.region r).mode = false) → ∃ t, starts (.preemptDrain d w) t ∧
      (∀ r ∈ ld.regions, (t.region r).closed = true) ∧ (∀ r, r ∉ ld.regions → t.region r = s.region r) ∧ t.elems = s.elems) ∧
    (pmGrade w = 1 → ∃ t, starts (.preemptPark d w) t ∧
      (∀ r ∈ ld.regions, (t.region r).closed = true ∧ (t.region r).stopped = true ∧ (t.region r).withdraw = true) ∧
      (∀ r, r ∉ ld.regions → t.region r = s.region r) ∧
      (∀ e, (∃ p ∈ s.elems, p.1 = e) → sqDie (e / 4) = home → s.ridOf (e / 4) ∈ ld.regions → (t.elem e).stop = true) ∧
      (∀ e, (sqDie (e / 4) ≠ home ∨ s.ridOf (e / 4) ∉ ld.regions) → t.elem e = s.elem e) ∧
      t.notices.map (fun n => (n.die, n.what, n.back)) = s.notices.map (fun n => (n.die, n.what, n.back)) ++
        ((((ld.regions.flatMap fun r => (s.region r).clusters.map (· / 48)).eraseDups).filter (· ≠ home)).map fun x =>
          (x, .stop lid, false))) ∧
    (pmGrade w = 2 → ∃ t, starts (.preemptParkAtCut d w) t ∧ (∀ r ∈ ld.regions, (t.region r).closed = true) ∧
      (∀ e, s.lidOf (e / 4) = lid → (t.elem e).entered = true → (t.elem e).stop = true))) ∧
  (idle → s.restoreOk d lid (s.die d).pmsave = true → s.committing lid = false → pmRst w = true → pmGrade w ≠ 3 →
    ∃ t, starts (.preemptRestore d w) t) ∧
  (idle → s.committing lid = true → (pmRst w = true ∧ pmGrade w ≠ 3 ∧ s.restoreOk d lid (s.die d).pmsave = true) ∨
      (pmRst w = false ∧ pmGrade w = 1 ∧ runs) →
    let i : Instr := if pmRst w then .preemptRestore d w else .preemptPark d w
    ∃ t, exec i s = .next t ∧ t = { s with dies := t.dies } ∧ (t.die d).busy = true ∧ ∃ p, (t.die d).pm = some p ∧ p.lid = lid ∧
      p.begun = false) ∧
  (∀ p rest, (s.die d).pm = none → (s.die d).pmWait = p :: rest → p.word = w →
    (p.restore = true → s.restoreOk d (s.region p.rid).load p.pa = false) →
    (p.restore = false → let l := s.load (s.region p.rid).load
      ¬ ((s.region p.rid).load ≠ 0 ∧ l.phase = .running ∧ cmdField l.cmd 6 1 = d)) →
    exec (.preemptDrain d w) s = .next s ∧ exec (.preemptPark d w) s = .next s ∧ exec (.preemptParkAtCut d w) s = .next s ∧
      exec (.preemptRestore d w) s = .next s) ∧
  (idle → ¬ runs → pmRst w = false → pmGrade w = 0 → ∃ t, exec (.preemptDrain d w) s = .next t ∧ t = { s with dies := t.dies } ∧
    t.die d = { s.die d with pmstat := (s.die d).pmstat ||| 0x1000000000000000#64 }) ∧
  (∀ p, (s.die d).pm = some p → p.begun = true → p.grade ≠ 2 → exec (.preemptDrain d w) s = .next s ∧
    exec (.preemptPark d w) s = .next s ∧ exec (.preemptParkAtCut d w) s = .next s ∧ exec (.preemptRestore d w) s = .next s) ∧
  (∀ p, s.at_.a = d → (s.die d).pm = some p → p.begun = true → p.restore = false → p.grade = 0 → p.withdrawing = false →
    p.saving = false → 0 < p.tout → p.since + p.tout ≤ s.tick d → ∃ t, exec .preemptEscalate s = .next t ∧ t.mem = s.mem ∧
      (t.die d).pmstat = (s.die d).pmstat ||| 0x2000000000000000#64 ∧ (t.die d).pm = some { p with withdrawing := true } ∧
      ∀ r ∈ (s.load p.lid).regions, (t.region r).stopped = true ∧ (t.region r).withdraw = true)

/-- R365 to R368, R370, R364: a drained load that is quiescent, or a parked one whose withdrawal is over, has its state
taken into the save image at PMSAVE; the save then ends with BUSY 0, DONE 1, GO 0 and the image's size, and the load
stands saved. A restore that ends leaves its load running with the account of its image, its regions open and running, and
DONE 1. A victim of the launch queues is owed a save on its home die. What an image holds and when it is taken are the
model's readings (log 51, log 52). -/
def Obligations.PreemptionEnds : Prop := ∀ (s : State),
  let d := s.at_.a
  (∀ p, (s.die d).pm = some p → p.begun = true →
    (p.restore = false → p.grade = 0 → p.withdrawing = false → p.saving = false → s.loadQuiet p.lid = true →
      s.enginesRest p.lid = true →
      ∃ t, exec .preemptQuiesced s = .next t ∧ t.mem = s.mem ∧ (t.die d).pm = some { p with saving := true } ∧
        (t.saves.look p.pa.toNat).load = s.load p.lid ∧ (t.saves.look p.pa.toNat).lid = p.lid ∧
        (∀ k, k ≠ p.pa.toNat → t.saves.look k = s.saves.look k) ∧ ∀ r ∈ (s.load p.lid).regions, (t.region r).stopped = true) ∧
    (p.withdrawing = true → p.saving = false → s.withdrawn p.lid = true → ∃ t, exec .preemptWithdrawalEnd s = .next t ∧
      t = { s with dies := t.dies, saves := t.saves } ∧ (t.die d).pm = some { p with saving := true } ∧
      (t.saves.look p.pa.toNat).load = s.load p.lid ∧ (t.saves.look p.pa.toNat).elems =
        s.elems.filter fun x => (s.load p.lid).regions.contains (s.ridOf (x.1 / 4))) ∧
    (p.saving = true → p.policy = false → ∃ t, exec .preemptSaveComplete s = .next t ∧
      t = { s with dies := t.dies, spores := t.spores, loads := t.loads } ∧ t.load p.lid = { s.load p.lid with saved := true } ∧
      (t.die d).pm = none ∧ (t.die d).pmstat.getLsbD 63 = false ∧ (t.die d).pmstat.getLsbD 62 = true ∧
      (t.die d).pmctl.getLsbD 63 = false ∧ fld (t.die d).pmstat.toNat 0 48 = (s.saves.look p.pa.toNat).size % 2 ^ 48) ∧
    (p.restore = true → ∃ u : State, exec .preemptRestoreComplete s = .next (u.pump.modDie d fun x => x.pmEnds none) ∧
      (u.load p.lid).phase = .running ∧ (u.load p.lid).issued = (s.saves.look p.pa.toNat).load.issued ∧
      (u.load p.lid).returned = (s.saves.look p.pa.toNat).load.returned ∧
      (u.load p.lid).serial = (s.saves.look p.pa.toNat).load.serial ∧ (u.load p.lid).saved = false ∧
      ∀ r ∈ (s.load p.lid).regions, (u.region r).stopped = false ∧ (u.region r).closed = false)) ∧
  (∃ t, exec .policyPreemption s = .next t ∧ t = { s with dies := t.dies } ∧ ∀ l ∈ s.victims d, l ∉ s.owedSaves →
    ∃ p ∈ (t.die (cmdField (s.load l).cmd 6 1)).pmWait, p.lid = l ∧ p.policy = true ∧ p.restore = false)

/-- R329 to R333, R335, R422: a launch token whose command has no bad field is accepted under the next journal entry; the
check copies the image and puts the request into the queues of its home die at its priority, or fails the launch with code
2; an aging request rises a level when its interval is over; the head's clusters are allocated as it leaves its queue,
under RIDs that no region has (which, is open: log 109). The order and the arguments of the failures are log 69. R330
steps 5 to 7, R336: a dispatched load that Urupo can place is placed, and fails with code 5 where it cannot be; a placed
one, whose DMA queues no other load holds, has its blocks in the shadow banks, a spore store on each of its dies and its
DMA queues enabled, and is loaded, or fails with code 6 where the step finds that one of its blocks cannot be read (log
69); a loaded one whose regions have no commit yet is given one for each, the last with START. -/
def Obligations.LaunchSteps : Prop :=
  (∀ (s : State),
    (∀ (fl : Flight) (rest : List Flight), let k := s.at_.a
      let cmd := s.bytes fl.tok.val.toNat 64
      s.ioIn.look k = fl :: rest → k / 256 % 8 = 2 → fl.tok.kind = 0#2 → destPort fl.tok.dest = 0 → cmdBad cmd = none →
      s.jhead - s.jtail < 4096 → ∃ t, exec .launchToken s = .next t ∧
        t = { s with ioIn := t.ioIn, journal := t.journal, jhead := s.jhead + 1, loads := t.loads } ∧ t.ioIn.look k = rest ∧
        t.journal.look s.jhead = { hid := 0xFFFF, cmd := 1, digest := (sha256 cmd).take 16, tick := s.tick 3 } ∧
        t.load s.jhead = { phase := .accepted, cmd := cmd } ∧ ∀ l, l ≠ s.jhead → t.load l = s.load l) ∧
    (let lid := s.at_.a
     let ld := s.load lid
     let hdie := cmdField ld.cmd 6 1
     let pa := cmdField ld.cmd 8 8
     let m := s.bytes pa (s.rd (pa + 0x14) 4)
     let prio := if cmdField ld.cmd 4 1 = 0xFF then imgPrio m else cmdField ld.cmd 4 1
     ld.phase = .accepted → s.running hdie = true → isHbm pa = true → 128 ≤ s.rd (pa + 0x14) 4 →
     (∀ n, imageFault m (fun i => (s.importFrom m i).isSome) (s.importFcls m) = some n →
       exec .launchCheck s = .next (s.endLoad lid 3 0x0002 n)) ∧
     (imageFault m (fun i => (s.importFrom m i).isSome) (s.importFcls m) = none → (∀ r ∈ imgRegions m, r.1 ≤ 144) →
       (allocRegions (fun _ => true) (regionReqs m hdie)).isSome = true → (s.die hdie).launchQ.length < 256 →
       ∃ t, exec .launchCheck s = .next t ∧ t = { s with loads := t.loads, journal := t.journal, dies := t.dies } ∧
         (t.load lid).phase = .checked ∧ (t.load lid).image = m ∧ (t.load lid).prio = prio ∧
         (t.die hdie).launchQ = (s.die hdie).launchQ ++
           [{ lid := lid, level := prio, since := s.tick hdie, interval := (s.die hdie).interval }])) ∧
    (let d := s.at_.a
     ∃ t, exec .launchAging s = .next t ∧ t = { s with dies := t.dies } ∧ (∀ k, k ≠ d → t.die k = s.die k) ∧
      ∀ (i : Nat) (r : LReq), (s.die d).launchQ[i]? = some r → (t.die d).launchQ[i]? = some
        (if r.lid = s.at_.b ∧ r.level < 7 ∧ r.since + r.interval ≤ s.tick d then
          { r with level := r.level + 1, since := r.since + r.interval, interval := (s.die d).interval } else r)) ∧
    (let d := s.at_.a
     ∀ (r : LReq) (cs : List (List Nat)), (s.die d).head = some r → s.running d = true → (∀ x ∈ (s.die d).launchQ, s.agingDue d x = false) →
      s.fits s.clusterFree r.lid = some cs → (s.freeRids cs.length).length = cs.length →
      ∃ t, exec .launchDispatch s = .next t ∧
        t = { s with dies := t.dies, regions := t.regions, clRid := t.clRid, loads := t.loads, free := t.free } ∧
        (t.die d).launchQ = (s.die d).launchQ.filter (·.lid ≠ r.lid) ∧
        t.load r.lid = { s.load r.lid with phase := .dispatched, regions := s.freeRids cs.length, level := r.level, dispatched := s.tick d } ∧
        ∀ (i rid : Nat) (c : List Nat), (s.freeRids cs.length)[i]? = some rid → cs[i]? = some c →
          (t.region rid).load = r.lid ∧ (t.region rid).clusters = c ∧ ∀ x ∈ c, t.clRid.look x ∈ s.freeRids cs.length)) ∧
  (∀ (s : State),
    let lid := s.at_.a
    let ld := s.load lid
    let key := s.placeKey ld.image ld.regions
    (ld.phase = .dispatched →
      (∀ n, s.placement lid key = .error n → exec .launchPlace s = .next (s.endLoad lid 3 0x0005 n)) ∧
      (∀ l, s.placement lid key = .ok l → ∃ t, exec .launchPlace s = .next t ∧
        t = { s with dies := t.dies, loads := t.loads, mcgLoad := t.mcgLoad } ∧ t.load lid = l ∧ (∀ k, k ≠ lid → t.load k = s.load k) ∧
        ((t.die (cmdField ld.cmd 6 1)).placed).head? = some key)) ∧
    (ld.phase = .placed → (∀ n ∈ ld.dmas, s.dqOfOther n lid = false) →
      (s.at_.b = 0 → ∃ t, exec .launchLoad s = .next t ∧
        t = { s with regions := t.regions, spores := t.spores, dq := t.dq, loads := t.loads, free := t.free } ∧
        t.load lid = { ld with phase := .loaded } ∧ (∀ k, k ≠ lid → t.load k = s.load k) ∧
        (∀ r, r ∉ ld.regions → t.region r = s.region r) ∧
        (∀ (i r : Nat), ld.regions[i]? = some r → (∀ j : Nat, ld.regions[j]? = some r → j = i) →
          t.region r = { s.region r with shadow := some ((s.buildBlock lid i).encode) }) ∧
        (∀ n ∈ ld.dmas, (t.dq.look n).en = true) ∧ (∀ n, n ∉ ld.dmas → t.dq.look n = s.dq.look n) ∧
        ∀ e ∈ s.diesOf lid, let x := (t.spores.look (lid * 4 + e)).cfg.toNat
          fld x 58 6 = (if cmdField ld.cmd 0x20 1 = 0 then 26 else cmdField ld.cmd 0x20 1) % 64 ∧ fld x 38 14 = e) ∧
      (∀ (k r : Nat), s.at_.b = k + 1 → ld.regions[k]? = some r → exec .launchLoad s = .next (s.endLoad lid 3 0x0006 r))) ∧
    (ld.phase = .loaded → ld.regions ≠ [] → ld.regions.Nodup → ld.restore = none →
      (∀ r ∈ ld.regions, (s.region r).shadow ≠ none ∧ (s.region r).commit = none) → ∃ t, exec .launchStart s = .next t ∧
        t = { s with regions := t.regions } ∧ (∀ r, r ∉ ld.regions → t.region r = s.region r) ∧
        ∀ r ∈ ld.regions, t.region r = { s.region r with commit := some (0, some r == ld.regions.getLast?) }))

/-- R388 to R392: a data token that an enabled queue of its load takes becomes a 16-byte record in the host ring, VALUE,
EOD, SEQ and the index, and PI goes up by one; a command token asks for its 64-byte descriptor, or ends with code 1 where
the address is not 64-aligned or has no translation; a descriptor that has come back sets the command out, or ends it with
code 1 where it is malformed; a transmitted frame leaves on its port; a command that has ended sends its completion if CV
asks for one and frees its queue. Writes of CI and DQCTL change only their queue, and a link change only its port. What
the spec leaves open of a command, its accesses, a load that ends and a frame is logs 37 to 40. -/
def Obligations.DmaQueues : Prop := ∀ (s : State),
  (∀ (k : Nat) (ci : BitVec 32), ∃ t, exec (.dqptrCiWrite k ci) s = .next t ∧ t = { s with dq := t.dq } ∧ (t.dq.look k).ci = ci.toNat ∧
    (t.dq.look k).pi = (s.dq.look k).pi ∧ (t.dq.look k).ctl = (s.dq.look k).ctl ∧ ∀ j, j ≠ k → t.dq.look j = s.dq.look j) ∧
  (∀ (k : Nat) (v : Word), ∃ t, exec (.dqctlWrite k v) s = .next t ∧ t = { s with dq := t.dq } ∧ (t.dq.look k).en = v.getLsbD 63 ∧
    (t.dq.look k).lid = fld v.toNat 32 16 ∧ (v.getLsbD 63 = true → (t.dq.look k).pi = 0 ∧ fld (t.dq.look k).ctl.toNat 0 16 = 0) ∧
    (v.getLsbD 63 = false → (t.dq.look k).ptr = (s.dq.look k).ptr) ∧ ∀ j, j ≠ k → t.dq.look j = s.dq.look j) ∧
  (∀ (port : Nat) (up : Bool), ∃ t, exec (.ethernetLinkChange port up) s = .next t ∧ t = { s with eth := t.eth } ∧
    ∀ p, t.eth.look p = if p = port then up.toNat else s.eth.look p) ∧
  (let k := s.at_.a
   let q := s.dq.look k
   (∀ fl rest, s.ioIn.look (dqIo k) = fl :: rest → q.cmd = none → destPort fl.tok.dest = 0 → q.refuses fl = false →
     (q.pi + 2 ^ 32 - q.ci) % 2 ^ 32 ≠ ringSize q.ring → ∃ t, exec .dmaDataToken s = .next t ∧
       t = { s with ioIn := t.ioIn, hostMem := t.hostMem, dq := t.dq } ∧ t.ioIn.look (dqIo k) = rest ∧
       (t.dq.look k).pi = (q.pi + 1) % 2 ^ 32 ∧ (t.dq.look k).ci = q.ci ∧ (∀ j, j ≠ k → t.dq.look j = s.dq.look j) ∧ ∀ a, a < 2 ^ 64 → (∀ i, i < 16 →
         a = (ringAddr q.ring 16 q.pi + i) % 2 ^ 64 → some (Tbl.look t.hostMem a) = (dqRecord fl.tok q.pi)[i]?) ∧
         ((∀ i, i < 16 → a ≠ (ringAddr q.ring 16 q.pi + i) % 2 ^ 64) → Tbl.look t.hostMem a = Tbl.look s.hostMem a)) ∧
   let runs := fun (t : State) (c : DmaCmd) => exec .dmaCommandToken s = .next t ∧ (t.dq.look k).cmd = some c ∧
     ∀ j, j ≠ k → t.dq.look j = s.dq.look j
   (∀ fl rest, s.ioIn.look (dqIo k) = fl :: rest → q.cmd = none → destPort fl.tok.dest = 1 → q.refuses fl = false →
     (s.load fl.lid).regions ≠ [] ∨ (s.load fl.lid).phase = .ended →
     let va := fl.tok.val.toNat
     let asked := (s.popIo (dqIo k)).dmaAsk k fl.lid va 64 none
     (va % 64 ≠ 0 → ∃ t, runs t { lid := fl.lid, fail := 1, ended := true } ∧ t = { s with ioIn := t.ioIn, dq := t.dq } ∧
       t.ioIn.look (dqIo k) = rest) ∧
     (va % 64 = 0 → asked = none → ∃ t, runs t { lid := fl.lid, fail := 1, ended := true } ∧
       t = { s with ioIn := t.ioIn, dq := t.dq } ∧ t.ioIn.look (dqIo k) = rest) ∧
     (va % 64 = 0 → ∀ u ids, asked = some (u, ids) → ∃ t, runs t { lid := fl.lid, reqs := ids } ∧ t = { u with dq := t.dq } ∧
       t.ioIn.look (dqIo k) = rest)) ∧
   (∀ c b, q.cmd = some c → c.ended = false → c.reqs ≠ [] → c.desc = [] → s.engPoll c.reqs = .ok b →
     let d : DmaCmd := { c with reqs := [], desc := b }
     ∃ t, runs t (if d.malformed then { d with fail := 1, ended := true } else { d with total := d.len }) ∧
       t = { s.engDrop c.reqs with dq := t.dq }) ∧
   (∀ c, q.cmd = some c → c.ended = false → c.reqs = [] → c.op = 3 → c.sv = false → c.moved = c.total → s.ethUp k c = true →
     ∃ t, runs t { c with ended := true } ∧ t = { s with ethOut := t.ethOut, dq := t.dq } ∧
       t.ethOut = s.ethOut ++ [(k / 256 * 4 + c.haddr, c.frame)]) ∧
   (∀ c, q.cmd = some c → c.ended = true → (s.load c.lid).phase ≠ .ended → ∃ t, exec .dmaCommandComplete s = .next t ∧
     t = { s with dq := t.dq, ioOut := t.ioOut } ∧ (t.dq.look k).cmd = none ∧ (∀ j, j ≠ k → t.dq.look j = s.dq.look j) ∧ (c.fail = 0 → (t.dq.look k).ctl = q.ctl) ∧
     (c.fail ≠ 0 → fld (t.dq.look k).ctl.toNat 16 16 = c.fail % 2 ^ 16 ∧
       fld (t.dq.look k).ctl.toNat 0 16 = min (fld q.ctl.toNat 0 16 + 1) 0xFFFF) ∧
     (tbit (c.f 1 1) 0 = false → t.ioOut = s.ioOut) ∧
     (tbit (c.f 1 1) 0 = true → ∃ fl, t.ioOut.look (k / 256) = s.ioOut.look (k / 256) ++ [fl] ∧ fl.tok.val = c.value ∧ fl.lid = c.lid)))

/-- R418 to R421: with no time due, a claim of an unowned package opens an election of 10,000,000 ticks, and one during it
joins it; at its end the lowest nonce, then the lowest HID, becomes owner, EPOCH rises by 1 and the lease is 1,000,000,000
ticks from that end; the owner, naming the epoch, renews the lease, offers the package to a target, or releases it; the
target's accept makes it owner. A write by a host of IOW acts at once; one by a host of IOE is forwarded, and acts when it
has reached IOW (log 45). A lease that runs out leaves the package unowned. R322, R417, R8: XINV written with GO drops the
translations it names, of a page or of the whole region, from the shared sets of its die, and GO stays 1 until no access
through one of them is under way (log 46). A written register keeps its floor, its reserved bits stay 0, and its write-
one-to-clear bits clear. -/
def Obligations.OwnershipAndRegisters : Prop :=
  (∀ (s : State),
    let o := s.own
    let inTime := (o.st = 1 → s.iowTick < o.window) ∧ (o.st = 2 ∨ o.st = 3 → s.iowTick < o.lapse)
    let changes := fun (i : Instr) (u : State) (n : Own) => ∃ t, exec i s = .next t ∧
      t = { u with own := n, hosts := t.hosts, journal := t.journal, jhead := t.jhead, jtail := t.jtail }
    let owned := fun (h lapse : Nat) =>
      { o with st := 2, owner := h, target := 0xFFFF, epoch := (o.epoch + 1) % 2 ^ 30, lapse := lapse, claims := [] }
    let unowned := { o with st := 0, owner := 0xFFFF, target := 0xFFFF }
    let at_ := fun (hid op : Nat) (arg : List Byte) (u : State) => (s.at_.b = 0 ∧ hid < 8 ∧ u = s) ∨
      ∃ k r, s.at_.b = k + 1 ∧ s.mgmt[k]? = some r ∧ r.ep = 256 ∧ r.hid = hid ∧ r.op = op ∧ r.arg = arg ∧
        s.crossing r.via = false ∧ (∀ x ∈ s.mgmt.take k, x.ep ≠ 256) ∧ u = { s with mgmt := s.mgmt.eraseIdx k }
    let e := fun (epoch : BitVec 32) => toBytes 4 epoch.toNat
    (s.ownServes = true → inTime → ∀ hid u,
      (∀ nonce : Word, at_ hid 0 (toBytes 8 nonce.toNat) u →
        (o.st = 0 → exec (.ownClaim hid nonce) s =
          .next { u with own := { o with st := 1, claims := [(nonce.toNat, hid)], window := s.iowTick + 10000000 } }) ∧
        (o.st = 1 → exec (.ownClaim hid nonce) s = .next { u with own := { o with claims := o.claims ++ [(nonce.toNat, hid)] } })) ∧
      (∀ epoch : BitVec 32, epoch.toNat = o.epoch →
        (o.st = 2 ∨ o.st = 3 → o.owner = hid →
          (at_ hid 1 (e epoch) u → exec (.ownRenew hid epoch) s = .next { u with own := { o with lapse := s.iowTick + 1000000000 } }) ∧
          (∀ tgt : BitVec 16, at_ hid 2 (e epoch ++ toBytes 2 tgt.toNat) u →
            exec (.ownOffer hid tgt epoch) s = .next { u with own := { o with st := 3, target := tgt.toNat } }) ∧
          (at_ hid 4 (e epoch) u → changes (.ownRelease hid epoch) u unowned)) ∧
        (o.st = 3 → o.target = hid → at_ hid 3 (e epoch) u →
          changes (.ownAccept hid epoch) u (owned hid (s.iowTick + 1000000000))) ∧
        ((o.st ≠ 2 ∧ o.st ≠ 3) ∨ o.owner ≠ hid → (at_ hid 1 (e epoch) u → exec (.ownRenew hid epoch) s = .next u) ∧
          (at_ hid 4 (e epoch) u → exec (.ownRelease hid epoch) s = .next u) ∧
          ∀ tgt : BitVec 16, at_ hid 2 (e epoch ++ toBytes 2 tgt.toNat) u → exec (.ownOffer hid tgt epoch) s = .next u))) ∧
    (s.at_.b = 0 → s.ioeForwards = true → ∀ hid (epoch : BitVec 32), 8 ≤ hid → hid < 16 → ∃ t r, exec (.ownRenew hid epoch) s = .next t ∧
      t = { s with mgmt := s.mgmt ++ [r], serial := t.serial, chans := t.chans } ∧ r.ep = 256 ∧ r.hid = hid ∧ r.op = 1 ∧ r.arg = e epoch) ∧
    (o.st = 1 → o.window ≤ s.iowTick → ∀ n h, (n, h) ∈ o.claims → (∀ p ∈ o.claims, n < p.1 ∨ (n = p.1 ∧ h ≤ p.2)) →
      changes .electionWindowEnd s (owned h (o.window + 1000000000))) ∧
    (o.st = 2 ∨ o.st = 3 → o.lapse ≤ s.iowTick → changes .leaseLapse s unowned)) ∧
  (∀ (s : State) (d : Nat) (v : Word),
    (xinvGo (s.die d).xinv = false → xinvGo v = true →
      let gone := fun (i : Instr) => ∃ t, exec i s = .next t ∧ t = { s with dies := t.dies, tlb := t.tlb, mts := t.mts } ∧
        t.die d = { s.die d with xinv := v &&& 0xFFFFC0FFFFFFFFFF#64, xinvAfter := s.egress.flatMap (·.2) } ∧
        (∀ c, c / 48 = d → t.tlb.look c = (s.tlb.look c).filter fun e => !(e.rid == xinvRid v && (xinvAllBit v || e.page == xinvVa v / 2 ^ e.bits))) ∧
        ∀ c, c / 48 ≠ d → t.tlb.look c = s.tlb.look c
      (xinvAllBit v = false → gone (.xinvPage d v)) ∧ (xinvAllBit v = true → gone (.xinvAll d v))) ∧
    (xinvGo (s.die d).xinv = true → exec (.xinvPage d v) s = .next s ∧ exec (.xinvAll d v) s = .next s) ∧
    (s.at_.a = d → xinvGo (s.die d).xinv = true → s.xinvPending d (s.die d).xinv = false → ∃ t, exec .xinvComplete s = .next t ∧
      t = { s with dies := t.dies, tlb := t.tlb, mts := t.mts } ∧ xinvGo (t.die d).xinv = false ∧
      t.die d = { s.die d with xinv := (t.die d).xinv, xinvAfter := [] } ∧
      ∀ c, c / 48 = d → ∀ e ∈ t.tlb.look c, e ∈ s.tlb.look c ∧ xinvHits (s.die d).xinv e = false) ∧
    (d < 3 → let writes := fun (num : Nat) (x : Die) => ∃ t, exec (.registerWrite d num 0 v) s = .next t ∧ t = { s with dies := t.dies } ∧
        t.die d = x ∧ ∀ k, k ≠ d → t.die k = s.die k
      let x := s.die d
      writes 0x01 { x with reqto := BitVec.ofNat 64 (max 4096 (v.toNat % 2 ^ 40)) } ∧ writes 0x06 { x with ecccnt := v } ∧
      writes 0x07 { x with ecclast := x.ecclast &&& ~~~(v &&& 0x8000000000000000#64) } ∧
      writes 0x08 { x with ageq := BitVec.ofNat 64 (max 1024 (v.toNat % 2 ^ 40)) } ∧
      writes 0x0B { x with dlkt := BitVec.ofNat 64 (max 1024 (v.toNat % 2 ^ 32)) } ∧
      writes 0x0D { x with pmsave := v &&& 0x000FFFFFFFFFF000#64 } ∧
      exec (.registerWrite d 0x09 0 v) s = .next s ∧ exec (.registerWrite d 0x0A 0 v) s = .next s))

/-- R414 to R417, R423, R425, R428, R430, R431, R433: a host request that its die answers is replied with status 0 and the
data of its OP; the reply of the host's own I/O die is a 64-byte record in the host's reply ring, PI goes up by one and
vector 0 is signalled, and that of another die sets out to it. A request that only the owner may make is refused with
status 2 to any other, and a request of an endpoint that does not answer has status 1. Short replies, the image, the quote
and how a reply travels are logs 33, 41, 43, 44 and 86. R415, R416: HOST_REQUEST takes the next record of a host's request
ring, whose bytes the host wrote, and CI goes up by one; it waits its turn among the requests of its host, die and
endpoint. A reply that has come back to the host's I/O die, and the status 1 of a request that names no die, is written as
a 64-byte record in the reply ring, PI goes up by one and vector 0 is signalled. The bytes of host memory are log 10, and
how a request travels is log 86. -/
def Obligations.HostRequestsAndRings : Prop :=
  (∀ (s : State) (c : HostCtx),
    let h := s.hosts.look c.hid
    let a := ringAddr h.hrbase 64 (fld h.hrptr.toNat 0 32)
    let inRing := fun (x : Nat) => ∃ i, i < 64 ∧ x = (a + i) % 2 ^ 64
    let replied := fun (i : Instr) (ep status : Nat) (data : List Byte) (P : State → Prop) =>
      let rec_ := toBytes 1 c.die ++ toBytes 1 ep ++ toBytes 2 status ++ toBytes 4 c.tag.toNat ++ (data ++ List.replicate 56 0).take 56
      ∃ t, exec i s = .next t ∧ P t ∧ t.mem = s.mem ∧ t.elems = s.elems ∧ (∀ k, k ≠ c.hid → t.hosts.look k = s.hosts.look k) ∧
        (c.die = hostDie c.hid → (∀ j, j < 64 → some (Tbl.look t.hostMem ((a + j) % 2 ^ 64)) = rec_[j]?) ∧
          t.hosts.look c.hid = { h with hrptr := setField h.hrptr 0 32 (fld h.hrptr.toNat 0 32 + 1), msi := h.msi ||| 1 }) ∧
        (c.die ≠ hostDie c.hid → t.hosts.look c.hid = h ∧ ∃ r ∈ t.mgmt, r.hid = c.hid ∧ r.tag = c.tag ∧ r.die = c.die ∧ r.ep = ep ∧
          r.answer = some (status, data))
    let same := fun (t : State) => t = { s with hostMem := t.hostMem, hosts := t.hosts, mgmt := t.mgmt, serial := t.serial, chans := t.chans }
    let sent := fun (addr : Word) (b : List Byte) (t : State) => same t ∧ ∀ i, i < 8192 → i < b.length →
      ¬ inRing ((addr.toNat + i) % 2 ^ 64) → some (Tbl.look t.hostMem ((addr.toNat + i) % 2 ^ 64)) = b[i]?
    let mine := s.isOwner c.hid = true
    c.die < 5 → c.hid < 16 → (∀ ep op, s.waits c ep = false ∧ s.underway c ep op = false) →
    (∀ off, s.answers c.die 0 = true → replied (.discRead c off) 0 0 (((s.topology c.die).drop (off % 2 ^ 16)).take 56) same) ∧
    (s.answers c.die 1 = true → mine → s.jhead - s.jtail < 4096 → ∀ cmd, replied (.launchCmd c cmd) 1 0 (toBytes 8 s.jhead) fun t =>
      t.jhead = s.jhead + 1 ∧ (t.journal.look s.jhead).hid = c.hid ∧ (t.journal.look s.jhead).cmd = 1) ∧
    (s.answers c.die 2 = true → (∀ n, s.jtail ≤ n → n < s.jhead → replied (.jrnEntry c n) 2 0 (((s.journal.look n).bytes n).take 56) same) ∧
      (∀ n, n < s.jtail ∨ s.jhead ≤ n → replied (.jrnEntry c n) 2 3 [] same) ∧
      replied (.jrnPtrs c) 2 0 (toBytes 8 s.jhead ++ toBytes 8 s.jtail) same) ∧
    (s.answers c.die 3 = true → (∀ num inst, regThere num c.die inst = true → 0 < num → num < 0x19 → num ≠ 0x14 →
        replied (.regRead c num inst) 3 0 (toBytes 8 (s.regGet c.die num inst).toNat) same) ∧
      (mine → ∀ v, c.die < 3 → replied (.regWrite c 0x01 0 v) 3 0 [] fun t =>
        t = { s with hostMem := t.hostMem, hosts := t.hosts, mgmt := t.mgmt, serial := t.serial, chans := t.chans, dies := t.dies } ∧
        t.die c.die = { s.die c.die with reqto := BitVec.ofNat 64 (max 4096 (v.toNat % 2 ^ 40)) })) ∧
    (s.answers c.die 4 = true → mine →
      (∀ off len data, 0 < len → len ≤ 48 → off + len ≤ flashBytes → replied (.imgWrite c off len data) 4 0 [] fun t =>
        ∀ x, Tbl.look t.flash x = if off ≤ x ∧ x < off + len then ((data ++ List.replicate 48 0)[x - off]?).getD 0 else Tbl.look s.flash x) ∧
      (s.fwAccepted c.die = true → replied (.imgCommit c) 4 0 [1] fun t => ∀ d, t.boot.look d = if s.boot.look d = 7 then 2 else s.boot.look d) ∧
      (s.fwAccepted c.die = false → replied (.imgCommit c) 4 0 [] same) ∧
      replied (.imgErase c) 4 0 [] (fun t => t.flash = []) ∧
      (∀ m, m ≤ 2 → replied (.imgPmode c m) 4 0 [] fun t => t.power = { s.power with next := some (m, s.tick 3 + 100000) })) ∧
    (s.answers c.die 4 = true → replied (.imgPstat c) 4 0 (toBytes 8 s.pwrstat.toNat) same ∧
      (s.isOwner c.hid = false → replied (.imgErase c) 4 2 [] same ∧ ∀ off len data, replied (.imgWrite c off len data) 4 2 [] same)) ∧
    (s.answers c.die 5 = true →
      (∀ nonce addr, let b := s.quote c.die nonce ++ signature c.die (s.quote c.die nonce)
        replied (.attQuote c nonce addr) 5 0 (toBytes 2 (min b.length 8192)) (sent addr b)) ∧
      (∀ addr, let b := Config.certificate c.die
        replied (.attCert c addr) 5 0 (toBytes 2 (min b.length 8192)) (sent addr b))) ∧
    (s.answers c.die 3 = false → ∀ num inst, replied (.regRead c num inst) 3 1 [] same)) ∧
  (∀ (s : State),
    (let hid := s.at_.a
     let h := s.hosts.look hid
     let ci := fld h.hqptr.toNat 32 32
     hid < 16 → s.at_.b = 0 → ci ≠ fld h.hqptr.toNat 0 32 → 6 ≤ s.boot.look (hostDie hid) → ∃ t r, exec .hostRequest s = .next t ∧
       t = { s with mgmt := s.mgmt ++ [r], hosts := t.hosts, free := t.free, serial := t.serial, chans := t.chans } ∧ r.hid = hid ∧
       t.hosts.look hid = { h with hqptr := setField h.hqptr 32 32 (ci + 1) } ∧ ∀ k, k ≠ hid → t.hosts.look k = s.hosts.look k) ∧
    (∀ k r, s.at_.b = k + 1 → s.mgmt[k]? = some r → r.ep ≠ 256 → r.hid < 16 → (s.hosts.look r.hid).full = false → s.firstPending k r = true →
      s.crossing r.via = false →
      let h := s.hosts.look r.hid
      let writes := fun (status : Nat) (data : List Byte) =>
        let rec_ := toBytes 1 r.die ++ toBytes 1 r.ep ++ toBytes 2 status ++ toBytes 4 r.tag.toNat ++ (data ++ List.replicate 56 0).take 56
        ∃ t, exec .hostRequest s = .next t ∧ t = { s with mgmt := s.mgmt.eraseIdx k, hosts := t.hosts, hostMem := t.hostMem } ∧
          (∀ j, j < 64 → some (Tbl.look t.hostMem ((ringAddr h.hrbase 64 (fld h.hrptr.toNat 0 32) + j) % 2 ^ 64)) = rec_[j]?) ∧
          t.hosts.look r.hid = { h with hrptr := setField h.hrptr 0 32 (fld h.hrptr.toNat 0 32 + 1), msi := h.msi ||| 1 } ∧
          ∀ j, j ≠ r.hid → t.hosts.look j = s.hosts.look j
      (∀ status data, r.answer = some (status, data) → writes status data) ∧ (r.answer = none → 5 ≤ r.die → writes 1 [])))

/-- R424, R426 to R429, R305: power brings every die of the package to the reading of its image, with the timebase at tick
0; a die whose image has a header and is accepted goes on to its scrub, and any other waits in its loader, as does, by the
model's choice, one that a free value says could not read it; the scrub leaves every byte of its die 0 and the die
running. A die that loses power holds the state of reset, and IOW takes the package with it. What the spec leaves open of
the image, the scrub, a die that powers off and one that has been too hot is logs 8, 9, 43, 48 and 49. R433, R435: a mode
that has been asked for takes effect at a tick boundary; a window of 1,000 ticks that ends above 2,000 W in the balanced
mode makes the next one skip cycles; at 100 degrees a running die is throttled and below 95 no more; at 110 it loses
power, and below 70 it starts again. Readings come from outside (log 6), and what a hot die waits for is log 49. -/
def Obligations.PowerBootAndHeat : Prop :=
  (∀ (s : State),
    ((∀ d, d < 5 → s.power.temp.look d < 70) ∨ (∀ d, d < 5 → d ∉ s.power.hotOff) → s.boot.look 3 = 0 → ∃ t, exec .powerOn s = .next t ∧
      t = { s with units := 0, cycles := 0, boot := t.boot, power := { s.power with hotOff := [] } } ∧
      ∀ d, t.boot.look d = if d < 5 then 2 else 0) ∧
    ((∃ d, d < 5 ∧ d ∈ s.power.hotOff) → (∃ d, d < 5 ∧ 70 ≤ s.power.temp.look d) → exec .powerOn s = .next s) ∧
    (let d := s.at_.a
     s.boot.look d = 2 → s.boot.look 3 ≠ 0 → ∃ t, exec .bootVerify s = .next t ∧ (∀ k, k ≠ d → t.boot.look k = s.boot.look k) ∧
      (Config.chance s.free = true ∨ s.readsFlash d = false ∨ s.fwReadable = false → t.boot.look d = 7 ∧ t.fw.look d = {}) ∧
      (Config.chance s.free = false → s.readsFlash d = true → s.fwReadable = true → t.fw.look d = s.fwOf ∧
        t.boot.look d = if s.fwAccepted d = true then 5 else 7) ∧
      (t.boot.look d = 7 ∨ s.lost.look d = none → t = { s with boot := t.boot, fw := t.fw, free := t.free }) ∧
      (∀ l, t.boot.look d = 5 → s.lost.look d = some l →
        t = { s with boot := t.boot, fw := t.fw, free := t.free, journal := t.journal, jhead := t.jhead, jtail := t.jtail, lost := t.lost } ∧
        t.lost.look d = none)) ∧
    (let d := s.at_.a
     s.boot.look d = 5 → ∃ t, exec .bootScrub s = .next t ∧ (∀ k, t.boot.look k = if k = d then 6 else s.boot.look k) ∧
      (∀ a, homeDie a = d → t.byte a = 0) ∧ (∀ a, homeDie a ≠ d → t.byte a = s.byte a) ∧ t.elems = s.elems ∧ t.loads = s.loads ∧
      (∀ w, eccDie w = d → t.ecc.look w = 0)) ∧
    (∀ d, s.hot d = false → d < 5 → d ≠ 3 → s.boot.look 3 ≠ 0 → ∃ t, exec (.dieRestart d) s = .next t ∧
      ∀ k, t.boot.look k = if k = d then 2 else s.boot.look k) ∧
    (∀ d, d < 5 → d ≠ 3 → ∃ t, exec (.diePowerOff d) s = .next t ∧ t.die d = {} ∧ (∀ k, t.boot.look k = if k = d then 0 else s.boot.look k) ∧
      (∀ e, e / 4 / 4096 = d → t.elem e = {}) ∧ (∀ e, e / 4 / 4096 ≠ d → t.elem e = s.elem e) ∧ (∀ k, k ≠ d → t.die k = s.die k) ∧
      (∀ p ∈ t.reqs, p.2.die ≠ d)) ∧
    (exec (.diePowerOff 3) s = .next { State.reset with flash := s.flash, fused := s.fused, hostMem := s.hostMem, ethOut := s.ethOut
                                                        portOut := s.portOut, free := s.free
                                                        power := { temp := s.power.temp, hotOff := s.power.hotOff } })) ∧
  (∀ (s : State),
    (∀ m n, s.power.next = some (m, n) → (s.units % 18 = 0 → exec .modeChangeEffect s = .next { s with power := { s.power with
        mode := m, next := none, skip := s.power.skip && decide (m = 1) } }) ∧
      (s.units % 18 ≠ 0 → exec .modeChangeEffect s = .next s)) ∧
    (∀ w : BitVec 32, (s.power.windowEnd + 1000 ≤ s.units / 18 → exec (.balancedWindowEnd w) s = .next { s with power := { s.power with
        watts := w.toNat, windowEnd := s.power.windowEnd + 1000, skip := decide (s.power.mode = 1 ∧ 2000 < w.toNat) } }) ∧
      (s.units / 18 < s.power.windowEnd + 1000 → exec (.balancedWindowEnd w) s = .next s)) ∧
    (∀ (d : Nat) (temp : BitVec 8),
      (100 ≤ temp.toNat → temp.toNat < 110 → s.boot.look d ≠ 0 → ∃ t, exec (.thermalThrottle d temp) s = .next t ∧
        t = { s with power := t.power } ∧ t.power.temp.look d = temp.toNat ∧
        t.power.throttled = if d ∈ s.power.throttled then s.power.throttled else s.power.throttled ++ [d]) ∧
      (95 ≤ temp.toNat → temp.toNat < 100 → s.boot.look d ≠ 0 → ∃ t, exec (.thermalUnthrottle d temp) s = .next t ∧
        t = { s with power := t.power } ∧ t.power.temp.look d = temp.toNat ∧ t.power.throttled = s.power.throttled) ∧
      (temp.toNat < 95 → s.boot.look d ≠ 0 → ∃ t, exec (.thermalUnthrottle d temp) s = .next t ∧ t = { s with power := t.power } ∧
        d ∉ t.power.throttled ∧ (∀ k, k ≠ d → (k ∈ t.power.throttled ↔ k ∈ s.power.throttled)) ∧ t.power.temp.look d = temp.toNat) ∧
      (110 ≤ temp.toNat → s.boot.look d ≠ 0 → d < 5 → d ≠ 3 → ∃ t, exec (.thermalShutdown d temp) s = .next t ∧ t.boot.look d = 0 ∧
        t.die d = {} ∧ t.power.temp.look d = temp.toNat ∧ t.hot d = true ∧ ∀ k, k ≠ d → t.boot.look k = s.boot.look k) ∧
      (temp.toNat < 70 → s.boot.look d = 0 → d < 5 → d ≠ 3 → s.boot.look 3 ≠ 0 → ∃ t, exec (.thermalRestart d temp) s = .next t ∧
        t.boot.look d = 2 ∧ t.power.temp.look d = temp.toNat ∧ t.hot d = false ∧ ∀ k, k ≠ d → t.boot.look k = s.boot.look k) ∧
      (temp.toNat < 70 → s.boot.look d = 0 → s.boot.look 3 = 0 → (∀ k, k < 5 → k ≠ d → s.power.temp.look k < 70) →
        ∃ t, exec (.thermalRestart d temp) s = .next t ∧ t.power.hotOff = [] ∧ ∀ k, t.boot.look k = if k < 5 then 2 else 0) ∧
      (∀ j, temp.toNat < 70 → s.boot.look d = 0 → s.boot.look 3 = 0 → j < 5 → j ≠ d → 70 ≤ s.power.temp.look j →
        exec (.thermalRestart d temp) s = .next { s with power := { s.power with temp := s.power.temp.put d temp.toNat } })))

/-- R85 to R101: a record passes the checks of R103 exactly when it is the encoding of a well-formed instruction, so the
encoder and the decoder agree in both directions: every well-formed instruction has a record that decodes to it, with
every operand as it was, and every record that decodes is the encoding of what it decodes to, to the last bit. -/
def Obligations.EncodeDecodeRoundTrip : Prop := ∀ i : Instr,
  (i.WellFormed → ∃ w, i.encode = some w ∧ decode w = .ok i) ∧
  (∀ w : Rec96, decode w = .ok i → i.WellFormed ∧ i.encode = some w)

/-- R56, R313, R414, R428: every step, from any state, keeps the canonical form of the three memories: the addresses of
the listed bytes rise strictly and no listed byte is 0, so that two memories with the same bytes are the same data. -/
def Obligations.MemoryStaysCanonical : Prop := ∀ s t : State,
  Memory.wf s.mem = true ∧ Memory.wf s.hostMem = true ∧ Memory.wf s.flash = true → step s = .next t →
  Memory.wf t.mem = true ∧ Memory.wf t.hostMem = true ∧ Memory.wf t.flash = true

/-- R353, R356: every instruction and every device event takes a next state in every state of the machine: a fault of the
spec is a record and a parked frame, never a stop of the machine; and so does every step. -/
def Obligations.EveryInstructionAnswersNext : Prop := ∀ s : State,
  (∀ i : Instr, ∃ t, exec i s = .next t) ∧ ∃ t, step s = .next t

/-- R12, R124, R277: the step named by `sel` is the one performed. In token mode, when the head of the ready queue can
issue and its record passes its checks, the step is the decoded instruction at the state in which that firing is the
current one, has left the ready queue, and its load counts as at work; in static mode it is the record at the ring's
position; a device event is performed at its place. With nothing named, an enabled step is performed, and with none
enabled a cycle passes. The instruction stored for the very next step after reset is the one that it runs. A head whose
record fails its check, or decodes to nothing, raises its fault. That a program comes from outside, that the choice is
open and that a step is one issue or event is the model's: logs 1, 2 and 3; a static record that fails its check is log
14. -/
def Obligations.StepRunsDecodedInstruction : Prop := ∀ (s : State) (i : Instr),
  (∀ (e : Nat) (f : Firing) (rest : List Firing), let rid := s.ridOf (e / 4)
    s.sel = some (.issue e) → (s.region rid).mode = false → s.stoppedAt (e / 4) = false → (s.elem e).readyQ = f :: rest →
    s.canIssue e f (s.view f.key) = true → s.headBlocked e f (s.view f.key) = false →
    ∃ u, u = { s with sel := none, cur := f, elems := u.elems, loads := u.loads } ∧
      u.elem e = { s.elem e with readyQ := rest, held := {} } ∧ (∀ k, k ≠ e → u.elem k = s.elem k) ∧
      u.load (s.lidOf (e / 4)) = { s.load (s.lidOf (e / 4)) with wasQuiet := false } ∧
      (∀ l, l ≠ s.lidOf (e / 4) → u.load l = s.load l) ∧
      (s.ecc.look (2 ^ 60 + f.key) = 2 → step s = .next (u.raiseTable f 3 f.t1.val)) ∧
      (s.ecc.look (2 ^ 60 + f.key) = 0 → (∀ k ∈ s.slotsAt f (s.view f.key), s.ecc.look k = 0) →
        (decode (s.record f.key) = .ok i → step s = exec i u) ∧
        (∀ x, decode (s.record f.key) = .error x → step s = .next (u.raiseFiring f 0x01 7 f.t1.val 0 0)))) ∧
  (∀ e : Nat, let rid := s.ridOf (e / 4)
    let p := (s.elem e).ring.pos
    s.sel = some (.issue e) → (s.region rid).mode = true → s.stoppedAt (e / 4) = false → (s.elem e).stop = false →
    (s.elem e).ring.on = true → p ∉ (s.elem e).ring.halts → s.ecc.look (2 ^ 60 + (e * 1024 + p)) = 0 → decode (s.record (e * 1024 + p)) = .ok i →
    step s = exec i { s with sel := none, cur := { elem := e, node := p } }) ∧
  (∀ a b c : Nat, s.sel = some (.event i a b c) → step s = exec i { s with sel := none, at_ := { a := a, b := b, c := c } }) ∧
  (s.sel = none → enabled s = [] → step s = exec .stallCounterCycle { s with at_ := {} }) ∧
  (s.sel = none → enabled s ≠ [] → ∃ w ∈ enabled s, ∃ n, step s = perform w { s with free := n }) ∧
  (∀ w : Rec96, decode w = .ok i → ∃ u, step (State.reset.withFetchWord 96 w.toNat) = exec i u ∧
    u.cur = { elem := 0, node := 0 } ∧ u.record 0 = w ∧ u.mem = State.reset.mem ∧ u.regions = State.reset.regions)

/-- R85 to R89, R101, R102, R107: words written out from the encodings decode to the instructions they stand for: the 12
bytes in which a NODES entry holds a record, lowest byte first, are the record; an unassigned OP decodes to nothing; and a
TY that `add` does not take, a TG of 15, an NDEST of 3, a SLOT on a record that uses no slot and a LIT bit where the
column has none are each refused under their own names, in the order of R103. -/
def Obligations.DecodeExamples : Prop :=
  decode 0x2020C800FD441A168441A16D#96 = .ok (.add
    { ty := 2, tg := 0, litp := true, ndest := 2, arity3 := false, opf := 8, slot := 0, lit := 0xFD, destA := 0x441A168,
      destB := 0x441A16D }) ∧
  decode 0xC6E020000000000000000014#96 = .ok (.time
    { ty := 0xE, tg := 0, litp := false, ndest := 1, arity3 := false, opf := 0, slot := 0, lit := 0, destA := 0x14 }) ∧
  decode 0xC0E02000000000102000000C#96 = .ok (.trap
    { ty := 0xE, tg := 0, litp := false, ndest := 1, arity3 := false, opf := 0, slot := 0, lit := 0x102, destA := 0x000000C }) ∧
  decode 0x91002004030405000000001C#96 = .ok (.st
    { ty := 0, tg := 0, litp := false, ndest := 1, arity3 := false, opf := 0, slot := 4, pred := 3, own := 4, succ := 5,
      off := 0, destA := 0x1C }) ∧
  decodeBytes [0x14, 0, 0, 0, 0, 0, 0, 0, 0, 0x20, 0xE0, 0xC6] = decode 0xC6E020000000000000000014#96 ∧
  (∀ w : Rec96, opInfo (w.extractLsb' 88 8).toNat = none ↔ decode w = .error .unassigned) ∧
  decode 0x2080C800FD441A168441A16D#96 = .error .typ ∧ decode 0x20FFE804FD441A168441A16D#96 = .error .typ ∧
  decode 0x202FC800FD441A168441A16D#96 = .error .tag ∧
  decode 0x2020E800FD441A168441A16D#96 = .error .field ∧
  decode 0x2020C804FD441A168441A16D#96 = .error .slotSpan ∧
  decode 0xC6E020000000000010000014#96 = .error .literal

/-- R56, R11, R13, R24, R300, R328, R332, R358, R364, R406, R418: after package reset node records, stall counters, ACSEQ,
PGA, PGB and ELSTAT are 0; no frame-table entry is valid and no operand is parked; every FX is free; barrier cells are 0,
no queue is declared, every structure word is empty, every region is in token mode; the registers with a reset value hold
it; and the memories are in canonical form. Accumulators that the spec leaves undefined, memory before the scrub, the
flash, host memory and the values read off field maps are logs 7, 8, 9, 10 and 79; no clause rests on the fields of log
80. -/
def Obligations.ResetState : Prop :=
  let s := State.reset
  (∀ n, s.record n = 0) ∧
  (∀ e n, (s.elem e).stallOp.look n = 0 ∧ (s.elem e).stallOut.look n = 0 ∧ (s.elem e).acseq.look n = 0) ∧
  (∀ e, (s.elem e).pga = 0 ∧ (s.elem e).pgb = 0 ∧ (s.elem e).elstat = 0) ∧
  (∀ q fx, (s.ct q).entry fx = none) ∧ (∀ q n, (s.ct q).slots.look n = { val := 0, p := false, b := false }) ∧
  (∀ rid fx, (s.fxRec rid fx).alloc = false) ∧ (∀ q c, ((s.ct q).bar.look c).w0 = 0 ∧ ((s.ct q).bar.look c).w1 = 0) ∧
  (∀ m q, ((s.mt m).queues.look q).declared = false) ∧ (∀ m w, (s.mt m).istate.look w = 0) ∧ (∀ m b, (s.mt m).bufs.look b = 0) ∧
  (∀ r, (s.region r).mode = false ∧ (s.region r).level = false ∧ (s.region r).load = 0) ∧
  (∀ d, (s.dies.look d).reqto = 1000000#64 ∧ (s.dies.look d).ageq = 0x100000#64 ∧ (s.dies.look d).dlkt = 0x10000#64 ∧
    (s.dies.look d).pmpol = 0xA000000000000000#64 ∧ (s.dies.look d).pmctl = 0 ∧ (s.dies.look d).pmstat = 0) ∧
  s.pkgid = 0xFFFF ∧ s.own.owner = 0xFFFF ∧ s.own.target = 0xFFFF ∧ s.own.st = 0 ∧
  (∀ a, s.byte a = 0) ∧ Memory.wf s.mem = true ∧ Memory.wf s.hostMem = true ∧ Memory.wf s.flash = true
end

