-- ==== Sys2Proof/Laws/Decode.lean ====
section
/-!
SUPPORT. Bit strips of records: what each field of a record reads as when the record is written from its fields, and the
other way round (R84, R85).
-/
namespace Sys2Proof

theorem strip_high {n m k : Nat} (x : BitVec n) (y : BitVec m) (lo : Nat) (h : m ≤ lo) :
    (x ++ y).extractLsb' lo k = x.extractLsb' (lo - m) k := by
  apply BitVec.eq_of_getLsbD_eq
  intro i hi
  simp only [BitVec.getLsbD_extractLsb', BitVec.getLsbD_append]
  simp [show ¬ lo + i < m by omega, show lo + i - m = lo - m + i by omega]

theorem strip_low {n m k : Nat} (x : BitVec n) (y : BitVec m) (lo : Nat) (h : lo + k ≤ m) :
    (x ++ y).extractLsb' lo k = y.extractLsb' lo k := by
  apply BitVec.eq_of_getLsbD_eq
  intro i hi
  simp only [BitVec.getLsbD_extractLsb', BitVec.getLsbD_append]
  simp [show lo + i < m by omega]

theorem strip_all {n : Nat} (x : BitVec n) : x.extractLsb' 0 n = x := by simp

theorem bit_strip {n : Nat} (x : BitVec n) (i : Nat) : x.getLsbD i = (x.extractLsb' i 1 == 1#1) := by
  rw [Bool.eq_iff_iff, beq_iff_eq]
  constructor
  · intro h
    apply BitVec.eq_of_getLsbD_eq
    intro j hj
    have : j = 0 := by omega
    subst this
    simpa using h
  · intro h
    have := congrArg (fun b => b.getLsbD 0) h
    simpa using this

theorem ofBool_eq_one (b : Bool) : (BitVec.ofBool b == 1#1) = b := by cases b <;> rfl

theorem ofBool_bit {n : Nat} (x : BitVec n) (i : Nat) : BitVec.ofBool (x.getLsbD i) = x.extractLsb' i 1 := by
  rw [bit_strip]
  rcases BitVec.eq_zero_or_eq_one (x.extractLsb' i 1) with h | h <;> rw [h] <;> rfl

theorem strip_join {n : Nat} (x : BitVec n) (lo a b : Nat) :
    x.extractLsb' (lo + b) a ++ x.extractLsb' lo b = x.extractLsb' lo (a + b) := by
  apply BitVec.eq_of_getLsbD_eq
  intro i hi
  simp only [BitVec.getLsbD_extractLsb', BitVec.getLsbD_append]
  by_cases h : i < b
  · simp [h, show i < a + b by omega]
  · simp [h, show lo + b + (i - b) = lo + i by omega, show i - b < a by omega, show i < a + b by omega]

theorem strip_strip {n : Nat} (x : BitVec n) (lo k a b : Nat) (h : a + b ≤ k) :
    (x.extractLsb' lo k).extractLsb' a b = x.extractLsb' (lo + a) b := by
  apply BitVec.eq_of_getLsbD_eq
  intro i hi
  simp only [BitVec.getLsbD_extractLsb']
  simp [show a + i < k by omega, Nat.add_assoc]

/-! ### The header -/

theorem Hdr.bits_ty (h : Hdr) : h.bits.extractLsb' 12 4 = h.ty := by
  show @BitVec.extractLsb' (4 + 4 + 1 + 2 + 1 + 4) 12 4 (h.ty ++ h.tg ++ BitVec.ofBool h.litp ++ h.ndest ++ BitVec.ofBool h.arity3 ++ h.opf) = h.ty
  rw [strip_high _ _ _ (by decide), strip_high _ _ _ (by decide), strip_high _ _ _ (by decide), strip_high _ _ _ (by decide), strip_high _ _ _ (by decide)]
  exact strip_all _

theorem Hdr.bits_tg (h : Hdr) : h.bits.extractLsb' 8 4 = h.tg := by
  show @BitVec.extractLsb' (4 + 4 + 1 + 2 + 1 + 4) 8 4 (h.ty ++ h.tg ++ BitVec.ofBool h.litp ++ h.ndest ++ BitVec.ofBool h.arity3 ++ h.opf) = h.tg
  rw [strip_high _ _ _ (by decide), strip_high _ _ _ (by decide), strip_high _ _ _ (by decide), strip_high _ _ _ (by decide), strip_low _ _ _ (by decide)]
  exact strip_all _

theorem Hdr.bits_litp (h : Hdr) : h.bits.extractLsb' 7 1 = BitVec.ofBool h.litp := by
  show @BitVec.extractLsb' (4 + 4 + 1 + 2 + 1 + 4) 7 1 (h.ty ++ h.tg ++ BitVec.ofBool h.litp ++ h.ndest ++ BitVec.ofBool h.arity3 ++ h.opf) = BitVec.ofBool h.litp
  rw [strip_high _ _ _ (by decide), strip_high _ _ _ (by decide), strip_high _ _ _ (by decide), strip_low _ _ _ (by decide)]
  exact strip_all _

theorem Hdr.bits_ndest (h : Hdr) : h.bits.extractLsb' 5 2 = h.ndest := by
  show @BitVec.extractLsb' (4 + 4 + 1 + 2 + 1 + 4) 5 2 (h.ty ++ h.tg ++ BitVec.ofBool h.litp ++ h.ndest ++ BitVec.ofBool h.arity3 ++ h.opf) = h.ndest
  rw [strip_high _ _ _ (by decide), strip_high _ _ _ (by decide), strip_low _ _ _ (by decide)]
  exact strip_all _

theorem Hdr.bits_arity3 (h : Hdr) : h.bits.extractLsb' 4 1 = BitVec.ofBool h.arity3 := by
  show @BitVec.extractLsb' (4 + 4 + 1 + 2 + 1 + 4) 4 1 (h.ty ++ h.tg ++ BitVec.ofBool h.litp ++ h.ndest ++ BitVec.ofBool h.arity3 ++ h.opf) = BitVec.ofBool h.arity3
  rw [strip_high _ _ _ (by decide), strip_low _ _ _ (by decide)]
  exact strip_all _

theorem Hdr.bits_opf (h : Hdr) : h.bits.extractLsb' 0 4 = h.opf := by
  show @BitVec.extractLsb' (4 + 4 + 1 + 2 + 1 + 4) 0 4 (h.ty ++ h.tg ++ BitVec.ofBool h.litp ++ h.ndest ++ BitVec.ofBool h.arity3 ++ h.opf) = h.opf
  rw [strip_low _ _ _ (by decide)]
  exact strip_all _

/-- The header that a record holds. -/
theorem Hdr.ofRecord_eq (w : Rec96) (h : Hdr) (e : w.extractLsb' 72 16 = h.bits) : Hdr.ofRecord w = h := by
  have e_ty : w.extractLsb' 84 4 = h.ty := by
    rw [← Hdr.bits_ty, ← e, strip_strip _ _ _ _ _ (by decide)]
  have e_tg : w.extractLsb' 80 4 = h.tg := by
    rw [← Hdr.bits_tg, ← e, strip_strip _ _ _ _ _ (by decide)]
  have e_litp : w.extractLsb' 79 1 = BitVec.ofBool h.litp := by
    rw [← Hdr.bits_litp, ← e, strip_strip _ _ _ _ _ (by decide)]
  have e_ndest : w.extractLsb' 77 2 = h.ndest := by
    rw [← Hdr.bits_ndest, ← e, strip_strip _ _ _ _ _ (by decide)]
  have e_arity3 : w.extractLsb' 76 1 = BitVec.ofBool h.arity3 := by
    rw [← Hdr.bits_arity3, ← e, strip_strip _ _ _ _ _ (by decide)]
  have e_opf : w.extractLsb' 72 4 = h.opf := by
    rw [← Hdr.bits_opf, ← e, strip_strip _ _ _ _ _ (by decide)]
  simp only [Hdr.ofRecord, bit_strip, e_ty, e_tg, e_litp, e_ndest, e_arity3, e_opf, ofBool_eq_one]

theorem Hdr.bits_ofRecord (w : Rec96) : (Hdr.ofRecord w).bits = w.extractLsb' 72 16 := by
  simp only [Hdr.bits, Hdr.ofRecord, ofBool_bit]
  have a := strip_join w 80 4 4
  have b := strip_join w 79 8 1
  have c := strip_join w 77 9 2
  have d := strip_join w 76 11 1
  have e := strip_join w 72 12 4
  simp only [Nat.reduceAdd] at a b c d e
  rw [a, b, c, d, e]

/-! ### Form D2 -/

theorem D2.bits_op (op : BitVec 8) (r : D2) : (r.bits op).extractLsb' 88 8 = op := by
  show @BitVec.extractLsb' (8 + 16 + 8 + 8 + 28 + 28) 88 8 (op ++ r.toHdr.bits ++ r.slot ++ r.lit ++ r.destA ++ r.destB) = op
  rw [strip_high _ _ _ (by decide), strip_high _ _ _ (by decide), strip_high _ _ _ (by decide), strip_high _ _ _ (by decide), strip_high _ _ _ (by decide)]
  exact strip_all _

theorem D2.bits_hdr (op : BitVec 8) (r : D2) : (r.bits op).extractLsb' 72 16 = r.toHdr.bits := by
  show @BitVec.extractLsb' (8 + 16 + 8 + 8 + 28 + 28) 72 16 (op ++ r.toHdr.bits ++ r.slot ++ r.lit ++ r.destA ++ r.destB) = r.toHdr.bits
  rw [strip_high _ _ _ (by decide), strip_high _ _ _ (by decide), strip_high _ _ _ (by decide), strip_high _ _ _ (by decide), strip_low _ _ _ (by decide)]
  exact strip_all _

theorem D2.bits_slot (op : BitVec 8) (r : D2) : (r.bits op).extractLsb' 64 8 = r.slot := by
  show @BitVec.extractLsb' (8 + 16 + 8 + 8 + 28 + 28) 64 8 (op ++ r.toHdr.bits ++ r.slot ++ r.lit ++ r.destA ++ r.destB) = r.slot
  rw [strip_high _ _ _ (by decide), strip_high _ _ _ (by decide), strip_high _ _ _ (by decide), strip_low _ _ _ (by decide)]
  exact strip_all _

theorem D2.bits_lit (op : BitVec 8) (r : D2) : (r.bits op).extractLsb' 56 8 = r.lit := by
  show @BitVec.extractLsb' (8 + 16 + 8 + 8 + 28 + 28) 56 8 (op ++ r.toHdr.bits ++ r.slot ++ r.lit ++ r.destA ++ r.destB) = r.lit
  rw [strip_high _ _ _ (by decide), strip_high _ _ _ (by decide), strip_low _ _ _ (by decide)]
  exact strip_all _

theorem D2.bits_destA (op : BitVec 8) (r : D2) : (r.bits op).extractLsb' 28 28 = r.destA := by
  show @BitVec.extractLsb' (8 + 16 + 8 + 8 + 28 + 28) 28 28 (op ++ r.toHdr.bits ++ r.slot ++ r.lit ++ r.destA ++ r.destB) = r.destA
  rw [strip_high _ _ _ (by decide), strip_low _ _ _ (by decide)]
  exact strip_all _

theorem D2.bits_destB (op : BitVec 8) (r : D2) : (r.bits op).extractLsb' 0 28 = r.destB := by
  show @BitVec.extractLsb' (8 + 16 + 8 + 8 + 28 + 28) 0 28 (op ++ r.toHdr.bits ++ r.slot ++ r.lit ++ r.destA ++ r.destB) = r.destB
  rw [strip_low _ _ _ (by decide)]
  exact strip_all _

theorem D2.ofRecord_bits (op : BitVec 8) (r : D2) : D2.ofRecord (r.bits op) = r := by
  simp only [D2.ofRecord, Hdr.ofRecord_eq _ _ (D2.bits_hdr op r), D2.bits_slot, D2.bits_lit, D2.bits_destA, D2.bits_destB]

theorem D2.bits_ofRecord (w : Rec96) : (D2.ofRecord w).bits (w.extractLsb' 88 8) = w := by
  have h := Hdr.bits_ofRecord w
  simp only [D2.bits, D2.ofRecord, h]
  have hhdr := strip_join w 72 8 16
  have hslot := strip_join w 64 24 8
  have hlit := strip_join w 56 32 8
  have hdestA := strip_join w 28 40 28
  have hdestB := strip_join w 0 68 28
  simp only [Nat.reduceAdd] at hhdr hslot hlit hdestA hdestB
  rw [hhdr, hslot, hlit, hdestA, hdestB]
  simp

/-! ### Form D1 -/

theorem D1.bits_op (op : BitVec 8) (r : D1) : (r.bits op).extractLsb' 88 8 = op := by
  show @BitVec.extractLsb' (8 + 16 + 8 + 36 + 28) 88 8 (op ++ r.toHdr.bits ++ r.slot ++ r.lit ++ r.destA) = op
  rw [strip_high _ _ _ (by decide), strip_high _ _ _ (by decide), strip_high _ _ _ (by decide), strip_high _ _ _ (by decide)]
  exact strip_all _

theorem D1.bits_hdr (op : BitVec 8) (r : D1) : (r.bits op).extractLsb' 72 16 = r.toHdr.bits := by
  show @BitVec.extractLsb' (8 + 16 + 8 + 36 + 28) 72 16 (op ++ r.toHdr.bits ++ r.slot ++ r.lit ++ r.destA) = r.toHdr.bits
  rw [strip_high _ _ _ (by decide), strip_high _ _ _ (by decide), strip_high _ _ _ (by decide), strip_low _ _ _ (by decide)]
  exact strip_all _

theorem D1.bits_slot (op : BitVec 8) (r : D1) : (r.bits op).extractLsb' 64 8 = r.slot := by
  show @BitVec.extractLsb' (8 + 16 + 8 + 36 + 28) 64 8 (op ++ r.toHdr.bits ++ r.slot ++ r.lit ++ r.destA) = r.slot
  rw [strip_high _ _ _ (by decide), strip_high _ _ _ (by decide), strip_low _ _ _ (by decide)]
  exact strip_all _

theorem D1.bits_lit (op : BitVec 8) (r : D1) : (r.bits op).extractLsb' 28 36 = r.lit := by
  show @BitVec.extractLsb' (8 + 16 + 8 + 36 + 28) 28 36 (op ++ r.toHdr.bits ++ r.slot ++ r.lit ++ r.destA) = r.lit
  rw [strip_high _ _ _ (by decide), strip_low _ _ _ (by decide)]
  exact strip_all _

theorem D1.bits_destA (op : BitVec 8) (r : D1) : (r.bits op).extractLsb' 0 28 = r.destA := by
  show @BitVec.extractLsb' (8 + 16 + 8 + 36 + 28) 0 28 (op ++ r.toHdr.bits ++ r.slot ++ r.lit ++ r.destA) = r.destA
  rw [strip_low _ _ _ (by decide)]
  exact strip_all _

theorem D1.ofRecord_bits (op : BitVec 8) (r : D1) : D1.ofRecord (r.bits op) = r := by
  simp only [D1.ofRecord, Hdr.ofRecord_eq _ _ (D1.bits_hdr op r), D1.bits_slot, D1.bits_lit, D1.bits_destA]

theorem D1.bits_ofRecord (w : Rec96) : (D1.ofRecord w).bits (w.extractLsb' 88 8) = w := by
  have h := Hdr.bits_ofRecord w
  simp only [D1.bits, D1.ofRecord, h]
  have hhdr := strip_join w 72 8 16
  have hslot := strip_join w 64 24 8
  have hlit := strip_join w 28 32 36
  have hdestA := strip_join w 0 68 28
  simp only [Nat.reduceAdd] at hhdr hslot hlit hdestA
  rw [hhdr, hslot, hlit, hdestA]
  simp

/-! ### Form FC -/

theorem FC.bits_op (op : BitVec 8) (r : FC) : (r.bits op).extractLsb' 88 8 = op := by
  show @BitVec.extractLsb' (8 + 16 + 44 + 28) 88 8 (op ++ r.toHdr.bits ++ r.lit ++ r.destA) = op
  rw [strip_high _ _ _ (by decide), strip_high _ _ _ (by decide), strip_high _ _ _ (by decide)]
  exact strip_all _

theorem FC.bits_hdr (op : BitVec 8) (r : FC) : (r.bits op).extractLsb' 72 16 = r.toHdr.bits := by
  show @BitVec.extractLsb' (8 + 16 + 44 + 28) 72 16 (op ++ r.toHdr.bits ++ r.lit ++ r.destA) = r.toHdr.bits
  rw [strip_high _ _ _ (by decide), strip_high _ _ _ (by decide), strip_low _ _ _ (by decide)]
  exact strip_all _

theorem FC.bits_lit (op : BitVec 8) (r : FC) : (r.bits op).extractLsb' 28 44 = r.lit := by
  show @BitVec.extractLsb' (8 + 16 + 44 + 28) 28 44 (op ++ r.toHdr.bits ++ r.lit ++ r.destA) = r.lit
  rw [strip_high _ _ _ (by decide), strip_low _ _ _ (by decide)]
  exact strip_all _

theorem FC.bits_destA (op : BitVec 8) (r : FC) : (r.bits op).extractLsb' 0 28 = r.destA := by
  show @BitVec.extractLsb' (8 + 16 + 44 + 28) 0 28 (op ++ r.toHdr.bits ++ r.lit ++ r.destA) = r.destA
  rw [strip_low _ _ _ (by decide)]
  exact strip_all _

theorem FC.ofRecord_bits (op : BitVec 8) (r : FC) : FC.ofRecord (r.bits op) = r := by
  simp only [FC.ofRecord, Hdr.ofRecord_eq _ _ (FC.bits_hdr op r), FC.bits_lit, FC.bits_destA]

theorem FC.bits_ofRecord (w : Rec96) : (FC.ofRecord w).bits (w.extractLsb' 88 8) = w := by
  have h := Hdr.bits_ofRecord w
  simp only [FC.bits, FC.ofRecord, h]
  have hhdr := strip_join w 72 8 16
  have hlit := strip_join w 28 24 44
  have hdestA := strip_join w 0 68 28
  simp only [Nat.reduceAdd] at hhdr hlit hdestA
  rw [hhdr, hlit, hdestA]
  simp

/-! ### Form FT -/

theorem FT.bits_op (op : BitVec 8) (r : FT) : (r.bits op).extractLsb' 88 8 = op := by
  show @BitVec.extractLsb' (8 + 16 + 8 + 8 + 28 + 28) 88 8 (op ++ r.toHdr.bits ++ r.slot ++ r.tp ++ r.destA ++ r.destB) = op
  rw [strip_high _ _ _ (by decide), strip_high _ _ _ (by decide), strip_high _ _ _ (by decide), strip_high _ _ _ (by decide), strip_high _ _ _ (by decide)]
  exact strip_all _

theorem FT.bits_hdr (op : BitVec 8) (r : FT) : (r.bits op).extractLsb' 72 16 = r.toHdr.bits := by
  show @BitVec.extractLsb' (8 + 16 + 8 + 8 + 28 + 28) 72 16 (op ++ r.toHdr.bits ++ r.slot ++ r.tp ++ r.destA ++ r.destB) = r.toHdr.bits
  rw [strip_high _ _ _ (by decide), strip_high _ _ _ (by decide), strip_high _ _ _ (by decide), strip_high _ _ _ (by decide), strip_low _ _ _ (by decide)]
  exact strip_all _

theorem FT.bits_slot (op : BitVec 8) (r : FT) : (r.bits op).extractLsb' 64 8 = r.slot := by
  show @BitVec.extractLsb' (8 + 16 + 8 + 8 + 28 + 28) 64 8 (op ++ r.toHdr.bits ++ r.slot ++ r.tp ++ r.destA ++ r.destB) = r.slot
  rw [strip_high _ _ _ (by decide), strip_high _ _ _ (by decide), strip_high _ _ _ (by decide), strip_low _ _ _ (by decide)]
  exact strip_all _

theorem FT.bits_tp (op : BitVec 8) (r : FT) : (r.bits op).extractLsb' 56 8 = r.tp := by
  show @BitVec.extractLsb' (8 + 16 + 8 + 8 + 28 + 28) 56 8 (op ++ r.toHdr.bits ++ r.slot ++ r.tp ++ r.destA ++ r.destB) = r.tp
  rw [strip_high _ _ _ (by decide), strip_high _ _ _ (by decide), strip_low _ _ _ (by decide)]
  exact strip_all _

theorem FT.bits_destA (op : BitVec 8) (r : FT) : (r.bits op).extractLsb' 28 28 = r.destA := by
  show @BitVec.extractLsb' (8 + 16 + 8 + 8 + 28 + 28) 28 28 (op ++ r.toHdr.bits ++ r.slot ++ r.tp ++ r.destA ++ r.destB) = r.destA
  rw [strip_high _ _ _ (by decide), strip_low _ _ _ (by decide)]
  exact strip_all _

theorem FT.bits_destB (op : BitVec 8) (r : FT) : (r.bits op).extractLsb' 0 28 = r.destB := by
  show @BitVec.extractLsb' (8 + 16 + 8 + 8 + 28 + 28) 0 28 (op ++ r.toHdr.bits ++ r.slot ++ r.tp ++ r.destA ++ r.destB) = r.destB
  rw [strip_low _ _ _ (by decide)]
  exact strip_all _

theorem FT.ofRecord_bits (op : BitVec 8) (r : FT) : FT.ofRecord (r.bits op) = r := by
  simp only [FT.ofRecord, Hdr.ofRecord_eq _ _ (FT.bits_hdr op r), FT.bits_slot, FT.bits_tp, FT.bits_destA, FT.bits_destB]

theorem FT.bits_ofRecord (w : Rec96) : (FT.ofRecord w).bits (w.extractLsb' 88 8) = w := by
  have h := Hdr.bits_ofRecord w
  simp only [FT.bits, FT.ofRecord, h]
  have hhdr := strip_join w 72 8 16
  have hslot := strip_join w 64 24 8
  have htp := strip_join w 56 32 8
  have hdestA := strip_join w 28 40 28
  have hdestB := strip_join w 0 68 28
  simp only [Nat.reduceAdd] at hhdr hslot htp hdestA hdestB
  rw [hhdr, hslot, htp, hdestA, hdestB]
  simp

/-! ### Form FM -/

theorem FM.bits_op (op : BitVec 8) (r : FM) : (r.bits op).extractLsb' 88 8 = op := by
  show @BitVec.extractLsb' (8 + 16 + 8 + 8 + 8 + 8 + 12 + 28) 88 8 (op ++ r.toHdr.bits ++ r.slot ++ r.pred ++ r.own ++ r.succ ++ r.off ++ r.destA) = op
  rw [strip_high _ _ _ (by decide), strip_high _ _ _ (by decide), strip_high _ _ _ (by decide), strip_high _ _ _ (by decide), strip_high _ _ _ (by decide), strip_high _ _ _ (by decide), strip_high _ _ _ (by decide)]
  exact strip_all _

theorem FM.bits_hdr (op : BitVec 8) (r : FM) : (r.bits op).extractLsb' 72 16 = r.toHdr.bits := by
  show @BitVec.extractLsb' (8 + 16 + 8 + 8 + 8 + 8 + 12 + 28) 72 16 (op ++ r.toHdr.bits ++ r.slot ++ r.pred ++ r.own ++ r.succ ++ r.off ++ r.destA) = r.toHdr.bits
  rw [strip_high _ _ _ (by decide), strip_high _ _ _ (by decide), strip_high _ _ _ (by decide), strip_high _ _ _ (by decide), strip_high _ _ _ (by decide), strip_high _ _ _ (by decide), strip_low _ _ _ (by decide)]
  exact strip_all _

theorem FM.bits_slot (op : BitVec 8) (r : FM) : (r.bits op).extractLsb' 64 8 = r.slot := by
  show @BitVec.extractLsb' (8 + 16 + 8 + 8 + 8 + 8 + 12 + 28) 64 8 (op ++ r.toHdr.bits ++ r.slot ++ r.pred ++ r.own ++ r.succ ++ r.off ++ r.destA) = r.slot
  rw [strip_high _ _ _ (by decide), strip_high _ _ _ (by decide), strip_high _ _ _ (by decide), strip_high _ _ _ (by decide), strip_high _ _ _ (by decide), strip_low _ _ _ (by decide)]
  exact strip_all _

theorem FM.bits_pred (op : BitVec 8) (r : FM) : (r.bits op).extractLsb' 56 8 = r.pred := by
  show @BitVec.extractLsb' (8 + 16 + 8 + 8 + 8 + 8 + 12 + 28) 56 8 (op ++ r.toHdr.bits ++ r.slot ++ r.pred ++ r.own ++ r.succ ++ r.off ++ r.destA) = r.pred
  rw [strip_high _ _ _ (by decide), strip_high _ _ _ (by decide), strip_high _ _ _ (by decide), strip_high _ _ _ (by decide), strip_low _ _ _ (by decide)]
  exact strip_all _

theorem FM.bits_own (op : BitVec 8) (r : FM) : (r.bits op).extractLsb' 48 8 = r.own := by
  show @BitVec.extractLsb' (8 + 16 + 8 + 8 + 8 + 8 + 12 + 28) 48 8 (op ++ r.toHdr.bits ++ r.slot ++ r.pred ++ r.own ++ r.succ ++ r.off ++ r.destA) = r.own
  rw [strip_high _ _ _ (by decide), strip_high _ _ _ (by decide), strip_high _ _ _ (by decide), strip_low _ _ _ (by decide)]
  exact strip_all _

theorem FM.bits_succ (op : BitVec 8) (r : FM) : (r.bits op).extractLsb' 40 8 = r.succ := by
  show @BitVec.extractLsb' (8 + 16 + 8 + 8 + 8 + 8 + 12 + 28) 40 8 (op ++ r.toHdr.bits ++ r.slot ++ r.pred ++ r.own ++ r.succ ++ r.off ++ r.destA) = r.succ
  rw [strip_high _ _ _ (by decide), strip_high _ _ _ (by decide), strip_low _ _ _ (by decide)]
  exact strip_all _

theorem FM.bits_off (op : BitVec 8) (r : FM) : (r.bits op).extractLsb' 28 12 = r.off := by
  show @BitVec.extractLsb' (8 + 16 + 8 + 8 + 8 + 8 + 12 + 28) 28 12 (op ++ r.toHdr.bits ++ r.slot ++ r.pred ++ r.own ++ r.succ ++ r.off ++ r.destA) = r.off
  rw [strip_high _ _ _ (by decide), strip_low _ _ _ (by decide)]
  exact strip_all _

theorem FM.bits_destA (op : BitVec 8) (r : FM) : (r.bits op).extractLsb' 0 28 = r.destA := by
  show @BitVec.extractLsb' (8 + 16 + 8 + 8 + 8 + 8 + 12 + 28) 0 28 (op ++ r.toHdr.bits ++ r.slot ++ r.pred ++ r.own ++ r.succ ++ r.off ++ r.destA) = r.destA
  rw [strip_low _ _ _ (by decide)]
  exact strip_all _

theorem FM.ofRecord_bits (op : BitVec 8) (r : FM) : FM.ofRecord (r.bits op) = r := by
  simp only [FM.ofRecord, Hdr.ofRecord_eq _ _ (FM.bits_hdr op r), FM.bits_slot, FM.bits_pred, FM.bits_own, FM.bits_succ, FM.bits_off, FM.bits_destA]

theorem FM.bits_ofRecord (w : Rec96) : (FM.ofRecord w).bits (w.extractLsb' 88 8) = w := by
  have h := Hdr.bits_ofRecord w
  simp only [FM.bits, FM.ofRecord, h]
  have hhdr := strip_join w 72 8 16
  have hslot := strip_join w 64 24 8
  have hpred := strip_join w 56 32 8
  have hown := strip_join w 48 40 8
  have hsucc := strip_join w 40 48 8
  have hoff := strip_join w 28 56 12
  have hdestA := strip_join w 0 68 28
  simp only [Nat.reduceAdd] at hhdr hslot hpred hown hsucc hoff hdestA
  rw [hhdr, hslot, hpred, hown, hsucc, hoff, hdestA]
  simp

/-! ### Form FS -/

theorem FS.bits_op (op : BitVec 8) (r : FS) : (r.bits op).extractLsb' 88 8 = op := by
  show @BitVec.extractLsb' (8 + 16 + 6 + 4 + 4 + 3 + 5 + 16 + 2 + 32) 88 8 (op ++ r.toHdr.bits ++ r.spos ++ r.sin ++ r.sout ++ r.acc ++ r.sub ++ r.scnt ++ r.rsv ++ r.slit) = op
  rw [strip_high _ _ _ (by decide), strip_high _ _ _ (by decide), strip_high _ _ _ (by decide), strip_high _ _ _ (by decide), strip_high _ _ _ (by decide), strip_high _ _ _ (by decide), strip_high _ _ _ (by decide), strip_high _ _ _ (by decide), strip_high _ _ _ (by decide)]
  exact strip_all _

theorem FS.bits_hdr (op : BitVec 8) (r : FS) : (r.bits op).extractLsb' 72 16 = r.toHdr.bits := by
  show @BitVec.extractLsb' (8 + 16 + 6 + 4 + 4 + 3 + 5 + 16 + 2 + 32) 72 16 (op ++ r.toHdr.bits ++ r.spos ++ r.sin ++ r.sout ++ r.acc ++ r.sub ++ r.scnt ++ r.rsv ++ r.slit) = r.toHdr.bits
  rw [strip_high _ _ _ (by decide), strip_high _ _ _ (by decide), strip_high _ _ _ (by decide), strip_high _ _ _ (by decide), strip_high _ _ _ (by decide), strip_high _ _ _ (by decide), strip_high _ _ _ (by decide), strip_high _ _ _ (by decide), strip_low _ _ _ (by decide)]
  exact strip_all _

theorem FS.bits_spos (op : BitVec 8) (r : FS) : (r.bits op).extractLsb' 66 6 = r.spos := by
  show @BitVec.extractLsb' (8 + 16 + 6 + 4 + 4 + 3 + 5 + 16 + 2 + 32) 66 6 (op ++ r.toHdr.bits ++ r.spos ++ r.sin ++ r.sout ++ r.acc ++ r.sub ++ r.scnt ++ r.rsv ++ r.slit) = r.spos
  rw [strip_high _ _ _ (by decide), strip_high _ _ _ (by decide), strip_high _ _ _ (by decide), strip_high _ _ _ (by decide), strip_high _ _ _ (by decide), strip_high _ _ _ (by decide), strip_high _ _ _ (by decide), strip_low _ _ _ (by decide)]
  exact strip_all _

theorem FS.bits_sin (op : BitVec 8) (r : FS) : (r.bits op).extractLsb' 62 4 = r.sin := by
  show @BitVec.extractLsb' (8 + 16 + 6 + 4 + 4 + 3 + 5 + 16 + 2 + 32) 62 4 (op ++ r.toHdr.bits ++ r.spos ++ r.sin ++ r.sout ++ r.acc ++ r.sub ++ r.scnt ++ r.rsv ++ r.slit) = r.sin
  rw [strip_high _ _ _ (by decide), strip_high _ _ _ (by decide), strip_high _ _ _ (by decide), strip_high _ _ _ (by decide), strip_high _ _ _ (by decide), strip_high _ _ _ (by decide), strip_low _ _ _ (by decide)]
  exact strip_all _

theorem FS.bits_sout (op : BitVec 8) (r : FS) : (r.bits op).extractLsb' 58 4 = r.sout := by
  show @BitVec.extractLsb' (8 + 16 + 6 + 4 + 4 + 3 + 5 + 16 + 2 + 32) 58 4 (op ++ r.toHdr.bits ++ r.spos ++ r.sin ++ r.sout ++ r.acc ++ r.sub ++ r.scnt ++ r.rsv ++ r.slit) = r.sout
  rw [strip_high _ _ _ (by decide), strip_high _ _ _ (by decide), strip_high _ _ _ (by decide), strip_high _ _ _ (by decide), strip_high _ _ _ (by decide), strip_low _ _ _ (by decide)]
  exact strip_all _

theorem FS.bits_acc (op : BitVec 8) (r : FS) : (r.bits op).extractLsb' 55 3 = r.acc := by
  show @BitVec.extractLsb' (8 + 16 + 6 + 4 + 4 + 3 + 5 + 16 + 2 + 32) 55 3 (op ++ r.toHdr.bits ++ r.spos ++ r.sin ++ r.sout ++ r.acc ++ r.sub ++ r.scnt ++ r.rsv ++ r.slit) = r.acc
  rw [strip_high _ _ _ (by decide), strip_high _ _ _ (by decide), strip_high _ _ _ (by decide), strip_high _ _ _ (by decide), strip_low _ _ _ (by decide)]
  exact strip_all _

theorem FS.bits_sub (op : BitVec 8) (r : FS) : (r.bits op).extractLsb' 50 5 = r.sub := by
  show @BitVec.extractLsb' (8 + 16 + 6 + 4 + 4 + 3 + 5 + 16 + 2 + 32) 50 5 (op ++ r.toHdr.bits ++ r.spos ++ r.sin ++ r.sout ++ r.acc ++ r.sub ++ r.scnt ++ r.rsv ++ r.slit) = r.sub
  rw [strip_high _ _ _ (by decide), strip_high _ _ _ (by decide), strip_high _ _ _ (by decide), strip_low _ _ _ (by decide)]
  exact strip_all _

theorem FS.bits_scnt (op : BitVec 8) (r : FS) : (r.bits op).extractLsb' 34 16 = r.scnt := by
  show @BitVec.extractLsb' (8 + 16 + 6 + 4 + 4 + 3 + 5 + 16 + 2 + 32) 34 16 (op ++ r.toHdr.bits ++ r.spos ++ r.sin ++ r.sout ++ r.acc ++ r.sub ++ r.scnt ++ r.rsv ++ r.slit) = r.scnt
  rw [strip_high _ _ _ (by decide), strip_high _ _ _ (by decide), strip_low _ _ _ (by decide)]
  exact strip_all _

theorem FS.bits_rsv (op : BitVec 8) (r : FS) : (r.bits op).extractLsb' 32 2 = r.rsv := by
  show @BitVec.extractLsb' (8 + 16 + 6 + 4 + 4 + 3 + 5 + 16 + 2 + 32) 32 2 (op ++ r.toHdr.bits ++ r.spos ++ r.sin ++ r.sout ++ r.acc ++ r.sub ++ r.scnt ++ r.rsv ++ r.slit) = r.rsv
  rw [strip_high _ _ _ (by decide), strip_low _ _ _ (by decide)]
  exact strip_all _

theorem FS.bits_slit (op : BitVec 8) (r : FS) : (r.bits op).extractLsb' 0 32 = r.slit := by
  show @BitVec.extractLsb' (8 + 16 + 6 + 4 + 4 + 3 + 5 + 16 + 2 + 32) 0 32 (op ++ r.toHdr.bits ++ r.spos ++ r.sin ++ r.sout ++ r.acc ++ r.sub ++ r.scnt ++ r.rsv ++ r.slit) = r.slit
  rw [strip_low _ _ _ (by decide)]
  exact strip_all _

theorem FS.ofRecord_bits (op : BitVec 8) (r : FS) : FS.ofRecord (r.bits op) = r := by
  simp only [FS.ofRecord, Hdr.ofRecord_eq _ _ (FS.bits_hdr op r), FS.bits_spos, FS.bits_sin, FS.bits_sout, FS.bits_acc, FS.bits_sub, FS.bits_scnt, FS.bits_rsv, FS.bits_slit]

theorem FS.bits_ofRecord (w : Rec96) : (FS.ofRecord w).bits (w.extractLsb' 88 8) = w := by
  have h := Hdr.bits_ofRecord w
  simp only [FS.bits, FS.ofRecord, h]
  have hhdr := strip_join w 72 8 16
  have hspos := strip_join w 66 24 6
  have hsin := strip_join w 62 30 4
  have hsout := strip_join w 58 34 4
  have hacc := strip_join w 55 38 3
  have hsub := strip_join w 50 41 5
  have hscnt := strip_join w 34 46 16
  have hrsv := strip_join w 32 62 2
  have hslit := strip_join w 0 64 32
  simp only [Nat.reduceAdd] at hhdr hspos hsin hsout hacc hsub hscnt hrsv hslit
  rw [hhdr, hspos, hsin, hsout, hacc, hsub, hscnt, hrsv, hslit]
  simp

end Sys2Proof
end

