-- ==== Sys2Proof/Laws/Tbl.lean ====
section
/-!
SUPPORT. The laws of sparse tables: what a table reads as after a write, and that the canonical form is kept.
-/
namespace Sys2Proof

variable {α : Type}

@[simp] theorem Tbl.look_nil [Inhabited α] (k : Nat) : Tbl.look ([] : Tbl α) k = default := rfl

theorem Tbl.look_ins_same [Inhabited α] (m : Tbl α) (k : Nat) (v : α) : (m.ins k v).look k = v := by
  induction m with
  | nil => simp [Tbl.ins, Tbl.look]
  | cons p t ih =>
    obtain ⟨j, w⟩ := p
    simp only [Tbl.ins]
    split
    · simp [Tbl.look]
    · split
      · simp [Tbl.look]
      · simp [Tbl.look, ih, *]

theorem Tbl.look_ins_other [Inhabited α] (m : Tbl α) (k n : Nat) (v : α) (h : n ≠ k) : (m.ins k v).look n = m.look n := by
  induction m with
  | nil => simp [Tbl.ins, Tbl.look, h.symm]
  | cons p t ih =>
    obtain ⟨j, w⟩ := p
    simp only [Tbl.ins]
    split
    · simp [Tbl.look, h.symm]
    · split
      · rename_i e; subst e; simp [Tbl.look, h.symm]
      · simp [Tbl.look, ih]

theorem Tbl.look_filter_same [Inhabited α] (m : Tbl α) (f : Nat × α → Bool) (k : Nat) (h : ∀ v, f (k, v) = false) :
    Tbl.look (m.filter f) k = default := by
  induction m with
  | nil => rfl
  | cons p t ih =>
    obtain ⟨j, w⟩ := p
    by_cases e : j = k
    · subst e; simp [List.filter, h, ih]
    · by_cases g : f (j, w) = true
      · simp [List.filter, g, Tbl.look, e, ih]
      · simp only [List.filter, Bool.not_eq_true] at g ⊢; simp [g, ih]

theorem Tbl.look_filter_other [Inhabited α] (m : Tbl α) (f : Nat × α → Bool) (k : Nat) (h : ∀ v, f (k, v) = true) :
    Tbl.look (m.filter f) k = m.look k := by
  induction m with
  | nil => rfl
  | cons p t ih =>
    obtain ⟨j, w⟩ := p
    by_cases e : j = k
    · subst e; simp [List.filter, h, Tbl.look]
    · by_cases g : f (j, w) = true
      · simp [List.filter, g, Tbl.look, e, ih]
      · simp only [List.filter, Bool.not_eq_true] at g ⊢; simp [g, ih, Tbl.look, e]

@[simp] theorem Tbl.look_put_same [Inhabited α] [DecidableEq α] (m : Tbl α) (k : Nat) (v : α) : (m.put k v).look k = v := by
  unfold Tbl.put
  split
  · rename_i e; rw [e]; exact Tbl.look_filter_same _ _ _ (by simp)
  · exact Tbl.look_ins_same _ _ _

theorem Tbl.look_put_other [Inhabited α] [DecidableEq α] (m : Tbl α) (k n : Nat) (v : α) (h : n ≠ k) :
    (m.put k v).look n = m.look n := by
  unfold Tbl.put
  split
  · exact Tbl.look_filter_other _ _ _ (by simp [h])
  · exact Tbl.look_ins_other _ _ _ _ h

/-- Every read of a table after a write. -/
theorem Tbl.look_put [Inhabited α] [DecidableEq α] (m : Tbl α) (k n : Nat) (v : α) :
    (m.put k v).look n = if n = k then v else m.look n := by
  split
  · rename_i e; rw [e]; exact Tbl.look_put_same _ _ _
  · exact Tbl.look_put_other _ _ _ _ ‹_›

theorem Tbl.look_upd [Inhabited α] [DecidableEq α] (m : Tbl α) (k n : Nat) (f : α → α) :
    (m.upd k f).look n = if n = k then f (m.look k) else m.look n := Tbl.look_put _ _ _ _

@[simp] theorem Tbl.look_upd_same [Inhabited α] [DecidableEq α] (m : Tbl α) (k : Nat) (f : α → α) :
    (m.upd k f).look k = f (m.look k) := by simp [Tbl.look_upd]

theorem Tbl.look_upd_other [Inhabited α] [DecidableEq α] (m : Tbl α) (k n : Nat) (f : α → α) (h : n ≠ k) :
    (m.upd k f).look n = m.look n := by simp [Tbl.look_upd, h]

/-! ### The canonical form -/

theorem Tbl.wf_cons [Inhabited α] [DecidableEq α] (k : Nat) (v : α) (t : Tbl α) :
    Tbl.wf ((k, v) :: t) = true ↔ v ≠ default ∧ (∀ p ∈ t, k < p.1) ∧ Tbl.wf t = true := by
  simp [Tbl.wf, and_assoc]

theorem Tbl.mem_ins (m : Tbl α) (k : Nat) (v : α) (p : Nat × α) (h : p ∈ m.ins k v) : p = (k, v) ∨ p ∈ m := by
  induction m with
  | nil => simpa [Tbl.ins] using h
  | cons q t ih =>
    obtain ⟨j, w⟩ := q
    simp only [Tbl.ins] at h
    split at h
    · simpa using h
    · split at h
      · rcases List.mem_cons.mp h with h | h
        · exact .inl h
        · exact .inr (List.mem_cons_of_mem _ h)
      · rcases List.mem_cons.mp h with h | h
        · exact .inr (by simp [h])
        · rcases ih h with h | h
          · exact .inl h
          · exact .inr (List.mem_cons_of_mem _ h)

theorem Tbl.wf_ins [Inhabited α] [DecidableEq α] (m : Tbl α) (k : Nat) (v : α) (h : m.wf = true) (hv : v ≠ default) :
    (m.ins k v).wf = true := by
  induction m with
  | nil => simp [Tbl.ins, Tbl.wf, hv]
  | cons q t ih =>
    obtain ⟨j, w⟩ := q
    obtain ⟨h1, h2, h3⟩ := (Tbl.wf_cons _ _ _).mp h
    simp only [Tbl.ins]
    split
    · rename_i lt
      refine (Tbl.wf_cons _ _ _).mpr ⟨hv, ?_, h⟩
      intro p hp
      rcases List.mem_cons.mp hp with hp | hp
      · rw [hp]; exact lt
      · exact Nat.lt_trans lt (h2 p hp)
    · split
      · rename_i e
        exact (Tbl.wf_cons _ _ _).mpr ⟨hv, by rw [← e]; exact h2, h3⟩
      · refine (Tbl.wf_cons _ _ _).mpr ⟨h1, ?_, ih h3⟩
        intro p hp
        rcases Tbl.mem_ins _ _ _ _ hp with hp | hp
        · rw [hp]; show j < k; omega
        · exact h2 p hp

theorem Tbl.wf_filter [Inhabited α] [DecidableEq α] (m : Tbl α) (f : Nat × α → Bool) (h : m.wf = true) :
    Tbl.wf (m.filter f) = true := by
  induction m with
  | nil => rfl
  | cons q t ih =>
    obtain ⟨h1, h2, h3⟩ := (Tbl.wf_cons _ _ _).mp h
    by_cases g : f q = true
    · rw [List.filter_cons_of_pos g]
      exact (Tbl.wf_cons _ _ _).mpr ⟨h1, fun p hp => h2 p (List.mem_filter.mp hp).1, ih h3⟩
    · rw [List.filter_cons_of_neg g]
      exact ih h3

/-- A write keeps the canonical form. -/
theorem Tbl.wf_put [Inhabited α] [DecidableEq α] (m : Tbl α) (k : Nat) (v : α) (h : m.wf = true) : (m.put k v).wf = true := by
  unfold Tbl.put
  split
  · exact Tbl.wf_filter _ _ h
  · exact Tbl.wf_ins _ _ _ h ‹_›

theorem Tbl.wf_upd [Inhabited α] [DecidableEq α] (m : Tbl α) (k : Nat) (f : α → α) (h : m.wf = true) :
    (m.upd k f).wf = true := Tbl.wf_put _ _ _ h

theorem Tbl.wf_clearRange [Inhabited α] [DecidableEq α] (m : Tbl α) (lo hi : Nat) (h : m.wf = true) :
    (m.clearRange lo hi).wf = true := Tbl.wf_filter _ _ h

/-- In canonical form an entry is what its key reads as. -/
theorem Tbl.look_of_mem [Inhabited α] [DecidableEq α] (m : Tbl α) (h : m.wf = true) (p : Nat × α) (hp : p ∈ m) :
    m.look p.1 = p.2 := by
  induction m with
  | nil => simp at hp
  | cons q t ih =>
    obtain ⟨j, w⟩ := q
    obtain ⟨_, h2, h3⟩ := (Tbl.wf_cons _ _ _).mp h
    rcases List.mem_cons.mp hp with hp | hp
    · simp [hp, Tbl.look]
    · have := h2 p hp
      simp [Tbl.look, show j ≠ p.1 by omega, ih h3 hp]

/-- Tables in canonical form that read alike are equal. -/
theorem Tbl.ext_of_look [Inhabited α] [DecidableEq α] (a b : Tbl α) (ha : a.wf = true) (hb : b.wf = true)
    (h : ∀ k, a.look k = b.look k) : a = b := by
  have none_below : ∀ (t : Tbl α) (j : Nat), (∀ p ∈ t, j < p.1) → t.look j = default := by
    intro t j
    induction t with
    | nil => simp
    | cons q t ih =>
      intro g
      have := g q (by simp)
      simp [Tbl.look, show q.1 ≠ j by omega, ih (fun p hp => g p (List.mem_cons_of_mem _ hp))]
  induction a generalizing b with
  | nil =>
    cases b with
    | nil => rfl
    | cons q t =>
      have := h q.1
      rw [Tbl.look_of_mem _ hb q (by simp)] at this
      exact absurd this.symm ((Tbl.wf_cons _ _ _).mp hb).1
  | cons p s ih =>
    obtain ⟨a1, a2, a3⟩ := (Tbl.wf_cons _ _ _).mp ha
    cases b with
    | nil =>
      have := h p.1
      rw [Tbl.look_of_mem _ ha p (by simp)] at this
      exact absurd this a1
    | cons q t =>
      obtain ⟨b1, b2, b3⟩ := (Tbl.wf_cons _ _ _).mp hb
      obtain ⟨i, v⟩ := p
      obtain ⟨j, w⟩ := q
      have hi := h i
      have hj := h j
      rcases Nat.lt_trichotomy i j with c | c | c
      · rw [Tbl.look_of_mem _ ha (i, v) (by simp), Tbl.look, if_neg (by omega),
          none_below t i (fun p hp => Nat.lt_trans c (b2 p hp))] at hi
        exact absurd hi a1
      · subst c
        have e : v = w := by simpa [Tbl.look] using hi
        subst e
        congr 1
        refine ih t a3 b3 fun k => ?_
        have := h k
        simp only [Tbl.look] at this
        split at this
        · rename_i e; subst e; rw [none_below s i a2, none_below t i b2]
        · exact this
      · have := Tbl.look_of_mem _ hb (j, w) (by simp)
        rw [this, Tbl.look, if_neg (by omega), none_below s j (fun p hp => Nat.lt_trans c (a2 p hp))] at hj
        exact absurd hj.symm b1

end Sys2Proof
end

