-- ==== Sys2Proof/Laws/State.lean ====
section
/-!
SUPPORT. What each update of the state leaves: one lemma for each field and update, and what reads of the written part
give.
-/
namespace Sys2Proof.Machine

/-! ### `modElem` -/

@[simp] theorem State.modElem_cts (s : State) (e : Nat) (f : Elem → Elem) : (s.modElem e f).cts = s.cts := rfl
@[simp] theorem State.modElem_mts (s : State) (e : Nat) (f : Elem → Elem) : (s.modElem e f).mts = s.mts := rfl
@[simp] theorem State.modElem_regions (s : State) (e : Nat) (f : Elem → Elem) : (s.modElem e f).regions = s.regions := rfl
@[simp] theorem State.modElem_clRid (s : State) (e : Nat) (f : Elem → Elem) : (s.modElem e f).clRid = s.clRid := rfl
@[simp] theorem State.modElem_loads (s : State) (e : Nat) (f : Elem → Elem) : (s.modElem e f).loads = s.loads := rfl
@[simp] theorem State.modElem_spores (s : State) (e : Nat) (f : Elem → Elem) : (s.modElem e f).spores = s.spores := rfl
@[simp] theorem State.modElem_dies (s : State) (e : Nat) (f : Elem → Elem) : (s.modElem e f).dies = s.dies := rfl
@[simp] theorem State.modElem_journal (s : State) (e : Nat) (f : Elem → Elem) : (s.modElem e f).journal = s.journal := rfl
@[simp] theorem State.modElem_jhead (s : State) (e : Nat) (f : Elem → Elem) : (s.modElem e f).jhead = s.jhead := rfl
@[simp] theorem State.modElem_jtail (s : State) (e : Nat) (f : Elem → Elem) : (s.modElem e f).jtail = s.jtail := rfl
@[simp] theorem State.modElem_mem (s : State) (e : Nat) (f : Elem → Elem) : (s.modElem e f).mem = s.mem := rfl
@[simp] theorem State.modElem_high (s : State) (e : Nat) (f : Elem → Elem) : (s.modElem e f).high = s.high := rfl
@[simp] theorem State.modElem_rin (s : State) (e : Nat) (f : Elem → Elem) : (s.modElem e f).rin = s.rin := rfl
@[simp] theorem State.modElem_rtNext (s : State) (e : Nat) (f : Elem → Elem) : (s.modElem e f).rtNext = s.rtNext := rfl
@[simp] theorem State.modElem_srcQ (s : State) (e : Nat) (f : Elem → Elem) : (s.modElem e f).srcQ = s.srcQ := rfl
@[simp] theorem State.modElem_routerErr (s : State) (e : Nat) (f : Elem → Elem) : (s.modElem e f).routerErr = s.routerErr := rfl
@[simp] theorem State.modElem_tlb (s : State) (e : Nat) (f : Elem → Elem) : (s.modElem e f).tlb = s.tlb := rfl
@[simp] theorem State.modElem_walks (s : State) (e : Nat) (f : Elem → Elem) : (s.modElem e f).walks = s.walks := rfl
@[simp] theorem State.modElem_reqs (s : State) (e : Nat) (f : Elem → Elem) : (s.modElem e f).reqs = s.reqs := rfl
@[simp] theorem State.modElem_wctx (s : State) (e : Nat) (f : Elem → Elem) : (s.modElem e f).wctx = s.wctx := rfl
@[simp] theorem State.modElem_egress (s : State) (e : Nat) (f : Elem → Elem) : (s.modElem e f).egress = s.egress := rfl
@[simp] theorem State.modElem_syncIn (s : State) (e : Nat) (f : Elem → Elem) : (s.modElem e f).syncIn = s.syncIn := rfl
@[simp] theorem State.modElem_armed (s : State) (e : Nat) (f : Elem → Elem) : (s.modElem e f).armed = s.armed := rfl
@[simp] theorem State.modElem_links (s : State) (e : Nat) (f : Elem → Elem) : (s.modElem e f).links = s.links := rfl
@[simp] theorem State.modElem_chans (s : State) (e : Nat) (f : Elem → Elem) : (s.modElem e f).chans = s.chans := rfl
@[simp] theorem State.modElem_notices (s : State) (e : Nat) (f : Elem → Elem) : (s.modElem e f).notices = s.notices := rfl
@[simp] theorem State.modElem_lostMsgs (s : State) (e : Nat) (f : Elem → Elem) : (s.modElem e f).lostMsgs = s.lostMsgs := rfl
@[simp] theorem State.modElem_eseq (s : State) (e : Nat) (f : Elem → Elem) : (s.modElem e f).eseq = s.eseq := rfl
@[simp] theorem State.modElem_ioIn (s : State) (e : Nat) (f : Elem → Elem) : (s.modElem e f).ioIn = s.ioIn := rfl
@[simp] theorem State.modElem_ioOut (s : State) (e : Nat) (f : Elem → Elem) : (s.modElem e f).ioOut = s.ioOut := rfl
@[simp] theorem State.modElem_boot (s : State) (e : Nat) (f : Elem → Elem) : (s.modElem e f).boot = s.boot := rfl
@[simp] theorem State.modElem_ecc (s : State) (e : Nat) (f : Elem → Elem) : (s.modElem e f).ecc = s.ecc := rfl
@[simp] theorem State.modElem_badStacks (s : State) (e : Nat) (f : Elem → Elem) : (s.modElem e f).badStacks = s.badStacks := rfl
@[simp] theorem State.modElem_probes (s : State) (e : Nat) (f : Elem → Elem) : (s.modElem e f).probes = s.probes := rfl
@[simp] theorem State.modElem_saves (s : State) (e : Nat) (f : Elem → Elem) : (s.modElem e f).saves = s.saves := rfl
@[simp] theorem State.modElem_dq (s : State) (e : Nat) (f : Elem → Elem) : (s.modElem e f).dq = s.dq := rfl
@[simp] theorem State.modElem_eth (s : State) (e : Nat) (f : Elem → Elem) : (s.modElem e f).eth = s.eth := rfl
@[simp] theorem State.modElem_ethOut (s : State) (e : Nat) (f : Elem → Elem) : (s.modElem e f).ethOut = s.ethOut := rfl
@[simp] theorem State.modElem_xrt (s : State) (e : Nat) (f : Elem → Elem) : (s.modElem e f).xrt = s.xrt := rfl
@[simp] theorem State.modElem_ing (s : State) (e : Nat) (f : Elem → Elem) : (s.modElem e f).ing = s.ing := rfl
@[simp] theorem State.modElem_pkgid (s : State) (e : Nat) (f : Elem → Elem) : (s.modElem e f).pkgid = s.pkgid := rfl
@[simp] theorem State.modElem_ports (s : State) (e : Nat) (f : Elem → Elem) : (s.modElem e f).ports = s.ports := rfl
@[simp] theorem State.modElem_portOut (s : State) (e : Nat) (f : Elem → Elem) : (s.modElem e f).portOut = s.portOut := rfl
@[simp] theorem State.modElem_hosts (s : State) (e : Nat) (f : Elem → Elem) : (s.modElem e f).hosts = s.hosts := rfl
@[simp] theorem State.modElem_requesters (s : State) (e : Nat) (f : Elem → Elem) : (s.modElem e f).requesters = s.requesters := rfl
@[simp] theorem State.modElem_hostMem (s : State) (e : Nat) (f : Elem → Elem) : (s.modElem e f).hostMem = s.hostMem := rfl
@[simp] theorem State.modElem_mgmt (s : State) (e : Nat) (f : Elem → Elem) : (s.modElem e f).mgmt = s.mgmt := rfl
@[simp] theorem State.modElem_own (s : State) (e : Nat) (f : Elem → Elem) : (s.modElem e f).own = s.own := rfl
@[simp] theorem State.modElem_flash (s : State) (e : Nat) (f : Elem → Elem) : (s.modElem e f).flash = s.flash := rfl
@[simp] theorem State.modElem_fw (s : State) (e : Nat) (f : Elem → Elem) : (s.modElem e f).fw = s.fw := rfl
@[simp] theorem State.modElem_lost (s : State) (e : Nat) (f : Elem → Elem) : (s.modElem e f).lost = s.lost := rfl
@[simp] theorem State.modElem_power (s : State) (e : Nat) (f : Elem → Elem) : (s.modElem e f).power = s.power := rfl
@[simp] theorem State.modElem_serial (s : State) (e : Nat) (f : Elem → Elem) : (s.modElem e f).serial = s.serial := rfl
@[simp] theorem State.modElem_mcg (s : State) (e : Nat) (f : Elem → Elem) : (s.modElem e f).mcg = s.mcg := rfl
@[simp] theorem State.modElem_mcgLoad (s : State) (e : Nat) (f : Elem → Elem) : (s.modElem e f).mcgLoad = s.mcgLoad := rfl
@[simp] theorem State.modElem_fused (s : State) (e : Nat) (f : Elem → Elem) : (s.modElem e f).fused = s.fused := rfl
@[simp] theorem State.modElem_units (s : State) (e : Nat) (f : Elem → Elem) : (s.modElem e f).units = s.units := rfl
@[simp] theorem State.modElem_cycles (s : State) (e : Nat) (f : Elem → Elem) : (s.modElem e f).cycles = s.cycles := rfl
@[simp] theorem State.modElem_sel (s : State) (e : Nat) (f : Elem → Elem) : (s.modElem e f).sel = s.sel := rfl
@[simp] theorem State.modElem_at_ (s : State) (e : Nat) (f : Elem → Elem) : (s.modElem e f).at_ = s.at_ := rfl
@[simp] theorem State.modElem_cur (s : State) (e : Nat) (f : Elem → Elem) : (s.modElem e f).cur = s.cur := rfl
@[simp] theorem State.modElem_free (s : State) (e : Nat) (f : Elem → Elem) : (s.modElem e f).free = s.free := rfl
@[simp] theorem State.modElem_ct (s : State) (e : Nat) (f : Elem → Elem) (k : Nat) : (s.modElem e f).ct k = s.ct k := rfl
@[simp] theorem State.modElem_mt (s : State) (e : Nat) (f : Elem → Elem) (k : Nat) : (s.modElem e f).mt k = s.mt k := rfl
@[simp] theorem State.modElem_region (s : State) (e : Nat) (f : Elem → Elem) (k : Nat) : (s.modElem e f).region k = s.region k := rfl
@[simp] theorem State.modElem_load (s : State) (e : Nat) (f : Elem → Elem) (k : Nat) : (s.modElem e f).load k = s.load k := rfl
@[simp] theorem State.modElem_die (s : State) (e : Nat) (f : Elem → Elem) (k : Nat) : (s.modElem e f).die k = s.die k := rfl
@[simp] theorem State.modElem_byte (s : State) (e : Nat) (f : Elem → Elem) (k : Nat) : (s.modElem e f).byte k = s.byte k := rfl
@[simp] theorem State.modElem_tick (s : State) (e : Nat) (f : Elem → Elem) (k : Nat) : (s.modElem e f).tick k = s.tick k := rfl

/-! ### `modCt` -/

@[simp] theorem State.modCt_elems (s : State) (q : Nat) (f : Ct → Ct) : (s.modCt q f).elems = s.elems := rfl
@[simp] theorem State.modCt_mts (s : State) (q : Nat) (f : Ct → Ct) : (s.modCt q f).mts = s.mts := rfl
@[simp] theorem State.modCt_regions (s : State) (q : Nat) (f : Ct → Ct) : (s.modCt q f).regions = s.regions := rfl
@[simp] theorem State.modCt_clRid (s : State) (q : Nat) (f : Ct → Ct) : (s.modCt q f).clRid = s.clRid := rfl
@[simp] theorem State.modCt_loads (s : State) (q : Nat) (f : Ct → Ct) : (s.modCt q f).loads = s.loads := rfl
@[simp] theorem State.modCt_spores (s : State) (q : Nat) (f : Ct → Ct) : (s.modCt q f).spores = s.spores := rfl
@[simp] theorem State.modCt_dies (s : State) (q : Nat) (f : Ct → Ct) : (s.modCt q f).dies = s.dies := rfl
@[simp] theorem State.modCt_journal (s : State) (q : Nat) (f : Ct → Ct) : (s.modCt q f).journal = s.journal := rfl
@[simp] theorem State.modCt_jhead (s : State) (q : Nat) (f : Ct → Ct) : (s.modCt q f).jhead = s.jhead := rfl
@[simp] theorem State.modCt_jtail (s : State) (q : Nat) (f : Ct → Ct) : (s.modCt q f).jtail = s.jtail := rfl
@[simp] theorem State.modCt_mem (s : State) (q : Nat) (f : Ct → Ct) : (s.modCt q f).mem = s.mem := rfl
@[simp] theorem State.modCt_high (s : State) (q : Nat) (f : Ct → Ct) : (s.modCt q f).high = s.high := rfl
@[simp] theorem State.modCt_rin (s : State) (q : Nat) (f : Ct → Ct) : (s.modCt q f).rin = s.rin := rfl
@[simp] theorem State.modCt_rtNext (s : State) (q : Nat) (f : Ct → Ct) : (s.modCt q f).rtNext = s.rtNext := rfl
@[simp] theorem State.modCt_srcQ (s : State) (q : Nat) (f : Ct → Ct) : (s.modCt q f).srcQ = s.srcQ := rfl
@[simp] theorem State.modCt_routerErr (s : State) (q : Nat) (f : Ct → Ct) : (s.modCt q f).routerErr = s.routerErr := rfl
@[simp] theorem State.modCt_tlb (s : State) (q : Nat) (f : Ct → Ct) : (s.modCt q f).tlb = s.tlb := rfl
@[simp] theorem State.modCt_walks (s : State) (q : Nat) (f : Ct → Ct) : (s.modCt q f).walks = s.walks := rfl
@[simp] theorem State.modCt_reqs (s : State) (q : Nat) (f : Ct → Ct) : (s.modCt q f).reqs = s.reqs := rfl
@[simp] theorem State.modCt_wctx (s : State) (q : Nat) (f : Ct → Ct) : (s.modCt q f).wctx = s.wctx := rfl
@[simp] theorem State.modCt_egress (s : State) (q : Nat) (f : Ct → Ct) : (s.modCt q f).egress = s.egress := rfl
@[simp] theorem State.modCt_syncIn (s : State) (q : Nat) (f : Ct → Ct) : (s.modCt q f).syncIn = s.syncIn := rfl
@[simp] theorem State.modCt_armed (s : State) (q : Nat) (f : Ct → Ct) : (s.modCt q f).armed = s.armed := rfl
@[simp] theorem State.modCt_links (s : State) (q : Nat) (f : Ct → Ct) : (s.modCt q f).links = s.links := rfl
@[simp] theorem State.modCt_chans (s : State) (q : Nat) (f : Ct → Ct) : (s.modCt q f).chans = s.chans := rfl
@[simp] theorem State.modCt_notices (s : State) (q : Nat) (f : Ct → Ct) : (s.modCt q f).notices = s.notices := rfl
@[simp] theorem State.modCt_lostMsgs (s : State) (q : Nat) (f : Ct → Ct) : (s.modCt q f).lostMsgs = s.lostMsgs := rfl
@[simp] theorem State.modCt_eseq (s : State) (q : Nat) (f : Ct → Ct) : (s.modCt q f).eseq = s.eseq := rfl
@[simp] theorem State.modCt_ioIn (s : State) (q : Nat) (f : Ct → Ct) : (s.modCt q f).ioIn = s.ioIn := rfl
@[simp] theorem State.modCt_ioOut (s : State) (q : Nat) (f : Ct → Ct) : (s.modCt q f).ioOut = s.ioOut := rfl
@[simp] theorem State.modCt_boot (s : State) (q : Nat) (f : Ct → Ct) : (s.modCt q f).boot = s.boot := rfl
@[simp] theorem State.modCt_ecc (s : State) (q : Nat) (f : Ct → Ct) : (s.modCt q f).ecc = s.ecc := rfl
@[simp] theorem State.modCt_badStacks (s : State) (q : Nat) (f : Ct → Ct) : (s.modCt q f).badStacks = s.badStacks := rfl
@[simp] theorem State.modCt_probes (s : State) (q : Nat) (f : Ct → Ct) : (s.modCt q f).probes = s.probes := rfl
@[simp] theorem State.modCt_saves (s : State) (q : Nat) (f : Ct → Ct) : (s.modCt q f).saves = s.saves := rfl
@[simp] theorem State.modCt_dq (s : State) (q : Nat) (f : Ct → Ct) : (s.modCt q f).dq = s.dq := rfl
@[simp] theorem State.modCt_eth (s : State) (q : Nat) (f : Ct → Ct) : (s.modCt q f).eth = s.eth := rfl
@[simp] theorem State.modCt_ethOut (s : State) (q : Nat) (f : Ct → Ct) : (s.modCt q f).ethOut = s.ethOut := rfl
@[simp] theorem State.modCt_xrt (s : State) (q : Nat) (f : Ct → Ct) : (s.modCt q f).xrt = s.xrt := rfl
@[simp] theorem State.modCt_ing (s : State) (q : Nat) (f : Ct → Ct) : (s.modCt q f).ing = s.ing := rfl
@[simp] theorem State.modCt_pkgid (s : State) (q : Nat) (f : Ct → Ct) : (s.modCt q f).pkgid = s.pkgid := rfl
@[simp] theorem State.modCt_ports (s : State) (q : Nat) (f : Ct → Ct) : (s.modCt q f).ports = s.ports := rfl
@[simp] theorem State.modCt_portOut (s : State) (q : Nat) (f : Ct → Ct) : (s.modCt q f).portOut = s.portOut := rfl
@[simp] theorem State.modCt_hosts (s : State) (q : Nat) (f : Ct → Ct) : (s.modCt q f).hosts = s.hosts := rfl
@[simp] theorem State.modCt_requesters (s : State) (q : Nat) (f : Ct → Ct) : (s.modCt q f).requesters = s.requesters := rfl
@[simp] theorem State.modCt_hostMem (s : State) (q : Nat) (f : Ct → Ct) : (s.modCt q f).hostMem = s.hostMem := rfl
@[simp] theorem State.modCt_mgmt (s : State) (q : Nat) (f : Ct → Ct) : (s.modCt q f).mgmt = s.mgmt := rfl
@[simp] theorem State.modCt_own (s : State) (q : Nat) (f : Ct → Ct) : (s.modCt q f).own = s.own := rfl
@[simp] theorem State.modCt_flash (s : State) (q : Nat) (f : Ct → Ct) : (s.modCt q f).flash = s.flash := rfl
@[simp] theorem State.modCt_fw (s : State) (q : Nat) (f : Ct → Ct) : (s.modCt q f).fw = s.fw := rfl
@[simp] theorem State.modCt_lost (s : State) (q : Nat) (f : Ct → Ct) : (s.modCt q f).lost = s.lost := rfl
@[simp] theorem State.modCt_power (s : State) (q : Nat) (f : Ct → Ct) : (s.modCt q f).power = s.power := rfl
@[simp] theorem State.modCt_serial (s : State) (q : Nat) (f : Ct → Ct) : (s.modCt q f).serial = s.serial := rfl
@[simp] theorem State.modCt_mcg (s : State) (q : Nat) (f : Ct → Ct) : (s.modCt q f).mcg = s.mcg := rfl
@[simp] theorem State.modCt_mcgLoad (s : State) (q : Nat) (f : Ct → Ct) : (s.modCt q f).mcgLoad = s.mcgLoad := rfl
@[simp] theorem State.modCt_fused (s : State) (q : Nat) (f : Ct → Ct) : (s.modCt q f).fused = s.fused := rfl
@[simp] theorem State.modCt_units (s : State) (q : Nat) (f : Ct → Ct) : (s.modCt q f).units = s.units := rfl
@[simp] theorem State.modCt_cycles (s : State) (q : Nat) (f : Ct → Ct) : (s.modCt q f).cycles = s.cycles := rfl
@[simp] theorem State.modCt_sel (s : State) (q : Nat) (f : Ct → Ct) : (s.modCt q f).sel = s.sel := rfl
@[simp] theorem State.modCt_at_ (s : State) (q : Nat) (f : Ct → Ct) : (s.modCt q f).at_ = s.at_ := rfl
@[simp] theorem State.modCt_cur (s : State) (q : Nat) (f : Ct → Ct) : (s.modCt q f).cur = s.cur := rfl
@[simp] theorem State.modCt_free (s : State) (q : Nat) (f : Ct → Ct) : (s.modCt q f).free = s.free := rfl
@[simp] theorem State.modCt_elem (s : State) (q : Nat) (f : Ct → Ct) (k : Nat) : (s.modCt q f).elem k = s.elem k := rfl
@[simp] theorem State.modCt_mt (s : State) (q : Nat) (f : Ct → Ct) (k : Nat) : (s.modCt q f).mt k = s.mt k := rfl
@[simp] theorem State.modCt_region (s : State) (q : Nat) (f : Ct → Ct) (k : Nat) : (s.modCt q f).region k = s.region k := rfl
@[simp] theorem State.modCt_load (s : State) (q : Nat) (f : Ct → Ct) (k : Nat) : (s.modCt q f).load k = s.load k := rfl
@[simp] theorem State.modCt_die (s : State) (q : Nat) (f : Ct → Ct) (k : Nat) : (s.modCt q f).die k = s.die k := rfl
@[simp] theorem State.modCt_byte (s : State) (q : Nat) (f : Ct → Ct) (k : Nat) : (s.modCt q f).byte k = s.byte k := rfl
@[simp] theorem State.modCt_tick (s : State) (q : Nat) (f : Ct → Ct) (k : Nat) : (s.modCt q f).tick k = s.tick k := rfl

/-! ### `modMt` -/

@[simp] theorem State.modMt_elems (s : State) (q : Nat) (f : Mt → Mt) : (s.modMt q f).elems = s.elems := rfl
@[simp] theorem State.modMt_cts (s : State) (q : Nat) (f : Mt → Mt) : (s.modMt q f).cts = s.cts := rfl
@[simp] theorem State.modMt_regions (s : State) (q : Nat) (f : Mt → Mt) : (s.modMt q f).regions = s.regions := rfl
@[simp] theorem State.modMt_clRid (s : State) (q : Nat) (f : Mt → Mt) : (s.modMt q f).clRid = s.clRid := rfl
@[simp] theorem State.modMt_loads (s : State) (q : Nat) (f : Mt → Mt) : (s.modMt q f).loads = s.loads := rfl
@[simp] theorem State.modMt_spores (s : State) (q : Nat) (f : Mt → Mt) : (s.modMt q f).spores = s.spores := rfl
@[simp] theorem State.modMt_dies (s : State) (q : Nat) (f : Mt → Mt) : (s.modMt q f).dies = s.dies := rfl
@[simp] theorem State.modMt_journal (s : State) (q : Nat) (f : Mt → Mt) : (s.modMt q f).journal = s.journal := rfl
@[simp] theorem State.modMt_jhead (s : State) (q : Nat) (f : Mt → Mt) : (s.modMt q f).jhead = s.jhead := rfl
@[simp] theorem State.modMt_jtail (s : State) (q : Nat) (f : Mt → Mt) : (s.modMt q f).jtail = s.jtail := rfl
@[simp] theorem State.modMt_mem (s : State) (q : Nat) (f : Mt → Mt) : (s.modMt q f).mem = s.mem := rfl
@[simp] theorem State.modMt_high (s : State) (q : Nat) (f : Mt → Mt) : (s.modMt q f).high = s.high := rfl
@[simp] theorem State.modMt_rin (s : State) (q : Nat) (f : Mt → Mt) : (s.modMt q f).rin = s.rin := rfl
@[simp] theorem State.modMt_rtNext (s : State) (q : Nat) (f : Mt → Mt) : (s.modMt q f).rtNext = s.rtNext := rfl
@[simp] theorem State.modMt_srcQ (s : State) (q : Nat) (f : Mt → Mt) : (s.modMt q f).srcQ = s.srcQ := rfl
@[simp] theorem State.modMt_routerErr (s : State) (q : Nat) (f : Mt → Mt) : (s.modMt q f).routerErr = s.routerErr := rfl
@[simp] theorem State.modMt_tlb (s : State) (q : Nat) (f : Mt → Mt) : (s.modMt q f).tlb = s.tlb := rfl
@[simp] theorem State.modMt_walks (s : State) (q : Nat) (f : Mt → Mt) : (s.modMt q f).walks = s.walks := rfl
@[simp] theorem State.modMt_reqs (s : State) (q : Nat) (f : Mt → Mt) : (s.modMt q f).reqs = s.reqs := rfl
@[simp] theorem State.modMt_wctx (s : State) (q : Nat) (f : Mt → Mt) : (s.modMt q f).wctx = s.wctx := rfl
@[simp] theorem State.modMt_egress (s : State) (q : Nat) (f : Mt → Mt) : (s.modMt q f).egress = s.egress := rfl
@[simp] theorem State.modMt_syncIn (s : State) (q : Nat) (f : Mt → Mt) : (s.modMt q f).syncIn = s.syncIn := rfl
@[simp] theorem State.modMt_armed (s : State) (q : Nat) (f : Mt → Mt) : (s.modMt q f).armed = s.armed := rfl
@[simp] theorem State.modMt_links (s : State) (q : Nat) (f : Mt → Mt) : (s.modMt q f).links = s.links := rfl
@[simp] theorem State.modMt_chans (s : State) (q : Nat) (f : Mt → Mt) : (s.modMt q f).chans = s.chans := rfl
@[simp] theorem State.modMt_notices (s : State) (q : Nat) (f : Mt → Mt) : (s.modMt q f).notices = s.notices := rfl
@[simp] theorem State.modMt_lostMsgs (s : State) (q : Nat) (f : Mt → Mt) : (s.modMt q f).lostMsgs = s.lostMsgs := rfl
@[simp] theorem State.modMt_eseq (s : State) (q : Nat) (f : Mt → Mt) : (s.modMt q f).eseq = s.eseq := rfl
@[simp] theorem State.modMt_ioIn (s : State) (q : Nat) (f : Mt → Mt) : (s.modMt q f).ioIn = s.ioIn := rfl
@[simp] theorem State.modMt_ioOut (s : State) (q : Nat) (f : Mt → Mt) : (s.modMt q f).ioOut = s.ioOut := rfl
@[simp] theorem State.modMt_boot (s : State) (q : Nat) (f : Mt → Mt) : (s.modMt q f).boot = s.boot := rfl
@[simp] theorem State.modMt_ecc (s : State) (q : Nat) (f : Mt → Mt) : (s.modMt q f).ecc = s.ecc := rfl
@[simp] theorem State.modMt_badStacks (s : State) (q : Nat) (f : Mt → Mt) : (s.modMt q f).badStacks = s.badStacks := rfl
@[simp] theorem State.modMt_probes (s : State) (q : Nat) (f : Mt → Mt) : (s.modMt q f).probes = s.probes := rfl
@[simp] theorem State.modMt_saves (s : State) (q : Nat) (f : Mt → Mt) : (s.modMt q f).saves = s.saves := rfl
@[simp] theorem State.modMt_dq (s : State) (q : Nat) (f : Mt → Mt) : (s.modMt q f).dq = s.dq := rfl
@[simp] theorem State.modMt_eth (s : State) (q : Nat) (f : Mt → Mt) : (s.modMt q f).eth = s.eth := rfl
@[simp] theorem State.modMt_ethOut (s : State) (q : Nat) (f : Mt → Mt) : (s.modMt q f).ethOut = s.ethOut := rfl
@[simp] theorem State.modMt_xrt (s : State) (q : Nat) (f : Mt → Mt) : (s.modMt q f).xrt = s.xrt := rfl
@[simp] theorem State.modMt_ing (s : State) (q : Nat) (f : Mt → Mt) : (s.modMt q f).ing = s.ing := rfl
@[simp] theorem State.modMt_pkgid (s : State) (q : Nat) (f : Mt → Mt) : (s.modMt q f).pkgid = s.pkgid := rfl
@[simp] theorem State.modMt_ports (s : State) (q : Nat) (f : Mt → Mt) : (s.modMt q f).ports = s.ports := rfl
@[simp] theorem State.modMt_portOut (s : State) (q : Nat) (f : Mt → Mt) : (s.modMt q f).portOut = s.portOut := rfl
@[simp] theorem State.modMt_hosts (s : State) (q : Nat) (f : Mt → Mt) : (s.modMt q f).hosts = s.hosts := rfl
@[simp] theorem State.modMt_requesters (s : State) (q : Nat) (f : Mt → Mt) : (s.modMt q f).requesters = s.requesters := rfl
@[simp] theorem State.modMt_hostMem (s : State) (q : Nat) (f : Mt → Mt) : (s.modMt q f).hostMem = s.hostMem := rfl
@[simp] theorem State.modMt_mgmt (s : State) (q : Nat) (f : Mt → Mt) : (s.modMt q f).mgmt = s.mgmt := rfl
@[simp] theorem State.modMt_own (s : State) (q : Nat) (f : Mt → Mt) : (s.modMt q f).own = s.own := rfl
@[simp] theorem State.modMt_flash (s : State) (q : Nat) (f : Mt → Mt) : (s.modMt q f).flash = s.flash := rfl
@[simp] theorem State.modMt_fw (s : State) (q : Nat) (f : Mt → Mt) : (s.modMt q f).fw = s.fw := rfl
@[simp] theorem State.modMt_lost (s : State) (q : Nat) (f : Mt → Mt) : (s.modMt q f).lost = s.lost := rfl
@[simp] theorem State.modMt_power (s : State) (q : Nat) (f : Mt → Mt) : (s.modMt q f).power = s.power := rfl
@[simp] theorem State.modMt_serial (s : State) (q : Nat) (f : Mt → Mt) : (s.modMt q f).serial = s.serial := rfl
@[simp] theorem State.modMt_mcg (s : State) (q : Nat) (f : Mt → Mt) : (s.modMt q f).mcg = s.mcg := rfl
@[simp] theorem State.modMt_mcgLoad (s : State) (q : Nat) (f : Mt → Mt) : (s.modMt q f).mcgLoad = s.mcgLoad := rfl
@[simp] theorem State.modMt_fused (s : State) (q : Nat) (f : Mt → Mt) : (s.modMt q f).fused = s.fused := rfl
@[simp] theorem State.modMt_units (s : State) (q : Nat) (f : Mt → Mt) : (s.modMt q f).units = s.units := rfl
@[simp] theorem State.modMt_cycles (s : State) (q : Nat) (f : Mt → Mt) : (s.modMt q f).cycles = s.cycles := rfl
@[simp] theorem State.modMt_sel (s : State) (q : Nat) (f : Mt → Mt) : (s.modMt q f).sel = s.sel := rfl
@[simp] theorem State.modMt_at_ (s : State) (q : Nat) (f : Mt → Mt) : (s.modMt q f).at_ = s.at_ := rfl
@[simp] theorem State.modMt_cur (s : State) (q : Nat) (f : Mt → Mt) : (s.modMt q f).cur = s.cur := rfl
@[simp] theorem State.modMt_free (s : State) (q : Nat) (f : Mt → Mt) : (s.modMt q f).free = s.free := rfl
@[simp] theorem State.modMt_elem (s : State) (q : Nat) (f : Mt → Mt) (k : Nat) : (s.modMt q f).elem k = s.elem k := rfl
@[simp] theorem State.modMt_ct (s : State) (q : Nat) (f : Mt → Mt) (k : Nat) : (s.modMt q f).ct k = s.ct k := rfl
@[simp] theorem State.modMt_region (s : State) (q : Nat) (f : Mt → Mt) (k : Nat) : (s.modMt q f).region k = s.region k := rfl
@[simp] theorem State.modMt_load (s : State) (q : Nat) (f : Mt → Mt) (k : Nat) : (s.modMt q f).load k = s.load k := rfl
@[simp] theorem State.modMt_die (s : State) (q : Nat) (f : Mt → Mt) (k : Nat) : (s.modMt q f).die k = s.die k := rfl
@[simp] theorem State.modMt_byte (s : State) (q : Nat) (f : Mt → Mt) (k : Nat) : (s.modMt q f).byte k = s.byte k := rfl
@[simp] theorem State.modMt_tick (s : State) (q : Nat) (f : Mt → Mt) (k : Nat) : (s.modMt q f).tick k = s.tick k := rfl

/-! ### `modQueue` -/

@[simp] theorem State.modQueue_elems (s : State) (k : Nat) (f : Queue → Queue) : (s.modQueue k f).elems = s.elems := rfl
@[simp] theorem State.modQueue_cts (s : State) (k : Nat) (f : Queue → Queue) : (s.modQueue k f).cts = s.cts := rfl
@[simp] theorem State.modQueue_regions (s : State) (k : Nat) (f : Queue → Queue) : (s.modQueue k f).regions = s.regions := rfl
@[simp] theorem State.modQueue_clRid (s : State) (k : Nat) (f : Queue → Queue) : (s.modQueue k f).clRid = s.clRid := rfl
@[simp] theorem State.modQueue_loads (s : State) (k : Nat) (f : Queue → Queue) : (s.modQueue k f).loads = s.loads := rfl
@[simp] theorem State.modQueue_spores (s : State) (k : Nat) (f : Queue → Queue) : (s.modQueue k f).spores = s.spores := rfl
@[simp] theorem State.modQueue_dies (s : State) (k : Nat) (f : Queue → Queue) : (s.modQueue k f).dies = s.dies := rfl
@[simp] theorem State.modQueue_journal (s : State) (k : Nat) (f : Queue → Queue) : (s.modQueue k f).journal = s.journal := rfl
@[simp] theorem State.modQueue_jhead (s : State) (k : Nat) (f : Queue → Queue) : (s.modQueue k f).jhead = s.jhead := rfl
@[simp] theorem State.modQueue_jtail (s : State) (k : Nat) (f : Queue → Queue) : (s.modQueue k f).jtail = s.jtail := rfl
@[simp] theorem State.modQueue_mem (s : State) (k : Nat) (f : Queue → Queue) : (s.modQueue k f).mem = s.mem := rfl
@[simp] theorem State.modQueue_high (s : State) (k : Nat) (f : Queue → Queue) : (s.modQueue k f).high = s.high := rfl
@[simp] theorem State.modQueue_rin (s : State) (k : Nat) (f : Queue → Queue) : (s.modQueue k f).rin = s.rin := rfl
@[simp] theorem State.modQueue_rtNext (s : State) (k : Nat) (f : Queue → Queue) : (s.modQueue k f).rtNext = s.rtNext := rfl
@[simp] theorem State.modQueue_srcQ (s : State) (k : Nat) (f : Queue → Queue) : (s.modQueue k f).srcQ = s.srcQ := rfl
@[simp] theorem State.modQueue_routerErr (s : State) (k : Nat) (f : Queue → Queue) : (s.modQueue k f).routerErr = s.routerErr := rfl
@[simp] theorem State.modQueue_tlb (s : State) (k : Nat) (f : Queue → Queue) : (s.modQueue k f).tlb = s.tlb := rfl
@[simp] theorem State.modQueue_walks (s : State) (k : Nat) (f : Queue → Queue) : (s.modQueue k f).walks = s.walks := rfl
@[simp] theorem State.modQueue_reqs (s : State) (k : Nat) (f : Queue → Queue) : (s.modQueue k f).reqs = s.reqs := rfl
@[simp] theorem State.modQueue_wctx (s : State) (k : Nat) (f : Queue → Queue) : (s.modQueue k f).wctx = s.wctx := rfl
@[simp] theorem State.modQueue_egress (s : State) (k : Nat) (f : Queue → Queue) : (s.modQueue k f).egress = s.egress := rfl
@[simp] theorem State.modQueue_syncIn (s : State) (k : Nat) (f : Queue → Queue) : (s.modQueue k f).syncIn = s.syncIn := rfl
@[simp] theorem State.modQueue_armed (s : State) (k : Nat) (f : Queue → Queue) : (s.modQueue k f).armed = s.armed := rfl
@[simp] theorem State.modQueue_links (s : State) (k : Nat) (f : Queue → Queue) : (s.modQueue k f).links = s.links := rfl
@[simp] theorem State.modQueue_chans (s : State) (k : Nat) (f : Queue → Queue) : (s.modQueue k f).chans = s.chans := rfl
@[simp] theorem State.modQueue_notices (s : State) (k : Nat) (f : Queue → Queue) : (s.modQueue k f).notices = s.notices := rfl
@[simp] theorem State.modQueue_lostMsgs (s : State) (k : Nat) (f : Queue → Queue) : (s.modQueue k f).lostMsgs = s.lostMsgs := rfl
@[simp] theorem State.modQueue_eseq (s : State) (k : Nat) (f : Queue → Queue) : (s.modQueue k f).eseq = s.eseq := rfl
@[simp] theorem State.modQueue_ioIn (s : State) (k : Nat) (f : Queue → Queue) : (s.modQueue k f).ioIn = s.ioIn := rfl
@[simp] theorem State.modQueue_ioOut (s : State) (k : Nat) (f : Queue → Queue) : (s.modQueue k f).ioOut = s.ioOut := rfl
@[simp] theorem State.modQueue_boot (s : State) (k : Nat) (f : Queue → Queue) : (s.modQueue k f).boot = s.boot := rfl
@[simp] theorem State.modQueue_ecc (s : State) (k : Nat) (f : Queue → Queue) : (s.modQueue k f).ecc = s.ecc := rfl
@[simp] theorem State.modQueue_badStacks (s : State) (k : Nat) (f : Queue → Queue) : (s.modQueue k f).badStacks = s.badStacks := rfl
@[simp] theorem State.modQueue_probes (s : State) (k : Nat) (f : Queue → Queue) : (s.modQueue k f).probes = s.probes := rfl
@[simp] theorem State.modQueue_saves (s : State) (k : Nat) (f : Queue → Queue) : (s.modQueue k f).saves = s.saves := rfl
@[simp] theorem State.modQueue_dq (s : State) (k : Nat) (f : Queue → Queue) : (s.modQueue k f).dq = s.dq := rfl
@[simp] theorem State.modQueue_eth (s : State) (k : Nat) (f : Queue → Queue) : (s.modQueue k f).eth = s.eth := rfl
@[simp] theorem State.modQueue_ethOut (s : State) (k : Nat) (f : Queue → Queue) : (s.modQueue k f).ethOut = s.ethOut := rfl
@[simp] theorem State.modQueue_xrt (s : State) (k : Nat) (f : Queue → Queue) : (s.modQueue k f).xrt = s.xrt := rfl
@[simp] theorem State.modQueue_ing (s : State) (k : Nat) (f : Queue → Queue) : (s.modQueue k f).ing = s.ing := rfl
@[simp] theorem State.modQueue_pkgid (s : State) (k : Nat) (f : Queue → Queue) : (s.modQueue k f).pkgid = s.pkgid := rfl
@[simp] theorem State.modQueue_ports (s : State) (k : Nat) (f : Queue → Queue) : (s.modQueue k f).ports = s.ports := rfl
@[simp] theorem State.modQueue_portOut (s : State) (k : Nat) (f : Queue → Queue) : (s.modQueue k f).portOut = s.portOut := rfl
@[simp] theorem State.modQueue_hosts (s : State) (k : Nat) (f : Queue → Queue) : (s.modQueue k f).hosts = s.hosts := rfl
@[simp] theorem State.modQueue_requesters (s : State) (k : Nat) (f : Queue → Queue) : (s.modQueue k f).requesters = s.requesters := rfl
@[simp] theorem State.modQueue_hostMem (s : State) (k : Nat) (f : Queue → Queue) : (s.modQueue k f).hostMem = s.hostMem := rfl
@[simp] theorem State.modQueue_mgmt (s : State) (k : Nat) (f : Queue → Queue) : (s.modQueue k f).mgmt = s.mgmt := rfl
@[simp] theorem State.modQueue_own (s : State) (k : Nat) (f : Queue → Queue) : (s.modQueue k f).own = s.own := rfl
@[simp] theorem State.modQueue_flash (s : State) (k : Nat) (f : Queue → Queue) : (s.modQueue k f).flash = s.flash := rfl
@[simp] theorem State.modQueue_fw (s : State) (k : Nat) (f : Queue → Queue) : (s.modQueue k f).fw = s.fw := rfl
@[simp] theorem State.modQueue_lost (s : State) (k : Nat) (f : Queue → Queue) : (s.modQueue k f).lost = s.lost := rfl
@[simp] theorem State.modQueue_power (s : State) (k : Nat) (f : Queue → Queue) : (s.modQueue k f).power = s.power := rfl
@[simp] theorem State.modQueue_serial (s : State) (k : Nat) (f : Queue → Queue) : (s.modQueue k f).serial = s.serial := rfl
@[simp] theorem State.modQueue_mcg (s : State) (k : Nat) (f : Queue → Queue) : (s.modQueue k f).mcg = s.mcg := rfl
@[simp] theorem State.modQueue_mcgLoad (s : State) (k : Nat) (f : Queue → Queue) : (s.modQueue k f).mcgLoad = s.mcgLoad := rfl
@[simp] theorem State.modQueue_fused (s : State) (k : Nat) (f : Queue → Queue) : (s.modQueue k f).fused = s.fused := rfl
@[simp] theorem State.modQueue_units (s : State) (k : Nat) (f : Queue → Queue) : (s.modQueue k f).units = s.units := rfl
@[simp] theorem State.modQueue_cycles (s : State) (k : Nat) (f : Queue → Queue) : (s.modQueue k f).cycles = s.cycles := rfl
@[simp] theorem State.modQueue_sel (s : State) (k : Nat) (f : Queue → Queue) : (s.modQueue k f).sel = s.sel := rfl
@[simp] theorem State.modQueue_at_ (s : State) (k : Nat) (f : Queue → Queue) : (s.modQueue k f).at_ = s.at_ := rfl
@[simp] theorem State.modQueue_cur (s : State) (k : Nat) (f : Queue → Queue) : (s.modQueue k f).cur = s.cur := rfl
@[simp] theorem State.modQueue_free (s : State) (k : Nat) (f : Queue → Queue) : (s.modQueue k f).free = s.free := rfl
@[simp] theorem State.modQueue_elem (s : State) (k : Nat) (f : Queue → Queue) (n : Nat) : (s.modQueue k f).elem n = s.elem n := rfl
@[simp] theorem State.modQueue_ct (s : State) (k : Nat) (f : Queue → Queue) (n : Nat) : (s.modQueue k f).ct n = s.ct n := rfl
@[simp] theorem State.modQueue_region (s : State) (k : Nat) (f : Queue → Queue) (n : Nat) : (s.modQueue k f).region n = s.region n := rfl
@[simp] theorem State.modQueue_load (s : State) (k : Nat) (f : Queue → Queue) (n : Nat) : (s.modQueue k f).load n = s.load n := rfl
@[simp] theorem State.modQueue_die (s : State) (k : Nat) (f : Queue → Queue) (n : Nat) : (s.modQueue k f).die n = s.die n := rfl
@[simp] theorem State.modQueue_byte (s : State) (k : Nat) (f : Queue → Queue) (n : Nat) : (s.modQueue k f).byte n = s.byte n := rfl
@[simp] theorem State.modQueue_tick (s : State) (k : Nat) (f : Queue → Queue) (n : Nat) : (s.modQueue k f).tick n = s.tick n := rfl

/-! ### `modRegion` -/

@[simp] theorem State.modRegion_elems (s : State) (r : Nat) (f : Region → Region) : (s.modRegion r f).elems = s.elems := rfl
@[simp] theorem State.modRegion_cts (s : State) (r : Nat) (f : Region → Region) : (s.modRegion r f).cts = s.cts := rfl
@[simp] theorem State.modRegion_mts (s : State) (r : Nat) (f : Region → Region) : (s.modRegion r f).mts = s.mts := rfl
@[simp] theorem State.modRegion_clRid (s : State) (r : Nat) (f : Region → Region) : (s.modRegion r f).clRid = s.clRid := rfl
@[simp] theorem State.modRegion_loads (s : State) (r : Nat) (f : Region → Region) : (s.modRegion r f).loads = s.loads := rfl
@[simp] theorem State.modRegion_spores (s : State) (r : Nat) (f : Region → Region) : (s.modRegion r f).spores = s.spores := rfl
@[simp] theorem State.modRegion_dies (s : State) (r : Nat) (f : Region → Region) : (s.modRegion r f).dies = s.dies := rfl
@[simp] theorem State.modRegion_journal (s : State) (r : Nat) (f : Region → Region) : (s.modRegion r f).journal = s.journal := rfl
@[simp] theorem State.modRegion_jhead (s : State) (r : Nat) (f : Region → Region) : (s.modRegion r f).jhead = s.jhead := rfl
@[simp] theorem State.modRegion_jtail (s : State) (r : Nat) (f : Region → Region) : (s.modRegion r f).jtail = s.jtail := rfl
@[simp] theorem State.modRegion_mem (s : State) (r : Nat) (f : Region → Region) : (s.modRegion r f).mem = s.mem := rfl
@[simp] theorem State.modRegion_high (s : State) (r : Nat) (f : Region → Region) : (s.modRegion r f).high = s.high := rfl
@[simp] theorem State.modRegion_rin (s : State) (r : Nat) (f : Region → Region) : (s.modRegion r f).rin = s.rin := rfl
@[simp] theorem State.modRegion_rtNext (s : State) (r : Nat) (f : Region → Region) : (s.modRegion r f).rtNext = s.rtNext := rfl
@[simp] theorem State.modRegion_srcQ (s : State) (r : Nat) (f : Region → Region) : (s.modRegion r f).srcQ = s.srcQ := rfl
@[simp] theorem State.modRegion_routerErr (s : State) (r : Nat) (f : Region → Region) : (s.modRegion r f).routerErr = s.routerErr := rfl
@[simp] theorem State.modRegion_tlb (s : State) (r : Nat) (f : Region → Region) : (s.modRegion r f).tlb = s.tlb := rfl
@[simp] theorem State.modRegion_walks (s : State) (r : Nat) (f : Region → Region) : (s.modRegion r f).walks = s.walks := rfl
@[simp] theorem State.modRegion_reqs (s : State) (r : Nat) (f : Region → Region) : (s.modRegion r f).reqs = s.reqs := rfl
@[simp] theorem State.modRegion_wctx (s : State) (r : Nat) (f : Region → Region) : (s.modRegion r f).wctx = s.wctx := rfl
@[simp] theorem State.modRegion_egress (s : State) (r : Nat) (f : Region → Region) : (s.modRegion r f).egress = s.egress := rfl
@[simp] theorem State.modRegion_syncIn (s : State) (r : Nat) (f : Region → Region) : (s.modRegion r f).syncIn = s.syncIn := rfl
@[simp] theorem State.modRegion_armed (s : State) (r : Nat) (f : Region → Region) : (s.modRegion r f).armed = s.armed := rfl
@[simp] theorem State.modRegion_links (s : State) (r : Nat) (f : Region → Region) : (s.modRegion r f).links = s.links := rfl
@[simp] theorem State.modRegion_chans (s : State) (r : Nat) (f : Region → Region) : (s.modRegion r f).chans = s.chans := rfl
@[simp] theorem State.modRegion_notices (s : State) (r : Nat) (f : Region → Region) : (s.modRegion r f).notices = s.notices := rfl
@[simp] theorem State.modRegion_lostMsgs (s : State) (r : Nat) (f : Region → Region) : (s.modRegion r f).lostMsgs = s.lostMsgs := rfl
@[simp] theorem State.modRegion_eseq (s : State) (r : Nat) (f : Region → Region) : (s.modRegion r f).eseq = s.eseq := rfl
@[simp] theorem State.modRegion_ioIn (s : State) (r : Nat) (f : Region → Region) : (s.modRegion r f).ioIn = s.ioIn := rfl
@[simp] theorem State.modRegion_ioOut (s : State) (r : Nat) (f : Region → Region) : (s.modRegion r f).ioOut = s.ioOut := rfl
@[simp] theorem State.modRegion_boot (s : State) (r : Nat) (f : Region → Region) : (s.modRegion r f).boot = s.boot := rfl
@[simp] theorem State.modRegion_ecc (s : State) (r : Nat) (f : Region → Region) : (s.modRegion r f).ecc = s.ecc := rfl
@[simp] theorem State.modRegion_badStacks (s : State) (r : Nat) (f : Region → Region) : (s.modRegion r f).badStacks = s.badStacks := rfl
@[simp] theorem State.modRegion_probes (s : State) (r : Nat) (f : Region → Region) : (s.modRegion r f).probes = s.probes := rfl
@[simp] theorem State.modRegion_saves (s : State) (r : Nat) (f : Region → Region) : (s.modRegion r f).saves = s.saves := rfl
@[simp] theorem State.modRegion_dq (s : State) (r : Nat) (f : Region → Region) : (s.modRegion r f).dq = s.dq := rfl
@[simp] theorem State.modRegion_eth (s : State) (r : Nat) (f : Region → Region) : (s.modRegion r f).eth = s.eth := rfl
@[simp] theorem State.modRegion_ethOut (s : State) (r : Nat) (f : Region → Region) : (s.modRegion r f).ethOut = s.ethOut := rfl
@[simp] theorem State.modRegion_xrt (s : State) (r : Nat) (f : Region → Region) : (s.modRegion r f).xrt = s.xrt := rfl
@[simp] theorem State.modRegion_ing (s : State) (r : Nat) (f : Region → Region) : (s.modRegion r f).ing = s.ing := rfl
@[simp] theorem State.modRegion_pkgid (s : State) (r : Nat) (f : Region → Region) : (s.modRegion r f).pkgid = s.pkgid := rfl
@[simp] theorem State.modRegion_ports (s : State) (r : Nat) (f : Region → Region) : (s.modRegion r f).ports = s.ports := rfl
@[simp] theorem State.modRegion_portOut (s : State) (r : Nat) (f : Region → Region) : (s.modRegion r f).portOut = s.portOut := rfl
@[simp] theorem State.modRegion_hosts (s : State) (r : Nat) (f : Region → Region) : (s.modRegion r f).hosts = s.hosts := rfl
@[simp] theorem State.modRegion_requesters (s : State) (r : Nat) (f : Region → Region) : (s.modRegion r f).requesters = s.requesters := rfl
@[simp] theorem State.modRegion_hostMem (s : State) (r : Nat) (f : Region → Region) : (s.modRegion r f).hostMem = s.hostMem := rfl
@[simp] theorem State.modRegion_mgmt (s : State) (r : Nat) (f : Region → Region) : (s.modRegion r f).mgmt = s.mgmt := rfl
@[simp] theorem State.modRegion_own (s : State) (r : Nat) (f : Region → Region) : (s.modRegion r f).own = s.own := rfl
@[simp] theorem State.modRegion_flash (s : State) (r : Nat) (f : Region → Region) : (s.modRegion r f).flash = s.flash := rfl
@[simp] theorem State.modRegion_fw (s : State) (r : Nat) (f : Region → Region) : (s.modRegion r f).fw = s.fw := rfl
@[simp] theorem State.modRegion_lost (s : State) (r : Nat) (f : Region → Region) : (s.modRegion r f).lost = s.lost := rfl
@[simp] theorem State.modRegion_power (s : State) (r : Nat) (f : Region → Region) : (s.modRegion r f).power = s.power := rfl
@[simp] theorem State.modRegion_serial (s : State) (r : Nat) (f : Region → Region) : (s.modRegion r f).serial = s.serial := rfl
@[simp] theorem State.modRegion_mcg (s : State) (r : Nat) (f : Region → Region) : (s.modRegion r f).mcg = s.mcg := rfl
@[simp] theorem State.modRegion_mcgLoad (s : State) (r : Nat) (f : Region → Region) : (s.modRegion r f).mcgLoad = s.mcgLoad := rfl
@[simp] theorem State.modRegion_fused (s : State) (r : Nat) (f : Region → Region) : (s.modRegion r f).fused = s.fused := rfl
@[simp] theorem State.modRegion_units (s : State) (r : Nat) (f : Region → Region) : (s.modRegion r f).units = s.units := rfl
@[simp] theorem State.modRegion_cycles (s : State) (r : Nat) (f : Region → Region) : (s.modRegion r f).cycles = s.cycles := rfl
@[simp] theorem State.modRegion_sel (s : State) (r : Nat) (f : Region → Region) : (s.modRegion r f).sel = s.sel := rfl
@[simp] theorem State.modRegion_at_ (s : State) (r : Nat) (f : Region → Region) : (s.modRegion r f).at_ = s.at_ := rfl
@[simp] theorem State.modRegion_cur (s : State) (r : Nat) (f : Region → Region) : (s.modRegion r f).cur = s.cur := rfl
@[simp] theorem State.modRegion_free (s : State) (r : Nat) (f : Region → Region) : (s.modRegion r f).free = s.free := rfl
@[simp] theorem State.modRegion_elem (s : State) (r : Nat) (f : Region → Region) (k : Nat) : (s.modRegion r f).elem k = s.elem k := rfl
@[simp] theorem State.modRegion_ct (s : State) (r : Nat) (f : Region → Region) (k : Nat) : (s.modRegion r f).ct k = s.ct k := rfl
@[simp] theorem State.modRegion_mt (s : State) (r : Nat) (f : Region → Region) (k : Nat) : (s.modRegion r f).mt k = s.mt k := rfl
@[simp] theorem State.modRegion_load (s : State) (r : Nat) (f : Region → Region) (k : Nat) : (s.modRegion r f).load k = s.load k := rfl
@[simp] theorem State.modRegion_die (s : State) (r : Nat) (f : Region → Region) (k : Nat) : (s.modRegion r f).die k = s.die k := rfl
@[simp] theorem State.modRegion_byte (s : State) (r : Nat) (f : Region → Region) (k : Nat) : (s.modRegion r f).byte k = s.byte k := rfl
@[simp] theorem State.modRegion_tick (s : State) (r : Nat) (f : Region → Region) (k : Nat) : (s.modRegion r f).tick k = s.tick k := rfl

/-! ### `modFx` -/

@[simp] theorem State.modFx_elems (s : State) (r x : Nat) (f : FxRec → FxRec) : (s.modFx r x f).elems = s.elems := rfl
@[simp] theorem State.modFx_cts (s : State) (r x : Nat) (f : FxRec → FxRec) : (s.modFx r x f).cts = s.cts := rfl
@[simp] theorem State.modFx_mts (s : State) (r x : Nat) (f : FxRec → FxRec) : (s.modFx r x f).mts = s.mts := rfl
@[simp] theorem State.modFx_clRid (s : State) (r x : Nat) (f : FxRec → FxRec) : (s.modFx r x f).clRid = s.clRid := rfl
@[simp] theorem State.modFx_loads (s : State) (r x : Nat) (f : FxRec → FxRec) : (s.modFx r x f).loads = s.loads := rfl
@[simp] theorem State.modFx_spores (s : State) (r x : Nat) (f : FxRec → FxRec) : (s.modFx r x f).spores = s.spores := rfl
@[simp] theorem State.modFx_dies (s : State) (r x : Nat) (f : FxRec → FxRec) : (s.modFx r x f).dies = s.dies := rfl
@[simp] theorem State.modFx_journal (s : State) (r x : Nat) (f : FxRec → FxRec) : (s.modFx r x f).journal = s.journal := rfl
@[simp] theorem State.modFx_jhead (s : State) (r x : Nat) (f : FxRec → FxRec) : (s.modFx r x f).jhead = s.jhead := rfl
@[simp] theorem State.modFx_jtail (s : State) (r x : Nat) (f : FxRec → FxRec) : (s.modFx r x f).jtail = s.jtail := rfl
@[simp] theorem State.modFx_mem (s : State) (r x : Nat) (f : FxRec → FxRec) : (s.modFx r x f).mem = s.mem := rfl
@[simp] theorem State.modFx_high (s : State) (r x : Nat) (f : FxRec → FxRec) : (s.modFx r x f).high = s.high := rfl
@[simp] theorem State.modFx_rin (s : State) (r x : Nat) (f : FxRec → FxRec) : (s.modFx r x f).rin = s.rin := rfl
@[simp] theorem State.modFx_rtNext (s : State) (r x : Nat) (f : FxRec → FxRec) : (s.modFx r x f).rtNext = s.rtNext := rfl
@[simp] theorem State.modFx_srcQ (s : State) (r x : Nat) (f : FxRec → FxRec) : (s.modFx r x f).srcQ = s.srcQ := rfl
@[simp] theorem State.modFx_routerErr (s : State) (r x : Nat) (f : FxRec → FxRec) : (s.modFx r x f).routerErr = s.routerErr := rfl
@[simp] theorem State.modFx_tlb (s : State) (r x : Nat) (f : FxRec → FxRec) : (s.modFx r x f).tlb = s.tlb := rfl
@[simp] theorem State.modFx_walks (s : State) (r x : Nat) (f : FxRec → FxRec) : (s.modFx r x f).walks = s.walks := rfl
@[simp] theorem State.modFx_reqs (s : State) (r x : Nat) (f : FxRec → FxRec) : (s.modFx r x f).reqs = s.reqs := rfl
@[simp] theorem State.modFx_wctx (s : State) (r x : Nat) (f : FxRec → FxRec) : (s.modFx r x f).wctx = s.wctx := rfl
@[simp] theorem State.modFx_egress (s : State) (r x : Nat) (f : FxRec → FxRec) : (s.modFx r x f).egress = s.egress := rfl
@[simp] theorem State.modFx_syncIn (s : State) (r x : Nat) (f : FxRec → FxRec) : (s.modFx r x f).syncIn = s.syncIn := rfl
@[simp] theorem State.modFx_armed (s : State) (r x : Nat) (f : FxRec → FxRec) : (s.modFx r x f).armed = s.armed := rfl
@[simp] theorem State.modFx_links (s : State) (r x : Nat) (f : FxRec → FxRec) : (s.modFx r x f).links = s.links := rfl
@[simp] theorem State.modFx_chans (s : State) (r x : Nat) (f : FxRec → FxRec) : (s.modFx r x f).chans = s.chans := rfl
@[simp] theorem State.modFx_notices (s : State) (r x : Nat) (f : FxRec → FxRec) : (s.modFx r x f).notices = s.notices := rfl
@[simp] theorem State.modFx_lostMsgs (s : State) (r x : Nat) (f : FxRec → FxRec) : (s.modFx r x f).lostMsgs = s.lostMsgs := rfl
@[simp] theorem State.modFx_eseq (s : State) (r x : Nat) (f : FxRec → FxRec) : (s.modFx r x f).eseq = s.eseq := rfl
@[simp] theorem State.modFx_ioIn (s : State) (r x : Nat) (f : FxRec → FxRec) : (s.modFx r x f).ioIn = s.ioIn := rfl
@[simp] theorem State.modFx_ioOut (s : State) (r x : Nat) (f : FxRec → FxRec) : (s.modFx r x f).ioOut = s.ioOut := rfl
@[simp] theorem State.modFx_boot (s : State) (r x : Nat) (f : FxRec → FxRec) : (s.modFx r x f).boot = s.boot := rfl
@[simp] theorem State.modFx_ecc (s : State) (r x : Nat) (f : FxRec → FxRec) : (s.modFx r x f).ecc = s.ecc := rfl
@[simp] theorem State.modFx_badStacks (s : State) (r x : Nat) (f : FxRec → FxRec) : (s.modFx r x f).badStacks = s.badStacks := rfl
@[simp] theorem State.modFx_probes (s : State) (r x : Nat) (f : FxRec → FxRec) : (s.modFx r x f).probes = s.probes := rfl
@[simp] theorem State.modFx_saves (s : State) (r x : Nat) (f : FxRec → FxRec) : (s.modFx r x f).saves = s.saves := rfl
@[simp] theorem State.modFx_dq (s : State) (r x : Nat) (f : FxRec → FxRec) : (s.modFx r x f).dq = s.dq := rfl
@[simp] theorem State.modFx_eth (s : State) (r x : Nat) (f : FxRec → FxRec) : (s.modFx r x f).eth = s.eth := rfl
@[simp] theorem State.modFx_ethOut (s : State) (r x : Nat) (f : FxRec → FxRec) : (s.modFx r x f).ethOut = s.ethOut := rfl
@[simp] theorem State.modFx_xrt (s : State) (r x : Nat) (f : FxRec → FxRec) : (s.modFx r x f).xrt = s.xrt := rfl
@[simp] theorem State.modFx_ing (s : State) (r x : Nat) (f : FxRec → FxRec) : (s.modFx r x f).ing = s.ing := rfl
@[simp] theorem State.modFx_pkgid (s : State) (r x : Nat) (f : FxRec → FxRec) : (s.modFx r x f).pkgid = s.pkgid := rfl
@[simp] theorem State.modFx_ports (s : State) (r x : Nat) (f : FxRec → FxRec) : (s.modFx r x f).ports = s.ports := rfl
@[simp] theorem State.modFx_portOut (s : State) (r x : Nat) (f : FxRec → FxRec) : (s.modFx r x f).portOut = s.portOut := rfl
@[simp] theorem State.modFx_hosts (s : State) (r x : Nat) (f : FxRec → FxRec) : (s.modFx r x f).hosts = s.hosts := rfl
@[simp] theorem State.modFx_requesters (s : State) (r x : Nat) (f : FxRec → FxRec) : (s.modFx r x f).requesters = s.requesters := rfl
@[simp] theorem State.modFx_hostMem (s : State) (r x : Nat) (f : FxRec → FxRec) : (s.modFx r x f).hostMem = s.hostMem := rfl
@[simp] theorem State.modFx_mgmt (s : State) (r x : Nat) (f : FxRec → FxRec) : (s.modFx r x f).mgmt = s.mgmt := rfl
@[simp] theorem State.modFx_own (s : State) (r x : Nat) (f : FxRec → FxRec) : (s.modFx r x f).own = s.own := rfl
@[simp] theorem State.modFx_flash (s : State) (r x : Nat) (f : FxRec → FxRec) : (s.modFx r x f).flash = s.flash := rfl
@[simp] theorem State.modFx_fw (s : State) (r x : Nat) (f : FxRec → FxRec) : (s.modFx r x f).fw = s.fw := rfl
@[simp] theorem State.modFx_lost (s : State) (r x : Nat) (f : FxRec → FxRec) : (s.modFx r x f).lost = s.lost := rfl
@[simp] theorem State.modFx_power (s : State) (r x : Nat) (f : FxRec → FxRec) : (s.modFx r x f).power = s.power := rfl
@[simp] theorem State.modFx_serial (s : State) (r x : Nat) (f : FxRec → FxRec) : (s.modFx r x f).serial = s.serial := rfl
@[simp] theorem State.modFx_mcg (s : State) (r x : Nat) (f : FxRec → FxRec) : (s.modFx r x f).mcg = s.mcg := rfl
@[simp] theorem State.modFx_mcgLoad (s : State) (r x : Nat) (f : FxRec → FxRec) : (s.modFx r x f).mcgLoad = s.mcgLoad := rfl
@[simp] theorem State.modFx_fused (s : State) (r x : Nat) (f : FxRec → FxRec) : (s.modFx r x f).fused = s.fused := rfl
@[simp] theorem State.modFx_units (s : State) (r x : Nat) (f : FxRec → FxRec) : (s.modFx r x f).units = s.units := rfl
@[simp] theorem State.modFx_cycles (s : State) (r x : Nat) (f : FxRec → FxRec) : (s.modFx r x f).cycles = s.cycles := rfl
@[simp] theorem State.modFx_sel (s : State) (r x : Nat) (f : FxRec → FxRec) : (s.modFx r x f).sel = s.sel := rfl
@[simp] theorem State.modFx_at_ (s : State) (r x : Nat) (f : FxRec → FxRec) : (s.modFx r x f).at_ = s.at_ := rfl
@[simp] theorem State.modFx_cur (s : State) (r x : Nat) (f : FxRec → FxRec) : (s.modFx r x f).cur = s.cur := rfl
@[simp] theorem State.modFx_free (s : State) (r x : Nat) (f : FxRec → FxRec) : (s.modFx r x f).free = s.free := rfl
@[simp] theorem State.modFx_elem (s : State) (r x : Nat) (f : FxRec → FxRec) (k : Nat) : (s.modFx r x f).elem k = s.elem k := rfl
@[simp] theorem State.modFx_ct (s : State) (r x : Nat) (f : FxRec → FxRec) (k : Nat) : (s.modFx r x f).ct k = s.ct k := rfl
@[simp] theorem State.modFx_mt (s : State) (r x : Nat) (f : FxRec → FxRec) (k : Nat) : (s.modFx r x f).mt k = s.mt k := rfl
@[simp] theorem State.modFx_load (s : State) (r x : Nat) (f : FxRec → FxRec) (k : Nat) : (s.modFx r x f).load k = s.load k := rfl
@[simp] theorem State.modFx_die (s : State) (r x : Nat) (f : FxRec → FxRec) (k : Nat) : (s.modFx r x f).die k = s.die k := rfl
@[simp] theorem State.modFx_byte (s : State) (r x : Nat) (f : FxRec → FxRec) (k : Nat) : (s.modFx r x f).byte k = s.byte k := rfl
@[simp] theorem State.modFx_tick (s : State) (r x : Nat) (f : FxRec → FxRec) (k : Nat) : (s.modFx r x f).tick k = s.tick k := rfl

/-! ### `modLoad` -/

@[simp] theorem State.modLoad_elems (s : State) (l : Nat) (f : Load → Load) : (s.modLoad l f).elems = s.elems := rfl
@[simp] theorem State.modLoad_cts (s : State) (l : Nat) (f : Load → Load) : (s.modLoad l f).cts = s.cts := rfl
@[simp] theorem State.modLoad_mts (s : State) (l : Nat) (f : Load → Load) : (s.modLoad l f).mts = s.mts := rfl
@[simp] theorem State.modLoad_regions (s : State) (l : Nat) (f : Load → Load) : (s.modLoad l f).regions = s.regions := rfl
@[simp] theorem State.modLoad_clRid (s : State) (l : Nat) (f : Load → Load) : (s.modLoad l f).clRid = s.clRid := rfl
@[simp] theorem State.modLoad_spores (s : State) (l : Nat) (f : Load → Load) : (s.modLoad l f).spores = s.spores := rfl
@[simp] theorem State.modLoad_dies (s : State) (l : Nat) (f : Load → Load) : (s.modLoad l f).dies = s.dies := rfl
@[simp] theorem State.modLoad_journal (s : State) (l : Nat) (f : Load → Load) : (s.modLoad l f).journal = s.journal := rfl
@[simp] theorem State.modLoad_jhead (s : State) (l : Nat) (f : Load → Load) : (s.modLoad l f).jhead = s.jhead := rfl
@[simp] theorem State.modLoad_jtail (s : State) (l : Nat) (f : Load → Load) : (s.modLoad l f).jtail = s.jtail := rfl
@[simp] theorem State.modLoad_mem (s : State) (l : Nat) (f : Load → Load) : (s.modLoad l f).mem = s.mem := rfl
@[simp] theorem State.modLoad_high (s : State) (l : Nat) (f : Load → Load) : (s.modLoad l f).high = s.high := rfl
@[simp] theorem State.modLoad_rin (s : State) (l : Nat) (f : Load → Load) : (s.modLoad l f).rin = s.rin := rfl
@[simp] theorem State.modLoad_rtNext (s : State) (l : Nat) (f : Load → Load) : (s.modLoad l f).rtNext = s.rtNext := rfl
@[simp] theorem State.modLoad_srcQ (s : State) (l : Nat) (f : Load → Load) : (s.modLoad l f).srcQ = s.srcQ := rfl
@[simp] theorem State.modLoad_routerErr (s : State) (l : Nat) (f : Load → Load) : (s.modLoad l f).routerErr = s.routerErr := rfl
@[simp] theorem State.modLoad_tlb (s : State) (l : Nat) (f : Load → Load) : (s.modLoad l f).tlb = s.tlb := rfl
@[simp] theorem State.modLoad_walks (s : State) (l : Nat) (f : Load → Load) : (s.modLoad l f).walks = s.walks := rfl
@[simp] theorem State.modLoad_reqs (s : State) (l : Nat) (f : Load → Load) : (s.modLoad l f).reqs = s.reqs := rfl
@[simp] theorem State.modLoad_wctx (s : State) (l : Nat) (f : Load → Load) : (s.modLoad l f).wctx = s.wctx := rfl
@[simp] theorem State.modLoad_egress (s : State) (l : Nat) (f : Load → Load) : (s.modLoad l f).egress = s.egress := rfl
@[simp] theorem State.modLoad_syncIn (s : State) (l : Nat) (f : Load → Load) : (s.modLoad l f).syncIn = s.syncIn := rfl
@[simp] theorem State.modLoad_armed (s : State) (l : Nat) (f : Load → Load) : (s.modLoad l f).armed = s.armed := rfl
@[simp] theorem State.modLoad_links (s : State) (l : Nat) (f : Load → Load) : (s.modLoad l f).links = s.links := rfl
@[simp] theorem State.modLoad_chans (s : State) (l : Nat) (f : Load → Load) : (s.modLoad l f).chans = s.chans := rfl
@[simp] theorem State.modLoad_notices (s : State) (l : Nat) (f : Load → Load) : (s.modLoad l f).notices = s.notices := rfl
@[simp] theorem State.modLoad_lostMsgs (s : State) (l : Nat) (f : Load → Load) : (s.modLoad l f).lostMsgs = s.lostMsgs := rfl
@[simp] theorem State.modLoad_eseq (s : State) (l : Nat) (f : Load → Load) : (s.modLoad l f).eseq = s.eseq := rfl
@[simp] theorem State.modLoad_ioIn (s : State) (l : Nat) (f : Load → Load) : (s.modLoad l f).ioIn = s.ioIn := rfl
@[simp] theorem State.modLoad_ioOut (s : State) (l : Nat) (f : Load → Load) : (s.modLoad l f).ioOut = s.ioOut := rfl
@[simp] theorem State.modLoad_boot (s : State) (l : Nat) (f : Load → Load) : (s.modLoad l f).boot = s.boot := rfl
@[simp] theorem State.modLoad_ecc (s : State) (l : Nat) (f : Load → Load) : (s.modLoad l f).ecc = s.ecc := rfl
@[simp] theorem State.modLoad_badStacks (s : State) (l : Nat) (f : Load → Load) : (s.modLoad l f).badStacks = s.badStacks := rfl
@[simp] theorem State.modLoad_probes (s : State) (l : Nat) (f : Load → Load) : (s.modLoad l f).probes = s.probes := rfl
@[simp] theorem State.modLoad_saves (s : State) (l : Nat) (f : Load → Load) : (s.modLoad l f).saves = s.saves := rfl
@[simp] theorem State.modLoad_dq (s : State) (l : Nat) (f : Load → Load) : (s.modLoad l f).dq = s.dq := rfl
@[simp] theorem State.modLoad_eth (s : State) (l : Nat) (f : Load → Load) : (s.modLoad l f).eth = s.eth := rfl
@[simp] theorem State.modLoad_ethOut (s : State) (l : Nat) (f : Load → Load) : (s.modLoad l f).ethOut = s.ethOut := rfl
@[simp] theorem State.modLoad_xrt (s : State) (l : Nat) (f : Load → Load) : (s.modLoad l f).xrt = s.xrt := rfl
@[simp] theorem State.modLoad_ing (s : State) (l : Nat) (f : Load → Load) : (s.modLoad l f).ing = s.ing := rfl
@[simp] theorem State.modLoad_pkgid (s : State) (l : Nat) (f : Load → Load) : (s.modLoad l f).pkgid = s.pkgid := rfl
@[simp] theorem State.modLoad_ports (s : State) (l : Nat) (f : Load → Load) : (s.modLoad l f).ports = s.ports := rfl
@[simp] theorem State.modLoad_portOut (s : State) (l : Nat) (f : Load → Load) : (s.modLoad l f).portOut = s.portOut := rfl
@[simp] theorem State.modLoad_hosts (s : State) (l : Nat) (f : Load → Load) : (s.modLoad l f).hosts = s.hosts := rfl
@[simp] theorem State.modLoad_requesters (s : State) (l : Nat) (f : Load → Load) : (s.modLoad l f).requesters = s.requesters := rfl
@[simp] theorem State.modLoad_hostMem (s : State) (l : Nat) (f : Load → Load) : (s.modLoad l f).hostMem = s.hostMem := rfl
@[simp] theorem State.modLoad_mgmt (s : State) (l : Nat) (f : Load → Load) : (s.modLoad l f).mgmt = s.mgmt := rfl
@[simp] theorem State.modLoad_own (s : State) (l : Nat) (f : Load → Load) : (s.modLoad l f).own = s.own := rfl
@[simp] theorem State.modLoad_flash (s : State) (l : Nat) (f : Load → Load) : (s.modLoad l f).flash = s.flash := rfl
@[simp] theorem State.modLoad_fw (s : State) (l : Nat) (f : Load → Load) : (s.modLoad l f).fw = s.fw := rfl
@[simp] theorem State.modLoad_lost (s : State) (l : Nat) (f : Load → Load) : (s.modLoad l f).lost = s.lost := rfl
@[simp] theorem State.modLoad_power (s : State) (l : Nat) (f : Load → Load) : (s.modLoad l f).power = s.power := rfl
@[simp] theorem State.modLoad_serial (s : State) (l : Nat) (f : Load → Load) : (s.modLoad l f).serial = s.serial := rfl
@[simp] theorem State.modLoad_mcg (s : State) (l : Nat) (f : Load → Load) : (s.modLoad l f).mcg = s.mcg := rfl
@[simp] theorem State.modLoad_mcgLoad (s : State) (l : Nat) (f : Load → Load) : (s.modLoad l f).mcgLoad = s.mcgLoad := rfl
@[simp] theorem State.modLoad_fused (s : State) (l : Nat) (f : Load → Load) : (s.modLoad l f).fused = s.fused := rfl
@[simp] theorem State.modLoad_units (s : State) (l : Nat) (f : Load → Load) : (s.modLoad l f).units = s.units := rfl
@[simp] theorem State.modLoad_cycles (s : State) (l : Nat) (f : Load → Load) : (s.modLoad l f).cycles = s.cycles := rfl
@[simp] theorem State.modLoad_sel (s : State) (l : Nat) (f : Load → Load) : (s.modLoad l f).sel = s.sel := rfl
@[simp] theorem State.modLoad_at_ (s : State) (l : Nat) (f : Load → Load) : (s.modLoad l f).at_ = s.at_ := rfl
@[simp] theorem State.modLoad_cur (s : State) (l : Nat) (f : Load → Load) : (s.modLoad l f).cur = s.cur := rfl
@[simp] theorem State.modLoad_free (s : State) (l : Nat) (f : Load → Load) : (s.modLoad l f).free = s.free := rfl
@[simp] theorem State.modLoad_elem (s : State) (l : Nat) (f : Load → Load) (k : Nat) : (s.modLoad l f).elem k = s.elem k := rfl
@[simp] theorem State.modLoad_ct (s : State) (l : Nat) (f : Load → Load) (k : Nat) : (s.modLoad l f).ct k = s.ct k := rfl
@[simp] theorem State.modLoad_mt (s : State) (l : Nat) (f : Load → Load) (k : Nat) : (s.modLoad l f).mt k = s.mt k := rfl
@[simp] theorem State.modLoad_region (s : State) (l : Nat) (f : Load → Load) (k : Nat) : (s.modLoad l f).region k = s.region k := rfl
@[simp] theorem State.modLoad_die (s : State) (l : Nat) (f : Load → Load) (k : Nat) : (s.modLoad l f).die k = s.die k := rfl
@[simp] theorem State.modLoad_byte (s : State) (l : Nat) (f : Load → Load) (k : Nat) : (s.modLoad l f).byte k = s.byte k := rfl
@[simp] theorem State.modLoad_tick (s : State) (l : Nat) (f : Load → Load) (k : Nat) : (s.modLoad l f).tick k = s.tick k := rfl

/-! ### `modDie` -/

@[simp] theorem State.modDie_elems (s : State) (d : Nat) (f : Die → Die) : (s.modDie d f).elems = s.elems := rfl
@[simp] theorem State.modDie_cts (s : State) (d : Nat) (f : Die → Die) : (s.modDie d f).cts = s.cts := rfl
@[simp] theorem State.modDie_mts (s : State) (d : Nat) (f : Die → Die) : (s.modDie d f).mts = s.mts := rfl
@[simp] theorem State.modDie_regions (s : State) (d : Nat) (f : Die → Die) : (s.modDie d f).regions = s.regions := rfl
@[simp] theorem State.modDie_clRid (s : State) (d : Nat) (f : Die → Die) : (s.modDie d f).clRid = s.clRid := rfl
@[simp] theorem State.modDie_loads (s : State) (d : Nat) (f : Die → Die) : (s.modDie d f).loads = s.loads := rfl
@[simp] theorem State.modDie_spores (s : State) (d : Nat) (f : Die → Die) : (s.modDie d f).spores = s.spores := rfl
@[simp] theorem State.modDie_journal (s : State) (d : Nat) (f : Die → Die) : (s.modDie d f).journal = s.journal := rfl
@[simp] theorem State.modDie_jhead (s : State) (d : Nat) (f : Die → Die) : (s.modDie d f).jhead = s.jhead := rfl
@[simp] theorem State.modDie_jtail (s : State) (d : Nat) (f : Die → Die) : (s.modDie d f).jtail = s.jtail := rfl
@[simp] theorem State.modDie_mem (s : State) (d : Nat) (f : Die → Die) : (s.modDie d f).mem = s.mem := rfl
@[simp] theorem State.modDie_high (s : State) (d : Nat) (f : Die → Die) : (s.modDie d f).high = s.high := rfl
@[simp] theorem State.modDie_rin (s : State) (d : Nat) (f : Die → Die) : (s.modDie d f).rin = s.rin := rfl
@[simp] theorem State.modDie_rtNext (s : State) (d : Nat) (f : Die → Die) : (s.modDie d f).rtNext = s.rtNext := rfl
@[simp] theorem State.modDie_srcQ (s : State) (d : Nat) (f : Die → Die) : (s.modDie d f).srcQ = s.srcQ := rfl
@[simp] theorem State.modDie_routerErr (s : State) (d : Nat) (f : Die → Die) : (s.modDie d f).routerErr = s.routerErr := rfl
@[simp] theorem State.modDie_tlb (s : State) (d : Nat) (f : Die → Die) : (s.modDie d f).tlb = s.tlb := rfl
@[simp] theorem State.modDie_walks (s : State) (d : Nat) (f : Die → Die) : (s.modDie d f).walks = s.walks := rfl
@[simp] theorem State.modDie_reqs (s : State) (d : Nat) (f : Die → Die) : (s.modDie d f).reqs = s.reqs := rfl
@[simp] theorem State.modDie_wctx (s : State) (d : Nat) (f : Die → Die) : (s.modDie d f).wctx = s.wctx := rfl
@[simp] theorem State.modDie_egress (s : State) (d : Nat) (f : Die → Die) : (s.modDie d f).egress = s.egress := rfl
@[simp] theorem State.modDie_syncIn (s : State) (d : Nat) (f : Die → Die) : (s.modDie d f).syncIn = s.syncIn := rfl
@[simp] theorem State.modDie_armed (s : State) (d : Nat) (f : Die → Die) : (s.modDie d f).armed = s.armed := rfl
@[simp] theorem State.modDie_links (s : State) (d : Nat) (f : Die → Die) : (s.modDie d f).links = s.links := rfl
@[simp] theorem State.modDie_chans (s : State) (d : Nat) (f : Die → Die) : (s.modDie d f).chans = s.chans := rfl
@[simp] theorem State.modDie_notices (s : State) (d : Nat) (f : Die → Die) : (s.modDie d f).notices = s.notices := rfl
@[simp] theorem State.modDie_lostMsgs (s : State) (d : Nat) (f : Die → Die) : (s.modDie d f).lostMsgs = s.lostMsgs := rfl
@[simp] theorem State.modDie_eseq (s : State) (d : Nat) (f : Die → Die) : (s.modDie d f).eseq = s.eseq := rfl
@[simp] theorem State.modDie_ioIn (s : State) (d : Nat) (f : Die → Die) : (s.modDie d f).ioIn = s.ioIn := rfl
@[simp] theorem State.modDie_ioOut (s : State) (d : Nat) (f : Die → Die) : (s.modDie d f).ioOut = s.ioOut := rfl
@[simp] theorem State.modDie_boot (s : State) (d : Nat) (f : Die → Die) : (s.modDie d f).boot = s.boot := rfl
@[simp] theorem State.modDie_ecc (s : State) (d : Nat) (f : Die → Die) : (s.modDie d f).ecc = s.ecc := rfl
@[simp] theorem State.modDie_badStacks (s : State) (d : Nat) (f : Die → Die) : (s.modDie d f).badStacks = s.badStacks := rfl
@[simp] theorem State.modDie_probes (s : State) (d : Nat) (f : Die → Die) : (s.modDie d f).probes = s.probes := rfl
@[simp] theorem State.modDie_saves (s : State) (d : Nat) (f : Die → Die) : (s.modDie d f).saves = s.saves := rfl
@[simp] theorem State.modDie_dq (s : State) (d : Nat) (f : Die → Die) : (s.modDie d f).dq = s.dq := rfl
@[simp] theorem State.modDie_eth (s : State) (d : Nat) (f : Die → Die) : (s.modDie d f).eth = s.eth := rfl
@[simp] theorem State.modDie_ethOut (s : State) (d : Nat) (f : Die → Die) : (s.modDie d f).ethOut = s.ethOut := rfl
@[simp] theorem State.modDie_xrt (s : State) (d : Nat) (f : Die → Die) : (s.modDie d f).xrt = s.xrt := rfl
@[simp] theorem State.modDie_ing (s : State) (d : Nat) (f : Die → Die) : (s.modDie d f).ing = s.ing := rfl
@[simp] theorem State.modDie_pkgid (s : State) (d : Nat) (f : Die → Die) : (s.modDie d f).pkgid = s.pkgid := rfl
@[simp] theorem State.modDie_ports (s : State) (d : Nat) (f : Die → Die) : (s.modDie d f).ports = s.ports := rfl
@[simp] theorem State.modDie_portOut (s : State) (d : Nat) (f : Die → Die) : (s.modDie d f).portOut = s.portOut := rfl
@[simp] theorem State.modDie_hosts (s : State) (d : Nat) (f : Die → Die) : (s.modDie d f).hosts = s.hosts := rfl
@[simp] theorem State.modDie_requesters (s : State) (d : Nat) (f : Die → Die) : (s.modDie d f).requesters = s.requesters := rfl
@[simp] theorem State.modDie_hostMem (s : State) (d : Nat) (f : Die → Die) : (s.modDie d f).hostMem = s.hostMem := rfl
@[simp] theorem State.modDie_mgmt (s : State) (d : Nat) (f : Die → Die) : (s.modDie d f).mgmt = s.mgmt := rfl
@[simp] theorem State.modDie_own (s : State) (d : Nat) (f : Die → Die) : (s.modDie d f).own = s.own := rfl
@[simp] theorem State.modDie_flash (s : State) (d : Nat) (f : Die → Die) : (s.modDie d f).flash = s.flash := rfl
@[simp] theorem State.modDie_fw (s : State) (d : Nat) (f : Die → Die) : (s.modDie d f).fw = s.fw := rfl
@[simp] theorem State.modDie_lost (s : State) (d : Nat) (f : Die → Die) : (s.modDie d f).lost = s.lost := rfl
@[simp] theorem State.modDie_power (s : State) (d : Nat) (f : Die → Die) : (s.modDie d f).power = s.power := rfl
@[simp] theorem State.modDie_serial (s : State) (d : Nat) (f : Die → Die) : (s.modDie d f).serial = s.serial := rfl
@[simp] theorem State.modDie_mcg (s : State) (d : Nat) (f : Die → Die) : (s.modDie d f).mcg = s.mcg := rfl
@[simp] theorem State.modDie_mcgLoad (s : State) (d : Nat) (f : Die → Die) : (s.modDie d f).mcgLoad = s.mcgLoad := rfl
@[simp] theorem State.modDie_fused (s : State) (d : Nat) (f : Die → Die) : (s.modDie d f).fused = s.fused := rfl
@[simp] theorem State.modDie_units (s : State) (d : Nat) (f : Die → Die) : (s.modDie d f).units = s.units := rfl
@[simp] theorem State.modDie_cycles (s : State) (d : Nat) (f : Die → Die) : (s.modDie d f).cycles = s.cycles := rfl
@[simp] theorem State.modDie_sel (s : State) (d : Nat) (f : Die → Die) : (s.modDie d f).sel = s.sel := rfl
@[simp] theorem State.modDie_at_ (s : State) (d : Nat) (f : Die → Die) : (s.modDie d f).at_ = s.at_ := rfl
@[simp] theorem State.modDie_cur (s : State) (d : Nat) (f : Die → Die) : (s.modDie d f).cur = s.cur := rfl
@[simp] theorem State.modDie_free (s : State) (d : Nat) (f : Die → Die) : (s.modDie d f).free = s.free := rfl
@[simp] theorem State.modDie_elem (s : State) (d : Nat) (f : Die → Die) (k : Nat) : (s.modDie d f).elem k = s.elem k := rfl
@[simp] theorem State.modDie_ct (s : State) (d : Nat) (f : Die → Die) (k : Nat) : (s.modDie d f).ct k = s.ct k := rfl
@[simp] theorem State.modDie_mt (s : State) (d : Nat) (f : Die → Die) (k : Nat) : (s.modDie d f).mt k = s.mt k := rfl
@[simp] theorem State.modDie_region (s : State) (d : Nat) (f : Die → Die) (k : Nat) : (s.modDie d f).region k = s.region k := rfl
@[simp] theorem State.modDie_load (s : State) (d : Nat) (f : Die → Die) (k : Nat) : (s.modDie d f).load k = s.load k := rfl
@[simp] theorem State.modDie_byte (s : State) (d : Nat) (f : Die → Die) (k : Nat) : (s.modDie d f).byte k = s.byte k := rfl
@[simp] theorem State.modDie_tick (s : State) (d : Nat) (f : Die → Die) (k : Nat) : (s.modDie d f).tick k = s.tick k := rfl

/-! ### `setByte` -/

@[simp] theorem State.setByte_elems (s : State) (a : Nat) (b : Byte) : (s.setByte a b).elems = s.elems := rfl
@[simp] theorem State.setByte_cts (s : State) (a : Nat) (b : Byte) : (s.setByte a b).cts = s.cts := rfl
@[simp] theorem State.setByte_mts (s : State) (a : Nat) (b : Byte) : (s.setByte a b).mts = s.mts := rfl
@[simp] theorem State.setByte_regions (s : State) (a : Nat) (b : Byte) : (s.setByte a b).regions = s.regions := rfl
@[simp] theorem State.setByte_clRid (s : State) (a : Nat) (b : Byte) : (s.setByte a b).clRid = s.clRid := rfl
@[simp] theorem State.setByte_loads (s : State) (a : Nat) (b : Byte) : (s.setByte a b).loads = s.loads := rfl
@[simp] theorem State.setByte_spores (s : State) (a : Nat) (b : Byte) : (s.setByte a b).spores = s.spores := rfl
@[simp] theorem State.setByte_dies (s : State) (a : Nat) (b : Byte) : (s.setByte a b).dies = s.dies := rfl
@[simp] theorem State.setByte_journal (s : State) (a : Nat) (b : Byte) : (s.setByte a b).journal = s.journal := rfl
@[simp] theorem State.setByte_jhead (s : State) (a : Nat) (b : Byte) : (s.setByte a b).jhead = s.jhead := rfl
@[simp] theorem State.setByte_jtail (s : State) (a : Nat) (b : Byte) : (s.setByte a b).jtail = s.jtail := rfl
@[simp] theorem State.setByte_rin (s : State) (a : Nat) (b : Byte) : (s.setByte a b).rin = s.rin := rfl
@[simp] theorem State.setByte_rtNext (s : State) (a : Nat) (b : Byte) : (s.setByte a b).rtNext = s.rtNext := rfl
@[simp] theorem State.setByte_srcQ (s : State) (a : Nat) (b : Byte) : (s.setByte a b).srcQ = s.srcQ := rfl
@[simp] theorem State.setByte_routerErr (s : State) (a : Nat) (b : Byte) : (s.setByte a b).routerErr = s.routerErr := rfl
@[simp] theorem State.setByte_tlb (s : State) (a : Nat) (b : Byte) : (s.setByte a b).tlb = s.tlb := rfl
@[simp] theorem State.setByte_walks (s : State) (a : Nat) (b : Byte) : (s.setByte a b).walks = s.walks := rfl
@[simp] theorem State.setByte_reqs (s : State) (a : Nat) (b : Byte) : (s.setByte a b).reqs = s.reqs := rfl
@[simp] theorem State.setByte_wctx (s : State) (a : Nat) (b : Byte) : (s.setByte a b).wctx = s.wctx := rfl
@[simp] theorem State.setByte_egress (s : State) (a : Nat) (b : Byte) : (s.setByte a b).egress = s.egress := rfl
@[simp] theorem State.setByte_syncIn (s : State) (a : Nat) (b : Byte) : (s.setByte a b).syncIn = s.syncIn := rfl
@[simp] theorem State.setByte_armed (s : State) (a : Nat) (b : Byte) : (s.setByte a b).armed = s.armed := rfl
@[simp] theorem State.setByte_links (s : State) (a : Nat) (b : Byte) : (s.setByte a b).links = s.links := rfl
@[simp] theorem State.setByte_chans (s : State) (a : Nat) (b : Byte) : (s.setByte a b).chans = s.chans := rfl
@[simp] theorem State.setByte_notices (s : State) (a : Nat) (b : Byte) : (s.setByte a b).notices = s.notices := rfl
@[simp] theorem State.setByte_lostMsgs (s : State) (a : Nat) (b : Byte) : (s.setByte a b).lostMsgs = s.lostMsgs := rfl
@[simp] theorem State.setByte_eseq (s : State) (a : Nat) (b : Byte) : (s.setByte a b).eseq = s.eseq := rfl
@[simp] theorem State.setByte_ioIn (s : State) (a : Nat) (b : Byte) : (s.setByte a b).ioIn = s.ioIn := rfl
@[simp] theorem State.setByte_ioOut (s : State) (a : Nat) (b : Byte) : (s.setByte a b).ioOut = s.ioOut := rfl
@[simp] theorem State.setByte_boot (s : State) (a : Nat) (b : Byte) : (s.setByte a b).boot = s.boot := rfl
@[simp] theorem State.setByte_ecc (s : State) (a : Nat) (b : Byte) : (s.setByte a b).ecc = s.ecc := rfl
@[simp] theorem State.setByte_badStacks (s : State) (a : Nat) (b : Byte) : (s.setByte a b).badStacks = s.badStacks := rfl
@[simp] theorem State.setByte_probes (s : State) (a : Nat) (b : Byte) : (s.setByte a b).probes = s.probes := rfl
@[simp] theorem State.setByte_saves (s : State) (a : Nat) (b : Byte) : (s.setByte a b).saves = s.saves := rfl
@[simp] theorem State.setByte_dq (s : State) (a : Nat) (b : Byte) : (s.setByte a b).dq = s.dq := rfl
@[simp] theorem State.setByte_eth (s : State) (a : Nat) (b : Byte) : (s.setByte a b).eth = s.eth := rfl
@[simp] theorem State.setByte_ethOut (s : State) (a : Nat) (b : Byte) : (s.setByte a b).ethOut = s.ethOut := rfl
@[simp] theorem State.setByte_xrt (s : State) (a : Nat) (b : Byte) : (s.setByte a b).xrt = s.xrt := rfl
@[simp] theorem State.setByte_ing (s : State) (a : Nat) (b : Byte) : (s.setByte a b).ing = s.ing := rfl
@[simp] theorem State.setByte_pkgid (s : State) (a : Nat) (b : Byte) : (s.setByte a b).pkgid = s.pkgid := rfl
@[simp] theorem State.setByte_ports (s : State) (a : Nat) (b : Byte) : (s.setByte a b).ports = s.ports := rfl
@[simp] theorem State.setByte_portOut (s : State) (a : Nat) (b : Byte) : (s.setByte a b).portOut = s.portOut := rfl
@[simp] theorem State.setByte_hosts (s : State) (a : Nat) (b : Byte) : (s.setByte a b).hosts = s.hosts := rfl
@[simp] theorem State.setByte_requesters (s : State) (a : Nat) (b : Byte) : (s.setByte a b).requesters = s.requesters := rfl
@[simp] theorem State.setByte_hostMem (s : State) (a : Nat) (b : Byte) : (s.setByte a b).hostMem = s.hostMem := rfl
@[simp] theorem State.setByte_mgmt (s : State) (a : Nat) (b : Byte) : (s.setByte a b).mgmt = s.mgmt := rfl
@[simp] theorem State.setByte_own (s : State) (a : Nat) (b : Byte) : (s.setByte a b).own = s.own := rfl
@[simp] theorem State.setByte_flash (s : State) (a : Nat) (b : Byte) : (s.setByte a b).flash = s.flash := rfl
@[simp] theorem State.setByte_fw (s : State) (a : Nat) (b : Byte) : (s.setByte a b).fw = s.fw := rfl
@[simp] theorem State.setByte_lost (s : State) (a : Nat) (b : Byte) : (s.setByte a b).lost = s.lost := rfl
@[simp] theorem State.setByte_power (s : State) (a : Nat) (b : Byte) : (s.setByte a b).power = s.power := rfl
@[simp] theorem State.setByte_serial (s : State) (a : Nat) (b : Byte) : (s.setByte a b).serial = s.serial := rfl
@[simp] theorem State.setByte_mcg (s : State) (a : Nat) (b : Byte) : (s.setByte a b).mcg = s.mcg := rfl
@[simp] theorem State.setByte_mcgLoad (s : State) (a : Nat) (b : Byte) : (s.setByte a b).mcgLoad = s.mcgLoad := rfl
@[simp] theorem State.setByte_fused (s : State) (a : Nat) (b : Byte) : (s.setByte a b).fused = s.fused := rfl
@[simp] theorem State.setByte_units (s : State) (a : Nat) (b : Byte) : (s.setByte a b).units = s.units := rfl
@[simp] theorem State.setByte_cycles (s : State) (a : Nat) (b : Byte) : (s.setByte a b).cycles = s.cycles := rfl
@[simp] theorem State.setByte_sel (s : State) (a : Nat) (b : Byte) : (s.setByte a b).sel = s.sel := rfl
@[simp] theorem State.setByte_at_ (s : State) (a : Nat) (b : Byte) : (s.setByte a b).at_ = s.at_ := rfl
@[simp] theorem State.setByte_cur (s : State) (a : Nat) (b : Byte) : (s.setByte a b).cur = s.cur := rfl
@[simp] theorem State.setByte_free (s : State) (a : Nat) (b : Byte) : (s.setByte a b).free = s.free := rfl
@[simp] theorem State.setByte_elem (s : State) (a : Nat) (b : Byte) (k : Nat) : (s.setByte a b).elem k = s.elem k := rfl
@[simp] theorem State.setByte_ct (s : State) (a : Nat) (b : Byte) (k : Nat) : (s.setByte a b).ct k = s.ct k := rfl
@[simp] theorem State.setByte_mt (s : State) (a : Nat) (b : Byte) (k : Nat) : (s.setByte a b).mt k = s.mt k := rfl
@[simp] theorem State.setByte_region (s : State) (a : Nat) (b : Byte) (k : Nat) : (s.setByte a b).region k = s.region k := rfl
@[simp] theorem State.setByte_load (s : State) (a : Nat) (b : Byte) (k : Nat) : (s.setByte a b).load k = s.load k := rfl
@[simp] theorem State.setByte_die (s : State) (a : Nat) (b : Byte) (k : Nat) : (s.setByte a b).die k = s.die k := rfl
@[simp] theorem State.setByte_tick (s : State) (a : Nat) (b : Byte) (k : Nat) : (s.setByte a b).tick k = s.tick k := rfl

/-! ### `drawn` -/

@[simp] theorem State.drawn_elems (s : State) : (s.drawn).elems = s.elems := rfl
@[simp] theorem State.drawn_cts (s : State) : (s.drawn).cts = s.cts := rfl
@[simp] theorem State.drawn_mts (s : State) : (s.drawn).mts = s.mts := rfl
@[simp] theorem State.drawn_regions (s : State) : (s.drawn).regions = s.regions := rfl
@[simp] theorem State.drawn_clRid (s : State) : (s.drawn).clRid = s.clRid := rfl
@[simp] theorem State.drawn_loads (s : State) : (s.drawn).loads = s.loads := rfl
@[simp] theorem State.drawn_spores (s : State) : (s.drawn).spores = s.spores := rfl
@[simp] theorem State.drawn_dies (s : State) : (s.drawn).dies = s.dies := rfl
@[simp] theorem State.drawn_journal (s : State) : (s.drawn).journal = s.journal := rfl
@[simp] theorem State.drawn_jhead (s : State) : (s.drawn).jhead = s.jhead := rfl
@[simp] theorem State.drawn_jtail (s : State) : (s.drawn).jtail = s.jtail := rfl
@[simp] theorem State.drawn_mem (s : State) : (s.drawn).mem = s.mem := rfl
@[simp] theorem State.drawn_high (s : State) : (s.drawn).high = s.high := rfl
@[simp] theorem State.drawn_rin (s : State) : (s.drawn).rin = s.rin := rfl
@[simp] theorem State.drawn_rtNext (s : State) : (s.drawn).rtNext = s.rtNext := rfl
@[simp] theorem State.drawn_srcQ (s : State) : (s.drawn).srcQ = s.srcQ := rfl
@[simp] theorem State.drawn_routerErr (s : State) : (s.drawn).routerErr = s.routerErr := rfl
@[simp] theorem State.drawn_tlb (s : State) : (s.drawn).tlb = s.tlb := rfl
@[simp] theorem State.drawn_walks (s : State) : (s.drawn).walks = s.walks := rfl
@[simp] theorem State.drawn_reqs (s : State) : (s.drawn).reqs = s.reqs := rfl
@[simp] theorem State.drawn_wctx (s : State) : (s.drawn).wctx = s.wctx := rfl
@[simp] theorem State.drawn_egress (s : State) : (s.drawn).egress = s.egress := rfl
@[simp] theorem State.drawn_syncIn (s : State) : (s.drawn).syncIn = s.syncIn := rfl
@[simp] theorem State.drawn_armed (s : State) : (s.drawn).armed = s.armed := rfl
@[simp] theorem State.drawn_links (s : State) : (s.drawn).links = s.links := rfl
@[simp] theorem State.drawn_chans (s : State) : (s.drawn).chans = s.chans := rfl
@[simp] theorem State.drawn_notices (s : State) : (s.drawn).notices = s.notices := rfl
@[simp] theorem State.drawn_lostMsgs (s : State) : (s.drawn).lostMsgs = s.lostMsgs := rfl
@[simp] theorem State.drawn_eseq (s : State) : (s.drawn).eseq = s.eseq := rfl
@[simp] theorem State.drawn_ioIn (s : State) : (s.drawn).ioIn = s.ioIn := rfl
@[simp] theorem State.drawn_ioOut (s : State) : (s.drawn).ioOut = s.ioOut := rfl
@[simp] theorem State.drawn_boot (s : State) : (s.drawn).boot = s.boot := rfl
@[simp] theorem State.drawn_ecc (s : State) : (s.drawn).ecc = s.ecc := rfl
@[simp] theorem State.drawn_badStacks (s : State) : (s.drawn).badStacks = s.badStacks := rfl
@[simp] theorem State.drawn_probes (s : State) : (s.drawn).probes = s.probes := rfl
@[simp] theorem State.drawn_saves (s : State) : (s.drawn).saves = s.saves := rfl
@[simp] theorem State.drawn_dq (s : State) : (s.drawn).dq = s.dq := rfl
@[simp] theorem State.drawn_eth (s : State) : (s.drawn).eth = s.eth := rfl
@[simp] theorem State.drawn_ethOut (s : State) : (s.drawn).ethOut = s.ethOut := rfl
@[simp] theorem State.drawn_xrt (s : State) : (s.drawn).xrt = s.xrt := rfl
@[simp] theorem State.drawn_ing (s : State) : (s.drawn).ing = s.ing := rfl
@[simp] theorem State.drawn_pkgid (s : State) : (s.drawn).pkgid = s.pkgid := rfl
@[simp] theorem State.drawn_ports (s : State) : (s.drawn).ports = s.ports := rfl
@[simp] theorem State.drawn_portOut (s : State) : (s.drawn).portOut = s.portOut := rfl
@[simp] theorem State.drawn_hosts (s : State) : (s.drawn).hosts = s.hosts := rfl
@[simp] theorem State.drawn_requesters (s : State) : (s.drawn).requesters = s.requesters := rfl
@[simp] theorem State.drawn_hostMem (s : State) : (s.drawn).hostMem = s.hostMem := rfl
@[simp] theorem State.drawn_mgmt (s : State) : (s.drawn).mgmt = s.mgmt := rfl
@[simp] theorem State.drawn_own (s : State) : (s.drawn).own = s.own := rfl
@[simp] theorem State.drawn_flash (s : State) : (s.drawn).flash = s.flash := rfl
@[simp] theorem State.drawn_fw (s : State) : (s.drawn).fw = s.fw := rfl
@[simp] theorem State.drawn_lost (s : State) : (s.drawn).lost = s.lost := rfl
@[simp] theorem State.drawn_power (s : State) : (s.drawn).power = s.power := rfl
@[simp] theorem State.drawn_serial (s : State) : (s.drawn).serial = s.serial := rfl
@[simp] theorem State.drawn_mcg (s : State) : (s.drawn).mcg = s.mcg := rfl
@[simp] theorem State.drawn_mcgLoad (s : State) : (s.drawn).mcgLoad = s.mcgLoad := rfl
@[simp] theorem State.drawn_fused (s : State) : (s.drawn).fused = s.fused := rfl
@[simp] theorem State.drawn_units (s : State) : (s.drawn).units = s.units := rfl
@[simp] theorem State.drawn_cycles (s : State) : (s.drawn).cycles = s.cycles := rfl
@[simp] theorem State.drawn_sel (s : State) : (s.drawn).sel = s.sel := rfl
@[simp] theorem State.drawn_at_ (s : State) : (s.drawn).at_ = s.at_ := rfl
@[simp] theorem State.drawn_cur (s : State) : (s.drawn).cur = s.cur := rfl
@[simp] theorem State.drawn_elem (s : State) (k : Nat) : (s.drawn).elem k = s.elem k := rfl
@[simp] theorem State.drawn_ct (s : State) (k : Nat) : (s.drawn).ct k = s.ct k := rfl
@[simp] theorem State.drawn_mt (s : State) (k : Nat) : (s.drawn).mt k = s.mt k := rfl
@[simp] theorem State.drawn_region (s : State) (k : Nat) : (s.drawn).region k = s.region k := rfl
@[simp] theorem State.drawn_load (s : State) (k : Nat) : (s.drawn).load k = s.load k := rfl
@[simp] theorem State.drawn_die (s : State) (k : Nat) : (s.drawn).die k = s.die k := rfl
@[simp] theorem State.drawn_byte (s : State) (k : Nat) : (s.drawn).byte k = s.byte k := rfl
@[simp] theorem State.drawn_tick (s : State) (k : Nat) : (s.drawn).tick k = s.tick k := rfl

/-! ### The part that is written -/

@[simp] theorem State.elem_modElem_same (s : State) (e : Nat) (f : Elem → Elem) : (s.modElem e f).elem e = f (s.elem e) :=
  Tbl.look_upd_same _ _ _
theorem State.elem_modElem_other (s : State) (e k : Nat) (f : Elem → Elem) (h : k ≠ e) :
    (s.modElem e f).elem k = s.elem k := Tbl.look_upd_other _ _ _ _ h

@[simp] theorem State.ct_modCt_same (s : State) (q : Nat) (f : Ct → Ct) : (s.modCt q f).ct q = f (s.ct q) :=
  Tbl.look_upd_same _ _ _
theorem State.ct_modCt_other (s : State) (q k : Nat) (f : Ct → Ct) (h : k ≠ q) :
    (s.modCt q f).ct k = s.ct k := Tbl.look_upd_other _ _ _ _ h

@[simp] theorem State.mt_modMt_same (s : State) (q : Nat) (f : Mt → Mt) : (s.modMt q f).mt q = f (s.mt q) :=
  Tbl.look_upd_same _ _ _
theorem State.mt_modMt_other (s : State) (q k : Nat) (f : Mt → Mt) (h : k ≠ q) :
    (s.modMt q f).mt k = s.mt k := Tbl.look_upd_other _ _ _ _ h

@[simp] theorem State.region_modRegion_same (s : State) (r : Nat) (f : Region → Region) : (s.modRegion r f).region r = f (s.region r) :=
  Tbl.look_upd_same _ _ _
theorem State.region_modRegion_other (s : State) (r k : Nat) (f : Region → Region) (h : k ≠ r) :
    (s.modRegion r f).region k = s.region k := Tbl.look_upd_other _ _ _ _ h

@[simp] theorem State.load_modLoad_same (s : State) (l : Nat) (f : Load → Load) : (s.modLoad l f).load l = f (s.load l) :=
  Tbl.look_upd_same _ _ _
theorem State.load_modLoad_other (s : State) (l k : Nat) (f : Load → Load) (h : k ≠ l) :
    (s.modLoad l f).load k = s.load k := Tbl.look_upd_other _ _ _ _ h

@[simp] theorem State.die_modDie_same (s : State) (d : Nat) (f : Die → Die) : (s.modDie d f).die d = f (s.die d) :=
  Tbl.look_upd_same _ _ _
theorem State.die_modDie_other (s : State) (d k : Nat) (f : Die → Die) (h : k ≠ d) :
    (s.modDie d f).die k = s.die k := Tbl.look_upd_other _ _ _ _ h

@[simp] theorem State.queue_modQueue_same (s : State) (k : Nat) (f : Queue → Queue) :
    (s.modQueue k f).queue k = f (s.queue k) := by
  simp only [State.queue, State.modQueue, State.mt_modMt_same, Tbl.look_upd_same]
theorem State.queue_modQueue_other (s : State) (k n : Nat) (f : Queue → Queue) (h : n ≠ k) :
    (s.modQueue k f).queue n = s.queue n := by
  unfold State.queue State.modQueue
  by_cases hq : n / 4 = k / 4
  · rw [hq, State.mt_modMt_same]
    exact Tbl.look_upd_other _ _ _ _ (by omega)
  · rw [State.mt_modMt_other _ _ _ _ hq]

@[simp] theorem State.fxRec_modFx_same (s : State) (r x : Nat) (f : FxRec → FxRec) :
    (s.modFx r x f).fxRec r x = f (s.fxRec r x) := by
  simp only [State.fxRec, State.modFx, State.region_modRegion_same, Tbl.look_upd_same]
theorem State.fxRec_modFx_other (s : State) (r x k y : Nat) (f : FxRec → FxRec) (h : k ≠ r ∨ y ≠ x) :
    (s.modFx r x f).fxRec k y = s.fxRec k y := by
  unfold State.fxRec State.modFx
  by_cases hk : k = r
  · subst hk
    rw [State.region_modRegion_same]
    exact Tbl.look_upd_other _ _ _ _ (h.resolve_left (by simp))
  · rw [State.region_modRegion_other _ _ _ _ hk]

@[simp] theorem State.drawn_free (s : State) : s.drawn.free = s.free + 1 := rfl

/-! ### Bytes -/

@[simp] theorem State.byte_setByte_same (s : State) (a : Nat) (b : Byte) : (s.setByte a b).byte a = b :=
  Tbl.look_put_same _ _ _
theorem State.byte_setByte_other (s : State) (a k : Nat) (b : Byte) (h : k ≠ a) : (s.setByte a b).byte k = s.byte k :=
  Tbl.look_put_other _ _ _ _ h

/-- A byte outside those written is unchanged. -/
theorem State.byte_setBytes_out (s : State) (a k : Nat) (l : List Byte) (h : k < a ∨ a + l.length ≤ k) :
    (s.setBytes a l).byte k = s.byte k := by
  induction l generalizing s a with
  | nil => rfl
  | cons b t ih =>
    simp only [List.length_cons] at h
    rw [State.setBytes, ih _ _ (by omega), State.byte_setByte_other _ _ _ _ (by omega)]

/-- A byte among those written reads as it was written. -/
theorem State.byte_setBytes_in (s : State) (a i : Nat) (l : List Byte) (h : i < l.length) :
    (s.setBytes a l).byte (a + i) = l[i] := by
  induction l generalizing s a i with
  | nil => simp at h
  | cons b t ih =>
    cases i with
    | zero => rw [State.setBytes, State.byte_setBytes_out _ _ _ _ (by omega), Nat.add_zero, State.byte_setByte_same]; rfl
    | succ i =>
      have := ih (s.setByte a b) (a + 1) i (by simpa using h)
      rw [State.setBytes, show a + (i + 1) = a + 1 + i by omega, this]
      rfl

/-- Writing bytes changes memory and the note of high bytes alone. -/
theorem State.setBytes_frame (s : State) (a : Nat) (l : List Byte) :
    s.setBytes a l = { s with mem := (s.setBytes a l).mem, high := (s.setBytes a l).high } := by
  induction l generalizing s a with
  | nil => rfl
  | cons b t ih => rw [State.setBytes, ih]; rfl

@[simp] theorem toBytes_length (n v : Nat) : (toBytes n v).length = n := by
  induction n generalizing v with
  | zero => rfl
  | succ n ih => simp [toBytes, ih]

/-- R1: what a little-endian write of `n` bytes leaves elsewhere. -/
theorem State.byte_wr_out (s : State) (a n v k : Nat) (h : k < a ∨ a + n ≤ k) : (s.wr a n v).byte k = s.byte k :=
  s.byte_setBytes_out a k _ (by simpa using h)

theorem State.wr_frame (s : State) (a n v : Nat) :
    s.wr a n v = { s with mem := (s.wr a n v).mem, high := (s.wr a n v).high } := s.setBytes_frame _ _

/-! ### The canonical form of memory -/

theorem State.setByte_wf (s : State) (a : Nat) (b : Byte) (h : s.mem.wf = true) : (s.setByte a b).mem.wf = true :=
  Tbl.wf_put _ _ _ h

theorem State.setBytes_wf (s : State) (a : Nat) (l : List Byte) (h : s.mem.wf = true) : (s.setBytes a l).mem.wf = true := by
  induction l generalizing s a with
  | nil => exact h
  | cons b t ih => exact ih _ _ (s.setByte_wf a b h)

theorem State.wr_wf (s : State) (a n v : Nat) (h : s.mem.wf = true) : (s.wr a n v).mem.wf = true := s.setBytes_wf _ _ h

/-- A memory that a list of bytes at addresses is written to, one after another. -/
theorem Memory.foldl_put_wf {β : Type} (l : List β) (f : β → Nat) (g : β → Byte) (m : Memory) (h : m.wf = true) :
    Memory.wf (l.foldl (fun (t : List Host.Cell) p => Tbl.put t (f p) (g p)) m) = true := by
  induction l generalizing m with
  | nil => exact h
  | cons b t ih => exact ih _ (Tbl.wf_put _ _ _ h)

theorem Memory.filter_wf (m : Memory) (f : Host.Cell → Bool) (h : m.wf = true) : Memory.wf (m.filter f) = true :=
  Tbl.wf_filter _ _ h

theorem State.reset_mem_wf : State.reset.mem.wf = true := rfl

end Sys2Proof.Machine
end

