-- ==== Sys2Proof/Laws/Finish.lean ====
section
/-!
SUPPORT. Sending: what the end of a firing of the scalar/vector pipe does, said once.
-/
namespace Sys2Proof
open Machine

/-- Changing one element changes nothing else. -/
theorem OnlyElem.modElem (s : State) (e : Nat) (f : Elem → Elem) : OnlyElem e s (s.modElem e f) :=
  ⟨rfl, fun _ h => s.elem_modElem_other e _ f h, fun _ => rfl⟩

theorem OnlyElem.refl (s : State) (e : Nat) : OnlyElem e s s := ⟨rfl, fun _ _ => rfl, fun _ => rfl⟩

theorem OnlyElem.trans {e : Nat} {s t u : State} (a : OnlyElem e s t) (b : OnlyElem e t u) : OnlyElem e s u := by
  obtain ⟨a1, a2, a3⟩ := a
  obtain ⟨b1, b2, b3⟩ := b
  refine ⟨?_, fun k h => (b2 k h).trans (a2 k h), fun x => (b3 x).trans (a3 x)⟩
  rw [b1, a1]

/-- Where the destinations pass their check, a firing's tokens go to the output stage and nothing else happens. -/
theorem Machine.State.send_ok (s : State) (f : Firing) (v : RecView) (w2 : Word) (outs : List Out) (h : s.sendFault outs = none) :
    s.send f v w2 outs = s.modElem f.elem fun x => { x with outStage := x.outStage ++ s.flights f v outs } := by
  simp only [State.send, h]

/-- Where one fails, the firing faults and sends nothing (R103). -/
theorem Machine.State.send_bad (s : State) (f : Firing) (v : RecView) (w2 : Word) (outs : List Out) (k : Nat × Nat)
    (h : s.sendFault outs = some k) :
    s.send f v w2 outs = s.raiseFiring f k.1 k.2 w2 (if v.hdr.arity3 then f.t2.val else 0) 0 := by
  simp only [State.send, h]

/-- The check looks at the destinations alone. -/
theorem sendFault_outs1 (s : State) (v : RecView) (t u : Token) : s.sendFault (outs1 v t) = s.sendFault (outs1 v u) := by
  simp only [State.sendFault, outs1]
  split <;> simp [List.findSome?]

theorem sendFault_outs2 (s : State) (v : RecView) (t t' u u' : Token) :
    s.sendFault (outs2 v t t') = s.sendFault (outs2 v u u') := by
  simp only [State.sendFault, outs2]
  split <;> simp [List.findSome?]

theorem finish_sends (i : Instr) (s : State) (v : RecView) (outs : List Out) (fl : Flags) (h : s.sendFault outs = none)
    (e : exec i s = finish s v outs fl) : Sends i s v outs fl := by
  refine ⟨_, e.trans (by simp [finish, h]; rfl), ?_, ?_⟩
  · rw [s.send_ok _ _ _ _ h]
    exact (OnlyElem.modElem s _ _).trans (OnlyElem.modElem _ _ _)
  · rw [s.send_ok _ _ _ _ h]
    show ((State.modElem _ _ _).modElem _ _).elem _ = _
    rw [State.elem_modElem_same, State.elem_modElem_same]

theorem finish1_gives (i : Instr) (s : State) (v : RecView) (x : Word × Flags) (P : Word → Flags → Prop)
    (e : exec i s = finish1 s v x) (hp : P x.1 x.2) : Gives i s v P := fun h =>
  ⟨x.1, x.2, hp, finish_sends i s v _ _ ((sendFault_outs1 s v _ _).trans h) e⟩

theorem finish2_gives (i : Instr) (s : State) (v : RecView) (a b : Word × Flags) (P : Word → Word → Flags → Prop)
    (e : exec i s = finish2 s v a b) (hp : P a.1 b.1 (a.2 ||| b.2)) : Gives2 i s v P := fun h =>
  ⟨a.1, b.1, _, hp, finish_sends i s v _ _ ((sendFault_outs2 s v _ _ _ _).trans h) e⟩

end Sys2Proof
end

