-- ==== Sys2Proof/Laws/Lanes.lean ====
section
/-!
SUPPORT. Lanes of a value: what each lane of a value made lane by lane reads as, the flags of its lanes, and the fit of
an exact integer in a lane.
-/
namespace Sys2Proof
open Machine

theorem fld_lt (x lo len : Nat) : fld x lo len < 2 ^ len := Nat.mod_lt _ (Nat.two_pow_pos _)

theorem lane_lt (w : Nat) (x : Word) (i : Nat) : lane w x i < 2 ^ w := fld_lt _ _ _

/-- The number that the lanes of a list make. -/
def lanesSum (w : Nat) (l : List Nat) : Nat := l.foldr (fun x acc => x % 2 ^ w + acc * 2 ^ w) 0

theorem lanesSum_lt (w : Nat) (l : List Nat) : lanesSum w l < 2 ^ (l.length * w) := by
  induction l with
  | nil => simp [lanesSum]
  | cons x t ih =>
    have h := Nat.mod_lt x (Nat.two_pow_pos w)
    show x % 2 ^ w + lanesSum w t * 2 ^ w < _
    rw [List.length_cons, Nat.add_mul, Nat.one_mul, Nat.pow_add]
    have : (lanesSum w t + 1) * 2 ^ w ≤ 2 ^ (t.length * w) * 2 ^ w := Nat.mul_le_mul_right _ ih
    rw [Nat.add_mul, Nat.one_mul] at this
    omega

theorem fld_lanesSum (w : Nat) (l : List Nat) (i : Nat) (h : i < l.length) :
    fld (lanesSum w l) (w * i) w = l[i] % 2 ^ w := by
  induction l generalizing i with
  | nil => simp at h
  | cons x t ih =>
    have hx := Nat.mod_lt x (Nat.two_pow_pos w)
    show fld (x % 2 ^ w + lanesSum w t * 2 ^ w) (w * i) w = _
    cases i with
    | zero => simp [fld, Nat.add_mul_mod_self_right]
    | succ j =>
      have e : (x % 2 ^ w + lanesSum w t * 2 ^ w) / 2 ^ (w * (j + 1)) = lanesSum w t / 2 ^ (w * j) := by
        rw [Nat.mul_add, Nat.mul_one, Nat.add_comm (w * j) w, Nat.pow_add, ← Nat.div_div_eq_div_mul,
          Nat.add_mul_div_right _ _ (Nat.two_pow_pos w), Nat.div_eq_of_lt hx, Nat.zero_add]
      have := ih j (by simpa using h)
      simp only [fld] at this ⊢
      rw [e, this]
      simp

theorem ofLanes_toNat (w : Nat) (l : List Nat) (h : l.length * w ≤ 64) : (ofLanes w l).toNat = lanesSum w l := by
  show (BitVec.ofNat 64 (lanesSum w l)).toNat = _
  rw [BitVec.toNat_ofNat]
  exact Nat.mod_eq_of_lt (Nat.lt_of_lt_of_le (lanesSum_lt w l) (Nat.pow_le_pow_right (by decide) h))

/-- What a value made lane by lane holds. -/
theorem mkLanes_lanes (n w : Nat) (f : Nat → Nat) (h : n * w ≤ 64) : Lanes n w f (mkLanes n w f) := by
  have len : ((List.range n).map f).length * w ≤ 64 := by simpa using h
  refine ⟨fun k hk => ?_, ?_⟩
  · show fld (ofLanes w _).toNat (w * k) w = _
    rw [ofLanes_toNat w _ len, fld_lanesSum w _ k (by simpa using hk)]
    simp
  · show (ofLanes w _).toNat < _
    rw [ofLanes_toNat w _ len]
    simpa using lanesSum_lt w ((List.range n).map f)

theorem getLsbD_foldl_or (l : List Flags) (a : Flags) (b : Nat) :
    (l.foldl (fun x y => x ||| y) a).getLsbD b = true ↔ a.getLsbD b = true ∨ ∃ f ∈ l, f.getLsbD b = true := by
  induction l generalizing a with
  | nil => simp
  | cons x t ih => simp [ih, or_assoc]

theorem getLsbD_orAll (l : List Flags) (b : Nat) : (orAll l).getLsbD b = true ↔ ∃ f ∈ l, f.getLsbD b = true := by
  unfold orAll
  rw [getLsbD_foldl_or]
  simp

theorem mkLanesF_fst (n w : Nat) (f : Nat → Nat × Flags) : (mkLanesF n w f).1 = mkLanes n w fun i => (f i).1 := by
  simp [mkLanesF, mkLanes, Function.comp_def]

theorem mkLanesF_snd (n w : Nat) (f : Nat → Nat × Flags) (b : Nat) :
    (mkLanesF n w f).2.getLsbD b = true ↔ ∃ k, k < n ∧ (f k).2.getLsbD b = true := by
  show (orAll _).getLsbD b = true ↔ _
  rw [getLsbD_orAll]
  simp only [List.mem_map, List.mem_range, exists_exists_and_eq_and]

/-- What a value made lane by lane with flags holds. -/
theorem mkLanesF_lanes (n w : Nat) (f : Nat → Nat × Flags) (h : n * w ≤ 64) :
    LanesF n w f (mkLanesF n w f).1 (mkLanesF n w f).2 := by
  refine ⟨?_, mkLanesF_snd n w f⟩
  rw [mkLanesF_fst]
  exact mkLanes_lanes n w _ h

/-- The lanes of a TY fit a value. -/
theorem ty_fits (t : Nat) : tyN t * tyW t ≤ 64 := by
  unfold tyN tyW tyLanes tyWidth
  split <;> split <;> simp_all

theorem tyW_pos (t : Nat) : 0 < tyW t := by
  unfold tyW tyWidth
  split <;> decide

/-- A signed or unsigned reading of a lane stays in its range. -/
theorem laneInt_bounds (sg : Bool) (w x : Nat) (hw : 0 < w) (h : x < 2 ^ w) :
    (if sg then -2 ^ (w - 1) else 0 : Int) ≤ laneInt sg w x ∧
    laneInt sg w x ≤ (if sg then 2 ^ (w - 1) - 1 else 2 ^ w - 1 : Int) := by
  obtain ⟨n, rfl⟩ : ∃ n, w = n + 1 := ⟨w - 1, by omega⟩
  have hp : (2 : Int) ^ (n + 1) = 2 * 2 ^ n := by ring
  have hx : (x : Int) < 2 * 2 ^ n := by rw [← hp]; exact_mod_cast h
  have pos : (0 : Int) < 2 ^ n := by positivity
  unfold laneInt tbit
  simp only [Nat.add_sub_cancel]
  have key : (x / 2 ^ n % 2 == 1) = decide (2 ^ n ≤ x) := by
    have hlt : x / 2 ^ n < 2 := Nat.div_lt_of_lt_mul (by rw [Nat.mul_comm, ← Nat.pow_succ']; exact h)
    rcases Nat.lt_or_ge x (2 ^ n) with c | c
    · rw [Nat.div_eq_of_lt c]; simp; omega
    · have : 1 ≤ x / 2 ^ n := (Nat.le_div_iff_mul_le (Nat.two_pow_pos n)).mpr (by omega)
      rw [show x / 2 ^ n = 1 by omega]; simp [c]
  rw [key]
  cases sg
  · simp; exact_mod_cast h
  · by_cases c : 2 ^ n ≤ x
    · have : (2 : Int) ^ n ≤ x := by exact_mod_cast c
      simp [c]; rw [hp]; omega
    · have : (x : Int) < 2 ^ n := by exact_mod_cast (not_le.mp c)
      simp [c]; omega

/-- The reading of a lane is the lane modulo 2^w. -/
theorem laneInt_mod (sg : Bool) (w x : Nat) : (laneInt sg w x - x) % 2 ^ w = 0 := by
  unfold laneInt
  split
  · rw [show ((x : Int) - 2 ^ w - x) = -(2 ^ w) by ring]; simp
  · simp

/-- Two integers of one lane range that agree modulo 2^w are equal. -/
theorem lane_unique (sg : Bool) (w : Nat) (hw : 0 < w) (a b : Int)
    (ha : (if sg then -2 ^ (w - 1) else 0 : Int) ≤ a ∧ a ≤ (if sg then 2 ^ (w - 1) - 1 else 2 ^ w - 1 : Int))
    (hb : (if sg then -2 ^ (w - 1) else 0 : Int) ≤ b ∧ b ≤ (if sg then 2 ^ (w - 1) - 1 else 2 ^ w - 1 : Int))
    (h : (a - b) % 2 ^ w = 0) : a = b := by
  obtain ⟨n, rfl⟩ : ∃ n, w = n + 1 := ⟨w - 1, by omega⟩
  have hp : (2 : Int) ^ (n + 1) = 2 * 2 ^ n := by ring
  have pos : (0 : Int) < 2 ^ n := by positivity
  obtain ⟨k, hk⟩ := Int.dvd_of_emod_eq_zero h
  simp only [Nat.add_sub_cancel] at ha hb
  rw [hp] at ha hb hk
  have hlt : -(2 * 2 ^ n) < a - b ∧ a - b < 2 * 2 ^ n := by
    cases sg <;> simp at ha hb <;> constructor <;> linarith [ha.1, ha.2, hb.1, hb.2]
  have hk0 : k = 0 := by
    rcases lt_trichotomy k 0 with c | c | c
    · nlinarith
    · exact c
    · nlinarith
  rw [hk0] at hk
  omega

/-- What a lane made by `fitInt` reads as. -/
theorem fitInt_fits (sat sg : Bool) (w : Nat) (e : Int) (hw : 0 < w) :
    Fits sat sg w e (laneInt sg w ((fitInt sat sg w e).1 % 2 ^ w)) ∧
    (fitInt sat sg w e).2 = if sat = true ∧ laneInt sg w ((fitInt sat sg w e).1 % 2 ^ w) ≠ e then fSAT else 0 := by
  have pw : (0 : Int) < 2 ^ w := by positivity
  have pw1 : (0 : Int) < 2 ^ (w - 1) := by positivity
  let lo : Int := if sg then -2 ^ (w - 1) else 0
  let hi : Int := if sg then 2 ^ (w - 1) - 1 else 2 ^ w - 1
  have lohi : lo ≤ hi := by
    show (if sg then -2 ^ (w - 1) else 0 : Int) ≤ if sg then 2 ^ (w - 1) - 1 else 2 ^ w - 1
    cases sg <;> (first | (simp; done) | (simp; omega))
  let y : Int := if sat then (if e < lo then lo else if e > hi then hi else e) else e
  have hfst : (fitInt sat sg w e).1 = (y % 2 ^ w).toNat := rfl
  have hsnd : (fitInt sat sg w e).2 = if sat && y != e then fSAT else 0 := rfl
  have hlt : (y % 2 ^ w).toNat < 2 ^ w := by
    have := Int.emod_lt_of_pos y pw
    have h0 := Int.emod_nonneg y (ne_of_gt pw)
    zify
    omega
  have hm : (fitInt sat sg w e).1 % 2 ^ w = (y % 2 ^ w).toNat := by rw [hfst, Nat.mod_eq_of_lt hlt]
  have hb := laneInt_bounds sg w (y % 2 ^ w).toNat hw hlt
  have hr : (laneInt sg w (y % 2 ^ w).toNat - y) % 2 ^ w = 0 := by
    have h1 := laneInt_mod sg w (y % 2 ^ w).toNat
    have h0 := Int.emod_nonneg y (ne_of_gt pw)
    rw [Int.toNat_of_nonneg h0] at h1
    have h2 : (y % 2 ^ w - y) % 2 ^ w = 0 := by simp [Int.sub_emod]
    have : laneInt sg w (y % 2 ^ w).toNat - y = (laneInt sg w (y % 2 ^ w).toNat - y % 2 ^ w) + (y % 2 ^ w - y) := by ring
    rw [this, Int.add_emod, h1, h2]
    simp
  rw [hm, hsnd]
  generalize laneInt sg w (y % 2 ^ w).toNat = z at *
  have inr : lo ≤ y ∧ y ≤ hi → z = y := fun h => lane_unique sg w hw z y hb h hr
  have ysat : sat = true → lo ≤ y ∧ y ≤ hi := by
    intro h
    show lo ≤ (if sat then _ else _) ∧ (if sat then _ else _) ≤ hi
    rw [h]
    simp only [if_true]
    split
    · exact ⟨le_refl _, lohi⟩
    · split
      · exact ⟨lohi, le_refl _⟩
      · constructor <;> omega
  refine ⟨⟨?_, hb, ?_, ?_⟩, ?_⟩
  · intro h
    have : y = e := by
      show (if sat then _ else _) = e
      split
      · rw [if_neg (by have := h.1; exact not_lt.mpr this), if_neg (by have := h.2; exact not_lt.mpr this)]
      · rfl
    rw [← this]
    exact inr (by rw [this]; exact h)
  · intro h
    have : y = e := by show (if sat then _ else _) = e; rw [h]; rfl
    rw [← this]
    exact hr
  · intro h
    rw [inr (ysat h)]
    constructor
    · intro c
      show (if sat then _ else _) = _
      rw [h, if_pos rfl, if_pos c]
    · intro c
      show (if sat then _ else _) = _
      rw [h, if_pos rfl, if_neg (by have : lo ≤ hi := lohi; exact not_lt.mpr (le_of_lt (lt_of_le_of_lt this c))), if_pos c]
  · cases hs : sat
    · simp
    · rw [inr (ysat hs)]
      simp

/-- What an integer instruction's value holds, lane by lane. -/
theorem intLanes_ok (t : Nat) (sat : Bool) (e : Nat → Int) :
    IntLanes t sat e (mkLanesF (tyN t) (tyW t) fun i => fitInt sat (tySigned t) (tyW t) (e i)).1
      (mkLanesF (tyN t) (tyW t) fun i => fitInt sat (tySigned t) (tyW t) (e i)).2 := by
  obtain ⟨⟨h1, h2⟩, h3⟩ := mkLanesF_lanes (tyN t) (tyW t) (fun i => fitInt sat (tySigned t) (tyW t) (e i)) (ty_fits t)
  have hf := fun k => fitInt_fits sat (tySigned t) (tyW t) (e k) (tyW_pos t)
  have key : ∀ k, k < tyN t → laneInt (tySigned t) (tyW t) (lane (tyW t)
      (mkLanesF (tyN t) (tyW t) fun i => fitInt sat (tySigned t) (tyW t) (e i)).1 k) =
      laneInt (tySigned t) (tyW t) ((fitInt sat (tySigned t) (tyW t) (e k)).1 % 2 ^ tyW t) := fun k hk => by rw [h1 k hk]
  refine ⟨fun k hk => by rw [key k hk]; exact (hf k).1, h2, ?_⟩
  generalize hF : (mkLanesF (tyN t) (tyW t) fun i => fitInt sat (tySigned t) (tyW t) (e i)) = F at *
  have flag : ∀ k, (fitInt sat (tySigned t) (tyW t) (e k)).2 = 0 ∨ (fitInt sat (tySigned t) (tyW t) (e k)).2 = fSAT := by
    intro k
    rw [(hf k).2]
    split <;> simp
  split
  · rename_i c
    obtain ⟨hs, k, hk, hne⟩ := c
    have hk2 : (fitInt sat (tySigned t) (tyW t) (e k)).2 = fSAT := by
      rw [(hf k).2, if_pos ⟨hs, by rw [← key k hk]; exact hne⟩]
    apply BitVec.eq_of_getLsbD_eq
    intro b _
    rw [Bool.eq_iff_iff, h3 b]
    constructor
    · rintro ⟨j, _, hj⟩
      rcases flag j with f | f
      · rw [f] at hj; simp at hj
      · rw [f] at hj; exact hj
    · intro h
      exact ⟨k, hk, by rw [hk2]; exact h⟩
  · rename_i c
    apply BitVec.eq_of_getLsbD_eq
    intro b _
    rw [Bool.eq_iff_iff, h3 b]
    constructor
    · rintro ⟨j, hj, hb⟩
      rw [(hf j).2] at hb
      split at hb
      · rename_i d
        exact absurd ⟨d.1, j, hj, by rw [key j hj]; exact d.2⟩ c
      · simp at hb
    · intro h; simp at h

/-- Integer lanes that never saturate set no flag. -/
theorem intLanes_noSat {t : Nat} {e : Nat → Int} {x : Word} {fl : Flags} (h : IntLanes t false e x fl) : fl = 0 := by
  simpa using h.2.2

end Sys2Proof
end

