-- ==== Sys2Proof/Laws/Links.lean ====
section
/-!
SUPPORT. Frames between dies: what the bits of a frame hold, and what its receiver's check accepts (R397, R402).
-/
open Sys2Proof Sys2Proof.Machine

namespace Sys2Proof.Laws.Links

/-- A CRC has 32 bits. -/
theorem crc32_lt (n x acc : Nat) (h : acc < 2 ^ 32) : crc32 n x acc < 2 ^ 32 := by
  induction n generalizing x acc with
  | zero => exact h
  | succ n ih =>
    refine ih _ _ ?_
    have hs : acc % 2 ^ 31 * 2 < 2 ^ 32 := by omega
    split
    · exact Nat.xor_lt_two_pow hs (by norm_num)
    · exact hs

/-- A row of numbers put side by side, 256 bits to each. -/
theorem sideBySide (l : List Nat) (h : ∀ x ∈ l, x < 2 ^ 256) (a : Nat) :
    ∃ r, r < 2 ^ (256 * l.length) ∧ l.foldl (fun acc x => acc * 2 ^ 256 + x) a = a * 2 ^ (256 * l.length) + r := by
  induction l generalizing a with
  | nil => exact ⟨0, by simp⟩
  | cons x l ih =>
    obtain ⟨r, hr, he⟩ := ih (fun y hy => h y (by simp [hy])) (a * 2 ^ 256 + x)
    have hx := h x (by simp)
    have hp : (2 : Nat) ^ (256 * (l.length + 1)) = 2 ^ 256 * 2 ^ (256 * l.length) := by rw [← pow_add]; congr 1; omega
    refine ⟨x * 2 ^ (256 * l.length) + r, ?_, ?_⟩
    · rw [List.length_cons, hp]
      nlinarith [Nat.mul_le_mul_right (2 ^ (256 * l.length)) (Nat.succ_le_of_lt hx)]
    · rw [List.foldl_cons, he, List.length_cons, hp]; ring

/-- A sum of multiples is a multiple. -/
theorem dvd_foldl_add {α : Type} (l : List α) (f : α → Nat) (d a : Nat) (ha : d ∣ a) (h : ∀ x, d ∣ f x) :
    d ∣ l.foldl (fun n x => n + f x) a := by
  induction l generalizing a with
  | nil => exact ha
  | cons x l ih => exact ih _ (Nat.dvd_add ha (h x))

/-- The CRC field of a control flit that has just been made is 0. -/
theorem controlFlit_crc (q : BitVec 12) (l : List Nat) (rv : Chan) : 2 ^ 32 ∣ controlFlit q l rv := by
  have h : ∀ (x k : Nat), 32 ≤ k → 2 ^ 32 ∣ x * 2 ^ k := fun x k hk => Dvd.dvd.mul_left (pow_dvd_pow 2 hk) x
  have h1 : 2 ^ 32 ∣ ((List.range l.length).zip l).foldl (fun n p => n + p.2 % 16 * 2 ^ (4 * (p.1 + 1) + 166)) 0 :=
    dvd_foldl_add _ (fun p : Nat × Nat => p.2 % 16 * 2 ^ (4 * (p.1 + 1) + 166)) _ _ (Nat.dvd_zero _) fun x => h _ _ (by omega)
  have h2 := dvd_foldl_add (List.range 4) (fun j : Nat => (match rv.returns[j]? with | some (k, sh, x) => k * 1024 + sh * 512 + x % 512 | none => 15 * 1024) *
      2 ^ (14 * j + 114)) (2 ^ 32) 0 (Nat.dvd_zero _) fun x => h _ _ (by omega)
  exact Nat.dvd_add (Nat.dvd_add (Nat.dvd_add (Nat.dvd_add (Nat.dvd_add (h q.toNat 244 (by omega)) (h (rv.rseq - 1).toNat 232 (by omega)))
    (h rv.nak.toNat 231 (by omega))) (h rv.any_.toNat 230 (by omega))) h1) h2

/-- A frame is its body, whose CRC field is 0, and the CRC of the body in that field. -/
theorem frameBits_eq (f : Frame) (rv : Chan) (h : f.flits.length ≤ 15) :
    ∃ a r, r < 2 ^ (256 * 15) ∧ frameBits f rv = a * 2 ^ 32 * 2 ^ (256 * 15) + r +
      crc32 4096 (a * 2 ^ 32 * 2 ^ (256 * 15) + r) 0xFFFFFFFF * 2 ^ (256 * 15) := by
  obtain ⟨a, ha⟩ := controlFlit_crc f.seq (f.flits.map (·.1)) rv
  have hp : ∀ x ∈ (f.flits.map fun p : Nat × Nat => p.2 % 2 ^ 256) ++ List.replicate (15 - f.flits.length) 0, x < 2 ^ 256 := by
    intro x hx
    rcases List.mem_append.mp hx with hx | hx
    · obtain ⟨p, -, rfl⟩ := List.mem_map.mp hx; exact Nat.mod_lt _ (by positivity)
    · rw [List.eq_of_mem_replicate hx]; positivity
  have hl : ((f.flits.map fun p : Nat × Nat => p.2 % 2 ^ 256) ++ List.replicate (15 - f.flits.length) 0).length = 15 := by
    rw [List.length_append, List.length_map, List.length_replicate]; omega
  obtain ⟨r, hr, he⟩ := sideBySide _ hp (controlFlit f.seq (f.flits.map (·.1)) rv)
  rw [hl] at hr he
  rw [ha, Nat.mul_comm (2 ^ 32) a] at he
  refine ⟨a, r, hr, ?_⟩
  unfold frameBits
  simp only []
  rw [List.foldl_cons, Nat.zero_mul, Nat.zero_add, ha, Nat.mul_comm (2 ^ 32) a, he]

/-- What the receiver compares: the CRC of the body, and the field. -/
theorem frameOk_eq (D a r c : Nat) (hD : D = 2 ^ (256 * 15)) (hr : r < D) (hc : c < 2 ^ 32) :
    frameOk (a * 2 ^ 32 * D + r + c * D) = (crc32 4096 (a * 2 ^ 32 * D + r) 0xFFFFFFFF == c) := by
  have h1 : (a * 2 ^ 32 * D + r + c * D) / D = a * 2 ^ 32 + c := by
    rw [show a * 2 ^ 32 * D + r + c * D = r + D * (a * 2 ^ 32 + c) by ring, Nat.add_mul_div_left _ _ (by omega), Nat.div_eq_of_lt hr, Nat.zero_add]
  have h2 : fld (a * 2 ^ 32 * D + r + c * D) (256 * 15) 32 = c := by
    unfold fld
    rw [← hD, h1]; omega
  unfold frameOk
  simp only []
  rw [h2, ← hD, Nat.add_sub_cancel]

/-- The receiver accepts a frame that comes as it was sent. -/
theorem frameOk_frameBits (f : Frame) (rv : Chan) (h : f.flits.length ≤ 15) : frameOk (frameBits f rv) = true := by
  obtain ⟨a, r, hr, he⟩ := frameBits_eq f rv h
  rw [he, frameOk_eq _ a r _ rfl hr (crc32_lt _ _ _ (by omega))]
  exact beq_self_eq_true _

/-- The lowest bit above the rest of a number is flipped. -/
theorem flip_bit (k m r : Nat) (hk : r < 2 ^ k) : (m * 2 ^ k + r) ^^^ 2 ^ k = (m ^^^ 1) * 2 ^ k + r := by
  apply Nat.eq_of_testBit_eq
  intro i
  have e : ∀ n, (n * 2 ^ k + r).testBit i = if i < k then r.testBit i else n.testBit (i - k) := by
    intro n; rw [Nat.mul_comm, Nat.testBit_two_pow_mul_add _ hk]
  rw [Nat.testBit_xor, e, e, Nat.testBit_two_pow]
  split
  · rw [decide_eq_false (by omega), Bool.xor_false]
  · rw [Nat.testBit_xor, show (1 : Nat) = 2 ^ 0 from rfl, Nat.testBit_two_pow]
    rw [show decide (k = i) = decide (0 = i - k) from decide_eq_decide.mpr (by omega)]

/-- It does not accept one whose CRC comes with its lowest bit flipped. -/
theorem frameOk_flipped (f : Frame) (rv : Chan) (h : f.flits.length ≤ 15) : frameOk (frameBits f rv ^^^ 2 ^ (256 * 15)) = false := by
  obtain ⟨a, r, hr, he⟩ := frameBits_eq f rv h
  have hc := crc32_lt 4096 (a * 2 ^ 32 * 2 ^ (256 * 15) + r) 0xFFFFFFFF (by omega)
  rw [he]
  generalize hcc : crc32 4096 (a * 2 ^ 32 * 2 ^ (256 * 15) + r) 0xFFFFFFFF = c at hc ⊢
  have hodd : c ^^^ 1 < 2 ^ 32 := Nat.xor_lt_two_pow hc (by norm_num)
  have hm : (a * 2 ^ 32 + c) ^^^ 1 = a * 2 ^ 32 + (c ^^^ 1) := by
    apply Nat.eq_of_testBit_eq
    intro i
    rw [Nat.testBit_xor, Nat.mul_comm, Nat.testBit_two_pow_mul_add _ hc, Nat.testBit_two_pow_mul_add _ hodd,
      show (1 : Nat) = 2 ^ 0 from rfl, Nat.testBit_two_pow]
    split
    · rw [Nat.testBit_xor, Nat.testBit_two_pow]
    · rw [decide_eq_false (by omega), Bool.xor_false]
  rw [show a * 2 ^ 32 * 2 ^ (256 * 15) + r + c * 2 ^ (256 * 15) = (a * 2 ^ 32 + c) * 2 ^ (256 * 15) + r by ring, flip_bit _ _ _ hr, hm,
    show (a * 2 ^ 32 + (c ^^^ 1)) * 2 ^ (256 * 15) + r = a * 2 ^ 32 * 2 ^ (256 * 15) + r + (c ^^^ 1) * 2 ^ (256 * 15) by ring,
    frameOk_eq _ a r _ rfl hr hodd, hcc]
  have : c ≠ c ^^^ 1 := by
    intro h0
    have := congrArg (fun n => n.testBit 0) h0
    simp at this
    omega
  simpa using this

end Sys2Proof.Laws.Links
end

