-- ==== Sys2Proof/Laws/PerInstr.lean ====
section
/-!
SUPPORT. Statements made instruction by instruction. Encoding: the record written from an instruction's fields names that
instruction again, with every field as it was (R84, R85); a device event has no record.
-/
namespace Sys2Proof.Laws

def Encoding.Statement (i : Instr) : Prop := ∀ w, i.encode = some w → instrOfRecord w = some i

theorem encoding_of_none {i : Instr} (h : i.encode = none) : Encoding.Statement i := by
  intro w e
  rw [h] at e
  exact absurd e (by simp)

theorem encoding_of_some {i : Instr} {v : Rec96} (h : i.encode = some v) (e : instrOfRecord v = some i) :
    Encoding.Statement i := by
  intro w g
  rw [h] at g
  cases g
  exact e

theorem Encoding.id (r : D1) : Encoding.Statement (.id r) :=
  encoding_of_some rfl (by rw [instrOfRecord, D1.bits_op]; exact congrArg (fun x => some (Instr.id x)) (D1.ofRecord_bits _ r))

theorem Encoding.const (r : FC) : Encoding.Statement (.const r) :=
  encoding_of_some rfl (by rw [instrOfRecord, FC.bits_op]; exact congrArg (fun x => some (Instr.const x)) (FC.ofRecord_bits _ r))

theorem Encoding.sink (r : D1) : Encoding.Statement (.sink r) :=
  encoding_of_some rfl (by rw [instrOfRecord, D1.bits_op]; exact congrArg (fun x => some (Instr.sink x)) (D1.ofRecord_bits _ r))

theorem Encoding.steer (r : D2) : Encoding.Statement (.steer r) :=
  encoding_of_some rfl (by rw [instrOfRecord, D2.bits_op]; exact congrArg (fun x => some (Instr.steer x)) (D2.ofRecord_bits _ r))

theorem Encoding.merge (r : D2) : Encoding.Statement (.merge r) :=
  encoding_of_some rfl (by rw [instrOfRecord, D2.bits_op]; exact congrArg (fun x => some (Instr.merge x)) (D2.ofRecord_bits _ r))

theorem Encoding.mergeo (r : D2) : Encoding.Statement (.mergeo r) :=
  encoding_of_some rfl (by rw [instrOfRecord, D2.bits_op]; exact congrArg (fun x => some (Instr.mergeo x)) (D2.ofRecord_bits _ r))

theorem Encoding.gate (r : D2) : Encoding.Statement (.gate r) :=
  encoding_of_some rfl (by rw [instrOfRecord, D2.bits_op]; exact congrArg (fun x => some (Instr.gate x)) (D2.ofRecord_bits _ r))

theorem Encoding.pick (r : D2) : Encoding.Statement (.pick r) :=
  encoding_of_some rfl (by rw [instrOfRecord, D2.bits_op]; exact congrArg (fun x => some (Instr.pick x)) (D2.ofRecord_bits _ r))

theorem Encoding.rpt (r : D2) : Encoding.Statement (.rpt r) :=
  encoding_of_some rfl (by rw [instrOfRecord, D2.bits_op]; exact congrArg (fun x => some (Instr.rpt x)) (D2.ofRecord_bits _ r))

theorem Encoding.seq (r : D2) : Encoding.Statement (.seq r) :=
  encoding_of_some rfl (by rw [instrOfRecord, D2.bits_op]; exact congrArg (fun x => some (Instr.seq x)) (D2.ofRecord_bits _ r))

theorem Encoding.eodt (r : D2) : Encoding.Statement (.eodt r) :=
  encoding_of_some rfl (by rw [instrOfRecord, D2.bits_op]; exact congrArg (fun x => some (Instr.eodt x)) (D2.ofRecord_bits _ r))

theorem Encoding.eods (r : D2) : Encoding.Statement (.eods r) :=
  encoding_of_some rfl (by rw [instrOfRecord, D2.bits_op]; exact congrArg (fun x => some (Instr.eods x)) (D2.ofRecord_bits _ r))

theorem Encoding.pack2 (r : D2) : Encoding.Statement (.pack2 r) :=
  encoding_of_some rfl (by rw [instrOfRecord, D2.bits_op]; exact congrArg (fun x => some (Instr.pack2 x)) (D2.ofRecord_bits _ r))

theorem Encoding.unpk2 (r : D2) : Encoding.Statement (.unpk2 r) :=
  encoding_of_some rfl (by rw [instrOfRecord, D2.bits_op]; exact congrArg (fun x => some (Instr.unpk2 x)) (D2.ofRecord_bits _ r))

theorem Encoding.fanout (r : D2) : Encoding.Statement (.fanout r) :=
  encoding_of_some rfl (by rw [instrOfRecord, D2.bits_op]; exact congrArg (fun x => some (Instr.fanout x)) (D2.ofRecord_bits _ r))

theorem Encoding.falloc (r : D1) : Encoding.Statement (.falloc r) :=
  encoding_of_some rfl (by rw [instrOfRecord, D1.bits_op]; exact congrArg (fun x => some (Instr.falloc x)) (D1.ofRecord_bits _ r))

theorem Encoding.ffree (r : D1) : Encoding.Statement (.ffree r) :=
  encoding_of_some rfl (by rw [instrOfRecord, D1.bits_op]; exact congrArg (fun x => some (Instr.ffree x)) (D1.ofRecord_bits _ r))

theorem Encoding.iter (r : D2) : Encoding.Statement (.iter r) :=
  encoding_of_some rfl (by rw [instrOfRecord, D2.bits_op]; exact congrArg (fun x => some (Instr.iter x)) (D2.ofRecord_bits _ r))

theorem Encoding.leave (r : D2) : Encoding.Statement (.leave r) :=
  encoding_of_some rfl (by rw [instrOfRecord, D2.bits_op]; exact congrArg (fun x => some (Instr.leave x)) (D2.ofRecord_bits _ r))

theorem Encoding.call (r : D2) : Encoding.Statement (.call r) :=
  encoding_of_some rfl (by rw [instrOfRecord, D2.bits_op]; exact congrArg (fun x => some (Instr.call x)) (D2.ofRecord_bits _ r))

theorem Encoding.ret (r : D1) : Encoding.Statement (.ret r) :=
  encoding_of_some rfl (by rw [instrOfRecord, D1.bits_op]; exact congrArg (fun x => some (Instr.ret x)) (D1.ofRecord_bits _ r))

theorem Encoding.ldfx (r : D1) : Encoding.Statement (.ldfx r) :=
  encoding_of_some rfl (by rw [instrOfRecord, D1.bits_op]; exact congrArg (fun x => some (Instr.ldfx x)) (D1.ofRecord_bits _ r))

theorem Encoding.stfx (r : D1) : Encoding.Statement (.stfx r) :=
  encoding_of_some rfl (by rw [instrOfRecord, D1.bits_op]; exact congrArg (fun x => some (Instr.stfx x)) (D1.ofRecord_bits _ r))

theorem Encoding.loopin (r : D2) : Encoding.Statement (.loopin r) :=
  encoding_of_some rfl (by rw [instrOfRecord, D2.bits_op]; exact congrArg (fun x => some (Instr.loopin x)) (D2.ofRecord_bits _ r))

theorem Encoding.loopout (r : D2) : Encoding.Statement (.loopout r) :=
  encoding_of_some rfl (by rw [instrOfRecord, D2.bits_op]; exact congrArg (fun x => some (Instr.loopout x)) (D2.ofRecord_bits _ r))

theorem Encoding.spawn (r : D1) : Encoding.Statement (.spawn r) :=
  encoding_of_some rfl (by rw [instrOfRecord, D1.bits_op]; exact congrArg (fun x => some (Instr.spawn x)) (D1.ofRecord_bits _ r))

theorem Encoding.exitw (r : D1) : Encoding.Statement (.exitw r) :=
  encoding_of_some rfl (by rw [instrOfRecord, D1.bits_op]; exact congrArg (fun x => some (Instr.exitw x)) (D1.ofRecord_bits _ r))

theorem Encoding.wchk (r : D1) : Encoding.Statement (.wchk r) :=
  encoding_of_some rfl (by rw [instrOfRecord, D1.bits_op]; exact congrArg (fun x => some (Instr.wchk x)) (D1.ofRecord_bits _ r))

theorem Encoding.settag (r : D2) : Encoding.Statement (.settag r) :=
  encoding_of_some rfl (by rw [instrOfRecord, D2.bits_op]; exact congrArg (fun x => some (Instr.settag x)) (D2.ofRecord_bits _ r))

theorem Encoding.gettag (r : D1) : Encoding.Statement (.gettag r) :=
  encoding_of_some rfl (by rw [instrOfRecord, D1.bits_op]; exact congrArg (fun x => some (Instr.gettag x)) (D1.ofRecord_bits _ r))

theorem Encoding.fxinfo (r : D1) : Encoding.Statement (.fxinfo r) :=
  encoding_of_some rfl (by rw [instrOfRecord, D1.bits_op]; exact congrArg (fun x => some (Instr.fxinfo x)) (D1.ofRecord_bits _ r))

theorem Encoding.add (r : D2) : Encoding.Statement (.add r) :=
  encoding_of_some rfl (by rw [instrOfRecord, D2.bits_op]; exact congrArg (fun x => some (Instr.add x)) (D2.ofRecord_bits _ r))

theorem Encoding.sub (r : D2) : Encoding.Statement (.sub r) :=
  encoding_of_some rfl (by rw [instrOfRecord, D2.bits_op]; exact congrArg (fun x => some (Instr.sub x)) (D2.ofRecord_bits _ r))

theorem Encoding.mul (r : D2) : Encoding.Statement (.mul r) :=
  encoding_of_some rfl (by rw [instrOfRecord, D2.bits_op]; exact congrArg (fun x => some (Instr.mul x)) (D2.ofRecord_bits _ r))

theorem Encoding.mulh (r : D2) : Encoding.Statement (.mulh r) :=
  encoding_of_some rfl (by rw [instrOfRecord, D2.bits_op]; exact congrArg (fun x => some (Instr.mulh x)) (D2.ofRecord_bits _ r))

theorem Encoding.div (r : D2) : Encoding.Statement (.div r) :=
  encoding_of_some rfl (by rw [instrOfRecord, D2.bits_op]; exact congrArg (fun x => some (Instr.div x)) (D2.ofRecord_bits _ r))

theorem Encoding.rem (r : D2) : Encoding.Statement (.rem r) :=
  encoding_of_some rfl (by rw [instrOfRecord, D2.bits_op]; exact congrArg (fun x => some (Instr.rem x)) (D2.ofRecord_bits _ r))

theorem Encoding.min (r : D2) : Encoding.Statement (.min r) :=
  encoding_of_some rfl (by rw [instrOfRecord, D2.bits_op]; exact congrArg (fun x => some (Instr.min x)) (D2.ofRecord_bits _ r))

theorem Encoding.max (r : D2) : Encoding.Statement (.max r) :=
  encoding_of_some rfl (by rw [instrOfRecord, D2.bits_op]; exact congrArg (fun x => some (Instr.max x)) (D2.ofRecord_bits _ r))

theorem Encoding.abs (r : D2) : Encoding.Statement (.abs r) :=
  encoding_of_some rfl (by rw [instrOfRecord, D2.bits_op]; exact congrArg (fun x => some (Instr.abs x)) (D2.ofRecord_bits _ r))

theorem Encoding.neg (r : D2) : Encoding.Statement (.neg r) :=
  encoding_of_some rfl (by rw [instrOfRecord, D2.bits_op]; exact congrArg (fun x => some (Instr.neg x)) (D2.ofRecord_bits _ r))

theorem Encoding.addsat (r : D2) : Encoding.Statement (.addsat r) :=
  encoding_of_some rfl (by rw [instrOfRecord, D2.bits_op]; exact congrArg (fun x => some (Instr.addsat x)) (D2.ofRecord_bits _ r))

theorem Encoding.subsat (r : D2) : Encoding.Statement (.subsat r) :=
  encoding_of_some rfl (by rw [instrOfRecord, D2.bits_op]; exact congrArg (fun x => some (Instr.subsat x)) (D2.ofRecord_bits _ r))

theorem Encoding.avg (r : D2) : Encoding.Statement (.avg r) :=
  encoding_of_some rfl (by rw [instrOfRecord, D2.bits_op]; exact congrArg (fun x => some (Instr.avg x)) (D2.ofRecord_bits _ r))

theorem Encoding.cmp (r : D2) : Encoding.Statement (.cmp r) :=
  encoding_of_some rfl (by rw [instrOfRecord, D2.bits_op]; exact congrArg (fun x => some (Instr.cmp x)) (D2.ofRecord_bits _ r))

theorem Encoding.clamp (r : D2) : Encoding.Statement (.clamp r) :=
  encoding_of_some rfl (by rw [instrOfRecord, D2.bits_op]; exact congrArg (fun x => some (Instr.clamp x)) (D2.ofRecord_bits _ r))

theorem Encoding.widen (r : D2) : Encoding.Statement (.widen r) :=
  encoding_of_some rfl (by rw [instrOfRecord, D2.bits_op]; exact congrArg (fun x => some (Instr.widen x)) (D2.ofRecord_bits _ r))

theorem Encoding.and (r : D2) : Encoding.Statement (.and r) :=
  encoding_of_some rfl (by rw [instrOfRecord, D2.bits_op]; exact congrArg (fun x => some (Instr.and x)) (D2.ofRecord_bits _ r))

theorem Encoding.or (r : D2) : Encoding.Statement (.or r) :=
  encoding_of_some rfl (by rw [instrOfRecord, D2.bits_op]; exact congrArg (fun x => some (Instr.or x)) (D2.ofRecord_bits _ r))

theorem Encoding.xor (r : D2) : Encoding.Statement (.xor r) :=
  encoding_of_some rfl (by rw [instrOfRecord, D2.bits_op]; exact congrArg (fun x => some (Instr.xor x)) (D2.ofRecord_bits _ r))

theorem Encoding.andn (r : D2) : Encoding.Statement (.andn r) :=
  encoding_of_some rfl (by rw [instrOfRecord, D2.bits_op]; exact congrArg (fun x => some (Instr.andn x)) (D2.ofRecord_bits _ r))

theorem Encoding.not (r : D2) : Encoding.Statement (.not r) :=
  encoding_of_some rfl (by rw [instrOfRecord, D2.bits_op]; exact congrArg (fun x => some (Instr.not x)) (D2.ofRecord_bits _ r))

theorem Encoding.shl (r : D2) : Encoding.Statement (.shl r) :=
  encoding_of_some rfl (by rw [instrOfRecord, D2.bits_op]; exact congrArg (fun x => some (Instr.shl x)) (D2.ofRecord_bits _ r))

theorem Encoding.shr (r : D2) : Encoding.Statement (.shr r) :=
  encoding_of_some rfl (by rw [instrOfRecord, D2.bits_op]; exact congrArg (fun x => some (Instr.shr x)) (D2.ofRecord_bits _ r))

theorem Encoding.sra (r : D2) : Encoding.Statement (.sra r) :=
  encoding_of_some rfl (by rw [instrOfRecord, D2.bits_op]; exact congrArg (fun x => some (Instr.sra x)) (D2.ofRecord_bits _ r))

theorem Encoding.rotl (r : D2) : Encoding.Statement (.rotl r) :=
  encoding_of_some rfl (by rw [instrOfRecord, D2.bits_op]; exact congrArg (fun x => some (Instr.rotl x)) (D2.ofRecord_bits _ r))

theorem Encoding.clz (r : D2) : Encoding.Statement (.clz r) :=
  encoding_of_some rfl (by rw [instrOfRecord, D2.bits_op]; exact congrArg (fun x => some (Instr.clz x)) (D2.ofRecord_bits _ r))

theorem Encoding.ctz (r : D2) : Encoding.Statement (.ctz r) :=
  encoding_of_some rfl (by rw [instrOfRecord, D2.bits_op]; exact congrArg (fun x => some (Instr.ctz x)) (D2.ofRecord_bits _ r))

theorem Encoding.popc (r : D2) : Encoding.Statement (.popc r) :=
  encoding_of_some rfl (by rw [instrOfRecord, D2.bits_op]; exact congrArg (fun x => some (Instr.popc x)) (D2.ofRecord_bits _ r))

theorem Encoding.bext (r : D2) : Encoding.Statement (.bext r) :=
  encoding_of_some rfl (by rw [instrOfRecord, D2.bits_op]; exact congrArg (fun x => some (Instr.bext x)) (D2.ofRecord_bits _ r))

theorem Encoding.bins (r : D2) : Encoding.Statement (.bins r) :=
  encoding_of_some rfl (by rw [instrOfRecord, D2.bits_op]; exact congrArg (fun x => some (Instr.bins x)) (D2.ofRecord_bits _ r))

theorem Encoding.clmul (r : D2) : Encoding.Statement (.clmul r) :=
  encoding_of_some rfl (by rw [instrOfRecord, D2.bits_op]; exact congrArg (fun x => some (Instr.clmul x)) (D2.ofRecord_bits _ r))

theorem Encoding.pxor (r : D2) : Encoding.Statement (.pxor r) :=
  encoding_of_some rfl (by rw [instrOfRecord, D2.bits_op]; exact congrArg (fun x => some (Instr.pxor x)) (D2.ofRecord_bits _ r))

theorem Encoding.fadd (r : D2) : Encoding.Statement (.fadd r) :=
  encoding_of_some rfl (by rw [instrOfRecord, D2.bits_op]; exact congrArg (fun x => some (Instr.fadd x)) (D2.ofRecord_bits _ r))

theorem Encoding.fsub (r : D2) : Encoding.Statement (.fsub r) :=
  encoding_of_some rfl (by rw [instrOfRecord, D2.bits_op]; exact congrArg (fun x => some (Instr.fsub x)) (D2.ofRecord_bits _ r))

theorem Encoding.fmul (r : D2) : Encoding.Statement (.fmul r) :=
  encoding_of_some rfl (by rw [instrOfRecord, D2.bits_op]; exact congrArg (fun x => some (Instr.fmul x)) (D2.ofRecord_bits _ r))

theorem Encoding.fma (r : D2) : Encoding.Statement (.fma r) :=
  encoding_of_some rfl (by rw [instrOfRecord, D2.bits_op]; exact congrArg (fun x => some (Instr.fma x)) (D2.ofRecord_bits _ r))

theorem Encoding.fmin (r : D2) : Encoding.Statement (.fmin r) :=
  encoding_of_some rfl (by rw [instrOfRecord, D2.bits_op]; exact congrArg (fun x => some (Instr.fmin x)) (D2.ofRecord_bits _ r))

theorem Encoding.fmax (r : D2) : Encoding.Statement (.fmax r) :=
  encoding_of_some rfl (by rw [instrOfRecord, D2.bits_op]; exact congrArg (fun x => some (Instr.fmax x)) (D2.ofRecord_bits _ r))

theorem Encoding.fabs (r : D2) : Encoding.Statement (.fabs r) :=
  encoding_of_some rfl (by rw [instrOfRecord, D2.bits_op]; exact congrArg (fun x => some (Instr.fabs x)) (D2.ofRecord_bits _ r))

theorem Encoding.fneg (r : D2) : Encoding.Statement (.fneg r) :=
  encoding_of_some rfl (by rw [instrOfRecord, D2.bits_op]; exact congrArg (fun x => some (Instr.fneg x)) (D2.ofRecord_bits _ r))

theorem Encoding.fcmp (r : D2) : Encoding.Statement (.fcmp r) :=
  encoding_of_some rfl (by rw [instrOfRecord, D2.bits_op]; exact congrArg (fun x => some (Instr.fcmp x)) (D2.ofRecord_bits _ r))

theorem Encoding.fdiv (r : D2) : Encoding.Statement (.fdiv r) :=
  encoding_of_some rfl (by rw [instrOfRecord, D2.bits_op]; exact congrArg (fun x => some (Instr.fdiv x)) (D2.ofRecord_bits _ r))

theorem Encoding.fsqrt (r : D2) : Encoding.Statement (.fsqrt r) :=
  encoding_of_some rfl (by rw [instrOfRecord, D2.bits_op]; exact congrArg (fun x => some (Instr.fsqrt x)) (D2.ofRecord_bits _ r))

theorem Encoding.frcp (r : D2) : Encoding.Statement (.frcp r) :=
  encoding_of_some rfl (by rw [instrOfRecord, D2.bits_op]; exact congrArg (fun x => some (Instr.frcp x)) (D2.ofRecord_bits _ r))

theorem Encoding.frsqrt (r : D2) : Encoding.Statement (.frsqrt r) :=
  encoding_of_some rfl (by rw [instrOfRecord, D2.bits_op]; exact congrArg (fun x => some (Instr.frsqrt x)) (D2.ofRecord_bits _ r))

theorem Encoding.frnd (r : D2) : Encoding.Statement (.frnd r) :=
  encoding_of_some rfl (by rw [instrOfRecord, D2.bits_op]; exact congrArg (fun x => some (Instr.frnd x)) (D2.ofRecord_bits _ r))

theorem Encoding.fclass (r : D2) : Encoding.Statement (.fclass r) :=
  encoding_of_some rfl (by rw [instrOfRecord, D2.bits_op]; exact congrArg (fun x => some (Instr.fclass x)) (D2.ofRecord_bits _ r))

theorem Encoding.fcsgn (r : D2) : Encoding.Statement (.fcsgn r) :=
  encoding_of_some rfl (by rw [instrOfRecord, D2.bits_op]; exact congrArg (fun x => some (Instr.fcsgn x)) (D2.ofRecord_bits _ r))

theorem Encoding.cvt (r : D2) : Encoding.Statement (.cvt r) :=
  encoding_of_some rfl (by rw [instrOfRecord, D2.bits_op]; exact congrArg (fun x => some (Instr.cvt x)) (D2.ofRecord_bits _ r))

theorem Encoding.cvtfi (r : D2) : Encoding.Statement (.cvtfi r) :=
  encoding_of_some rfl (by rw [instrOfRecord, D2.bits_op]; exact congrArg (fun x => some (Instr.cvtfi x)) (D2.ofRecord_bits _ r))

theorem Encoding.cvtif (r : D2) : Encoding.Statement (.cvtif r) :=
  encoding_of_some rfl (by rw [instrOfRecord, D2.bits_op]; exact congrArg (fun x => some (Instr.cvtif x)) (D2.ofRecord_bits _ r))

theorem Encoding.cvtsr (r : D2) : Encoding.Statement (.cvtsr r) :=
  encoding_of_some rfl (by rw [instrOfRecord, D2.bits_op]; exact congrArg (fun x => some (Instr.cvtsr x)) (D2.ofRecord_bits _ r))

theorem Encoding.vswap2 (r : D2) : Encoding.Statement (.vswap2 r) :=
  encoding_of_some rfl (by rw [instrOfRecord, D2.bits_op]; exact congrArg (fun x => some (Instr.vswap2 x)) (D2.ofRecord_bits _ r))

theorem Encoding.vperm (r : D2) : Encoding.Statement (.vperm r) :=
  encoding_of_some rfl (by rw [instrOfRecord, D2.bits_op]; exact congrArg (fun x => some (Instr.vperm x)) (D2.ofRecord_bits _ r))

theorem Encoding.vbcast (r : D2) : Encoding.Statement (.vbcast r) :=
  encoding_of_some rfl (by rw [instrOfRecord, D2.bits_op]; exact congrArg (fun x => some (Instr.vbcast x)) (D2.ofRecord_bits _ r))

theorem Encoding.vins (r : D2) : Encoding.Statement (.vins r) :=
  encoding_of_some rfl (by rw [instrOfRecord, D2.bits_op]; exact congrArg (fun x => some (Instr.vins x)) (D2.ofRecord_bits _ r))

theorem Encoding.vext (r : D2) : Encoding.Statement (.vext r) :=
  encoding_of_some rfl (by rw [instrOfRecord, D2.bits_op]; exact congrArg (fun x => some (Instr.vext x)) (D2.ofRecord_bits _ r))

theorem Encoding.vpack (r : D2) : Encoding.Statement (.vpack r) :=
  encoding_of_some rfl (by rw [instrOfRecord, D2.bits_op]; exact congrArg (fun x => some (Instr.vpack x)) (D2.ofRecord_bits _ r))

theorem Encoding.vunpk (r : D2) : Encoding.Statement (.vunpk r) :=
  encoding_of_some rfl (by rw [instrOfRecord, D2.bits_op]; exact congrArg (fun x => some (Instr.vunpk x)) (D2.ofRecord_bits _ r))

theorem Encoding.vsum (r : D2) : Encoding.Statement (.vsum r) :=
  encoding_of_some rfl (by rw [instrOfRecord, D2.bits_op]; exact congrArg (fun x => some (Instr.vsum x)) (D2.ofRecord_bits _ r))

theorem Encoding.vmask (r : D2) : Encoding.Statement (.vmask r) :=
  encoding_of_some rfl (by rw [instrOfRecord, D2.bits_op]; exact congrArg (fun x => some (Instr.vmask x)) (D2.ofRecord_bits _ r))

theorem Encoding.vsel (r : D2) : Encoding.Statement (.vsel r) :=
  encoding_of_some rfl (by rw [instrOfRecord, D2.bits_op]; exact congrArg (fun x => some (Instr.vsel x)) (D2.ofRecord_bits _ r))

theorem Encoding.vbcmp (r : D2) : Encoding.Statement (.vbcmp r) :=
  encoding_of_some rfl (by rw [instrOfRecord, D2.bits_op]; exact congrArg (fun x => some (Instr.vbcmp x)) (D2.ofRecord_bits _ r))

theorem Encoding.vdot (r : D2) : Encoding.Statement (.vdot r) :=
  encoding_of_some rfl (by rw [instrOfRecord, D2.bits_op]; exact congrArg (fun x => some (Instr.vdot x)) (D2.ofRecord_bits _ r))

theorem Encoding.fsin (r : D2) : Encoding.Statement (.fsin r) :=
  encoding_of_some rfl (by rw [instrOfRecord, D2.bits_op]; exact congrArg (fun x => some (Instr.fsin x)) (D2.ofRecord_bits _ r))

theorem Encoding.fcos (r : D2) : Encoding.Statement (.fcos r) :=
  encoding_of_some rfl (by rw [instrOfRecord, D2.bits_op]; exact congrArg (fun x => some (Instr.fcos x)) (D2.ofRecord_bits _ r))

theorem Encoding.fsincos (r : D2) : Encoding.Statement (.fsincos r) :=
  encoding_of_some rfl (by rw [instrOfRecord, D2.bits_op]; exact congrArg (fun x => some (Instr.fsincos x)) (D2.ofRecord_bits _ r))

theorem Encoding.fexp2 (r : D2) : Encoding.Statement (.fexp2 r) :=
  encoding_of_some rfl (by rw [instrOfRecord, D2.bits_op]; exact congrArg (fun x => some (Instr.fexp2 x)) (D2.ofRecord_bits _ r))

theorem Encoding.flog2 (r : D2) : Encoding.Statement (.flog2 r) :=
  encoding_of_some rfl (by rw [instrOfRecord, D2.bits_op]; exact congrArg (fun x => some (Instr.flog2 x)) (D2.ofRecord_bits _ r))

theorem Encoding.fexp (r : D2) : Encoding.Statement (.fexp r) :=
  encoding_of_some rfl (by rw [instrOfRecord, D2.bits_op]; exact congrArg (fun x => some (Instr.fexp x)) (D2.ofRecord_bits _ r))

theorem Encoding.ftanh (r : D2) : Encoding.Statement (.ftanh r) :=
  encoding_of_some rfl (by rw [instrOfRecord, D2.bits_op]; exact congrArg (fun x => some (Instr.ftanh x)) (D2.ofRecord_bits _ r))

theorem Encoding.fsigm (r : D2) : Encoding.Statement (.fsigm r) :=
  encoding_of_some rfl (by rw [instrOfRecord, D2.bits_op]; exact congrArg (fun x => some (Instr.fsigm x)) (D2.ofRecord_bits _ r))

theorem Encoding.lut6 (r : D2) : Encoding.Statement (.lut6 r) :=
  encoding_of_some rfl (by rw [instrOfRecord, D2.bits_op]; exact congrArg (fun x => some (Instr.lut6 x)) (D2.ofRecord_bits _ r))

theorem Encoding.lutsm (r : D2) : Encoding.Statement (.lutsm r) :=
  encoding_of_some rfl (by rw [instrOfRecord, D2.bits_op]; exact congrArg (fun x => some (Instr.lutsm x)) (D2.ofRecord_bits _ r))

theorem Encoding.lutld (r : D2) : Encoding.Statement (.lutld r) :=
  encoding_of_some rfl (by rw [instrOfRecord, D2.bits_op]; exact congrArg (fun x => some (Instr.lutld x)) (D2.ofRecord_bits _ r))

theorem Encoding.hash64 (r : D2) : Encoding.Statement (.hash64 r) :=
  encoding_of_some rfl (by rw [instrOfRecord, D2.bits_op]; exact congrArg (fun x => some (Instr.hash64 x)) (D2.ofRecord_bits _ r))

theorem Encoding.tmma (r : FT) : Encoding.Statement (.tmma r) :=
  encoding_of_some rfl (by rw [instrOfRecord, FT.bits_op]; exact congrArg (fun x => some (Instr.tmma x)) (FT.ofRecord_bits _ r))

theorem Encoding.tacc (r : FT) : Encoding.Statement (.tacc r) :=
  encoding_of_some rfl (by rw [instrOfRecord, FT.bits_op]; exact congrArg (fun x => some (Instr.tacc x)) (FT.ofRecord_bits _ r))

theorem Encoding.tld (r : FT) : Encoding.Statement (.tld r) :=
  encoding_of_some rfl (by rw [instrOfRecord, FT.bits_op]; exact congrArg (fun x => some (Instr.tld x)) (FT.ofRecord_bits _ r))

theorem Encoding.tst (r : FT) : Encoding.Statement (.tst r) :=
  encoding_of_some rfl (by rw [instrOfRecord, FT.bits_op]; exact congrArg (fun x => some (Instr.tst x)) (FT.ofRecord_bits _ r))

theorem Encoding.tadd (r : FT) : Encoding.Statement (.tadd r) :=
  encoding_of_some rfl (by rw [instrOfRecord, FT.bits_op]; exact congrArg (fun x => some (Instr.tadd x)) (FT.ofRecord_bits _ r))

theorem Encoding.tmul (r : FT) : Encoding.Statement (.tmul r) :=
  encoding_of_some rfl (by rw [instrOfRecord, FT.bits_op]; exact congrArg (fun x => some (Instr.tmul x)) (FT.ofRecord_bits _ r))

theorem Encoding.tmax (r : FT) : Encoding.Statement (.tmax r) :=
  encoding_of_some rfl (by rw [instrOfRecord, FT.bits_op]; exact congrArg (fun x => some (Instr.tmax x)) (FT.ofRecord_bits _ r))

theorem Encoding.tscale (r : FT) : Encoding.Statement (.tscale r) :=
  encoding_of_some rfl (by rw [instrOfRecord, FT.bits_op]; exact congrArg (fun x => some (Instr.tscale x)) (FT.ofRecord_bits _ r))

theorem Encoding.texp (r : FT) : Encoding.Statement (.texp r) :=
  encoding_of_some rfl (by rw [instrOfRecord, FT.bits_op]; exact congrArg (fun x => some (Instr.texp x)) (FT.ofRecord_bits _ r))

theorem Encoding.tred (r : FT) : Encoding.Statement (.tred r) :=
  encoding_of_some rfl (by rw [instrOfRecord, FT.bits_op]; exact congrArg (fun x => some (Instr.tred x)) (FT.ofRecord_bits _ r))

theorem Encoding.ttrans (r : FT) : Encoding.Statement (.ttrans r) :=
  encoding_of_some rfl (by rw [instrOfRecord, FT.bits_op]; exact congrArg (fun x => some (Instr.ttrans x)) (FT.ofRecord_bits _ r))

theorem Encoding.tcvt (r : FT) : Encoding.Statement (.tcvt r) :=
  encoding_of_some rfl (by rw [instrOfRecord, FT.bits_op]; exact congrArg (fun x => some (Instr.tcvt x)) (FT.ofRecord_bits _ r))

theorem Encoding.tfill (r : FT) : Encoding.Statement (.tfill r) :=
  encoding_of_some rfl (by rw [instrOfRecord, FT.bits_op]; exact congrArg (fun x => some (Instr.tfill x)) (FT.ofRecord_bits _ r))

theorem Encoding.tcmpb (r : FT) : Encoding.Statement (.tcmpb r) :=
  encoding_of_some rfl (by rw [instrOfRecord, FT.bits_op]; exact congrArg (fun x => some (Instr.tcmpb x)) (FT.ofRecord_bits _ r))

theorem Encoding.tbias (r : FT) : Encoding.Statement (.tbias r) :=
  encoding_of_some rfl (by rw [instrOfRecord, FT.bits_op]; exact congrArg (fun x => some (Instr.tbias x)) (FT.ofRecord_bits _ r))

theorem Encoding.tzero (r : FT) : Encoding.Statement (.tzero r) :=
  encoding_of_some rfl (by rw [instrOfRecord, FT.bits_op]; exact congrArg (fun x => some (Instr.tzero x)) (FT.ofRecord_bits _ r))

theorem Encoding.tgath (r : FT) : Encoding.Statement (.tgath r) :=
  encoding_of_some rfl (by rw [instrOfRecord, FT.bits_op]; exact congrArg (fun x => some (Instr.tgath x)) (FT.ofRecord_bits _ r))

theorem Encoding.tscat (r : FT) : Encoding.Statement (.tscat r) :=
  encoding_of_some rfl (by rw [instrOfRecord, FT.bits_op]; exact congrArg (fun x => some (Instr.tscat x)) (FT.ofRecord_bits _ r))

theorem Encoding.tcopy (r : FT) : Encoding.Statement (.tcopy r) :=
  encoding_of_some rfl (by rw [instrOfRecord, FT.bits_op]; exact congrArg (fun x => some (Instr.tcopy x)) (FT.ofRecord_bits _ r))

theorem Encoding.tslice (r : FT) : Encoding.Statement (.tslice r) :=
  encoding_of_some rfl (by rw [instrOfRecord, FT.bits_op]; exact congrArg (fun x => some (Instr.tslice x)) (FT.ofRecord_bits _ r))

theorem Encoding.href (r : D2) : Encoding.Statement (.href r) :=
  encoding_of_some rfl (by rw [instrOfRecord, D2.bits_op]; exact congrArg (fun x => some (Instr.href x)) (D2.ofRecord_bits _ r))

theorem Encoding.hdrop (r : D2) : Encoding.Statement (.hdrop r) :=
  encoding_of_some rfl (by rw [instrOfRecord, D2.bits_op]; exact congrArg (fun x => some (Instr.hdrop x)) (D2.ofRecord_bits _ r))

theorem Encoding.halloc (r : D2) : Encoding.Statement (.halloc r) :=
  encoding_of_some rfl (by rw [instrOfRecord, D2.bits_op]; exact congrArg (fun x => some (Instr.halloc x)) (D2.ofRecord_bits _ r))

theorem Encoding.hinfo (r : D2) : Encoding.Statement (.hinfo r) :=
  encoding_of_some rfl (by rw [instrOfRecord, D2.bits_op]; exact congrArg (fun x => some (Instr.hinfo x)) (D2.ofRecord_bits _ r))

theorem Encoding.tget (r : D2) : Encoding.Statement (.tget r) :=
  encoding_of_some rfl (by rw [instrOfRecord, D2.bits_op]; exact congrArg (fun x => some (Instr.tget x)) (D2.ofRecord_bits _ r))

theorem Encoding.tset (r : D2) : Encoding.Statement (.tset r) :=
  encoding_of_some rfl (by rw [instrOfRecord, D2.bits_op]; exact congrArg (fun x => some (Instr.tset x)) (D2.ofRecord_bits _ r))

theorem Encoding.tfull (r : D2) : Encoding.Statement (.tfull r) :=
  encoding_of_some rfl (by rw [instrOfRecord, D2.bits_op]; exact congrArg (fun x => some (Instr.tfull x)) (D2.ofRecord_bits _ r))

theorem Encoding.tempty (r : D2) : Encoding.Statement (.tempty r) :=
  encoding_of_some rfl (by rw [instrOfRecord, D2.bits_op]; exact congrArg (fun x => some (Instr.tempty x)) (D2.ofRecord_bits _ r))

theorem Encoding.ld (r : FM) : Encoding.Statement (.ld r) :=
  encoding_of_some rfl (by rw [instrOfRecord, FM.bits_op]; exact congrArg (fun x => some (Instr.ld x)) (FM.ofRecord_bits _ r))

theorem Encoding.st (r : FM) : Encoding.Statement (.st r) :=
  encoding_of_some rfl (by rw [instrOfRecord, FM.bits_op]; exact congrArg (fun x => some (Instr.st x)) (FM.ofRecord_bits _ r))

theorem Encoding.ldn (r : FM) : Encoding.Statement (.ldn r) :=
  encoding_of_some rfl (by rw [instrOfRecord, FM.bits_op]; exact congrArg (fun x => some (Instr.ldn x)) (FM.ofRecord_bits _ r))

theorem Encoding.stn (r : FM) : Encoding.Statement (.stn r) :=
  encoding_of_some rfl (by rw [instrOfRecord, FM.bits_op]; exact congrArg (fun x => some (Instr.stn x)) (FM.ofRecord_bits _ r))

theorem Encoding.ild (r : FM) : Encoding.Statement (.ild r) :=
  encoding_of_some rfl (by rw [instrOfRecord, FM.bits_op]; exact congrArg (fun x => some (Instr.ild x)) (FM.ofRecord_bits _ r))

theorem Encoding.ist (r : FM) : Encoding.Statement (.ist r) :=
  encoding_of_some rfl (by rw [instrOfRecord, FM.bits_op]; exact congrArg (fun x => some (Instr.ist x)) (FM.ofRecord_bits _ r))

theorem Encoding.iclr (r : FM) : Encoding.Statement (.iclr r) :=
  encoding_of_some rfl (by rw [instrOfRecord, FM.bits_op]; exact congrArg (fun x => some (Instr.iclr x)) (FM.ofRecord_bits _ r))

theorem Encoding.alr (r : FM) : Encoding.Statement (.alr r) :=
  encoding_of_some rfl (by rw [instrOfRecord, FM.bits_op]; exact congrArg (fun x => some (Instr.alr x)) (FM.ofRecord_bits _ r))

theorem Encoding.pref (r : FM) : Encoding.Statement (.pref r) :=
  encoding_of_some rfl (by rw [instrOfRecord, FM.bits_op]; exact congrArg (fun x => some (Instr.pref x)) (FM.ofRecord_bits _ r))

theorem Encoding.ldsw (r : FM) : Encoding.Statement (.ldsw r) :=
  encoding_of_some rfl (by rw [instrOfRecord, FM.bits_op]; exact congrArg (fun x => some (Instr.ldsw x)) (FM.ofRecord_bits _ r))

theorem Encoding.swset (r : FM) : Encoding.Statement (.swset r) :=
  encoding_of_some rfl (by rw [instrOfRecord, FM.bits_op]; exact congrArg (fun x => some (Instr.swset x)) (FM.ofRecord_bits _ r))

theorem Encoding.wfence (r : FM) : Encoding.Statement (.wfence r) :=
  encoding_of_some rfl (by rw [instrOfRecord, FM.bits_op]; exact congrArg (fun x => some (Instr.wfence x)) (FM.ofRecord_bits _ r))

theorem Encoding.swadd (r : FM) : Encoding.Statement (.swadd r) :=
  encoding_of_some rfl (by rw [instrOfRecord, FM.bits_op]; exact congrArg (fun x => some (Instr.swadd x)) (FM.ofRecord_bits _ r))

theorem Encoding.cmbadd (r : D2) : Encoding.Statement (.cmbadd r) :=
  encoding_of_some rfl (by rw [instrOfRecord, D2.bits_op]; exact congrArg (fun x => some (Instr.cmbadd x)) (D2.ofRecord_bits _ r))

theorem Encoding.cmband (r : D2) : Encoding.Statement (.cmband r) :=
  encoding_of_some rfl (by rw [instrOfRecord, D2.bits_op]; exact congrArg (fun x => some (Instr.cmband x)) (D2.ofRecord_bits _ r))

theorem Encoding.cmbor (r : D2) : Encoding.Statement (.cmbor r) :=
  encoding_of_some rfl (by rw [instrOfRecord, D2.bits_op]; exact congrArg (fun x => some (Instr.cmbor x)) (D2.ofRecord_bits _ r))

theorem Encoding.cmbxor (r : D2) : Encoding.Statement (.cmbxor r) :=
  encoding_of_some rfl (by rw [instrOfRecord, D2.bits_op]; exact congrArg (fun x => some (Instr.cmbxor x)) (D2.ofRecord_bits _ r))

theorem Encoding.cmbmin (r : D2) : Encoding.Statement (.cmbmin r) :=
  encoding_of_some rfl (by rw [instrOfRecord, D2.bits_op]; exact congrArg (fun x => some (Instr.cmbmin x)) (D2.ofRecord_bits _ r))

theorem Encoding.cmbmax (r : D2) : Encoding.Statement (.cmbmax r) :=
  encoding_of_some rfl (by rw [instrOfRecord, D2.bits_op]; exact congrArg (fun x => some (Instr.cmbmax x)) (D2.ofRecord_bits _ r))

theorem Encoding.cmbfaddx (r : D2) : Encoding.Statement (.cmbfaddx r) :=
  encoding_of_some rfl (by rw [instrOfRecord, D2.bits_op]; exact congrArg (fun x => some (Instr.cmbfaddx x)) (D2.ofRecord_bits _ r))

theorem Encoding.cmbfmin (r : D2) : Encoding.Statement (.cmbfmin r) :=
  encoding_of_some rfl (by rw [instrOfRecord, D2.bits_op]; exact congrArg (fun x => some (Instr.cmbfmin x)) (D2.ofRecord_bits _ r))

theorem Encoding.cmbfmax (r : D2) : Encoding.Statement (.cmbfmax r) :=
  encoding_of_some rfl (by rw [instrOfRecord, D2.bits_op]; exact congrArg (fun x => some (Instr.cmbfmax x)) (D2.ofRecord_bits _ r))

theorem Encoding.cmbcnt (r : D2) : Encoding.Statement (.cmbcnt r) :=
  encoding_of_some rfl (by rw [instrOfRecord, D2.bits_op]; exact congrArg (fun x => some (Instr.cmbcnt x)) (D2.ofRecord_bits _ r))

theorem Encoding.cmbfadd (r : D2) : Encoding.Statement (.cmbfadd r) :=
  encoding_of_some rfl (by rw [instrOfRecord, D2.bits_op]; exact congrArg (fun x => some (Instr.cmbfadd x)) (D2.ofRecord_bits _ r))

theorem Encoding.cmbtacc (r : D2) : Encoding.Statement (.cmbtacc r) :=
  encoding_of_some rfl (by rw [instrOfRecord, D2.bits_op]; exact congrArg (fun x => some (Instr.cmbtacc x)) (D2.ofRecord_bits _ r))

theorem Encoding.qpush (r : D2) : Encoding.Statement (.qpush r) :=
  encoding_of_some rfl (by rw [instrOfRecord, D2.bits_op]; exact congrArg (fun x => some (Instr.qpush x)) (D2.ofRecord_bits _ r))

theorem Encoding.qpop (r : D2) : Encoding.Statement (.qpop r) :=
  encoding_of_some rfl (by rw [instrOfRecord, D2.bits_op]; exact congrArg (fun x => some (Instr.qpop x)) (D2.ofRecord_bits _ r))

theorem Encoding.qresv (r : D2) : Encoding.Statement (.qresv r) :=
  encoding_of_some rfl (by rw [instrOfRecord, D2.bits_op]; exact congrArg (fun x => some (Instr.qresv x)) (D2.ofRecord_bits _ r))

theorem Encoding.qpub (r : D2) : Encoding.Statement (.qpub r) :=
  encoding_of_some rfl (by rw [instrOfRecord, D2.bits_op]; exact congrArg (fun x => some (Instr.qpub x)) (D2.ofRecord_bits _ r))

theorem Encoding.qsteal (r : D2) : Encoding.Statement (.qsteal r) :=
  encoding_of_some rfl (by rw [instrOfRecord, D2.bits_op]; exact congrArg (fun x => some (Instr.qsteal x)) (D2.ofRecord_bits _ r))

theorem Encoding.qarm (r : D2) : Encoding.Statement (.qarm r) :=
  encoding_of_some rfl (by rw [instrOfRecord, D2.bits_op]; exact congrArg (fun x => some (Instr.qarm x)) (D2.ofRecord_bits _ r))

theorem Encoding.qstat (r : D2) : Encoding.Statement (.qstat r) :=
  encoding_of_some rfl (by rw [instrOfRecord, D2.bits_op]; exact congrArg (fun x => some (Instr.qstat x)) (D2.ofRecord_bits _ r))

theorem Encoding.agcfg (r : D2) : Encoding.Statement (.agcfg r) :=
  encoding_of_some rfl (by rw [instrOfRecord, D2.bits_op]; exact congrArg (fun x => some (Instr.agcfg x)) (D2.ofRecord_bits _ r))

theorem Encoding.agrun (r : D2) : Encoding.Statement (.agrun r) :=
  encoding_of_some rfl (by rw [instrOfRecord, D2.bits_op]; exact congrArg (fun x => some (Instr.agrun x)) (D2.ofRecord_bits _ r))

theorem Encoding.bari (r : D2) : Encoding.Statement (.bari r) :=
  encoding_of_some rfl (by rw [instrOfRecord, D2.bits_op]; exact congrArg (fun x => some (Instr.bari x)) (D2.ofRecord_bits _ r))

theorem Encoding.barv (r : D2) : Encoding.Statement (.barv r) :=
  encoding_of_some rfl (by rw [instrOfRecord, D2.bits_op]; exact congrArg (fun x => some (Instr.barv x)) (D2.ofRecord_bits _ r))

theorem Encoding.barlog (r : D2) : Encoding.Statement (.barlog r) :=
  encoding_of_some rfl (by rw [instrOfRecord, D2.bits_op]; exact congrArg (fun x => some (Instr.barlog x)) (D2.ofRecord_bits _ r))

theorem Encoding.stkbind (r : D2) : Encoding.Statement (.stkbind r) :=
  encoding_of_some rfl (by rw [instrOfRecord, D2.bits_op]; exact congrArg (fun x => some (Instr.stkbind x)) (D2.ofRecord_bits _ r))

theorem Encoding.ktsbind (r : D2) : Encoding.Statement (.ktsbind r) :=
  encoding_of_some rfl (by rw [instrOfRecord, D2.bits_op]; exact congrArg (fun x => some (Instr.ktsbind x)) (D2.ofRecord_bits _ r))

theorem Encoding.mcgset (r : D2) : Encoding.Statement (.mcgset r) :=
  encoding_of_some rfl (by rw [instrOfRecord, D2.bits_op]; exact congrArg (fun x => some (Instr.mcgset x)) (D2.ofRecord_bits _ r))

theorem Encoding.xsend (r : D2) : Encoding.Statement (.xsend r) :=
  encoding_of_some rfl (by rw [instrOfRecord, D2.bits_op]; exact congrArg (fun x => some (Instr.xsend x)) (D2.ofRecord_bits _ r))

theorem Encoding.trap (r : D1) : Encoding.Statement (.trap r) :=
  encoding_of_some rfl (by rw [instrOfRecord, D1.bits_op]; exact congrArg (fun x => some (Instr.trap x)) (D1.ofRecord_bits _ r))

theorem Encoding.fret (r : D2) : Encoding.Statement (.fret r) :=
  encoding_of_some rfl (by rw [instrOfRecord, D2.bits_op]; exact congrArg (fun x => some (Instr.fret x)) (D2.ofRecord_bits _ r))

theorem Encoding.fkill (r : D1) : Encoding.Statement (.fkill r) :=
  encoding_of_some rfl (by rw [instrOfRecord, D1.bits_op]; exact congrArg (fun x => some (Instr.fkill x)) (D1.ofRecord_bits _ r))

theorem Encoding.park (r : D1) : Encoding.Statement (.park r) :=
  encoding_of_some rfl (by rw [instrOfRecord, D1.bits_op]; exact congrArg (fun x => some (Instr.park x)) (D1.ofRecord_bits _ r))

theorem Encoding.unpark (r : D1) : Encoding.Statement (.unpark r) :=
  encoding_of_some rfl (by rw [instrOfRecord, D1.bits_op]; exact congrArg (fun x => some (Instr.unpark x)) (D1.ofRecord_bits _ r))

theorem Encoding.mark (r : D1) : Encoding.Statement (.mark r) :=
  encoding_of_some rfl (by rw [instrOfRecord, D1.bits_op]; exact congrArg (fun x => some (Instr.mark x)) (D1.ofRecord_bits _ r))

theorem Encoding.time (r : D1) : Encoding.Statement (.time r) :=
  encoding_of_some rfl (by rw [instrOfRecord, D1.bits_op]; exact congrArg (fun x => some (Instr.time x)) (D1.ofRecord_bits _ r))

theorem Encoding.pgrd (r : D2) : Encoding.Statement (.pgrd r) :=
  encoding_of_some rfl (by rw [instrOfRecord, D2.bits_op]; exact congrArg (fun x => some (Instr.pgrd x)) (D2.ofRecord_bits _ r))

theorem Encoding.pgwr (r : D2) : Encoding.Statement (.pgwr r) :=
  encoding_of_some rfl (by rw [instrOfRecord, D2.bits_op]; exact congrArg (fun x => some (Instr.pgwr x)) (D2.ofRecord_bits _ r))

theorem Encoding.stcnt (r : D2) : Encoding.Statement (.stcnt r) :=
  encoding_of_some rfl (by rw [instrOfRecord, D2.bits_op]; exact congrArg (fun x => some (Instr.stcnt x)) (D2.ofRecord_bits _ r))

theorem Encoding.ecall (r : D1) : Encoding.Statement (.ecall r) :=
  encoding_of_some rfl (by rw [instrOfRecord, D1.bits_op]; exact congrArg (fun x => some (Instr.ecall x)) (D1.ofRecord_bits _ r))

theorem Encoding.cfgld (r : D1) : Encoding.Statement (.cfgld r) :=
  encoding_of_some rfl (by rw [instrOfRecord, D1.bits_op]; exact congrArg (fun x => some (Instr.cfgld x)) (D1.ofRecord_bits _ r))

theorem Encoding.cfgcmt (r : D1) : Encoding.Statement (.cfgcmt r) :=
  encoding_of_some rfl (by rw [instrOfRecord, D1.bits_op]; exact congrArg (fun x => some (Instr.cfgcmt x)) (D1.ofRecord_bits _ r))

theorem Encoding.gsrc (r : D2) : Encoding.Statement (.gsrc r) :=
  encoding_of_some rfl (by rw [instrOfRecord, D2.bits_op]; exact congrArg (fun x => some (Instr.gsrc x)) (D2.ofRecord_bits _ r))

theorem Encoding.quiesce (r : D1) : Encoding.Statement (.quiesce r) :=
  encoding_of_some rfl (by rw [instrOfRecord, D1.bits_op]; exact congrArg (fun x => some (Instr.quiesce x)) (D1.ofRecord_bits _ r))

theorem Encoding.halt (r : D1) : Encoding.Statement (.halt r) :=
  encoding_of_some rfl (by rw [instrOfRecord, D1.bits_op]; exact congrArg (fun x => some (Instr.halt x)) (D1.ofRecord_bits _ r))

theorem Encoding.sxmac (r : FS) : Encoding.Statement (.sxmac r) :=
  encoding_of_some rfl (by rw [instrOfRecord, FS.bits_op]; exact congrArg (fun x => some (Instr.sxmac x)) (FS.ofRecord_bits _ r))

theorem Encoding.sxpass (r : FS) : Encoding.Statement (.sxpass r) :=
  encoding_of_some rfl (by rw [instrOfRecord, FS.bits_op]; exact congrArg (fun x => some (Instr.sxpass x)) (FS.ofRecord_bits _ r))

theorem Encoding.sxacc (r : FS) : Encoding.Statement (.sxacc r) :=
  encoding_of_some rfl (by rw [instrOfRecord, FS.bits_op]; exact congrArg (fun x => some (Instr.sxacc x)) (FS.ofRecord_bits _ r))

theorem Encoding.sxout (r : FS) : Encoding.Statement (.sxout r) :=
  encoding_of_some rfl (by rw [instrOfRecord, FS.bits_op]; exact congrArg (fun x => some (Instr.sxout x)) (FS.ofRecord_bits _ r))

theorem Encoding.sxwld (r : FS) : Encoding.Statement (.sxwld r) :=
  encoding_of_some rfl (by rw [instrOfRecord, FS.bits_op]; exact congrArg (fun x => some (Instr.sxwld x)) (FS.ofRecord_bits _ r))

theorem Encoding.sxmov (r : FS) : Encoding.Statement (.sxmov r) :=
  encoding_of_some rfl (by rw [instrOfRecord, FS.bits_op]; exact congrArg (fun x => some (Instr.sxmov x)) (FS.ofRecord_bits _ r))

theorem Encoding.sxloop (r : FS) : Encoding.Statement (.sxloop r) :=
  encoding_of_some rfl (by rw [instrOfRecord, FS.bits_op]; exact congrArg (fun x => some (Instr.sxloop x)) (FS.ofRecord_bits _ r))

theorem Encoding.sxnop (r : FS) : Encoding.Statement (.sxnop r) :=
  encoding_of_some rfl (by rw [instrOfRecord, FS.bits_op]; exact congrArg (fun x => some (Instr.sxnop x)) (FS.ofRecord_bits _ r))

theorem Encoding.preemptDrain (d : Nat) (v : Word) : Encoding.Statement (.preemptDrain d v) :=
  encoding_of_none rfl

theorem Encoding.preemptPark (d : Nat) (v : Word) : Encoding.Statement (.preemptPark d v) :=
  encoding_of_none rfl

theorem Encoding.preemptParkAtCut (d : Nat) (v : Word) : Encoding.Statement (.preemptParkAtCut d v) :=
  encoding_of_none rfl

theorem Encoding.preemptRestore (d : Nat) (v : Word) : Encoding.Statement (.preemptRestore d v) :=
  encoding_of_none rfl

theorem Encoding.dqptrCiWrite (k : Nat) (ci : BitVec 32) : Encoding.Statement (.dqptrCiWrite k ci) :=
  encoding_of_none rfl

theorem Encoding.dqctlWrite (k : Nat) (v : Word) : Encoding.Statement (.dqctlWrite k v) :=
  encoding_of_none rfl

theorem Encoding.ingressDelivery (ing : Nat) (val : Word) (eod : BitVec 3) (seq : BitVec 8) (rt : BitVec 2) : Encoding.Statement (.ingressDelivery ing val eod seq rt) :=
  encoding_of_none rfl

theorem Encoding.mplFrameReceive (c : Nat) (err : Nat) : Encoding.Statement (.mplFrameReceive c err) :=
  encoding_of_none rfl

theorem Encoding.linkTraining (l : Nat) (pass : List Nat) : Encoding.Statement (.linkTraining l pass) :=
  encoding_of_none rfl

theorem Encoding.scaleupLinkUp (port : Nat) (pkg : BitVec 16) (peer : BitVec 8) : Encoding.Statement (.scaleupLinkUp port pkg peer) :=
  encoding_of_none rfl

theorem Encoding.discRead (c : HostCtx) (off : Nat) : Encoding.Statement (.discRead c off) :=
  encoding_of_none rfl

theorem Encoding.launchCmd (c : HostCtx) (cmd : List Byte) : Encoding.Statement (.launchCmd c cmd) :=
  encoding_of_none rfl

theorem Encoding.jrnEntry (c : HostCtx) (seq : Nat) : Encoding.Statement (.jrnEntry c seq) :=
  encoding_of_none rfl

theorem Encoding.jrnPtrs (c : HostCtx) : Encoding.Statement (.jrnPtrs c) :=
  encoding_of_none rfl

theorem Encoding.regRead (c : HostCtx) (num inst : Nat) : Encoding.Statement (.regRead c num inst) :=
  encoding_of_none rfl

theorem Encoding.regWrite (c : HostCtx) (num inst : Nat) (v : Word) : Encoding.Statement (.regWrite c num inst v) :=
  encoding_of_none rfl

theorem Encoding.imgWrite (c : HostCtx) (off len : Nat) (data : List Byte) : Encoding.Statement (.imgWrite c off len data) :=
  encoding_of_none rfl

theorem Encoding.imgCommit (c : HostCtx) : Encoding.Statement (.imgCommit c) :=
  encoding_of_none rfl

theorem Encoding.imgErase (c : HostCtx) : Encoding.Statement (.imgErase c) :=
  encoding_of_none rfl

theorem Encoding.imgPstat (c : HostCtx) : Encoding.Statement (.imgPstat c) :=
  encoding_of_none rfl

theorem Encoding.imgPmode (c : HostCtx) (mode : Nat) : Encoding.Statement (.imgPmode c mode) :=
  encoding_of_none rfl

theorem Encoding.attQuote (c : HostCtx) (nonce : List Byte) (addr : Word) : Encoding.Statement (.attQuote c nonce addr) :=
  encoding_of_none rfl

theorem Encoding.attCert (c : HostCtx) (addr : Word) : Encoding.Statement (.attCert c addr) :=
  encoding_of_none rfl

theorem Encoding.ownClaim (hid : Nat) (nonce : Word) : Encoding.Statement (.ownClaim hid nonce) :=
  encoding_of_none rfl

theorem Encoding.ownRenew (hid : Nat) (epoch : BitVec 32) : Encoding.Statement (.ownRenew hid epoch) :=
  encoding_of_none rfl

theorem Encoding.ownOffer (hid : Nat) (tgt : BitVec 16) (epoch : BitVec 32) : Encoding.Statement (.ownOffer hid tgt epoch) :=
  encoding_of_none rfl

theorem Encoding.ownAccept (hid : Nat) (epoch : BitVec 32) : Encoding.Statement (.ownAccept hid epoch) :=
  encoding_of_none rfl

theorem Encoding.ownRelease (hid : Nat) (epoch : BitVec 32) : Encoding.Statement (.ownRelease hid epoch) :=
  encoding_of_none rfl

theorem Encoding.xinvPage (d : Nat) (v : Word) : Encoding.Statement (.xinvPage d v) :=
  encoding_of_none rfl

theorem Encoding.xinvAll (d : Nat) (v : Word) : Encoding.Statement (.xinvAll d v) :=
  encoding_of_none rfl

theorem Encoding.registerWrite (d num inst : Nat) (v : Word) : Encoding.Statement (.registerWrite d num inst v) :=
  encoding_of_none rfl

theorem Encoding.dieRestart (d : Nat) : Encoding.Statement (.dieRestart d) :=
  encoding_of_none rfl

theorem Encoding.diePowerOff (d : Nat) : Encoding.Statement (.diePowerOff d) :=
  encoding_of_none rfl

theorem Encoding.balancedWindowEnd (watts : BitVec 32) : Encoding.Statement (.balancedWindowEnd watts) :=
  encoding_of_none rfl

theorem Encoding.thermalThrottle (d : Nat) (temp : BitVec 8) : Encoding.Statement (.thermalThrottle d temp) :=
  encoding_of_none rfl

theorem Encoding.thermalUnthrottle (d : Nat) (temp : BitVec 8) : Encoding.Statement (.thermalUnthrottle d temp) :=
  encoding_of_none rfl

theorem Encoding.thermalShutdown (d : Nat) (temp : BitVec 8) : Encoding.Statement (.thermalShutdown d temp) :=
  encoding_of_none rfl

theorem Encoding.thermalRestart (d : Nat) (temp : BitVec 8) : Encoding.Statement (.thermalRestart d temp) :=
  encoding_of_none rfl

theorem Encoding.scaleupPortDown (port : Nat) (failed : Bool) : Encoding.Statement (.scaleupPortDown port failed) :=
  encoding_of_none rfl

theorem Encoding.ethernetLinkChange (port : Nat) (up : Bool) : Encoding.Statement (.ethernetLinkChange port up) :=
  encoding_of_none rfl

theorem Encoding.routerHop : Encoding.Statement (.routerHop) :=
  encoding_of_none rfl

theorem Encoding.bridgeForward : Encoding.Statement (.bridgeForward) :=
  encoding_of_none rfl

theorem Encoding.tokenArrival : Encoding.Statement (.tokenArrival) :=
  encoding_of_none rfl

theorem Encoding.queueDestinationAppend : Encoding.Statement (.queueDestinationAppend) :=
  encoding_of_none rfl

theorem Encoding.markerArrival : Encoding.Statement (.markerArrival) :=
  encoding_of_none rfl

theorem Encoding.externalAnswerReturn : Encoding.Statement (.externalAnswerReturn) :=
  encoding_of_none rfl

theorem Encoding.rptCopy : Encoding.Statement (.rptCopy) :=
  encoding_of_none rfl

theorem Encoding.allocRequest : Encoding.Statement (.allocRequest) :=
  encoding_of_none rfl

theorem Encoding.allocGrant : Encoding.Statement (.allocGrant) :=
  encoding_of_none rfl

theorem Encoding.releaseNotice : Encoding.Statement (.releaseNotice) :=
  encoding_of_none rfl

theorem Encoding.releaseComplete : Encoding.Statement (.releaseComplete) :=
  encoding_of_none rfl

theorem Encoding.spillComplete : Encoding.Statement (.spillComplete) :=
  encoding_of_none rfl

theorem Encoding.spillMatcherToken : Encoding.Statement (.spillMatcherToken) :=
  encoding_of_none rfl

theorem Encoding.restoreStartSpontaneous : Encoding.Statement (.restoreStartSpontaneous) :=
  encoding_of_none rfl

theorem Encoding.restoreComplete : Encoding.Statement (.restoreComplete) :=
  encoding_of_none rfl

theorem Encoding.macroStart : Encoding.Statement (.macroStart) :=
  encoding_of_none rfl

theorem Encoding.macroBoundary : Encoding.Statement (.macroBoundary) :=
  encoding_of_none rfl

theorem Encoding.macroComplete : Encoding.Statement (.macroComplete) :=
  encoding_of_none rfl

theorem Encoding.waveRequestArrival : Encoding.Statement (.waveRequestArrival) :=
  encoding_of_none rfl

theorem Encoding.homeAccess : Encoding.Statement (.homeAccess) :=
  encoding_of_none rfl

theorem Encoding.memoryReply : Encoding.Statement (.memoryReply) :=
  encoding_of_none rfl

theorem Encoding.egressConfirm : Encoding.Statement (.egressConfirm) :=
  encoding_of_none rfl

theorem Encoding.requestTimeout : Encoding.Statement (.requestTimeout) :=
  encoding_of_none rfl

theorem Encoding.walkReadReturn : Encoding.Statement (.walkReadReturn) :=
  encoding_of_none rfl

theorem Encoding.syncCountArrival : Encoding.Statement (.syncCountArrival) :=
  encoding_of_none rfl

theorem Encoding.scrubWord : Encoding.Statement (.scrubWord) :=
  encoding_of_none rfl

theorem Encoding.agElement : Encoding.Statement (.agElement) :=
  encoding_of_none rfl

theorem Encoding.agStreamComplete : Encoding.Statement (.agStreamComplete) :=
  encoding_of_none rfl

theorem Encoding.copyTrigger : Encoding.Statement (.copyTrigger) :=
  encoding_of_none rfl

theorem Encoding.copyElements : Encoding.Statement (.copyElements) :=
  encoding_of_none rfl

theorem Encoding.copyComplete : Encoding.Statement (.copyComplete) :=
  encoding_of_none rfl

theorem Encoding.handlerTokenSend : Encoding.Statement (.handlerTokenSend) :=
  encoding_of_none rfl

theorem Encoding.holdCountExpiry : Encoding.Statement (.holdCountExpiry) :=
  encoding_of_none rfl

theorem Encoding.probeHop : Encoding.Statement (.probeHop) :=
  encoding_of_none rfl

theorem Encoding.framedryDetect : Encoding.Statement (.framedryDetect) :=
  encoding_of_none rfl

theorem Encoding.starvedDetect : Encoding.Statement (.starvedDetect) :=
  encoding_of_none rfl

theorem Encoding.preemptQuiesced : Encoding.Statement (.preemptQuiesced) :=
  encoding_of_none rfl

theorem Encoding.preemptWithdrawalEnd : Encoding.Statement (.preemptWithdrawalEnd) :=
  encoding_of_none rfl

theorem Encoding.preemptSaveComplete : Encoding.Statement (.preemptSaveComplete) :=
  encoding_of_none rfl

theorem Encoding.preemptEscalate : Encoding.Statement (.preemptEscalate) :=
  encoding_of_none rfl

theorem Encoding.preemptRestoreComplete : Encoding.Statement (.preemptRestoreComplete) :=
  encoding_of_none rfl

theorem Encoding.policyPreemption : Encoding.Statement (.policyPreemption) :=
  encoding_of_none rfl

theorem Encoding.launchToken : Encoding.Statement (.launchToken) :=
  encoding_of_none rfl

theorem Encoding.launchCheck : Encoding.Statement (.launchCheck) :=
  encoding_of_none rfl

theorem Encoding.launchAging : Encoding.Statement (.launchAging) :=
  encoding_of_none rfl

theorem Encoding.launchDispatch : Encoding.Statement (.launchDispatch) :=
  encoding_of_none rfl

theorem Encoding.launchPlace : Encoding.Statement (.launchPlace) :=
  encoding_of_none rfl

theorem Encoding.launchLoad : Encoding.Statement (.launchLoad) :=
  encoding_of_none rfl

theorem Encoding.launchStart : Encoding.Statement (.launchStart) :=
  encoding_of_none rfl

theorem Encoding.cfgCommitFlip : Encoding.Statement (.cfgCommitFlip) :=
  encoding_of_none rfl

theorem Encoding.sxwldWeightToken : Encoding.Statement (.sxwldWeightToken) :=
  encoding_of_none rfl

theorem Encoding.converterTransfer : Encoding.Statement (.converterTransfer) :=
  encoding_of_none rfl

theorem Encoding.dmaDataToken : Encoding.Statement (.dmaDataToken) :=
  encoding_of_none rfl

theorem Encoding.dmaCommandToken : Encoding.Statement (.dmaCommandToken) :=
  encoding_of_none rfl

theorem Encoding.dmaCommandComplete : Encoding.Statement (.dmaCommandComplete) :=
  encoding_of_none rfl

theorem Encoding.xsendRoute : Encoding.Statement (.xsendRoute) :=
  encoding_of_none rfl

theorem Encoding.channelRemove : Encoding.Statement (.channelRemove) :=
  encoding_of_none rfl

theorem Encoding.hostRequest : Encoding.Statement (.hostRequest) :=
  encoding_of_none rfl

theorem Encoding.modeChangeEffect : Encoding.Statement (.modeChangeEffect) :=
  encoding_of_none rfl

theorem Encoding.electionWindowEnd : Encoding.Statement (.electionWindowEnd) :=
  encoding_of_none rfl

theorem Encoding.leaseLapse : Encoding.Statement (.leaseLapse) :=
  encoding_of_none rfl

theorem Encoding.xinvComplete : Encoding.Statement (.xinvComplete) :=
  encoding_of_none rfl

theorem Encoding.frread : Encoding.Statement (.frread) :=
  encoding_of_none rfl

theorem Encoding.qbar : Encoding.Statement (.qbar) :=
  encoding_of_none rfl

theorem Encoding.xreg : Encoding.Statement (.xreg) :=
  encoding_of_none rfl

theorem Encoding.powerOn : Encoding.Statement (.powerOn) :=
  encoding_of_none rfl

theorem Encoding.bootVerify : Encoding.Statement (.bootVerify) :=
  encoding_of_none rfl

theorem Encoding.bootScrub : Encoding.Statement (.bootScrub) :=
  encoding_of_none rfl

theorem Encoding.stallCounterCycle : Encoding.Statement (.stallCounterCycle) :=
  encoding_of_none rfl

end Sys2Proof.Laws
end

