-- ==== Sys2Proof/Laws/Shared.lean ====
section
/-!
SUPPORT. The shared operations: which of them leave every byte that the machine keeps, what taking a fault writes
(R353), and how many squares a list without repeats holds.
-/
namespace Sys2Proof
open Machine

/-- Main memory, host memory and the boot flash hold the same bytes. -/
def SameBytes (s t : State) : Prop := t.mem = s.mem ∧ t.hostMem = s.hostMem ∧ t.flash = s.flash

theorem SameBytes.refl (s : State) : SameBytes s s := ⟨rfl, rfl, rfl⟩
theorem SameBytes.trans {s t u : State} (a : SameBytes s t) (b : SameBytes t u) : SameBytes s u :=
  ⟨b.1.trans a.1, b.2.1.trans a.2.1, b.2.2.trans a.2.2⟩
theorem SameBytes.byte {s t : State} (h : SameBytes s t) (a : Nat) : t.byte a = s.byte a := by
  unfold State.byte; rw [h.1]
theorem SameBytes.foldl {β : Type} (l : List β) (f : State → β → State) (s : State) (h : ∀ t b, SameBytes t (f t b)) :
    SameBytes s (l.foldl f s) := by
  induction l generalizing s with
  | nil => exact .refl s
  | cons b t ih => exact (h s b).trans (ih _)
theorem SameBytes.ite {c : Prop} [Decidable c] {s t u : State} (a : SameBytes s t) (b : SameBytes s u) :
    SameBytes s (if c then t else u) := by split <;> assumption

/-! ### Messages between dies -/

/-- A message writes only the channels and the count of messages. -/
theorem Machine.State.post_eq (s : State) (a b : Nat) (m : Msg) :
    (s.post a b m).1 = { s with serial := (s.post a b m).1.serial, chans := (s.post a b m).1.chans } := by
  unfold State.post
  split <;> rfl
theorem Machine.State.post_self (s : State) (a : Nat) (m : Msg) : s.post a a m = (s, 0) := by
  simp [State.post, pathLinks]
theorem Machine.State.postMgmt_self (s : State) (a n : Nat) : s.postMgmt a a n = (s, 0) := s.post_self a _
theorem SameBytes.withReqs (s : State) (l : Tbl MReq) : SameBytes s { s with reqs := l } := ⟨rfl, rfl, rfl⟩
theorem SameBytes.withSerial (s : State) (n : Nat) (l : Tbl MReq) : SameBytes s { s with serial := n, reqs := l } := ⟨rfl, rfl, rfl⟩
theorem SameBytes.post (s : State) (a b : Nat) (m : Msg) : SameBytes s (s.post a b m).1 := by
  rw [s.post_eq]; exact ⟨rfl, rfl, rfl⟩
theorem SameBytes.postMgmt (s : State) (a b n : Nat) : SameBytes s (s.postMgmt a b n).1 := .post _ _ _ _
theorem SameBytes.postNotices (l : List Nat) (s : State) (a n : Nat) : SameBytes s (s.postNotices a n l).1 := by
  induction l generalizing s with
  | nil => exact .refl s
  | cons d t ih => exact (SameBytes.postMgmt s a d n).trans (ih _)
theorem SameBytes.sendReq (s : State) (i a b : Nat) : SameBytes s (s.sendReq i a b) :=
  (SameBytes.post s a b _).trans (.withReqs _ _)
theorem SameBytes.sendReply (s : State) (i : Nat) : SameBytes s (s.sendReply i) :=
  (SameBytes.post s _ _ _).trans (.withReqs _ _)

/-! ### Frames, parking and release -/

theorem SameBytes.modFx (s : State) (r x : Nat) (f : FxRec → FxRec) : SameBytes s (s.modFx r x f) := ⟨rfl, rfl, rfl⟩
theorem SameBytes.unparkCt (s : State) (q x : Nat) : SameBytes s (s.unparkCt q x) := by
  unfold State.unparkCt
  refine .trans ?_ (.foldl _ _ _ fun t b => .ite (.refl _) ⟨rfl, rfl, rfl⟩)
  exact ⟨rfl, rfl, rfl⟩
theorem SameBytes.takeNotice (s : State) (d : Nat) (x : Notice) : SameBytes s (s.takeNotice d x) := by
  cases x with
  | park => exact ⟨rfl, rfl, rfl⟩
  | stop => exact ⟨rfl, rfl, rfl⟩
  | unpark r x => exact (SameBytes.trans (t := s.setPk d r x false _) ⟨rfl, rfl, rfl⟩ (.foldl _ _ _ fun t b => .unparkCt t _ _))
theorem SameBytes.sendNotice (l : List Nat) (s : State) (x : Notice) (h : Nat) : SameBytes s (s.sendNotice x h l) := by
  induction l generalizing s with
  | nil => exact .refl s
  | cons d t ih => exact ((SameBytes.postMgmt s h d 0).trans ⟨rfl, rfl, rfl⟩).trans (ih _)
theorem SameBytes.notifyDies (s : State) (x : Notice) : SameBytes s (s.notifyDies x) :=
  (SameBytes.takeNotice _ _ _).trans (.sendNotice _ _ _ _)
theorem SameBytes.park (s : State) (r x : Nat) (b : Bool) : SameBytes s (s.park r x b) :=
  (SameBytes.modFx _ _ _ _).trans (.notifyDies _ _)
theorem SameBytes.unpark (s : State) (r x : Nat) : SameBytes s (s.unpark r x) :=
  (SameBytes.modFx _ _ _ _).trans (.notifyDies _ _)
theorem SameBytes.beginRelease (n : Nat) (s : State) (r x : Nat) : SameBytes s (s.beginRelease r x n) := by
  induction n generalizing s x with
  | zero => exact .refl s
  | succ n ih =>
    unfold State.beginRelease
    refine .ite (.refl _) (.trans ?_ (.foldl _ _ _ fun t b => ih t b))
    exact (SameBytes.postNotices (((s.holders r x).map sqDie).eraseDups) s (sqDie (s.region r).famt) x).trans ⟨rfl, rfl, rfl⟩
theorem SameBytes.release (s : State) (r x : Nat) : SameBytes s (s.release r x) := by
  unfold State.release
  exact .ite ((SameBytes.beginRelease _ _ _ _).trans (.foldl _ _ _ fun t b => .beginRelease _ _ _ _)) (.beginRelease _ _ _ _)

/-! ### The end of a load and faults -/

theorem SameBytes.notify (s : State) (l st c : Nat) : SameBytes s (s.notify l st c) := .ite ⟨rfl, rfl, rfl⟩ (.refl _)
theorem SameBytes.endLoad (s : State) (l st c a : Nat) : SameBytes s (s.endLoad l st c a) := by
  unfold State.endLoad
  exact .ite (.refl _) (.trans (t := (s.discardLoad l).modJournal l fun j => { j with state := st, code := c, arg := a })
    ⟨rfl, rfl, rfl⟩ (.trans (.notify _ l st c) ⟨rfl, rfl, rfl⟩))
theorem SameBytes.haltLoad (s : State) (l : Nat) (v : Word) : SameBytes s (s.haltLoad l v) := .endLoad _ _ _ _ _
theorem SameBytes.enterRecord (s : State) (l r ix : Nat) (a : FaultArgs) : SameBytes s (s.enterRecord l r ix a) := by
  unfold State.enterRecord
  refine (SameBytes.postMgmt s (placeDie a.place) ((s.region r).fqmt / 4096) ix).trans ?_
  exact .ite ⟨rfl, rfl, rfl⟩ (.trans (t := State.modLoad _ l _) ⟨rfl, rfl, rfl⟩ (.park _ _ _ _))
theorem SameBytes.record1 (s : State) (l r : Nat) (a : FaultArgs) : SameBytes s (s.record1 l r a) := by
  unfold State.record1
  split
  · exact .refl s
  · split
    · exact .haltLoad _ _ _
    · cases firstFree 1024 0 fun i => ((s.load l).faults.look i).used with
      | none => exact .refl s
      | some ix => exact .enterRecord _ _ _ _ _
theorem SameBytes.countFault (s : State) (a : FaultArgs) : SameBytes s (s.countFault a) :=
  .ite (.refl _) (.ite ⟨rfl, rfl, rfl⟩ ⟨rfl, rfl, rfl⟩)
theorem SameBytes.raiseArgs (s : State) (l r : Nat) (a : FaultArgs) : SameBytes s (s.raiseArgs l r a) := by
  unfold State.raiseArgs
  exact ((SameBytes.countFault s a).trans (.record1 _ l r a)).trans (.foldl _ _ _ fun t b => .record1 _ _ _ _)
theorem SameBytes.raiseFiring (s : State) (f : Firing) (k d : Nat) (a b : Word) (x : Nat) :
    SameBytes s (s.raiseFiring f k d a b x) := .raiseArgs _ _ _ _
theorem SameBytes.raiseToken (s : State) (f : Flight) (k d : Nat) (b : Bool) : SameBytes s (s.raiseToken f k d b) :=
  .raiseArgs _ _ _ _
theorem SameBytes.raiseAway (s : State) (f : Flight) (k d p : Nat) : SameBytes s (s.raiseAway f k d p) := .raiseArgs _ _ _ _

/-- R353, steps 1 to 4: where the queue of the load takes the record, it stands at the lowest free index. -/
theorem Machine.State.record1_ok (s : State) (l r ix : Nat) (a : FaultArgs) (hl : l ≠ 0) (hr : s.faultReason l = none)
    (hx : firstFree 1024 0 (fun i => ((s.load l).faults.look i).used) = some ix) :
    s.record1 l r a = s.enterRecord l r ix a := by
  simp only [State.record1, if_neg hl, hr, hx]

/-- R354: where it does not, the load ends as `halt` ends it, with the kind and the reason. -/
theorem Machine.State.record1_full (s : State) (l r why : Nat) (a : FaultArgs) (hl : l ≠ 0)
    (hr : s.faultReason l = some why) :
    s.record1 l r a = s.haltLoad l (BitVec.ofNat 64 (a.kind + why * 2 ^ 8 + (2 ^ 48 - 1) * 2 ^ 16)) := by
  simp only [State.record1, if_neg hl, hr]

/-! ### Sending and asking -/

theorem SameBytes.send (s : State) (f : Firing) (v : RecView) (w : Word) (o : List Out) : SameBytes s (s.send f v w o) := by
  unfold State.send
  split
  · exact .raiseFiring _ _ _ _ _ _ _
  · exact ⟨rfl, rfl, rfl⟩
theorem SameBytes.sendAnswer (s : State) (d : Nat) (f : Firing) (v : RecView) (w : Word) (o : List Out) :
    SameBytes s (s.sendAnswer d f v w o) := by
  unfold State.sendAnswer
  split
  · exact .raiseFiring _ _ _ _ _ _ _
  · exact .ite (.refl _) ((SameBytes.post _ _ _ _).trans ⟨rfl, rfl, rfl⟩)
theorem SameBytes.sendFrom (s : State) (q l : Nat) (t : Token) : SameBytes s (s.sendFrom q l t) := ⟨rfl, rfl, rfl⟩
theorem SameBytes.askDie (s : State) (v : RecView) (t p : Nat) (io : Option Nat) : SameBytes s (s.askDie v t p io) :=
  (SameBytes.withSerial s _ _).trans (.sendReq _ _ _ _)
theorem SameBytes.askObj (s : State) (v : RecView) (t p : Nat) : SameBytes s (s.askObj v t p) := .askDie _ _ _ _ _
theorem SameBytes.answerWith (s : State) (i : Nat) (x : Word) (e : Option (Nat × Nat)) : SameBytes s (s.answerWith i x e) :=
  (SameBytes.withReqs s _).trans (.sendReply _ _)
theorem SameBytes.replyTo (s : State) (i : Nat) (x : Word) : SameBytes s (s.replyTo i x) := .answerWith _ _ _ _
theorem SameBytes.replyBad (s : State) (i k d p : Nat) : SameBytes s (s.replyBad i k d p) := .answerWith _ _ _ _
theorem SameBytes.replyTok (s : State) (i : Nat) (t : Token) : SameBytes s (s.replyTok i t) :=
  (SameBytes.withReqs s _).trans (.replyTo _ _ _)

/-- Every answer of a firing of the scalar/vector pipe is a next state with the same bytes. -/
theorem finish_next (s : State) (v : RecView) (o : List Out) (fl : Flags) :
    ∃ t, finish s v o fl = .next t ∧ SameBytes s t := by
  unfold finish
  split
  · exact ⟨_, rfl, .send _ _ _ _ _⟩
  · exact ⟨_, rfl, (SameBytes.send _ _ _ _ _).trans ⟨rfl, rfl, rfl⟩⟩
theorem finish1_next (s : State) (v : RecView) (x : Word × Flags) : ∃ t, finish1 s v x = .next t ∧ SameBytes s t :=
  finish_next _ _ _ _
theorem finish2_next (s : State) (v : RecView) (a b : Word × Flags) : ∃ t, finish2 s v a b = .next t ∧ SameBytes s t :=
  finish_next _ _ _ _
theorem fails_next (s : State) (v : RecView) (k d : Nat) : ∃ t, fails s v k d = .next t ∧ SameBytes s t :=
  ⟨_, rfl, .raiseFiring _ _ _ _ _ _ _⟩
theorem askMt_next (s : State) (v : RecView) (t q : Nat) : ∃ u, askMt v t q s = .next u ∧ SameBytes s u :=
  ⟨_, rfl, .askObj _ _ _ _⟩

/-! ### Lists without repeats -/

theorem nodup_eraseDups (n : Nat) (l : List Nat) (h : l.length ≤ n) : l.eraseDups.Nodup := by
  induction n generalizing l with
  | zero =>
    have : l = [] := by simpa using h
    simp [this]
  | succ n ih =>
    cases l with
    | nil => simp
    | cons a t =>
      rw [List.eraseDups_cons, List.nodup_cons]
      refine ⟨by simp [List.mem_eraseDups], ih _ ?_⟩
      have := List.length_filter_le (fun b => !b == a) t
      simp only [List.length_cons] at h
      omega

end Sys2Proof
end

