-- ==== Sys2Proof/Tests/Slice0.lean ====
section
/-!
SUPPORT. The author's tests: states that meet the hypotheses of the statements, words written out from the encodings of the
spec, an ill-formed record for each check, the spec's worked examples, and single steps.
-/
namespace Sys2Proof.Tests
open Sys2Proof Sys2Proof.Machine

/-! ### States of the tests -/

/-- Square 0 in region 5 of load 3, whose frame 7 has a local part of class 0 at slot 16 on tile 0, and a firing of
node 0 of element 0 under that frame with the operands `a`, `b` and `c`. -/
def base (a b c : Word) : State :=
  { State.reset with
    clRid := [(0, 5)]
    regions := [(5, { load := 3, fx := [(0, { alloc := true }), (7, { alloc := true })], faultDest := some 0 })]
    loads := [(3, { phase := .running, regions := [5] })]
    cts := [(0, { ftab := [(0, { v := true, fx := 7, base := 16 })] })]
    cur := { elem := 0, node := 0, t0 := { val := a, fx := 7 }, t1 := { val := b, fx := 7 }, t2 := { val := c, fx := 7 } } }

/-- A record of form D2 with the destinations node 4 and node 8 of element 0, port 0. -/
def d2 (ty opf : BitVec 4) (lit : BitVec 8) (nd : BitVec 2 := 1) : D2 :=
  { ty := ty, tg := 0, litp := false, ndest := nd, arity3 := false, opf := opf, slot := 4, lit := lit, destA := 16, destB := 32 }

def d1 (lit : BitVec 36) : D1 :=
  { ty := 14, tg := 0, litp := false, ndest := 1, arity3 := false, opf := 0, slot := 4, lit := lit, destA := 16 }

/-- The values in the output stage of element 0, and ELSTAT[7:0]. -/
def sent (r : Res) : List Word :=
  match r with
  | .next t => (t.elem 0).outStage.map fun fl => fl.tok.val
  | _ => []
def flagsOf (r : Res) : Flags :=
  match r with
  | .next t => (t.elem 0).elstat
  | _ => 0

/-- The destinations of the records above pass their check. -/
theorem wit_destinations (a b c : Word) : Dests1Ok (base a b c) ((d2 14 0 0 2).view 0x20) ∧
    Dests2Ok (base a b c) ((d2 14 0 0 2).view 0x5A) ∧ Dests1Ok (base a b c) ((d1 0).view 0x01) := ⟨rfl, rfl, rfl⟩

/-! ### Witnesses: states and operands that meet the hypotheses of each statement, clause by clause -/

theorem wit_IntegerArithmetic : Dests1Ok (base 1 2 3) ((d2 14 8 0 2).view 0x20) ∧
    Dests1Ok (base 1 2 3) ((d2 1 0 0).view 0x2C) := ⟨rfl, rfl⟩

/-- A nonzero divisor; ZDIV with a zero lane; a zero in the first and in the last lane without ZDIV. -/
theorem wit_IntegerDivision :
    (let v := (d2 4 0 0).view 0x24; v.zdiv = false ∧ ∀ k, k < tyN v.tyN → laneOf v.tyN ((base 5 0x0001000100010001 0).opB v) k ≠ 0) ∧
    (let v := (d2 4 4 0).view 0x25; v.zdiv = true) ∧
    (let v := (d2 4 0 0).view 0x24; v.zdiv = false ∧ 0 < tyN v.tyN ∧ laneOf v.tyN ((base 5 0x0001000100010000 0).opB v) 0 = 0) ∧
    (let v := (d2 4 0 0).view 0x25; v.zdiv = false ∧ 3 < tyN v.tyN ∧ laneOf v.tyN ((base 5 0x0000000100010001 0).opB v) 3 = 0) := by
  decide

theorem wit_CompareClampWidenLogic : Dests1Ok (base 1 2 3) ((d2 14 0 0).view 0x2D) ∧
    Dests2Ok (base 1 2 3) ((d2 14 0 0 2).view 0x2F) ∧
    (let w : Rec96 := 0x2D202600040000000000000#92 ++ 0#4; w.extractLsb' 88 8 = 0x2D#8 ∧ w.extractLsb' 72 4 = 6#4) ∧
    (let w : Rec96 := 0x2F1040040000000000000000#96; w.extractLsb' 88 8 = 0x2F#8 ∧ w.extractLsb' 84 4 = 1#4) := by
  refine ⟨rfl, rfl, ?_, ?_⟩ <;> decide

/-- The carry-in of `pxor` at its greatest value. -/
theorem wit_ShiftsCountsFieldsProducts : Dests1Ok (base 1 2 3) ((d2 14 0 0).view 0x35) ∧
    Dests2Ok (base 1 1 3) ((d2 1 0 0 2).view 0x3F) ∧ ((base 1 1 3).opB ((d2 1 0 0 2).view 0x3F)).toNat ≤ 1 := by
  refine ⟨rfl, rfl, ?_⟩; decide

theorem wit_FloatArithmeticAndTranscendentals : Dests1Ok (base 1 2 3) ((d2 13 0 0).view 0x40) ∧
    Dests2Ok (base 1 2 3) ((d2 13 0 0 2).view 0x62) := ⟨rfl, rfl⟩

theorem wit_FloatSignsAndClasses : tyIsFloat ((d2 13 0 0).view 0x46).tyN = true ∧ Dests1Ok (base 1 2 3) ((d2 13 0 0).view 0x46) :=
  ⟨rfl, rfl⟩

/-- NaN in the first, the second and the third operand; the least and the greatest integer, and lanes that hold 0, the
greatest and -1. -/
theorem wit_NanAndExactIntegers : (fp32.value 0x7F800001).isNan = true ∧ (fp32.value 0xFFC00000).isNan = true ∧
    (0 < 1 ∧ 1 < 2 ^ 24) ∧ (0 < 16777215 ∧ 16777215 < 2 ^ 24) ∧
    (∀ p ∈ ([(0x80000000, 0), (0x4B7FFFFF, 16777215), (0xBF800000, -1)] : List (Nat × Int)), ∃ g k e, fp32.value p.1 = .fin g k e ∧
      ((0 ≤ e ∧ k * 2 ^ e.toNat = p.2.natAbs) ∨ (e < 0 ∧ k = p.2.natAbs * 2 ^ (-e).toNat)) ∧ (p.2 ≠ 0 → g = decide (p.2 < 0))) ∧
    ((16777215 + -1 : Int).natAbs < 2 ^ 24 ∧ (16777215 * -1 : Int).natAbs < 2 ^ 24) := by
  refine ⟨by decide, by decide, by decide, by decide, ?_, by decide⟩
  intro p h
  simp only [List.mem_cons, List.not_mem_nil, or_false] at h
  rcases h with rfl | rfl | rfl <;> exact ⟨_, _, _, rfl, by decide, by decide⟩

/-- Equal types; different types; the narrowing that fills the value; integer and float sums. -/
theorem wit_ConversionsAndLaneSums :
    (let v := (d2 13 0 13).view 0x50; v.tyN = v.lit % 16) ∧
    (let v := (d2 13 0 2).view 0x51; v.tyN ≠ v.lit % 16 ∧ v.tyN ≠ 14 ∧ v.lit % 16 ≠ 14) ∧
    (let v := (d2 4 0 7).view 0x59; 2 * tyN v.tyN * tyW (v.lit % 16) ≤ 64) ∧
    tyIsInt ((d2 4 0 0).view 0x5B).tyN = true ∧ tyIsInt ((d2 13 0 0).view 0x5F).tyN = false := by decide

theorem wit_LaneMoves : Dests1Ok (base 1 2 3) ((d2 4 0 3).view 0x54) := rfl

theorem wit_LutsHashesCombines : Dests1Ok (base 1 2 3) ((d2 14 0 15).view 0x69) ∧ 63 < 64 ∧
    Dests1Ok (base 1 2 3) ((d2 13 0 2).view 0xA6) := ⟨rfl, by decide, rfl⟩

theorem wit_PassingAndCopying : Dests1Ok (base 1 2 3) ((d2 14 0 0 2).view 0x0F) ∧ (d2 14 0 0 2).ndest = 2#2 ∧
    (d2 14 0 0).ndest = 1#2 ∧ (d1 0).ndest = 1#2 := ⟨rfl, rfl, rfl, rfl⟩

/-- A predicate that is 0 and one that is not, with and without a literal; a `mergeo` context with two held tokens; a record
that names PORT 3. -/
theorem wit_RoutingMergingLeaving : (base 1 1 3).opB ((d2 14 0 0 2).view 0x04) ≠ 0 ∧ (base 1 0 3).opB ((d2 14 0 0 2).view 0x04) = 0 ∧
    (base 1 2 3).destFault (d2 14 0 0 2).destA = none ∧ (base 1 2 3).destFault (d2 14 0 0 2).destB = none ∧
    (base 1 2 3).opA ≠ 0 ∧ (base 0 2 3).opA = 0 ∧ Dests1Ok (base 1 2 3) ((d2 14 0 0).view 0x05) ∧ (base 1 2 3).cur.k = 0 ∧
    (destPort (d2 14 0 0 2).destA ≠ 3 ∧ destPort (d2 14 0 0 2).destB ≠ 3) ∧
    (destIsCt 19 = true ∧ destPort 19 = 3 ∧ (d2 14 0 0).ndest ≠ 0#2) ∧
    (let s : State := { (base 1 2 3).modElem 0 (fun x => { x with ctxs := [{ node := 0, fx := 7, held := [{ tok := { seq := 1 } }, {}] }] }) with
                        cur := { elem := 0, node := 0, t0 := { fx := 7 }, k := 1 } }
     Dests1Ok s ((d2 14 0 0).view 0x06) ∧ s.cur.k ≠ 0 ∧
     ∃ c y, (s.elem s.cur.elem).ctxs.find? (fun c => c.node == s.cur.node && c.fx == s.cur.t0.fx.toNat) = some c ∧
       c.held.find? (fun z => z.tok.seq == c.next) = some y) := by
  refine ⟨?_, ?_, rfl, rfl, ?_, ?_, rfl, rfl, ?_, ?_, rfl, ?_, _, _, rfl, rfl⟩ <;> decide

/-- The last slot of the class, EOD and tag operands at their greatest, and selectors 0, 1 and 4 of `fxinfo`. -/
theorem wit_PackingStreamMarksTags :
    (d1 15).lit.toNat < clsSlots (((base 1 2 3).ct (base 1 2 3).cur.sq).clsOf (base 1 2 3).cur.t0.fx.toNat) ∧
    ((d1 0).lit.toNat = 0 ∧ (d1 1).lit.toNat = 1 ∧ (d1 4).lit.toNat = 4 ∧
      (base 15 2 3).opA.toNat < clsSlots (((base 15 2 3).ct (base 15 2 3).cur.sq).clsOf (base 15 2 3).cur.t0.fx.toNat)) ∧
    ((base 1 7 3).opB ((d2 14 0 0).view 0x0C)).toNat ≤ 7 ∧ ((base 1 0xFFFFF 3).opB ((d2 14 0 0).view 0x1D)).toNat < 2 ^ 20 ∧
    Dests2Ok (base 1 2 3) ((d2 14 0 1 2).view 0x0B) := by
  refine ⟨?_, ?_, ?_, ?_, rfl⟩ <;> decide

/-- The operands one past what the instruction takes. -/
theorem wit_GraphOperandFaults :
    7 < ((base 1 8 3).opB ((d2 14 0 0).view 0x0C)).toNat ∧ 2 ^ 20 ≤ ((base 1 0x100000 3).opB ((d2 14 0 0).view 0x1D)).toNat ∧
    2 ^ 32 ≤ ((base 1 0x100000000 3).opB ((d2 14 0 0).view 0x09)).toNat ∧
    clsSlots (((base 1 2 3).ct (base 1 2 3).cur.sq).clsOf (base 1 2 3).cur.t0.fx.toNat) ≤ (d1 16).lit.toNat ∧
    ((d1 2).lit.toNat = 2 ∧ (d1 3).lit.toNat = 3) ∧ 4096 ≤ (base 4096 2 3).opA.toNat ∧
    1 < ((base 1 2 3).opB ((d2 1 0 0).view 0x3F)).toNat := by decide

/-- `base` with a copy of a firing at the repeat unit and one answer that has come back, both with room. -/
def waiting (l : List Flight) : State :=
  (base 1 2 3).modElem 0 fun x => { x with rpt := some { f := { t0 := { val := 9 } }, sent := 1, total := 2 },
                                           answers := [{ toks := [{}] }], outStage := l }

theorem wit_SequencingAndAnswers :
    ((base 1 0 3).opB ((d2 14 0 0).view 0x09)).toNat = 0 ∧ 0 < ((base 1 1 3).opB ((d2 14 0 0).view 0x09)).toNat ∧
    ((base 1 0xFFFFFFFF 3).opB ((d2 14 0 0).view 0x09)).toNat < 2 ^ 32 ∧
    (let s := waiting [{}, {}, {}]; let k := s.at_.a
     let v := s.view 0
     (∃ p, (s.elem k).rpt = some p ∧ p.f.elem = k ∧ p.f.key = 0) ∧ (s.elem k).stop = false ∧ s.marksAhead k 0 = false ∧
     s.sendFault (outs1 v {}) = none ∧
     (s.elem k).outStage.length + s.asked k + (outs1 v {}).length ≤ 4 ∧ s.stageHeld k = false ∧
     ∃ a rest, (s.elem k).answers = [] ++ a :: rest ∧ s.crossing a.via = false ∧ (s.elem k).outStage.length + s.asked k + a.toks.length ≤ 4) ∧
    (let s := { waiting [] with chans := [(0, { q := [{ id := 7 }] })] }; s.crossing 7 = true ∧ s.crossing 0 = false) := by
  refine ⟨by decide, by decide, by decide, ⟨⟨_, rfl, rfl, rfl⟩, rfl, by decide, rfl, by decide, by decide, _, _, rfl, by decide, by decide⟩, by decide⟩

/-- A request on its way, with room for it in the allocator; frame indices at their greatest. -/
theorem wit_AllocatorRequests : (base 4095 2 3).opA.toNat < 4096 ∧
    ((d1 2).lit.toNat = 2 ∧ (d1 3).lit.toNat = 3 ∧ (d1 5).lit.toNat = 5) ∧
    (let s := (base 1 2 3).modRegion 0 fun r => { r with allocIn := [{}], allocQ := List.replicate 255 {} }
     (∃ q, (s.region s.at_.a).allocIn.find? (fun x => !s.crossing x.via) = some q) ∧ (s.region s.at_.a).allocQ.length < 256) := by
  refine ⟨by decide, by decide, ⟨_, rfl⟩, ?_⟩
  show (List.replicate 255 ({} : AReq)).length < 256
  rw [List.length_replicate]; decide

/-- A `falloc` of frame 7 at the head of region 0, whose FX 0 and 1 are taken. -/
def granting : State :=
  ((base 1 2 3).modRegion 0 fun r => { r with fx := [(0, { alloc := true }), (1, { alloc := true })],
                                              allocQ := [{ kind := .falloc, f := { t0 := { fx := 7 } } }] }).modElem 0
    fun x => { x with nodes := [(0, 0x10E020000000000000000010)] }

theorem wit_FallocGrant : (let s := granting; let r := s.region s.at_.a
    (∃ q, r.allocQ = [q] ∧ q.kind = .falloc ∧ (s.view q.f.key).hdr.ndest ≠ 0 ∧ s.sendFault (outs1 (s.view q.f.key) {}) = none) ∧
    r.freeCount - r.resCount > 0 ∧ 2 < 4096 ∧ (r.fx.look 2).alloc = false ∧ (∀ k, k < 2 → (r.fx.look k).alloc = true) ∧
    ∀ c ∈ s.cts, c.2.spawnWait = []) := by
  refine ⟨⟨_, rfl, rfl, by decide, by decide⟩, by decide, by decide, by decide, by decide, by decide⟩

/-- Frame 7 being released: tile 0 still to give notice, and none; the load's weight comes back in part and in full. -/
def releasing (w : List Nat) (issued : Word) : State :=
  { base 1 2 3 with
    regions := [(5, { load := 3, fx := [(7, { alloc := true, releasing := true, waitCt := w, weight := 4 })] })]
    loads := [(3, { phase := .running, regions := [5], issued := issued })]
    at_ := { a := 5, b := 7, c := 0 } }

theorem wit_FrameReleases :
    (let s := base 1 2 3; (7 : Nat) ≠ 0 ∧ (s.fxRec 5 7).alloc = true ∧ (s.fxRec 5 7).releasing = false ∧
      s.destFault (((s.ct s.cur.sq).slot s.cur.t0.fx.toNat 0).val.extractLsb' 16 28) = none) ∧
    (let s := (base 1 2 3).modFx 5 7 fun f => { f with link := 0x8000000000000000 }
     linkIt (s.fxRec 5 7).link = true ∧ linkRtd (s.fxRec 5 7).link = false ∧ linkSv (s.fxRec 5 7).link = false ∧
     (s.fxRec 5 7).releasing = false ∧ slot0Pfx (s.fxRec 5 7).slot0 ≠ 7 ∧ ((releasing [] 8).fxRec 5 7).releasing = true) ∧
    (let s := (base 1 2 3).modFx 5 7 fun f => { f with link := 0xC000000000000000 }
     linkIt (s.fxRec 5 7).link = true ∧ linkRtd (s.fxRec 5 7).link = false ∧ linkSv (s.fxRec 5 7).link = true) ∧
    (let s := releasing [0] 8; 0 ∈ (s.fxRec 5 7).waitCt ∧ (∀ p ∈ (s.fxRec 5 7).notices, p.1 = sqDie 0 → s.crossing p.2 = false) ∧ (s.ct 0).restoreQ = [] ∧ (s.ct 0).spawnWait = []) ∧
    (let s := releasing [] 8; let fr := s.fxRec 5 7
     fr.alloc = true ∧ fr.releasing = true ∧ fr.waitCt = [] ∧ (∀ n ∈ fr.acks, s.crossing n = false) ∧ (s.wctx.look (5 * 4096 + 7)).chain = [] ∧ linkIt fr.link = false ∧
     linkDrw fr.link = false ∧ fr.answers = [] ∧ (s.load 3).phase = .running ∧ (s.load 3).returned + BitVec.ofNat 64 fr.weight ≠ (s.load 3).issued) ∧
    (let s := releasing [] 4; (s.load 3).returned + BitVec.ofNat 64 (s.fxRec 5 7).weight = (s.load 3).issued) := by decide

/-- Slots 0, 1, 4 and 15 of the class; a weight of 2 in slot 2. -/
theorem wit_FrameSlotsAndWeights :
    (let s := base 1 2 3; ∃ p, (s.ct s.cur.sq).entry s.cur.t0.fx.toNat = some p ∧
      ∀ n ∈ [0, 1, 4, 15], n < clsSlots p.2.cls ∧ n ≠ 2 ∧ n ≠ 3) ∧
    (let s := (base 1 2 3).modCt 0 fun c => { c with slots := [(18, { val := 2 })] }
     2 ≤ s.weightOf s.cur ∧ (s.ct s.cur.sq).splitQ = [] ∧ Dests1Ok s ((d1 0).view 0x1C)) ∧
    (base 1 2 3).weightOf (base 1 2 3).cur ≤ 1 ∧
    (let s := (base 1 2 3).modCt 0 fun c => { c with splitQ := [({ t0 := { fx := 7 } }, 0)] }
     ∃ p ∈ (s.ct s.cur.sq).splitQ, p.1.t0.fx = s.cur.t0.fx) := by
  refine ⟨⟨_, rfl, by decide⟩, ⟨by decide, rfl, rfl⟩, by decide, _, .head _, rfl⟩

/-- A spill under way; a restore that ends; and one that finds the run at slot 0. -/
theorem wit_SpillAndRestore :
    (let c : Ct := { spillRuns := [{ base := 0 }] }; (∃ run ∈ c.spillRuns, run.base = 0 ∧ run.done = false) ∧ c.restoreQ = [] ∧ c.spawnWait = []) ∧
    (let c : Ct := { restoring := some (7, 16), spilledFx := [7] }; c.restoring = some (7, 16) ∧ c.restoreQ = []) ∧
    (let s := (base 1 2 3).modCt 0 fun c => { c with ftab := [], restoreQ := [7], spilledFx := [7] }
     let c := s.ct 0
     c.restoring = none ∧ c.restoreQ = [7] ∧ 7 ∈ c.spilledFx ∧ (∀ run ∈ c.spillRuns, run.need ≠ .restore 7) ∧
     c.findRun (clsSlots (c.spilled.look 7).cls) (s.runCount 0 (clsSlots (c.spilled.look 7).cls)) = some 0) := by
  refine ⟨⟨⟨_, .head _, rfl, rfl⟩, rfl, rfl⟩, ⟨rfl, rfl⟩, by decide⟩

theorem wit_ExactSumIgnoresOrder : ((d2 13 0 0).view 0xA6).tyN = 13 ∧
    ([0x3F800000#64, 0x4B800000#64, 0xCB800000#64] : List Word).length ≤ 2 ^ 31 ∧
    [0xCB800000#64, 0x3F800000#64, 0x4B800000#64].Perm [0x3F800000#64, 0x4B800000#64, 0xCB800000#64] ∧
    ∀ x ∈ ([0x3F800000#64, 0x4B800000#64] : List Word), ∃ n m e,
      (fmtOfTy 13).value (lane (tyW 13) x 0) = .fin n m e := by
  refine ⟨rfl, by decide, by decide, ?_⟩
  intro x hx
  rcases List.mem_pair.mp hx with rfl | rfl <;> exact ⟨_, _, _, rfl⟩

/-- `base` with a record at node 4 of element 0 and a token for its port 0 in the input stage; slot 4 of the frame is `sl`. -/
def arriving (w : Rec96) (sl : Slot) : State :=
  { base 1 2 3 with
    elems := [(0, { nodes := [(4, w)], inStage := [{ tok := { dest := 16, fx := 7 } }] })]
    cts := [(0, { ftab := [(0, { v := true, fx := 7, base := 16 })], slots := [(20, sl)] })] }

/-- The hypotheses that every clause shares, and those of each: one operand; two, with the slot free, with the other port's
operand parked, and with this port's. -/
theorem wit_TokenArrivalMatches : ∀ w ∈ [0x01E020000000000000000010#96, 0x202020040000000100000020#96],
    ∀ sl ∈ ([{}, { p := true, prt := 1 }, { p := true, prt := 0 }] : List Slot),
    let s := arriving w sl
    let fl : Flight := { tok := { dest := 16, fx := 7 } }
    let v := s.view (destKey fl.tok.dest)
    (s.elem 0).stage[s.at_.b]? = some fl ∧ s.offered 0 s.at_.b fl = true ∧ s.turnOf 0 s.at_.b fl = true ∧ fl.tok.par = false ∧
    (s.regionOf 0).withdraw = false ∧ nodeCheck (s.regionOf 0).level (s.litDeclared 0 v) v fl.tok = none ∧
    (s.fxRec (s.ridOf 0) 7).alloc = true ∧ (s.fxRec (s.ridOf 0) 7).releasing = false ∧ s.parkedAt 0 7 = false ∧
    (∃ p, (s.ct 0).entry 7 = some p ∧ p.2.sp = false ∧
      ∃ i n, opInfo v.op.toNat = some i ∧ i.ins = .ports n ∧ tokenOperands i v = (if w = 0x01E020000000000000000010#96 then 1 else 2) ∧
        v.slot + slotSpan i v ≤ clsSlots p.2.cls) ∧
    (∀ k, s.ecc.look k = 0) ∧ v.op.toNat ≠ 0x16 ∧ v.op.toNat ≠ 0x17 ∧ v.op.toNat ≠ 0x97 ∧ (s.elem 0).readyQ.length < 64 ∧
    (w ≠ 0x01E020000000000000000010#96 → (s.ct 0).slot 7 v.slot = sl) ∧ sl.b = false := by
  intro w hw sl hs
  simp only [List.mem_cons, List.not_mem_nil, or_false] at hw hs
  rcases hw with rfl | rfl <;> rcases hs with rfl | rfl | rfl <;>
    exact ⟨rfl, by decide, by decide, rfl, rfl, by decide, rfl, rfl, by decide,
      ⟨_, rfl, rfl, _, _, rfl, rfl, by decide, by decide⟩, fun _ => rfl, by decide, by decide, by decide, by decide, by decide, by decide⟩

/-- Tile 0 whose frame 7 is spilled, with a token for node 4 at its matcher. -/
def matching (w : Rec96) : State :=
  (arriving w {}).modCt 0 fun c =>
    { c with ftab := [], spilledFx := [7], spilled := [(7, { slots := List.replicate 16 {} })], matcherIn := [{ tok := { dest := 16, fx := 7 } }] }

/-- A token at the spill matcher whose part has come back, and for each row of R346 a token whose part is spilled; a free
run for the part, and a restore of another under way. -/
theorem wit_SpillMatcher :
    (let s := (arriving 0x202020040000000100000020#96 {}).modCt 0 fun c => { c with matcherIn := [{ tok := { dest := 16, fx := 7 } }] }
     (s.fxRec (s.ridOf 0) 7).alloc = true ∧ (s.fxRec (s.ridOf 0) 7).releasing = false ∧ 7 ∉ (s.ct 0).spilledFx) ∧
    (∀ p ∈ [(0x01E020000000000000000010#96, MatcherRow.forward), (0x202020040000000100000020#96, .match_), (0x16E020000000000010000010#96, .hold)],
      let s := matching p.1
      let v := s.view 4
      7 ∈ (s.ct 0).spilledFx ∧ s.parkedAt 0 7 = false ∧ destSq 16 = 0 ∧
      (∃ i, opInfo v.op.toNat = some i ∧ matcherRow v i = p.2 ∧ (p.2 = .match_ → tokenOperands i v = 2 ∧ ∃ n, i.ins = .ports n)) ∧
      (s.ct 0).entry 7 = none ∧ (p.2 = .match_ → (s.ct 0).pastClass v 7 = false ∧ v.slot < ((s.ct 0).spilled.look 7).slots.length ∧
        ((s.ct 0).slot 7 v.slot).b = false ∧ ((s.ct 0).slot 7 v.slot).p = false) ∧
      (s.ct 0).restoreQ = [] ∧ (s.ct 0).restoring = none ∧ (s.ct 0).spillRuns = [] ∧
      (s.ct 0).findRun (clsSlots ((s.ct 0).spilled.look 7).cls) (s.runCount 0 (clsSlots ((s.ct 0).spilled.look 7).cls)) = some 0) ∧
    (∃ g b, ({ restoring := some (8, 0) } : Ct).restoring = some (g, b) ∧ g ≠ 7) := by
  refine ⟨by decide, ?_, _, _, rfl, by decide⟩
  intro p h
  simp only [List.mem_cons, List.not_mem_nil, or_false] at h
  rcases h with rfl | rfl | rfl <;>
    exact ⟨by decide, by decide, by decide, ⟨_, rfl, by decide, fun _ => ⟨by first | rfl | (exfalso; revert ‹_›; decide), ⟨_, rfl⟩⟩⟩,
      by decide, by decide, rfl, rfl, rfl, by decide⟩

/-- A token for column 1 of row 0 in the output stage of element 0; and, in the router of square 0, a control token, a
multicast token of its own die, one to move on and one to deliver. -/
theorem wit_RouterHops :
    (let s := (base 1 2 3).modElem 0 fun x => { x with outStage := [{ tok := { dest := 0x4000 } }] }
     let fl : Flight := { tok := { dest := 0x4000 } }
     (s.elem 0).outStage[0]? = some fl ∧ fl.ready ≤ s.cycles ∧ s.stageHeld 0 = false ∧
     (∀ x ∈ (s.elem 0).outStage.take 0, ¬ (x.src = fl.src ∧ x.tok.rt = fl.tok.rt)) ∧ (s.rin.look (rinKey 0 0 0)).length < 8) ∧
    (let fl : Flight := { tok := { kind := 3 } }; (4 : Nat) ≤ 4 ∧ fl.tok.kind = 3#2) ∧
    (let fl : Flight := { tok := { mc := true } }
     let s := { base 1 2 3 with rin := [(rinKey 0 0 0, [fl])] }
     s.rin.look (rinKey 0 0 0) = [fl] ∧ fl.tok.kind ≠ 3#2 ∧ fl.ready ≤ s.cycles ∧ s.rtTurn 0 (s.outputOf 0 fl) 0 = true ∧
     isCt 0 = true ∧ s.linkHeld 0 0 0 = none ∧ fl.tok.mc = true ∧ destDie fl.tok.dest = sqDie 0 ∧ s.destsOf fl = []) ∧
    (let fl : Flight := { tok := { mc := true }, dests := [0x4000, 16] }
     let s := base 1 2 3
     s.branchAt 0 (s.destsOf fl) = (0x4000 :: [], [16]) ∧ nextHop 0 0x4000 = .hop 1 4 ∧ 1 ∉ s.fused ∧
     s.heldOut (s.lidOf 1 != s.lidOf 0) 1 0x4000 (fl.copyTo [0x4000]) = false ∧ s.rtTurn 0 (s.outputOf 0 fl) 0 = true) ∧
    (let s := base 1 2 3
     nextHop 0 0x4000 = .hop 1 4 ∧ 1 ∉ s.fused ∧ s.heldOut (s.lidOf 1 != s.lidOf 0) 1 0x4000 { tok := { dest := 0x4000 } } = false ∧
     rinKey 1 4 0 ≠ rinKey 0 0 0 ∧ (s.rin.look (rinKey 1 4 0)).length < 8) ∧
    (let s := base 1 2 3
     nextHop 0 16 = .deliver ∧ 0 ∉ s.fused ∧ isCt 0 = true ∧
     (s.elem (destElem 16)).inStage.length + (s.elem (destElem 16)).back.length < 4) ∧
    (let fl : Flight := { tok := { mc := true }, dests := [16, 16] }
     (base 1 2 3).destsOf fl = 16 :: [16] ∧ destDie fl.tok.dest = sqDie 0 ∧ nextHop 0 16 = .deliver) := by
  decide

/-- Columns and rows at both ends of the grid, apart and equal. -/
theorem wit_RoutingIsXThenY : sqX 63 < 64 ∧ sqX 63 ≠ 0 ∧ sqX 0 = 0 ∧ sqY (63 * 64) = 63 ∧ sqY (63 * 64) ≠ 0 := by decide

/-- Link 0 with the modules 0 and 1, channel 0 of which has failed eight replays; and a message at CD1, from the link
2, for die 2. -/
def linked (fails : Nat) (rx : List Msg) : State :=
  { base 1 2 3 with
    links := [(0, { active := [0, 1] }), (1, { active := [0] })]
    chans := [(0, { fails := fails, rx := rx, q := [{}], cut := 1 })]
    boot := [(0, 6), (1, 6), (2, 6)] }

/-- A channel with room in its replay store, whose next frame comes through, or has its first bit flipped. -/
theorem wit_LinkEvents_frames :
    let s := linked 0 []
    let ch := s.chans.look 0
    0 % 32 ∈ (s.links.look (0 / 64)).active ∧ (s.links.look (0 / 64)).draining = false ∧ ch.nak = false ∧
    ch.next = ch.frames.length ∧ ch.next < 64 ∧ (0 < 4096 ∧ 4096 ≤ 4096 ∧ 4096 < 4097) ∧
    (256 * 15 + 1 ≤ 4096 ∧ frameOk (frameBits {} (s.chans.look 32) ^^^ 2 ^ (256 * 15 + 1 - 1)) = false) := by
  refine ⟨by decide, rfl, rfl, rfl, by decide, by decide, by decide, ?_⟩
  rw [Nat.add_sub_cancel]
  exact Sys2Proof.Laws.Links.frameOk_flipped _ _ (Nat.zero_le 15)

/-- A channel to remove, a token and a message of another class for the bridge, and both at their own die. -/
theorem wit_LinkEvents :
    (let s := linked 8 []
     8 ≤ (s.chans.look 0).fails ∧ (s.links.look 0).active.filter (· ≠ 0) = [1] ∧ 0 < 2 ∧ 1 < 32 ∧ (s.chans.look 0).undelivered ≠ []) ∧
    (∀ m ∈ ([{ fl := { tok := { dest := 0x8000000 } }, dst := 2 }, { cls := .mgmt, dst := 2 }] : List Msg),
      let s := linked 0 [m]
      ∃ b, takeCode (s.chans.look 0).rx b = some (m, []) ∧ s.overtakes 0 m = false ∧ dirTo 0 0 = 1 ∧ m.dst ≠ 1 ∧ pathLinks 1 m.dst = [1] ∧
        chanKey 1 (dirOf 1 1) ((s.links.look 1).channel m) ≠ 0 ∧
        (m.cls = .tok → m = { fl := m.fl, dst := targetDie m.fl.tok.dest, notBefore := m.notBefore } ∧ s.linkUp 1 = true ∧
          permitOk ((s.chans.look (chanKey 1 (dirOf 1 1) ((s.links.look 1).channel m))).q.foldl (fun t x => x.charge t)
            (s.chans.look (chanKey 1 (dirOf 1 1) ((s.links.look 1).channel m))).used) m.code 1 = true)) ∧
    (∀ m ∈ ([{ fl := { tok := { dest := 0x4000000 } }, dst := 1 }, { cls := .mgmt, dst := 1 }] : List Msg),
      let s := linked 0 [m]
      ∃ b, takeCode (s.chans.look 0).rx b = some (m, []) ∧ m.dst = dirTo 0 0 ∧ s.overtakes 0 m = false ∧
        (∀ x ∈ s.notices, x.via = m.id → m.id = 0) ∧
        (m.cls = .tok → m.fl.tok.mc = false ∧ m.fl.dests = [] ∧ dirTo 0 0 < 3 ∧
          s.heldOut true (entrySquare 0 0 m.fl).1 m.fl.tok.dest m.fl = false)) := by
  refine ⟨by decide, ?_, ?_⟩ <;> intro m h <;> simp only [List.mem_cons, List.not_mem_nil, or_false] at h <;>
    rcases h with rfl | rfl
  · exact ⟨0, by decide⟩
  · exact ⟨8, by decide⟩
  · exact ⟨0, by decide⟩
  · exact ⟨8, by decide⟩

/-- Port 143 up on a running I/O die; ingress 255, from port 143 and from an endpoint, and one without a registration; an
`xsend` whose partner is the first entry of XRT, and its answers. -/
def scaled : State :=
  { base 1 2 3 with
    pkgid := 1
    boot := [(0, 6), (1, 6), (2, 6), (3, 6), (4, 6)]
    links := [(0, { active := [0] }), (2, { active := [0] }), (3, { active := [0] }), (portLink 143, { active := [0] })]
    ports := [(143, { status := 1 })]
    ing := [(255, { v := true })]
    at_ := { a := 0, b := 143, c := 0 } }

theorem wit_ScaleUpEvents : (let s := scaled; s.pkgid ≠ 0xFFFF ∧ 143 < 144 ∧ s.running (portDie 143) = true) ∧
    (let s := scaled; 255 < 256 ∧ s.at_.a = 0 ∧ s.at_.b = 143 ∧ (s.ports.look 143).status = 1 ∧ s.running (portDie 143) = true ∧
      (s.links.look (portLink 143)).active = [0] ∧ (s.links.look (portLink 143)).old = [] ∧ (s.ing.look 255).v = true ∧
      (s.ing.look 0).v = false) ∧
    (let s := { scaled with at_ := { a := 2048 + 511 + 1 }, ioIn := [(2048 + 511, [{}])] }
     s.ioIn.look (2048 + 511) = [{}] ∧ (2048 + 511) / 256 % 8 = 1 ∧ (s.ing.look ((2048 + 511) % 256)).v = true) ∧
    (let s := { scaled with reqs := [(9, { op := 0xBF, stage := .sent, data := [0x01000001], io := some 3, issued := true, words := [0] })]
                            xrt := [(0, 0x8000010001000005)] }
     let r := s.reqs.look 9
     r.op = 0xBF ∧ r.stage = .sent ∧ s.reached r = true ∧ r.issued = true ∧ r.words = [0] ∧
     ((List.range 1024).any fun j => xrtHits (s.xrt.look j) (fld (r.data[0]?.getD 0).toNat 0 16) (fld (r.data[0]?.getD 0).toNat 16 8)) = true) ∧
    (let s := { scaled with reqs := [(9, { op := 0xBF, stage := .sent, data := [0x01000001], io := some 3 })]
                            xrt := [(0, 0x8000010001000005)], ports := [(5, { status := 1 })] }
     let r := s.reqs.look 9
     let w := (r.data[0]?.getD 0).toNat
     r.op = 0xBF ∧ r.stage = .sent ∧ s.reached r = true ∧ portDie 5 = r.io.getD 3 ∧ r.issued = false ∧
     (∀ o ∈ s.reqs, ¬ (o.1 < 9 ∧ o.2.op = 0xBF ∧ o.2.stage = .sent ∧ o.2.issued = false ∧ o.2.f.key = r.f.key)) ∧
     ((List.range 1024).find? fun j => xrtHits (s.xrt.look j) (fld w 0 16) (fld w 16 8)) = some 0 ∧
     xrtPort (s.xrt.look 0) (fld w 16 8) (fld w 24 2) = 5 ∧ (s.ports.look 5).status = 1 ∧ s.running (portDie 5) = true ∧
     permitOk ((s.chans.look (chanKey (portLink 5) 0 0)).q.foldl (fun t x => x.charge t) (s.chans.look (chanKey (portLink 5) 0 0)).used)
       (fld w 24 2) 1 = true) := by
  decide +kernel

def fm (ty opf : BitVec 4) (off : BitVec 12) : FM :=
  { ty := ty, tg := 0, litp := false, ndest := 1, arity3 := false, opf := opf, slot := 4, pred := 0, own := 1, succ := 0xFF,
    off := off, destA := 16 }

/-- The greatest address operand below 2^56 that is a multiple of the granule, and the least at which each check fails. -/
theorem wit_MemoryRequestsLeave :
    (let s := base 0xFFFFFFFFFFFFF0 1 0
     (∀ op ∈ [0x90#8, 0x91, 0x94, 0x95, 0x96, 0x99, 0x9A, 0x9C, 0x92, 0x93], s.opA.toNat < 2 ^ 56 ∧
       effAddr ((fm 0 0 0).view op) s.opA % granule op.toNat (fm 0 0 0).ty.toNat = 0) ∧
     (∀ p ∈ s.reqs, p.2.again = false) ∧ 0 < s.cur.t1.val.toNat ∧ s.cur.t1.val.toNat < 2 ^ 32 ∧ s.destFault (fm 0 0 0).destA = none) ∧
    (let s := base 0x100000000000000 1 0
     2 ^ 56 ≤ s.opA.toNat ∧ ((fm 0 0 0).view 0x98).hdr.ndest ≠ 0 ∧ s.sendFault (outs1 ((fm 0 0 0).view 0x98) {}) = none) ∧
    (let s := (base 0xFFFFFFFFFFFF80 1 0).modCt 0 fun c => { c with slots := [(27, { val := 0x10 })] }
     let v := (fm 0 0 0).view 0x97
     (∀ i, i < 8 → (s.slotOf s.cur (v.slot + i)).b = false) ∧ effAddr v s.opA % 128 = 0 ∧
     alrBad (((List.range 8).map fun i => (s.slotOf s.cur (v.slot + i)).val)[7]?.getD 0) = none ∧
     (s.ct s.cur.sq).entry s.cur.t0.fx.toNat ≠ none) := by decide

theorem wit_MemoryNodeFaults :
    (2 ^ 56 ≤ (base 0x100000000000000 1 0).opA.toNat) ∧
    (∀ op ∈ [0x90#8, 0x91, 0x92, 0x93, 0x94, 0x95, 0x96, 0x99, 0x9A, 0x9C], (base 4 1 0).opA.toNat < 2 ^ 56 ∧
      effAddr ((fm 0 0 0).view op) (base 4 1 0).opA % granule op.toNat (fm 0 0 0).ty.toNat ≠ 0) := by decide

/-- `base` with all dies running and request 9, the place of the event. -/
def asking (r : MReq) : State :=
  { base 1 2 3 with
    boot := [(0, 6), (1, 6), (2, 6), (3, 6), (4, 6)]
    reqs := [(9, r)]
    elems := [(0, { nodes := [(4, 0x90002004030405000000001C)] })]
    at_ := { a := 9, b := 0, c := 0 } }

/-- A request on its way to a closing context and to an open one with 31 held; a reply that has come back, late and in
time; a confirmed egress entry; a load whose timer runs out now, and an entry of the egress store buffer. -/
theorem wit_RequestsArriveAndReturn :
    (let s := { asking { stage := .toUnit } with wctx := [(0, { closing := true })] }
     let r := s.reqs.look 9
     r.stage = .toUnit ∧ s.crossing r.via = false ∧ (∀ p ∈ s.reqs, ¬ (p.1 < 9 ∧ p.2.stage = .toUnit ∧ p.2.f.elem = r.f.elem ∧ p.2.cluster = r.cluster)) ∧
     (s.wctx.look (ctxKey r)).closing = true) ∧
    (let c : WCtx := { isOpen := true, held := List.range 31 }; c.closing = false ∧ c.isOpen = true ∧ c.held.length < 32) ∧
    (let s := asking { stage := .reply, orphan := true }
     let r := s.reqs.look 9
     r.stage = .reply ∧ s.crossing r.via = false ∧ r.orphan = true) ∧
    (∀ op ∈ [0x90, 0x91, 0x92, 0x93, 0x99], let s := asking { stage := .reply, op := op, f := { node := 4 } }
     let r := s.reqs.look 9
     r.orphan = false ∧ r.dead = false ∧ r.err = none ∧ r.deferred = false ∧ r.eng = false ∧ r.op ∈ [0x90, 0x91, 0x92, 0x93, 0x99] ∧
     (s.view r.f.key).hdr.ndest ≠ 0 ∧ s.sendFault (outs1 (s.view r.f.key) {}) = none) ∧
    (let s := asking { stage := .posted, performed := true, acked := true }
     let r := s.reqs.look 9
     r.stage = .posted ∧ r.performed = true ∧ s.crossing r.via = false ∧ r.acked = true ∧ r.err = none) ∧
    (let s := asking { stage := .sent, op := 0x90 }
     s.at_.b = 0 ∧ s.overdue 9 = true ∧ isLoad (s.reqs.look 9).op = true ∧ (s.reqs.look 9).stage ≠ .posted ∧ (s.reqs.look 9).eng = false) ∧
    (let s := { asking { stage := .posted, op := 0x91 } with serial := 9 }
     s.at_.b = 0 ∧ s.overdue 9 = true ∧ (s.reqs.look 9).stage = .posted ∧ 9 ≤ s.serial) := by decide

theorem wit_HomeStoresAndLoads : ∀ op ∈ [0x91, 0x93, 0x90, 0x92], let s := asking { stage := .sent, op := op, pa := some 0, size := 8 }
    s.homeReady 9 = true ∧ (s.reqs.look 9).pa = some 0 ∧ (∀ w, s.ecc.look w = 0) := by
  intro op h
  simp only [List.mem_cons, List.not_mem_nil, or_false] at h
  rcases h with rfl | rfl | rfl | rfl <;> exact ⟨by decide, rfl, fun _ => rfl⟩

/-- The first and the last simple update, on the first and the last word of the line; COUNT one short of TARGET, and
reaching it; a count that has crossed. -/
theorem wit_AtomicAndSyncWords : (∀ op ∈ [1, 3, 5, 12], 1 ≤ op ∧ op ≤ 12 ∧ op ≠ 4) ∧ (0 < 16 ∧ 15 < 16) ∧ 0 < [0#64].length ∧
    (let s := (base 1 2 3).setByte 0 2
     0 < s.rd 0 4 ∧ s.rd 4 4 + 1 < s.rd 0 4 ∧ s.rd 0 4 ≤ s.rd 4 4 + 2 ∧ (base 1 2 3).rd 0 4 = 0) ∧
    (let s := { base 1 2 3 with syncIn := [{ n := 2, via := 7 }, { n := 1 }], at_ := { a := 1 }, chans := [(0, { q := [{ id := 7 }] })] }
     ∃ c, s.syncIn[s.at_.a]? = some c ∧ s.crossing c.via = false ∧ ∀ x ∈ s.syncIn.take s.at_.a, x.pa = c.pa → s.crossing x.via = true) ∧
    ({ base 1 2 3 with ecc := [(0, 2)] } : State).eccBad 0 16 ≠ none := by
  refine ⟨by decide, by decide, by decide, by decide, ⟨_, rfl, by decide, by decide⟩, by decide⟩

/-- Word 0 of the structure store of MT 1, empty, full and deferred. -/
def istructure (op st : Nat) : State :=
  { asking { stage := .sent, op := op, pa := some 0x1000000400000, size := 8, f := { node := 4 } } with
    mts := [(1, { mode := 3, istate := [(0, st)] })] }

theorem wit_IStructures : ∀ op ∈ [0x94, 0x95, 0x96], ∀ st ∈ [1, 2],
    let s := istructure op st
    s.homeReady 9 = true ∧ (s.reqs.look 9).pa = some 0x1000000400000 ∧ (∀ w, s.ecc.look w = 0) ∧ isScratch 0x1000000400000 = true ∧
    scratchSq 0x1000000400000 = 1 ∧ s.iState 0x1000000400000 = st ∧ (s.mt 1).readers.length < 4096 ∧
    (s.reqs.look 9).orphan = false ∧ s.destFault (s.view (s.reqs.look 9).f.key).destA = none := by
  intro op h st h2
  simp only [List.mem_cons, List.not_mem_nil, or_false] at h h2
  rcases h with rfl | rfl | rfl <;> rcases h2 with rfl | rfl <;>
    exact ⟨by decide, rfl, fun _ => rfl, by decide, by decide, by decide, by decide, rfl, by decide⟩

/-- A walk whose entry is a table, and one whose entry is a leaf of level 0. -/
def walking (l : Nat) (top : Byte) : State :=
  { (((base 1 2 3).setByte 7 top).setByte 2 1) with walks := [(4, { level := l })], at_ := { a := 4, b := 0, c := 0 } }

theorem wit_PageWalksAndScrubbing :
    (let s := walking 1 0x80
     (∃ p ∈ s.walks, p.1 = 4) ∧ s.crossing 0 = false ∧ (s.walks.look 4).got = none ∧ (s.walks.look 4).bad = false ∧
     homeDie (entryPa 0 1 0) = 0 ∧ s.hbmMapped 0x10000 = true ∧ s.walkEntry 0 0 1 0 (s.rd (entryPa 0 1 0) 8) = .next 0x10000 ∧
     s.hbmMapped (2 ^ 48) = false ∧ s.walkEntry 0 0 1 0 (2 ^ 63 + 2 ^ 48) = .next (2 ^ 48) ∧ s.walkEntry 0 0 1 0 0 = .bad 0) ∧
    (let w : Walk := { orphan := true, got := some 0 }; w.orphan = true ∧ w.got = some 0) ∧
    (let s := walking 0 0xE0
     s.walkEntry 0 0 0 0 (s.rd (entryPa 0 0 0) 8) = .leaf { rd := true, wr := false, us := false, bits := 16, pa := 0x10000 }) ∧
    (let s := { walking 1 0x80 with walks := [(4, { level := 1, table := 2 ^ 38 })], boot := [(1, 6)] }
     homeDie (entryPa 0 1 (2 ^ 38)) ≠ 0 ∧ s.running (homeDie (entryPa 0 1 (2 ^ 38))) = true) ∧
    (let e := (walking 0 0xE0).rd 0 8
     (base 1 2 3).hbmMapped 0 = true ∧ tbit e 63 = true ∧ tbit e 62 = true ∧ 0 < 3 ∧ fld e 52 7 = 0 ∧ fld e 0 8 = 0 ∧
     fld e 8 44 * 256 % 2 ^ lvlLo 0 = 0 ∧ tbit e 61 = true ∧ (base 1 2 3).hbmMapped (fld e 8 44 * 256) = true) ∧
    tbit ((base 1 2 3).rd 0 8) 63 = false ∧ fld ((walking 0 0x81).setByte 6 0x10 |>.rd 0 8) 52 7 ≠ 0 ∧
    (∀ c ∈ [1, 2], let s := { base 1 2 3 with ecc := [(0, c)] }; s.paOk 0 = true ∧ s.ecc.look 0 = c ∧ eccWord 0 = 0) := by
  decide

/-- A descriptor of 64 rows of 512 bytes at offset 0 with a count, and a handle for a b8 window of buffer 0 of MT 1. -/
def desc (cnt : Nat) : Word := BitVec.ofNat 64 (2 ^ 63 + cnt * 2 ^ 38 + 63 * 2 ^ 16 + 63 * 2 ^ 10)
def handle (dt rows cols : Nat) : Word := BitVec.ofNat 64 (dt * 2 ^ 60 + 2 ^ 46 + (rows - 1) * 2 ^ 26 + (cols - 1) * 2 ^ 19)

/-- `base` in a load that holds a queue and a barrier cell on square 1, with the MT of buffer 0 there. -/
def objects (a b : Word) (cnt : Nat) : State :=
  { base a b 3 with
    loads := [(3, { phase := .running, regions := [5], queues := [4], barriers := [0] }), (4, { phase := .running, regions := [6] })]
    regions := [(5, { load := 3 }), (6, { load := 4 })]
    mts := [(1, { bufs := [(0, desc cnt)], pool := [0] })] }

theorem wit_ObjectRequests :
    (let s := objects 0 1 1
     (s.load (s.lidOf s.cur.sq)).queues[(d2 14 0 0).lit.toNat]? = some 4 ∧ s.opA.toNat ≤ 2 ∧ s.opA = 0 ∧
     (s.load (s.lidOf s.cur.sq)).barriers[(d2 14 0 0).lit.toNat]? = some 0) ∧
    (∀ p ∈ [(({ src := .tile 1 0 12 64 128 none, dst := .tile 1 1 12 64 128 none } : Template), 0#64),
        ({ src := .arm, dst := .tile 1 1 12 64 128 none, esize := 8 }, 0xFFFFFFFFFFFFF8#64)],
      let s := { objects p.2 1 1 with mts := [(1, { queues := [(0, { tmpl := some p.1 })] })],
                                      tlb := [(0, [{ rid := 5, page := 0xFFFFFFFFFFFFF8 / 2 ^ 16, bits := 16, rd := true, us := true }])] }
      (s.queue 4).tmpl = some p.1 ∧ ((p.1.src ≠ .arm ∧ p.1.dst ≠ .arm ∧ s.opA = 0) ∨
        ((p.1.src = .arm ∨ p.1.dst = .arm) ∧ s.opA.toNat < 2 ^ 56 ∧ s.armFault p.1 s.opA.toNat = none))) ∧
    (objects 2 1 1).opA.toNat ≤ 2 ∧
    (let s := objects 0x400000000000 1 1
     s.selector s.cur s.opA = some 1 ∧ fld s.opA.toNat 0 2 = 0 ∧ agValueOk (fld s.opA.toNat 0 2) s.cur.t1.val = true) ∧
    (let s := { objects 0x400000000000 8 1 with mts := [(1, { edge := true })], regions := [(5, { load := 3, mode := true })] }
     s.selector s.cur s.opA = some 1 ∧ (s.mt 1).edge = true ∧ (s.regionOf 1).mode = true ∧ fld s.cur.t1.val.toNat 3 4 ≠ 15 ∧
     fld s.cur.t1.val.toNat 7 9 = 0 ∧ fld s.cur.t1.val.toNat 32 32 = 0 ∧ fld s.cur.t1.val.toNat 16 16 = 0 ∧
     (d2 14 0 7).lit.toNat % 2 = 1 ∧ (d2 14 0 6).lit.toNat % 2 = 0) ∧
    (let s := objects 0x8000000000000040 0x1FFFFFFF 1
     fld s.opA.toNat 62 2 ≠ 3 ∧ fld s.opA.toNat 7 55 = 0 ∧ fld s.cur.t1.val.toNat 29 35 = 0 ∧ tbit s.opA.toNat 6 = true) ∧
    (let s := objects 0x3F 0x10000010 1
     let dest := s.cur.t1.val.extractLsb' 0 28
     fld s.opA.toNat 62 2 = 0 ∧ fld s.opA.toNat 7 55 = 0 ∧ fld s.cur.t1.val.toNat 29 35 = 0 ∧ tbit s.opA.toNat 6 = false ∧
     destIsCt dest = true ∧ destDie dest = 0 ∧ destPort dest ≠ 3) ∧
    (let s := objects 6 1 1; s.opA.toNat < 2 ^ 16 ∧ (s.region s.opA.toNat).load ≠ 0 ∧ s.opA.toNat < 2 ^ 18 ∧
     (s.region (s.opA.toNat % 2 ^ 16)).load ≠ 0 ∧ s.opA.toNat % 2 ^ 16 ≠ s.ridOf s.cur.sq) ∧
    (objects 4095 1 1).opA.toNat < 4096 ∧ (objects 0x8000000000000000 1 1).opA.getLsbD 63 = true ∧
    (let s := objects 0x1FFFFFFFFFFFFC0 1 1; fld s.opA.toNat 57 7 = 0 ∧ s.opA.toNat % 64 = 0) := by decide

theorem wit_CrossPackageRequests : fld ((base 1 0x3FFFFFF 3).opB ((d2 14 0 0).view 0xBF)).toNat 26 38 = 0 := by decide

/-- A queue with one place left and one without; a cell that waits for a second member, of 2 and of 256. -/
def queued (op cap : Nat) : State :=
  { asking { stage := .sent, op := op, tgt := 4, pa := some 0x1000000400000 } with
    mts := [(1, { mode := 1, queues := [(0, { declared := true, cap := cap, resv := 63, pub := 63 })] })] }

theorem wit_QueuesAndBarriers :
    (∀ op ∈ [0xB6, 0xB5, 0xB0], let s := queued op 64
     let r := s.reqs.look 9
     let q := s.queue r.tgt
     s.homeReady 9 = true ∧ r.stage = .sent ∧ r.op = op ∧ q.waitPush = [] ∧ q.waitPop = [] ∧ q.hasRoom = true ∧ q.stOf q.cons ≠ 3) ∧
    (let s := queued 0xB0 63; (s.queue 4).hasRoom = false) ∧
    (∀ nmem ∈ [1, 255],
     let s := { asking { stage := .sent, op := 0xBA, tgt := 0 } with
                cts := [(0, { bar := [(0, { w0 := BitVec.ofNat 64 (nmem * 2 ^ 56) })] })] }
     let b := s.cell 0
     let m := (s.reqs.look 9).f.t0.val.toNat
     s.homeReady 9 = true ∧ m < 256 ∧ m ≤ b.nmem ∧ m ∉ b.arrived ∧ b.narr + 1 < b.nmem + 1 + s.stcOf 0 ∧ b.narr < 511) := by
  decide

/-- PGA that may be written, in every state but 1 and up to 4; STATE at its greatest; a node with a record. -/
theorem wit_TimeAndProgress : (∀ k ∈ [0, 1, 2, 4], (d2 14 0 k).lit.toNat % 8 = k.toNat) ∧
    (let s := (base 4 2 3).modElem 0 fun x => { x with nodes := [(4, 0x01E020000000000000000010)] }
     pgaSt s.opA < 5 ∧ pgaSt (s.elem 0).pga ≠ 1 ∧ s.opA.toNat < 1024 ∧ fld ((s.elem 0).nodes.look s.opA.toNat).toNat 88 8 ≠ 0) ∧
    (base 0xFFFF 2 3).opA.toNat < 2 ^ 16 ∧ Dests1Ok (base 4 2 3) ((d2 14 0 0).view 0xC8) := by
  refine ⟨by decide, by decide, by decide, rfl⟩

/-- A load with a fault destination whose root frame stands: the first record, and the last with 1,023 before it. -/
theorem wit_TrapsHaltsFaultRecords :
    (let s := base 1 2 3
     let lid := s.lidOf s.cur.sq
     lid ≠ 0 ∧ (s.load lid).phase ≠ .ended ∧ sqDie 0 = sqDie (s.region 5).famt ∧ s.faultDestOf lid = some 0 ∧ (s.fxRec (s.ridOf (destSq 0)) 0).alloc = true ∧
     (s.fxRec (s.ridOf (destSq 0)) 0).releasing = false ∧ ((s.load lid).faults.filter fun p => p.2.used).length < 1024 ∧
     0 < 1024 ∧ ((s.load lid).faults.look 0).used = false ∧ (∀ m ∈ s.mts, ∀ q ∈ m.2.queues, q.2.log = []) ∧
     s.ridOf 0 = s.ridOf s.cur.sq ∧ ((s.ct 0).entry s.cur.t0.fx.toNat).isSome = true) ∧
    (let g : Region := { clusters := [0, 47, 48], famt := 1 }; ∃ c ∈ g.clusters, c / 48 ≠ sqDie g.famt) ∧
    (∃ k, (base 1 2 3).sendFault [{ dest := 19 }] = some k) := by
  refine ⟨by decide, by decide, _, rfl⟩

theorem wit_HandlesAndBuffers :
    (∀ c ∈ [1, 2, 65534], let s := objects (handle 12 64 128) 1 c
     s.handleFault s.opA 0 = none ∧ sqDie (winOf s.opA).q = sqDie s.cur.sq ∧
     dCnt (s.desc (winOf s.opA).q (winOf s.opA).buf) = c ∧ (s.mt (winOf s.opA).q).hallocQ = []) ∧
    (∀ c ∈ [0, 1], let s := (objects (handle 0 64 128) 1 c).modElem 0 fun x => { x with nodes := [(0, 0x86E020000C00000100000020)] }
     let v := (D2.ofRecord 0x86E020000C00000100000020).view 0x86
     let n := s.opA.toNat
     let q := fld n 46 14
     fld n 60 4 = 0 ∧ fld n 32 14 = 0 ∧ fld n 0 19 = 0 ∧ s.mtThere q = true ∧ sqDie q = sqDie s.cur.sq ∧ dtMx 12 = false ∧
     s.cur.t0.val = s.opA ∧
     (s.mt q).hallocQ = [] ∧ s.view s.cur.key = v ∧ (s.mt q).fits 12 (fld n 26 6 + 1) (fld n 19 7 + 1) = [0] ∧
     dCnt ((s.mt q).bufs.look 0) = c ∧ v.hdr.ndest ≠ 0) := by decide +kernel

/-- A window inside a window of 64 by 128. -/
theorem wit_WindowsAndElements_slice :
    let s := objects (handle 12 64 128) (0x0000000000000000) 1
    let b := s.cur.t1.val
    let h := handle 12 1 1
    let w := winOf s.opA
    s.handleFault s.opA 0 = none ∧ sqDie w.q = sqDie s.cur.sq ∧ fld b.toNat 32 32 = 0 ∧ fld b.toNat 0 6 = 0 ∧
    (winOf b).rb + (winOf b).rows ≤ w.rows ∧
    (winOf b).cb + (winOf b).cols ≤ w.cols ∧ w.rb + (winOf b).rb < 64 ∧ w.cb + (winOf b).cb < 128 ∧
    h.extractLsb' 32 32 = s.opA.extractLsb' 32 32 ∧ fld h.toNat 0 6 = 0 ∧
    winOf h = { w with rows := (winOf b).rows, cols := (winOf b).cols, rb := w.rb + (winOf b).rb, cb := w.cb + (winOf b).cb } ∧
    s.handleFault h 0 = none := by decide

/-- The first and the last element of that window, and an index with bit 63 set. -/
theorem wit_WindowsAndElements_element :
    (let s := objects (handle 12 64 128) 0 1
     let w := winOf s.opA
     0 < w.count ∧ s.elemBad w 0 0 1 = none ∧ 8191 < w.count ∧ s.elemBad w (8191 / w.cols) (8191 % w.cols) 1 = none ∧
     dtMx w.dt = false) ∧
    (let s := objects (handle 0 32 128) 0 1
     let w := winOf s.opA
     s.handleFault s.opA 0 = none ∧ 0 < w.count ∧ s.elemBad w 0 0 1 = none ∧ (∀ k ∈ s.ecc, k.2 ≠ 1) ∧ dtMx w.dt = true) ∧
    (let b := (0x8000000000000000#64).toNat; fld b 32 31 = 0 ∧ tbit b 63 = true) := by decide +kernel

/-- A handle of MT 1 of die 1; and, at the object, a stale handle, the counts at each end of their range, and each operation. -/
def farHandle (cnt gen : Nat) (op : BitVec 8) : State :=
  { objects 0 1 cnt with
    boot := [(0, 6), (1, 6), (2, 6)]
    elems := [(0, { nodes := [(0, op ++ 0#88)] })]
    reqs := [(9, { op := op.toNat, stage := .sent, pa := some (scratchPa 1 0), f := { t0 := { val := handle 12 64 128 + BitVec.ofNat 64 (gen * 2 ^ 32) } } })]
    at_ := { a := 9, b := 0, c := 0 } }

theorem wit_RemoteTiles :
    (let s := base (BitVec.ofNat 64 (4097 * 2 ^ 46)) 0 0
     s.mtThere (winOf s.opA).q = true ∧ sqDie (winOf s.opA).q ≠ sqDie s.cur.sq ∧ fld s.opA.toNat 60 4 = 0 ∧ fld s.opA.toNat 32 14 = 0 ∧
     fld s.opA.toNat 0 19 = 0) ∧
    (∀ p ∈ [(0x84, 1, 0), (0x84, 65535, 0), (0x85, 2, 0), (0x8A, 1, 0), (0x8B, 1, 0), (0x83, 1, 1)],
      let s := farHandle p.2.1 p.2.2 (BitVec.ofNat 8 p.1)
      let r := s.reqs.look 9
      s.homeReady 9 = true ∧ r.stage = .sent ∧ (s.view r.f.key).op.toNat = r.op ∧ 0x83 ≤ r.op ∧ r.op ≤ 0x8B ∧ r.op ≠ 0x86 ∧
      (s.handleFault r.f.t0.val 0 = none ↔ p.2.2 = 0) ∧
      dCnt (s.desc (winOf r.f.t0.val).q (winOf r.f.t0.val).buf) = p.2.1) := by decide +kernel

/-- A macro queue with 7 entries, an ordered-wait store with 15, the K-tile number that is due, the first and the last that
wait; and a window of 1,024 b8 elements. -/
theorem wit_MacrosQueueAndRun_queue : (List.replicate 7 ({} : Firing)).length < 8 ∧ (List.replicate 15 ({} : Firing)).length < 16 ∧
    (∀ w ∈ [1, 0x7FFF], w < 2 ^ 16 ∧ 0 < (w + 2 ^ 16 - ({} : Elem).seqOf 0) % 2 ^ 16 ∧ (w + 2 ^ 16 - ({} : Elem).seqOf 0) % 2 ^ 16 < 2 ^ 15) ∧
    (0 = ({} : Elem).seqOf 0 ∧ ({} : Elem).seqOf 0 % 256 = ({} : Firing).t0.seq.toNat) ∧
    (let s := objects (handle 12 32 32) 1 1
     s.handleFault s.opA 0 = none ∧ sqDie (winOf s.opA).q = sqDie s.cur.sq ∧ (winOf s.opA).dt = 12 ∧ (winOf s.opA).count = 1024 ∧
     (d2 14 0 3).lit.getLsbD 7 = false) := by
  decide

/-- A `tfill` of buffer 0 that can start; a `tzero` at its boundary; a `tzero` that has completed. -/
def piped (mq : List Firing) (run : Option Run) : State :=
  (objects 0 0 1).modElem 0 fun x => { x with
    nodes := [(4, 0x7AE020000000000000000010), (5, 0x7FE020000000000000000010)], macroQ := mq, run := run }

theorem wit_MacrosQueueAndRun_run :
    (let f : Firing := { node := 5 }
     let s := piped [f] none
     let x := s.elem 0
     let v := s.view f.key
     x.macroQ = [f] ∧ f.elem = 0 ∧ x.run = none ∧ x.macroDone = none ∧ x.stop = false ∧ f.pg = none ∧ farMts f v = [] ∧
     s.macroFault f v = none ∧ alignFault f v = none ∧ s.macroReady f v = true ∧ 0 < macroTotal f v) ∧
    (let r : Run := { f := { node := 5 }, total := 1 }
     let s := piped [] (some r)
     (s.elem 0).run = some r ∧ r.f.elem = 0 ∧ (s.view r.f.key).op = 0x7F ∧ r.eidx = 0 ∧ r.total = 1 ∧ r.reqs = [] ∧ (s.elem 0).stop = false ∧
     (s.elem 0).ordWait = [] ∧ s.ecc = []) ∧
    (let r : Run := { f := { node := 5 }, eidx := 1, total := 1 }
     let s := piped [] (some r)
     let v := s.view r.f.key
     (s.elem 0).macroDone = none ∧ (s.elem 0).run = some r ∧ r.eidx = r.total ∧ v.op ≠ 0xAB ∧ v.dropFlag = false ∧ v.ord = false ∧
     farMts r.f v = [] ∧ r.trip = {} ∧ s.marksAhead 0 r.f.key = false ∧
     s.sendFault (outs1 v {}) = none ∧ (s.elem 0).outStage.length + s.asked 0 + (outs1 v {}).length ≤ 4) := by decide

/-- Windows of 8 by 32 s8 elements: one block; and the last entry of a block. -/
theorem wit_IntegerTileProducts :
    (let f : Firing := { t0 := { val := handle 8 8 32 }, t1 := { val := handle 8 8 32 } }
     dtInt (f.win 0).dt = true ∧ dtInt (f.win 1).dt = true ∧ 0 < mmaBlocks f) ∧ 7 < 8 := by decide

/-- An element boundary of the macro `op` with SHAPE `tp` on the operands `a`, `b` and `c`, in its run `r`. -/
def boundary (op tp : Nat) (a b c : Word) (r : Run) : State :=
  (objects a b 1).modElem 0 fun x => { x with
    nodes := [(5, BitVec.ofNat 96 (op * 2 ^ 88 + 0xE020 * 2 ^ 72 + tp * 2 ^ 56 + 0x10))]
    run := some { r with f := { node := 5, t0 := { val := a }, t1 := { val := b }, t2 := { val := c } } } }
def boundaryRun (r : Run) (a b c : Word) : Run := { r with f := { node := 5, t0 := { val := a }, t1 := { val := b }, t2 := { val := c } } }

/-- bf16 windows of 8 by 32 at columns 0 and 32 of a buffer, e4m3, s8, b8 and s32w windows, and an address. -/
theorem wit_MacroBoundaries :
    let h := handle 5 8 32
    let g := handle 5 8 32 + BitVec.ofNat 64 (32 * 64)
    let i8 := handle 8 8 32
    let i32 := handle 10 8 32
    let mx := handle 0 8 32
    let b8 := handle 12 8 32
    (∀ p ∈ [(0x74, 0, h, g, h, 0), (0x7E, 0, h, g, h, 7), (0x7E, 1, h, g, h, 7), (0x75, 0, h, g, h, 0), (0x77, 0, h, 3, h, 0),
        (0x76, 0, h, g, h, 0), (0x78, 0, h, g, 0, 0), (0x7A, 0, h, handle 5 32 8, 0, 31), (0x7B, 0, h, g, 0, 0), (0x7B, 0, h, i8, 0, 0),
        (0x82, 0, h, g, 0, 0), (0x7C, 0, h, 5, 0, 7), (0x7D, 0, i8, 1, b8, 0), (0x7B, 0, h, mx, 0, 0), (0x7C, 0, mx, 5, 0, 0),
        (0x82, 0, mx, mx, 0, 0), (0x70, 0, i8, i8, 0, 0), (0x71, 0, h, 0, 0, 7), (0xAB, 0, h, 0, 0, 7), (0x71, 1, i32, 0, 0, 0),
        (0x79, 0, h, 0, 0, 0), (0x79, 3, i8, 0, 0, 0), (0x72, 0, h, 64, 0, 0), (0x73, 0, h, 64, 0, 0), (0x80, 0, 64, i32, h, 0),
        (0x81, 0, h, i32, 64, 0)],
      let r := boundaryRun { eidx := p.2.2.2.2.2, total := 64 } p.2.2.1 p.2.2.2.1 p.2.2.2.2.1
      let s := boundary p.1 p.2.1 p.2.2.1 p.2.2.2.1 p.2.2.2.2.1 r
      let v := s.view r.f.key
      let d := r.f.win ((macroPorts v).2.getD 0)
      (s.elem 0).run = some r ∧ r.f.elem = 0 ∧ r.eidx < r.total ∧ farMts r.f v = [] ∧ (s.elem 0).ordWait = [] ∧ s.ecc = [] ∧
      r.reqs = [] ∧ (s.elem 0).stop = false ∧ s.handlesStale r.f (handlePortsUp v) = none ∧ v.op.toNat = p.1 ∧ v.shape = p.2.1 ∧
      (dtMx d.dt = true → s.handleFault (r.f.val ((macroPorts v).2.getD 0)) 0 = none ∧ r.eidx < d.rows) ∧
      ((r.f.win 0).dt = 5 → (r.f.win 0).cols * dtW (r.f.win 0).dt % 8 = 0)) ∧
    (∀ op ∈ [0x72, 0x73], let r := boundaryRun { eidx := 8, total := 9 } mx 64 0
      let s := boundary op 0 mx 64 0 r
      let v := s.view r.f.key
      (s.elem 0).run = some r ∧ r.eidx < r.total ∧ farMts r.f v = [] ∧ s.handlesStale r.f (handlePortsUp v) = none ∧
      (r.f.win 0).rows ≤ r.eidx ∧ s.handleFault (r.f.val 0) 0 = none ∧ (r.f.win 0).cb + (r.f.win 0).cols ≤ 128) ∧
    (let r := boundaryRun { total := 8 } h g h
     let s := (boundary 0x74 0 h g h r).modElem 0 fun x => { x with stop := true }
     r.reqs = [] ∧ r.got = none ∧ (s.elem 0).stop = true ∧ r.trip = {} ∧ farMts r.f (s.view r.f.key) = []) ∧
    (let a := h + BitVec.ofNat 64 (2 ^ 32)
     let r := boundaryRun { total := 8 } a g h
     let s := boundary 0x74 0 a g h r
     s.handlesStale r.f (handlePortsUp (s.view r.f.key)) ≠ none ∧ farMts r.f (s.view r.f.key) = []) ∧
    (let r := boundaryRun { total := 8, reqs := [2] } h 64 0
     let s := { boundary 0x72 0 h 64 0 r with reqs := [(2, { stage := .done, size := 64, val := 7 })] }
     r.reqs ≠ [] ∧ s.engPoll r.reqs = .ok (toBytes 64 7) ∧ (s.elem 0).ordWait = [] ∧ s.ecc = []) ∧
    (let s := ((objects 0 0 1).setByte 0 0)
     let w := winOf mx
     dtFloat w.dt = true ∧ s.scaleAt w 0 0 ≠ 255 ∧ ∀ t, t < 32 → (match (dtFmt w.dt).value (s.elemAt w 0 t) with | .fin _ _ _ => true | _ => false) = true) := by
  decide +kernel

/-- Queue 0 of MT 1 with indices 0 to 2 published, S on the first, and 3 reserved; a cell of two members designates it. -/
def filled (op : Nat) (f : Firing) (x : Queue) : State :=
  { queued op 64 with
    reqs := [(9, { op := op, tgt := 4, stage := .sent, pa := some 0x1000000400000, f := f })]
    mts := [(1, { queues := [(0, { x with declared := true, cap := 64 })], bufs := [(0, desc 1 ||| 0x4000000000000000)] })] }
def ring : Queue := { pub := 3, resv := 4, st := [(0, 2), (1, 2), (2, 2), (3, 1)], cell := some 0, window := true, stc := 254 }

theorem wit_QueuePopsAndSteals :
    (∀ op ∈ [0xB1, 0xB2, 0xB4], let s := filled op {} ring
     let q := s.queue 4
     s.homeReady 9 = true ∧ (s.reqs.look 9).tgt = 4 ∧ q.waitPush = [] ∧ q.waitPop = [] ∧ q.cons ≠ q.pub ∧ q.stOf q.cons ≠ 3 ∧
     (s.mt (4 / 4)).popping (4 % 4) = false ∧ (s.entryAt 4 q.cons).kind ≠ 2 ∧ q.hasRoom = true ∧ s.stealIndex 4 = none) ∧
    (let s := filled 0xB1 {} {}; s.homeReady 9 = true ∧ (s.queue 4).cons = (s.queue 4).pub) ∧
    (∀ b ∈ [0, 2 ^ 62, 2 ^ 63], let s := filled 0xB3 { t0 := { val := BitVec.ofNat 64 (b + 3) } } ring
     let q := s.queue 4
     let w := (s.reqs.look 9).f.t0.val
     let i := w.extractLsb' 0 32
     s.homeReady 9 = true ∧ fld w.toNat 32 30 = 0 ∧ q.stOf i = 1 ∧ (i - q.cons).toNat < (q.resv - q.cons).toNat) ∧
    (let s := filled 0xB3 { t0 := { val := 2 } } ring
     s.homeReady 9 = true ∧ (s.queue 4).stOf ((s.reqs.look 9).f.t0.val.extractLsb' 0 32) ≠ 1) ∧
    (let s := (filled 0xB4 {} ring).wr ((filled 0xB4 {} ring).entryPa 4 2) 16 ({ kind := 1, val := handle 12 1 1 } : Token).bits.toNat
     s.homeReady 9 = true ∧ (s.queue 4).cell = some 0 ∧ s.stealIndex 4 = some 2 ∧ (s.queue 4).window = true ∧ (s.queue 4).stc < 255) := by
  decide +kernel

/-- A cell of members 0 to `n` with `arr` arrivals, its record on MT 1, which designates queue 0 of MT 1. -/
def celled (op n arr : Nat) (f : Firing) (sel : Nat) : State :=
  { filled op f ring with
    reqs := [(9, { op := op, stage := .sent, pa := some (scratchPa 0 0), f := f })]
    elems := [(0, { nodes := [(0, BitVec.ofNat 96 (op * 2 ^ 88 + 0xE020 * 2 ^ 72 + sel * 32 * 2 ^ 56 + 0x10))] })]
    cts := [(0, { bar := [(0, { w0 := BitVec.ofNat 64 (n * 2 ^ 56 + arr * 2 ^ 47 + 2 ^ 19 + 2 ^ 16), w1 := BitVec.ofNat 64 (2 ^ 18) })] })]
    mts := [(1, { queues := [(0, { ring with declared := true, cap := 64, stc := 0 })] })] }

theorem wit_BarrierSetupAndClose :
    (let f : Firing := { t0 := { val := 0x100000000090000 }, t1 := { val := 0x40000 } }
     let s := celled 0xB9 1 0 f 0
     s.homeReady 9 = true ∧ (s.reqs.look 9).tgt = 0 ∧ s.bariBad 0 f.t0.val f.t1.val = none) ∧
    (∀ p ∈ [(0x1#64, 0#64, 0), (0x100000000090000, 1, 1)], let s := celled 0xB9 1 0 { t0 := { val := p.1 }, t1 := { val := p.2.1 } } 0
     s.homeReady 9 = true ∧ s.bariBad 0 p.1 p.2.1 = some p.2.2) ∧
    (∀ n ∈ [0, 255], let s := celled 0xBA n n { t0 := { val := BitVec.ofNat 64 n } } 0
     let b := s.cell 0
     s.homeReady 9 = true ∧ n < 256 ∧ n ≤ b.nmem ∧ n ∉ b.arrived ∧ b.narr + 1 = b.nmem + 1 + s.stcOf 0 ∧ b.narr < 511) ∧
    (∀ p ∈ [(0, 0), (1, 0), (2, 4095), (3, 255), (4, 3), (0, 1)], let s := celled 0xBB 1 0 { t0 := { val := BitVec.ofNat 64 p.2 } } p.1
     s.homeReady 9 = true ∧ (s.cell 0).was = none ∧ (s.view (s.reqs.look 9).f.key).lit / 32 = p.1 ∧ (s.reqs.look 9).f.t0.val.toNat = p.2) := by
  decide +kernel

/-- A request `op` at an object of the load of region 5, with the operands `a` and `b`. -/
def atObject (op tgt : Nat) (a b : Word) (lit : Nat) : State :=
  { asking { op := op, tgt := tgt, stage := .sent, pa := some 0x1000000400000, rid := 5, lid := 3, f := { t0 := { val := a }, t1 := { val := b } } } with
    elems := [(0, { nodes := [(0, BitVec.ofNat 96 (op * 2 ^ 88 + 0xE020 * 2 ^ 72 + lit * 2 ^ 56 + 0x10)), (4, 0x20E020000000000000000010)] })] }

theorem wit_ObjectsAtHome :
    (∀ a ∈ [0, 1, 2], let s := atObject 0xB7 8 (BitVec.ofNat 64 a) 5 0; s.homeReady 9 = true ∧ ((s.mt 1).ag.look 0).runs = false) ∧
    (let s := { atObject 0xB7 8 0 5 0 with mts := [(1, { ag := [(0, { ctl := 0x80000000 })] })] }
     s.homeReady 9 = true ∧ ((s.mt 1).ag.look 0).runs = true) ∧
    (∀ a ∈ [63, 64], let s := atObject 0xBE 0 (BitVec.ofNat 64 a) 0x10000010 0; s.homeReady 9 = true ∧ tbit (s.reqs.look 9).f.t0.val.toNat 6 = (a == 64)) ∧
    (∀ sel ∈ [0, 1, 2, 3], let s := atObject 0xCD 5 5 0 sel
     s.homeReady 9 = true ∧ (s.view (s.reqs.look 9).f.key).lit % 4 = sel) ∧
    (let s := atObject 0xCE 0 0 0 0; s.homeReady 9 = true ∧ (s.reqs.look 9).lid = 3) := by
  decide +kernel

/-- The load's fault queue holds the record of a firing of node 4 under frame 7, and perhaps a second one. -/
def faultQ (op : Nat) (x : Word) (more : List (Nat × FaultRec)) (rec : FaultRec) : State :=
  { atObject op 0 x 0 0 with
    regions := [(5, { load := 3, clusters := [0, 48], fx := [(0, { alloc := true }), (7, { alloc := true })], faultDest := some 0 })]
    loads := [(3, { phase := .running, regions := [5], faults := (0, rec) :: more })] }
def faultRec : FaultRec :=
  { used := true, ser := 1, w0 := BitVec.ofNat 64 (8 * 2 ^ 56 + 7 * 2 ^ 14), rid := 5, firing := some { node := 4, t0 := { fx := 7 } } }

theorem wit_FaultsAtHome :
    (∀ p ∈ [(0xC3, 9), (0xC4, 9)], let s := faultQ p.1 p.2 [] faultRec
     s.homeReady 9 = true ∧ (s.reqs.look 9).f.t0.val.toNat < 2 ^ 63 ∧ (s.fxRec 5 9).alloc = false) ∧
    (∀ p ∈ [(0xC3, 0), (0xC4, 0), (0xC4, 7)], let s := faultQ p.1 p.2 [] faultRec
     s.homeReady 9 = true ∧ (s.fxRec 5 p.2.toNat).alloc = true ∧ (s.fxRec 5 p.2.toNat).releasing = false ∧
     (s.faulted 5 p.2.toNat = true ↔ p.2.toNat = 7)) ∧
    (∀ op ∈ [0xC1, 0xC2], let s := faultQ op 0x20000 [] faultRec; s.homeReady 9 = true ∧ s.recordOf 3 0x20000 = none) ∧
    (let s := faultQ 0xC2 0x10000 [] faultRec
     s.homeReady 9 = true ∧ s.recordOf 3 0x10000 = some (0, faultRec) ∧ faultRec.nofx = false ∧ (s.fxRec 5 7).alloc = true) ∧
    (let r := { faultRec with w0 := faultRec.w0 ||| BitVec.ofNat 64 (2 ^ 55) }
     let s := faultQ 0xC2 0x10000 [] r; s.homeReady 9 = true ∧ s.recordOf 3 0x10000 = some (0, r) ∧ r.nofx = true) ∧
    (∀ p ∈ [(0xC1, 0x10000), (0xC4, 0x8000000000010000)], ∀ more ∈ [[], [(1, faultRec)]], let s := faultQ p.1 p.2 more faultRec
     let f : Firing := { node := 4, t0 := { fx := 7 } }
     let v := s.view f.key
     s.homeReady 9 = true ∧ faultRec.firing = some f ∧ faultRec.req = none ∧ faultRec.site = .none ∧ faultRec.stat = false ∧
     s.recordOf 3 0x10000 = some (0, faultRec) ∧ 0x20 ≤ v.op.toNat ∧ v.op.toNat < 0x60 ∧ (s.elem f.elem).lastStop = none ∧
     v.hdr.ndest = 1 ∧ s.destFault v.destA = none ∧ faultRec.kind ≠ 0x0E ∧ 2 ^ 63 ≤ (0x8000000000010000#64).toNat ∧
     ((∃ q ∈ (s.load 3).faults, q.1 ≠ 0 ∧ q.2.used = true ∧ q.2.nofx = false ∧ q.2.rid = 5 ∧ q.2.fx = 7) ↔ more ≠ [])) ∧
    (let y : Notified := { via := 3, die := 1, what := .park 5 7 false }
     let s := { faultQ 0xC3 7 [] faultRec with notices := [y] }
     s.notices.find? (fun z => z.via == 3 && 3 != 0) = some y ∧ y.back = false) := by
  refine ⟨?_, ?_, ?_, ?_, ?_, ?_, ?_⟩ <;> decide +kernel

/-- Element 0 of a static region with two records, a beat at its converter and one on its N side, and room at its converter
and on its E side. -/
def static (beats : Nat) : State :=
  { base 1 2 3 with
    regions := [(5, { load := 3, mode := true, links := [(0, 0x0A0A0A0A)] })]
    clRid := [(0, 5)]
    elems := [(0, { nodes := [(0, 1), (1, 1)], links := [(1, some {})], ring := { on := true, beats := beats, loop := [(0, 2)], wld := [(0, 3)] } })]
    mts := [(1, { conv := [(0, { bind := 4, beats := [{}] }), (1, { bind := 4 })] })] }

def fs (sin sout : BitVec 4) (sub : BitVec 5) (scnt : BitVec 16) (slit : BitVec 32) : FS :=
  { ty := 13, tg := 0, litp := false, ndest := 0, arity3 := false, opf := 0, spos := 0, sin := sin, sout := sout, acc := 7, sub := sub,
    scnt := scnt, rsv := 0, slit := slit }

/-- A beat in and room out at the converter, and on the N and E sides; both bits of SUB; a loop with a pass left and with
none; a weight record that is full and one that is not; no beat, and no room. -/
theorem wit_StaticRecords :
    (let s := static 0
     let v := (fs 5 5 1 1 0).view 0xD1
     (v.spos + 1 < (s.elem 0).ringLen ∧ (s.conv (convKey 0 0)).fresh = false) ∧ v.sin ≤ 5 ∧ v.sout ≤ 5 ∧ s.beatAt 0 v.sin = some {} ∧ s.beatRoom 0 v.sout = true ∧
     (∀ p ∈ s.ecc, p.2 ≠ 2 ∧ p.2 ≠ 1) ∧ s.beatRoom 0 2 = true ∧ v.sout ≠ 2 ∧ s.beatAt 0 1 = some {} ∧ tbit ((fs 5 5 3 1 0).view 0xD0).sub 0 = true ∧
     tbit ((fs 5 5 3 1 0).view 0xD0).sub 1 = true ∧ ((fs 0 5 0 1 0).view 0xD3).sin = 0 ∧ v.sin ≠ 0 ∧
     tbit ((fs 0 5 1 1 0).view 0xD5).sub 0 = true ∧ tbit ((fs 5 0 0 1 0).view 0xD5).sub 0 = false ∧
     ((fs 0 0 0 2 0).view 0xD6).scnt ≤ (s.elem 0).ring.loop.look 0 ∧ (s.elem 0).ring.loop.look 0 < ((fs 0 0 0 3 0).view 0xD6).scnt ∧
     ((fs 0 0 0 3 1).view 0xD6).slit % 64 < (s.elem 0).ringLen ∧ ((fs 0 0 0 2 0).view 0xD4).scnt ≤ (s.elem 0).ring.taken 0 ∧
     ((fs 0 0 0 3 0).view 0xD4).scnt > (s.elem 0).ring.taken 0 ∧ s.beatAt 0 3 = none ∧ s.beatRoom 0 3 = false) := by decide +kernel

/-- A weight token for position `seq` of a record that takes 8 and has the positions of `got`. -/
def weighing (seq : BitVec 8) (got : Nat) : State :=
  { static 0 with
    elems := [(0, { nodes := [(0, 0xD4D000000000002000000000)], inStage := [{ tok := { seq := seq } }], ring := { wld := [(0, got)] } })] }

/-- The last position of a record that takes 8; a full record; and a position that it does not have. -/
theorem wit_WeightTokens :
    (∀ p ∈ [(7#8, 127), (7#8, 255), (8#8, 127)], let s := weighing p.1 p.2
     let fl : Flight := { tok := { seq := p.1 } }
     let x := s.elem 0
     x.stage[s.at_.b]? = some fl ∧ (s.regionOf 0).mode = true ∧ (s.regionOf 0).withdraw = false ∧ fl.tok.kind = 0#2 ∧
     heldBack x.stage s.at_.b fl = false ∧ fl.tok.par = false ∧ (s.view 0).op = 0xD4 ∧ destPort fl.tok.dest = 0) ∧
    (let s := weighing 7 127; (s.elem 0).ring.taken 0 < (s.view 0).scnt ∧ s.weightFault 0 0 { seq := 7 } = none) ∧
    (let s := weighing 7 255; (s.view 0).scnt ≤ (s.elem 0).ring.taken 0) ∧
    (let s := weighing 8 127; s.weightFault 0 0 { seq := 8 } ≠ none ∧ (s.elem 0).ring.taken 0 < (s.view 0).scnt) := by decide +kernel

/-- A stream of unit 0 of MT 1 over two elements of 8 bytes, at its element `x`, into or out of queue 0, which holds `n`,
with the access `e` of its element. -/
def streaming (x : Nat) (toMem : Bool) (n : Nat) (e : List MReq) : State :=
  { base 1 2 3 with
    boot := [(0, 6), (1, 6), (2, 6)]
    reqs := (9, { rid := 5, f := {} }) :: e.map fun r => (10, r)
    mts := [(1, { mode := 1, queues := [(0, { declared := true, cap := 64, pub := BitVec.ofNat 32 n, resv := BitVec.ofNat 32 n,
                                              st := if n = 0 then [] else [(0, 2)] })]
                  ag := [(0, { lvl := 0x0000000800000002, ctl := if toMem then 0xC7000000 else 0xC6000000 })]
                  streams := [(0, { on := true, req := 9, units := [0], x := x, total := 2, reqs := e.map fun _ => 10 })] })]
    at_ := { a := 1, b := 0, c := 0 } }

/-- An element to be asked for, in both directions; one whose access has come back, done and with a fault; and the end. -/
theorem wit_GeneratorStreams :
    (∀ p ∈ [(0, false, 0), (1, true, 1), (2, false, 0)], ∀ e ∈ [[], [{ stage := MStage.done, size := 8, eng := true }],
        [{ stage := .done, err := some (0x17, 0), eng := true }]], let s := streaming p.1 p.2.1 p.2.2 e
     let m := s.mt 1
     let st := m.streams.look 0
     let inner := m.ag.look (st.units.getLast?.getD 0)
     let qu := s.queue 4
     st.on = true ∧ (s.regionOf 1).closed = false ∧ inner.toMem = p.2.1 ∧ inner.qix = 0 ∧ qu.hasRoom = true ∧ qu.waitPop = [] ∧ qu.waitPush = [] ∧
     m.agWait = [] ∧ (p.1 < st.total ↔ p.1 ≠ 2) ∧ (st.reqs = [] ↔ e = [])) ∧
    (let s := streaming 1 true 1 []
     let qu := s.queue 4
     (s.mt 1).popping 0 = false ∧ qu.cons ≠ qu.pub ∧ qu.stOf qu.cons ≠ 3 ∧ (s.entryAt 4 qu.cons).kind ≠ 2#2) ∧
    (streaming 1 true 1 [{ stage := .done, size := 8, eng := true }]).engPoll [10] = .ok [0, 0, 0, 0, 0, 0, 0, 0] ∧
    (∃ ea, (streaming 1 true 1 [{ stage := .done, err := some (0x17, 0), eng := true }]).engPoll [10] = .bad 0x17 0 0 ea) := by
  refine ⟨by decide +kernel, by decide +kernel, by decide +kernel, 0, by decide +kernel⟩

/-- A template of queue 0 of MT 1, with an arming and an entry; a copy from buffer 0 to buffer 1 at its first byte, and one
that has ended. -/
def copying (t : Template) (c : Option Copy) : State :=
  { base 1 2 3 with
    boot := [(0, 6), (1, 6), (2, 6)]
    mts := [(1, { bufs := [(0, desc 1), (1, desc 1)],
                  queues := [(0, { declared := true, cap := 64, pub := 1, resv := 1, st := [(0, 2)], tmpl := some t,
                                   arm := [(0, {}, 5)], copy := c })] })]
    at_ := { a := 4, b := 0, c := 0 } }

def tiles (d : Option (BitVec 28)) : Template :=
  { src := .tile 1 0 12 64 128 none, dst := .tile 1 1 12 64 128 d, levels := [(8192, 1)] }

theorem wit_TemplateCopies :
    (let s := copying { dst := .tile 1 1 12 64 128 none, levels := [(1, 1)] } none
     let qu := s.queue 4
     (s.regionOf 1).withdraw = false ∧ (∃ t, qu.tmpl = some t ∧ s.sideF t.src ≠ some false ∧ s.sideF t.dst ≠ some true) ∧
     (∃ f addr, qu.armFor qu.cons = some (f, addr)) ∧ qu.waitPop = [] ∧ qu.waitPush = [] ∧ qu.cons ≠ qu.pub ∧
     qu.stOf qu.cons ≠ 3 ∧ (s.mt 1).popping 0 = false ∧ (∀ p ∈ (s.mt 1).queues, p.2.copy = none) ∧ (s.entryAt 4 qu.cons).kind ≠ 2#2) ∧
    (let s := copying (tiles none) (some {})
     let c : Copy := {}
     let pas := s.unitPas (tiles none).dst (tiles none) 0 1
     (s.queue 4).copy = some c ∧ c.stopped = false ∧ c.x < levelTotal (tiles none).levels ∧ fld c.trig.val.toNat 0 36 = 0 ∧
     c.n = 0 ∧ c.reqs = [] ∧ c.data = none ∧ c.fault = none ∧ ({ c with fault := some (8, 0, 0) } : Copy).fault ≠ none ∧ (tiles none).src ≠ .arm ∧ (tiles none).dst ≠ .arm ∧ pas.Nodup ∧ pas.length = [0#8].length) ∧
    (let t : Template := { dst := .tile 1 1 12 64 128 none, levels := [(1, 1)], esize := 1 }
     levelTotal t.levels ≤ ({ x := 1 } : Copy).x ∧ t.src = .arm ∧ ({ addr := 5 } : Copy).armVa t % t.esize = 0) ∧
    (let s := { copying (tiles none) (some { n := 1, reqs := [10] }) with reqs := [(10, { stage := .done, size := 1, eng := true })] }
     s.engPoll [10] = .ok [0]) := by
  refine ⟨⟨by decide, ⟨_, rfl, by decide, by decide⟩, ⟨_, _, rfl⟩, by decide, by decide, by decide, by decide, by decide, by decide, by decide⟩,
    by decide +kernel, by decide, by decide⟩

/-- A converter from a queue with an entry of each kind, one into a queue with a value and one with a beat; and a token at the
memory tile of its queue, whose route tag has its turn. -/
theorem wit_Converters :
    (let s := { streaming 0 false 1 [] with at_ := { a := 8 } }
     let c : Conv := { bind := 4, beats := [{}, {}, {}] }
     (s.regionOf 1).closed = false ∧ c.en = true ∧ c.stopped = none ∧ c.beats.length < 4 ∧ 8 / 8 * 4 + c.qix = 4 ∧
     (s.queue 4).cons ≠ (s.queue 4).pub ∧ (s.queue 4).stOf (s.queue 4).cons ≠ 3 ∧ (s.mt 1).popping c.qix = false ∧
     (s.entryAt 4 (s.queue 4).cons).kind ≠ 1#2 ∧ (s.entryAt 4 (s.queue 4).cons).kind ≠ 2#2 ∧
     (s.queue 4).waitPop = [] ∧ (s.queue 4).waitPush = [] ∧ 9 % 2 = 1 ∧ c.closing = false ∧ c.out = [] ∧ (s.queue 4).hasRoom = true) ∧
    (∀ k ∈ [1#2, 2#2], let s := (streaming 0 false 1 []).setBytes (scratchPa 1 0) (toBytes 16 (Token.bits { kind := k }).toNat)
     (s.entryAt 4 (s.queue 4).cons).kind = k) ∧
    (let s := { streaming 0 false 0 [] with rin := [(32, [{ tok := { dest := 0x4000 } }])] }
     let t : Token := { dest := 0x4000 }
     rinKey 1 0 0 = 32 ∧ t.kind ≠ 3#2 ∧ t.mc = false ∧ isCt 1 = false ∧ 1 ∉ s.fused ∧ destSq t.dest = 1 ∧ destDie t.dest = sqDie 1 ∧
     (s.rtTurn 1 12 0) = true ∧ (s.queue (destQueue t.dest)).declared = true ∧ (s.queue (destQueue t.dest)).hasRoom = true) := by
  refine ⟨by decide, by decide +kernel, by decide⟩

/-- `base` with the record `w` at node 0 of element 0, the firing's own node. -/
def running (w : Rec96) (a : Word) (round : Option Nat) : State :=
  { base a 2 3 with
    loads := [(3, { phase := .running, regions := [5], round := round })]
    elems := [(0, { nodes := [(0, w)], nin := [(0, 1)], inStage := [{ tok := { kind := 2, val := 9 } }] }), (1, { nodes := [(0, w)] })] }

/-- A `mark` with no round open and with one; a marker of the open round and one of another; the greatest round number. -/
theorem wit_MarkerRounds :
    (∀ rd ∈ [none, some 9], let s := running 0xC5E020000000000000000010 0xFFFF rd
     let lid := s.lidOf s.cur.sq
     s.opA.toNat < 2 ^ 16 ∧ s.view s.cur.key = (D1.ofRecord 0xC5E020000000000000000010).view 0xC5 ∧ (s.load lid).round = rd ∧
     (s.load lid).marksWait = [] ∧ (s.view s.cur.key).hdr.ndest ≠ 0 ∧ s.sendFault (outs1 (s.view s.cur.key) {}) = none) ∧
    (let s := running 0x01E020000000000000000010 1 (some 9)
     let fl : Flight := { tok := { kind := 2, val := 9 } }
     let x := s.elem 0
     let ld := s.load (s.lidOf 0)
     x.stage[s.at_.b]? = some fl ∧ fl.tok.kind = 2#2 ∧ heldBack x.stage s.at_.b fl = false ∧ (s.regionOf 0).withdraw = false ∧
     ld.round = some (fl.tok.val.toNat % 2 ^ 16) ∧ (fl.src, fl.tok.dest.toNat) ∉ ld.feedback ∧ 0 ∉ x.inRound ∧
     x.marks.look 0 + 1 < 4 * x.nin.look 0 ∧ (∃ k ∈ s.loadElems 3, k ≠ 0 ∧ (s.elem k).entered = false)) ∧
    (let s := (running 0x01E020000000000000000010 1 (some 9)).modElem 0 fun x => { x with marks := [(0, 3)], nodes := (7, 1) :: x.nodes }
     let x := s.elem 0
     4 * x.nin.look 0 ≤ x.marks.look 0 + 1 ∧ x.entered = false ∧ 0 ∉ x.inRound ∧ ∃ p ∈ x.nodes, p.1 ≠ 0 ∧ p.1 ∉ x.inRound) ∧
    ((running 0x01E020000000000000000010 1 none).load 3).round ≠ some 9 ∧
    (let s := (running 0x01E020000000000000000010 1 none).modElem 0 fun x => { x with inStage := [{ tok := { kind := 2, par := true } }] }
     let fl : Flight := { tok := { kind := 2, par := true } }
     (s.elem 0).stage[s.at_.b]? = some fl ∧ heldBack (s.elem 0).stage s.at_.b fl = false ∧ fl.tok.par = true) := by
  refine ⟨by decide +kernel, by decide +kernel, by decide +kernel, by decide, by decide +kernel⟩

/-- A handler token that is due; FRREAD of each word, QBAR and XREG at their greatest arguments. -/
def calling (n : Nat) (a : Word) : State :=
  { asking { stage := .sent, op := 0xCA, tgt := n, lid := 3, f := { t0 := { val := a } } } with
    loads := [(3, { phase := .running, regions := [5], handlers := [0x10000], queues := List.range 256,
                    faults := [(0, { used := true, ser := 1 })] })]
    elems := [(0, { nodes := [(0, 0xCAE02000000000F000000018)] })] }

theorem wit_FaultServiceTokens :
    (let s := calling 0x0F00 0; (s.load 3).handlers = [0x10000] ∧ s.faultDestOf 3 = some 0 ∧
      s.crossing ((s.load 3).faults.look (0x10000 % 2 ^ 16)).via = false ∧ s.marking 0 0 = false) ∧
    (∀ k ∈ [0, 1, 2, 3, 4], let s := calling 0x0F00 (BitVec.ofNat 64 (k * 2 ^ 32 + 0x10000))
     let r := s.reqs.look 9
     s.callAt 9 0x0F00 = true ∧ (∃ p, s.recordOf r.lid (r.f.t0.val.toNat % 2 ^ 32) = some p) ∧ r.f.t0.val.toNat < 2 ^ 36 ∧
     fld r.f.t0.val.toNat 32 4 = k) ∧
    (let s := calling 0x0F01 0xFFFF
     s.callAt 9 0x0F01 = true ∧ (s.load 3).queues[0xFFFF % 256]? = some 255 ∧ (0xFFFF#64).toNat < 2 ^ 16) ∧
    (let s := calling 0x0F10 255
     s.callAt 9 0x0F10 = true ∧ (s.ing.look 255).v = false ∧ (s.view (s.reqs.look 9).f.key).hdr.tg = 0) := by
  refine ⟨by decide, ?_, by decide +kernel, by decide⟩
  intro k h
  simp only [List.mem_cons, List.not_mem_nil, or_false] at h
  rcases h with rfl | rfl | rfl | rfl | rfl <;> exact ⟨by decide, ⟨_, rfl⟩, by decide, by decide⟩

/-- Element `e` held with a firing of a node that sends, its output stage full, held for as long as DLKT says. -/
def heldAt (probe : Probe) : State :=
  let f : Firing := { t0 := { val := 7 } }
  { base 1 2 3 with
    elems := [(0, { nodes := [(0, 0x01E020000000000000000010)], readyQ := [f], held := { f := f, cycles := 0x10000 },
                    outStage := [{ tok := { dest := 0x1010 } }, {}, {}, {}] }), (1, { inStage := [{ tok := { dest := 0x1010 } }, {}, {}, {}] })]
    rin := [(0, List.replicate 8 { tok := { dest := 0x1010 } })]
    probes := [(0, probe)] }

/-- A load with work issued and none returned, and an allocation request that has waited since cycle 0. -/
def dry : State :=
  { base 1 2 3 with
    loads := [(3, { phase := .running, regions := [5], issued := 1 })]
    regions := [(5, { load := 3, allocQ := [{ kind := .loopin }] })]
    dies := [(0, { cyc := 0x10000 })] }

theorem wit_FaultServiceAndDetection :
    (let s := heldAt {}; s.probeDue 0 = true ∧ s.waitsOn 0 = some (1, 0, 0) ∧ sqDie (1 / 4) = sqDie (0 / 4)) ∧
    (let s := heldAt { origin := 1, goal := 0 }; (∃ x ∈ s.probes, x.1 = 0) ∧ s.crossing (s.probes.look 0).via = false ∧
      (s.probes.look 0).goal < (s.probes.look 0).origin) ∧
    (let s := heldAt { f := { t0 := { val := 7 } } }; (s.probes.look 0).goal = (s.probes.look 0).origin ∧
      s.heldHead 0 = some (s.probes.look 0).f) ∧
    (let s := heldAt {}; s.heldHead 0 ≠ some (s.probes.look 0).f) ∧
    (∃ q, dry.framedry 5 = some q) ∧ ({ dry with regions := [(5, { load := 3 })] } : State).starved 3 = true := by
  refine ⟨by decide, by decide, by decide, by decide, ⟨_, rfl⟩, by decide⟩

/-- A cycle of element 0 with a parked operand and a held head, on a running die. -/
theorem wit_CyclesAndStalls :
    let s := { heldAt {} with boot := [(0, 6)], cts := [(0, { slots := [(20, { p := true })] })] }
    s.power.next = none ∧ s.windowOver = false ∧ (∀ p ∈ s.elems, p.2.lutLoads = []) ∧ s.clocks 0 = true ∧ (∃ p ∈ s.elems, p.1 = 0) ∧
    s.parkedNodes 0 = [0] ∧ s.heldHead 0 = some (s.elem 0).held.f ∧ s.heldHead 1 = none ∧ s.clocks 4096 = true ∧
    ({ s with boot := [] } : State).clocks 0 = false := by decide

/-- A block without records, and one with a static record in token mode. -/
def committing (b : Block) : State :=
  { base 1 2 3 with regions := [(5, { load := 3, clusters := [0], shadow := some b.encode, commit := some (9, false) })] }

theorem wit_ConfigurationCommit :
    (let blk : List Byte := ({} : Block).encode
     let s := committing {}
     let b := Block.ofBytes blk
     s.flipReady 5 = true ∧ (s.region 5).shadow = some blk ∧ (s.region 5).commit = some (9, false) ∧ 9 ≠ 0 ∧ b.mode = false ∧
     staticBad b (b.links.foldl (fun (t : Tbl Nat) p => t.put p.1 p.2) []) = none ∧ (s.reqs.look 9).rid ≠ 5 ∧ (s.region 5).clusters.Nodup) ∧
    (let c : Block := { records := [(0, 0xD7E000000000000000000000)] }
     let b := Block.ofBytes c.encode
     (committing c).flipReady 5 = true ∧ staticBad b (b.links.foldl (fun (t : Tbl Nat) p => t.put p.1 p.2) []) = some (0, 0)) := by
  decide +kernel

/-- PMCTL words with GO for region 5 at each grade and with RST. -/
def pm (grade rst : Nat) : Word := BitVec.ofNat 64 (2 ^ 63 + grade * 2 ^ 61 + rst * 2 ^ 60 + 5 * 2 ^ 44 + 1)

/-- A load parked in its region, committed without START where `ns` says so, with its image at address 0. -/
def restoring (ns : Bool) (shadow : Option (List Byte)) : State :=
  { base 1 2 3 with
    loads := [(3, { phase := .running, regions := [5], saved := true })]
    regions := [(5, { load := 3, noStart := ns, shadow := shadow })]
    saves := [(0, { shapes := shapesOf [], hash := imgHash [] })] }

theorem wit_PreemptionBegins :
    (let s := base 1 2 3
     (∀ g ∈ [0, 1, 2], pmGo (pm g 0) = true ∧ pmRst (pm g 0) = false ∧ pmGrade (pm g 0) = g ∧ pmRid (pm g 0) = 5) ∧
     (s.die 0).pm = none ∧ (s.die 0).pmWait = [] ∧ (s.die 0).busy = false ∧ 3 ≠ 0 ∧ (s.load 3).phase = .running ∧
     (s.load 3).saved = false ∧ cmdField (s.load 3).cmd 6 1 = 0 ∧ s.committing 3 = false ∧
     (∀ r ∈ (s.load 3).regions, (s.region r).mode = false)) ∧
    (let s := restoring true none
     s.restoreOk 0 3 (s.die 0).pmsave = true ∧ s.committing 3 = false ∧ pmRst (pm 0 1) = true ∧ pmGrade (pm 0 1) ≠ 3) ∧
    (let s := restoring true (some [])
     s.restoreOk 0 3 (s.die 0).pmsave = true ∧ s.committing 3 = true ∧ (s.die 0).pm = none ∧ (s.die 0).pmWait = [] ∧ (s.die 0).busy = false) ∧
    (∀ rst ∈ [true, false], let p : Preempt := { rid := 5, restore := rst }
     let s := { restoring false none with loads := [(3, { phase := .loaded, regions := [5] })], dies := [(0, { pmWait := [p] })] }
     (s.die 0).pm = none ∧ (s.die 0).pmWait = [p] ∧ pmGo p.word = true ∧ s.restoreOk 0 (s.region p.rid).load p.pa = false ∧
     ¬ (s.load (s.region p.rid).load).phase = .running) ∧
    ((base 1 2 3).load 3).phase = .running ∧ ¬ (State.reset.load 3).phase = .running ∧
    (let p : Preempt := { lid := 3, rid := 5, begun := true, grade := 1 }; p.begun = true ∧ p.grade ≠ 2) := by decide

/-- A drain whose TOUT of 1 tick has passed. -/
theorem wit_PreemptionEscalates :
    let s := { base 1 2 3 with units := 18, dies := [(0, { pm := some { lid := 3, rid := 5, begun := true, tout := 1 } })] }
    ∃ p, (s.die 0).pm = some p ∧ p.begun = true ∧ p.restore = false ∧ p.grade = 0 ∧ p.withdrawing = false ∧ p.saving = false ∧
      0 < p.tout ∧ p.since + p.tout ≤ s.tick 0 := by
  refine ⟨_, rfl, rfl, rfl, rfl, rfl, rfl, by decide, ?_⟩
  show 0 + 1 ≤ 18 / 18 + Config.skew 0 % 3
  omega

theorem wit_PreemptionEnds :
    let s := fun (p : Preempt) => ({ base 1 2 3 with dies := [(0, { pm := some p })] } : State)
    (let p : Preempt := { lid := 3, rid := 5, begun := true }
     ((s p).die 0).pm = some p ∧ p.begun = true ∧ p.restore = false ∧ p.grade = 0 ∧ p.withdrawing = false ∧ p.saving = false ∧
     (s p).loadQuiet 3 = true ∧ (s p).enginesRest 3 = true) ∧
    (let p : Preempt := { lid := 3, rid := 5, begun := true, grade := 1, withdrawing := true }
     p.withdrawing = true ∧ p.saving = false ∧ (s p).withdrawn 3 = true) ∧
    (let p : Preempt := { lid := 3, rid := 5, begun := true, saving := true }; p.saving = true ∧ p.policy = false) ∧
    (let p : Preempt := { lid := 3, rid := 5, begun := true, restore := true }; p.restore = true) := by decide

/-- An image of one `sink` node, which is its own entry. -/
def imageBody : List Byte :=
  toBytes 4 0x4947334E ++ toBytes 2 1 ++ toBytes 2 0 ++ toBytes 4 1 ++ toBytes 2 2 ++ toBytes 2 0 ++ toBytes 4 0 ++
  toBytes 4 192 ++ List.replicate 104 0 ++
  toBytes 2 1 ++ toBytes 2 0 ++ toBytes 4 1 ++ toBytes 4 0xA0 ++ toBytes 4 16 ++
  toBytes 2 0xA ++ toBytes 2 0 ++ toBytes 4 1 ++ toBytes 4 0xB0 ++ toBytes 4 4 ++
  List.replicate 9 0 ++ [0, 0xE0, 3] ++ List.replicate 20 0

/-- A running package with `b` in HBM from address 0, and load 3 at the given phase. -/
def launching (b : List Byte) (ld : Load) : State :=
  { State.reset with
    boot := [(0, 6), (1, 6), (2, 6), (3, 6), (4, 6)]
    mem := ((List.range b.length).zip b).filter fun p => p.2 != 0
    loads := [(3, ld)]
    dies := [(0, { launchQ := [{ lid := 3, level := 7 }] })]
    at_ := { a := 3, b := 0, c := 0 } }

theorem wit_LaunchSteps_token :
    let b := toBytes 4 1
    let fl : Flight := { tok := { dest := 0x0 } }
    let s : State := { launching b {} with ioIn := [(512, [fl])] }
    s.ioIn.look 512 = [fl] ∧ 512 / 256 % 8 = 2 ∧ fl.tok.kind = 0#2 ∧ destPort fl.tok.dest = 0 ∧
    cmdBad (s.bytes fl.tok.val.toNat 64) = none ∧ s.jhead - s.jtail < 4096 := by decide +kernel

/-- The image passes its check once its hash is in it, and without it it fails. -/
theorem wit_LaunchSteps_check :
    let m := imageBody.take 0x40 ++ sha256 imageBody ++ imageBody.drop 0x60
    let s := launching m { phase := .accepted, cmd := [] }
    (s.load 3).phase = .accepted ∧ s.running 0 = true ∧ isHbm 0 = true ∧ 128 ≤ s.rd 0x14 4 ∧ s.bytes 0 (s.rd 0x14 4) = m ∧
    imageFault m (fun i => (s.importFrom m i).isSome) (s.importFcls m) = none ∧ (∀ r ∈ imgRegions m, r.1 ≤ 144) ∧
    (allocRegions (fun _ => true) (regionReqs m 0)).isSome = true ∧ (s.die 0).launchQ.length < 256 ∧
    imageFault imageBody (fun _ => false) (fun _ => 0) = some noIndex := by decide +kernel

theorem wit_LaunchSteps_dispatch :
    let s := { launching [] { phase := .checked, image := imageBody } with at_ := {} }
    (s.die 0).head = some { lid := 3, level := 7 } ∧ s.running 0 = true ∧ (∀ x ∈ (s.die 0).launchQ, s.agingDue 0 x = false) ∧
    s.fits s.clusterFree 3 = some [[0]] := by decide +kernel

/-- Whichever the first of them is, one RID can be named. -/
theorem wit_LaunchSteps_rid :
    ((launching [] { phase := .checked, image := imageBody }).freeRids 1).length = 1 := by
  have h (s : State) (e : s.regions = []) : (s.freeRids 1).length = 1 := by simp [State.freeRids, e]
  exact h _ rfl

/-- Load 3 dispatched to region 1, which is cluster 0. -/
def dispatched (ph : Phase) (b : List Byte) (g : Region) : State :=
  { launching [] { phase := ph, image := b, regions := [1] } with regions := [(1, { g with load := 3, clusters := [0] })], clRid := [(0, 1)] }

/-- An image with no node, which Urupo's free choices do not touch, with one endpoint: DMA queue 0 of IOW. -/
def endpointImage : List Byte :=
  List.replicate 12 0 ++ toBytes 2 1 ++ List.replicate 114 0 ++ toBytes 2 9 ++ toBytes 2 0 ++ toBytes 4 1 ++ toBytes 4 0x90 ++
  toBytes 4 16 ++ [1] ++ List.replicate 15 0

theorem wit_LaunchSteps_place :
    (let s := dispatched .dispatched endpointImage {}
     (s.load 3).phase = .dispatched ∧ ∃ l, s.placement 3 (s.placeKey (s.load 3).image (s.load 3).regions) = .ok l) ∧
    (let s := (dispatched .dispatched endpointImage {}).modLoad 4 fun _ => { phase := .running, dmas := [0] }
     ∃ n, s.placement 3 (s.placeKey (s.load 3).image (s.load 3).regions) = .error n) ∧
    (∀ b ∈ [0, 1], let s := { dispatched .placed imageBody {} with at_ := { a := 3, b := b } }
     (s.load 3).phase = .placed ∧ (s.load 3).dmas = [] ∧ (s.load 3).regions[b - 1]? = some 1 ∧ s.at_.b = b) ∧
    (let s := dispatched .loaded imageBody { shadow := some [] }
     (s.load 3).phase = .loaded ∧ (s.load 3).regions ≠ [] ∧ (s.load 3).regions.Nodup ∧ (s.load 3).restore = none ∧
     (∀ r ∈ (s.load 3).regions, (s.region r).shadow ≠ none ∧ (s.region r).commit = none)) := by
  have h : ∀ x : Except Nat Load, x.isOk = true → ∃ l, x = .ok l := by intro x; cases x <;> simp [Except.isOk, Except.toBool]
  have g : ∀ x : Except Nat Load, x.isOk = false → ∃ l, x = .error l := by intro x; cases x <;> simp [Except.isOk, Except.toBool]
  exact ⟨⟨rfl, h _ (by decide +kernel)⟩, g _ (by decide +kernel), by decide, by decide⟩

/-- Queue 0 of IOW enabled for load 3, with a token, with a command, and with room for one record. -/
def dmaing (fl : Flight) (c : Option DmaCmd) : State :=
  { launching (toBytes 1 1 ++ toBytes 3 0 ++ toBytes 4 64) { phase := .running, regions := [1] } with
    regions := [(1, { load := 3, clusters := [0] })]
    ioIn := [(0, [fl])]
    dq := [(0, { ctl := 0x8000000300000000, ptr := 0xFF, cmd := c })]
    eth := [(0, 1)]
    at_ := {} }

theorem wit_DmaQueues :
    (∀ port ∈ [0, 1], let fl : Flight := { lid := 3, tok := { dest := BitVec.ofNat 28 (0xC000000 + port) } }
     let s := dmaing fl none
     let q := s.dq.look 0
     s.ioIn.look (dqIo 0) = [fl] ∧ q.cmd = none ∧ destPort fl.tok.dest = port ∧ q.refuses fl = false ∧
     (q.pi + 2 ^ 32 - q.ci) % 2 ^ 32 ≠ ringSize q.ring) ∧
    (∀ va ∈ [0, 1], let fl : Flight := { lid := 3, tok := { dest := 0xC000001, val := BitVec.ofNat 64 va } }
     let s := dmaing fl none
     (s.load fl.lid).regions ≠ [] ∧ fl.tok.val.toNat % 64 = va) ∧
    (let c : DmaCmd := { lid := 3, reqs := [10] }
     let s := { dmaing {} (some c) with reqs := [(10, { stage := .done, size := 1, eng := true })] }
     (s.dq.look 0).cmd = some c ∧ c.ended = false ∧ c.reqs ≠ [] ∧ c.desc = [] ∧ s.engPoll c.reqs = .ok [0]) ∧
    (let c : DmaCmd := { lid := 3, desc := toBytes 1 3 }
     let s := dmaing {} (some c)
     (s.dq.look 0).cmd = some c ∧ c.ended = false ∧ c.reqs = [] ∧ c.op = 3 ∧ c.sv = false ∧ c.moved = c.total ∧ s.ethUp 0 c = true) ∧
    (∀ cv ∈ [0, 1], let c : DmaCmd := { lid := 3, ended := true, desc := toBytes 1 1 ++ toBytes 1 cv }
     let s := dmaing {} (some c)
     (s.dq.look 0).cmd = some c ∧ c.ended = true ∧ (s.load c.lid).phase ≠ .ended ∧ tbit (c.f 1 1) 0 = (cv == 1) ∧ c.fail = 0) := by
  exact ⟨by decide, by decide, by decide, by decide, by decide⟩

/-- A page of the load that the I/O die's translation holds, from physical address 0. -/
def dmaPage : State :=
  { dmaing {} none with tlb := [(256, [{ rid := 1, page := 1, bits := 16, rd := true, wr := true, us := true }])] }

theorem wit_DmaQueues_asks :
    ((dmaPage.popIo 0).dmaAsk 0 3 0x10000 64 none).isSome = true ∧ (((dmaing {} none).popIo 0).dmaAsk 0 3 0 64 none).isNone = true := by
  decide +kernel

/-- Ownership: IOW running, in each STATE, before the time and after it. -/
def owned (o : Own) (units : Nat) : State := { launching [] {} with own := o, units := units }

theorem wit_Ownership :
    (∀ o ∈ ([{}, { st := 1, window := 10 }, { st := 2, owner := 15, lapse := 10 }, { st := 3, owner := 15, target := 15, lapse := 10 }] : List Own),
      let s := owned o 0
      s.ownServes = true ∧ (o.st = 1 → s.iowTick < o.window) ∧ (o.st = 2 ∨ o.st = 3 → s.iowTick < o.lapse) ∧ s.at_.b = 0 ∧ 7 < 8) ∧
    (let r : HReq := { ep := 256, hid := 15, op := 1, arg := toBytes 4 0 }
     let s := { owned {} 0 with mgmt := [r], at_ := { b := 1 } }
     s.at_.b = 0 + 1 ∧ s.mgmt[0]? = some r ∧ s.crossing r.via = false ∧ s.ownServes = true ∧ (owned {} 0).ioeForwards = true) ∧
    (let s := owned { st := 1, window := 1, claims := [(4, 2), (4, 1), (5, 0)] } 18
     s.own.window ≤ s.iowTick ∧ (4, 1) ∈ s.own.claims ∧ ∀ p ∈ s.own.claims, 4 < p.1 ∨ (4 = p.1 ∧ 1 ≤ p.2)) ∧
    (let s := owned { st := 2, lapse := 1 } 18; s.own.lapse ≤ s.iowTick) := by
  have h : ∀ o, (owned o 0).iowTick < 10 := by intro o; show 0 / 18 + Config.skew 3 % 3 < 10; omega
  have h2 : ∀ o, 1 ≤ (owned o 18).iowTick := by intro o; show 1 ≤ 18 / 18 + Config.skew 3 % 3; omega
  refine ⟨?_, by decide +kernel, ⟨h2 _, by decide, by decide⟩, h2 _⟩
  intro o ho
  simp only [List.mem_cons, List.not_mem_nil, or_false] at ho
  rcases ho with rfl | rfl | rfl | rfl <;> refine ⟨rfl, ?_, ?_, rfl, by decide⟩ <;> intro hs <;> first | exact h _ | (exfalso; revert hs; decide)

/-- A host that is the owner, and one that is not, with room in its ring; every endpoint of a running I/O die. -/
theorem wit_HostRequestsAndRings :
    (let s := { owned { st := 2, owner := 0, lapse := 10 } 0 with hosts := [(0, { known := true, hqptr := 1 })] }
     let c : HostCtx := { hid := 0, tag := 0, die := 3 }
     c.die < 5 ∧ c.hid < 16 ∧ (∀ ep, ep < 6 → s.waits c ep = false) ∧ c.die = hostDie c.hid ∧ (∀ ep, ep < 6 → s.answers 3 ep = true) ∧
     s.jhead - s.jtail < 4096 ∧ (s.jtail ≤ 1 ∧ ¬ 1 < s.jhead) ∧ regThere 0x10 3 255 = true ∧ 0x10 ≠ 0x14 ∧ s.answers 0 3 = true ∧
     48 ≤ 48 ∧ flashBytes - 48 + 48 ≤ flashBytes ∧ s.fwAccepted 3 = false ∧ 0 ≠ fld (s.hosts.look 0).hqptr.toNat 0 32 ∧
     6 ≤ s.boot.look (hostDie 0)) ∧ (0 ≠ hostDie 0) ∧
    (∀ r ∈ ([{ answer := some (0, []) }, { die := 5 }] : List HReq), let s := { owned {} 0 with mgmt := [r], at_ := { b := 1 } }
     s.at_.b = 0 + 1 ∧ s.mgmt[0]? = some r ∧ r.ep ≠ 256 ∧ r.hid < 16 ∧ (s.hosts.look r.hid).full = false ∧ s.firstPending 0 r = true ∧ s.crossing r.via = false) ∧
    (let s : State := owned {} 0; ∀ (c : HostCtx) ep op, s.underway c ep op = false) ∧
    ((launching [] {}).answers 0 1 = false ∧ ({ launching [] {} with boot := [(3, 7)] } : State).answers 3 3 = false) := by
  refine ⟨by decide +kernel, by decide, by decide +kernel, fun _ _ _ => rfl, by decide⟩

/-- XINV with GO for a page and for all; a write while GO is 1. -/
theorem wit_OwnershipAndRegisters_registers :
    xinvGo 0x8000000000000000 = true ∧ xinvGo 0xC000000000000000 = true ∧ xinvAllBit 0x8000000000000000 = false ∧
    xinvAllBit 0xC000000000000000 = true ∧ xinvGo ((base 1 2 3).die 0).xinv = false ∧
    (let s := { base 1 2 3 with dies := [(2, { xinv := 0x8000000000000000 })] }
     xinvGo (s.die 2).xinv = true ∧ s.xinvPending 2 (s.die 2).xinv = false ∧ 2 < 3) := by
  refine ⟨rfl, rfl, rfl, rfl, rfl, rfl, rfl, by decide⟩

/-- The boot steps of a die, with a slot that has no header, one that the die has not accepted, and a path that is down; the
boundary temperatures; a mode that is asked for, at a tick boundary and between two; a window that is over. -/
theorem wit_PowerBootAndHeat :
    ((∀ d, d < 5 → State.reset.power.temp.look d < 70) ∧ State.reset.boot.look 3 = 0) ∧
    (let s : State := { State.reset with power := { hotOff := [4], temp := [(4, 70)] } }
     s.boot.look 3 = 0 ∧ 4 ∈ s.power.hotOff ∧ 70 ≤ s.power.temp.look 4) ∧
    (let s : State := { State.reset with boot := [(0, 2), (3, 6)], flash := [(4, 64)] }
     s.boot.look 0 = 2 ∧ s.boot.look 3 ≠ 0 ∧ s.lost.look 0 = none ∧ s.fwReadable = true ∧ s.readsFlash 3 = true ∧ s.fwAccepted 3 = false ∧
     ({ s with flash := [] } : State).fwReadable = false) ∧
    (let s : State := { State.reset with boot := [(0, 5), (3, 6)] }; s.boot.look 0 = 5) ∧
    (let s : State := { State.reset with power := { temp := [(0, 109)] }, boot := [(3, 6)] }
     s.power.temp.look 0 < 110 ∧ 4 < 5 ∧ 4 ≠ 3 ∧ s.boot.look 3 ≠ 0 ∧ s.boot.look 0 = 0) ∧
    (∀ u ∈ [17, 18], let s : State := { State.reset with power := { next := some (2, 0) }, units := u }
     s.power.next = some (2, 0) ∧ (s.units % 18 = 0 ↔ u = 18)) ∧
    (let s : State := { State.reset with units := 18000 }
     s.power.windowEnd + 1000 ≤ s.units / 18 ∧ State.reset.units / 18 < State.reset.power.windowEnd + 1000) ∧
    (100 ≤ (100#8).toNat ∧ (109#8).toNat < 110 ∧ 95 ≤ (95#8).toNat ∧ (99#8).toNat < 100 ∧ (94#8).toNat < 95 ∧ 110 ≤ (110#8).toNat ∧
     (69#8).toNat < 70 ∧ 0 ∉ State.reset.power.throttled) := by decide +kernel

theorem test_decode_add : decode 0x2020C800FD441A168441A16D = .ok (.add
    { ty := 0x2, tg := 0, litp := true, ndest := 2, arity3 := false, opf := 8, slot := 0, lit := 0xFD, destA := 0x441A168, destB := 0x441A16D }) := by
  decide

theorem test_decode_vswap2 : decode 0x5490200005000000C0000000 = .ok (.vswap2
    { ty := 0x9, tg := 0, litp := false, ndest := 1, arity3 := false, opf := 0, slot := 0, lit := 0x5, destA := 0xC, destB := 0x0 }) := by
  decide

theorem test_decode_tmma : decode 0x70E038045E00000240000000 = .ok (.tmma
    { ty := 0xE, tg := 0, litp := false, ndest := 1, arity3 := true, opf := 8, slot := 4, tp := 0x5E, destA := 0x24, destB := 0x0 }) := by
  decide

theorem test_decode_cmbfaddx : decode 0xA6D020041000000240000000 = .ok (.cmbfaddx
    { ty := 0xD, tg := 0, litp := false, ndest := 1, arity3 := false, opf := 0, slot := 4, lit := 0x10, destA := 0x24, destB := 0x0 }) := by
  decide

theorem test_decode_time : decode 0xC6E020000000000000000014 = .ok (.time
    { ty := 0xE, tg := 0, litp := false, ndest := 1, arity3 := false, opf := 0, slot := 0, lit := 0x0, destA := 0x14 }) := by
  decide

theorem test_decode_ecall : decode 0xCAE02000000000F000000018 = .ok (.ecall
    { ty := 0xE, tg := 0, litp := false, ndest := 1, arity3 := false, opf := 0, slot := 0, lit := 0xF00, destA := 0x18 }) := by
  decide

theorem test_decode_trap : decode 0xC0E02000000000102000000C = .ok (.trap
    { ty := 0xE, tg := 0, litp := false, ndest := 1, arity3 := false, opf := 0, slot := 0, lit := 0x102, destA := 0xC }) := by
  decide

theorem test_decode_st : decode 0x91002004030405000000001C = .ok (.st
    { ty := 0x0, tg := 0, litp := false, ndest := 1, arity3 := false, opf := 0, slot := 4, pred := 3, own := 4, succ := 5, off := 0, destA := 0x1C }) := by
  decide

theorem test_decode_loopin : decode 0x18E020000200000080000000 = .ok (.loopin
    { ty := 0xE, tg := 0, litp := false, ndest := 1, arity3 := false, opf := 0, slot := 0, lit := 0x2, destA := 0x8, destB := 0x0 }) := by
  decide

theorem test_decode_iter : decode 0x12E420000000000080000000 = .ok (.iter
    { ty := 0xE, tg := 4, litp := false, ndest := 1, arity3 := false, opf := 0, slot := 0, lit := 0x0, destA := 0x8, destB := 0x0 }) := by
  decide

theorem test_decode_vbcmp : decode 0x5E7020002C00000140000000 = .ok (.vbcmp
    { ty := 0x7, tg := 0, litp := false, ndest := 1, arity3 := false, opf := 0, slot := 0, lit := 0x2C, destA := 0x14, destB := 0x0 }) := by
  decide

theorem test_decode_sxmac : decode 0xD0B000090C8C008000000000 = .ok (.sxmac
    { ty := 0xB, tg := 0, litp := false, ndest := 0, arity3 := false, opf := 0, spos := 2, sin := 4, sout := 3, acc := 1, sub := 3, scnt := 32, rsv := 0, slit := 0 }) := by
  decide

theorem test_decode_tacc : decode 0x71E0280E01000006D0000000 = .ok (.tacc
    { ty := 0xE, tg := 0, litp := false, ndest := 1, arity3 := false, opf := 8, slot := 14, tp := 0x1, destA := 0x6D, destB := 0x0 }) := by
  decide

theorem test_decode_fanout : decode 0x0FE040000000000040000005 = .ok (.fanout
    { ty := 0xE, tg := 0, litp := false, ndest := 2, arity3 := false, opf := 0, slot := 0, lit := 0x0, destA := 0x4, destB := 0x5 }) := by
  decide

theorem test_decode_mul : decode 0x220020040000000080000000 = .ok (.mul
    { ty := 0x0, tg := 0, litp := false, ndest := 1, arity3 := false, opf := 0, slot := 4, lit := 0x0, destA := 0x8, destB := 0x0 }) := by
  decide

theorem test_decode_clmul : decode 0x3E10200B0000000540000000 = .ok (.clmul
    { ty := 0x1, tg := 0, litp := false, ndest := 1, arity3 := false, opf := 0, slot := 11, lit := 0x0, destA := 0x54, destB := 0x0 }) := by
  decide

theorem test_decode_pxor : decode 0x3F1020160000000A50000000 = .ok (.pxor
    { ty := 0x1, tg := 0, litp := false, ndest := 1, arity3 := false, opf := 0, slot := 22, lit := 0x0, destA := 0xA5, destB := 0x0 }) := by
  decide

theorem test_decode_qpub : decode 0xB3E0200D0000000640000000 = .ok (.qpub
    { ty := 0xE, tg := 0, litp := false, ndest := 1, arity3 := false, opf := 0, slot := 13, lit := 0x0, destA := 0x64, destB := 0x0 }) := by
  decide

/-! ### One ill-formed record for each check, in the order of R103 -/

/-- A device event has no record, and OP 0x00 and 0xFF are unassigned. -/
theorem test_ill_formed_unassigned : Instr.powerOn.wellFormed = false ∧ decode 0 = .error .unassigned ∧
    decode 0xFF2020040000000000000000 = .error .unassigned := by decide

/-- `fadd` does not take an integer TY, and `add` no float TY (R86). -/
theorem test_ill_formed_ty : (Instr.fadd (d2 2 0 0)).wellFormed = false ∧ (Instr.add (d2 13 0 0)).wellFormed = false ∧
    (Instr.add (d2 2 0 0)).wellFormed = true := by decide

/-- TG 7 is reserved (R87). -/
theorem test_ill_formed_tg : (Instr.add { d2 2 0 0 with tg := 7 }).wellFormed = false := by decide

/-- NDEST 11 is `steer`'s alone, ARITY3 is for nodes with three operands, and `add` takes no OPF but 0 and SAT. -/
theorem test_ill_formed_fields : (Instr.add (d2 2 0 0 3)).wellFormed = false ∧
    (Instr.add { d2 2 0 0 with arity3 := true }).wellFormed = false ∧ (Instr.add (d2 2 1 0)).wellFormed = false ∧
    (Instr.sink { d1 0 with litp := true, slot := 0 }).wellFormed = false := by decide

/-- Slots 0 to 3 of a frame are its own (R93). -/
theorem test_ill_formed_slot : (Instr.add { d2 2 0 0 with slot := 3 }).wellFormed = false := by decide

/-- `mergeo` of depth 0 (R132), and a `pxor` literal above 1 (R94). -/
theorem test_ill_formed_literal : (Instr.mergeo { d2 14 0 0 with slot := 0 }).wellFormed = false ∧
    (Instr.pxor { d2 1 0 2 with litp := true, slot := 0 }).wellFormed = false := by decide

/-- A static record with its reserved bits set (R100). -/
theorem test_ill_formed_static :
    (Instr.sxnop { ty := 14, tg := 0, litp := false, ndest := 0, arity3 := false, opf := 0, spos := 0, sin := 0, sout := 0, acc := 0,
                   sub := 0, scnt := 1, rsv := 1, slit := 0 }).wellFormed = false := by decide

/-! ### Worked examples of the spec -/

/-- 01_machine_state.md, R20: the token's two words. -/
theorem test_token_words :
    Token.bits { dest := BitVec.ofNat 28 (2 ^ 26 + 0x106 * 2 ^ 14 + 2 * 2 ^ 12 + 0x5A * 4 + 1), fx := 0x013, path := 1, val := 42, seq := 7 } =
      0x088342D202608000#64 ++ 0x000000000005401C#64 := by decide +kernel

/-- 02_number_formats.md: 300.0 to E4M3 under RNE is 288, with NX. -/
theorem test_cvt_e4m3 : convLane 13 11 rne 0x43960000 = (0x79, fNX) := by decide

/-- R82: the exact sum of 1.0, 2^24 and -2^24 is 1.0. -/
theorem test_exact_sum : (let v := (d2 13 0 3).view 0xA6
    let p := [0x4B800000#64, 0x3F800000#64, 0xCB800000#64].foldl (fun p a => faddxTake v p.1 p.2 a) (0, 1#64 <<< 58)
    p.1 = 2 ^ 160 ∧ faddxResult v p.1 p.2 = (0x3F800000#64, 0#8)) := by decide +kernel

/-- R172. -/
theorem test_clmul : sent (exec (.clmul (d2 1 0 0 3)) (base 3 3 0)) = [5, 0] := by decide

/-- R174: `frcp` of E4M3 2^-9 in lane 0 gives 448 with SAT and NX. -/
theorem test_frcp : sent (exec (.frcp (d2 11 0 0)) (base 0x3838383838383801 0 0)) = [0x383838383838387E] ∧
    flagsOf (exec (.frcp (d2 11 0 0)) (base 0x3838383838383801 0 0)) = fSAT ||| fNX := by decide

/-- R185. -/
theorem test_vswap2 : sent (exec (.vswap2 (d2 9 0 5)) (base 0xBF00404040003F80 0 0)) = [0x40403F003F80C000] := by decide

/-- R187: which bytes of 0x2C2B2C00 equal 0x2C. -/
theorem test_vbcmp : sent (exec (.vbcmp (d2 7 0 0x2C)) (base 0x2C2B2C00 0 0)) = [0b1010] := by decide

/-- 07_isa_tile.md: the saved words of the example. -/
theorem test_pg : mkPga 0x70 2 true 2 37 = 0x7052000000000025 ∧
    (let a : Token := { kind := 1, fx := 0x013, val := 0x300000000 }
     let b : Token := { kind := 1, val := 0x100000000 }
     mkPgb 2 { node := 0x05A, t0 := a, t1 := b }) = 0x00020131680C0400 := by decide

/-- FIPS 180-4: the digest of `abc`. -/
theorem test_sha256 : (sha256 [0x61, 0x62, 0x63]).take 8 = [0xba, 0x78, 0x16, 0xbf, 0x8f, 0x01, 0xcf, 0xea] := by decide +kernel

/-! ### One step each -/

/-- R161: lanes wrap apart, and SAT stops a lane at its bound. -/
theorem test_add : sent (exec (.add (d2 2 0 0)) (base 0x7FFFFFFF00000001 0x0000000100000001 0)) = [0x8000000000000002] ∧
    sent (exec (.add (d2 2 8 0)) (base 0x7FFFFFFF00000001 0x0000000100000001 0)) = [0x7FFFFFFF00000002] ∧
    flagsOf (exec (.add (d2 2 8 0)) (base 0x7FFFFFFF00000001 0x0000000100000001 0)) = fSAT := by decide

/-- R162: -7 / 2 is -3, and the remainder takes the sign of the dividend. -/
theorem test_div : sent (exec (.div (d2 0 0 0)) (base (-7) 2 0)) = [(-3 : Word)] ∧ sent (exec (.rem (d2 0 0 0)) (base (-7) 2 0)) = [(-1 : Word)] := by
  decide

/-- R162: the least number divided by -1 wraps. -/
theorem test_div_wraps : sent (exec (.div (d2 0 0 0)) (base 0x8000000000000000 (-1) 0)) = [0x8000000000000000] := by decide

/-- R162: a zero divisor sends nothing. -/
theorem test_div_zero : sent (exec (.div (d2 0 0 0)) (base 7 0 0)) = [] := by decide

/-- R176: 1.0 + 2.0 in FP32, and infinity minus infinity is the canonical NaN with NV. -/
theorem test_fadd : sent (exec (.fadd (d2 13 0 0)) (base 0x3F800000 0x40000000 0)) = [0x40400000] ∧
    sent (exec (.fsub (d2 13 0 0)) (base 0x7F800000 0x7F800000 0)) = [0x7FC00000] ∧
    flagsOf (exec (.fsub (d2 13 0 0)) (base 0x7F800000 0x7F800000 0)) = fNV := by decide

/-- R130: `gate` stops at 0. -/
theorem test_gate : sent (exec (.gate (d2 14 0 0)) (base 5 0 0)) = [] ∧ sent (exec (.gate (d2 14 0 0)) (base 5 1 0)) = [5] := by decide

/-- R87: TG 1 pushes 1 on the second destination. -/
theorem test_steer_path : (match exec (.steer { d2 14 0 0 3 with tg := 1 }) (base 5 1 0) with
    | .next t => (t.elem 0).outStage.map fun fl => (fl.tok.dest, fl.tok.path)
    | _ => []) = [(32, 1)] := by decide

/-- R129. -/
theorem test_pack : sent (exec (.pack2 (d2 14 0 0)) (base 0x1122334455667788 0x99AABBCC 0)) = [0x99AABBCC55667788] := by decide

/-- R133: the counter goes up by one, and back to the literal after EOD. -/
theorem test_seq : (match exec (.seq (d2 14 0 9)) (base 5 0 0) with
    | .next t => ((t.elem 0).outStage.map (·.tok.seq), (t.elem 0).seqCtr.look 0)
    | _ => ([], none)) = ([9], some 10) := by decide

/-- R32 and R33: a second token for a parked port raises MISPORT and moves no slot. -/
theorem test_misport : (match exec .tokenArrival (arriving 0x202020040000000100000020 { val := 8, p := true, prt := 0 }) with
    | .next t => (((t.load 3).faults.look 0).w0.extractLsb' 56 8, ((t.ct 0).slot 7 4).val, (t.fxRec 5 7).parked)
    | _ => (0, 0, false)) = (0x19, 8, true) := by decide +kernel

/-- R375: a token leaves for the next column. -/
theorem test_hop : nextHop 0 0x4000 = .hop 1 4 ∧ nextHop 1 0 = .hop 0 2 := by decide

/-- R285: bytes are stored lowest first. -/
theorem test_store : (((base 0 0 0).setBytes 8 [1, 2]).rd 8 4, ((base 0 0 0).setBytes 8 [1, 2]).mem) = (0x201, [(8, 1), (9, 2)]) := by decide

/-- R53: the arrival that reaches TARGET takes it off COUNT and raises GEN. -/
theorem test_sync : (let s := ((base 0 0 0).setBytes 0 [3]).syncAdd 0 4 3; (s.rd 4 4, s.rd 14 2)) = (1, 1) := by decide

/-- R248: the entry of a push and the index that answers it. -/
theorem test_push : (match exec .homeAccess (queued 0xB0 64) with
    | .next t => ((t.reqs.look 9).tok.val, (t.queue 4).resv)
    | _ => (0, 0)) = (63, 64) := by decide +kernel

/-- R276: `halt` ends its load, and the load gives its region back. -/
theorem test_halt : (match exec (.halt (d1 0)) (base 5 0 0) with
    | .next t => ((t.load 3).phase, (t.load 3).regions, (t.region 5).load)
    | _ => (.none, [0], 9)) = (.ended, [], 0) := by decide +kernel

/-- R56: the first step after reset runs the record that withFetchWord places. -/
theorem test_fetch : sent (step (State.reset.withFetchWord 96 0x02E020000000000070000010)) = [7] := by decide +kernel

end Sys2Proof.Tests
end

section
/-!
The canonical form of main memory, host memory and the boot flash (R56, R313, R414, R428): every operation of the
machine keeps it. One lemma for each operation, in the order of the model; a proof follows the operation's own text, so
that `h.f.g` reads as the state after `f` and then `g`.
-/
namespace Sys2Proof
open Machine
-- One proof after the other: each cites those before it, so elaborating them side by side would only keep threads waiting.
set_option Elab.async false

/-- The three memories are in canonical form. -/
def Canonical (s : State) : Prop :=
  Memory.wf s.mem = true ∧ Memory.wf s.hostMem = true ∧ Memory.wf s.flash = true

/-- The step goes on, to a state in canonical form. -/
def StaysCanonical (r : Res) : Prop := ∃ t, r = .next t ∧ Canonical t

/-- The state that an operation may give is in canonical form. -/
def OptCanonical (o : Option State) : Prop := ∀ t, o = some t → Canonical t

/-- So is each state that a result carries. -/
def Machine.RunRes.Canonical : RunRes → Prop
  | .wait t => Sys2Proof.Canonical t
  | _ => True
def Machine.MatchRes.Canonical : MatchRes → Prop
  | .taken t | .fires t _ | .bad t _ _ => Sys2Proof.Canonical t
  | .busy => True
def Machine.ArrRes.Canonical : ArrRes → Prop
  | .done t | .waits t => Sys2Proof.Canonical t
def Machine.BoundAct.Canonical : BoundAct → Prop
  | .done t => Sys2Proof.Canonical t
  | _ => True
def Machine.TileRes.Canonical : TileRes → Prop
  | .ok _ _ upd => ∀ t, Sys2Proof.Canonical t → Sys2Proof.Canonical (upd t)
  | _ => True
def Machine.Done.Canonical (r : Done) : Prop := Sys2Proof.Canonical r.s

variable {s : State}

theorem Canonical.of_same {t : State} (h : Canonical s) (k : SameBytes s t) : Canonical t := by
  obtain ⟨hm, hh, hf⟩ := k
  rw [Canonical, hm, hh, hf]
  exact h

/-- A state that differs in other fields alone. -/
theorem Canonical.frame {t : State} (h : Canonical s) (hm : t.mem = s.mem := by dsimp only)
    (hh : t.hostMem = s.hostMem := by dsimp only) (hf : t.flash = s.flash := by dsimp only) : Canonical t :=
  h.of_same ⟨hm, hh, hf⟩

/-! ### Branches, folds and results -/

theorem Canonical.ite {c : Prop} [Decidable c] {t u : State} (a : Canonical t) (b : Canonical u) :
    Canonical (if c then t else u) := by split <;> assumption
theorem Canonical.foldl {β : Type} {l : List β} {f : State → β → State} (h : Canonical s)
    (hf : ∀ t b, Canonical t → Canonical (f t b)) : Canonical (l.foldl f s) := by
  induction l generalizing s with
  | nil => exact h
  | cons b l ih => exact ih (hf _ _ h)

theorem StaysCanonical.next (h : Canonical s) : StaysCanonical (.next s) := ⟨s, rfl, h⟩
theorem StaysCanonical.ite {c : Prop} [Decidable c] {t u : Res} (a : StaysCanonical t) (b : StaysCanonical u) :
    StaysCanonical (if c then t else u) := by split <;> assumption
theorem StaysCanonical.of_same {r : Res} (h : Canonical s) (k : ∃ t, r = .next t ∧ SameBytes s t) : StaysCanonical r := by
  obtain ⟨t, e, k⟩ := k
  exact ⟨t, e, h.of_same k⟩

theorem OptCanonical.none : OptCanonical none := fun _ h => nomatch h
theorem OptCanonical.some (h : Canonical s) : OptCanonical (some s) := fun _ e => Option.some.inj e ▸ h
theorem OptCanonical.of_some {o : Option State} {t : State} (k : OptCanonical o) (e : o = .some t) : Canonical t := k t e
theorem OptCanonical.ite {c : Prop} [Decidable c] {t u : Option State} (a : OptCanonical t) (b : OptCanonical u) :
    OptCanonical (if c then t else u) := by split <;> assumption
theorem OptCanonical.map {α : Type} {o : Option α} {f : α → State} (hf : ∀ x, Canonical (f x)) :
    OptCanonical (o.map f) := by
  cases o with
  | none => exact .none
  | some x => exact .some (hf x)
theorem OptCanonical.getD {o : Option State} (k : OptCanonical o) (h : Canonical s) : Canonical (o.getD s) := by
  cases o with
  | none => exact h
  | some t => exact k t rfl

theorem Machine.RunRes.Canonical.of_wait {r : RunRes} {t : State} (k : r.Canonical) (e : r = .wait t) :
    Sys2Proof.Canonical t := by subst e; exact k
theorem Machine.MatchRes.Canonical.of_taken {r : MatchRes} {t : State} (k : r.Canonical) (e : r = .taken t) :
    Sys2Proof.Canonical t := by subst e; exact k
theorem Machine.MatchRes.Canonical.of_fires {r : MatchRes} {t : State} {f : Firing} (k : r.Canonical) (e : r = .fires t f) :
    Sys2Proof.Canonical t := by subst e; exact k
theorem Machine.MatchRes.Canonical.of_bad {r : MatchRes} {t : State} {i j : Nat} (k : r.Canonical) (e : r = .bad t i j) :
    Sys2Proof.Canonical t := by subst e; exact k
theorem Machine.RunRes.Canonical.ite {c : Prop} [Decidable c] {t u : RunRes} (a : t.Canonical) (b : u.Canonical) :
    (if c then t else u).Canonical := by split <;> assumption
theorem Machine.MatchRes.Canonical.ite {c : Prop} [Decidable c] {t u : MatchRes} (a : t.Canonical) (b : u.Canonical) :
    (if c then t else u).Canonical := by split <;> assumption
theorem Machine.ArrRes.Canonical.of_done {r : ArrRes} {t : State} (k : r.Canonical) (e : r = .done t) :
    Sys2Proof.Canonical t := by subst e; exact k
theorem Machine.ArrRes.Canonical.of_waits {r : ArrRes} {t : State} (k : r.Canonical) (e : r = .waits t) :
    Sys2Proof.Canonical t := by subst e; exact k
theorem Machine.ArrRes.Canonical.ite {c : Prop} [Decidable c] {t u : ArrRes} (a : t.Canonical) (b : u.Canonical) :
    (if c then t else u).Canonical := by split <;> assumption
theorem Machine.BoundAct.Canonical.of_done {r : BoundAct} {t : State} (k : r.Canonical) (e : r = .done t) :
    Sys2Proof.Canonical t := by subst e; exact k
theorem Machine.TileRes.Canonical.of_ok {r : TileRes} {t : Token} {fl : Flags} {f : State → State} (k : r.Canonical)
    (e : r = .ok t fl f) (h : Sys2Proof.Canonical s) : Sys2Proof.Canonical (f s) := by subst e; exact k s h
theorem Machine.TileRes.Canonical.ite {c : Prop} [Decidable c] {t u : TileRes} (a : t.Canonical) (b : u.Canonical) :
    (if c then t else u).Canonical := by split <;> assumption
theorem Machine.Done.Canonical.ite {c : Prop} [Decidable c] {t u : Done} (a : t.Canonical) (b : u.Canonical) :
    (if c then t else u).Canonical := by split <;> assumption

/-! ### The shared operations, which leave the three memories as they are -/

theorem Canonical.post (h : Canonical s) {a b m} : Canonical (s.post a b m).1 := h.of_same (.post _ _ _ _)
theorem Canonical.postMgmt (h : Canonical s) {a b n} : Canonical (s.postMgmt a b n).1 := h.post
theorem Canonical.postNotices (h : Canonical s) {a n l} : Canonical (s.postNotices a n l).1 := h.of_same (.postNotices _ _ _ _)
theorem Canonical.sendReq (h : Canonical s) {i a b} : Canonical (s.sendReq i a b) := h.of_same (.sendReq _ _ _ _)
theorem Canonical.sendReply (h : Canonical s) {i} : Canonical (s.sendReply i) := h.of_same (.sendReply _ _)
theorem Canonical.unparkCt (h : Canonical s) {q x} : Canonical (s.unparkCt q x) := h.of_same (.unparkCt _ _ _)
theorem Canonical.takeNotice (h : Canonical s) {d x} : Canonical (s.takeNotice d x) := h.of_same (.takeNotice _ _ _)
theorem Canonical.sendNotice (h : Canonical s) {x d l} : Canonical (s.sendNotice x d l) := h.of_same (.sendNotice _ _ _ _)
theorem Canonical.notifyDies (h : Canonical s) {x} : Canonical (s.notifyDies x) := h.of_same (.notifyDies _ _)
theorem Canonical.park (h : Canonical s) {r x b} : Canonical (s.park r x b) := h.of_same (.park _ _ _ _)
theorem Canonical.unpark (h : Canonical s) {r x} : Canonical (s.unpark r x) := h.of_same (.unpark _ _ _)
theorem Canonical.beginRelease (h : Canonical s) {r x n} : Canonical (s.beginRelease r x n) := h.of_same (.beginRelease _ _ _ _)
theorem Canonical.release (h : Canonical s) {r x} : Canonical (s.release r x) := h.of_same (.release _ _ _)
theorem Canonical.notify (h : Canonical s) {l st c} : Canonical (s.notify l st c) := h.of_same (.notify _ _ _ _)
theorem Canonical.endLoad (h : Canonical s) {l st c a} : Canonical (s.endLoad l st c a) := h.of_same (.endLoad _ _ _ _ _)
theorem Canonical.haltLoad (h : Canonical s) {l v} : Canonical (s.haltLoad l v) := h.of_same (.haltLoad _ _ _)
theorem Canonical.enterRecord (h : Canonical s) {l r ix a} : Canonical (s.enterRecord l r ix a) :=
  h.of_same (.enterRecord _ _ _ _ _)
theorem Canonical.record1 (h : Canonical s) {l r a} : Canonical (s.record1 l r a) := h.of_same (.record1 _ _ _ _)
theorem Canonical.countFault (h : Canonical s) {a} : Canonical (s.countFault a) := h.of_same (.countFault _ _)
theorem Canonical.raiseArgs (h : Canonical s) {l r a} : Canonical (s.raiseArgs l r a) := h.of_same (.raiseArgs _ _ _ _)
theorem Canonical.raiseFiring (h : Canonical s) {f k d a b x} : Canonical (s.raiseFiring f k d a b x) :=
  h.of_same (.raiseFiring _ _ _ _ _ _ _)
theorem Canonical.raiseToken (h : Canonical s) {f k d b} : Canonical (s.raiseToken f k d b) := h.of_same (.raiseToken _ _ _ _ _)
theorem Canonical.raiseAway (h : Canonical s) {f k d p} : Canonical (s.raiseAway f k d p) := h.of_same (.raiseAway _ _ _ _ _)
theorem Canonical.send (h : Canonical s) {f v w o} : Canonical (s.send f v w o) := h.of_same (.send _ _ _ _ _)
theorem Canonical.sendAnswer (h : Canonical s) {d f v w o} : Canonical (s.sendAnswer d f v w o) :=
  h.of_same (.sendAnswer _ _ _ _ _ _)
theorem Canonical.askDie (h : Canonical s) {v t p io} : Canonical (s.askDie v t p io) := h.of_same (.askDie _ _ _ _ _)
theorem Canonical.askObj (h : Canonical s) {v t p} : Canonical (s.askObj v t p) := h.of_same (.askObj _ _ _ _)
theorem Canonical.answerWith (h : Canonical s) {i x e} : Canonical (s.answerWith i x e) := h.of_same (.answerWith _ _ _ _)
theorem Canonical.replyTo (h : Canonical s) {i x} : Canonical (s.replyTo i x) := h.of_same (.replyTo _ _ _)
theorem Canonical.replyBad (h : Canonical s) {i k d p} : Canonical (s.replyBad i k d p) := h.of_same (.replyBad _ _ _ _ _)
theorem Canonical.replyTok (h : Canonical s) {i t} : Canonical (s.replyTok i t) := h.of_same (.replyTok _ _ _)
theorem Canonical.finish (h : Canonical s) {v o fl} : StaysCanonical (finish s v o fl) := .of_same h (finish_next _ _ _ _)
theorem Canonical.finish1 (h : Canonical s) {v x} : StaysCanonical (finish1 s v x) := .of_same h (finish1_next _ _ _)
theorem Canonical.finish2 (h : Canonical s) {v a b} : StaysCanonical (finish2 s v a b) := .of_same h (finish2_next _ _ _ _)
theorem Canonical.fails (h : Canonical s) {v k d} : StaysCanonical (fails s v k d) := .of_same h (fails_next _ _ _ _)
theorem Canonical.askMt (h : Canonical s) {v t q} : StaysCanonical (askMt v t q s) := .of_same h (askMt_next _ _ _ _)

/-! ### The places -/

theorem Canonical.modElem (h : Canonical s) {e f} : Canonical (s.modElem e f) := h

theorem Canonical.modCt (h : Canonical s) {q f} : Canonical (s.modCt q f) := h

theorem Canonical.modMt (h : Canonical s) {q f} : Canonical (s.modMt q f) := h

theorem Canonical.modQueue (h : Canonical s) {k f} : Canonical (s.modQueue k f) := h.modMt

theorem Canonical.modRegion (h : Canonical s) {rid f} : Canonical (s.modRegion rid f) := h

theorem Canonical.modLoad (h : Canonical s) {lid f} : Canonical (s.modLoad lid f) := h

theorem Canonical.modDie (h : Canonical s) {d f} : Canonical (s.modDie d f) := h

theorem Canonical.modFx (h : Canonical s) {rid fx f} : Canonical (s.modFx rid fx f) := h.modRegion

theorem Canonical.noteUe (h : Canonical s) {pa} : Canonical (s.noteUe pa) := h.modDie

theorem Canonical.countUe (h : Canonical s) {pa} : Canonical (s.countUe pa) := h.noteUe.modDie

theorem Canonical.countParity (h : Canonical s) {die} : Canonical (s.countParity die) := h.modDie

theorem Canonical.addCe (h : Canonical s) {die n} : Canonical (s.addCe die n) := by
  induction n generalizing s with
  | zero => exact h
  | succ n ih => exact ih h.modDie

theorem Canonical.countTableCe (h : Canonical s) {die l} : Canonical (s.countTableCe die l) := h.addCe

theorem Canonical.mendTable (h : Canonical s) {l} : Canonical (s.mendTable l) := h

theorem Canonical.drawn (h : Canonical s) : Canonical s.drawn := h

/-! ### Links -/

theorem Canonical.onLink (h : Canonical s) {l dir m} : Canonical (s.onLink l dir m) := h

/-! ### The end of a load -/

theorem Canonical.modJournal (h : Canonical s) {seq f} : Canonical (s.modJournal seq f) := h

theorem Canonical.discardReqs (h : Canonical s) {lid rids} : Canonical (s.discardReqs lid rids) := h

theorem Canonical.discardLoad (h : Canonical s) {lid} : Canonical (s.discardLoad lid) := by
  unfold State.discardLoad
  exact h.discardReqs.frame

/-! ### Operations -/

theorem Canonical.modSlotOf (h : Canonical s) {f n g} : Canonical (s.modSlotOf f n g) := h.modCt

theorem Canonical.setPk (h : Canonical s) {d rid fx b g} : Canonical (s.setPk d rid fx b g) := h

theorem Canonical.uncharge (h : Canonical s) {q bytes} : Canonical (s.uncharge q bytes) := h

theorem Canonical.giveBack (h : Canonical s) {q code l} : Canonical (s.giveBack q code l) := by
  unfold State.giveBack
  exact .foldl h fun _ _ h => .ite h h.modElem

theorem Canonical.parkOn (h : Canonical s) {d rid fx flt} : Canonical (s.parkOn d rid fx flt) := h.setPk

theorem Canonical.unparkOn (h : Canonical s) {d rid fx} : Canonical (s.unparkOn d rid fx) := by
  unfold State.unparkOn
  exact .foldl h.setPk fun _ _ h => h.unparkCt

theorem Canonical.stopOn (h : Canonical s) {d lid} : Canonical (s.stopOn d lid) := h

theorem Canonical.closeCtx (h : Canonical s) {rid fx} : Canonical (s.closeCtx rid fx) := h

theorem Canonical.markReleasing (h : Canonical s) {rid fx} : Canonical (s.markReleasing rid fx) :=
  h.postNotices.modFx.closeCtx

theorem Canonical.sendFrom (h : Canonical s) {q lid t} : Canonical (s.sendFrom q lid t) := h

/-! ### Flags -/

theorem Canonical.orFlags (h : Canonical s) {e fl} : Canonical (s.orFlags e fl) := h.modElem

/-! ### Operands -/

theorem Canonical.raise (h : Canonical s) {f v kind detail} : Canonical (s.raise f v kind detail) := h.raiseFiring

/-! ### The end of a firing -/

theorem Canonical.finishWith (h : Canonical s) {v outs upd} (hu : ∀ t, Canonical t → Canonical (upd t)) :
    StaysCanonical (finishWith s v outs upd) := .ite (.next h.send) (.next (hu _ h.send))

/-! ### Tiles -/

theorem Canonical.charge (h : Canonical s) {q bytes} : Canonical (s.charge q bytes) := h

theorem Canonical.needRun (h : Canonical s) {q cls who} : (s.needRun q cls who).Canonical := by
  unfold State.needRun
  dsimp only
  split
  · exact .ite trivial h
  · split
    · exact trivial
    · split
      · exact h
      · exact .ite trivial h.charge.modCt

theorem Canonical.mendRun (h : Canonical s) {q base cls} : Canonical (s.mendRun q base cls) := h.mendTable

theorem Canonical.placePart (h : Canonical s) {q fx base cls} : Canonical (s.placePart q fx base cls) := h.mendRun.modCt

theorem Canonical.parkToken (h : Canonical s) {q fl} : OptCanonical (s.parkToken q fl) := by
  unfold State.parkToken
  exact .ite (.some h.modCt) (.ite (.some h.modCt) (.ite (.some h.modCt.charge) .none))

theorem Canonical.lineSpillfull (h : Canonical s) {q fl} : Canonical (s.lineSpillfull q fl) := by
  unfold State.lineSpillfull
  exact .ite h h.modCt.raiseArgs

theorem Canonical.startRestore (h : Canonical s) {q} : Canonical (s.startRestore q) := by
  unfold State.startRestore
  dsimp only
  split
  · refine .ite h.modCt ?_
    split
    · exact h.modCt
    · rename_i k
      exact h.needRun.of_wait k
    · split
      · exact h.modCt
      · exact h.modCt.raiseToken
  · exact h

theorem Canonical.demandRestore (h : Canonical s) {q fx} : Canonical (s.demandRestore q fx) := h.modCt.startRestore

theorem Canonical.completeRestore (h : Canonical s) {q} : Canonical (s.completeRestore q) := by
  unfold State.completeRestore
  split
  · exact h
  · exact h.mendRun.modCt.uncharge.giveBack.startRestore

theorem Canonical.execRestoreComplete (h : Canonical s) : StaysCanonical (execRestoreComplete s) := by
  unfold Machine.execRestoreComplete
  exact .next h.completeRestore

theorem Canonical.matchOperands (h : Canonical s) {q v f n t} : (s.matchOperands q v f n t).Canonical := by
  unfold State.matchOperands
  exact .ite trivial (.ite h.mendTable.modCt (.ite h (.ite h.modCt (.ite h.mendTable.modCt (.ite h h.modCt)))))

theorem Canonical.combineRelease (h : Canonical s) {q v f l t} : (s.combineRelease q v f l t).Canonical := h.modCt

theorem Canonical.openSpan (h : Canonical s) {q v fx own} : Canonical (s.openSpan q v fx own) := h.mendTable.modCt

theorem Canonical.combineArrive (h : Canonical s) {q v f t} : (s.combineArrive q v f t).Canonical := by
  unfold State.combineArrive
  extract_lets fx c w own isOpen span s0 tgtAt counted tgt parkedN n
  have h0 : Canonical s0 := .ite h h.openSpan
  exact .ite trivial (.ite (.ite h0 (.ite h0 (.ite h0 (.ite h.combineRelease h0.mendTable.modCt))))
    (.ite h.orFlags.combineRelease h0.orFlags.mendTable.modCt))

theorem Canonical.openTacc (h : Canonical s) {q v f t} : OptCanonical (s.openTacc q v f t) := by
  unfold State.openTacc
  exact .ite (.some h) (.ite .none (.some h.openSpan))

theorem Canonical.countTacc (h : Canonical s) {q v f} : (s.countTacc q v f).Canonical := by
  unfold State.countTacc
  exact .ite h (.ite h.combineRelease h.modCt)

/-! ### Routing, merging, repeating -/

theorem Canonical.execSink (h : Canonical s) {r} : StaysCanonical (execSink r s) := by
  unfold Machine.execSink
  exact .next h

theorem Canonical.execSteer (h : Canonical s) {r} : StaysCanonical (execSteer r s) := by
  unfold Machine.execSteer
  exact .ite h.fails h.finish

theorem Canonical.execGate (h : Canonical s) {r} : StaysCanonical (execGate r s) := by
  unfold Machine.execGate
  exact .ite h.fails h.finish

theorem Canonical.mergeoNext (h : Canonical s) : Canonical s.mergeoNext := by
  unfold State.mergeoNext
  exact .ite h h.modElem

theorem Canonical.execSeq (h : Canonical s) {r} : StaysCanonical (execSeq r s) := by
  unfold Machine.execSeq
  exact h.finishWith fun _ h => h.modElem

theorem Canonical.execEods (h : Canonical s) {r} : StaysCanonical (execEods r s) := by
  unfold Machine.execEods
  exact .ite h.fails h.finish

theorem Canonical.execRpt (h : Canonical s) {r} : StaysCanonical (execRpt r s) := by
  unfold Machine.execRpt
  exact .ite h.fails (.ite h.fails (.ite (.next h) (h.finishWith fun _ h => .ite h h.modElem)))

theorem Canonical.execRptCopy (h : Canonical s) : StaysCanonical (execRptCopy s) := by
  unfold Machine.execRptCopy
  dsimp only
  split
  · exact .next h
  · exact .ite (.next h) (.next h.modElem.send)

theorem Canonical.execExternalAnswerReturn (h : Canonical s) : StaysCanonical (execExternalAnswerReturn s) := by
  unfold Machine.execExternalAnswerReturn
  dsimp only
  split
  · exact .next h
  · exact .ite (.next h) (.next h.modElem)

/-! ### Frames -/

theorem Canonical.askAlloc (h : Canonical s) {k f} : Canonical (s.askAlloc k f) := h.post.modRegion

theorem Canonical.execFalloc (h : Canonical s) {r} : StaysCanonical (execFalloc r s) := by
  unfold Machine.execFalloc
  exact .next h.askAlloc

theorem Canonical.execCall (h : Canonical s) {r} : StaysCanonical (execCall r s) := by
  unfold Machine.execCall
  exact .next h.askAlloc

theorem Canonical.execSpawn (h : Canonical s) {r} : StaysCanonical (execSpawn r s) := by
  unfold Machine.execSpawn
  exact .next h.askAlloc

theorem Canonical.execLoopin (h : Canonical s) {r} : StaysCanonical (execLoopin r s) := by
  unfold Machine.execLoopin
  exact .next h.askAlloc

theorem Canonical.execIter (h : Canonical s) {r} : StaysCanonical (execIter r s) := by
  unfold Machine.execIter
  exact .next h.askAlloc

theorem Canonical.execFfree (h : Canonical s) {r} : StaysCanonical (execFfree r s) := by
  unfold Machine.execFfree
  exact .ite h.fails (.next h.askAlloc)

theorem Canonical.setWeight (h : Canonical s) {f w} : Canonical (s.setWeight f w) := h.modSlotOf

theorem Canonical.answer1 (h : Canonical s) {d f t} : Canonical (s.answer1 d f t) := h.sendAnswer

theorem Canonical.doSplit (h : Canonical s) {granted f g w} : Canonical (s.doSplit granted f g w) := by
  unfold State.doSplit
  split
  · exact h.setWeight.answer1
  · exact h.setWeight.modCt.answer1

theorem Canonical.runSplits (h : Canonical s) {q fx fuel} : Canonical (s.runSplits q fx fuel) := by
  induction fuel generalizing s with
  | zero => exact h
  | succ n ih =>
    unfold State.runSplits
    split
    · exact h
    · exact h
    · rename_i hn _
      cases hn
      exact .ite (ih h.modCt.raiseFiring.release) (.ite h.askAlloc (ih h.modCt.doSplit))

theorem Canonical.grantSplit (h : Canonical s) {g} : Canonical (s.grantSplit g) := by
  unfold State.grantSplit
  dsimp only
  split
  · exact h
  · exact h.modCt.doSplit.runSplits

theorem Canonical.joinSplit (h : Canonical s) {f g} : Canonical (s.joinSplit f g) := by
  unfold State.joinSplit
  exact .ite h.modCt.runSplits h.modCt

theorem Canonical.execWchk (h : Canonical s) {r} : StaysCanonical (execWchk r s) := by
  unfold Machine.execWchk
  exact .ite (.next h.joinSplit) h.finish

theorem Canonical.execRet (h : Canonical s) {r} : StaysCanonical (execRet r s) := by
  unfold Machine.execRet
  exact h.finishWith fun _ h => h.release

theorem Canonical.execExitw (h : Canonical s) {r} : StaysCanonical (execExitw r s) := by
  unfold Machine.execExitw
  exact .next h.release

theorem Canonical.setAdm (h : Canonical s) {rid p n node} : Canonical (s.setAdm rid p n node) := h.modFx.modCt

theorem Canonical.execLoopout (h : Canonical s) {r} : StaysCanonical (execLoopout r s) := by
  unfold Machine.execLoopout
  exact .ite h.fails (h.finishWith fun _ h => .ite h.release h.modFx.setAdm)

theorem Canonical.execLdfx (h : Canonical s) {r} : StaysCanonical (execLdfx r s) := by
  unfold Machine.execLdfx
  exact .ite h.fails h.finish1

theorem Canonical.execStfx (h : Canonical s) {r} : StaysCanonical (execStfx r s) := by
  unfold Machine.execStfx
  exact .ite h.fails (.ite h.fails ((Canonical.ite h.mendTable.modSlotOf.modFx
    (.ite h.mendTable.modSlotOf.modFx h.mendTable.modSlotOf)).finish))

theorem Canonical.execSettag (h : Canonical s) {r} : StaysCanonical (execSettag r s) := by
  unfold Machine.execSettag
  exact .ite h.fails h.finish

theorem Canonical.execFxinfo (h : Canonical s) {r} : StaysCanonical (execFxinfo r s) := by
  unfold Machine.execFxinfo
  dsimp only
  split
  · exact h.finish1
  · exact .ite h.fails h.finish1
  · exact .ite h.fails h.finish1
  · exact .next h.askAlloc

theorem Canonical.newFrame (h : Canonical s) {rid g slot0 slot1 link node} :
    Canonical (s.newFrame rid g slot0 slot1 link node) :=
  h.modFx

theorem Canonical.grantIter (h : Canonical s) {rid p g k ql drw slot0 slot1 node} :
    Canonical (s.grantIter rid p g k ql drw slot0 slot1 node) := by
  unfold State.grantIter
  extract_lets s1 pl s2
  have h1 : Canonical s1 := h.newFrame
  have h2 : Canonical s2 := .ite h1.modFx h1
  exact h2.setAdm

theorem Canonical.tryGrant (h : Canonical s) {rid q} : OptCanonical (s.tryGrant rid q) := by
  unfold State.tryGrant
  extract_lets r f v p fr t home room
  split
  · exact .ite .none (.map fun _ => h.newFrame.answer1)
  · exact .ite .none (.map fun _ => h.newFrame.sendAnswer)
  · exact .ite .none (.map fun _ => h.newFrame.modCt)
  · dsimp only
    split
    · exact .some h.grantIter.sendAnswer
    · exact .none
  · refine .ite (.some h.raise) (.ite (.some h.sendAnswer) ?_)
    extract_lets
    split
    · extract_lets s1 s2 s3
      have h1 : Canonical s1 := h.grantIter
      have h2 : Canonical s2 := h1.modFx
      have h3 : Canonical s3 := .ite h2.release h2
      exact .some h3.sendAnswer
    · exact .none
  · exact .ite (.some h.raise) (.some h.release.modFx)
  · exact .some h.answer1
  · exact .some h.modLoad.grantSplit
  · exact .some h.modLoad.grantSplit

theorem Canonical.firstGrant (h : Canonical s) {rid seen todo} : OptCanonical (firstGrant s rid seen todo) := by
  induction todo generalizing seen with
  | nil => exact .none
  | cons q rest ih =>
    unfold Machine.firstGrant
    split
    · rename_i e
      exact .some (h.modRegion.tryGrant.of_some e)
    · exact ih

theorem Canonical.serveSpawns (h : Canonical s) {q fuel} : Canonical (s.serveSpawns q fuel) := by
  induction fuel generalizing s with
  | zero => exact h
  | succ n ih =>
    unfold State.serveSpawns
    split
    · exact h
    · exact h
    · rename_i hn _
      cases hn
      dsimp only
      split
      · rename_i e
        exact h.needRun.of_wait e
      · exact ih h.modCt.placePart.joinSplit
      · exact ih h.modCt.raise.release

theorem Canonical.execAllocRequest (h : Canonical s) : StaysCanonical (execAllocRequest s) := by
  unfold Machine.execAllocRequest
  dsimp only
  split
  · exact .next h
  · exact .ite (.next h) (.next h.modRegion)

theorem Canonical.execAllocGrant (h : Canonical s) : StaysCanonical (execAllocGrant s) := by
  unfold Machine.execAllocGrant
  dsimp only
  split
  · rename_i k
    exact .next (.foldl (h.firstGrant.of_some k) (fun _ _ h => h.startRestore.serveSpawns))
  · exact .next h

theorem Canonical.execSpillComplete (h : Canonical s) : StaysCanonical (execSpillComplete s) := by
  unfold Machine.execSpillComplete
  exact .ite (.next h) (.next h.modCt.startRestore.serveSpawns)

theorem Canonical.execRestoreStartSpontaneous (h : Canonical s) : StaysCanonical (execRestoreStartSpontaneous s) := by
  unfold Machine.execRestoreStartSpontaneous
  dsimp only
  refine .ite (.next h) (.ite (.next h.startRestore) (.ite (.next h.serveSpawns) (.ite (.next h) ?_)))
  split
  · exact .next h.modCt
  · exact .next h

theorem Canonical.execReleaseNotice (h : Canonical s) : StaysCanonical (execReleaseNotice s) := by
  unfold Machine.execReleaseNotice
  exact .ite (.next h) (.next (.foldl h.modCt.uncharge.postMgmt.modFx.startRestore.serveSpawns
    (fun _ _ h => .ite h h.modElem)))

theorem Canonical.detachCtx (h : Canonical s) {k} : Canonical (s.detachCtx k) := by
  unfold State.detachCtx
  exact .ite h.frame h.frame

theorem Canonical.execReleaseComplete (h : Canonical s) : StaysCanonical (execReleaseComplete s) := by
  unfold Machine.execReleaseComplete
  extract_lets rid fx fr lid par s0 s1 s2 pr s3 s4 s5 ld
  refine .ite (.next h) ?_
  have h0 : Canonical s0 := h.modRegion.detachCtx
  have h1 : Canonical s1 := h0.modFx
  have h2 : Canonical s2 := .ite h1.setAdm h1
  have h3 : Canonical s3 := .ite h2.modFx h2
  have h4 : Canonical s4 := h3.modLoad
  have h5 : Canonical s5 := .foldl h4 fun _ _ h => h.answer1
  exact .next (.ite h5.endLoad h5)

/-! ### Memory -/

theorem Canonical.setByte (h : Canonical s) {a b} : Canonical (s.setByte a b) := ⟨s.setByte_wf a b h.1, h.2⟩

theorem Canonical.setBytes (h : Canonical s) {a l} : Canonical (s.setBytes a l) := by
  induction l generalizing s a with
  | nil => exact h
  | cons b l ih => exact ih h.setByte

theorem Canonical.wr (h : Canonical s) {pa n v} : Canonical (s.wr pa n v) := h.setBytes

theorem Canonical.countCe (h : Canonical s) {pa n} : Canonical (s.countCe pa n) := by
  unfold State.countCe
  exact .foldl h fun _ _ h => h.modDie

theorem Canonical.eccClear (h : Canonical s) {pa n} : Canonical (s.eccClear pa n) := h

theorem Canonical.tlbUse (h : Canonical s) {c e} : Canonical (s.tlbUse c e) := h

theorem Canonical.translate (h : Canonical s) {c rid va a} : Canonical (s.translate c rid va a).1 := by
  unfold State.translate
  split
  · exact h
  · split
    · exact h.tlbUse
    · split
      · exact h
      · exact h.tlbUse

theorem Canonical.scatter (h : Canonical s) {l d} : Canonical (s.scatter l d) := by
  unfold State.scatter
  exact .foldl h fun _ _ h => h.setByte

/-! ### Buffers -/

theorem Canonical.modDesc (h : Canonical s) {q b f} : Canonical (s.modDesc q b f) := h.modMt

theorem Canonical.setF (h : Canonical s) {q b f} : Canonical (s.setF q b f) := h.modDesc

theorem Canonical.putElem (h : Canonical s) {w r c x} : Canonical (s.putElem w r c x) := h.wr

theorem Canonical.putScale (h : Canonical s) {w r c x} : Canonical (s.putScale w r c x) := h.setByte

theorem Canonical.putRow (h : Canonical s) {w r c l} : Canonical (s.putRow w r c l) := by
  induction l generalizing s c with
  | nil => exact h
  | cons x l ih => exact ih h.putElem

theorem Canonical.elemCe (h : Canonical s) {w r c n} : Canonical (s.elemCe w r c n) := by
  unfold State.elemCe
  exact .ite h.countCe.countCe h.countCe

theorem Canonical.writeMend (h : Canonical s) {w r c n} : Canonical (s.writeMend w r c n) := by
  unfold State.writeMend
  exact .foldl h fun _ _ h => h.frame

theorem Canonical.tryHalloc (h : Canonical s) {q f} : OptCanonical (s.tryHalloc q f) := by
  unfold State.tryHalloc
  dsimp only
  split
  · exact .none
  · exact .some h.modDesc.sendAnswer

theorem Canonical.serveHallocs (h : Canonical s) {q todo} : Canonical (s.serveHallocs q todo) := by
  induction todo generalizing s with
  | nil => exact h
  | cons f l ih =>
    unfold State.serveHallocs
    split
    · rename_i e
      exact ih (h.tryHalloc.of_some e).modMt
    · exact ih h

theorem Canonical.dropRef (h : Canonical s) {q b} : Canonical (s.dropRef q b) := by
  unfold State.dropRef
  exact .ite h (.ite h.modDesc.serveHallocs h.modDesc)

theorem Canonical.addRef (h : Canonical s) {q b} : Canonical (s.addRef q b) := h.modDesc

/-! ### The fabric -/

theorem Canonical.requeue (h : Canonical s) {f} : Canonical (s.requeue f) := h.modElem

/-! ### Requests to memory -/

theorem Canonical.raiseReq (h : Canonical s) {id kind detail nofx} : Canonical (s.raiseReq id kind detail nofx) :=
  h.raiseArgs

theorem Canonical.alrSlots (h : Canonical s) {f slot b l} : Canonical (s.alrSlots f slot b l) := by
  unfold State.alrSlots
  exact .foldl h fun _ _ h => h.modSlotOf

theorem Canonical.faultReq (h : Canonical s) {id kind detail} : Canonical (s.faultReq id kind detail) := by
  unfold State.faultReq
  extract_lets s0 s1
  have h0 : Canonical s0 := .ite h.alrSlots h
  have h1 : Canonical s1 := h0.raiseReq
  exact .ite h.frame (.ite h1.frame h1.frame)

theorem Canonical.retire (h : Canonical s) {id} : Canonical (s.retire id) := by
  unfold State.retire
  exact .ite h.frame h.frame

theorem Canonical.reqResult (h : Canonical s) {r x xd} : Canonical (s.reqResult r x xd) := h.sendAnswer

theorem Canonical.complete (h : Canonical s) {id x xd} : Canonical (s.complete id x xd) := by
  unfold State.complete
  exact .ite h.frame h.retire.reqResult

theorem Canonical.depart (h : Canonical s) {id} : Canonical (s.depart id) := by
  unfold State.depart
  exact h.frame.sendReq

theorem Canonical.enterEgress (h : Canonical s) {id} : Canonical (s.enterEgress id) := by
  unfold State.enterEgress
  extract_lets r ga k stays s1 s2 s3
  have h1 : Canonical s1 := h.frame
  have h2 : Canonical s2 := .ite h1.frame h1
  have h3 : Canonical s3 := h2.sendReq
  exact .ite h3 (.ite h3.alrSlots.reqResult h3.reqResult)

theorem Canonical.tryLeave (h : Canonical s) {id} : Canonical (s.tryLeave id) := by
  unfold State.tryLeave
  dsimp only
  refine .ite h (.ite (.ite h (.ite h.retire h.complete)) ?_)
  refine .ite ?_ (.ite h (.ite (.ite h h.enterEgress) (.ite h.depart h.frame)))
  split
  · exact h
  · exact .ite h h.complete
  · split
    · exact h
    · exact h.depart
    · exact .ite h h.complete

theorem Canonical.prefAnswer (h : Canonical s) {id x} : Canonical (s.prefAnswer id x) := h.retire.reqResult

theorem Canonical.located (h : Canonical s) {id pa} : Canonical (s.located id pa) := by
  unfold State.located
  dsimp only
  split
  · exact h.faultReq
  · exact h.frame.tryLeave

theorem Canonical.served (h : Canonical s) {id e} : Canonical (s.served id e) := by
  unfold State.served
  dsimp only
  refine .ite h.prefAnswer ?_
  split
  · exact h.faultReq
  · exact h.located

theorem Canonical.xlatFails (h : Canonical s) {id level cause} : Canonical (s.xlatFails id level cause) := by
  unfold State.xlatFails
  exact .ite h.prefAnswer h.faultReq

theorem Canonical.walkRead (h : Canonical s) {n w} : Canonical (s.walkRead n w) := by
  unfold State.walkRead
  exact h.post.frame

theorem Canonical.lookUp (h : Canonical s) {id} : Canonical (s.lookUp id) := by
  unfold State.lookUp
  dsimp only
  refine .ite ?_ ?_
  · split
    · exact .ite h.prefAnswer h.faultReq
    · exact .ite h.prefAnswer h.located
  · split
    · exact h.tlbUse.served
    · split
      · exact h.xlatFails
      · exact .ite h.xlatFails (.ite (.ite h h.frame) (.ite h ((Canonical.ite h.frame h.frame).walkRead)))

theorem Canonical.lookAgain (h : Canonical s) {cluster} : Canonical (s.lookAgain cluster) := by
  unfold State.lookAgain
  exact .foldl h fun _ _ h => .ite h.lookUp h

theorem Canonical.takeFrom (h : Canonical s) {k fuel} : Canonical (s.takeFrom k fuel) := by
  induction fuel generalizing s with
  | zero => exact h
  | succ n ih =>
    unfold State.takeFrom
    dsimp only
    split
    · exact h
    · split
      · exact h
      · exact .ite h (ih (.ite h.frame.tryLeave h.frame.lookUp))

theorem Canonical.pumpOnce (h : Canonical s) : Canonical s.pumpOnce := by
  unfold State.pumpOnce
  extract_lets s1
  have h1 : Canonical s1 := .foldl h fun _ _ h => h.tryLeave
  exact .foldl h1 fun _ _ h => h.takeFrom

theorem Canonical.pump (h : Canonical s) : Canonical s.pump := by
  unfold State.pump
  exact .foldl h fun _ _ h => h.pumpOnce

theorem Canonical.execWaveRequestArrival (h : Canonical s) : StaysCanonical (execWaveRequestArrival s) := by
  unfold Machine.execWaveRequestArrival
  exact .ite (.next h) (.ite (.next h) (.ite (.next h.frame)
    (.ite (.next h) (.ite (.next h) (.next h.frame.takeFrom.pump)))))

theorem Canonical.walkFails (h : Canonical s) {n level cause} : Canonical (s.walkFails n level cause) := by
  unfold State.walkFails
  exact (Canonical.foldl h.frame (fun _ _ h => h.xlatFails)).lookAgain.pump

theorem Canonical.walkBad (h : Canonical s) {n pa} : Canonical (s.walkBad n pa) := by
  unfold State.walkBad
  extract_lets w s1 s2
  have h1 : Canonical s1 := h.frame
  have h2 : Canonical s2 := .ite h1 (.ite h1.prefAnswer h1.frame.faultReq)
  exact h2.lookAgain.pump

theorem Canonical.walkOn (h : Canonical s) {n e} : Canonical (s.walkOn n e) := by
  unfold State.walkOn
  dsimp only
  split
  · exact .ite h.walkRead h.walkFails
  · exact h.frame.tlbUse.lookAgain.pump
  · exact h.walkFails

theorem Canonical.countLate (h : Canonical s) {die} : Canonical (s.countLate die) := h.modDie

theorem Canonical.execWalkReadReturn (h : Canonical s) : StaysCanonical (execWalkReadReturn s) := by
  unfold Machine.execWalkReadReturn
  dsimp only
  refine .ite (.next h) ?_
  split
  · exact .next (.ite h.frame.countLate (.ite h.walkBad h.walkOn))
  · exact .ite (.next (.ite h.countCe.frame.countLate (.ite h.countCe.walkBad h.countCe.walkOn)))
      (.ite (.next h) (.next h.countCe.post.frame))

theorem Canonical.memFails (h : Canonical s) {v kind detail w2} : StaysCanonical (memFails s v kind detail w2) := by
  unfold Machine.memFails
  exact .next h.raiseFiring

theorem Canonical.askAgain (h : Canonical s) {id r} : Canonical (s.askAgain id r) := by
  unfold State.askAgain
  exact h.frame.lookUp.pump

theorem Canonical.setOut (h : Canonical s) {r} : Canonical (s.setOut r) := by
  unfold State.setOut
  exact .ite h.frame.sendReq h.frame.lookUp.pump

theorem Canonical.ask (h : Canonical s) {v wave data} : Canonical (s.ask v wave data) := by
  unfold State.ask
  dsimp only
  split
  · exact h.askAgain
  · exact h.setOut

theorem Canonical.memNode (h : Canonical s) {v wave data} : StaysCanonical (memNode v wave data s) := by
  unfold Machine.memNode
  exact .ite h.memFails (.ite h.memFails (.next h.ask))

theorem Canonical.execPref (h : Canonical s) {r} : StaysCanonical (execPref r s) := by
  unfold Machine.execPref
  exact .ite (.next h.sendAnswer) (.next h.ask)

theorem Canonical.execWfence (h : Canonical s) {r} : StaysCanonical (execWfence r s) := by
  unfold Machine.execWfence
  exact .next h.ask

theorem Canonical.execAlr (h : Canonical s) {r} : StaysCanonical (execAlr r s) := by
  unfold Machine.execAlr
  dsimp only
  refine .ite (.next h.requeue) (.ite h.memFails (.ite h.memFails ?_))
  split
  · exact h.memFails
  · exact .next h.alrSlots.ask

theorem Canonical.execSwset (h : Canonical s) {r} : StaysCanonical (execSwset r s) := by
  unfold Machine.execSwset
  dsimp only
  refine .ite h.memFails (.ite h.memFails (.ite h.memFails ?_))
  split
  · exact h.memFails
  · exact .next h.ask

theorem Canonical.execSwadd (h : Canonical s) {r} : StaysCanonical (execSwadd r s) := by
  unfold Machine.execSwadd
  exact .ite h.memFails (.ite h.memFails (.ite h.memFails (.next h.ask)))

/-! ### Engines -/

theorem Canonical.engLook (h : Canonical s) {id t} : Canonical (s.engLook id t) := by
  unfold State.engLook
  dsimp only
  split
  · exact h.served
  · exact h.lookUp

theorem Canonical.engAsk (h : Canonical s) {r t va n l data} : Canonical (s.engAsk r t va n l data).1 := by
  unfold State.engAsk
  extract_lets first req s1 ids
  have h1 : Canonical s1 := .foldl h fun _ _ h => h.frame
  clear_value s1 ids
  dsimp only
  exact Canonical.pump (.foldl h1 fun _ _ h => h.engLook)

theorem Canonical.engDrop (h : Canonical s) {ids} : Canonical (s.engDrop ids) := h

/-! ### Macros -/

theorem Canonical.setPg (h : Canonical s) {f v val st eidx} : Canonical (s.setPg f v val st eidx) := h.modElem

theorem Canonical.putAcc (h : Canonical s) {e acc i x} : Canonical (s.putAcc e acc i x) := h.modElem

theorem Canonical.accMend (h : Canonical s) {e acc i n} : Canonical (s.accMend e acc i n) := h

theorem Canonical.putRowOut (h : Canonical s) {d r o} : Canonical (s.putRowOut d r o) := by
  unfold State.putRowOut
  exact .foldl h.putRow fun _ _ h => h.putScale

theorem Canonical.rowTake (h : Canonical s) {f v e b} : Canonical (s.rowTake f v e b) := by
  unfold State.rowTake
  split
  · exact .ite h.putRow.writeMend (.foldl h (fun _ _ h => h.putScale))
  · exact h.putRow.writeMend
  · exact h

theorem Canonical.accWrite (h : Canonical s) {f v l} : Canonical (s.accWrite f v l) := by
  unfold State.accWrite
  extract_lets s0
  have h0 : Canonical s0 := .ite h (.foldl h (fun _ _ h => .ite h.accMend h))
  exact (Canonical.foldl h0 (fun _ _ h => h.putAcc)).orFlags

theorem Canonical.zeroAcc (h : Canonical s) {e acc} : Canonical (s.zeroAcc e acc) := h.modElem

theorem Canonical.boundaryEcc (h : Canonical s) {f v e} : Canonical (s.boundaryEcc f v e) := by
  unfold State.boundaryEcc
  refine .ite h ?_
  extract_lets s0 s1
  have h0 : Canonical s0 := h.countTableCe
  have h1 : Canonical s1 := .foldl h0 fun _ _ h => h.elemCe
  exact .foldl h1 fun _ _ h => h.writeMend

theorem Canonical.boundary (h : Canonical s) {f v e} : Canonical (s.boundary f v e) := by
  unfold State.boundary
  split
  · exact h.accWrite
  · exact .ite (.ite (.foldl h.putRow.orFlags (fun _ _ h => h.putAcc)) h.putRow.orFlags) h.accWrite
  · exact h.accWrite
  · exact h.zeroAcc
  · exact h.putRow
  · exact h
  · exact h.orFlags.modElem
  · exact h.putRowOut.orFlags

/-! ### Arrival -/

theorem Canonical.enqueue (h : Canonical s) {s0} (h0 : Canonical s0) {f} : (s.enqueue s0 f).Canonical := by
  unfold State.enqueue
  exact .ite h0 h.modElem

theorem Canonical.mergeoPut (h : Canonical s) {e fl k} : (s.mergeoPut e fl k).Canonical := by
  unfold State.mergeoPut
  exact .ite h (.ite (.ite h h.modElem) (.ite h.raiseToken (.ite h.modElem h)))

theorem Canonical.mergeoTake (h : Canonical s) {e v fl} : (s.mergeoTake e v fl).Canonical := by
  unfold State.mergeoTake
  dsimp only
  split
  · exact h.mergeoPut
  · exact .ite h h.modElem.mergeoPut

theorem Canonical.raiseAt (h : Canonical s) {fl kind detail} : Canonical (s.raiseAt fl kind detail) := h.raiseArgs

theorem Canonical.matchAt (h : Canonical s) {e v fl} : (s.matchAt e v fl).Canonical := by
  unfold State.matchAt
  dsimp only
  split
  · exact h
  · split
    · exact .ite h.mergeoTake (h.enqueue h)
    · refine .ite ?_ ?_
      · split
        · rename_i k
          exact (h.openTacc.of_some k).enqueue h
        · exact h
      · split
        · rename_i k
          exact h.combineArrive.of_taken k
        · rename_i k
          exact (h.combineArrive.of_fires k).enqueue h
        · exact h
        · rename_i k
          exact (h.combineArrive.of_bad k).raiseAt
    · refine .ite (.ite h (.ite h (h.enqueue h))) ?_
      split
      · rename_i k
        exact h.matchOperands.of_taken k
      · rename_i k
        exact (h.matchOperands.of_fires k).enqueue h
      · exact h
      · rename_i k
        exact (h.matchOperands.of_bad k).raiseAt

theorem Canonical.touchFx (h : Canonical s) {q fx} : Canonical (s.touchFx q fx) := h.modCt

theorem Canonical.raiseSlot (h : Canonical s) {q v fl} : Canonical (s.raiseSlot q v fl) := h.raiseArgs

theorem Canonical.atPart (h : Canonical s) {e v fl} : (s.atPart e v fl).Canonical := by
  unfold State.atPart
  exact .ite h.raiseAt (.ite h.raiseSlot h.countTableCe.matchAt)

theorem Canonical.arrive (h : Canonical s) {e fl} : (s.arrive e fl).Canonical := by
  unfold State.arrive
  dsimp only
  refine .ite h.raiseToken (.ite (.ite h.modCt ?_) ?_)
  · split
    · rename_i k
      exact Canonical.ite (h.parkToken.of_some k) (h.parkToken.of_some k).modCt
    · exact (Canonical.ite h h.modCt).lineSpillfull
  · split
    · exact h.raiseAt
    · refine .ite (Canonical.ite h h.modCt).raiseToken ?_
      split
      · exact .ite h h.atPart
      · refine .ite (.ite h.matchAt h.modCt) ?_
        split
        · exact h.startRestore.placePart.atPart
        · rename_i k
          exact h.startRestore.needRun.of_wait k
        · exact h.startRestore.raiseToken

theorem Canonical.execTokenArrival (h : Canonical s) : StaysCanonical (execTokenArrival s) := by
  unfold Machine.execTokenArrival
  extract_lets e i s0
  split
  · exact .next h
  · refine .ite (.next h) ?_
    extract_lets s1
    have h0 : Canonical s0 := h.modElem
    have h1 : Canonical s1 := .ite h0.touchFx h0
    split
    · rename_i k
      exact .next (h1.arrive.of_done k)
    · split
      · rename_i k
        exact .next (h.arrive.of_waits k)
      · exact .next h

theorem Canonical.execSpillMatcherToken (h : Canonical s) : StaysCanonical (execSpillMatcherToken s) := by
  unfold Machine.execSpillMatcherToken
  dsimp only
  split
  · exact .next h
  · refine .ite (.next h.modCt.raiseToken) (.ite (.next h.modCt.giveBack) (.ite ?_ ?_))
    · refine .ite (.next h.modCt.modCt) ?_
      split
      · rename_i k
        exact .next (h.modCt.parkToken.of_some k)
      · exact .next h.lineSpillfull
    · split
      · exact .next h.modCt.modCt
      · exact .next h.modCt.modCt.giveBack
      · refine .ite (.next h.modCt.modCt.raiseAt) ?_
        split
        · rename_i k
          exact .next (h.modCt.modCt.matchAt.of_done k)
        · exact .next h
      · exact .next h.modCt.modCt.modCt.demandRestore

/-! ### Tables of an element -/

theorem Canonical.execLutsm (h : Canonical s) {r} : StaysCanonical (execLutsm r s) := by
  unfold Machine.execLutsm
  exact .ite h.finish h.modElem.finish

/-! ### The tile pipe -/

theorem Canonical.enterMacroQ (h : Canonical s) {f} : Canonical (s.enterMacroQ f) := by
  unfold State.enterMacroQ
  exact .ite h.requeue h.modElem

theorem Canonical.releaseOrdered (h : Canonical s) {e} : Canonical (s.releaseOrdered e) := by
  unfold State.releaseOrdered
  exact .ite h h.modElem

theorem Canonical.setSeq (h : Canonical s) {e acc n} : Canonical (s.setSeq e acc n) := h.modElem.releaseOrdered

theorem Canonical.enterMacro (h : Canonical s) {v} : StaysCanonical (enterMacro v s) := by
  unfold Machine.enterMacro
  dsimp only
  split
  · exact .next h.enterMacroQ
  · exact .ite h.fails (.ite (.next h.enterMacroQ) (.ite h.fails
      (.ite (.next h.enterMacroQ) (.ite (.next h.requeue) (.next h.modElem)))))

theorem Canonical.execCmbtacc (h : Canonical s) {r} : StaysCanonical (execCmbtacc r s) := by
  unfold Machine.execCmbtacc
  exact .ite h.finish1 (.ite (.next h.enterMacroQ) (.ite (.next h.enterMacroQ)
    (.ite (.next h.requeue) (.next h.modElem))))

theorem Canonical.raiseMacro (h : Canonical s) {f v k eidx} : Canonical (s.raiseMacro f v k eidx) := h.raiseFiring

theorem Canonical.setLeg (h : Canonical s) {f mts back} : Canonical (s.setLeg f mts back).1 := by
  unfold State.setLeg
  suffices k : ∀ p : State × List Nat, Canonical p.1 → Canonical (mts.foldl _ p).1 from k (s, []) h
  induction mts with
  | nil => exact fun p hp => hp
  | cons q l ih =>
    refine fun p hp => ih _ ?_
    split
    · exact hp.post
    · exact hp.post

theorem Canonical.runLeg (h : Canonical s) {r mts back} : Canonical (s.runLeg r mts back) := h.setLeg.modElem

theorem Canonical.startMacro (h : Canonical s) {e f v eidx} : Canonical (s.startMacro e f v eidx) := by
  unfold State.startMacro
  exact .ite h.modElem.setPg (.ite h.modElem.setPg h.modElem.setPg.modElem.drawn)

theorem Canonical.stopMacro (h : Canonical s) {f v k eidx} :
    Canonical (s.stopMacro f v k eidx) := h.setPg.modElem.raiseMacro

theorem Canonical.leaveMacroQ (h : Canonical s) {e} : Canonical (s.leaveMacroQ e) := h.modElem

theorem Canonical.startHead (h : Canonical s) {e f v eidx} : Canonical (s.startHead e f v eidx) := by
  unfold State.startHead
  split
  · exact h.leaveMacroQ.raiseMacro
  · refine .ite h ?_
    dsimp only
    split
    · exact h.startMacro.stopMacro
    · exact h.startMacro

theorem Canonical.startFar (h : Canonical s) {e f v eidx} : Canonical (s.startFar e f v eidx) := by
  unfold State.startFar
  dsimp only
  have leg {b : Bool} {g : Elem → Elem} : Canonical ((s.setLeg f (farMts f v) b).1.modElem e g) := h.setLeg.modElem
  exact .ite h.startHead (.ite leg (.ite h (.ite (.ite leg h) h.startHead)))

theorem Canonical.execMacroStart (h : Canonical s) : StaysCanonical (execMacroStart s) := by
  unfold Machine.execMacroStart
  dsimp only
  split
  · exact .next h
  · refine .ite (.next h) ?_
    split
    · exact .next h.startFar
    · refine .ite (.next h.startFar) ?_
      split
      · exact .next h.leaveMacroQ.modElem.raiseMacro
      · exact .next h.modElem.startFar

theorem Canonical.parkMacro (h : Canonical s) {e r} : Canonical (s.parkMacro e r) := h.setPg.modElem

theorem Canonical.passBoundary (h : Canonical s) {r v} :
    Canonical (s.passBoundary r v) := h.modElem.setPg.releaseOrdered

theorem Canonical.askRow (h : Canonical s) {r need} : Canonical (s.askRow r need) := by
  unfold State.askRow
  cases need with
  | load va n => exact h.engAsk.modElem
  | store va b => exact h.engAsk.modElem

theorem Canonical.boundAct (h : Canonical s) {r v got} : (s.boundAct r v got).Canonical := by
  unfold State.boundAct
  split
  · exact h.rowTake.boundaryEcc
  · split
    · exact trivial
    · split
      · exact trivial
      · split
        · exact trivial
        · exact h.boundary.boundaryEcc

theorem Canonical.nearBoundary (h : Canonical s) {r v got} : Canonical (s.nearBoundary r v got) := by
  unfold State.nearBoundary
  split
  · exact h.stopMacro
  · exact h.askRow
  · rename_i k
    exact (h.boundAct.of_done k).passBoundary

theorem Canonical.keepRow (h : Canonical s) {e b} : Canonical (s.keepRow e b) := h.modElem

theorem Canonical.farBoundary (h : Canonical s) {r v} : Canonical (s.farBoundary r v) := by
  unfold State.farBoundary
  dsimp only
  refine .ite h.runLeg (.ite h (.ite ?_ ?_))
  · split
    · exact h.stopMacro
    · exact h.runLeg.modElem
    · rename_i k
      exact (h.boundAct.of_done k).runLeg
  · split
    · exact h.askRow
    · exact h.passBoundary

theorem Canonical.execMacroBoundary (h : Canonical s) : StaysCanonical (execMacroBoundary s) := by
  unfold Machine.execMacroBoundary
  dsimp only
  split
  · exact .next h
  · refine .ite (.next h) ?_
    refine .ite ?_ (.ite (.next h.parkMacro) (.ite (.next h.nearBoundary) (.next h.farBoundary)))
    split
    · exact .next h
    · exact .next h.engDrop.stopMacro
    · exact .ite (.next h.engDrop.nearBoundary) (.next h.engDrop.keepRow)

theorem Canonical.finishMacro (h : Canonical s) {r v} : Canonical (s.finishMacro r v) := by
  unfold State.finishMacro
  extract_lets f s1 s2
  have h1 : Canonical s1 := by
    unfold s1
    split
    · exact h.setF
    · exact h
  have h2 : Canonical s2 := .foldl h1 fun _ _ h => .ite h.dropRef h
  exact .ite h2.setSeq h2

theorem Canonical.sendMacro (h : Canonical s) {e r v} : Canonical (s.sendMacro e r v) := by
  unfold State.sendMacro
  exact .ite h.modElem h.modElem.send

theorem Canonical.countMacro (h : Canonical s) {e r v} : Canonical (s.countMacro e r v) := by
  unfold State.countMacro
  split
  · rename_i k
    exact .ite h.modElem ((h.countTacc.of_fires k).modElem)
  · rename_i k
    exact (h.countTacc.of_taken k).modElem
  · exact h.modElem

theorem Canonical.execMacroComplete (h : Canonical s) : StaysCanonical (execMacroComplete s) := by
  unfold Machine.execMacroComplete
  dsimp only
  split
  · exact .ite (.next h) (.next (.ite h.countMacro h.sendMacro))
  · exact .ite (.next h) (.ite (.next (.ite h.modElem.finishMacro.countMacro h.modElem.finishMacro.sendMacro))
      (.ite (.next h.runLeg) (.ite (.next h.finishMacro.runLeg)
        (.next (.ite (h.modElem.countMacro) (h.modElem.sendMacro))))))
  · exact .next h

theorem Canonical.execLutld (h : Canonical s) {r} : StaysCanonical (execLutld r s) := by
  unfold Machine.execLutld
  dsimp only
  refine .ite h.modElem.fails ?_
  split
  · exact h.modElem.fails
  · exact .next h.modElem.modElem

theorem Canonical.dropLut (h : Canonical s) {e l} : Canonical (s.dropLut e l) := h.modElem

theorem Canonical.putLut (h : Canonical s) {e l x} : Canonical (s.putLut e l x) := h.modElem

theorem Canonical.lutLeg (h : Canonical s) {e l back} : Canonical (s.lutLeg e l back) := by
  unfold State.lutLeg
  dsimp only
  exact h.setLeg.putLut

theorem Canonical.lutStep (h : Canonical s) {e l} : Canonical (s.lutStep e l) := by
  unfold State.lutStep
  dsimp only
  refine .ite h.lutLeg (.ite h (.ite h.lutLeg (.ite ?_ ?_)))
  · split
    · exact h.dropLut.raise
    · refine .ite h ?_
      split
      · exact h.dropLut.raiseFiring
      · split
        · exact h.dropLut.raise
        · exact .foldl h.putLut fun _ _ h => h.elemCe
  · split
    · exact h.dropLut.sendAnswer
    · exact h.putLut.modElem

/-! ### Lanes -/

theorem Canonical.execVsum (h : Canonical s) {r} : StaysCanonical (execVsum r s) := by
  unfold Machine.execVsum
  exact .ite h.finish1 h.finish1

theorem Canonical.execVdot (h : Canonical s) {r} : StaysCanonical (execVdot r s) := by
  unfold Machine.execVdot
  exact .ite h.finish1 h.finish1

/-! ### Markers -/

theorem Canonical.tryEnter (h : Canonical s) {e} : Canonical (s.tryEnter e) := by
  unfold State.tryEnter
  exact .ite h.modElem h

theorem Canonical.enterNode (h : Canonical s) {n} : Canonical (s.enterNode n) := h.modElem.tryEnter

theorem Canonical.countMarks (h : Canonical s) {n m} : Canonical (s.countMarks n m) := by
  unfold State.countMarks
  exact .ite h (.ite h.modElem.enterNode h.modElem)

theorem Canonical.countQueueMark (h : Canonical s) {n} : Canonical (s.countQueueMark n) := by
  unfold State.countQueueMark
  exact .ite h h.modElem.countMarks

theorem Canonical.openRound (h : Canonical s) {lid r} : Canonical (s.openRound lid r) := by
  unfold State.openRound
  extract_lets s0 s1 s2 fed
  have h0 : Canonical s0 := h.modLoad
  have h1 : Canonical s1 := .foldl h0 (fun _ _ h => (Canonical.foldl h (fun _ _ h => h.countMarks)).tryEnter)
  have h2 : Canonical s2 := .foldl h1 fun _ _ h => h.countMarks
  exact .foldl h2 (fun _ _ h => .foldl h (fun _ _ h => h.sendFrom))

theorem Canonical.closeRound (h : Canonical s) {lid} : Canonical (s.closeRound lid) := by
  unfold State.closeRound
  exact .foldl h.modLoad fun _ _ h => h.modElem

theorem Canonical.markOpens (h : Canonical s) {lid f} : Canonical (s.markOpens lid f) := h.openRound.sendAnswer

theorem Canonical.settleRound (h : Canonical s) {lid fuel} : Canonical (s.settleRound lid fuel) := by
  induction fuel generalizing s with
  | zero => exact h
  | succ n ih =>
    unfold State.settleRound
    split
    · exact h
    · exact h
    · rename_i hn _
      cases hn
      refine .ite ?_ h
      extract_lets s1
      have h1 : Canonical s1 := h.closeRound
      split
      · exact h1
      · exact ih h1.modLoad.markOpens

theorem Canonical.execMarkerArrival (h : Canonical s) : StaysCanonical (execMarkerArrival s) := by
  unfold Machine.execMarkerArrival
  extract_lets e i x st lid ld
  split
  · exact .next h
  · refine .ite (.next h) ?_
    extract_lets s0 node arc s1
    have ht : Canonical st := h.modElem
    have h0 : Canonical s0 := .ite ht.touchFx ht
    refine .ite (.next h0.raiseToken) (.ite ?_ (.ite (.next h0) (.next h0.modElem.countMarks.settleRound)))
    split
    · rename_i k
      exact .next (h0.parkToken.of_some k)
    · exact .next h.lineSpillfull

/-! ### Objects -/

theorem Canonical.replyVal (h : Canonical s) {id x} : Canonical (s.replyVal id x) := h.replyTok

theorem Canonical.replyFails (h : Canonical s) {id kind detail} : Canonical (s.replyFails id kind detail) := h.replyBad

theorem Canonical.holdReq (h : Canonical s) {id} : Canonical (s.holdReq id) := h

theorem Canonical.freeReq (h : Canonical s) {id} : Canonical (s.freeReq id) := h

/-! ### Queues -/

theorem Canonical.reserve (h : Canonical s) {k} : Canonical (s.reserve k) := h.modQueue

theorem Canonical.publish (h : Canonical s) {k i t sb} : Canonical (s.publish k i t sb) := h.wr.modQueue

theorem Canonical.append (h : Canonical s) {k t} : Canonical (s.append k t) := h.reserve.publish

theorem Canonical.popStep (h : Canonical s) {k} : OptCanonical (s.popStep k) := by
  unfold State.popStep
  dsimp only
  split
  · exact .none
  · exact .ite .none (.ite (.some h.modQueue.countQueueMark.settleRound) (.some h.modQueue.modQueue.replyTok))

theorem Canonical.pushStep (h : Canonical s) {k} : OptCanonical (s.pushStep k) := by
  unfold State.pushStep
  dsimp only
  split
  · exact .none
  · exact .ite .none (.some (Canonical.ite h.modQueue.reserve h.modQueue.append).replyVal)

theorem Canonical.serveQueue (h : Canonical s) {k fuel} : Canonical (s.serveQueue k fuel) := by
  induction fuel generalizing s with
  | zero => exact h
  | succ n ih =>
    have h1 : Canonical (if (s.queue k).waitPop.isEmpty then s else s.modQueue k fun q => q.skip q.cap) :=
      .ite h h.modQueue
    unfold State.serveQueue
    dsimp only
    split
    · rename_i k
      exact ih (h1.popStep.of_some k)
    · split
      · rename_i k
        exact ih (h1.pushStep.of_some k)
      · exact h1

theorem Canonical.serve (h : Canonical s) {k} : Canonical (s.serve k) := h.serveQueue

theorem Canonical.steal (h : Canonical s) {id k} : Canonical (s.steal id k) := by
  unfold State.steal
  dsimp only
  split
  · exact .ite h.replyTok h.modQueue.addRef.modCt.replyTok
  · exact h.replyTok

theorem Canonical.queueHome (h : Canonical s) {id} : Canonical (s.queueHome id) := by
  unfold State.queueHome
  extract_lets r k q f w i s1
  have h1 : Canonical s1 := .ite h.modQueue h.publish
  split
  · exact h.modQueue.holdReq.serve
  · exact h.modQueue.holdReq.serve
  · exact h.modQueue.holdReq.serve
  · exact .ite h.replyFails h1.replyVal.serve
  · exact h.steal
  · exact h.modQueue.replyVal
  · exact h.replyVal

theorem Canonical.queueOp (h : Canonical s) {v} : StaysCanonical (queueOp v s) := by
  unfold Machine.queueOp
  split
  · exact h.fails
  · exact h.askMt

theorem Canonical.execQstat (h : Canonical s) {r} : StaysCanonical (execQstat r s) := by
  unfold Machine.execQstat
  exact .ite h.fails h.queueOp

theorem Canonical.execQarm (h : Canonical s) {r} : StaysCanonical (execQarm r s) := by
  unfold Machine.execQarm
  dsimp only
  split
  · exact h.fails
  · refine .ite (.ite h.fails h.queueOp) (.ite h.fails ?_)
    split
    · exact h.fails
    · exact h.queueOp

/-! ### Barriers -/

theorem Canonical.modCell (h : Canonical s) {k f} : Canonical (s.modCell k f) := h.modCt

theorem Canonical.clearSlot (h : Canonical s) {rp slot} : Canonical (s.clearSlot rp slot) := by
  unfold State.clearSlot
  exact .foldl h fun _ _ h => h.wr

theorem Canonical.freeQueues (h : Canonical s) {k} : Canonical (s.freeQueues k) := h

theorem Canonical.bariHome (h : Canonical s) {id} : Canonical (s.bariHome id) := by
  unfold State.bariHome
  extract_lets r k w0 w1 s1 rp s2 s3 s4
  have h1 : Canonical s1 := h.freeQueues.modCell
  have h2 : Canonical s2 := .foldl h1 fun _ _ h => h.clearSlot
  have h3 : Canonical s3 := h2.setBytes
  have h4 : Canonical s4 := by
    unfold s4
    split
    · exact h3.modQueue
    · exact h3
  split
  · exact h.replyFails
  · exact h4.replyVal

theorem Canonical.closeMember (h : Canonical s) {b slot med m} :
    Canonical (s.closeMember b slot med m) := h.setByte.setByte

theorem Canonical.closeBarrier (h : Canonical s) {k} : Canonical (s.closeBarrier k) := by
  unfold State.closeBarrier
  extract_lets b slot members ticks med s1 s2 s3 window s4
  have h1 : Canonical s1 := .foldl h fun _ _ h => h.closeMember
  have h2 : Canonical s2 := h1.modCell
  have h3 : Canonical s3 := h2.clearSlot
  have h4 : Canonical s4 := by
    unfold s4
    split
    · exact h3.modQueue
    · exact h3
  exact .foldl h4 fun _ _ h => h.replyVal

theorem Canonical.barvHome (h : Canonical s) {id} : Canonical (s.barvHome id) := by
  unfold State.barvHome
  extract_lets r k b w m stl s1 s2
  refine .ite h.replyFails ?_
  have h1 : Canonical s1 := .ite h h.wr
  have h2 : Canonical s2 := h1.modCell.holdReq
  exact .ite h2.closeBarrier h2

theorem Canonical.barlogHome (h : Canonical s) {id} : Canonical (s.barlogHome id) := by
  unfold State.barlogHome
  dsimp only
  split
  · exact h.replyVal
  · exact h.replyFails

theorem Canonical.barrierOp (h : Canonical s) {v b} : StaysCanonical (barrierOp v b s) := by
  unfold Machine.barrierOp
  split
  · exact h.fails
  · exact .next h.askObj

/-! ### Streams and copies -/

theorem Canonical.modAg (h : Canonical s) {q u f} : Canonical (s.modAg q u f) := h.modMt

theorem Canonical.execAgcfg (h : Canonical s) {r} : StaysCanonical (execAgcfg r s) := by
  unfold Machine.execAgcfg
  dsimp only
  split
  · exact h.fails
  · exact .ite h.fails (.ite h.fails h.askMt)

theorem Canonical.agcfgHome (h : Canonical s) {id} : Canonical (s.agcfgHome id) := by
  unfold State.agcfgHome
  exact .ite h.modMt.holdReq h.modAg.replyVal

theorem Canonical.execAgrun (h : Canonical s) {r} : StaysCanonical (execAgrun r s) := by
  unfold Machine.execAgrun
  dsimp only
  split
  · exact h.fails
  · exact .ite h.fails h.askMt

theorem Canonical.agrunHome (h : Canonical s) {id} : Canonical (s.agrunHome id) := by
  unfold State.agrunHome
  extract_lets r q u
  split
  · exact h.replyFails
  · extract_lets s1 x
    have h1 : Canonical s1 := .foldl h fun _ _ h => h.modAg
    exact h1.modMt.holdReq

theorem Canonical.agStop (h : Canonical s) {q u} : Canonical (s.agStop q u) := by
  unfold State.agStop
  extract_lets st s1 wait s2
  have h1 : Canonical s1 := .foldl h fun _ _ h => h.modAg
  have h2 : Canonical s2 := h1.modMt
  exact .foldl h2 fun _ _ h => h.freeReq.agcfgHome

theorem Canonical.agFault (h : Canonical s) {q u kind detail comp} : Canonical (s.agFault q u kind detail comp) := by
  unfold State.agFault
  exact h.engDrop.agStop.frame.raiseFiring

theorem Canonical.agNext (h : Canonical s) {q u t} : Canonical (s.agNext q u t) := h.modMt

theorem Canonical.agAsk (h : Canonical s) {q u n data} : Canonical (s.agAsk q u n data) := h.engAsk.modMt

theorem Canonical.execAgElement (h : Canonical s) : StaysCanonical (execAgElement s) := by
  unfold Machine.execAgElement
  dsimp only
  refine .ite (.next h) ?_
  refine .ite ?_ (.ite (.next h) (.ite (.ite (.next h) (.ite (.next h.modQueue.modQueue.serve)
    (.next h.modQueue.agAsk))) (.ite (.next h) (.next h.agAsk))))
  split
  · exact .next h
  · exact .next h.agFault.serve
  · exact .ite (.next h.engDrop.modQueue.agNext.serve) (.ite (.next (.ite h.engDrop.modMt h))
      (.next h.engDrop.append.serve.agNext))

theorem Canonical.execAgStreamComplete (h : Canonical s) : StaysCanonical (execAgStreamComplete s) := by
  unfold Machine.execAgStreamComplete
  exact .ite (.next h) (.next h.agStop.replyVal)

theorem Canonical.modCopy (h : Canonical s) {k f} : Canonical (s.modCopy k f) := h.modQueue

theorem Canonical.execCopyTrigger (h : Canonical s) : StaysCanonical (execCopyTrigger s) := by
  unfold Machine.execCopyTrigger
  dsimp only
  split
  · exact .ite (.next h) (.ite (.next h.modQueue.modQueue.serve) (.ite (.next h) (.next h.modQueue.modQueue.serve)))
  · exact .next h

theorem Canonical.copyFault (h : Canonical s) {k x kind detail comp c} :
    Canonical (s.copyFault k x kind detail comp c) :=
  h.engDrop.modCopy.raiseArgs

theorem Canonical.countSync (h : Canonical s) {sync n lid die} : Canonical (s.countSync sync n lid die) := by
  unfold State.countSync
  exact .ite h h.post.frame

theorem Canonical.copyMoved (h : Canonical s) {k c t tlb} : Canonical (s.copyMoved k c t tlb) := h.countSync.modCopy

theorem Canonical.copyCut (h : Canonical s) {k c t j kind detail comp b} :
    Canonical (s.copyCut k c t j kind detail comp b) := by
  unfold State.copyCut
  exact .ite h.copyFault h.engDrop.modCopy

theorem Canonical.copyBad (h : Canonical s) {k c t kind detail comp ea} :
    Canonical (s.copyBad k c t kind detail comp ea) := by
  unfold State.copyBad
  exact .ite h.engDrop.copyMoved.copyFault h.copyCut

theorem Canonical.copyPut (h : Canonical s) {k c t b} : Canonical (s.copyPut k c t b) := by
  unfold State.copyPut
  dsimp only
  split
  · exact h.copyCut
  · exact h.scatter.eccClear.copyMoved

theorem Canonical.execCopyElements (h : Canonical s) : StaysCanonical (execCopyElements s) := by
  unfold Machine.execCopyElements
  dsimp only
  split
  · refine .ite (.next h) (.ite ?_ ?_)
    · split
      · exact .next h
      · exact .next h.copyBad
      · exact .next (.ite h.engDrop.copyMoved h.engDrop.modCopy.modCopy)
    · split
      · exact .ite (.next h.copyPut) (.next h.engAsk.modCopy)
      · refine .ite (.next h) (.ite (.next h.copyFault) ?_)
        split
        · exact .next h.copyFault
        · refine .ite (.next h.copyFault) (.ite (.next h.engAsk.modCopy) ?_)
          split
          · exact .next h.copyCut
          · exact .next h.modCopy.countCe
  · exact .next h

theorem Canonical.sideToken (h : Canonical s) {mt lid trig p} : Canonical (s.sideToken mt lid trig p) := by
  unfold State.sideToken
  split
  · exact h.sendFrom
  · exact h

theorem Canonical.execCopyComplete (h : Canonical s) : StaysCanonical (execCopyComplete s) := by
  unfold Machine.execCopyComplete
  extract_lets k qu s1
  have h1 : Canonical s1 := h.modQueue
  split
  · refine .ite (.next h) (.next ?_)
    split
    · exact h1.setF.sideToken.sideToken
    · exact h1.sideToken.sideToken
  · exact .next h

theorem Canonical.modConv (h : Canonical s) {k f} : Canonical (s.modConv k f) := h.modMt

theorem Canonical.bindOp (h : Canonical s) {v odd} : StaysCanonical (bindOp v odd s) := by
  unfold Machine.bindOp
  dsimp only
  split
  · exact h.fails
  · exact .ite h.fails (.ite h.fails (.ite h.fails h.askMt))

theorem Canonical.bindHome (h : Canonical s) {id} : Canonical (s.bindHome id) := h.modConv.replyVal

theorem Canonical.ktsTake (h : Canonical s) {k} : Canonical (s.ktsTake k) := by
  unfold State.ktsTake
  exact .ite h (.ite h.modConv.raiseArgs (.ite h.modQueue.modQueue.serve h.modQueue.modQueue.serve.modConv))

theorem Canonical.stkSend (h : Canonical s) {k} : Canonical (s.stkSend k) := by
  unfold State.stkSend
  dsimp only
  split
  · exact .ite h h.append.serve.modConv.modConv
  · split
    · exact h
    · exact h.modConv

theorem Canonical.execConverterTransfer (h : Canonical s) : StaysCanonical (execConverterTransfer s) := by
  unfold Machine.execConverterTransfer
  exact .ite (.next h) (.ite (.next (.ite h.stkSend h)) (.next (.ite h.ktsTake h)))

theorem Canonical.execMcgset (h : Canonical s) {r} : StaysCanonical (execMcgset r s) := by
  unfold Machine.execMcgset
  exact .ite h.fails (.ite h.fails (.ite h.fails (.next h.askObj)))

theorem Canonical.mcgHome (h : Canonical s) {id} : Canonical (s.mcgHome id) := by
  unfold State.mcgHome
  extract_lets r w s1
  have h1 : Canonical s1 := .ite h.frame h.frame
  exact h1.replyVal

theorem Canonical.execXsend (h : Canonical s) {r} : StaysCanonical (execXsend r s) := by
  unfold Machine.execXsend
  exact .ite h.fails (.next h.askDie)

/-! ### Static mode -/

theorem Canonical.takeBeat (h : Canonical s) {e side} : Canonical (s.takeBeat e side) := by
  unfold State.takeBeat
  exact .ite h.modConv h.modElem

theorem Canonical.sendBeat (h : Canonical s) {e side b} : Canonical (s.sendBeat e side b) := by
  unfold State.sendBeat
  refine .ite h (.ite h.modConv ?_)
  split
  · exact h.modElem
  · exact h

theorem Canonical.ringStart (h : Canonical s) {e} : Canonical (s.ringStart e) := h.modElem.modConv.modConv

theorem Canonical.ringTo (h : Canonical s) {e n} : Canonical (s.ringTo e n) := by
  unfold State.ringTo
  exact .ite h.ringStart h.modElem

theorem Canonical.ringCount (h : Canonical s) {e v} : Canonical (s.ringCount e v) := by
  unfold State.ringCount
  exact .ite h.ringTo h.modElem

theorem Canonical.stepPast (h : Canonical s) {e n} : Canonical (s.stepPast e n) := by
  unfold State.stepPast
  exact .ite h.modElem.ringTo h.modElem

theorem Canonical.stepAgain (h : Canonical s) {e n} : Canonical (s.stepAgain e n) := h.modElem

theorem Canonical.raiseStatic (h : Canonical s) {e n kind detail fl comp} :
    Canonical (s.raiseStatic e n kind detail fl comp) :=
  h.modElem.raiseArgs

theorem Canonical.putSxRow (h : Canonical s) {e acc r l} : Canonical (s.putSxRow e acc r l) := by
  unfold State.putSxRow
  exact (Canonical.foldl h (fun _ _ h => h.putAcc)).accMend

theorem Canonical.accChecked (h : Canonical s) {e v i n t} (ht : Canonical t) :
    StaysCanonical (accChecked s e v i n t) :=
  .ite (.next h.raiseStatic) (.next ht.addCe)

theorem Canonical.execSxmac (h : Canonical s) {r} : StaysCanonical (execSxmac r s) := by
  unfold Machine.execSxmac
  extract_lets v e fwd pin s1 s2
  have h1 : Canonical s1 := h.takeBeat
  have h2 : Canonical s2 := .ite h1.takeBeat h1
  split
  · refine .ite (.next h) (h.accChecked ?_)
    dsimp only
    exact (Canonical.ite h2.sendBeat.sendBeat h2.sendBeat).ringCount.orFlags
  · exact .next h

theorem Canonical.execSxpass (h : Canonical s) {r} : StaysCanonical (execSxpass r s) := by
  unfold Machine.execSxpass
  dsimp only
  split
  · exact .ite (.next h.takeBeat.sendBeat.ringCount) (.next h)
  · exact .next h

theorem Canonical.execSxacc (h : Canonical s) {r} : StaysCanonical (execSxacc r s) := by
  unfold Machine.execSxacc
  dsimp only
  split
  · exact .next h
  · exact .ite (.next h.takeBeat.putSxRow.ringCount) (h.accChecked h.takeBeat.putSxRow.ringCount.orFlags)

theorem Canonical.execSxout (h : Canonical s) {r} : StaysCanonical (execSxout r s) := by
  unfold Machine.execSxout
  dsimp only
  refine .ite (.next h) (.ite (h.accChecked (Canonical.ite h.putSxRow h).sendBeat.ringCount.orFlags) ?_)
  split
  · exact .next h
  · exact .next h.takeBeat.sendBeat.ringCount.orFlags

theorem Canonical.execSxmov (h : Canonical s) {r} : StaysCanonical (execSxmov r s) := by
  unfold Machine.execSxmov
  dsimp only
  refine .ite (.ite (.next h) (h.accChecked h.sendBeat.ringCount)) ?_
  split
  · exact .next h
  · exact .next h.takeBeat.putSxRow.ringCount

theorem Canonical.execSxwld (h : Canonical s) {r} : StaysCanonical (execSxwld r s) := by
  unfold Machine.execSxwld
  exact .ite (.next h) (.next h.modElem.ringTo)

theorem Canonical.execSxloop (h : Canonical s) {r} : StaysCanonical (execSxloop r s) := by
  unfold Machine.execSxloop
  exact .ite (.next h.modElem.ringTo) (.next h.modElem.ringTo)

theorem Canonical.execSxnop (h : Canonical s) {r} : StaysCanonical (execSxnop r s) := by
  unfold Machine.execSxnop
  exact .next h.ringCount

theorem Canonical.execSxwldWeightToken (h : Canonical s) : StaysCanonical (execSxwldWeightToken s) := by
  unfold Machine.execSxwldWeightToken
  extract_lets e i x rg st
  split
  · exact .next h
  · extract_lets t n v s0
    have ht : Canonical st := h.modElem
    have h0 : Canonical s0 := .ite ht.touchFx ht
    refine .ite (.next h) (.ite ?_ (.ite (.next h0.raiseStatic) (.ite (.next h) ?_)))
    · split
      · rename_i k
        exact .next (h0.parkToken.of_some k)
      · exact .next h.lineSpillfull
    · split
      · exact .next h0.raiseStatic
      · exact .next h0.putAcc.putAcc.accMend.modElem

/-! ### Faults and the system class -/

theorem Canonical.resolve (h : Canonical s) {lid ix} : Canonical (s.resolve lid ix) := h.modLoad

theorem Canonical.unparkAfter (h : Canonical s) {lid r} : Canonical (s.unparkAfter lid r) := by
  unfold State.unparkAfter
  exact .ite h h.unpark

theorem Canonical.fretSend (h : Canonical s) {from_ r y} : Canonical (s.fretSend from_ r y) := by
  unfold State.fretSend
  split
  · exact h
  · exact .ite h h.sendAnswer

theorem Canonical.fretReq (h : Canonical s) {r} : Canonical (s.fretReq r) := by
  unfold State.fretReq
  split
  · exact .ite h h.setOut
  · exact h
  · exact h.retire

theorem Canonical.fretMacro (h : Canonical s) {r} : Canonical (s.fretMacro r) := by
  unfold State.fretMacro
  split
  · exact h
  · extract_lets v x s1 s2
    have h1 : Canonical s1 := .ite h.modElem h
    refine .ite (.ite h1.setSeq h1) (.ite ?_ h1)
    have h2 : Canonical s2 := .ite h1.setSeq h1
    split
    · rename_i k
      exact h2.countTacc.of_taken k
    · rename_i k
      exact (h2.countTacc.of_fires k).modElem
    · exact h2

theorem Canonical.fretSite (h : Canonical s) {r x} : Canonical (s.fretSite r x) := by
  unfold State.fretSite
  split
  · exact h.replyVal
  · exact h.modQueue
  · exact .ite h.modConv h.modConv.modQueue.serve
  · exact .ite h.stepPast (.ite h.modCt h)

theorem Canonical.fretHome (h : Canonical s) {id} : Canonical (s.fretHome id) := by
  unfold State.fretHome
  dsimp only
  split
  · exact h.replyFails
  · exact h.resolve.fretSend.fretReq.fretMacro.fretSite.unparkAfter.pump.replyVal

theorem Canonical.dropCtx (h : Canonical s) {rid fx} : Canonical (s.dropCtx rid fx) := h

theorem Canonical.fkillHome (h : Canonical s) {id} : Canonical (s.fkillHome id) := by
  have dead {i r} {x : FaultRec} : Canonical (((s.resolve i r).dropCtx x.rid x.fx).release x.rid x.fx) :=
    h.resolve.dropCtx.release
  unfold State.fkillHome
  dsimp only
  split
  · exact h.replyFails
  · refine .ite h.replyFails ?_
    split
    · refine .ite ?_ dead.modQueue.pump.replyVal
      exact Canonical.pump dead.modQueue.modFx.frame
    · refine .ite ?_ dead.pump.replyVal
      exact Canonical.pump dead.modFx.frame

theorem Canonical.parkHome (h : Canonical s) {id} : Canonical (s.parkHome id) := by
  unfold State.parkHome
  extract_lets q fx s1
  refine .ite h.replyFails ?_
  have h1 : Canonical s1 := .ite h h.park
  exact .ite h1 h1.replyVal

theorem Canonical.redeliver (h : Canonical s) {fl} : Canonical (s.redeliver fl) := h.modElem

theorem Canonical.repost (h : Canonical s) {id} : Canonical (s.repost id) := by
  unfold State.repost
  exact h.frame.tryLeave

theorem Canonical.reissue (h : Canonical s) {r} : Canonical (s.reissue r) := by
  unfold State.reissue
  split
  · exact h.modQueue
  · exact h.modConv
  · exact h.modRegion
  · refine .ite ?_ ?_
    · dsimp only
      split
      · exact h.stepAgain.redeliver
      · exact h.stepAgain
    · refine .ite ?_ ?_
      · split
        · exact h.repost
        · exact h
      · refine .ite h.fretSite ?_
        split
        · extract_lets s1
          have h1 : Canonical s1 := by
            unfold s1
            split
            · exact .ite h.frame h
            · exact h
          exact h1.modElem
        · exact h

theorem Canonical.unparkHome (h : Canonical s) {id} : Canonical (s.unparkHome id) := by
  unfold State.unparkHome
  extract_lets q w
  refine .ite (.ite h.replyFails (.ite h.replyFails h.unpark.replyVal)) ?_
  split
  · exact h.replyFails
  · extract_lets s1 s2
    have h1 : Canonical s1 := h.resolve.reissue.unparkAfter
    have h2 : Canonical s2 := by
      unfold s2
      split
      · exact h1.redeliver
      · exact h1
    exact h2.pump.replyVal

theorem Canonical.execTrap (h : Canonical s) {r} : StaysCanonical (execTrap r s) := by
  unfold Machine.execTrap
  exact .next h.raiseFiring

theorem Canonical.askFaults (h : Canonical s) {v} : StaysCanonical (askFaults v s) := h.askMt

theorem Canonical.execPark (h : Canonical s) {r} : StaysCanonical (execPark r s) := by
  unfold Machine.execPark
  exact .ite h.fails h.askFaults

theorem Canonical.execUnpark (h : Canonical s) {r} : StaysCanonical (execUnpark r s) := by
  unfold Machine.execUnpark
  exact .ite h.fails h.askFaults

theorem Canonical.execMark (h : Canonical s) {r} : StaysCanonical (execMark r s) := by
  unfold Machine.execMark
  dsimp only
  refine .ite h.fails ?_
  split
  · exact .next h.modLoad
  · exact .next h.markOpens.settleRound

theorem Canonical.execHandlerTokenSend (h : Canonical s) : StaysCanonical (execHandlerTokenSend s) := by
  unfold Machine.execHandlerTokenSend
  dsimp only
  split
  · exact .ite (.next h) (.next h.modLoad.sendFrom)
  · exact .next h

theorem Canonical.execPgrd (h : Canonical s) {r} : StaysCanonical (execPgrd r s) := by
  unfold Machine.execPgrd
  dsimp only
  split
  · exact h.finishWith fun _ h => h.modElem
  · exact h.finish1
  · exact h.finish1
  · exact h.finish1
  · exact h.finish1
  · exact h.finish1
  · exact h.finish1
  · exact h.finish1

theorem Canonical.pgPut (h : Canonical s) {v f g} : StaysCanonical (pgPut s v f g) := by
  unfold Machine.pgPut
  exact h.finishWith fun _ h => h.modElem

theorem Canonical.execPgwr (h : Canonical s) {r} : StaysCanonical (execPgwr r s) := by
  unfold Machine.execPgwr
  dsimp only
  split
  · exact .ite h.fails (.ite (.next h.requeue) h.pgPut)
  · exact .ite (.next h.requeue) h.pgPut
  · exact h.pgPut
  · exact .ite h.fails h.pgPut
  · exact h.fails

theorem Canonical.execStcnt (h : Canonical s) {r} : StaysCanonical (execStcnt r s) := by
  unfold Machine.execStcnt
  exact .ite h.fails (.ite h.finish1 (h.finishWith fun _ h => .ite h h.modElem))

theorem Canonical.execEcall (h : Canonical s) {r} : StaysCanonical (execEcall r s) := by
  unfold Machine.execEcall
  exact .next h.askObj

theorem Canonical.execFrread (h : Canonical s) : StaysCanonical (execFrread s) := by
  unfold Machine.execFrread
  exact .next (.ite h.replyVal h)

theorem Canonical.execQbar (h : Canonical s) : StaysCanonical (execQbar s) := by
  unfold Machine.execQbar
  exact .next (.ite h.replyVal h)

theorem Canonical.execXreg (h : Canonical s) : StaysCanonical (execXreg s) := by
  unfold Machine.execXreg
  exact .ite (.next h) (.ite (.next h.replyVal) (.ite (.ite (.next h.frame.replyVal) (.next h.replyVal))
    (.ite (.next h.replyVal) (.next h.frame.replyVal))))

theorem Canonical.execGsrc (h : Canonical s) {r} : StaysCanonical (execGsrc r s) := by
  unfold Machine.execGsrc
  exact .ite h.fails h.askMt

theorem Canonical.setClosed (h : Canonical s) {lid b} : Canonical (s.setClosed lid b) := by
  unfold State.setClosed
  exact .foldl h fun _ _ h => h.modRegion

theorem Canonical.gsrcHome (h : Canonical s) {id} : Canonical (s.gsrcHome id) := by
  unfold State.gsrcHome
  dsimp only
  split
  · exact h.setClosed.holdReq.replyVal
  · exact h.setClosed.holdReq.replyVal
  · exact .ite h.setClosed.holdReq.replyVal h.setClosed.holdReq
  · exact h.holdReq.replyVal

theorem Canonical.quiesceHome (h : Canonical s) {id} : Canonical (s.quiesceHome id) := by
  unfold State.quiesceHome
  exact .ite h.holdReq.replyVal h.holdReq

theorem Canonical.execHalt (h : Canonical s) {r} : StaysCanonical (execHalt r s) := by
  unfold Machine.execHalt
  exact .next h.haltLoad

/-! ### Commits -/

theorem Canonical.execCfgld (h : Canonical s) {r} : StaysCanonical (execCfgld r s) := by
  unfold Machine.execCfgld
  exact .ite h.fails (.ite (.next h.raiseFiring) h.askFaults)

theorem Canonical.cfgFails (h : Canonical s) {id o} : Canonical (s.cfgFails id o) := h.engDrop.replyFails

theorem Canonical.cfgAsk (h : Canonical s) {id o n b} : Canonical (s.cfgAsk id o n b) := by
  unfold State.cfgAsk
  exact h.engAsk.frame

theorem Canonical.cfgWaits (h : Canonical s) {id} : Canonical (s.cfgWaits id) := by
  unfold State.cfgWaits
  exact .ite h.frame (.ite h.cfgFails h.frame)

theorem Canonical.cfgRead (h : Canonical s) {id} : Canonical (s.cfgRead id) := by
  unfold State.cfgRead
  dsimp only
  split
  · exact h.cfgFails
  · exact h.modRegion.replyVal

theorem Canonical.cfgHead (h : Canonical s) {id} : Canonical (s.cfgHead id) := by
  unfold State.cfgHead
  exact .ite (.ite h.cfgFails h.frame) (.ite h.replyFails h)

theorem Canonical.cfgldHome (h : Canonical s) {id} : Canonical (s.cfgldHome id) := by
  unfold State.cfgldHome
  dsimp only
  refine .ite ?_ (.ite h.cfgAsk (.ite h.cfgAsk (.ite h.cfgAsk (.ite h.cfgFails h.cfgRead))))
  split
  · exact h.cfgWaits
  · exact (Canonical.ite h.noteUe h).cfgFails
  · exact .ite h.cfgFails (.ite h.engDrop.frame.cfgHead (.ite h.engDrop.frame.replyVal h.engDrop.frame))

theorem Canonical.execCfgcmt (h : Canonical s) {r} : StaysCanonical (execCfgcmt r s) := by
  unfold Machine.execCfgcmt
  exact .ite h.fails h.askMt

theorem Canonical.cfgcmtHome (h : Canonical s) {id} : Canonical (s.cfgcmtHome id) := by
  unfold State.cfgcmtHome
  extract_lets r rid g w s1
  refine .ite h.replyFails (.ite ?_ (.ite h.replyFails h.modRegion.holdReq))
  have h1 : Canonical s1 := by
    unfold s1
    split
    · exact .ite h h.replyFails
    · exact h
  exact h1.modRegion.replyVal

theorem Canonical.commitSquares (h : Canonical s) {rid lid b} : Canonical (s.commitSquares rid lid b) := by
  unfold State.commitSquares
  extract_lets r recs quo nin lut s1
  have h1 : Canonical s1 := .foldl h fun _ _ h => h.modElem
  exact .foldl h1 fun _ _ h => .ite h.modCt h.modMt

theorem Canonical.mendRecords (h : Canonical s) {rid} : Canonical (s.mendRecords rid) := h

theorem Canonical.commitRegion (h : Canonical s) {rid b} : Canonical (s.commitRegion rid b) := by
  unfold State.commitRegion
  exact h.mendRecords.modRegion.frame

theorem Canonical.startRings (h : Canonical s) {rid} : Canonical (s.startRings rid) := by
  unfold State.startRings
  exact .ite h (.foldl h (fun _ _ h => h.ringStart))

theorem Canonical.fillConsts (h : Canonical s) {lid} : Canonical (s.fillConsts lid) := by
  unfold State.fillConsts
  refine .foldl h fun _ _ h => ?_
  split
  · exact h
  · exact .foldl h fun _ _ h => .foldl h.setBytes fun _ _ h => h.setByte

theorem Canonical.allocRoot (h : Canonical s) {lid} : Canonical (s.allocRoot lid) := by
  unfold State.allocRoot
  exact .foldl h fun _ _ h => h.modFx

theorem Canonical.rootPart (h : Canonical s) {d} : Canonical (s.rootPart d) := h.placePart.modCt

theorem Canonical.entryTokens (h : Canonical s) {lid l} : Canonical (s.entryTokens lid l) := by
  unfold State.entryTokens
  exact .foldl h fun _ _ h => h.sendFrom

theorem Canonical.handleTokens (h : Canonical s) {lid} : Canonical (s.handleTokens lid) := by
  unfold State.handleTokens
  refine .foldl h fun _ _ h => ?_
  split
  · exact h
  · exact .foldl h fun _ _ h => h.sendFrom

theorem Canonical.inject (h : Canonical s) {lid} : Canonical (s.inject lid) := by
  unfold State.inject
  extract_lets l s0 s1 s2
  have h0 : Canonical s0 := .foldl h.allocRoot fun _ _ h => h.modRegion
  have h1 : Canonical s1 := h0.modLoad
  have h2 : Canonical s2 := by
    dsimp only [s2]
    cases l with
    | nil => exact h1
    | cons => exact h1.rootPart
  exact h2.entryTokens.handleTokens.modJournal

theorem Canonical.flipFails (h : Canonical s) {rid id key spos} : Canonical (s.flipFails rid id key spos) := by
  unfold State.flipFails
  exact .ite h.modRegion.endLoad h.modRegion.raiseArgs

theorem Canonical.owesRestore (h : Canonical s) {lid} : Canonical (s.owesRestore lid) := by
  unfold State.owesRestore
  dsimp only
  split
  · exact h
  · exact .ite h h.modDie

theorem Canonical.execCfgCommitFlip (h : Canonical s) : StaysCanonical (execCfgCommitFlip s) := by
  unfold Machine.execCfgCommitFlip
  extract_lets rid g b id start lid req s1 s2
  refine .ite (.next h) ?_
  split
  · exact .next h.flipFails
  · have h1 : Canonical s1 := h.commitSquares.commitRegion.modRegion.startRings
    have h2 : Canonical s2 := .ite (Canonical.ite h1.fillConsts h1).inject h1
    exact .next (.ite h2.owesRestore h2.replyVal)

/-! ### Handles -/

theorem hrefAt_canonical {f w} : (s.hrefAt f w).Canonical := .ite trivial fun _ h => h.addRef

theorem hdropAt_canonical {f w} : (s.hdropAt f w).Canonical := fun _ h => h.dropRef

theorem fullAt_canonical {b f w} : (fullAt b f w).Canonical := fun _ h => h.setF

theorem hinfoAt_canonical {f v w} : (s.hinfoAt f v w).Canonical := fun _ h => h

theorem tgetAt_canonical {f v w} : (s.tgetAt f v w).Canonical := by
  unfold State.tgetAt
  dsimp only
  split
  · trivial
  · split
    · trivial
    · exact fun _ h => h.elemCe

theorem tsetAt_canonical {f v w} : (s.tsetAt f v w).Canonical := by
  unfold State.tsetAt
  dsimp only
  refine .ite trivial (.ite (fun _ h => h) (.ite trivial ?_))
  split
  · trivial
  · exact fun _ h => h.putElem.writeMend

theorem tsliceAt_canonical {f w} : (s.tsliceAt f w).Canonical := by
  unfold State.tsliceAt
  dsimp only
  refine .ite trivial (.ite trivial ?_)
  split
  · trivial
  · exact fun _ h => h

theorem tileOp_canonical {f v} : (s.tileOp f v).Canonical := by
  unfold State.tileOp
  split
  · trivial
  · dsimp only
    split
    · exact tsliceAt_canonical
    · exact hrefAt_canonical
    · exact hdropAt_canonical
    · exact hinfoAt_canonical
    · exact tgetAt_canonical
    · exact tsetAt_canonical
    · exact fullAt_canonical
    · exact fullAt_canonical

theorem Canonical.hallocAt (h : Canonical s) {f v} : OptCanonical (s.hallocAt f v) := by
  unfold State.hallocAt
  dsimp only
  refine .ite .none ?_
  split
  · rename_i k
    exact .some ((OptCanonical.ite h.tryHalloc .none).of_some k)
  · exact .some h.modMt.serveHallocs

theorem Canonical.tileHome (h : Canonical s) {id} : Canonical (s.tileHome id) := by
  unfold State.tileHome
  dsimp only
  split
  · split
    · exact h.replyFails
    · rename_i e
      exact (h.hallocAt.of_some e).frame
  · split
    · exact h.replyFails
    · exact h.replyBad
    · rename_i e
      exact (tileOp_canonical.of_ok e h).frame.replyTok

theorem Canonical.eccFails (h : Canonical s) {v src pa} : StaysCanonical (eccFails s v src pa) := .next h.raiseFiring

theorem Canonical.tileNode (h : Canonical s) {v} : StaysCanonical (tileNode v s) := by
  unfold Machine.tileNode
  refine .ite h.askMt ?_
  split
  · exact h.fails
  · exact h.eccFails
  · rename_i k
    exact h.finishWith fun t ht => .ite (tileOp_canonical.of_ok k ht) (tileOp_canonical.of_ok k ht).orFlags

theorem Canonical.execHalloc (h : Canonical s) {r} : StaysCanonical (execHalloc r s) := by
  unfold Machine.execHalloc
  dsimp only
  refine .ite h.fails (.ite h.fails (.ite h.askMt ?_))
  split
  · exact h.fails
  · rename_i k
    exact .next (h.hallocAt.of_some k)

/-! ### Homes -/

theorem Canonical.syncAdd (h : Canonical s) {pa n lid} : Canonical (s.syncAdd pa n lid) := by
  unfold State.syncAdd
  exact .ite h.wr h.frame.wr.wr.sendFrom

theorem Canonical.countArrives (h : Canonical s) {c} : Canonical (s.countArrives c) := by
  unfold State.countArrives
  dsimp only
  split
  · exact h.countCe.syncAdd
  · exact h.countCe.raiseArgs

theorem Canonical.execSyncCountArrival (h : Canonical s) : StaysCanonical (execSyncCountArrival s) := by
  unfold Machine.execSyncCountArrival
  split
  · exact .next h
  · exact .ite (.next h) (.next h.frame.countArrives)

theorem Canonical.setIState (h : Canonical s) {pa n} : Canonical (s.setIState pa n) := h.modMt

theorem Canonical.dropReaders (h : Canonical s) {pa} : Canonical (s.dropReaders pa) := h.modMt

theorem Canonical.answerReaders (h : Canonical s) {pa x} : Canonical (s.answerReaders pa x) := by
  unfold State.answerReaders
  exact (Canonical.foldl h (fun _ _ h => .ite h.sendFrom h)).dropReaders

theorem Canonical.storeAt (h : Canonical s) {id pa n x ack} : Canonical (s.storeAt id pa n x ack) := by
  unfold State.storeAt
  extract_lets r whole row checked s1
  have h1 : Canonical s1 := .ite h h.countCe
  split
  · exact h.replyBad
  · exact .ite h.replyTo (Canonical.ite h1 h1.frame).wr.replyTo

theorem Canonical.alrRun (h : Canonical s) {pa n e d slots mask} : Canonical (s.alrRun pa n e d slots mask).1 := by
  induction n generalizing s e slots mask with
  | zero => exact h
  | succ n ih =>
    unfold State.alrRun
    dsimp only
    split
    · exact ih h
    · split
      · exact ih h.wr
      · exact ih h.wr

theorem Canonical.objHome (h : Canonical s) {id} : Canonical (s.objHome id) := by
  unfold State.objHome
  split
  · exact h.agcfgHome
  · exact h.agrunHome
  · exact h.bariHome
  · exact h.barvHome
  · exact h.barlogHome
  · exact h.bindHome
  · exact h.bindHome
  · exact h.mcgHome
  · exact h.fretHome
  · exact h.fkillHome
  · exact h.parkHome
  · exact h.unparkHome
  · exact h.replyVal
  · exact h.cfgldHome
  · exact h.cfgcmtHome
  · exact h.gsrcHome
  · exact h.quiesceHome
  · exact h
  · exact h.tileHome
  · exact h.tileHome
  · exact h.tileHome
  · exact h.tileHome
  · exact h.tileHome
  · exact h.tileHome
  · exact h.tileHome
  · exact h.tileHome
  · exact h.tileHome
  · exact h.queueHome

theorem Canonical.atHome (h : Canonical s) {id} : Canonical (s.atHome id) := by
  unfold State.atHome
  extract_lets r pa ea x queues readBad s1
  have h1 : Canonical s1 := .ite h h.countCe
  clear_value readBad
  split
  · exact h.storeAt
  · exact h.storeAt
  · exact .ite h.replyBad h.setIState.wr.eccClear.answerReaders.replyTo
  · exact .ite h.setIState.dropReaders.replyBad h.setIState.dropReaders.replyTo
  · have ha : Canonical { s with armed := s.armed.put pa (r.lid + 1) } := h.frame
    exact ha.wr.wr.eccClear.replyTo
  · cases readBad with
    | some w => exact h.replyBad
    | none =>
      dsimp only
      split
      · refine .ite h1.replyTo (.ite h1.replyTo (.ite h ?_))
        split
        · exact h.replyBad
        · exact (h.setIState.modMt.replyTo).frame
      · exact h1.alrRun.replyTo.frame
      · exact h1.replyTo
      · exact h1.syncAdd.replyTo
      · exact h1.replyTo

theorem Canonical.execHomeAccess (h : Canonical s) : StaysCanonical (execHomeAccess s) := by
  unfold Machine.execHomeAccess
  exact .next (.ite h (.ite h.objHome h.atHome))

theorem Canonical.replyFault (h : Canonical s) {id kind detail} : Canonical (s.replyFault id kind detail) := by
  unfold State.replyFault
  exact .ite h.frame.raiseFiring h.faultReq

theorem Canonical.deliver (h : Canonical s) {id} : Canonical (s.deliver id) := by
  unfold State.deliver
  dsimp only
  refine .ite ((Canonical.foldl h.retire (fun _ _ h => h.orFlags)).sendAnswer) ?_
  split
  · exact h.retire
  · exact h.retire.alrSlots.reqResult
  · exact h.retire.reqResult
  · exact h.retire.reqResult
  · exact h.retire.reqResult
  · exact h.retire.reqResult

theorem Canonical.execMemoryReply (h : Canonical s) : StaysCanonical (execMemoryReply s) := by
  unfold Machine.execMemoryReply
  dsimp only
  refine .ite (.next h) (.ite (.next h.frame.countLate) (.ite (.next h.frame) ?_))
  split
  · exact .next h.replyFault.pump
  · exact .next ((Canonical.ite h.retire (.ite h.complete h.deliver)).pump)

theorem Canonical.dropEgress (h : Canonical s) {die id} : Canonical (s.dropEgress die id) := h

theorem Canonical.execEgressConfirm (h : Canonical s) : StaysCanonical (execEgressConfirm s) := by
  unfold Machine.execEgressConfirm
  extract_lets id r s1 fr s2
  have h1 : Canonical s1 := h.dropEgress
  have h2 : Canonical s2 := by
    dsimp only [s2]
    split
    · exact h1.raiseReq
    · exact h1
  refine .ite (.next h) (.ite (.next (Canonical.pump (.ite h1.frame ?_))) (.next (Canonical.pump h2.frame)))
  split
  · exact h1.replyFault
  · exact h1.deliver

theorem Canonical.orphaned (h : Canonical s) {r} : Canonical (s.orphaned r) := h

theorem Canonical.expire (h : Canonical s) {id} : Canonical (s.expire id) := by
  unfold State.expire
  exact .ite h.orphaned.dropEgress.raiseReq.retire.frame (.ite h.orphaned.faultReq
    (.ite h.prefAnswer (.ite h.orphaned.frame.raiseFiring (.ite h.orphaned.frame.raiseFiring
      (.ite h.orphaned.faultReq h.orphaned.faultReq)))))

theorem Canonical.expireWalk (h : Canonical s) {n} : Canonical (s.expireWalk n) := by
  unfold State.expireWalk
  extract_lets w s1 r s2
  have h1 : Canonical s1 := h.frame
  have h2 : Canonical s2 := .ite h1 (.ite h1.prefAnswer h1.faultReq)
  exact h2.lookAgain

theorem Canonical.execRequestTimeout (h : Canonical s) : StaysCanonical (execRequestTimeout s) := by
  unfold Machine.execRequestTimeout
  exact .ite (.next (.ite h.expireWalk.pump h)) (.next (.ite h.expire.pump h))

theorem Canonical.execScrubWord (h : Canonical s) : StaysCanonical (execScrubWord s) := by
  unfold Machine.execScrubWord
  dsimp only
  refine .ite (.next h) ?_
  split
  · exact .next h
  · exact .next h.countCe.frame
  · exact .next h.modDie

/-! ### The network -/

theorem Canonical.sendLink (h : Canonical s) {l dir fl} : OptCanonical (s.sendLink l dir fl) := by
  unfold State.sendLink
  exact .ite (.some h.onLink) .none

theorem Canonical.toEndpoint (h : Canonical s) {fl} : OptCanonical (s.toEndpoint fl) := by
  unfold State.toEndpoint
  exact .ite .none (.some h.frame)

theorem Canonical.sendIo (h : Canonical s) {side lid t} : Canonical (s.sendIo side lid t) := h

theorem Canonical.checked (h : Canonical s) {fl} : Canonical (s.checked fl).2 := h.drawn

theorem Canonical.toRouter (h : Canonical s) {q inp fl} : OptCanonical (s.toRouter q inp fl) := by
  unfold State.toRouter
  dsimp only
  exact .ite .none (.some h.checked.frame)

theorem Canonical.toElement (h : Canonical s) {inp fl} : OptCanonical (s.toElement inp fl) := by
  unfold State.toElement
  exact .ite .none (.some h.modElem)

theorem Canonical.forward (h : Canonical s) {q inp fl} : OptCanonical (s.forward q inp fl) := by
  unfold State.forward
  dsimp only
  split
  · exact h.sendLink
  · exact .ite (.some h.raiseAway) (.ite .none h.toRouter)
  · exact .ite (.some h.raiseAway) (.ite h.toElement .none)

theorem Canonical.popRin (h : Canonical s) {k} : Canonical (s.popRin k) := h

theorem Canonical.headGoes (h : Canonical s) {q inp rt} : OptCanonical (s.headGoes q inp rt) := by
  unfold State.headGoes
  dsimp only
  split
  · exact .none
  · refine .ite .none (.ite ?_ h.popRin.forward)
    split
    · exact .some h.popRin
    · exact h.popRin.forward
    · exact h.frame.forward

theorem Canonical.rtServed (h : Canonical s) {q out rt} : Canonical (s.rtServed q out rt) := h

theorem Canonical.hopRin (h : Canonical s) {q inp rt} : Canonical (s.hopRin q inp rt) := by
  unfold State.hopRin
  dsimp only
  split
  · exact h
  · refine .ite (.ite h.popRin.frame h.popRin) (.ite h ?_)
    split
    · rename_i k
      exact (h.headGoes.of_some k).rtServed
    · exact h

theorem Canonical.hopOut (h : Canonical s) {e i} : Canonical (s.hopOut e i) := by
  unfold State.hopOut
  dsimp only
  split
  · exact h
  · refine .ite h ?_
    split
    · rename_i k
      exact h.modElem.toRouter.of_some k
    · exact h

theorem Canonical.hopSrc (h : Canonical s) {q rt} : Canonical (s.hopSrc q rt) := by
  unfold State.hopSrc
  split
  · exact h
  · split
    · rename_i k
      exact OptCanonical.of_some (Canonical.toRouter h.frame) k
    · exact h

theorem Canonical.enter (h : Canonical s) {l dir fl} : OptCanonical (s.enter l dir fl) := by
  unfold State.enter
  exact .ite h.toEndpoint (.ite .none h.toRouter)

theorem Canonical.notified (h : Canonical s) {n} : Canonical (s.notified n) := by
  unfold State.notified
  split
  · exact h
  · rename_i x _
    have h1 : Canonical { s with notices := s.notices.erase x } := h.frame
    dsimp only
    exact .ite h1 (.ite h1.takeNotice.postMgmt h1.takeNotice.postMgmt.frame)

theorem Canonical.arrived (h : Canonical s) {n} : Canonical (s.arrived n) := by
  unfold State.arrived
  exact h.frame.notified

theorem Canonical.passOn (h : Canonical s) {k m rest} : Canonical (s.passOn k m rest) := h

theorem Canonical.leftOver (h : Canonical s) {k m l} : Canonical (s.leftOver k m l) := h

theorem Canonical.hopRx (h : Canonical s) {k code} : Canonical (s.hopRx k code) := by
  unfold State.hopRx
  dsimp only
  split
  · exact h
  · refine .ite h (.ite h.passOn (.ite h.passOn.arrived (.ite ?_ (h.passOn.enter.getD h))))
    split
    · exact h.passOn
    · exact h.passOn.enter.getD h
    · exact h.leftOver.enter.getD h

theorem Canonical.hopIo (h : Canonical s) {side rt} : Canonical (s.hopIo side rt) := by
  unfold State.hopIo
  split
  · exact h
  · rename_i fl rest _
    have h1 : Canonical { s with ioOut := s.ioOut.put side rest } := h.frame
    refine OptCanonical.getD (.ite h1.toEndpoint ?_) h
    split
    · exact .none
    · exact h1.sendLink

theorem Canonical.execRouterHop (h : Canonical s) : StaysCanonical (execRouterHop s) := by
  unfold Machine.execRouterHop
  exact .next (.ite h.hopRin (.ite h.hopOut (.ite h.hopSrc (.ite h.hopRx h.hopIo))))

theorem Canonical.execQueueDestinationAppend (h : Canonical s) : StaysCanonical (execQueueDestinationAppend s) := by
  unfold Machine.execQueueDestinationAppend
  dsimp only
  split
  · exact .next h
  · exact .ite (.next h) (.ite (.next h) (.ite (.next h.popRin.rtServed.raiseAway)
      (.next h.popRin.rtServed.append.serve)))

theorem Canonical.countRetry (h : Canonical s) {k} : Canonical (s.countRetry k) := h

theorem Canonical.countDisc (h : Canonical s) {k} : Canonical (s.countDisc k) := h

theorem Canonical.redistribute (h : Canonical s) {l} : Canonical (s.redistribute l) := by
  unfold State.redistribute
  refine .foldl h fun _ _ h => ?_
  extract_lets stays all st1
  have h1 : Canonical st1 := .foldl h fun _ _ h => h.frame
  exact .foldl h1 fun _ _ h => h.frame

theorem Canonical.drained (h : Canonical s) {l} : Canonical (s.drained l) := by
  unfold State.drained
  exact .ite h h.frame.redistribute

theorem Canonical.takeControl (h : Canonical s) {c x} : Canonical (s.takeControl c x) := by
  unfold State.takeControl
  exact h.frame.drained

theorem Canonical.takeFrame (h : Canonical s) {c f x} : Canonical (s.takeFrame c f x) := by
  unfold State.takeFrame
  exact h.frame.takeControl

theorem Canonical.execMplFrameReceive (h : Canonical s) {c err} : StaysCanonical (execMplFrameReceive c err s) := by
  unfold Machine.execMplFrameReceive
  extract_lets ch x y ch1 s1 s2 f x y
  refine .ite (.next h) (.ite (.next h.countDisc) (.ite (.next (.ite h.takeControl h)) (.ite (.next h) ?_)))
  have h1 : Canonical s1 := h.frame
  have h2 : Canonical s2 := .ite h1.countRetry h1
  exact .ite (.next h2.takeFrame) (.next h2.frame)

theorem Canonical.replayOn (h : Canonical s) {l dir m m2} : Canonical (s.replayOn l dir m m2) := by
  unfold State.replayOn
  exact h.frame

theorem Canonical.execChannelRemove (h : Canonical s) : StaysCanonical (execChannelRemove s) := by
  unfold Machine.execChannelRemove
  dsimp only
  refine .ite (.next h) ?_
  split
  · exact .next h.frame
  · exact .next h.frame.replayOn.replayOn.drained

theorem Canonical.retrained (h : Canonical s) {l} : Canonical (s.retrained l) := by
  unfold State.retrained
  exact h.frame.redistribute

theorem Canonical.execLinkTraining (h : Canonical s) {l pass} : StaysCanonical (execLinkTraining l pass s) := by
  unfold Machine.execLinkTraining
  exact .next h.frame.retrained

theorem Canonical.execBridgeForward (h : Canonical s) : StaysCanonical (execBridgeForward s) := by
  unfold Machine.execBridgeForward
  dsimp only
  split
  · exact .next h
  · refine .ite (.next h) ?_
    split
    · exact .next h
    · exact .next (.ite (h.passOn.sendLink.getD h) h.passOn.onLink)

/-! ### Launch -/

theorem Canonical.journalNew (h : Canonical s) {e} : OptCanonical (s.journalNew e) := by
  unfold State.journalNew
  exact .ite .none (.some h.frame)

theorem Canonical.journalNote (h : Canonical s) {cmd arg aux} : Canonical (s.journalNote cmd arg aux) := by
  unfold State.journalNote
  exact h.journalNew.getD h

theorem Canonical.accept (h : Canonical s) {hid cmd p} (e : s.accept hid cmd = some p) : Canonical p.1 := by
  obtain ⟨t, et, rfl⟩ := Option.map_eq_some_iff.mp e
  have ht := h.journalNew.of_some et
  split
  · exact ht.modLoad
  · exact ht.modJournal.modLoad

theorem Canonical.popIo (h : Canonical s) {k} : Canonical (s.popIo k) := h

theorem Canonical.execLaunchToken (h : Canonical s) : StaysCanonical (execLaunchToken s) := by
  unfold Machine.execLaunchToken
  dsimp only
  split
  · exact .next h
  · refine .ite (.next h) (.ite (.next (h.popIo.raiseAway)) ?_)
    split
    · rename_i e
      exact .next (h.popIo.accept e)
    · exact .next h.popIo

theorem Canonical.enqueueLaunch (h : Canonical s) {die lid level since} :
    Canonical (s.enqueueLaunch die lid level since) :=
  h.modDie

theorem Canonical.execLaunchCheck (h : Canonical s) : StaysCanonical (execLaunchCheck s) := by
  unfold Machine.execLaunchCheck
  dsimp only
  refine .ite (.next h) ?_
  split
  · exact .next h.endLoad
  · exact .ite (.next h.modLoad.frame.endLoad) (.ite (.next h.modLoad.frame.endLoad)
      (.next h.modLoad.frame.modLoad.enqueueLaunch))

theorem Canonical.execLaunchAging (h : Canonical s) : StaysCanonical (execLaunchAging s) := by
  unfold Machine.execLaunchAging
  exact .next h.modDie

theorem Canonical.bindRegions (h : Canonical s) {lid l} : Canonical (s.bindRegions lid l) := by
  unfold State.bindRegions
  exact .foldl h fun _ _ h => h.frame

theorem Canonical.execLaunchDispatch (h : Canonical s) : StaysCanonical (execLaunchDispatch s) := by
  unfold Machine.execLaunchDispatch
  dsimp only
  split
  · exact .next h
  · refine .ite (.next h) ?_
    split
    · exact .next h
    · exact .next h.modDie.drawn.bindRegions.modLoad

/-! ### Ownership -/

theorem Canonical.modOwn (h : Canonical s) {f} : Canonical (s.modOwn f) := h

theorem Canonical.msiAll (h : Canonical s) : Canonical s.msiAll := h

theorem Canonical.ownerBecomes (h : Canonical s) {new} : Canonical (s.ownerBecomes new) := h.journalNote.modOwn.msiAll

theorem Canonical.install (h : Canonical s) {hid} : Canonical (s.install hid) := h.ownerBecomes.modOwn

theorem Canonical.closeElection (h : Canonical s) : Canonical s.closeElection := by
  unfold State.closeElection
  refine .ite h ?_
  split
  · exact h.install.modOwn
  · exact h

theorem Canonical.lapse (h : Canonical s) : Canonical s.lapse := by
  unfold State.lapse
  exact .ite h h.journalNote.modOwn.msiAll

theorem Canonical.ownDue (h : Canonical s) : Canonical s.ownDue := h.closeElection.lapse

theorem Canonical.execElectionWindowEnd (h : Canonical s) : StaysCanonical (execElectionWindowEnd s) := by
  unfold Machine.execElectionWindowEnd
  exact .next h.closeElection

theorem Canonical.execLeaseLapse (h : Canonical s) : StaysCanonical (execLeaseLapse s) := by
  unfold Machine.execLeaseLapse
  exact .next h.lapse

theorem Canonical.atIow (h : Canonical s) {hid op arg f} (hf : ∀ t, Canonical t → Canonical (f t)) :
    Canonical (s.atIow hid op arg f) := by
  unfold State.atIow
  split
  · exact .ite h (.ite (.ite (hf _ h) h) (.ite h h.postMgmt.frame))
  · split
    · exact h
    · exact .ite h (.ite (hf _ h.frame) h.frame)

theorem Canonical.execOwnClaim (h : Canonical s) {hid nonce} : StaysCanonical (execOwnClaim hid nonce s) := by
  unfold Machine.execOwnClaim
  exact .next (h.atIow fun _ h => .ite h.ownDue.modOwn (.ite h.ownDue.modOwn h.ownDue))

theorem Canonical.ownOp (h : Canonical s) {hid epoch f} (hf : ∀ t, Canonical t → Canonical (f t)) :
    Canonical (s.ownOp hid epoch f) := .ite (hf _ h.ownDue) h.ownDue

theorem Canonical.execOwnRenew (h : Canonical s) {hid epoch} : StaysCanonical (execOwnRenew hid epoch s) := by
  unfold Machine.execOwnRenew
  exact .next (h.atIow fun _ h => h.ownOp fun _ h => h.modOwn)

theorem Canonical.execOwnOffer (h : Canonical s) {hid tgt epoch} : StaysCanonical (execOwnOffer hid tgt epoch s) := by
  unfold Machine.execOwnOffer
  exact .next (h.atIow fun _ h => h.ownOp fun _ h => h.modOwn)

theorem Canonical.execOwnAccept (h : Canonical s) {hid epoch} : StaysCanonical (execOwnAccept hid epoch s) := by
  unfold Machine.execOwnAccept
  exact .next (h.atIow fun _ h => .ite h.ownDue.install h.ownDue)

theorem Canonical.execOwnRelease (h : Canonical s) {hid epoch} : StaysCanonical (execOwnRelease hid epoch s) := by
  unfold Machine.execOwnRelease
  exact .next (h.atIow fun _ h => h.ownOp fun _ h => h.ownerBecomes.modOwn)

/-! ### Boot and power -/

theorem Canonical.packageOff (h : Canonical s) : Canonical s.packageOff := ⟨State.reset_mem_wf, h.2⟩

theorem Canonical.dropRegions (h : Canonical s) {d} : Canonical (s.dropRegions d) := h

theorem Canonical.dropLinks (h : Canonical s) {d} : Canonical (s.dropLinks d) := h

theorem Canonical.dropAsked (h : Canonical s) {d} : Canonical (s.dropAsked d) := h

theorem Canonical.loseAt (h : Canonical s) {d} : Canonical (s.loseAt d) := h

theorem Canonical.dieOff (h : Canonical s) {d} : Canonical (s.dieOff d) := by
  unfold State.dieOff
  exact .ite h.dropRegions.dropAsked.loseAt.dropLinks.frame h.dropRegions.dropAsked.loseAt.dropLinks.frame

theorem Canonical.powerOff (h : Canonical s) {d} : Canonical (s.powerOff d) := by
  unfold State.powerOff
  exact .ite h.packageOff (.ite h.dieOff h)

theorem Canonical.execDiePowerOff (h : Canonical s) {d} : StaysCanonical (execDiePowerOff d s) := by
  unfold Machine.execDiePowerOff
  exact .next h.powerOff

theorem Canonical.powerUp (h : Canonical s) : Canonical s.powerUp := by
  unfold State.powerUp
  exact .ite h.frame h

theorem Canonical.execPowerOn (h : Canonical s) : StaysCanonical (execPowerOn s) := by
  unfold Machine.execPowerOn
  exact .next (.ite h h.frame.powerUp)

theorem Canonical.restart (h : Canonical s) {d} : Canonical (s.restart d) := by
  unfold State.restart
  refine .ite h ?_
  extract_lets s1
  have h1 : Canonical s1 := .ite h h.dieOff
  exact h1.frame

theorem Canonical.execDieRestart (h : Canonical s) {d} : StaysCanonical (execDieRestart d s) := by
  unfold Machine.execDieRestart
  exact .next (.ite h h.restart)

theorem Canonical.listLost (h : Canonical s) {d} : Canonical (s.listLost d) := by
  unfold State.listLost
  split
  · exact h
  · exact h.journalNote.frame

theorem Canonical.execBootVerify (h : Canonical s) : StaysCanonical (execBootVerify s) := by
  unfold Machine.execBootVerify
  exact .ite (.next h) (.next (.ite h.drawn.frame.listLost h.drawn.frame))

theorem Canonical.execBootScrub (h : Canonical s) : StaysCanonical (execBootScrub s) :=
  .ite (.next h) (.next ⟨Memory.filter_wf _ _ h.1, h.2⟩)

theorem Canonical.execModeChangeEffect (h : Canonical s) : StaysCanonical (execModeChangeEffect s) := by
  unfold Machine.execModeChangeEffect
  split
  · exact .next h
  · exact .ite (.next h) (.next h.frame)

theorem Canonical.endWindow (h : Canonical s) {watts} : Canonical (s.endWindow watts) := h

theorem Canonical.execBalancedWindowEnd (h : Canonical s) {watts} : StaysCanonical (execBalancedWindowEnd watts s) := by
  unfold Machine.execBalancedWindowEnd
  exact .next (.ite h.endWindow h)

theorem Canonical.setTemp (h : Canonical s) {d t} : Canonical (s.setTemp d t) := h

theorem Canonical.heatOff (h : Canonical s) {d} : Canonical (s.heatOff d) := by
  unfold State.heatOff
  exact h.frame.powerOff

theorem Canonical.thermal (h : Canonical s) {d t} : Canonical (s.thermal d t) := by
  unfold State.thermal
  exact .ite h.setTemp.heatOff (.ite (.ite h.setTemp h.setTemp.frame) (.ite h.setTemp.frame h.setTemp))

theorem Canonical.execThermalThrottle (h : Canonical s) {d temp} : StaysCanonical (execThermalThrottle d temp s) := by
  unfold Machine.execThermalThrottle
  exact .next (.ite h h.thermal)

theorem Canonical.execThermalUnthrottle (h : Canonical s) {d temp} :
    StaysCanonical (execThermalUnthrottle d temp s) := by
  unfold Machine.execThermalUnthrottle
  exact .next (.ite h h.thermal)

theorem Canonical.execThermalShutdown (h : Canonical s) {d temp} : StaysCanonical (execThermalShutdown d temp s) := by
  unfold Machine.execThermalShutdown
  exact .next (.ite h h.thermal)

theorem Canonical.execThermalRestart (h : Canonical s) {d temp} : StaysCanonical (execThermalRestart d temp s) := by
  unfold Machine.execThermalRestart
  exact .next (.ite h (.ite (.ite h.setTemp h.setTemp.frame.powerUp) h.setTemp.frame.restart))

/-! ### Deadlock -/

theorem Canonical.sendProbe (h : Canonical s) {p from_ goal link rt} :
    Canonical (s.sendProbe p from_ goal link rt) := by
  unfold State.sendProbe
  exact h.post.frame

theorem Canonical.execHoldCountExpiry (h : Canonical s) : StaysCanonical (execHoldCountExpiry s) := by
  unfold Machine.execHoldCountExpiry
  dsimp only
  refine .ite (.next h) ?_
  split
  · exact .next h.modElem
  · exact .next h.modElem.sendProbe

theorem Canonical.deadlock (h : Canonical s) {p} : Canonical (s.deadlock p) := h.modElem.raiseArgs

theorem Canonical.execProbeHop (h : Canonical s) : StaysCanonical (execProbeHop s) := by
  unfold Machine.execProbeHop
  dsimp only
  refine .ite (.next h) (.ite (.ite (.next h.frame.deadlock) (.next h.frame)) (.ite (.next h.frame) ?_))
  split
  · exact .next h.frame
  · exact .next h.frame.sendProbe

theorem Canonical.execFramedryDetect (h : Canonical s) : StaysCanonical (execFramedryDetect s) := by
  unfold Machine.execFramedryDetect
  dsimp only
  split
  · exact .next h
  · exact .next h.modRegion.raiseArgs

theorem Canonical.execStarvedDetect (h : Canonical s) : StaysCanonical (execStarvedDetect s) := by
  unfold Machine.execStarvedDetect
  exact .ite (.next h) (.next h.modLoad.raiseArgs)

/-! ### Cycles -/

theorem Canonical.elemCycle (h : Canonical s) {e} : Canonical (s.elemCycle e) := by
  unfold State.elemCycle
  exact .foldl h.modElem fun _ _ h => h.lutStep

theorem Canonical.modeDue (h : Canonical s) : Canonical s.modeDue := by
  unfold State.modeDue
  split
  · exact .ite h.frame h
  · exact h

theorem Canonical.windowDue (h : Canonical s) : Canonical s.windowDue := by
  unfold State.windowDue
  exact .ite h.endWindow.drawn h

theorem Canonical.softError (h : Canonical s) : Canonical s.softError := by
  unfold State.softError
  exact .ite h.frame h.drawn

theorem Canonical.execStallCounterCycle (h : Canonical s) : StaysCanonical (execStallCounterCycle s) := by
  unfold Machine.execStallCounterCycle
  extract_lets s0 s1 s2 st
  have h0 : Canonical s0 := h.modeDue.windowDue
  have h1 : Canonical s1 := .foldl h0 fun _ _ h => h.elemCycle
  have h2 : Canonical s2 := .foldl h1 fun _ _ h => .ite h.modDie h
  have ht : Canonical st := h2.softError
  clear_value st
  exact .next (Canonical.ownDue ht.frame)

/-! ### Placement -/

theorem Canonical.execLaunchPlace (h : Canonical s) : StaysCanonical (execLaunchPlace s) := by
  unfold Machine.execLaunchPlace
  dsimp only
  refine .ite (.next h) ?_
  split
  · exact .next h.endLoad
  · exact .next h.modDie.modLoad.frame

theorem Canonical.writeSpcfg (h : Canonical s) {lid} : Canonical (s.writeSpcfg lid) := by
  unfold State.writeSpcfg
  exact .foldl h fun _ _ h => h.drawn.frame

theorem Canonical.claimDmas (h : Canonical s) {lid} : Canonical (s.claimDmas lid) := by
  unfold State.claimDmas
  exact .foldl h fun _ _ h => h.frame

theorem Canonical.loadShadows (h : Canonical s) {lid} : Canonical (s.loadShadows lid) := by
  unfold State.loadShadows
  exact .foldl h fun _ _ h => h.modRegion

theorem Canonical.execLaunchLoad (h : Canonical s) : StaysCanonical (execLaunchLoad s) := by
  unfold Machine.execLaunchLoad
  dsimp only
  refine .ite (.next h) ?_
  split
  · exact .next h.loadShadows.writeSpcfg.claimDmas.modLoad
  · split
    · exact .next h.endLoad
    · exact .next h

theorem Canonical.execLaunchStart (h : Canonical s) : StaysCanonical (execLaunchStart s) := by
  unfold Machine.execLaunchStart
  exact .ite (.next h) (.next (.foldl h (fun _ _ h => h.modRegion)))

/-! ### Relocation -/

theorem Canonical.relocEntries (h : Canonical s) {r q} : Canonical (s.relocEntries r q) := by
  unfold State.relocEntries
  exact .foldl h (fun _ _ h => .foldl h (fun _ _ h => .ite h.wr h))

/-! ### Preemption -/

theorem Canonical.pmRefuse (h : Canonical s) {d} : Canonical (s.pmRefuse d) := h.modDie

theorem Canonical.dropProbes (h : Canonical s) {lid} : Canonical (s.dropProbes lid) := h

theorem Canonical.withdrawLoad (h : Canonical s) {lid} : Canonical (s.withdrawLoad lid) := by
  unfold State.withdrawLoad
  exact .foldl h.dropProbes fun _ _ h => h.modRegion

theorem Canonical.stopLoad (h : Canonical s) {lid} : Canonical (s.stopLoad lid) := by
  unfold State.stopLoad
  exact .foldl h.withdrawLoad fun _ _ h => h.stopOn

theorem Canonical.modPm (h : Canonical s) {d f} : Canonical (s.modPm d f) := h.modDie

theorem Canonical.setEsc (h : Canonical s) {d} : Canonical (s.setEsc d) := h.modDie

theorem Canonical.parkBegins (h : Canonical s) {d lid} :
    Canonical (s.parkBegins d lid) := h.withdrawLoad.notifyDies.modPm

theorem Canonical.cutBegins (h : Canonical s) {lid} : Canonical (s.cutBegins lid) := by
  unfold State.cutBegins
  extract_lets s1 s2 s3
  have h1 : Canonical s1 := h.setClosed
  have h2 : Canonical s2 := by
    unfold s2
    split
    · exact h1
    · exact h1.drawn.openRound
  have h3 : Canonical s3 := h2.frame
  exact h3.settleRound

theorem Canonical.pmBegin (h : Canonical s) {d} : Canonical (s.pmBegin d) := by
  unfold State.pmBegin
  split
  · exact h
  · refine .ite h ?_
    dsimp only
    refine .ite (.ite h.modPm h.modDie.pmRefuse) (.ite h.modPm.modPm ?_)
    split
    · exact .ite h.modPm.setEsc.parkBegins h.modPm.setClosed
    · exact h.modPm.parkBegins
    · exact h.modPm.cutBegins

theorem Canonical.pmWrite (h : Canonical s) {d v owed} : Canonical (s.pmWrite d v owed) := by
  unfold State.pmWrite
  exact .ite h (.ite h.pmRefuse (.ite h.modDie (.ite h.modDie.modDie.pmBegin h.pmRefuse)))

theorem Canonical.pmOwed (h : Canonical s) {d p} : Canonical (s.pmOwed d p) := by
  unfold State.pmOwed
  exact .ite h h.drawn.modDie.pmWrite.modPm

theorem Canonical.pmEvent (h : Canonical s) {d v} : Canonical (s.pmEvent d v) := by
  unfold State.pmEvent
  split
  · exact .ite h.pmBegin (.ite h.parkBegins h)
  · split
    · exact .ite h.pmOwed h.pmWrite
    · exact h.pmWrite

theorem Canonical.execPreemptDrain (h : Canonical s) {d v} : StaysCanonical (execPreemptDrain d v s) := by
  unfold Machine.execPreemptDrain
  exact .next (.ite h.pmEvent h)

theorem Canonical.execPreemptPark (h : Canonical s) {d v} : StaysCanonical (execPreemptPark d v s) := by
  unfold Machine.execPreemptPark
  exact .next (.ite h.pmEvent h)

theorem Canonical.execPreemptParkAtCut (h : Canonical s) {d v} : StaysCanonical (execPreemptParkAtCut d v s) := by
  unfold Machine.execPreemptParkAtCut
  exact .next (.ite h.pmEvent h)

theorem Canonical.execPreemptRestore (h : Canonical s) {d v} : StaysCanonical (execPreemptRestore d v s) := by
  unfold Machine.execPreemptRestore
  exact .next (.ite h.pmEvent h)

theorem Canonical.saveNow (h : Canonical s) {d p} : Canonical (s.saveNow d p) := by
  unfold State.saveNow
  exact h.modPm.frame

theorem Canonical.execPreemptQuiesced (h : Canonical s) : StaysCanonical (execPreemptQuiesced s) := by
  unfold Machine.execPreemptQuiesced
  dsimp only
  split
  · exact .next h
  · exact .ite (.next h) (.next h.stopLoad.saveNow)

theorem Canonical.execPreemptWithdrawalEnd (h : Canonical s) : StaysCanonical (execPreemptWithdrawalEnd s) := by
  unfold Machine.execPreemptWithdrawalEnd
  dsimp only
  split
  · exact .next h
  · exact .ite (.next h) (.next h.saveNow)

theorem Canonical.execPreemptEscalate (h : Canonical s) : StaysCanonical (execPreemptEscalate s) := by
  unfold Machine.execPreemptEscalate
  dsimp only
  split
  · exact .next h
  · exact .ite (.next h) (.next h.setEsc.parkBegins)

theorem Canonical.execPreemptSaveComplete (h : Canonical s) : StaysCanonical (execPreemptSaveComplete s) := by
  unfold Machine.execPreemptSaveComplete
  dsimp only
  split
  · exact .next h
  · exact .ite (.next h) (.ite (.next h.modDie.frame.modLoad)
      (.next h.modDie.frame.discardLoad.modLoad.enqueueLaunch))

theorem Canonical.clearMt (h : Canonical s) {q lo hi} :
    Canonical (s.clearMt q lo hi) := ⟨Tbl.wf_clearRange _ _ _ h.1, h.2⟩

theorem Canonical.restoreSquares (h : Canonical s) {im r} : Canonical (s.restoreSquares im r) := by
  unfold State.restoreSquares
  extract_lets rids bare old s0 s1 s2 s3 s4 s5
  have h0 : Canonical s0 := .foldl h fun _ _ h => h.modElem
  have h1 : Canonical s1 := .foldl h0 fun _ _ h => h.modElem
  have h2 : Canonical s2 := .foldl h1 fun _ _ h => h.modCt
  have h3 : Canonical s3 := h2.frame
  have h4 : Canonical s4 := by
    refine .foldl h3 fun t p ht => ?_
    exact (Canonical.ite ht.modMt.clearMt.clearMt (.ite ht.modMt.clearMt.clearMt ht.modMt.clearMt)).frame
  have h5 : Canonical s5 := ⟨Memory.foldl_put_wf _ _ _ _ h4.1, h4.2⟩
  exact .foldl h5 fun _ _ h => h.relocEntries

theorem Canonical.restoreLoad (h : Canonical s) {im r} : Canonical (s.restoreLoad im r) := by
  unfold State.restoreLoad
  extract_lets s1 s2 rids clusterAt
  have h1 : Canonical s1 := .foldl h fun _ _ h => h.modRegion
  have h2 : Canonical s2 := h1.modLoad
  exact h2.frame

theorem Canonical.unparkAll (h : Canonical s) {lid} : Canonical (s.unparkAll lid) := by
  unfold State.unparkAll
  exact .foldl h fun _ _ h => h.modCt.uncharge.giveBack

theorem Canonical.resume (h : Canonical s) {lid} : Canonical (s.resume lid) := by
  unfold State.resume
  extract_lets rids s1
  have h1 : Canonical s1 := .foldl h fun _ _ h => h.modRegion
  exact h1.frame

theorem Canonical.execPreemptRestoreComplete (h : Canonical s) : StaysCanonical (execPreemptRestoreComplete s) := by
  unfold Machine.execPreemptRestoreComplete
  dsimp only
  split
  · exact .next h
  · exact .ite (.next h) (.next h.restoreSquares.restoreLoad.unparkAll.resume.pump.modDie)

theorem Canonical.execPolicyPreemption (h : Canonical s) : StaysCanonical (execPolicyPreemption s) := by
  unfold Machine.execPolicyPreemption
  exact .next (.foldl h (fun _ _ h => h.modDie))

/-! ### DMA -/

theorem Canonical.modDq (h : Canonical s) {k f} : Canonical (s.modDq k f) := h

theorem Canonical.execDqptrCiWrite (h : Canonical s) {k ci} : StaysCanonical (execDqptrCiWrite k ci s) := by
  unfold Machine.execDqptrCiWrite
  exact .next h.modDq

theorem Canonical.execDqctlWrite (h : Canonical s) {k v} : StaysCanonical (execDqctlWrite k v s) := by
  unfold Machine.execDqctlWrite
  exact .next h.modDq

theorem Canonical.hostPut (h : Canonical s) {a b} : Canonical (s.hostPut a b) :=
  ⟨h.1, Memory.foldl_put_wf _ _ _ _ h.2.1, h.2.2⟩

theorem Canonical.outsideBytes (h : Canonical s) {n} : Canonical (s.outsideBytes n).2 := h

theorem Canonical.dqDiscard (h : Canonical s) {k fl} : Canonical (s.dqDiscard k fl) := h.popIo.raiseAway

theorem Canonical.execDmaDataToken (h : Canonical s) : StaysCanonical (execDmaDataToken s) := by
  unfold Machine.execDmaDataToken
  dsimp only
  split
  · exact .next h
  · exact .ite (.next h) (.ite (.next h.dqDiscard) (.ite (.next h) (.next h.popIo.hostPut.modDq)))

theorem Canonical.dmaView (h : Canonical s) {lid} : Canonical (s.dmaView lid).2 := h.modRegion

theorem Canonical.dmaAsk (h : Canonical s) {k lid va n data p} (e : s.dmaAsk k lid va n data = some p) :
    Canonical p.1 := by
  unfold State.dmaAsk at e
  extract_lets acc l first req s1 at e
  have h1 : Canonical s1 := .foldl h fun _ _ h => h.frame
  clear_value s1
  obtain ⟨_, e⟩ := Option.ite_none_left_eq_some.mp e
  cases e
  exact h1.pump

theorem Canonical.freeCode (h : Canonical s) : Canonical (s.freeCode).2 := h.drawn

theorem Canonical.modCmd (h : Canonical s) {k f} : Canonical (s.modCmd k f) := h.modDq

theorem Canonical.dmaGo (h : Canonical s) {k c va n data} : Canonical (s.dmaGo k c va n data) := by
  unfold State.dmaGo
  split
  · exact h.modDq
  · rename_i e
    exact (h.dmaAsk e).modDq

theorem Canonical.dmaFetch (h : Canonical s) {k fl} : Canonical (s.dmaFetch k fl) := by
  unfold State.dmaFetch
  exact .ite h.popIo.modDq h.popIo.dmaGo

theorem Canonical.dmaTook (h : Canonical s) {k c b} : Canonical (s.dmaTook k c b) := by
  unfold State.dmaTook
  dsimp only
  refine .ite h.modCmd ?_
  split
  · exact h.hostPut.modCmd
  · exact h.modCmd
  · exact (Canonical.ite h.countSync h).modCmd

theorem Canonical.dmaBad (h : Canonical s) {k c kind word} : Canonical (s.dmaBad k c kind word) := by
  unfold State.dmaBad
  exact .ite (.ite h.noteUe.modCmd h.noteUe.freeCode.modCmd) h.modCmd

theorem Canonical.dmaPoll (h : Canonical s) {k c} : Canonical (s.dmaPoll k c) := by
  unfold State.dmaPoll
  dsimp only
  split
  · exact h
  · exact h.engDrop.modCmd.dmaBad
  · exact h.engDrop.modCmd.dmaTook

theorem Canonical.frameIn (h : Canonical s) {k c} : Canonical (s.frameIn k c) := h.drawn.outsideBytes.modCmd

theorem Canonical.dmaMove (h : Canonical s) {k c} : Canonical (s.dmaMove k c) := by
  unfold State.dmaMove
  dsimp only
  refine .ite h.dmaPoll (.ite h.modCmd (.ite h.modCmd ?_))
  split
  · exact .ite h.modCmd (.ite h.drawn.modCmd h.drawn.outsideBytes.dmaGo)
  · exact .ite h.modCmd (.ite h.drawn.modCmd h.drawn.dmaGo)
  · exact .ite h.frame.modCmd h.dmaGo
  · exact .ite (.ite h.drawn.frameIn h.drawn) (.ite h.modCmd h.dmaGo)

theorem Canonical.execDmaCommandToken (h : Canonical s) : StaysCanonical (execDmaCommandToken s) := by
  unfold Machine.execDmaCommandToken
  dsimp only
  split
  · exact .next (.ite h h.dmaMove)
  · exact .next h
  · exact .ite (.next h) (.ite (.next h.dqDiscard) (.ite (.next h) (.next h.dmaFetch)))

theorem Canonical.execDmaCommandComplete (h : Canonical s) : StaysCanonical (execDmaCommandComplete s) := by
  unfold Machine.execDmaCommandComplete
  dsimp only
  split
  · exact .next h
  · exact .ite (.next h) (.ite (.next h.modDq.sendIo) (.next h.modDq))

theorem Canonical.execEthernetLinkChange (h : Canonical s) {port up} :
    StaysCanonical (execEthernetLinkChange port up s) := by
  unfold Machine.execEthernetLinkChange
  exact .next h.frame

/-! ### Scale-up ports -/

theorem Canonical.portOff (h : Canonical s) {p} : Canonical (s.portOff p) := h

theorem Canonical.portOn (h : Canonical s) {p} : Canonical (s.portOn p) := by
  unfold State.portOn
  exact h.portOff.frame.onLink

theorem Canonical.execScaleupLinkUp (h : Canonical s) {port pkg peer} :
    StaysCanonical (execScaleupLinkUp port pkg peer s) := by
  unfold Machine.execScaleupLinkUp
  exact .next (.ite h h.frame.portOn)

theorem Canonical.execScaleupPortDown (h : Canonical s) {port failed} :
    StaysCanonical (execScaleupPortDown port failed s) := by
  unfold Machine.execScaleupPortDown
  exact .next h.frame.portOff

theorem Canonical.sendPort (h : Canonical s) {p fl r} (e : s.sendPort p fl = some r) : Canonical r.1 := by
  unfold State.sendPort at e
  dsimp only at e
  split at e
  · cases e
    exact h.frame.onLink
  · cases e

theorem Canonical.portAnswer (h : Canonical s) {p dir rqid stat} : Canonical (s.portAnswer p dir rqid stat).1 := by
  unfold State.portAnswer
  exact h.frame.onLink

theorem Canonical.execXsendRoute (h : Canonical s) : StaysCanonical (execXsendRoute s) := by
  unfold Machine.execXsendRoute
  extract_lets id r io v w pkg ing rt
  refine .ite (.next h) ?_
  split
  · exact .next h.replyFails
  · dsimp only
    refine .ite (.next h.post.frame) (.ite ?_ ?_)
    · split
      · exact .next h
      · rename_i k
        exact .next (h.drawn.sendPort k).frame
    · split
      · split
        · exact .next h.drawn
        · exact .next h.drawn.portAnswer.frame
      · exact .next (.ite h.replyVal h.replyFails)

theorem Canonical.ingress (h : Canonical s) {side n val eod seq rt} : Canonical (s.ingress side n val eod seq rt) := by
  unfold State.ingress
  exact .ite h.frame h

theorem Canonical.execIngressDelivery (h : Canonical s) {ing val eod seq rt} :
    StaysCanonical (execIngressDelivery ing val eod seq rt s) := by
  unfold Machine.execIngressDelivery
  split
  · exact .ite (.next h) (.next h.drawn.ingress.portAnswer)
  · split
    · exact .next h
    · exact .ite (.next h) (.next h.popIo.ingress)

/-! ### Registers -/

theorem Canonical.xinvClear (h : Canonical s) {d w} : Canonical (s.xinvClear d w) := h

theorem Canonical.xinvWrite (h : Canonical s) {d v} : Canonical (s.xinvWrite d v) := by
  unfold State.xinvWrite
  exact .ite h (.ite h.modDie.xinvClear h.modDie)

theorem Canonical.execXinvPage (h : Canonical s) {d v} : StaysCanonical (execXinvPage d v s) := by
  unfold Machine.execXinvPage
  exact .next (.ite h.xinvWrite h)

theorem Canonical.execXinvAll (h : Canonical s) {d v} : StaysCanonical (execXinvAll d v s) := by
  unfold Machine.execXinvAll
  exact .next (.ite h.xinvWrite h)

theorem Canonical.execXinvComplete (h : Canonical s) : StaysCanonical (execXinvComplete s) := by
  unfold Machine.execXinvComplete
  exact .ite (.next h) (.next h.xinvClear.modDie)

theorem Canonical.pkgWrite (h : Canonical s) {n} : Canonical (s.pkgWrite n) := by
  unfold State.pkgWrite
  exact .ite (.foldl h.frame (fun _ _ h => h.portOff)) h.frame

theorem Canonical.regSet (h : Canonical s) {d num inst v} : Canonical (s.regSet d num inst v) := by
  unfold State.regSet
  dsimp only
  split
  · exact h.modDie
  · exact h.modDie
  · exact h.xinvWrite
  · exact h.modDie
  · exact h.modDie
  · exact h.modDie
  · exact h.modDie
  · exact h.pmWrite
  · exact h.modDie
  · exact h.modDie
  · exact h.modDie
  · exact h.modDq
  · exact h.modDq
  · exact h.modDq
  · exact h.frame
  · exact h.pkgWrite
  · exact h.frame
  · exact h

theorem Canonical.requester (h : Canonical s) {side req} : Canonical (s.requester side req) := by
  unfold State.requester
  exact .ite h h.frame

theorem Canonical.barRead (h : Canonical s) {side req off} : Canonical (s.barRead side req off).1 := by
  unfold State.barRead
  split
  · exact h
  · exact h.requester

theorem Canonical.barWrite (h : Canonical s) {side req off v} : StaysCanonical (s.barWrite side req off v) := by
  unfold State.barWrite
  extract_lets s1
  have h1 : Canonical s1 := .ite h h.requester
  split
  · exact .next h1
  · dsimp only
    split
    · exact .next h1.frame
    · exact .next h1.frame
    · exact .next h1.frame
    · exact .next h1.frame
    · exact h1.execOwnClaim
    · split
      · exact h1.execOwnRenew
      · exact h1.execOwnOffer
      · exact h1.execOwnAccept
      · exact h1.execOwnRelease
    · exact .next h1

theorem Canonical.execRegisterWrite (h : Canonical s) {d num inst v} :
    StaysCanonical (execRegisterWrite d num inst v s) := by
  unfold Machine.execRegisterWrite
  exact .ite (.ite h.barWrite (.next h)) (.ite (.next h) (.next h.regSet))

/-! ### Host requests -/

theorem Canonical.putReply (h : Canonical s) {c ep status data} : Canonical (s.putReply c ep status data) := by
  unfold State.putReply
  exact h.hostPut.frame

theorem Canonical.reply (h : Canonical s) {c ep status data} : Canonical (s.reply c ep status data) := by
  unfold State.reply
  dsimp only
  exact .ite h.putReply h.postMgmt.frame

theorem Canonical.unpend (h : Canonical s) {c ep op} : Canonical (s.unpend c ep op) := by
  unfold State.unpend
  split
  · exact h.frame
  · exact h

theorem Canonical.hostOp (h : Canonical s) {c ep op owned f} (hf : ∀ t, Canonical t → (f t).Canonical) :
    Canonical (s.hostOp c ep op owned f) :=
  .ite h (.ite h.unpend.reply (.ite h.unpend.reply (Canonical.reply (hf _ h.unpend))))

theorem Canonical.execDiscRead (h : Canonical s) {c off} : StaysCanonical (execDiscRead c off s) := by
  unfold Machine.execDiscRead
  exact .next (h.hostOp fun _ h => h)

theorem Canonical.execJrnEntry (h : Canonical s) {c seq} : StaysCanonical (execJrnEntry c seq s) := by
  unfold Machine.execJrnEntry
  exact .next (h.hostOp fun _ h => .ite h h)

theorem Canonical.execJrnPtrs (h : Canonical s) {c} : StaysCanonical (execJrnPtrs c s) := by
  unfold Machine.execJrnPtrs
  exact .next (h.hostOp fun _ h => h)

theorem Canonical.execRegRead (h : Canonical s) {c num inst} : StaysCanonical (execRegRead c num inst s) :=
  .next (h.hostOp fun _ h => .ite h (.ite h (Canonical.ite h.drawn h)))

theorem Canonical.execLaunchCmd (h : Canonical s) {c cmd} : StaysCanonical (execLaunchCmd c cmd s) := by
  refine .next (h.hostOp fun t ht => ?_)
  split
  · rename_i k
    exact ht.accept k
  · exact ht

theorem Canonical.execImgWrite (h : Canonical s) {c off len data} : StaysCanonical (execImgWrite c off len data s) :=
  .next (h.hostOp fun _ ht => .ite ht ⟨ht.1, ht.2.1, Memory.foldl_put_wf _ _ _ _ ht.2.2⟩)

theorem Canonical.execImgErase (h : Canonical s) {c} : StaysCanonical (execImgErase c s) :=
  .next (h.hostOp fun _ ht => ⟨ht.1, ht.2.1, rfl⟩)

theorem Canonical.execRegWrite (h : Canonical s) {c num inst v} : StaysCanonical (execRegWrite c num inst v s) := by
  unfold Machine.execRegWrite
  exact .next (h.hostOp fun _ h => .ite h (.ite h (.ite h h.regSet)))

theorem Canonical.execImgCommit (h : Canonical s) {c} : StaysCanonical (execImgCommit c s) := by
  unfold Machine.execImgCommit
  exact .next (h.hostOp fun _ h => .ite h.frame h)

theorem Canonical.execImgPstat (h : Canonical s) {c} : StaysCanonical (execImgPstat c s) := by
  unfold Machine.execImgPstat
  exact .next (h.hostOp fun _ h => h)

theorem Canonical.execImgPmode (h : Canonical s) {c mode} : StaysCanonical (execImgPmode c mode s) := by
  unfold Machine.execImgPmode
  exact .next (h.hostOp fun _ h => .ite h h.frame)

theorem Canonical.attest (h : Canonical s) {addr b} : (attest s addr b).Canonical := h.hostPut

theorem Canonical.execAttQuote (h : Canonical s) {c nonce addr} : StaysCanonical (execAttQuote c nonce addr s) := by
  unfold Machine.execAttQuote
  exact .next (h.hostOp fun _ h => h.attest)

theorem Canonical.execAttCert (h : Canonical s) {c addr} : StaysCanonical (execAttCert c addr s) := by
  unfold Machine.execAttCert
  exact .next (h.hostOp fun _ h => h.attest)

theorem Canonical.sendHreq (h : Canonical s) {r} : Canonical (s.sendHreq r) := by
  unfold State.sendHreq
  exact .ite h.postMgmt.frame h.frame

theorem Canonical.execHostRequest (h : Canonical s) : StaysCanonical (execHostRequest s) := by
  unfold Machine.execHostRequest
  dsimp only
  split
  · exact .ite (.next h) (.next h.outsideBytes.frame.sendHreq)
  · split
    · exact .next h
    · refine .ite (.next h) ?_
      split
      · exact .next h.frame.putReply
      · exact .ite (.next h.frame.putReply) (.next (.ite h h.frame.reply))

/-! ### Enabled steps -/

theorem Canonical.choose (h : Canonical s) {l} : Canonical (choose s l).2 := by
  unfold Machine.choose
  split
  · exact h
  · exact h
  · exact h.drawn

/-! ### Division -/

theorem Canonical.divRem (h : Canonical s) {v g} : StaysCanonical (divRem s v g) := by
  unfold Machine.divRem
  exact .ite h.fails h.finish1

theorem Canonical.execPxor (h : Canonical s) {r} : StaysCanonical (execPxor r s) := by
  unfold Machine.execPxor
  exact .ite h.fails h.finish2

/-! ### All instructions -/

theorem Canonical.exec (h : Canonical s) {i} : StaysCanonical (exec i s) := by
  cases i with
  | id | const | merge | pick | eodt | fanout | leave => exact h.finish
  | mergeo => exact h.mergeoNext.finish
  | pack2 | gettag | add | sub | mul | mulh | min | max | abs | neg | addsat | subsat | avg | cmp | clamp | and | or
  | xor | andn | not | shl | shr | sra | rotl | clz | ctz | popc | bext | bins | fadd | fsub | fmul | fma | fmin | fmax
  | fabs | fneg | fcmp | fdiv | fsqrt | frcp | frsqrt | frnd | fclass | fcsgn | cvt | cvtfi | cvtif | cvtsr | vswap2
  | vperm | vbcast | vins | vext | vpack | vmask | vsel | vbcmp | fsin | fcos | fexp2 | flog2 | fexp | ftanh | fsigm
  | hash64 | cmbadd | cmband | cmbor | cmbxor | cmbmin | cmbmax | cmbfaddx | cmbfmin | cmbfmax | cmbcnt | cmbfadd
  | time => exact h.finish1
  | unpk2 | widen | clmul | vunpk | fsincos => exact h.finish2
  | div | rem => exact h.divRem
  | lut6 => exact h.modElem.finish1
  | tmma | tacc | tld | tst | tadd | tmul | tmax | tscale | texp | tred | ttrans | tcvt | tfill | tcmpb | tbias | tzero
  | tgath | tscat | tcopy =>
    unfold Machine.exec
    exact h.enterMacro
  | tslice | href | hdrop | hinfo | tget | tset | tfull | tempty => exact h.tileNode
  | ld | st | ldn | stn | ild | ist | iclr | ldsw => exact h.memNode
  | qpush | qpop | qresv | qpub | qsteal => exact h.queueOp
  | bari | barv | barlog => exact h.barrierOp
  | stkbind | ktsbind => exact h.bindOp
  | fret | fkill => exact h.askFaults
  | quiesce => exact h.askMt
  | sink r => exact h.execSink (r := r)
  | steer => exact h.execSteer
  | gate => exact h.execGate
  | rpt => exact h.execRpt
  | seq => exact h.execSeq
  | eods => exact h.execEods
  | falloc r => exact h.execFalloc (r := r)
  | ffree => exact h.execFfree
  | iter r => exact h.execIter (r := r)
  | call r => exact h.execCall (r := r)
  | ret => exact h.execRet
  | ldfx => exact h.execLdfx
  | stfx => exact h.execStfx
  | loopin r => exact h.execLoopin (r := r)
  | loopout => exact h.execLoopout
  | spawn r => exact h.execSpawn (r := r)
  | exitw r => exact h.execExitw (r := r)
  | wchk => exact h.execWchk
  | settag => exact h.execSettag
  | fxinfo => exact h.execFxinfo
  | pxor => exact h.execPxor
  | vsum => exact h.execVsum
  | vdot => exact h.execVdot
  | lutsm => exact h.execLutsm
  | lutld => exact h.execLutld
  | halloc => exact h.execHalloc
  | alr => exact h.execAlr
  | pref => exact h.execPref
  | swset => exact h.execSwset
  | wfence => exact h.execWfence
  | swadd => exact h.execSwadd
  | cmbtacc => exact h.execCmbtacc
  | qarm => exact h.execQarm
  | qstat => exact h.execQstat
  | agcfg => exact h.execAgcfg
  | agrun => exact h.execAgrun
  | mcgset => exact h.execMcgset
  | xsend => exact h.execXsend
  | trap => exact h.execTrap
  | park => exact h.execPark
  | unpark => exact h.execUnpark
  | mark => exact h.execMark
  | pgrd => exact h.execPgrd
  | pgwr => exact h.execPgwr
  | stcnt => exact h.execStcnt
  | ecall => exact h.execEcall
  | cfgld => exact h.execCfgld
  | cfgcmt => exact h.execCfgcmt
  | gsrc => exact h.execGsrc
  | halt r => exact h.execHalt (r := r)
  | sxmac => exact h.execSxmac
  | sxpass => exact h.execSxpass
  | sxacc => exact h.execSxacc
  | sxout => exact h.execSxout
  | sxwld => exact h.execSxwld
  | sxmov => exact h.execSxmov
  | sxloop => exact h.execSxloop
  | sxnop => exact h.execSxnop
  | preemptDrain => exact h.execPreemptDrain
  | preemptPark => exact h.execPreemptPark
  | preemptParkAtCut => exact h.execPreemptParkAtCut
  | preemptRestore => exact h.execPreemptRestore
  | dqptrCiWrite => exact h.execDqptrCiWrite
  | dqctlWrite => exact h.execDqctlWrite
  | ingressDelivery => exact h.execIngressDelivery
  | mplFrameReceive => exact h.execMplFrameReceive
  | linkTraining => exact h.execLinkTraining
  | scaleupLinkUp => exact h.execScaleupLinkUp
  | discRead => exact h.execDiscRead
  | launchCmd => exact h.execLaunchCmd
  | jrnEntry => exact h.execJrnEntry
  | jrnPtrs => exact h.execJrnPtrs
  | regRead => exact h.execRegRead
  | regWrite => exact h.execRegWrite
  | imgWrite => exact h.execImgWrite
  | imgCommit => exact h.execImgCommit
  | imgErase => exact h.execImgErase
  | imgPstat => exact h.execImgPstat
  | imgPmode => exact h.execImgPmode
  | attQuote => exact h.execAttQuote
  | attCert => exact h.execAttCert
  | ownClaim => exact h.execOwnClaim
  | ownRenew => exact h.execOwnRenew
  | ownOffer => exact h.execOwnOffer
  | ownAccept => exact h.execOwnAccept
  | ownRelease => exact h.execOwnRelease
  | xinvPage => exact h.execXinvPage
  | xinvAll => exact h.execXinvAll
  | registerWrite => exact h.execRegisterWrite
  | dieRestart => exact h.execDieRestart
  | diePowerOff => exact h.execDiePowerOff
  | balancedWindowEnd => exact h.execBalancedWindowEnd
  | thermalThrottle => exact h.execThermalThrottle
  | thermalUnthrottle => exact h.execThermalUnthrottle
  | thermalShutdown => exact h.execThermalShutdown
  | thermalRestart => exact h.execThermalRestart
  | scaleupPortDown => exact h.execScaleupPortDown
  | ethernetLinkChange => exact h.execEthernetLinkChange
  | routerHop => exact h.execRouterHop
  | bridgeForward => exact h.execBridgeForward
  | tokenArrival => exact h.execTokenArrival
  | queueDestinationAppend => exact h.execQueueDestinationAppend
  | markerArrival => exact h.execMarkerArrival
  | externalAnswerReturn => exact h.execExternalAnswerReturn
  | rptCopy => exact h.execRptCopy
  | allocRequest => exact h.execAllocRequest
  | allocGrant => exact h.execAllocGrant
  | releaseNotice => exact h.execReleaseNotice
  | releaseComplete => exact h.execReleaseComplete
  | spillComplete => exact h.execSpillComplete
  | spillMatcherToken => exact h.execSpillMatcherToken
  | restoreStartSpontaneous => exact h.execRestoreStartSpontaneous
  | restoreComplete => exact h.execRestoreComplete
  | macroStart => exact h.execMacroStart
  | macroBoundary => exact h.execMacroBoundary
  | macroComplete => exact h.execMacroComplete
  | waveRequestArrival => exact h.execWaveRequestArrival
  | homeAccess => exact h.execHomeAccess
  | memoryReply => exact h.execMemoryReply
  | egressConfirm => exact h.execEgressConfirm
  | requestTimeout => exact h.execRequestTimeout
  | walkReadReturn => exact h.execWalkReadReturn
  | syncCountArrival => exact h.execSyncCountArrival
  | scrubWord => exact h.execScrubWord
  | agElement => exact h.execAgElement
  | agStreamComplete => exact h.execAgStreamComplete
  | copyTrigger => exact h.execCopyTrigger
  | copyElements => exact h.execCopyElements
  | copyComplete => exact h.execCopyComplete
  | handlerTokenSend => exact h.execHandlerTokenSend
  | holdCountExpiry => exact h.execHoldCountExpiry
  | probeHop => exact h.execProbeHop
  | framedryDetect => exact h.execFramedryDetect
  | starvedDetect => exact h.execStarvedDetect
  | preemptQuiesced => exact h.execPreemptQuiesced
  | preemptWithdrawalEnd => exact h.execPreemptWithdrawalEnd
  | preemptSaveComplete => exact h.execPreemptSaveComplete
  | preemptEscalate => exact h.execPreemptEscalate
  | preemptRestoreComplete => exact h.execPreemptRestoreComplete
  | policyPreemption => exact h.execPolicyPreemption
  | launchToken => exact h.execLaunchToken
  | launchCheck => exact h.execLaunchCheck
  | launchAging => exact h.execLaunchAging
  | launchDispatch => exact h.execLaunchDispatch
  | launchPlace => exact h.execLaunchPlace
  | launchLoad => exact h.execLaunchLoad
  | launchStart => exact h.execLaunchStart
  | cfgCommitFlip => exact h.execCfgCommitFlip
  | sxwldWeightToken => exact h.execSxwldWeightToken
  | converterTransfer => exact h.execConverterTransfer
  | dmaDataToken => exact h.execDmaDataToken
  | dmaCommandToken => exact h.execDmaCommandToken
  | dmaCommandComplete => exact h.execDmaCommandComplete
  | xsendRoute => exact h.execXsendRoute
  | channelRemove => exact h.execChannelRemove
  | hostRequest => exact h.execHostRequest
  | modeChangeEffect => exact h.execModeChangeEffect
  | electionWindowEnd => exact h.execElectionWindowEnd
  | leaseLapse => exact h.execLeaseLapse
  | xinvComplete => exact h.execXinvComplete
  | frread => exact h.execFrread
  | qbar => exact h.execQbar
  | xreg => exact h.execXreg
  | powerOn => exact h.execPowerOn
  | bootVerify => exact h.execBootVerify
  | bootScrub => exact h.execBootScrub
  | stallCounterCycle => exact h.execStallCounterCycle

/-! ### Issue -/

theorem Canonical.noteIssue (h : Canonical s) {lid} : Canonical (s.noteIssue lid) := by
  unfold State.noteIssue
  exact .ite h.modLoad h

theorem Canonical.raiseTable (h : Canonical s) {f detail w2} : Canonical (s.raiseTable f detail w2) := h.raiseFiring

theorem Canonical.issueHead (h : Canonical s) {e} : StaysCanonical (issueHead e s) := by
  unfold Machine.issueHead
  dsimp only
  split
  · exact .next h
  · refine .ite (.next h) (.ite (.next h.noteIssue.modElem.frame.raiseTable) ?_)
    refine .ite (.next h.noteIssue.modElem.frame.raiseTable) ?_
    split
    · exact h.noteIssue.modElem.frame.countTableCe.exec
    · exact .next h.noteIssue.modElem.frame.countTableCe.raiseFiring

theorem Canonical.ringStep (h : Canonical s) {e} : StaysCanonical (ringStep e s) := by
  unfold Machine.ringStep
  dsimp only
  refine .ite (.next h) (.ite (.next h.raiseStatic) ?_)
  split
  · exact h.countTableCe.frame.exec
  · exact .next h

theorem Canonical.issue (h : Canonical s) {e} : StaysCanonical (issue e s) := by
  unfold Machine.issue
  exact .ite h.ringStep h.issueHead

theorem Canonical.hostStore (h : Canonical s) {pa b} : Canonical (s.hostStore pa b) := by
  unfold State.hostStore
  dsimp only
  refine .ite h ?_
  split
  · exact h.noteUe
  · exact h.countCe.setBytes.eccClear

theorem Canonical.hostRead (h : Canonical s) {pa n} : Canonical (s.hostRead pa n).1 := by
  unfold State.hostRead
  dsimp only
  split
  · exact h
  · split
    · exact h.noteUe
    · exact h.countCe

theorem Canonical.perform (h : Canonical s) {w} : StaysCanonical (perform w s) := by
  unfold Machine.perform
  split
  · exact h.issue
  · exact h.frame.exec
  · exact .next h.hostStore
  · exact .next h.hostRead
  · exact .next h.barRead

/-! ### The step -/

theorem Canonical.step (h : Canonical s) : StaysCanonical (step s) := by
  unfold Machine.step
  split
  · exact h.frame.perform
  · have k := h.choose (l := enabled s)
    split
    · rename_i e; rw [e] at k; exact k.perform
    · rename_i e; rw [e] at k; exact k.perform

/-- Settles O56: whatever a step does, it ends in a state in canonical form. -/
theorem memoryStaysCanonical : Obligations.MemoryStaysCanonical := by
  unfold Obligations.MemoryStaysCanonical
  intro s t h e
  obtain ⟨u, eu, hu⟩ := Canonical.step h
  cases eu.symm.trans e
  exact hu

end Sys2Proof
end

section
/-!
The state after package reset, and what one step performs.
-/
namespace Sys2Proof
open Machine

/-- Settles O60: every table of the reset state is empty, so each entry reads as its default, and what is listed is R56's. -/
theorem resetState : Obligations.ResetState := by
  unfold Obligations.ResetState
  refine ⟨fun _ => rfl, ?elems, ?elemRegs, fun _ _ => rfl, fun _ _ => rfl, fun _ _ => rfl, ?cells, fun _ _ => rfl,
    fun _ _ => rfl, fun _ _ => rfl, ?regions, ?dies, rfl, rfl, rfl, rfl, fun _ => rfl, State.reset_mem_wf, rfl, rfl⟩
  case elems => exact fun _ _ => ⟨rfl, rfl, rfl⟩
  case elemRegs => exact fun _ => ⟨rfl, rfl, rfl⟩
  case cells => exact fun _ _ => ⟨rfl, rfl⟩
  case regions => exact fun _ => ⟨rfl, rfl, rfl⟩
  case dies => exact fun _ => ⟨rfl, rfl, rfl, rfl, rfl, rfl⟩

end Sys2Proof
end

section
/-!
Routing, merging, sequencing and repeating (R126, R130 to R135, R151), and how returned answers take their turn (R124).
-/
namespace Sys2Proof
open Machine

variable {s : State}

/-! ### Ends of a firing -/

/-- Only what `f` makes of the element's own state counts. -/
theorem modElem_congr {e : Nat} {f g : Elem → Elem} (h : f (s.elem e) = g (s.elem e)) : s.modElem e f = s.modElem e g := by
  have look : f (s.elems.look e) = g (s.elems.look e) := h
  simp only [State.modElem, Tbl.upd, look]

theorem sendFault_modElem (s : State) (e : Nat) (g : Elem → Elem) (outs : List Out) :
    (s.modElem e g).sendFault outs = s.sendFault outs := rfl

theorem dests1Ok_outs {v : RecView} (h : Dests1Ok s v) (t : Token) : s.sendFault (outs1 v t) = none :=
  (sendFault_outs1 s v t {}).trans h

theorem OnlyElem.modElem_modElem (s : State) (e : Nat) (f g : Elem → Elem) : OnlyElem e s ((s.modElem e f).modElem e g) :=
  (OnlyElem.modElem s e f).trans (OnlyElem.modElem _ e g)

/-- Where the tokens are sent, a firing that ends by `finish` behind a change of its own element adds both changes up. -/
theorem finish_modElem_changes {i : Instr} {v : RecView} {outs : List Out} {g : Elem → Elem} (h : s.sendFault outs = none)
    (e : exec i s = finish (s.modElem s.cur.elem g) v outs 0) :
    Changes i s s.cur.elem fun x => { g x with outStage := (g x).outStage ++ s.flights s.cur v outs } := by
  have ok : (s.modElem s.cur.elem g).sendFault outs = none := h
  refine ⟨_, e.trans (by simp [finish, ok]; rfl), ?_, ?_⟩
  · rw [State.send_ok _ _ _ _ _ ok]
    exact (OnlyElem.modElem_modElem s _ _ _).trans (OnlyElem.modElem _ _ _)
  · rw [State.send_ok _ _ _ _ _ ok]
    show (((State.modElem _ _ _).modElem _ _).modElem _ _).elem _ = _
    simp only [State.elem_modElem_same, BitVec.or_zero]
    rfl

theorem finishWith_ok {v : RecView} {outs : List Out} {upd : State → State} (h : s.sendFault outs = none) :
    finishWith s v outs upd =
      .next (upd (s.modElem s.cur.elem fun x => { x with outStage := x.outStage ++ s.flights s.cur v outs })) := by
  simp only [finishWith, h, s.send_ok _ _ _ _ h]
  rfl

/-! ### The predicate (R18, R126, R130) -/

theorem usedPort3_iff (op : BitVec 8) (r : D2) : usedPort3 (r.view op) = true ↔
    (r.ndest ≠ 0#2 ∧ destIsCt r.destA = true ∧ destPort r.destA = 3) ∨
    ((r.ndest = 2#2 ∨ r.ndest = 3#2) ∧ destIsCt r.destB = true ∧ destPort r.destB = 3) := by
  have two : 2 ≤ r.ndest.toNat ↔ r.ndest = 2#2 ∨ r.ndest = 3#2 := by bv_omega
  simp [usedPort3, D2.view, two]

theorem sendFault_single {o : Out} (h : s.destFault o.dest = none) : s.sendFault [o] = none := by
  simp [State.sendFault, h]

theorem steerOut_true {v : RecView} {p : Word} (h : p ≠ 0) (t : Token) :
    steerOut v p t = { dest := v.destB, second := true, tok := t } := if_pos (bne_iff_ne.mpr h)

theorem steerOut_false (v : RecView) (t : Token) : steerOut v 0 t = { dest := v.destA, second := false, tok := t } := rfl

theorem steer_sends {r : D2} {o : Out} (h : ¬ usedPort3 (r.view 0x04) = true) (hd : s.destFault o.dest = none)
    (ho : steerOut (r.view 0x04) (s.opB (r.view 0x04)) s.pass = o) : Sends (.steer r) s (r.view 0x04) [o] 0 :=
  finish_sends _ _ _ _ _ (sendFault_single hd) (ho ▸ if_neg h)

theorem gate_sends {r : D2} {outs : List Out} (h : ¬ usedPort3 (r.view 0x07) = true) (hd : s.sendFault outs = none)
    (ho : (if s.opB (r.view 0x07) != 0 then outs1 (r.view 0x07) s.pass else []) = outs) :
    Sends (.gate r) s (r.view 0x07) outs 0 :=
  finish_sends _ _ _ _ _ hd (ho ▸ if_neg h)

theorem pick_sends {r : D2} (h : Dests1Ok s (r.view 0x08)) : Sends (.pick r) s (r.view 0x08)
    (outs1 (r.view 0x08) (if s.opA != 0 then s.cur.base (if r.litp then 0 else s.cur.t1.kind) (s.opB (r.view 0x08))
      else s.cur.base s.cur.t2.kind s.opC)) 0 :=
  finish_sends _ _ _ _ _ (dests1Ok_outs h _) rfl

/-! ### Merging (R131, R132, R151) -/

/-- What the firing of a `mergeo` does to its element where a context lets held tokens leave one by one: the token `y` that
NEXT names becomes the head of the ready queue, and the context goes on behind it or closes (R132). -/
def Machine.Elem.mergeoSent (x : Elem) (f : Firing) (c : MCtx) (y : Flight) : Elem :=
  let mine := fun (k : MCtx) => k.node == f.node && k.fx == f.t0.fx.toNat
  { x with
    ctxs := if (c.sent y).closes y.tok then x.ctxs.filter fun k => !mine k
            else x.ctxs.map fun k => if mine k then c.sent y else k
    readyQ := { elem := f.elem, node := f.node, t0 := y.tok, k := (c.sent y).due.isSome.toNat } :: x.readyQ }

theorem mergeoNext_done (h : s.cur.k = 0) : s.mergeoNext = s := if_pos h

theorem mergeo_changes {r : D2} {c : MCtx} {y : Flight} (hd : Dests1Ok s (r.view 0x06)) (hk : s.cur.k ≠ 0)
    (hc : (s.elem s.cur.elem).ctxs.find? (fun k => k.node == s.cur.node && k.fx == s.cur.t0.fx.toNat) = some c)
    (hy : c.due = some y) : Changes (.mergeo r) s s.cur.elem fun x => { x.mergeoSent s.cur c y with
      outStage := x.outStage ++ s.flights s.cur (r.view 0x06) (outs1 (r.view 0x06) s.pass) } := by
  have next : s.mergeoNext = s.modElem s.cur.elem fun x => x.mergeoSent s.cur c y := by
    rw [State.mergeoNext, if_neg hk]
    refine modElem_congr ?_
    simp only [hc, hy]
    rfl
  have e : exec (.mergeo r) s = finish (s.modElem s.cur.elem fun x => x.mergeoSent s.cur c y) (r.view 0x06)
      (outs1 (r.view 0x06) s.pass) 0 := by
    rw [← next]; rfl
  exact finish_modElem_changes (dests1Ok_outs hd _) e

/-- Settles O12: each instruction ends by `finish`, and what it hands over is read off its predicate. -/
theorem routingMergingLeaving : Obligations.RoutingMergingLeaving := by
  unfold Obligations.RoutingMergingLeaving
  refine ⟨fun r s => ⟨?steerB, ?steerA, ?gatePass, ?gateDrop, ?port3, ?pickB, ?pickC⟩,
    fun s => ⟨?merge, ?mergeoOne, ?mergeoHeld, ?leave⟩⟩
  case steerB =>
    exact fun hp hb hd => steer_sends (mt (usedPort3_iff _ r).mp hb) hd (steerOut_true hp _)
  case steerA =>
    intro v hp hb hd
    exact steer_sends (mt (usedPort3_iff _ r).mp hb) hd (hp ▸ steerOut_false _ _)
  case gatePass =>
    intro v hp hd hb
    exact gate_sends (mt (usedPort3_iff _ r).mp hb) (dests1Ok_outs hd _) (if_pos (bne_iff_ne.mpr hp))
  case gateDrop =>
    intro v hp hb
    exact gate_sends (mt (usedPort3_iff _ r).mp hb) rfl (if_neg fun h => bne_iff_ne.mp h hp)
  case port3 =>
    intro hb
    have used (op : BitVec 8) : usedPort3 (r.view op) = true := (usedPort3_iff op r).mpr hb
    exact ⟨if_pos (used _), if_pos (used _)⟩
  case pickB =>
    intro v hd ha
    have sends := pick_sends hd
    rwa [if_pos (bne_iff_ne.mpr ha)] at sends
  case pickC =>
    intro v hd ha
    have sends := pick_sends hd
    rwa [if_neg fun h => bne_iff_ne.mp h ha] at sends
  case merge => exact fun r hd => finish_sends _ _ _ _ _ (dests1Ok_outs hd _) rfl
  case mergeoOne =>
    intro r hd hk
    refine finish_sends _ _ _ _ _ (dests1Ok_outs hd _) ?_
    show finish s.mergeoNext _ _ _ = _
    rw [mergeoNext_done hk]
    rfl
  case mergeoHeld =>
    intro r c y mine left hd hk hc hy
    have changes := mergeo_changes hd hk hc hy
    unfold Elem.mergeoSent at changes
    have closes : (c.sent y).closes y.tok = true ↔ left = [] ∧ y.tok.eod ≠ 0 := by
      simp [MCtx.closes, MCtx.sent, left]
    have due : (c.sent y).due.isSome.toNat = if left.any fun z => z.tok.seq == c.next + 1 then 1 else 0 := by
      rw [MCtx.due, List.isSome_find?]
      exact cond_eq_ite ..
    simp only [closes, due] at changes
    exact changes
  case leave => exact fun r hd => finish_sends _ _ _ _ _ (dests1Ok_outs hd _) rfl

/-! ### Sequencing, repeating and returned answers (R124, R133, R135) -/

theorem seqCount_view (x : Elem) (n : Nat) (r : D2) (op : BitVec 8) :
    seqCount x n (r.view op).lit = (x.seqCtr.look n).getD r.lit := by
  simp [seqCount, D2.view]

/-- The counter behind the token: the next value, or the start literal again behind EOD (R133). -/
theorem seq_next {r : D2} {c : BitVec 8} (hd : Dests1Ok s (r.view 0x0A))
    (hc : ((s.elem s.cur.elem).seqCtr.look s.cur.node).getD r.lit = c) :
    exec (.seq r) s = .next ((s.modElem s.cur.elem fun x => { x with
      outStage := x.outStage ++ s.flights s.cur (r.view 0x0A) (outs1 (r.view 0x0A) { s.pass with seq := c }) }).modElem
      s.cur.elem fun x => { x with
        seqCtr := x.seqCtr.put s.cur.node (some (if s.cur.t0.eod = 0 then c + 1 else r.lit)) }) := by
  have start : BitVec.ofNat 8 (r.view 0x0A).lit = r.lit := by simp [D2.view]
  have back : (if (s.cur.t0.eod != 0) = true then r.lit else c + 1) = if s.cur.t0.eod = 0 then c + 1 else r.lit := by
    by_cases h : s.cur.t0.eod = 0 <;> simp [h]
  show execSeq r s = _
  simp only [execSeq, seqCount_view, hc, start, back]
  exact finishWith_ok (dests1Ok_outs hd _)

theorem rpt_bounded {r : D2} (h : (s.opB (r.view 0x09)).toNat < 2 ^ 32) : exec (.rpt r) s =
    if usedPort3 (r.view 0x09) then fails s (r.view 0x09) fkILLOP 5
    else if (s.opB (r.view 0x09)).toNat = 0 then .next s
    else finishWith s (r.view 0x09) (outs1 (r.view 0x09) (copyTok s.pass 0 (s.opB (r.view 0x09)).toNat)) fun t =>
      if (s.opB (r.view 0x09)).toNat = 1 then t
      else t.modElem s.cur.elem fun x => { x with rpt := some { f := s.cur, sent := 1, total := (s.opB (r.view 0x09)).toNat } } :=
  if_neg (Nat.not_le.mpr h)

/-- `rpt` of `n` sends the first copy and leaves the others to the repeat unit (R135). -/
theorem rpt_changes {r : D2} {n : Nat} (hn : (s.opB (r.view 0x09)).toNat = n) (h0 : 0 < n) (lt : n < 2 ^ 32)
    (hp : ¬ usedPort3 (r.view 0x09) = true) (hd : Dests1Ok s (r.view 0x09)) :
    Changes (.rpt r) s s.cur.elem fun x => { x with
      outStage := x.outStage ++ s.flights s.cur (r.view 0x09) (outs1 (r.view 0x09) (copyTok s.pass 0 n))
      rpt := if n = 1 then x.rpt else some { f := s.cur, sent := 1, total := n } } := by
  have e : exec (.rpt r) s = _ := rpt_bounded (hn ▸ lt)
  rw [hn, if_neg hp, if_neg (Nat.pos_iff_ne_zero.mp h0), finishWith_ok (dests1Ok_outs hd _)] at e
  by_cases one : n = 1
  · rw [if_pos one] at e
    refine ⟨_, e, OnlyElem.modElem _ _ _, ?_⟩
    simp only [State.elem_modElem_same, if_pos one]
  · rw [if_neg one] at e
    refine ⟨_, e, OnlyElem.modElem_modElem _ _ _ _, ?_⟩
    simp only [State.elem_modElem_same, if_neg one]

theorem length_outs1 (v : RecView) (t u : Token) : (outs1 v t).length = (outs1 v u).length := by
  unfold outs1
  split <;> rfl

/-- The repeat unit sends its next copy where the stage has room for it (R135). -/
theorem rptCopy_next {p : Rpt} (hp : (s.elem s.at_.a).rpt = some p) (hs : (s.elem s.at_.a).stop = false)
    (hm : s.marksAhead s.at_.a p.f.key = false) (hh : s.stageHeld s.at_.a = false)
    (hr : (s.elem s.at_.a).outStage.length + s.asked s.at_.a + (outs1 (s.view p.f.key) {}).length ≤ 4)
    (hf : p.f.elem = s.at_.a) (hd : Dests1Ok s (s.view p.f.key)) :
    exec .rptCopy s = .next ((s.modElem s.at_.a fun x => { x with
      rpt := if p.sent + 1 < p.total then some { p with sent := p.sent + 1 } else none }).modElem s.at_.a fun x => { x with
        outStage := x.outStage ++ s.flights p.f (s.view p.f.key)
          (outs1 (s.view p.f.key) (copyTok (p.f.base p.f.t0.kind p.f.t0.val) p.sent p.total)) }) := by
  have room : ¬ 4 < (s.elem s.at_.a).outStage.length + s.asked s.at_.a +
      (outs1 (s.view p.f.key) (copyTok (p.f.base p.f.t0.kind p.f.t0.val) p.sent p.total)).length := by
    rw [length_outs1 _ _ {}]
    omega
  show execRptCopy s = _
  simp only [execRptCopy, hp, hs, hm, hh, gt_iff_lt, room, decide_false, Bool.or_self, Bool.false_eq_true, if_false]
  rw [State.send_ok _ _ _ _ _ ((sendFault_modElem ..).trans (dests1Ok_outs hd _)), hf]
  rfl

theorem answer_enters {a : Answer} (first : s.firstBack (s.elem s.at_.a).answers = some a)
    (room : (s.elem s.at_.a).outStage.length + s.asked s.at_.a + a.toks.length ≤ 4) :
    exec .externalAnswerReturn s = .next (s.modElem s.at_.a fun x => { x with
      outStage := x.outStage ++ a.toks, answers := x.answers.erase a }) := by
  show execExternalAnswerReturn s = _
  simp only [execExternalAnswerReturn, first, if_neg (Nat.not_lt.mpr room)]

/-- Settles O15: each clause is what its instruction or event does where nothing stops it. -/
theorem sequencingAndAnswers : Obligations.SequencingAndAnswers := by
  unfold Obligations.SequencingAndAnswers
  refine ⟨fun s => ⟨?seq, ?rptNone, ?rptPort3, ?rptFirst, ?rptCopy⟩, ?answer⟩
  case seq =>
    intro r v c hd
    refine ⟨_, seq_next hd rfl, OnlyElem.modElem_modElem _ _ _ _, ?_, fun n => ?_⟩
    · simp only [State.elem_modElem_same]
      rfl
    · simp only [State.elem_modElem_same, Tbl.look_put]
      rfl
  case rptNone =>
    intro r hn hb
    rw [rpt_bounded (by omega), if_neg (mt (usedPort3_iff _ r).mp hb), if_pos hn]
  case rptPort3 =>
    intro r hn hb
    rw [rpt_bounded hn, if_pos ((usedPort3_iff _ r).mpr hb)]
    rfl
  case rptFirst =>
    intro r v n h0 hn hb hd
    exact rpt_changes rfl h0 hn (mt (usedPort3_iff _ r).mp hb) hd
  case rptCopy =>
    intro p k v hp hf hs hm hd hr hh
    refine ⟨_, rptCopy_next hp hs hm hh hr hf hd, OnlyElem.modElem_modElem _ _ _ _, (State.elem_modElem_same _ _ _).trans ?_⟩
    rw [State.elem_modElem_same]
    rfl
  case answer =>
    intro s a away rest k ha hw hc hr
    have first : s.firstBack (s.elem k).answers = some a := by
      rw [ha, State.firstBack, List.find?_append, List.find?_eq_none.mpr (by simpa using hw)]
      simp [hc]
    have gone : (s.elem k).answers.erase a = away ++ rest := by
      have new : a ∉ away := fun m => Bool.eq_false_iff.mp hc (hw a m)
      rw [ha, List.erase_append_right _ new, List.erase_cons_head]
    refine ⟨_, answer_enters first hr, OnlyElem.modElem _ _ _, ?_⟩
    rw [State.elem_modElem_same, gone]
end Sys2Proof
end

section
/-!
A `stfx` of slot 0 under TG 3: the slot is written before the tag of the token that is sent on is taken from it.
-/
namespace Sys2Proof
open Machine

/-- `stfx` of slot 0 under TG 3, which takes the FX of its token from slot 0 (R87). -/
def stfxUnderTg3 : D1 :=
  { ty := 0, tg := 3, litp := false, ndest := 1, arity3 := false, opf := 0, slot := 0, lit := 0, destA := 0x14 }

/-- Frame 0 has a local part whose slots are 0, and a firing brings a word whose FX field is 0xFFF. -/
def stfxFiring : State :=
  { State.reset with cts := [(0, { ftab := [(0, { v := true })] })]
                     cur := { elem := 0, node := 0, t0 := { val := 0xFFF0000000000000 } } }

/-- The frames of the tokens in the output stage of element 0. -/
def stagedFx (s : State) : List (BitVec 12) := (s.elem 0).outStage.map fun fl => fl.tok.fx

theorem stfx_sends_under_new_slot {t : State} (h : exec (.stfx stfxUnderTg3) stfxFiring = .next t) : stagedFx t = [0xFFF] := by
  have e : exec (.stfx stfxUnderTg3) stfxFiring = .next _ := rfl
  cases e.symm.trans h
  decide

/-- Refutes O19: the clause of `stfx` takes the tag of the token sent on from the frame as it was before the write. With
slot 0 written under TG 3 the token carries the FX of the word written, 0xFFF, and not that of the old slot, 0. -/
theorem not_frameSlotsAndWeights : ¬ Obligations.FrameSlotsAndWeights := by
  unfold Obligations.FrameSlotsAndWeights
  rintro ⟨stfx, -⟩
  obtain ⟨t, e, -, -, elem, -⟩ := stfx stfxUnderTg3 stfxFiring (0, { v := true }) rfl (by decide) (by decide) (by decide) rfl
  have old : stagedFx t = [0] := by
    unfold stagedFx
    rw [show t.elem 0 = _ from elem]
    rfl
  rw [stfx_sends_under_new_slot e] at old
  exact absurd old (by decide)

end Sys2Proof
end

section
/-!
A token parks in a slot for whose check word the table of check words has an entry that says that nothing is wrong.
-/
namespace Sys2Proof
open Machine

/-- The node of an `add` whose two operands come from tokens: slot 4 of its frame. -/
def twoOperandAdd : Rec96 := 0x202020040000000100000020

/-- A token under frame 7 for port 0 of node 4 of element 0. -/
def addToken : Flight := { tok := { dest := 16, fx := 7 } }

/-- The token has arrived; slot 4 of the local part of its frame is free, and the table of check words lists it with the
value 0. -/
def addTokenArrived : State :=
  { State.reset with regions := [(0, { fx := [(7, { alloc := true })] })]
                     cts := [(0, { ftab := [(0, { v := true, fx := 7, base := 16 })] })]
                     elems := [(0, { nodes := [(4, twoOperandAdd)], inStage := [addToken] })]
                     ecc := [(slotEcc 0 20, 0)] }

theorem addTokenArrived_clean (k : Nat) : addTokenArrived.ecc.look k = 0 := by
  simp only [addTokenArrived, Tbl.look]
  split <;> rfl

/-- To park the token mends its slot: the entry is gone. -/
theorem addTokenArrived_mended {u : State} (h : exec .tokenArrival addTokenArrived = .next u) : u.ecc = [] := by
  have e : exec .tokenArrival addTokenArrived = .next _ := rfl
  cases e.symm.trans h
  decide

/-- Refutes O22: to park a token mends its slot, and so takes from the table of check words an entry of value 0, which the
statement's hypothesis allows; its frame has the table unchanged. -/
theorem not_tokenArrivalMatches : ¬ Obligations.TokenArrivalMatches := by
  unfold Obligations.TokenArrivalMatches
  intro all
  have clauses := all addTokenArrived addToken (0, { v := true, fx := 7, base := 16 }) _ 2 rfl (by decide) (by decide) rfl rfl
    (by decide) rfl rfl (by decide) rfl rfl addTokenArrived_clean rfl rfl (by decide) (by decide) (by decide) (by decide) (by decide)
  obtain ⟨-, parks, -⟩ := clauses
  obtain ⟨u, run, frame, -⟩ := parks (by decide) rfl rfl
  have kept : u.ecc = addTokenArrived.ecc := by rw [frame]
  rw [addTokenArrived_mended run] at kept
  exact absurd kept (by decide)

end Sys2Proof
end

section
/-!
What a home answers (R238, R302), and the words of I-structures (R54, R238).
-/
namespace Sys2Proof
open Machine

variable {s : State}

/-! ### Answers of a home -/

/-- Setting out, a reply writes the request it answers and the channel it goes by. -/
theorem Machine.State.sendReply_frame (s : State) (id : Nat) : s.sendReply id =
    { s with reqs := (s.sendReply id).reqs, serial := (s.sendReply id).serial, chans := (s.sendReply id).chans } := by
  unfold State.sendReply
  dsimp only
  rw [s.post_eq]

theorem Machine.State.req_sendReply (s : State) (id : Nat) :
    ∃ n, (s.sendReply id).reqs.look id = { s.reqs.look id with via := n } := by
  unfold State.sendReply
  dsimp only
  rw [s.post_eq]
  exact ⟨_, Tbl.look_upd_same _ _ _⟩

/-- A request that its home has answered with `x`, or with a fault. -/
def Machine.MReq.answered (r : MReq) (x : Word) (err : Option (Nat × Nat)) : MReq :=
  { r with stage := if r.stage == .posted then .posted else .reply, performed := true, deferred := false, val := x, err := err }

theorem Machine.State.answerWith_frame (s : State) (id : Nat) (x : Word) (err : Option (Nat × Nat)) : s.answerWith id x err =
    { s with reqs := (s.answerWith id x err).reqs, serial := (s.answerWith id x err).serial
             chans := (s.answerWith id x err).chans } := by
  unfold State.answerWith
  rw [State.sendReply_frame]

theorem Machine.State.req_answerWith (s : State) (id : Nat) (x : Word) (err : Option (Nat × Nat)) :
    ∃ n, (s.answerWith id x err).reqs.look id = { (s.reqs.look id).answered x err with via := n } := by
  obtain ⟨n, h⟩ := State.req_sendReply { s with reqs := s.reqs.upd id fun r => r.answered x err } id
  exact ⟨n, by rw [Tbl.look_upd_same] at h; exact h⟩

theorem Machine.State.replyTo_frame (s : State) (id : Nat) (x : Word) : s.replyTo id x =
    { s with reqs := (s.replyTo id x).reqs, serial := (s.replyTo id x).serial, chans := (s.replyTo id x).chans } :=
  s.answerWith_frame id x none

theorem Machine.State.val_replyTo (s : State) (id : Nat) (x : Word) : ((s.replyTo id x).reqs.look id).val = x := by
  obtain ⟨n, h⟩ := s.req_answerWith id x none
  rw [State.replyTo, h]
  rfl

theorem Machine.State.replyBad_frame (s : State) (id kind detail pa : Nat) : s.replyBad id kind detail pa =
    { s with reqs := (s.replyBad id kind detail pa).reqs, serial := (s.replyBad id kind detail pa).serial
             chans := (s.replyBad id kind detail pa).chans } :=
  s.answerWith_frame id _ _

theorem Machine.State.err_replyBad (s : State) (id kind detail pa : Nat) :
    ((s.replyBad id kind detail pa).reqs.look id).err = some (kind, detail) := by
  obtain ⟨n, h⟩ := s.req_answerWith id (BitVec.ofNat 64 pa) (some (kind, detail))
  rw [State.replyBad, h]
  rfl

theorem Machine.State.mts_replyTo (s : State) (id : Nat) (x : Word) : (s.replyTo id x).mts = s.mts := by
  rw [s.replyTo_frame]

theorem Machine.State.mem_replyTo (s : State) (id : Nat) (x : Word) : (s.replyTo id x).mem = s.mem := by
  rw [s.replyTo_frame]

theorem Machine.State.srcQ_replyTo (s : State) (id : Nat) (x : Word) : (s.replyTo id x).srcQ = s.srcQ := by
  rw [s.replyTo_frame]

/-- A home that can take the request of an access to memory performs it. -/
theorem homeAccess_next (hr : s.homeReady s.at_.a = true) (ho : (s.reqs.look s.at_.a).atObject = false) :
    exec .homeAccess s = .next (s.atHome s.at_.a) := by
  show execHomeAccess s = _
  simp only [execHomeAccess, hr, ho, Bool.not_true, Bool.false_eq_true, if_false]

/-! ### Bytes and check bits -/

theorem leBytes_toBytes (n v : Nat) : leBytes (toBytes n v) = v % 256 ^ n := by
  induction n generalizing v with
  | zero => simp [toBytes, leBytes, Nat.mod_one]
  | succ n ih =>
    rw [toBytes, leBytes, ih, BitVec.toNat_ofNat, pow_succ' 256 n, Nat.mod_mul]

theorem Machine.State.bytes_wr (s : State) (a n v : Nat) : (s.wr a n v).bytes a n = toBytes n v := by
  refine List.ext_getElem (by simp [State.bytes]) fun i _ h => ?_
  simp only [State.bytes, List.getElem_map, List.getElem_range]
  exact s.byte_setBytes_in a i _ h

/-- What is written is read back. -/
theorem Machine.State.rd_wr (s : State) (a n v : Nat) : (s.wr a n v).rd a n = v % 256 ^ n := by
  rw [State.rd, State.bytes_wr, leBytes_toBytes]

theorem Machine.State.byte_of_mem {t : State} (h : t.mem = s.mem) (a : Nat) : t.byte a = s.byte a := by
  rw [State.byte, State.byte, h]

theorem Machine.State.rd_of_mem {t : State} (h : t.mem = s.mem) (a n : Nat) : t.rd a n = s.rd a n := by
  simp only [State.rd, State.bytes, State.byte_of_mem h]

theorem Machine.State.eccBad_clean (h : ∀ w, s.ecc.look w = 0) (a n : Nat) : s.eccBad a n = none := by
  simp [State.eccBad, h]

theorem Machine.State.countCe_clean (h : ∀ w, s.ecc.look w = 0) (a n : Nat) : s.countCe a n = s := by
  simp [State.countCe, h]

/-! ### Words of I-structures -/

theorem Machine.State.iState_setIState (s : State) (pa n : Nat) : (s.setIState pa n).iState pa = n := by
  simp [State.iState, State.setIState]

theorem Machine.State.iState_dropReaders (s : State) (pa : Nat) : (s.dropReaders pa).iState pa = s.iState pa := by
  simp [State.iState, State.dropReaders]

theorem Machine.State.iState_of_mts {t : State} (h : t.mts = s.mts) (pa : Nat) : t.iState pa = s.iState pa := by
  simp only [State.iState, State.mt, h]

theorem Machine.State.readersOf_of_mts {t : State} (h : t.mts = s.mts) (pa : Nat) : t.readersOf pa = s.readersOf pa := by
  simp only [State.readersOf, State.mt, h]

theorem Machine.State.readersOf_setIState (s : State) (pa n : Nat) : (s.setIState pa n).readersOf pa = s.readersOf pa := by
  simp [State.readersOf, State.setIState]

theorem Machine.State.readersOf_dropReaders (s : State) (pa : Nat) : (s.dropReaders pa).readersOf pa = [] := by
  simp [State.readersOf, State.dropReaders, List.filter_filter]

/-- Answering the deferred readers of a word sends tokens from the word's square, none where there is no reader. -/
theorem Machine.State.answerReaders_eq (s : State) (pa : Nat) (x : Word) :
    ∃ l, s.answerReaders pa x = ({ s with srcQ := l } : State).dropReaders pa ∧ (s.readersOf pa = [] → l = s.srcQ) := by
  have sent (k : List DReader) (u : State) : ∃ l, (k.foldl (fun st d =>
      if d.send then st.sendFrom (scratchSq pa) d.lid { d.tok with val := x } else st) u) = { u with srcQ := l } ∧
      (k = [] → l = u.srcQ) := by
    induction k generalizing u with
    | nil => exact ⟨_, rfl, fun _ => rfl⟩
    | cons d k ih =>
      rw [List.foldl_cons]
      split
      · obtain ⟨l, e, -⟩ := ih (u.sendFrom (scratchSq pa) d.lid { d.tok with val := x })
        exact ⟨l, e, fun h => nomatch h⟩
      · obtain ⟨l, e, -⟩ := ih u
        exact ⟨l, e, fun h => nomatch h⟩
  obtain ⟨l, e, h⟩ := sent (s.readersOf pa) s
  exact ⟨l, congrArg (State.dropReaders · pa) e, h⟩

/-! ### Accesses at home (R54, R238) -/

theorem atHome_ist {id pa : Nat} (hop : (s.reqs.look id).op = 0x95) (hpa : (s.reqs.look id).pa = some pa) : s.atHome id =
    if s.iState pa = 1 then s.replyBad id fkISTWICE 0 (s.reqs.look id).ea
    else (((s.setIState pa 1).wr pa 8 ((s.reqs.look id).data[0]?.getD 0).toNat).eccClear pa 8
      |>.answerReaders pa ((s.reqs.look id).data[0]?.getD 0)).replyTo id (BitVec.ofNat 64 (s.reqs.look id).ea) := by
  simp only [State.atHome, hop, hpa, Option.getD_some]

theorem atHome_iclr {id pa : Nat} (hop : (s.reqs.look id).op = 0x96) (hpa : (s.reqs.look id).pa = some pa)
    (h : s.iState pa ≠ 2) : s.atHome id =
    ((s.setIState pa 0).dropReaders pa).replyTo id (BitVec.ofNat 64 (s.reqs.look id).ea) := by
  simp only [State.atHome, hop, hpa, Option.getD_some, h, if_false]

theorem atHome_ild_full {id pa : Nat} (hop : (s.reqs.look id).op = 0x94) (hpa : (s.reqs.look id).pa = some pa)
    (clean : ∀ w, s.ecc.look w = 0) (h : s.iState pa = 1) :
    s.atHome id = s.replyTo id (BitVec.ofNat 64 (s.rd pa 8)) := by
  simp [State.atHome, hop, hpa, h, State.eccBad_clean clean, State.countCe_clean clean]

/-- The word is deferred, and the reader stands behind those it has. -/
def Machine.State.deferReader (s : State) (r : MReq) (pa : Nat) : State :=
  (s.setIState pa 2).modMt (scratchSq pa) fun m => { m with readers := m.readers ++ [s.readerOf r pa] }

theorem atHome_ild_empty {id pa : Nat} (hop : (s.reqs.look id).op = 0x94) (hpa : (s.reqs.look id).pa = some pa)
    (h : s.iState pa ≠ 1) (ho : (s.reqs.look id).orphan = false) (room : (s.mt (scratchSq pa)).readers.length < 4096)
    (hd : (s.view (s.reqs.look id).f.key).hdr.ndest = 0 ∨ s.destFault (s.view (s.reqs.look id).f.key).destA = none) :
    s.atHome id = { (s.deferReader (s.reqs.look id) pa).replyTo id 0 with
      reqs := ((s.deferReader (s.reqs.look id) pa).replyTo id 0).reqs.upd id fun r => { r with deferred := true } } := by
  have ok : (if (s.view (s.reqs.look id).f.key).hdr.ndest = 0 then none
      else s.destFault (s.view (s.reqs.look id).f.key).destA) = none := by
    rcases hd with hd | hd <;> simp [hd]
  simp only [State.atHome, hop, hpa, Option.getD_some, decide_true, Bool.true_and, bne_iff_ne.mpr h, if_true, h, ho,
    Bool.false_eq_true, if_false, ge_iff_le, Nat.not_le.mpr room, ok]
  rfl

theorem iState_deferReader (s : State) (r : MReq) (pa : Nat) : (s.deferReader r pa).iState pa = 2 := by
  simp [State.deferReader, State.iState, State.setIState]

theorem readers_deferReader (s : State) (r : MReq) (pa : Nat) :
    ((s.deferReader r pa).mt (scratchSq pa)).readers = (s.mt (scratchSq pa)).readers ++ [s.readerOf r pa] := by
  simp [State.deferReader, State.setIState]

/-- Settles O30, by what the home makes of each of the three requests. -/
theorem iStructures : Obligations.IStructures := by
  unfold Obligations.IStructures
  intro s pa id r q hr hpa clean hs
  have next (op : r.op = 0x94 ∨ r.op = 0x95 ∨ r.op = 0x96) : exec .homeAccess s = .next (s.atHome id) :=
    homeAccess_next hr (by rcases op with h | h | h <;> simp [MReq.atObject, r, id] at h ⊢ <;> simp [h])
  refine ⟨?istFull, ?istEmpty, ?ildFull, ?ildEmpty, ?iclr⟩
  case istFull =>
    intro hop h
    refine ⟨_, next (by simp [hop]), ?_⟩
    rw [atHome_ist hop hpa, if_pos h]
    exact ⟨s.replyBad_frame _ _ _ _, s.err_replyBad _ _ _ _⟩
  case istEmpty =>
    intro hop h
    refine ⟨_, next (by simp [hop]), ?_⟩
    rw [atHome_ist hop hpa, if_neg h]
    generalize hx : r.data[0]?.getD 0 = x
    generalize hu : ((s.setIState pa 1).wr pa 8 x.toNat).eccClear pa 8 = u
    have mts : u.mts = (s.setIState pa 1).mts := by rw [← hu, State.wr_frame]; rfl
    have mem : u.mem = ((s.setIState pa 1).wr pa 8 x.toNat).mem := by rw [← hu]; rfl
    have srcQ : u.srcQ = s.srcQ := by rw [← hu, State.wr_frame]; rfl
    obtain ⟨l, answered, none⟩ := u.answerReaders_eq pa x
    have readers : u.readersOf pa = s.readersOf pa := (State.readersOf_of_mts mts pa).trans (s.readersOf_setIState pa 1)
    rw [answered]
    have written {i : Nat} {y : Word} : ((({ u with srcQ := l } : State).dropReaders pa).replyTo i y).mem =
        ((s.setIState pa 1).wr pa 8 x.toNat).mem := (State.mem_replyTo _ _ _).trans mem
    refine ⟨?_, ?_, fun a ha => ?_, ?_, fun h0 => ?_, State.val_replyTo _ _ _⟩
    · rw [State.iState_of_mts (State.mts_replyTo _ _ _), State.iState_dropReaders]
      exact (State.iState_of_mts mts pa).trans (s.iState_setIState pa 1)
    · rw [State.rd_of_mem written, State.rd_wr, Nat.mod_eq_of_lt (lt_of_lt_of_eq x.isLt (by norm_num))]
    · rw [State.byte_of_mem written, State.byte_wr_out _ _ _ _ _ ha]
      rfl
    · rw [State.readersOf_of_mts (State.mts_replyTo _ _ _), State.readersOf_dropReaders]
    · exact (State.srcQ_replyTo _ _ _).trans ((none (readers.trans h0)).trans srcQ)
  case ildFull =>
    intro hop h
    refine ⟨_, next (by simp [hop]), ?_⟩
    rw [atHome_ild_full hop hpa clean h]
    exact ⟨s.replyTo_frame _ _, s.val_replyTo _ _⟩
  case ildEmpty =>
    intro hop h ho room hd
    refine ⟨_, next (by simp [hop]), ?_⟩
    rw [atHome_ild_empty hop hpa h ho room hd]
    have mts := (s.deferReader r pa).mts_replyTo id 0
    have mem := (s.deferReader r pa).mem_replyTo id 0
    generalize (s.deferReader r pa).replyTo id 0 = u at mts mem
    refine ⟨?_, ?_, ?_, mem⟩
    · exact (State.iState_of_mts (s := s.deferReader r pa) mts pa).trans (iState_deferReader s r pa)
    · exact (congrArg (fun l : Tbl Mt => (l.look q).readers) mts).trans (readers_deferReader s r pa)
    · simp only [Tbl.look_upd_same]
  case iclr =>
    intro hop h
    refine ⟨_, next (by simp [hop]), ?_⟩
    rw [atHome_iclr hop hpa h]
    refine ⟨?_, State.mem_replyTo _ _ _, State.val_replyTo _ _ _⟩
    rw [State.iState_of_mts (State.mts_replyTo _ _ _), State.iState_dropReaders, State.iState_setIState]

end Sys2Proof
end

section
/-!
Handles, buffers and `halloc` (R48, R224 to R228), here and at the MT of another die (R387, R404).
-/
namespace Sys2Proof
open Machine

variable {s : State}

/-! ### Messages between dies -/

theorem Tbl.mem_of_look {α : Type} [Inhabited α] {m : Tbl α} {k : Nat} (h : m.look k ≠ default) : (k, m.look k) ∈ m := by
  induction m with
  | nil => exact absurd rfl h
  | cons p t ih =>
    obtain ⟨j, w⟩ := p
    by_cases e : j = k
    · subst e
      simp [Tbl.look]
    · simp only [Tbl.look, e, if_false] at h ⊢
      exact List.mem_cons_of_mem _ (ih h)

theorem Machine.Chan.msgs_append (c : Chan) (m : Msg) : m ∈ ({ c with q := c.q ++ [m] } : Chan).msgs := by
  simp [Chan.msgs]

theorem crossing_onLink (s : State) (l dir : Nat) (m : Msg) (h : m.id ≠ 0) : (s.onLink l dir m).crossing m.id = true := by
  let k := chanKey l dir ((s.links.look l).channel m)
  let x := { m with notBefore := s.tick (dirTo l dir) + 12 + m.leg }
  have chan : (s.onLink l dir m).chans.look k = { s.chans.look k with q := (s.chans.look k).q ++ [x] } := by
    simp [State.onLink, k, x]
  have listed := Tbl.mem_of_look (m := (s.onLink l dir m).chans) (k := k) (by
    rw [chan]
    exact fun e => List.append_ne_nil_of_right_ne_nil _ (List.cons_ne_nil _ _) (congrArg Chan.q e))
  simp only [State.crossing, Bool.and_eq_true, bne_iff_ne, Bool.or_eq_true, List.any_eq_true]
  exact ⟨h, .inr ⟨_, listed, x, chan ▸ Chan.msgs_append _ _, beq_self_eq_true m.id⟩⟩

/-- A message that is posted is on its way where there are links, and there is none where there are not. -/
theorem posts_post (s : State) (a b : Nat) (m : Msg) : Posts s (s.post a b m).1 a b (s.post a b m).2 := by
  unfold State.post
  split
  · rename_i h
    exact ⟨fun _ => ⟨rfl, rfl, rfl⟩, fun k => absurd h k⟩
  · rename_i h
    refine ⟨fun k => absurd (h.symm.trans k) (List.cons_ne_nil _ _), fun _ => ?_⟩
    exact crossing_onLink _ _ _ _ (Nat.succ_ne_zero _)

/-! ### Descriptors (R48, R226 to R228) -/

/-- From `s` to `t` only the descriptor of buffer `b` of MT `q` has changed, to `new`. -/
structure DescSet (s t : State) (q b : Nat) (new : Word) : Prop where
  frame : t = { s with mts := t.mts }
  same : t.desc q b = new
  other : ∀ p c, (p ≠ q ∨ c ≠ b) → t.desc p c = s.desc p c

theorem DescSet.elem {t : State} {q b : Nat} {new : Word} (h : DescSet s t q b new) (k : Nat) : t.elem k = s.elem k := by
  rw [h.frame]
  rfl

theorem modDesc_sets (s : State) (q b : Nat) (g : Word → Word) : DescSet s (s.modDesc q b g) q b (g (s.desc q b)) where
  frame := rfl
  same := by simp [State.desc, State.modDesc]
  other p c h := by
    by_cases e : p = q
    · subst e
      simp [State.desc, State.modDesc, Tbl.look_upd, h.resolve_left (not_not_intro rfl)]
    · simp [State.desc, State.modDesc, State.mt_modMt_other _ _ _ _ e]

theorem dropRef_sets {q b : Nat} (h : 1 < dCnt (s.desc q b)) :
    DescSet s (s.dropRef q b) q b (setField (s.desc q b) 38 16 (dCnt (s.desc q b) - 1)) := by
  have e : s.dropRef q b = s.modDesc q b fun d => setField d 38 16 (dCnt d - 1) := by
    rw [State.dropRef, if_neg (by omega), if_neg (by omega)]
  rw [e]
  exact modDesc_sets ..

/-- The last reference goes: the generation rises and F is clear, where no `halloc` waits for the buffer (R226). -/
theorem dropRef_sets_last {q b : Nat} (h : dCnt (s.desc q b) = 1) (hq : (s.mt q).hallocQ = []) :
    DescSet s (s.dropRef q b) q b (setField (setField (setField (s.desc q b) 38 16 0) 54 8 (dGen (s.desc q b) + 1)) 62 1 0) := by
  have e : s.dropRef q b = s.modDesc q b fun d => setField (setField (setField d 38 16 0) 54 8 (dGen d + 1)) 62 1 0 := by
    rw [State.dropRef, if_neg (by omega), if_pos h]
    simp [State.modDesc, hq, State.serveHallocs]
  rw [e]
  exact modDesc_sets ..

/-! ### A handle instruction on its own die -/

theorem tileNode_near {v : RecView} {tok : Token} {upd : State → State} (near : sqDie (winOf s.opA).q = sqDie s.cur.sq)
    (op : s.tileOp s.cur v = .ok tok 0 upd) (hd : Dests1Ok s v) : tileNode v s =
    .next (upd (s.modElem s.cur.elem fun x => { x with outStage := x.outStage ++ s.flights s.cur v (outs1 v tok) })) := by
  have here : s.tileFar s.cur s.opA = false := by simp [State.tileFar, near]
  have ok : s.sendFault (outs1 v tok) = none := (sendFault_outs1 s v tok {}).trans hd
  simp only [tileNode, here, op, Bool.false_eq_true, if_false, finishWith, ok, s.send_ok _ _ _ _ ok, Option.isSome_none, if_true]

/-- Where the operation changes one descriptor, that and the tokens sent are all that changes. -/
theorem tileNode_does {v : RecView} {tok : Token} {upd : State → State} {new : Word} {q b : Nat}
    (near : sqDie (winOf s.opA).q = sqDie s.cur.sq) (op : s.tileOp s.cur v = .ok tok 0 upd) (hd : Dests1Ok s v)
    (sets : ∀ g, DescSet (s.modElem s.cur.elem g) (upd (s.modElem s.cur.elem g)) q b new) :
    ∃ t, tileNode v s = .next t ∧ t = { s with elems := t.elems, mts := t.mts } ∧ t.desc q b = new ∧
      (∀ p c, (p ≠ q ∨ c ≠ b) → t.desc p c = s.desc p c) ∧ (∀ k, k ≠ s.cur.elem → t.elem k = s.elem k) ∧
      t.elem s.cur.elem = { s.elem s.cur.elem with
        outStage := (s.elem s.cur.elem).outStage ++ s.flights s.cur v (outs1 v tok) } := by
  refine ⟨_, tileNode_near near op hd, ?_⟩
  have set := sets fun x => { x with outStage := x.outStage ++ s.flights s.cur v (outs1 v tok) }
  refine ⟨?_, set.same, set.other, fun k hk => ?_, ?_⟩
  · rw [set.frame]
    rfl
  · exact (set.elem k).trans (s.elem_modElem_other _ _ _ hk)
  · exact (set.elem s.cur.elem).trans (s.elem_modElem_same _ _)

theorem tileOp_ok {f : Firing} {v : RecView} (h : s.handleFault f.t0.val 0 = none) :
    (v.op.toNat = 0x84 → s.tileOp f v = s.hrefAt f (winOf f.t0.val)) ∧
    (v.op.toNat = 0x85 → s.tileOp f v = s.hdropAt f (winOf f.t0.val)) ∧
    (v.op.toNat = 0x87 → s.tileOp f v = s.hinfoAt f v (winOf f.t0.val)) ∧
    (v.op.toNat = 0x8A → s.tileOp f v = fullAt true f (winOf f.t0.val)) ∧
    (v.op.toNat = 0x8B → s.tileOp f v = fullAt false f (winOf f.t0.val)) := by
  refine ⟨?_, ?_, ?_, ?_, ?_⟩ <;> intro hv <;> simp only [State.tileOp, h, hv]

theorem hrefAt_ok {f : Firing} {w : Win} (h : dCnt (s.desc w.q w.buf) ≠ 65535) :
    s.hrefAt f w = .ok (f.base f.t0.kind f.t0.val) 0 fun t => t.addRef w.q w.buf := if_neg h

theorem dCnt_lt (d : Word) : dCnt d < 2 ^ 16 := fld_lt _ _ _
theorem dGen_lt (d : Word) : dGen d < 2 ^ 8 := fld_lt _ _ _
theorem dRows_le (d : Word) : dRows d - 1 < 2 ^ 6 := fld_lt _ _ _

/-- `hinfo` with selector 0: count, F and generation (R228). -/
theorem hinfoWord_zero (w : Win) (d : Word) :
    (hinfoWord 0 w d).toNat = dCnt d + (dF d).toNat * 2 ^ 16 + dGen d * 2 ^ 24 := by
  have cnt := dCnt_lt d
  have gen := dGen_lt d
  have f := (dF d).toNat_le
  rw [hinfoWord, BitVec.toNat_ofNat, Nat.mod_eq_of_lt (by omega)]

/-- Selector 1: the elements of the window. -/
theorem hinfoWord_one (h : Word) (d : Word) : (hinfoWord 1 (winOf h) d).toNat = (winOf h).rows * (winOf h).cols := by
  have rows : (winOf h).rows ≤ 2 ^ 6 := fld_lt _ _ _
  have cols : (winOf h).cols ≤ 2 ^ 7 := fld_lt _ _ _
  have bound := Nat.mul_le_mul rows cols
  rw [hinfoWord, Win.count, BitVec.toNat_ofNat, Nat.mod_eq_of_lt (by omega)]

/-- Selector 2: the greatest window, in the fields of a handle. -/
theorem hinfoWord_two (w : Win) (d : Word) : fld (hinfoWord 2 w d).toNat 26 6 = dRows d - 1 ∧
    fld (hinfoWord 2 w d).toNat 19 7 = min (dStride d * 8 / dtW w.dt) 128 - 1 := by
  have rows := dRows_le d
  have word : hinfoWord 2 w d =
      BitVec.ofNat 64 ((dRows d - 1) * 2 ^ 26 + (min (dStride d * 8 / dtW w.dt) 128 - 1) * 2 ^ 19) := rfl
  rw [word, BitVec.toNat_ofNat, Nat.mod_eq_of_lt (by omega)]
  constructor <;> simp only [fld] <;> omega

/-- An operation that changes nothing sends its token and no more. -/
theorem tileNode_sends {i : Instr} {v : RecView} {tok : Token} (near : sqDie (winOf s.opA).q = sqDie s.cur.sq)
    (op : s.tileOp s.cur v = .ok tok 0 id) (hd : Dests1Ok s v) (e : exec i s = tileNode v s) :
    Sends i s v (outs1 v tok) 0 := by
  refine ⟨_, e.trans (tileNode_near near op hd), OnlyElem.modElem _ _ _, (s.elem_modElem_same _ _).trans ?_⟩
  simp

theorem hinfo_gives {r : D2} {P : Word → Flags → Prop} (near : sqDie (winOf s.opA).q = sqDie s.cur.sq)
    (hf : s.handleFault s.opA 0 = none)
    (hp : P (hinfoWord r.lit.toNat (winOf s.opA) (s.desc (winOf s.opA).q (winOf s.opA).buf)) 0) :
    Gives (.hinfo r) s (r.view 0x87) P := by
  intro hd
  obtain ⟨-, -, hinfo, -⟩ := tileOp_ok (f := s.cur) (v := r.view 0x87) hf
  exact ⟨_, 0, hp, tileNode_sends near (hinfo rfl) hd rfl⟩

/-! ### `halloc` on its own die (R225) -/

/-- The first buffer that fits and is free is the lowest of them. -/
theorem find_lowest {l : List Nat} {p : Nat → Bool} {b : Nat} (sorted : l.Pairwise (· < ·)) (hb : b ∈ l) (pb : p b = true)
    (low : ∀ c ∈ l, c < b → p c = false) : l.find? p = some b := by
  induction l with
  | nil => cases hb
  | cons a l ih =>
    obtain ⟨first, rest⟩ := List.pairwise_cons.mp sorted
    rcases List.mem_cons.mp hb with rfl | hb
    · exact List.find?_cons_of_pos pb
    · rw [List.find?_cons_of_neg (by simp [low a List.mem_cons_self (first b hb)])]
      exact ih rest hb fun c hc => low c (List.mem_cons_of_mem _ hc)

theorem fits_sorted (m : Mt) (dt rows cols : Nat) : (m.fits dt rows cols).Pairwise (· < ·) :=
  List.Pairwise.filter _ List.pairwise_lt_range


theorem outs1_ne_nil {v : RecView} (tok : Token) (h : v.hdr.ndest ≠ 0) : outs1 v tok ≠ [] := by
  have nonzero : v.hdr.ndest.toNat ≠ 0 := fun e => h (BitVec.eq_of_toNat_eq e)
  unfold outs1
  split
  · exact absurd ‹_› nonzero
  · exact List.cons_ne_nil _ _
  · exact List.cons_ne_nil _ _

/-- An answer on its own die is back with no message (R124). -/
theorem Machine.State.sendAnswer_near {d : Nat} {f : Firing} {v : RecView} {w2 : Word} {outs : List Out} (near : d = sqDie f.sq)
    (ok : s.sendFault outs = none) (some : outs ≠ []) : s.sendAnswer d f v w2 outs =
    s.modElem f.elem fun x => { x with answers := x.answers ++ [{ toks := s.flights f v outs, via := 0 }] } := by
  subst near
  simp only [State.sendAnswer, ok, List.isEmpty_iff, some, if_false, State.post_self]

theorem tryHalloc_takes {f : Firing} {v : RecView} {q b : Nat} (hv : s.view f.key = v)
    (hb : ((s.mt q).fits v.lit (fld f.t0.val.toNat 26 6 + 1) (fld f.t0.val.toNat 19 7 + 1)).find?
      (fun c => dCnt ((s.mt q).bufs.look c) == 0) = some b) : s.tryHalloc q f =
    some ((s.modDesc q b fun d => setField (setField d 38 16 1) 62 1 0).sendAnswer (sqDie q) f v (portB v f)
      (outs1 v (f.base 1 (allocHandle v.lit f.t0.val b (dGen ((s.mt q).bufs.look b)))))) := by
  subst hv
  simp only [State.tryHalloc, hb]

theorem tryHalloc_waits {f : Firing} {v : RecView} {q : Nat} (hv : s.view f.key = v)
    (hb : ∀ b ∈ (s.mt q).fits v.lit (fld f.t0.val.toNat 26 6 + 1) (fld f.t0.val.toNat 19 7 + 1), dCnt ((s.mt q).bufs.look b) ≠ 0) :
    s.tryHalloc q f = none := by
  subst hv
  have none_free : ((s.mt q).fits (s.view f.key).lit (fld f.t0.val.toNat 26 6 + 1) (fld f.t0.val.toNat 19 7 + 1)).find?
      (fun c => dCnt ((s.mt q).bufs.look c) == 0) = none := by
    simpa using hb
  simp only [State.tryHalloc, none_free]

/-- A `halloc` whose request word is in order, for an MT of its own die at which none waits. -/
structure HallocHere (s : State) (r : D2) : Prop where
  dt : fld s.opA.toNat 60 4 = 0
  gen : fld s.opA.toNat 32 14 = 0
  low : fld s.opA.toNat 0 19 = 0
  there : s.mtThere (fld s.opA.toNat 46 14) = true
  near : sqDie (fld s.opA.toNat 46 14) = sqDie s.cur.sq
  mx : dtMx r.lit.toNat = true → (fld s.opA.toNat 19 7 + 1) % 32 = 0
  idle : (s.mt (fld s.opA.toNat 46 14)).hallocQ = []
  fits : (s.mt (fld s.opA.toNat 46 14)).fits r.lit.toNat (fld s.opA.toNat 26 6 + 1) (fld s.opA.toNat 19 7 + 1) ≠ []

theorem execHalloc_here {r : D2} (h : HallocHere s r) : exec (.halloc r) s =
    match s.tryHalloc (fld s.opA.toNat 46 14) s.cur with
    | some t => .next t
    | none => .next ((s.modMt (fld s.opA.toNat 46 14) fun m => { m with hallocQ := [s.cur] }).serveHallocs
        (fld s.opA.toNat 46 14) [s.cur]) := by
  obtain ⟨dt, gen, low, there, near, mx, idle, fits⟩ := h
  have inOrder : (dtMx (r.view 0x86).lit && (fld s.cur.t0.val.toNat 19 7 + 1) % 32 != 0) = false := by
    cases e : dtMx (r.view 0x86).lit
    · rfl
    · simpa [State.opA] using mx e
  have some : ((s.mt (fld s.cur.t0.val.toNat 46 14)).fits (r.view 0x86).lit (fld s.cur.t0.val.toNat 26 6 + 1)
      (fld s.cur.t0.val.toNat 19 7 + 1)).isEmpty = false := List.isEmpty_eq_false_iff.mpr fits
  have queued : (s.modMt (fld s.opA.toNat 46 14) fun m => { m with hallocQ := m.hallocQ ++ [s.cur] }) =
      s.modMt (fld s.opA.toNat 46 14) fun m => { m with hallocQ := [s.cur] } := by
    rw [State.modMt, State.modMt, Tbl.upd, Tbl.upd, show (s.mts.look _).hallocQ = [] from idle]
    rfl
  show execHalloc r s = _
  rw [execHalloc]
  simp only [dt, gen, low, there, near, State.hallocAt, inOrder, some, bne_self_eq_false, Bool.or_false, Bool.not_true,
    Bool.false_eq_true, if_false]
  rw [show (s.mt (fld s.cur.t0.val.toNat 46 14)).hallocQ.isEmpty = true from List.isEmpty_iff.mpr idle, if_pos rfl]
  rw [show (fld s.cur.t0.val.toNat 46 14) = (fld s.opA.toNat 46 14) from rfl]
  cases s.tryHalloc (fld s.opA.toNat 46 14) s.cur with
  | some t => rfl
  | none =>
    simp only [queued, State.mt_modMt_same]

/-! ### A handle instruction for the MT of another die (R387, R404) -/

/-- A request that sets out is written with the number of its message. -/
theorem sendReq_posts (s : State) (id a b : Nat) : ∃ n, Posts s (s.sendReq id a b) a b n ∧
    (s.sendReq id a b).reqs = s.reqs.upd id fun r => { r with via := n } := by
  let r := s.reqs.look id
  let m : Msg :=
    { cls := .mreq, head := msgHead r.mop r.sizeOf id a b 0 r.eseq (r.pa.getD 0), data := r.bytes
      leg := msgLeg a b r.fromSq (if b = r.home then r.goalSq else none) }
  have sent : s.sendReq id a b =
      { (s.post a b m).1 with reqs := (s.post a b m).1.reqs.upd id fun r => { r with via := (s.post a b m).2 } } := rfl
  have posts := posts_post s a b m
  rw [sent]
  refine ⟨(s.post a b m).2, ⟨posts.1, posts.2⟩, ?_⟩
  rw [s.post_eq]

theorem sendReq_frame (s : State) (id a b : Nat) : s.sendReq id a b =
    { s with serial := (s.sendReq id a b).serial, reqs := (s.sendReq id a b).reqs, chans := (s.sendReq id a b).chans } := by
  unfold State.sendReq
  dsimp only
  rw [s.post_eq]

theorem askObj_asks (v : RecView) (pa : Nat) : ∃ t b, s.askObj v 0 pa = t ∧
    t = { s with serial := t.serial, reqs := t.reqs, chans := t.chans } ∧
    (∀ n, n ≠ s.serial + 1 → t.reqs.look n = s.reqs.look n) ∧
    Posts { s with serial := s.serial + 1 } t (sqDie s.cur.sq) (homeDie pa) b ∧
    t.reqs.look (s.serial + 1) =
      { f := s.cur, op := v.op.toNat, rid := s.ridOf s.cur.sq, lid := s.lidOf s.cur.sq, die := sqDie s.cur.sq
        cluster := clusterOf s.cur.sq, size := 16, pa := some pa, tgt := 0, stage := .sent
        start := s.tick (sqDie s.cur.sq), tout := (s.die (sqDie s.cur.sq)).reqto.toNat, via := b
        data := [portB v s.cur] } := by
  let r : MReq :=
    { f := s.cur, op := v.op.toNat, rid := s.ridOf s.cur.sq, lid := s.lidOf s.cur.sq, die := sqDie s.cur.sq
      cluster := clusterOf s.cur.sq, size := 16, pa := some pa, tgt := 0, stage := .sent
      start := s.tick (sqDie s.cur.sq), tout := (s.die (sqDie s.cur.sq)).reqto.toNat, data := [portB v s.cur] }
  let s1 := { s with serial := s.serial + 1, reqs := s.reqs.put (s.serial + 1) r }
  have asked : s.askObj v 0 pa = s1.sendReq (s.serial + 1) (sqDie s.cur.sq) (homeDie pa) := rfl
  obtain ⟨n, posts, reqs⟩ := sendReq_posts s1 (s.serial + 1) (sqDie s.cur.sq) (homeDie pa)
  have frame := sendReq_frame s1 (s.serial + 1) (sqDie s.cur.sq) (homeDie pa)
  refine ⟨_, n, asked, frame, fun k hk => ?_, ⟨posts.1, posts.2⟩, ?_⟩
  · rw [reqs, Tbl.look_upd_other _ _ _ _ hk]
    exact Tbl.look_put_other _ _ _ _ hk
  · rw [reqs, Tbl.look_upd_same]
    exact congrArg (fun x : MReq => { x with via := n }) (Tbl.look_put_same ..)

theorem tileNode_far {v : RecView} (there : s.mtThere (winOf s.opA).q = true) (far : sqDie (winOf s.opA).q ≠ sqDie s.cur.sq) :
    tileNode v s = askMt v 0 (winOf s.opA).q s := by
  have away : s.tileFar s.cur s.opA = true := by simp [State.tileFar, there, far]
  simp only [tileNode, away, if_true]

theorem execHalloc_far {r : D2} (dt : fld s.opA.toNat 60 4 = 0) (gen : fld s.opA.toNat 32 14 = 0) (low : fld s.opA.toNat 0 19 = 0)
    (there : s.mtThere (winOf s.opA).q = true) (far : sqDie (winOf s.opA).q ≠ sqDie s.cur.sq) :
    exec (.halloc r) s = askMt (r.view 0x86) 0 (winOf s.opA).q s := by
  have there' : s.mtThere (fld s.opA.toNat 46 14) = true := there
  have far' : (sqDie (fld s.opA.toNat 46 14) != sqDie s.cur.sq) = true := bne_iff_ne.mpr far
  show execHalloc r s = _
  simp only [execHalloc, dt, gen, low, there', far', bne_self_eq_false, Bool.or_false, Bool.not_true, Bool.false_eq_true,
    if_false, if_true]
  rfl

/-! ### At the MT -/

/-- A handle instruction's request is performed at its MT. -/
theorem homeAccess_tile {op : Nat} (hr : s.homeReady s.at_.a = true) (hop : (s.reqs.look s.at_.a).op = op) (lo : 0x83 ≤ op)
    (hi : op ≤ 0x8B) : exec .homeAccess s = .next (s.tileHome s.at_.a) := by
  have ho : (s.reqs.look s.at_.a).atObject = true := by simp [MReq.atObject, hop, lo, hi]
  have home : s.objHome s.at_.a = s.tileHome s.at_.a := by
    rw [State.objHome, hop]
    interval_cases op <;> rfl
  show execHomeAccess s = _
  simp only [execHomeAccess, hr, ho, home, Bool.not_true, Bool.false_eq_true, if_false, if_true]


theorem op_beq_halloc {v : RecView} (h : v.op.toNat ≠ 0x86) : (v.op == 0x86) = false :=
  beq_eq_false_iff_ne.mpr fun e => h (congrArg BitVec.toNat e)

theorem tileOp_bad {f : Firing} {v : RecView} {k : Nat × Nat} (h : s.handleFault f.t0.val 0 = some k) :
    s.tileOp f v = .bad k.1 k.2 := by
  simp only [State.tileOp, h]

/-- At its MT an operation that cannot be done answers its request with the fault. -/
theorem tileHome_fails {id kind detail : Nat} (hv : (s.view (s.reqs.look id).f.key).op.toNat ≠ 0x86)
    (op : s.tileOp (s.reqs.look id).f (s.view (s.reqs.look id).f.key) = .bad kind detail) :
    s.tileHome id = s.replyFails id kind detail := by
  simp only [State.tileHome, op_beq_halloc hv, op, Bool.false_eq_true, if_false]

/-- At its MT an operation that changes one descriptor changes that, and answers its request with its token. -/
theorem tileHome_does {id q b : Nat} {tok : Token} {upd : State → State} {new : Word}
    (hv : (s.view (s.reqs.look id).f.key).op.toNat ≠ 0x86)
    (op : s.tileOp (s.reqs.look id).f (s.view (s.reqs.look id).f.key) = .ok tok 0 upd) (set : DescSet s (upd s) q b new) :
    s.tileHome id = { s with reqs := (s.tileHome id).reqs, mts := (s.tileHome id).mts, serial := (s.tileHome id).serial
                             chans := (s.tileHome id).chans } ∧
      (s.tileHome id).desc q b = new ∧ (∀ p c, (p ≠ q ∨ c ≠ b) → (s.tileHome id).desc p c = s.desc p c) ∧
      ((s.tileHome id).reqs.look id).tok = tok ∧ ((s.tileHome id).reqs.look id).performed = true ∧
      ((s.tileHome id).reqs.look id).err = none := by
  obtain ⟨frame, same, other⟩ := set
  obtain ⟨m, hm⟩ : ∃ m, upd s = { s with mts := m } := ⟨_, frame⟩
  rw [hm] at same other
  let u := { s with mts := m, reqs := (s.reqs.upd id fun r => { r with words := [] }).upd id fun r => { r with tok := tok } }
  have home : s.tileHome id = u.replyTo id 0 := by
    simp only [State.tileHome, op_beq_halloc hv, op, hm, Bool.false_eq_true, if_false, if_true]
    rfl
  obtain ⟨n, answered⟩ := u.req_answerWith id 0 none
  have desc (p c : Nat) : (u.replyTo id 0).desc p c = { s with mts := m }.desc p c := by
    rw [State.desc, State.mt, u.mts_replyTo]
    rfl
  rw [home]
  refine ⟨(u.replyTo_frame id 0).trans (by rw [u.mts_replyTo]), (desc q b).trans same,
    fun p c h => (desc p c).trans (other p c h), ?_, ?_, ?_⟩ <;> rw [State.replyTo, answered]
  · simp [u, MReq.answered]
  · rfl
  · rfl

/-- Settles O37: each operation sets one descriptor and sends or answers its token; away it asks the MT. -/
theorem handlesAndBuffers : Obligations.HandlesAndBuffers := by
  unfold Obligations.HandlesAndBuffers
  refine ⟨fun r s => ?_, fun r s => ?_, fun s => ⟨?_, ?_⟩⟩
  · intro w d e x does hf near
    have op (v : RecView) := tileOp_ok (s := s) (f := s.cur) (v := v) hf
    refine ⟨fun hc hd => ?_, fun hc hd => ?_, fun hc hq hd => ?_, fun hd => ?_, fun hd => ?_, ?_⟩
    · obtain ⟨href, -⟩ := op (r.view 0x84)
      exact tileNode_does near ((href rfl).trans (hrefAt_ok hc)) hd fun g => modDesc_sets ..
    · obtain ⟨-, hdrop, -⟩ := op (r.view 0x85)
      exact tileNode_does near (hdrop rfl) hd fun g => dropRef_sets (s := s.modElem s.cur.elem g) hc
    · obtain ⟨-, hdrop, -⟩ := op (r.view 0x85)
      have count : dCnt (s.desc (winOf s.cur.t0.val).q (winOf s.cur.t0.val).buf) = 1 := hc
      have drop := (hdrop rfl).trans (by rw [State.hdropAt, count])
      exact tileNode_does near drop hd fun g => dropRef_sets_last (s := s.modElem s.cur.elem g) hc hq
    · obtain ⟨-, -, -, tfull, -⟩ := op (r.view 0x8A)
      exact tileNode_does near (tfull rfl) hd fun g => modDesc_sets ..
    · obtain ⟨-, -, -, -, tempty⟩ := op (r.view 0x8B)
      exact tileNode_does near (tempty rfl) hd fun g => modDesc_sets ..
    · refine hinfo_gives near hf ?_
      refine ⟨rfl, fun h => ?_, fun h => ?_, fun h => ?_⟩
      · rw [h]; exact hinfoWord_zero w d
      · rw [h]; exact hinfoWord_one s.opA d
      · rw [h]; exact hinfoWord_two w d
  · intro v n q m fits h dt gen low there near mx idle hv
    refine ⟨fun b hb free lowest some hd => ?_, fun some full val => ?_⟩
    · have here := execHalloc_here ⟨dt, gen, low, there, near, mx, idle, List.ne_nil_of_mem hb⟩
      have first : fits.find? (fun c => dCnt (m.bufs.look c) == 0) = .some b :=
        find_lowest (fits_sorted ..) hb (by simpa using free) (by simpa using lowest)
      let u := s.modDesc q b fun d => setField (setField d 38 16 1) 62 1 0
      have ok : u.sendFault (outs1 v (s.cur.base 1 (h b))) = none := (sendFault_outs1 s v _ {}).trans hd
      have sent := State.sendAnswer_near (v := v) (w2 := portB v s.cur) near ok (outs1_ne_nil _ some)
      rw [tryHalloc_takes hv first] at here
      replace here := here.trans (congrArg Host.Outcome.next sent)
      have set : DescSet s u q b _ := modDesc_sets ..
      exact ⟨_, 0, here, rfl, ⟨fun _ => ⟨rfl, rfl, rfl⟩, fun far => absurd (by rw [near, pathLinks, if_pos rfl]) far⟩, set.same,
        set.other, fun k hk => State.elem_modElem_other _ _ _ _ hk, State.elem_modElem_same _ _ _⟩
    · have here := execHalloc_here ⟨dt, gen, low, there, near, mx, idle, some⟩
      have waits := tryHalloc_waits hv full
      have waits' : (s.modMt q fun m => { m with hallocQ := [s.cur] }).tryHalloc q s.cur = none :=
        tryHalloc_waits hv (by rw [State.mt_modMt_same]; exact full)
      refine ⟨s.modMt q fun m => { m with hallocQ := [s.cur] }, ?_, rfl, fun p hp => s.mt_modMt_other _ _ _ hp, s.mt_modMt_same _ _⟩
      rw [here, waits]
      dsimp only
      rw [State.serveHallocs, waits']
      rfl
  · intro f d q pa asks there far
    have away (v : RecView) := (tileNode_far (v := v) there far).trans
      (congrArg Host.Outcome.next rfl : askMt v 0 q s = .next (s.askObj v 0 pa))
    have all {i : Instr} {v : RecView} (e : exec i s = .next (s.askObj v 0 pa)) : asks i v := by
      obtain ⟨t, b, rfl, rest⟩ := askObj_asks (s := s) v pa
      exact ⟨_, b, e, rest⟩
    refine ⟨fun r => all (away _), fun r => ⟨all (away _), all (away _), all (away _), all (away _), all (away _), all (away _),
      all (away _), fun dt gen low => all (execHalloc_far dt gen low there far)⟩⟩
  · intro id r w d does hr stage hop lo hi
    have home := homeAccess_tile hr rfl lo hi
    have other {n : Nat} (e : r.op = n) (hn : n ≠ 0x86) : (s.view r.f.key).op.toNat ≠ 0x86 := by rw [hop, e]; exact hn
    have op := tileOp_ok (s := s) (f := r.f) (v := s.view r.f.key)
    refine ⟨fun k hk hf => ?_, fun hf => ⟨fun h84 hc => ?_, fun h84 hc => ?_, fun h85 hc => ?_, fun h8A => ?_, fun h8B => ?_⟩⟩
    · exact home.trans (congrArg _ (tileHome_fails (by rw [hop]; exact hk) (tileOp_bad hf)))
    · obtain ⟨href, -⟩ := op hf
      exact ⟨_, home, tileHome_does (other h84 (by decide)) ((href (hop.trans h84)).trans (hrefAt_ok hc)) (modDesc_sets ..)⟩
    · obtain ⟨href, -⟩ := op hf
      exact home.trans (congrArg _ (tileHome_fails (other h84 (by decide)) ((href (hop.trans h84)).trans (if_pos hc))))
    · obtain ⟨-, hdrop, -⟩ := op hf
      exact ⟨_, home, tileHome_does (other h85 (by decide)) (hdrop (hop.trans h85)) (dropRef_sets hc)⟩
    · obtain ⟨-, -, -, tfull, -⟩ := op hf
      exact ⟨_, home, tileHome_does (other h8A (by decide)) (tfull (hop.trans h8A)) (modDesc_sets ..)⟩
    · obtain ⟨-, -, -, -, tempty⟩ := op hf
      exact ⟨_, home, tileHome_does (other h8B (by decide)) (tempty (hop.trans h8B)) (modDesc_sets ..)⟩


end Sys2Proof
end

section
/-!
The flip of a region's configuration (R56, R273, R307, R311, R312, R319, R322).
-/
namespace Sys2Proof
open Machine

variable {s : State}

/-! ### Tables that are written or cut one entry after the other -/

/-- Each key of the list is written once. -/
theorem look_foldl_upd {α : Type} [Inhabited α] [DecidableEq α] (F : Nat → α → α) {l : List Nat} (h : l.Nodup)
    (t : Tbl α) (k : Nat) :
    (l.foldl (fun t e => t.upd e (F e)) t).look k = if k ∈ l then F k (t.look k) else t.look k := by
  induction l generalizing t with
  | nil => rfl
  | cons e l ih =>
    obtain ⟨fresh, h⟩ := List.nodup_cons.mp h
    rw [List.foldl_cons, ih h]
    by_cases ke : k = e
    · subst ke
      simp [fresh]
    · simp [ke, Tbl.look_upd_other]

/-- Entries each written without regard to the last. -/
theorem look_foldl_set {α : Type} [Inhabited α] {v : Nat → α} {step : Tbl α → Nat → Tbl α}
    (h : ∀ t b n, (step t b).look n = if n = b then v b else t.look n) (l : List Nat) (t : Tbl α) (n : Nat) :
    (l.foldl step t).look n = if n ∈ l then v n else t.look n := by
  induction l generalizing t with
  | nil => rfl
  | cons b l ih =>
    rw [List.foldl_cons, ih, h]
    by_cases nb : n = b
    · subst nb
      simp
    · simp [nb]

/-- A list of entries leaves the last that it has for a key. -/
theorem look_foldl_put {α β : Type} [Inhabited α] [DecidableEq α] (key : β → Nat) (val : β → α) (l : List β) (n : Nat) :
    (l.foldl (fun (t : Tbl α) p => t.put (key p) (val p)) []).look n =
      ((l.filter fun p => key p == n).getLast?.map val).getD default := by
  induction l using List.reverseRecOn with
  | nil => rfl
  | append_singleton l p ih =>
    rw [List.foldl_append, List.foldl_cons, List.foldl_nil, Tbl.look_put]
    by_cases np : n = key p
    · subst np
      simp
    · simp [np, ih, Ne.symm np]

/-- A property of each entry that every write keeps. -/
theorem foldl_keeps {β γ : Type} {P : β → Prop} {step : β → γ → β} (h : ∀ t x, P t → P (step t x)) (l : List γ)
    {t : β} (ht : P t) :
    P (l.foldl step t) := by
  induction l generalizing t with
  | nil => exact ht
  | cons x l ih => exact ih (h t x ht)

/-- The keys rise. -/
def Rising {α : Type} (m : Tbl α) : Prop := List.Pairwise (fun (p q : Nat × α) => p.1 < q.1) m

theorem rising_of_wf {α : Type} [Inhabited α] [DecidableEq α] {m : Tbl α} (h : m.wf = true) : Rising m := by
  induction m with
  | nil => exact .nil
  | cons p t ih =>
    obtain ⟨k, v⟩ := p
    obtain ⟨-, first, rest⟩ := (Tbl.wf_cons k v t).mp h
    exact .cons first (ih rest)

theorem rising_mapTbl {α : Type} {m : Tbl α} (h : Rising m) (f : Nat → α → α) : Rising (mapTbl m f) := by
  rw [Rising, mapTbl, List.pairwise_map]
  exact h

theorem rising_ins {α : Type} {m : Tbl α} (h : Rising m) (k : Nat) (v : α) : Rising (m.ins k v) := by
  induction m with
  | nil => exact .cons (by simp) .nil
  | cons p t ih =>
    obtain ⟨j, w⟩ := p
    obtain ⟨first, rest⟩ := List.pairwise_cons.mp h
    unfold Tbl.ins
    split
    next kj => exact .cons (fun p hp => (List.mem_cons.mp hp).elim (fun e => e ▸ kj) fun hp => kj.trans (first p hp)) h
    next kj =>
      split
      next jk => subst jk; exact .cons first rest
      next jk =>
        refine .cons (fun p hp => ?_) (ih rest)
        rcases Tbl.mem_ins _ _ _ _ hp with rfl | hp
        · exact Nat.lt_of_le_of_ne (Nat.le_of_not_lt kj) jk
        · exact first p hp

theorem rising_upd {α : Type} [Inhabited α] [DecidableEq α] {m : Tbl α} (h : Rising m) (k : Nat)
    (f : α → α) : Rising (m.upd k f) := by
  rw [Tbl.upd, Tbl.put]
  split
  · exact h.filter _
  · exact rising_ins h ..

theorem look_mapTbl {α : Type} [Inhabited α] (m : Tbl α) {f : Nat → α → α} {k : Nat} (h : f k default = default) :
    (mapTbl m f).look k = f k (m.look k) := by
  induction m with
  | nil => exact h.symm
  | cons p t ih =>
    obtain ⟨j, w⟩ := p
    by_cases e : j = k
    · subst e
      simp [mapTbl, Tbl.look]
    · simpa [mapTbl, Tbl.look, e] using ih

theorem look_absent {α : Type} [Inhabited α] {m : Tbl α} {k : Nat} (h : ∀ p ∈ m, k < p.1) : m.look k = default := by
  induction m with
  | nil => rfl
  | cons p t ih =>
    obtain ⟨j, w⟩ := p
    have first := h _ List.mem_cons_self
    rw [Tbl.look, if_neg (by simp at first; omega), ih fun p hp => h p (List.mem_cons_of_mem _ hp)]

/-- Of a table whose keys rise, only entries that say nothing are dropped. -/
theorem look_filter {α : Type} [Inhabited α] {m : Tbl α} (h : Rising m) {f : Nat × α → Bool}
    (hf : ∀ p ∈ m, f p = false → p.2 = default) (k : Nat) :
    Tbl.look (List.filter f m) k = m.look k := by
  induction m with
  | nil => rfl
  | cons p t ih =>
    obtain ⟨j, w⟩ := p
    obtain ⟨first, rest⟩ := List.pairwise_cons.mp h
    replace ih := ih rest fun p hp => hf p (List.mem_cons_of_mem _ hp)
    cases e : f (j, w) with
    | true => simp [e, Tbl.look, ih]
    | false =>
      rw [List.filter_cons, e, if_neg Bool.false_ne_true, ih, Tbl.look]
      split
      next jk => subst jk; rw [look_absent first, ← hf _ List.mem_cons_self e]
      next => rfl

/-- An entry that is not dropped stays what it is. -/
theorem look_filter_kept {α : Type} [Inhabited α] (m : Tbl α) {f : Nat × α → Bool} {k : Nat} (h : f (k, m.look k) = true) :
    Tbl.look (List.filter f m) k = m.look k := by
  induction m with
  | nil => rfl
  | cons p t ih =>
    obtain ⟨j, w⟩ := p
    by_cases e : j = k
    · subst e
      rw [Tbl.look, if_pos rfl] at h ⊢
      rw [List.filter_cons, if_pos h, Tbl.look, if_pos rfl]
    · rw [Tbl.look, if_neg e] at h ⊢
      rw [List.filter_cons]
      split
      · rw [Tbl.look, if_neg e, ih h]
      · exact ih h

/-! ### The squares and elements of a region -/

theorem nodup_flatMap_of_inverse {β : Type} {l : List Nat} (h : l.Nodup) {f : Nat → List β} (g : β → Nat)
    (one : ∀ c ∈ l, (f c).Nodup) (inv : ∀ c ∈ l, ∀ x ∈ f c, g x = c) : (l.flatMap f).Nodup := by
  refine List.nodup_flatMap.mpr ⟨one, h.imp_of_mem fun {c d} hc hd cd x xc xd => cd ?_⟩
  rw [← inv c hc x xc, ← inv d hd x xd]

theorem sqX_mkSq {d x y : Nat} (hx : x < 64) : sqX (mkSq d x y) = x := by
  rw [sqX, mkSq]
  omega

theorem sqY_mkSq {d x y : Nat} (hx : x < 64) (hy : y < 64) : sqY (mkSq d x y) = y := by
  rw [sqY, mkSq]
  omega

theorem sqDie_mkSq {d x y : Nat} (hx : x < 64) (hy : y < 64) : sqDie (mkSq d x y) = d := by
  rw [sqDie, mkSq]
  omega

/-- Square `i` of cluster `c`. -/
def squareOf (c i : Nat) : Nat := mkSq (c / 48) (c % 48 % 8 * 8 + i % 8) (c % 48 / 8 * 6 + i / 8)

theorem squareOf_inverse {c i : Nat} (hi : i < 48) :
    clusterOf (squareOf c i) = c ∧ sqY (squareOf c i) % 6 * 8 + sqX (squareOf c i) % 8 = i := by
  have hx : c % 48 % 8 * 8 + i % 8 < 64 := by omega
  have hy : c % 48 / 8 * 6 + i / 8 < 64 := by omega
  simp only [clusterOf, squareOf, sqX_mkSq hx, sqY_mkSq hx hy, sqDie_mkSq hx hy]
  omega

theorem regionSquares_nodup {g : Region} (h : g.clusters.Nodup) : (regionSquares g).Nodup := by
  refine nodup_flatMap_of_inverse h clusterOf (fun c _ => ?_) fun c _ q hq => ?_
  · refine List.Nodup.map_on (fun i hi j hj e => ?_) List.nodup_range
    obtain ⟨-, ci⟩ := squareOf_inverse (c := c) (List.mem_range.mp hi)
    obtain ⟨-, cj⟩ := squareOf_inverse (c := c) (List.mem_range.mp hj)
    rw [← ci, ← cj, squareOf, squareOf, e]
  · obtain ⟨i, hi, rfl⟩ := List.mem_map.mp hq
    exact (squareOf_inverse (List.mem_range.mp hi)).1

/-- The elements of square `i` of cluster `c`. -/
def elemsOf (c i : Nat) : List Nat :=
  if (c % 48 % 8 * 8 + i % 8 + (c % 48 / 8 * 6 + i / 8)) % 2 == 0 then (List.range 4).map fun k => squareOf c i * 4 + k else []

theorem square_of_mem {c i e : Nat} (h : e ∈ elemsOf c i) : e / 4 = squareOf c i := by
  unfold elemsOf at h
  split at h
  · obtain ⟨k, hk, rfl⟩ := List.mem_map.mp h
    have := List.mem_range.mp hk
    omega
  · cases h

theorem elemsOf_nodup (c i : Nat) : (elemsOf c i).Nodup := by
  unfold elemsOf
  split
  · exact List.nodup_range.map fun a b e => Nat.add_left_cancel e
  · exact .nil

theorem regionElems_nodup {g : Region} (h : g.clusters.Nodup) : (regionElems g).Nodup := by
  have elems : regionElems g = g.clusters.flatMap fun c => (List.range 48).flatMap (elemsOf c) := rfl
  rw [elems]
  refine nodup_flatMap_of_inverse h (fun e => clusterOf (e / 4)) (fun c _ => ?_) fun c _ e he => ?_
  · refine nodup_flatMap_of_inverse List.nodup_range (fun e => sqY (e / 4) % 6 * 8 + sqX (e / 4) % 8) (fun i _ => elemsOf_nodup c i) ?_
    intro i hi e he
    rw [square_of_mem he, (squareOf_inverse (List.mem_range.mp hi)).2]
  · obtain ⟨i, hi, he⟩ := List.mem_flatMap.mp he
    rw [square_of_mem he, (squareOf_inverse (List.mem_range.mp hi)).1]

/-! ### What a commit leaves of an element, a CT and an MT -/

/-- The LUTs that the block writes. -/
def withLuts (b : Block) (e : Nat) (x : Elem) : Elem :=
  (b.luts.filter fun p => p.1 / 4 == e).foldl (fun x p =>
    { x with lut := ((wordsOf p.2 128).zip (List.range 128)).foldl (fun (t : Tbl Word) w => t.put (p.1 % 4 * 128 + w.2) w.1) x.lut }) x

theorem withLuts_eq (b : Block) (e : Nat) (x : Elem) : withLuts b e x = { x with lut := (withLuts b e x).lut } :=
  foldl_keeps (P := fun y : Elem => y = { x with lut := y.lut }) (fun _ _ h => by rw [h]) _ rfl

theorem lut_withLuts {b : Block} (h : b.luts = []) (e : Nat) (x : Elem) : (withLuts b e x).lut = x.lut := by
  rw [withLuts, h]
  rfl

/-- The records that the block gives an element. -/
def recordsOf (b : Block) (e : Nat) : Tbl Rec96 :=
  (b.records.filter fun p => p.1 / 1024 == e).foldl (fun (t : Tbl Rec96) p => t.put (p.1 % 1024) p.2) []

theorem look_recordsOf (b : Block) (e : Nat) {n : Nat} (hn : n < 1024) :
    (recordsOf b e).look n = ((b.records.filter fun p => p.1 == e * 1024 + n).getLast?.map (·.2)).getD 0 := by
  refine (look_foldl_put (fun p : Nat × Rec96 => p.1 % 1024) (·.2) _ n).trans ?_
  have same : (fun p : Nat × Rec96 => p.1 / 1024 == e && p.1 % 1024 == n) = fun p => p.1 == e * 1024 + n := by
    funext p
    rw [Bool.eq_iff_iff]
    simp only [Bool.and_eq_true, beq_iff_eq]
    omega
  rw [List.filter_filter]
  simp only [Bool.and_comm, same]
  rfl

theorem ct_commit_slots {c : Ct} (h : c.slots.wf = true) (cells : List Nat) (i : Nat) :
    (c.commit cells).slots.look i = { val := (c.slots.look i).val } := by
  refine (look_filter (rising_mapTbl (rising_of_wf h) _) (fun p hp e => ?_) i).trans (look_mapTbl _ rfl)
  obtain ⟨q, -, rfl⟩ := List.mem_map.mp hp
  have zero : q.2.val = 0 := by simpa using e
  show ({ val := q.2.val } : Slot) = default
  rw [zero]
  rfl

theorem ct_commit_bar {c : Ct} (h : c.bar.wf = true) (cells : List Nat) (i : Nat) :
    ((c.commit cells).bar.look i).w0 = (c.bar.look i).w0 ∧ ((c.commit cells).bar.look i).w1 = (c.bar.look i).w1 := by
  let kept := mapTbl c.bar fun _ b => ({ w0 := b.w0, w1 := b.w1 } : BarCell)
  let P (t : Tbl BarCell) : Prop := Rising t ∧ ∀ j, (t.look j).w0 = (c.bar.look j).w0 ∧ (t.look j).w1 = (c.bar.look j).w1
  have start : P kept := ⟨rising_mapTbl (rising_of_wf h) _, fun j => by rw [look_mapTbl _ rfl]; exact ⟨rfl, rfl⟩⟩
  obtain ⟨rising, words⟩ := foldl_keeps (P := P)
    (step := fun (t : Tbl BarCell) i => t.upd i fun b => { b with declared := true }) (fun t k ht => ⟨rising_upd ht.1 .., fun j => by
      rw [Tbl.look_upd]
      split
      · next e => subst e; exact ht.2 _
      · exact ht.2 j⟩) cells start
  refine Eq.mp (congrArg (fun x : BarCell => x.w0 = _ ∧ x.w1 = _) (look_filter rising (fun p _ e => ?_) i).symm) (words i)
  exact bne_eq_false_iff_eq.mp e

/-- The descriptor of buffer `n` after a commit (R311). -/
def committedDesc (m : Mt) (decl : List (Nat × Word)) (n : Nat) : Word :=
  match decl.find? fun p => p.1 == n with
  | some p => setField (setField p.2 54 8 (dGen (m.bufs.look n) + 1)) 0 9 0
  | none => setField 0 54 8 (dGen (m.bufs.look n))

theorem look_commitBufs (m : Mt) (decl : List (Nat × Word)) {n : Nat} (hn : n < 64) :
    (commitBufs m decl).look n = committedDesc m decl n := by
  refine (look_foldl_set (v := committedDesc m decl) (fun t b n => ?_) (List.range 64) [] n).trans (if_pos (List.mem_range.mpr hn))
  have put : (match decl.find? fun p => p.1 == b with
      | some p => t.put b (setField (setField p.2 54 8 (dGen (m.bufs.look b) + 1)) 0 9 0)
      | none => t.put b (setField 0 54 8 (dGen (m.bufs.look b)))) = t.put b (committedDesc m decl b) := by
    unfold committedDesc
    split <;> rfl
  refine (congrArg (fun t => Tbl.look t n) put).trans ((Tbl.look_put ..).trans ?_)
  split <;> rfl

theorem find_declared (bufs : List (Nat × Word)) (q : Nat) {n : Nat} (hn : n < 64) :
    ((bufs.filter fun p => p.1 / 64 == q).map fun p => (p.1 % 64, p.2)).find? (fun p => p.1 == n) =
      (bufs.find? fun p => p.1 == q * 64 + n).map fun p => (p.1 % 64, p.2) := by
  have same : (fun p : Nat × Word => decide ((p.1 / 64 == q) = true ∧ (p.1 % 64 == n) = true)) = fun p => p.1 == q * 64 + n := by
    funext p
    rw [Bool.eq_iff_iff]
    simp only [decide_eq_true_iff, beq_iff_eq]
    omega
  rw [List.find?_map, List.find?_filter]
  congr 2

theorem commitMt_queues (b : Block) (lid q : Nat) (m : Mt) (i : Nat) : ((s.commitMt b lid q m).queues.look i).cons = 0 ∧
    ((s.commitMt b lid q m).queues.look i).pub = 0 ∧ ((s.commitMt b lid q m).queues.look i).resv = 0 := by
  let P (t : Tbl Queue) : Prop := ∀ j, (t.look j).cons = 0 ∧ (t.look j).pub = 0 ∧ (t.look j).resv = 0
  refine foldl_keeps (P := P) (fun t p ht j => ?_) _ (fun j => ⟨rfl, rfl, rfl⟩) i
  rw [Tbl.look_put]
  split
  · exact ⟨rfl, rfl, rfl⟩
  · exact ht j

/-! ### The elements and squares of the region -/

theorem foldl_modElem (F : Nat → Elem → Elem) (l : List Nat) (s : State) :
    l.foldl (fun st e => st.modElem e (F e)) s = { s with elems := l.foldl (fun t e => t.upd e (F e)) s.elems } := by
  induction l generalizing s with
  | nil => rfl
  | cons e l ih => rw [List.foldl_cons, ih]; rfl

/-- One square changes, a CT by `C` or an MT by `M`. -/
def modSquare (C : Nat → Ct → Ct) (M : Nat → Mt → Mt) (st : State) (q : Nat) : State :=
  if isCt q then st.modCt q (C q) else st.modMt q (M q)

/-- Each square of the list changes once. -/
theorem foldl_modSquare (C : Nat → Ct → Ct) (M : Nat → Mt → Mt) (l : List Nat) (s : State) :
    l.foldl (modSquare C M) s =
      { s with cts := (l.filter isCt).foldl (fun t q => t.upd q (C q)) s.cts
               mts := (l.filter fun q => !isCt q).foldl (fun t q => t.upd q (M q)) s.mts } := by
  induction l generalizing s with
  | nil => rfl
  | cons q l ih =>
    rw [List.foldl_cons, ih, modSquare]
    cases e : isCt q <;> simp [e, State.modCt, State.modMt]

/-- The configuration of an element, and of an MT, of the region. -/
def commitElem (s : State) (lid : Nat) (b : Block) (e : Nat) (x : Elem) : Elem :=
  withLuts b e (x.commit (recordsOf b e)
    ((b.quotas.filter fun p => p.1 / 1024 == e).foldl (fun (t : Tbl Nat) p => t.put (p.1 % 1024) p.2) [])
    ((b.records.filter fun p => p.1 / 1024 == e).foldl (fun (t : Tbl Nat) p => t.put (p.1 % 1024) (s.ninOf lid b p.1)) []))

def commitCt (b : Block) (q : Nat) (c : Ct) : Ct := c.commit ((b.bars.filter fun k => k / 32 == q).map (· % 32))

theorem commitSquares_eq (s : State) (rid lid : Nat) (b : Block) : s.commitSquares rid lid b =
    { s with elems := (regionElems (s.region rid)).foldl (fun t e => t.upd e (commitElem s lid b e)) s.elems
             cts := ((regionSquares (s.region rid)).filter isCt).foldl (fun t q => t.upd q (commitCt b q)) s.cts
             mts := ((regionSquares (s.region rid)).filter fun q => !isCt q).foldl (fun t q => t.upd q (s.commitMt b lid q)) s.mts } := by
  have squares : s.commitSquares rid lid b = (regionSquares (s.region rid)).foldl (modSquare (commitCt b) (s.commitMt b lid))
      ((regionElems (s.region rid)).foldl (fun st e => st.modElem e (commitElem s lid b e)) s) := rfl
  rw [squares, foldl_modSquare, foldl_modElem]

theorem elem_commitSquares {rid : Nat} (h : (s.region rid).clusters.Nodup) (lid : Nat) (b : Block) (e : Nat) :
    (s.commitSquares rid lid b).elem e = if e ∈ regionElems (s.region rid) then commitElem s lid b e (s.elem e) else s.elem e := by
  rw [commitSquares_eq]
  exact look_foldl_upd _ (regionElems_nodup h) _ _

theorem ct_commitSquares {rid : Nat} (h : (s.region rid).clusters.Nodup) (lid : Nat) (b : Block) {q : Nat}
    (hq : q ∈ regionSquares (s.region rid)) (ct : isCt q = true) : (s.commitSquares rid lid b).ct q = commitCt b q (s.ct q) := by
  rw [commitSquares_eq]
  exact (look_foldl_upd _ ((regionSquares_nodup h).filter _) _ _).trans (if_pos (List.mem_filter.mpr ⟨hq, ct⟩))

theorem mt_commitSquares {rid : Nat} (h : (s.region rid).clusters.Nodup) (lid : Nat) (b : Block) {q : Nat}
    (hq : q ∈ regionSquares (s.region rid)) (mt : isCt q = false) : (s.commitSquares rid lid b).mt q = s.commitMt b lid q (s.mt q) := by
  rw [commitSquares_eq]
  exact (look_foldl_upd _ ((regionSquares_nodup h).filter _) _ _).trans (if_pos (List.mem_filter.mpr ⟨hq, by rw [mt]; rfl⟩))

/-! ### The region's registers, requests and translations -/

theorem tlb_commitRegion (s : State) (rid : Nat) (b : Block) (c : Nat) :
    (s.commitRegion rid b).tlb.look c = if s.clRid.look c = rid then [] else s.tlb.look c := by
  split
  next h => exact Tbl.look_filter_same _ _ _ fun _ => bne_eq_false_iff_eq.mpr h
  next h => exact Tbl.look_filter_other _ _ _ fun _ => bne_iff_ne.mpr h

/-- The request of a store that the egress store buffer has acknowledged leaves its wave order. -/
def afterCommit (rid : Nat) (r : MReq) : MReq := if r.rid == rid && r.stage == .posted then { r with wave := false } else r

/-- Requests of other regions, and stores that the egress store buffer has acknowledged, stay (R293). -/
theorem req_commitRegion (s : State) (rid : Nat) (b : Block) {n : Nat}
    (h : (s.reqs.look n).rid ≠ rid ∨ (s.reqs.look n).stage = .posted) :
    (s.commitRegion rid b).reqs.look n = afterCommit rid (s.reqs.look n) := by
  have mapped : Tbl.look (mapTbl s.reqs fun _ r => afterCommit rid r) n = afterCommit rid (s.reqs.look n) :=
    look_mapTbl _ (by rw [afterCommit, if_neg (by simp [show (default : MReq).stage ≠ .posted by decide])])
  have reqs : (s.commitRegion rid b).reqs =
      (mapTbl s.reqs fun _ r => afterCommit rid r).filter fun p => p.2.rid != rid || p.2.orphan || p.2.stage == .posted := rfl
  rw [reqs]
  refine (look_filter_kept _ ?_).trans mapped
  rw [mapped, afterCommit]
  rcases h with h | h <;> split <;> simp [h]

/-! ### The flip -/

/-- The state of a region committed without START, before the `cfgcmt` is answered. -/
def flipped (s : State) (rid : Nat) (b : Block) : State :=
  ((s.commitSquares rid (s.region rid).load b).commitRegion rid b).modRegion rid fun x => { x with idle := true, noStart := true }

theorem exec_flip {blk : List Byte} {id : Nat} (ready : s.flipReady s.at_.a = true) (shadow : (s.region s.at_.a).shadow = some blk)
    (commit : (s.region s.at_.a).commit = some (id, false)) : exec .cfgCommitFlip s =
    match staticBad (Block.ofBytes blk) ((Block.ofBytes blk).links.foldl (fun (t : Tbl Nat) p => t.put p.1 p.2) []) with
    | some (k, n) => .next (s.flipFails s.at_.a id k n)
    | none =>
      let t := (flipped s s.at_.a (Block.ofBytes blk)).startRings s.at_.a
      .next (if id = 0 then t.owesRestore (s.region s.at_.a).load else t.replyVal id (s.reqs.look id).f.t0.val) := by
  show execCfgCommitFlip s = _
  simp only [execCfgCommitFlip, ready, shadow, commit, Option.getD_some, Bool.not_true, Bool.not_false, Bool.false_eq_true, if_false]
  rfl

/-- The region's registers after a commit. -/
def committedRegion (b : Block) (n : Nat) (r : Region) : Region :=
  { r with
    mode := b.mode, level := b.level, fcls := b.fcls, xroot := b.xroot &&& 0x800FFFFFFFFF0000#64, srseed := b.srseed, famt := b.famt
    fqmt := b.fqmt, fslim := b.fslim, stopped := false, withdraw := false, fx := [], allocIn := [], allocQ := [], lastGrant := n
    faultDest := b.fault.map (BitVec.ofNat 28), shadow := none, commit := none
    entries := b.entries.map fun p => (BitVec.ofNat 28 p.1, p.2)
    links := b.links.foldl (fun (t : Tbl Nat) p => t.put p.1 p.2) [], idle := true, noStart := true }

theorem regions_commitRegion (s : State) (rid : Nat) (b : Block) : (s.commitRegion rid b).regions =
    s.regions.upd rid fun r => { committedRegion b ((s.mendRecords rid).cyc (sqDie b.famt)) r with
                               idle := r.idle, noStart := r.noStart } := rfl

theorem region_commitRegion_same (s : State) (rid : Nat) (b : Block) : ∃ n, (s.commitRegion rid b).region rid =
    { committedRegion b n (s.region rid) with idle := (s.region rid).idle, noStart := (s.region rid).noStart } :=
  ⟨_, by rw [State.region, regions_commitRegion, Tbl.look_upd_same]; rfl⟩

theorem region_commitRegion_other (s : State) {rid : Nat} (b : Block) {r : Nat} (h : r ≠ rid) :
    (s.commitRegion rid b).region r = s.region r := by
  rw [State.region, regions_commitRegion, Tbl.look_upd_other _ _ _ _ h]
  rfl

theorem region_commitSquares (s : State) (rid lid : Nat) (b : Block) (r : Nat) : (s.commitSquares rid lid b).region r = s.region r := by
  rw [State.region, commitSquares_eq]
  rfl

theorem region_flipped_same (s : State) (rid : Nat) (b : Block) :
    ∃ n, (flipped s rid b).region rid = committedRegion b n (s.region rid) := by
  obtain ⟨n, h⟩ := region_commitRegion_same (s.commitSquares rid (s.region rid).load b) rid b
  rw [region_commitSquares] at h
  refine ⟨n, (State.region_modRegion_same _ _ _).trans ?_⟩
  rw [h]
  rfl

theorem region_flipped_other (s : State) {rid : Nat} (b : Block) {r : Nat} (h : r ≠ rid) : (flipped s rid b).region r = s.region r := by
  refine (State.region_modRegion_other _ _ _ _ h).trans ((region_commitRegion_other _ b h).trans ?_)
  exact region_commitSquares ..

theorem req_sendReply_other (s : State) {id n : Nat} (h : n ≠ id) : (s.sendReply id).reqs.look n = s.reqs.look n := by
  unfold State.sendReply
  dsimp only
  rw [s.post_eq]
  exact Tbl.look_upd_other _ _ _ _ h

theorem replyVal_frame (s : State) (id : Nat) (x : Word) : s.replyVal id x =
    { s with reqs := (s.replyVal id x).reqs, serial := (s.replyVal id x).serial, chans := (s.replyVal id x).chans } := by
  rw [State.replyVal, State.replyTok, State.replyTo_frame]

/-- A request with its token, as it is answered. -/
def givenToken (s : State) (id : Nat) (tok : Token) : State :=
  { s with reqs := (s.reqs.upd id fun r => { r with tok := tok }).upd id fun r => r.answered 0 none }

theorem replyVal_eq (s : State) (id : Nat) (x : Word) :
    s.replyVal id x = (givenToken s id ((s.reqs.look id).f.base 0 x)).sendReply id := rfl

theorem req_replyVal (s : State) (id : Nat) (x : Word) : ((s.replyVal id x).reqs.look id).tok = (s.reqs.look id).f.base 0 x ∧
    ((s.replyVal id x).reqs.look id).performed = true := by
  obtain ⟨n, h⟩ := State.req_sendReply (givenToken s id ((s.reqs.look id).f.base 0 x)) id
  rw [replyVal_eq, h, givenToken, Tbl.look_upd_same, Tbl.look_upd_same]
  exact ⟨rfl, rfl⟩

theorem req_replyVal_other (s : State) {id n : Nat} (x : Word) (h : n ≠ id) : (s.replyVal id x).reqs.look n = s.reqs.look n := by
  rw [replyVal_eq, req_sendReply_other _ h, givenToken, Tbl.look_upd_other _ _ _ _ h, Tbl.look_upd_other _ _ _ _ h]

/-- What holds of each part of a state that differs from the flipped one in its requests and messages alone. -/
theorem parts_of_frame {t u : State} (h : t = { u with reqs := t.reqs, serial := t.serial, chans := t.chans }) :
    t.mem = u.mem ∧ t.tlb = u.tlb ∧ (∀ r, t.region r = u.region r) ∧ (∀ e, t.elem e = u.elem e) ∧ (∀ q, t.ct q = u.ct q) ∧
      ∀ q, t.mt q = u.mt q := by
  rw [h]
  exact ⟨rfl, rfl, fun _ => rfl, fun _ => rfl, fun _ => rfl, fun _ => rfl⟩

theorem elem_flipped {rid : Nat} (h : (s.region rid).clusters.Nodup) (b : Block) (e : Nat) : (flipped s rid b).elem e =
    if e ∈ regionElems (s.region rid) then commitElem s (s.region rid).load b e (s.elem e) else s.elem e :=
  (show (flipped s rid b).elem e = (s.commitSquares rid (s.region rid).load b).elem e from rfl).trans (elem_commitSquares h ..)

theorem ct_flipped {rid : Nat} (h : (s.region rid).clusters.Nodup) (b : Block) {q : Nat} (hq : q ∈ regionSquares (s.region rid))
    (ct : isCt q = true) : (flipped s rid b).ct q = commitCt b q (s.ct q) :=
  (show (flipped s rid b).ct q = (s.commitSquares rid (s.region rid).load b).ct q from rfl).trans (ct_commitSquares h _ b hq ct)

theorem mt_flipped {rid : Nat} (h : (s.region rid).clusters.Nodup) (b : Block) {q : Nat} (hq : q ∈ regionSquares (s.region rid))
    (mt : isCt q = false) : (flipped s rid b).mt q = s.commitMt b (s.region rid).load q (s.mt q) :=
  (show (flipped s rid b).mt q = (s.commitSquares rid (s.region rid).load b).mt q from rfl).trans (mt_commitSquares h _ b hq mt)

theorem mem_flipped (s : State) (rid : Nat) (b : Block) : (flipped s rid b).mem = s.mem :=
  (show (flipped s rid b).mem = (s.commitSquares rid (s.region rid).load b).mem from rfl).trans (by rw [commitSquares_eq])

theorem istate_commitMt {b : Block} {lid q : Nat} {m : Mt} (was : m.mode = 3) (is : (s.commitMt b lid q m).mode = 3) :
    (s.commitMt b lid q m).istate = m.istate := by
  have kept : (s.commitMt b lid q m).istate = if (s.commitMt b lid q m).mode == 3 && m.mode == 3 then m.istate else [] := rfl
  rw [kept, is, was]
  rfl

theorem tlb_flipped (s : State) (rid : Nat) (b : Block) (c : Nat) :
    (flipped s rid b).tlb.look c = if s.clRid.look c = rid then [] else s.tlb.look c := by
  refine (tlb_commitRegion _ rid b c).trans ?_
  rw [commitSquares_eq]

theorem req_flipped (s : State) (rid : Nat) (b : Block) {n : Nat}
    (h : (s.reqs.look n).rid ≠ rid ∨ (s.reqs.look n).stage = .posted) :
    (flipped s rid b).reqs.look n = afterCommit rid (s.reqs.look n) := by
  have same : (s.commitSquares rid (s.region rid).load b).reqs = s.reqs := by rw [commitSquares_eq]
  refine (req_commitRegion _ rid b (by rw [same]; exact h)).trans ?_
  rw [same]

theorem afterCommit_of_other {rid : Nat} {r : MReq} (h : r.rid ≠ rid) : afterCommit rid r = r := by
  simp [afterCommit, h]

theorem stage_afterCommit (rid : Nat) (r : MReq) : (afterCommit rid r).stage = r.stage := by
  unfold afterCommit
  split <;> rfl

theorem commitElem_eq (s : State) (lid : Nat) (b : Block) (e : Nat) (x : Elem) : ∃ quota nin lut, commitElem s lid b e x =
    { x.commit (recordsOf b e) quota nin with lut := lut } ∧ (b.luts = [] → lut = x.lut) :=
  ⟨_, _, _, withLuts_eq .., fun h => lut_withLuts h ..⟩

theorem desc_commitMt (b : Block) (lid q : Nat) (m : Mt) {n : Nat} (hn : n < 64) :
    (∀ p, b.bufs.find? (fun p => p.1 == q * 64 + n) = some p →
      (s.commitMt b lid q m).bufs.look n = setField (setField p.2 54 8 (dGen (m.bufs.look n) + 1)) 0 9 0) ∧
    (b.bufs.find? (fun p => p.1 == q * 64 + n) = none →
      (s.commitMt b lid q m).bufs.look n = setField 0 54 8 (dGen (m.bufs.look n))) := by
  have desc : (s.commitMt b lid q m).bufs.look n = _ := look_commitBufs m _ hn
  rw [desc, committedDesc, find_declared _ _ hn]
  exact ⟨fun p h => by rw [h]; rfl, fun h => by rw [h]; rfl⟩

/-- Settles O47: what each part of the flip leaves, read off the state that answers the `cfgcmt`. -/
theorem configurationCommit : Obligations.ConfigurationCommit := by
  unfold Obligations.ConfigurationCommit
  intro s blk id rid g b bad ready shadow commit
  have run := exec_flip ready shadow commit
  refine ⟨fun k n hbad => ?_, fun hid mode good other nodup => ?_⟩
  · rw [show staticBad _ _ = some (k, n) from hbad] at run
    exact run
  rw [show staticBad _ _ = none from good] at run
  let u := flipped s rid b
  obtain ⟨n, regs⟩ := region_flipped_same s rid b
  have rings : u.startRings rid = u := by
    rw [State.startRings, regs, if_pos (by rw [committedRegion, mode]; rfl)]
  have answered : exec .cfgCommitFlip s = .next (u.replyVal id (s.reqs.look id).f.t0.val) := by
    rw [run]
    show Host.Outcome.next (if id = 0 then (u.startRings rid).owesRestore g.load else (u.startRings rid).replyVal id _) = _
    rw [rings, if_neg hid]
  have ask : u.reqs.look id = s.reqs.look id := (req_flipped s rid b (.inl other)).trans (afterCommit_of_other other)
  obtain ⟨mem, tlb, region, elem, ct, mt⟩ := parts_of_frame (replyVal_frame u id (s.reqs.look id).f.t0.val)
  obtain ⟨tok, performed⟩ := req_replyVal u id (s.reqs.look id).f.t0.val
  have reg := (region rid).trans regs
  refine ⟨_, answered, mem.trans (mem_flipped ..), fun r hr => (region r).trans (region_flipped_other s b hr), ?_⟩
  rw [reg]
  refine ⟨rfl, rfl, rfl, rfl, rfl, rfl, rfl, rfl, rfl, rfl, rfl, fun e he => ?_, fun e he => ?_, fun q hq hct hs hb => ?_,
    fun q hq hmt => ?_, fun n hn posted => ?_, fun c hc => ?_, fun c hc => ?_, ?_, performed⟩
  · exact (elem e).trans ((elem_flipped nodup b e).trans (if_neg he))
  · have committed := (elem e).trans ((elem_flipped nodup b e).trans (if_pos he))
    obtain ⟨quota, nin, lut, eq, same⟩ := commitElem_eq s g.load b e (s.elem e)
    rw [committed, eq]
    exact ⟨rfl, rfl, rfl, same, rfl, rfl, rfl, rfl, rfl, rfl, rfl, fun n hn => look_recordsOf b e hn⟩
  · have committed := (ct q).trans (ct_flipped nodup b hq hct)
    rw [committed]
    exact ⟨rfl, ct_commit_slots hs _, ct_commit_bar hb _⟩
  · have committed := (mt q).trans (mt_flipped nodup b hq hmt)
    have desc (n : Nat) : (u.replyVal id (s.reqs.look id).f.t0.val).desc q n = (s.commitMt b g.load q (s.mt q)).bufs.look n :=
      congrArg (fun m : Mt => m.bufs.look n) committed
    rw [committed]
    refine ⟨commitMt_queues b g.load q _, istate_commitMt, fun n hn => ?_⟩
    rw [desc n]
    exact desc_commitMt b g.load q _ hn
  · rw [req_replyVal_other _ _ hn, req_flipped s rid b (.inr posted), stage_afterCommit]
    exact posted
  · rw [tlb, tlb_flipped, if_pos hc]
  · rw [tlb, tlb_flipped, if_neg hc]
  · rw [tok, ask]

end Sys2Proof
end

section
/-!
What a stage's tokens must wait for (R32, R103, R124) does not rest on the counters of the elements (R38, R358), nor on what
the step was told to do.
-/
namespace Sys2Proof
open Machine

/-- An element without its stall counters and its hold count. -/
def Machine.Elem.core (x : Elem) : Elem := { x with stallOp := [], stallOut := [], cleared := [], held := {} }

/-- The state with other elements, told to do something else. -/
def Machine.State.alt (s : State) (E : Tbl Elem) (σ : Option Work) : State := { s with elems := E, sel := σ }

/-- The states differ in the counters of elements and in what the next step is told to do alone. -/
def Alike (s t : State) : Prop := ∃ E σ, t = s.alt E σ ∧ ∀ k, (E.look k).core = (s.elem k).core

variable {s t : State}

theorem Alike.refl (s : State) : Alike s s := ⟨s.elems, s.sel, rfl, fun _ => rfl⟩

theorem alike_sel (s : State) (σ : Option Work) : Alike s { s with sel := σ } := ⟨s.elems, σ, rfl, fun _ => rfl⟩

/-! ### What is the same -/

theorem Alike.ct (h : Alike s t) (q : Nat) : t.ct q = s.ct q := by
  obtain ⟨E, σ, rfl, -⟩ := h
  rfl

theorem Alike.region (h : Alike s t) (r : Nat) : t.region r = s.region r := by
  obtain ⟨E, σ, rfl, -⟩ := h
  rfl

theorem Alike.ridOf (h : Alike s t) (q : Nat) : t.ridOf q = s.ridOf q := by
  obtain ⟨E, σ, rfl, -⟩ := h
  rfl

theorem Alike.regionOf (h : Alike s t) (q : Nat) : t.regionOf q = s.regionOf q := by
  obtain ⟨E, σ, rfl, -⟩ := h
  rfl

theorem Alike.core (h : Alike s t) (e : Nat) : (t.elem e).core = (s.elem e).core := by
  obtain ⟨E, σ, rfl, h⟩ := h
  exact h e

theorem Alike.field {β : Type} (h : Alike s t) (π : Elem → β) (hπ : ∀ x : Elem, π x.core = π x) (e : Nat) :
    π (t.elem e) = π (s.elem e) := by
  rw [← hπ, h.core, hπ]

theorem Alike.nodes (h : Alike s t) (e : Nat) : (t.elem e).nodes = (s.elem e).nodes :=
  h.field Elem.nodes (fun _ => rfl) e
theorem Alike.readyQ (h : Alike s t) (e : Nat) : (t.elem e).readyQ = (s.elem e).readyQ :=
  h.field Elem.readyQ (fun _ => rfl) e
theorem Alike.ctxs (h : Alike s t) (e : Nat) : (t.elem e).ctxs = (s.elem e).ctxs :=
  h.field Elem.ctxs (fun _ => rfl) e
theorem Alike.inStage (h : Alike s t) (e : Nat) : (t.elem e).inStage = (s.elem e).inStage :=
  h.field Elem.inStage (fun _ => rfl) e
theorem Alike.back (h : Alike s t) (e : Nat) : (t.elem e).back = (s.elem e).back :=
  h.field Elem.back (fun _ => rfl) e
theorem Alike.marked (h : Alike s t) (e : Nat) : (t.elem e).marked = (s.elem e).marked :=
  h.field Elem.marked (fun _ => rfl) e

theorem Alike.view (h : Alike s t) (n : Nat) : t.view n = s.view n := by
  rw [State.view, State.view, State.record, State.record, h.nodes]

/-! ### What keeps them alike -/

theorem Alike.modCt (h : Alike s t) (q : Nat) (f : Ct → Ct) : Alike (s.modCt q f) (t.modCt q f) := by
  obtain ⟨E, σ, rfl, h⟩ := h
  exact ⟨E, σ, rfl, h⟩

theorem Alike.modLoad (h : Alike s t) (l : Nat) (f : Load → Load) : Alike (s.modLoad l f) (t.modLoad l f) := by
  obtain ⟨E, σ, rfl, h⟩ := h
  exact ⟨E, σ, rfl, h⟩

theorem Alike.modDie (h : Alike s t) (d : Nat) (f : Die → Die) : Alike (s.modDie d f) (t.modDie d f) := by
  obtain ⟨E, σ, rfl, h⟩ := h
  exact ⟨E, σ, rfl, h⟩

theorem Alike.charge (h : Alike s t) (q n : Nat) : Alike (s.charge q n) (t.charge q n) := by
  obtain ⟨E, σ, rfl, h⟩ := h
  exact ⟨E, σ, rfl, h⟩

theorem Alike.addCe (h : Alike s t) (d n : Nat) : Alike (s.addCe d n) (t.addCe d n) := by
  induction n generalizing s t with
  | zero => exact h
  | succ n ih => exact ih (h.modDie ..)

theorem Alike.post (h : Alike s t) (a b : Nat) (m : Msg) :
    Alike (s.post a b m).1 (t.post a b m).1 ∧ (t.post a b m).2 = (s.post a b m).2 := by
  obtain ⟨E, σ, rfl, h⟩ := h
  unfold State.post
  split
  · exact ⟨⟨E, σ, rfl, h⟩, rfl⟩
  · exact ⟨⟨E, σ, rfl, h⟩, rfl⟩

theorem Alike.postMgmt (h : Alike s t) (a b n : Nat) :
    Alike (s.postMgmt a b n).1 (t.postMgmt a b n).1 ∧ (t.postMgmt a b n).2 = (s.postMgmt a b n).2 := h.post ..

theorem Alike.sendNotice (h : Alike s t) (x : Notice) (home : Nat) (l : List Nat) :
    Alike (s.sendNotice x home l) (t.sendNotice x home l) := by
  induction l generalizing s t with
  | nil => exact h
  | cons d l ih =>
    obtain ⟨posted, number⟩ := h.postMgmt home d 0
    simp only [State.sendNotice, number]
    refine ih ?_
    obtain ⟨E, σ, eq, h⟩ := posted
    rw [eq]
    exact ⟨E, σ, rfl, h⟩

theorem Alike.parkOn (h : Alike s t) (d rid fx : Nat) (flt : Bool) : Alike (s.parkOn d rid fx flt) (t.parkOn d rid fx flt) := by
  obtain ⟨E, σ, rfl, h⟩ := h
  exact ⟨E, σ, rfl, h⟩

theorem Alike.modFx (h : Alike s t) (rid fx : Nat) (f : FxRec → FxRec) : Alike (s.modFx rid fx f) (t.modFx rid fx f) := by
  obtain ⟨E, σ, rfl, h⟩ := h
  exact ⟨E, σ, rfl, h⟩

theorem Alike.park (h : Alike s t) (rid fx : Nat) (flt : Bool) : Alike (s.park rid fx flt) (t.park rid fx flt) := by
  have marked := h.modFx rid fx fun r => { r with parked := true }
  have home : (t.modFx rid fx fun r => { r with parked := true }).noticeHome (.park rid fx flt) =
      (s.modFx rid fx fun r => { r with parked := true }).noticeHome (.park rid fx flt) := by
    rw [State.noticeHome, State.noticeHome, marked.region]
  have dies : (t.modFx rid fx fun r => { r with parked := true }).noticeDies (.park rid fx flt) =
      (s.modFx rid fx fun r => { r with parked := true }).noticeDies (.park rid fx flt) := by
    simp only [State.noticeDies, marked.region]
  simp only [State.park, State.notifyDies, home, dies]
  exact (marked.parkOn ..).sendNotice ..

theorem Alike.notify (h : Alike s t) (lid state code : Nat) : Alike (s.notify lid state code) (t.notify lid state code) := by
  obtain ⟨E, σ, rfl, h⟩ := h
  have load : (s.alt E σ).load lid = s.load lid := rfl
  simp only [State.notify, load]
  split <;> exact ⟨E, σ, rfl, h⟩

theorem Alike.modJournal (h : Alike s t) (n : Nat) (f : JEntry → JEntry) : Alike (s.modJournal n f) (t.modJournal n f) := by
  obtain ⟨E, σ, rfl, h⟩ := h
  exact ⟨E, σ, rfl, h⟩

theorem core_discard {x y : Elem} (h : x.core = y.core) (keep : Flight → Bool) : (x.discard keep).core = (y.discard keep).core :=
  congrArg (Elem.discard · keep) h

/-- The elements that lose what they hold for a load that ends. -/
def discarded (s : State) (lid : Nat) (E : Tbl Elem) : Tbl Elem :=
  mapTbl E fun e x => if (s.load lid).regions.contains (s.ridOf (e / 4)) then
    x.discard fun fl => !s.doomed lid (s.load lid).regions fl else x

theorem look_discarded (s : State) (lid : Nat) (E : Tbl Elem) (k : Nat) : (discarded s lid E).look k =
    if (s.load lid).regions.contains (s.ridOf (k / 4)) then
      (E.look k).discard fun fl => !s.doomed lid (s.load lid).regions fl else E.look k :=
  look_mapTbl E (by split <;> rfl)

theorem Alike.discardLoad (h : Alike s t) (lid : Nat) : Alike (s.discardLoad lid) (t.discardLoad lid) := by
  obtain ⟨E, σ, rfl, h⟩ := h
  refine ⟨discarded s lid E, σ, rfl, fun k => ?_⟩
  have mine : (s.discardLoad lid).elem k = (discarded s lid s.elems).look k := rfl
  rw [mine, look_discarded, look_discarded]
  split
  · exact core_discard (h k) _
  · exact h k

theorem Alike.endLoad (h : Alike s t) (lid state code arg : Nat) : Alike (s.endLoad lid state code arg) (t.endLoad lid state code arg) := by
  have load : t.load lid = s.load lid := by
    obtain ⟨E, σ, rfl, -⟩ := h
    rfl
  simp only [State.endLoad, load]
  split
  · exact h
  · refine Alike.modLoad ?_ _ _
    have journalled := (h.discardLoad lid).modJournal lid fun j => { j with state := state, code := code, arg := arg }
    obtain ⟨E, σ, eq, h⟩ := journalled.notify lid state code
    rw [eq]
    exact ⟨E, σ, rfl, h⟩

theorem Alike.load (h : Alike s t) (lid : Nat) : t.load lid = s.load lid := by
  obtain ⟨E, σ, rfl, -⟩ := h
  rfl

theorem Alike.enterRecord (h : Alike s t) (lid rid ix : Nat) (a : FaultArgs) :
    Alike (s.enterRecord lid rid ix a) (t.enterRecord lid rid ix a) := by
  obtain ⟨posted, number⟩ := h.postMgmt (placeDie a.place) ((s.region rid).fqmt / 4096) ix
  simp only [State.enterRecord, h.load, h.region, number]
  split
  · exact posted.modLoad ..
  · exact (posted.modLoad ..).park ..

theorem Alike.faultReason (h : Alike s t) (lid : Nat) : t.faultReason lid = s.faultReason lid := by
  obtain ⟨E, σ, rfl, -⟩ := h
  rfl

theorem Alike.record1 (h : Alike s t) (lid rid : Nat) (a : FaultArgs) : Alike (s.record1 lid rid a) (t.record1 lid rid a) := by
  simp only [State.record1, h.faultReason, h.load]
  split
  · exact h
  · split
    · exact h.endLoad ..
    · split
      · exact h
      · exact h.enterRecord ..

theorem Alike.countFault (h : Alike s t) (a : FaultArgs) : Alike (s.countFault a) (t.countFault a) := by
  unfold State.countFault
  split
  · exact h
  · split
    · exact h.modDie ..
    · exact (h.modDie ..).modDie ..

theorem Alike.foldl {β : Type} {f g : State → β → State} (h : Alike s t)
    (hf : ∀ {s t : State}, Alike s t → ∀ x, Alike (f s x) (g t x)) (l : List β) :
    Alike (l.foldl f s) (l.foldl g t) := by
  induction l generalizing s t with
  | nil => exact h
  | cons x l ih => exact ih (hf h x)

theorem Alike.lidOf (h : Alike s t) (q : Nat) : t.lidOf q = s.lidOf q := by
  obtain ⟨E, σ, rfl, -⟩ := h
  rfl

theorem Alike.raiseArgs (h : Alike s t) (lid rid : Nat) (a : FaultArgs) : Alike (s.raiseArgs lid rid a) (t.raiseArgs lid rid a) := by
  have stolen : t.stolen a.handles = s.stolen a.handles := by
    obtain ⟨E, σ, rfl, -⟩ := h
    rfl
  rw [State.raiseArgs, State.raiseArgs, stolen]
  refine ((h.countFault a).record1 lid rid a).foldl (fun alike x => ?_) _
  simp only [h.lidOf, h.ridOf]
  exact alike.record1 ..

theorem Alike.raiseToken (h : Alike s t) (fl : Flight) (kind detail : Nat) (nofx : Bool) :
    Alike (s.raiseToken fl kind detail nofx) (t.raiseToken fl kind detail nofx) := by
  rw [State.raiseToken, State.raiseToken, h.lidOf, h.ridOf]
  exact h.raiseArgs ..

/-! ### Runs of frame slots (R347, R348) -/

/-- The same answer to the question for a run of slots. -/
inductive SameRun : RunRes → RunRes → Prop where
  | got (b : Nat) : SameRun (.got b) (.got b)
  | wait {s t : State} (h : Alike s t) : SameRun (.wait s) (.wait t)
  | full : SameRun .full .full

theorem Alike.needRun (h : Alike s t) (q : Nat) (cls : BitVec 2) (who : RunFor) : SameRun (s.needRun q cls who) (t.needRun q cls who) := by
  have count (n : Nat) : t.runCount q n = s.runCount q n := by rw [State.runCount, State.runCount, h.regionOf]
  have room (n : Nat) : t.sporeRoom q n = s.sporeRoom q n := by
    obtain ⟨E, σ, rfl, -⟩ := h
    rfl
  simp only [State.needRun, h.ct, count, room]
  split
  · split
    · exact .got _
    · exact .wait h
  · split
    · exact .got _
    · split
      · exact .wait h
      · split
        · exact .full
        · exact .wait ((h.charge ..).modCt ..)

theorem Alike.startRestore (h : Alike s t) (q : Nat) : Alike (s.startRestore q) (t.startRestore q) := by
  have size : t.sporeSz q = s.sporeSz q := by
    obtain ⟨E, σ, rfl, -⟩ := h
    rfl
  simp only [State.startRestore, h.ct, size]
  split
  case h_2 => exact h
  case h_1 fx rest _ _ =>
    split
    · exact h.modCt ..
    · have same := h.needRun q ((s.ct q).spilled.look fx).cls (.restore fx)
      generalize s.needRun q ((s.ct q).spilled.look fx).cls (.restore fx) = a at same
      generalize t.needRun q ((s.ct q).spilled.look fx).cls (.restore fx) = b at same
      cases same with
      | got b => exact h.modCt ..
      | wait h => exact h
      | full =>
        dsimp only
        split
        · exact h.modCt ..
        · exact (h.modCt ..).raiseToken ..

theorem Alike.placePart (h : Alike s t) (q fx base : Nat) (cls : BitVec 2) :
    Alike (s.placePart q fx base cls) (t.placePart q fx base cls) := by
  obtain ⟨E, σ, rfl, h⟩ := h
  exact ⟨E, σ, rfl, h⟩

/-! ### Matching (R32 to R34, R131, R132, R244) -/

/-- What has arrived must wait. -/
def Machine.ArrRes.isWait : ArrRes → Bool
  | .done _ => false
  | .waits _ => true

theorem isWait_done (s : State) : (ArrRes.done s).isWait = false := rfl
theorem isWait_waits (s : State) : (ArrRes.waits s).isWait = true := rfl

/-- What is matched must wait, where elements have a full ready queue. -/
def Machine.MatchRes.isWait (full : Nat → Bool) : MatchRes → Bool
  | .busy => true
  | .fires _ f => full f.elem
  | _ => false

/-- The ready queue holds 64 firings. -/
def readyFull (s : State) (e : Nat) : Bool := decide ((s.elem e).readyQ.length ≥ 64)

theorem Alike.readyFull (h : Alike s t) (e : Nat) : Sys2Proof.readyFull t e = Sys2Proof.readyFull s e := by
  rw [Sys2Proof.readyFull, Sys2Proof.readyFull, h.readyQ]

theorem enqueue_isWait (s s0 : State) (f : Firing) : (s.enqueue s0 f).isWait = readyFull s0 f.elem := by
  unfold State.enqueue readyFull
  split <;> simp_all [ArrRes.isWait]

theorem mergeoPut_isWait (s : State) (e : Nat) (fl : Flight) (k : MCtx) : (s.mergeoPut e fl k).isWait =
    if k.due.isSome then true
    else if (fl.tok.seq - k.next).toNat = 0 then readyFull s e
    else if k.held.any fun y => y.tok.seq == fl.tok.seq then false
    else !(k.held.length < k.depth && (fl.tok.seq - k.next).toNat ≤ k.depth) := by
  unfold State.mergeoPut readyFull
  dsimp only
  split
  · rfl
  · split
    · split <;> simp_all [ArrRes.isWait]
    · split
      · rfl
      · split
        · next room => rw [room]; rfl
        · next room => rw [Bool.eq_false_iff.mpr room]; rfl

theorem Alike.mergeoTake (h : Alike s t) (e : Nat) (v : RecView) (fl : Flight) :
    (t.mergeoTake e v fl).isWait = (s.mergeoTake e v fl).isWait := by
  have opened (k : MCtx) (u : State) :
      Sys2Proof.readyFull (u.modElem e fun x => { x with ctxs := x.ctxs ++ [k] }) e = Sys2Proof.readyFull u e := by
    rw [Sys2Proof.readyFull, State.elem_modElem_same]
    rfl
  simp only [State.mergeoTake, h.ctxs]
  split
  · rw [mergeoPut_isWait, mergeoPut_isWait, h.readyFull]
  · split
    · rfl
    · rw [mergeoPut_isWait, mergeoPut_isWait, opened, opened, h.readyFull]

theorem Alike.matchOperands (h : Alike s t) (full : Nat → Bool) (q : Nat) (v : RecView) (f : Firing) (n : Nat) (k : Token) :
    (t.matchOperands q v f n k).isWait full = (s.matchOperands q v f n k).isWait full := by
  simp only [State.matchOperands, h.ct]
  repeat' split
  all_goals rfl

theorem Alike.combineArrive (h : Alike s t) (full : Nat → Bool) (q : Nat) (v : RecView) (f : Firing) (k : Token) :
    (t.combineArrive q v f k).isWait full = (s.combineArrive q v f k).isWait full := by
  simp only [State.combineArrive, h.ct, apply_ite (MatchRes.isWait full)]
  rfl

/-- What comes of what is matched. -/
def afterMatch (s : State) (fl : Flight) : MatchRes → ArrRes
  | .taken u => .done u
  | .fires u f => u.enqueue s f
  | .busy => .waits s
  | .bad u kind detail => .done (u.raiseAt fl kind detail)

theorem afterMatch_isWait (s : State) (fl : Flight) (m : MatchRes) : (afterMatch s fl m).isWait = m.isWait (readyFull s) := by
  cases m with
  | fires u f => exact enqueue_isWait ..
  | taken | busy | bad => rfl

/-- The firing that an arrival at element `e` makes, so far. -/
def arrivalFiring (e : Nat) (fl : Flight) : Firing := { elem := e, node := destNode fl.tok.dest }

/-- A match by the kind of its node. -/
theorem matchAt_eq (s : State) (e : Nat) (v : RecView) (fl : Flight) : s.matchAt e v fl =
    match opInfo v.op.toNat with
    | none => .done s
    | some i =>
      match i.ins with
      | .either => if v.op == 0x06 then s.mergeoTake e v fl else s.enqueue s { arrivalFiring e fl with t0 := fl.tok }
      | .combine =>
        if v.op == 0xAB && destPort fl.tok.dest == 0 then
          match s.openTacc (e / 4) v (arrivalFiring e fl) fl.tok with
          | some u => u.enqueue s { arrivalFiring e fl with t0 := fl.tok }
          | none => .waits s
        else afterMatch s fl (s.combineArrive (e / 4) v (arrivalFiring e fl) fl.tok)
      | .ports _ =>
        if tokenOperands i v = 1 then
          if (v.op == 0x16 || v.op == 0x17) && (s.ct (e / 4)).slotBusy fl.tok.fx.toNat v.lit then .waits s
          else if v.op == 0x97 && (List.range 8).any fun i => (s.ct (e / 4)).slotBusy fl.tok.fx.toNat (v.slot + i) then .waits s
          else s.enqueue s ((arrivalFiring e fl).withPort (destPort fl.tok.dest) fl.tok)
        else afterMatch s fl (s.matchOperands (e / 4) v (arrivalFiring e fl) (tokenOperands i v) fl.tok) := rfl

theorem openTacc_isWait (s : State) (q : Nat) (v : RecView) (f g : Firing) (k : Token) :
    (match s.openTacc q v f k with | some u => u.enqueue s g | none => .waits s).isWait =
      (!(s.ct q).sumOpen v k.fx.toNat f.key && (s.ct q).spanBusy v k.fx.toNat || readyFull s g.elem) := by
  unfold State.openTacc
  dsimp only
  cases (s.ct q).sumOpen v k.fx.toNat f.key
  · cases (s.ct q).spanBusy v k.fx.toNat
    · exact enqueue_isWait ..
    · exact isWait_waits s
  · exact enqueue_isWait ..

theorem Alike.matchAt (h : Alike s t) (e : Nat) (v : RecView) (fl : Flight) : (t.matchAt e v fl).isWait = (s.matchAt e v fl).isWait := by
  have ready : Sys2Proof.readyFull t = Sys2Proof.readyFull s := funext h.readyFull
  rw [matchAt_eq, matchAt_eq]
  cases opInfo v.op.toNat with
  | none => rw [isWait_done, isWait_done]
  | some i =>
    obtain ⟨form, ins, dests, lit, opf, tys⟩ := i
    cases ins with
    | either =>
      dsimp only
      split
      · exact h.mergeoTake ..
      · rw [enqueue_isWait, enqueue_isWait, h.readyFull]
    | combine =>
      dsimp only
      split
      · refine (openTacc_isWait ..).trans (Eq.trans ?_ (openTacc_isWait ..).symm)
        rw [h.ct, h.readyFull]
      · rw [afterMatch_isWait, afterMatch_isWait, ready, h.combineArrive]
    | ports n =>
      dsimp only
      rw [h.ct]
      split
      · split
        · rw [isWait_waits, isWait_waits]
        · split
          · rw [isWait_waits, isWait_waits]
          · rw [enqueue_isWait, enqueue_isWait, h.readyFull]
      · rw [afterMatch_isWait, afterMatch_isWait, ready, h.matchOperands]

theorem Alike.atPart (h : Alike s t) (e : Nat) (v : RecView) (fl : Flight) : (t.atPart e v fl).isWait = (s.atPart e v fl).isWait := by
  have ecc : t.ecc = s.ecc := by
    obtain ⟨E, σ, rfl, -⟩ := h
    rfl
  have slots (q fx : Nat) (l : List Nat) : t.slotEccs q fx l = s.slotEccs q fx l := by rw [State.slotEccs, State.slotEccs, h.ct]
  have fail (q fx : Nat) (l : List Nat) : t.slotsFail q fx l = s.slotsFail q fx l := by rw [State.slotsFail, State.slotsFail, slots, ecc]
  have matched (q : Nat) : t.slotsMatched q v fl = s.slotsMatched q v fl := by simp only [State.slotsMatched, h.ct]
  have counted (d : Nat) (l : List Nat) : Alike (s.countTableCe d l) (t.countTableCe d l) := by
    rw [State.countTableCe, State.countTableCe, State.correctable, State.correctable, ecc]
    exact h.addCe ..
  simp only [State.atPart, h.ct, slots, fail, matched]
  split
  · rw [isWait_done, isWait_done]
  · split
    · rw [isWait_done, isWait_done]
    · exact (counted ..).matchAt ..

theorem Alike.parkUsed (h : Alike s t) (q : Nat) : t.parkUsed q = s.parkUsed q := by
  have outside (e : Nat) : (t.elem e).outside = (s.elem e).outside := h.field Elem.outside (fun _ => rfl) e
  simp only [State.parkUsed, h.ct, outside]

theorem Alike.parkToken (h : Alike s t) (q : Nat) (fl : Flight) : (t.parkToken q fl).isSome = (s.parkToken q fl).isSome := by
  have room (n : Nat) : t.sporeRoom q n = s.sporeRoom q n := by
    obtain ⟨E, σ, rfl, -⟩ := h
    rfl
  simp only [State.parkToken, h.parkUsed, h.ct, room]
  split
  · rfl
  · split
    · rfl
    · split <;> rfl

/-- Where a token's frame is parked, it goes to the park buffer or waits for a line of it. -/
def parkArrival (s : State) (q : Nat) (fl : Flight) : ArrRes :=
  let left := fun (st : State) => if st.ct q |>.spillRuns.isEmpty then st else st.modCt q fun c => c.leaveRun (.arrive fl.tok.fx.toNat)
  if (s.ct q).matcherHas fl then .done (s.modCt q fun c => { c with matcherIn := c.matcherIn ++ [fl] })
  else
    match s.parkToken q fl with
    | some t => .done (left t)
    | none => .waits ((left s).lineSpillfull q fl)

theorem Alike.parkArrival (h : Alike s t) (q : Nat) (fl : Flight) :
    (Sys2Proof.parkArrival t q fl).isWait = (Sys2Proof.parkArrival s q fl).isWait := by
  have parked := h.parkToken q fl
  simp only [Sys2Proof.parkArrival, h.ct]
  split
  · rw [isWait_done, isWait_done]
  · cases hs : s.parkToken q fl <;> cases ht : t.parkToken q fl <;> simp_all [ArrRes.isWait]

/-- A token whose frame has no part here gets one, or waits for a run of slots. -/
def partlessArrival (s : State) (e : Nat) (v : RecView) (fl : Flight) : ArrRes :=
  let r := s.regionOf (e / 4)
  let u := s.startRestore (e / 4)
  match u.needRun (e / 4) r.fcls (.arrive fl.tok.fx.toNat) with
  | .got b => (u.placePart (e / 4) fl.tok.fx.toNat b r.fcls).atPart e v fl
  | .wait w => .waits w
  | .full => .done (u.raiseToken fl fkSPILLFULL (s.sporeSz (e / 4)) false)

theorem Alike.partlessArrival (h : Alike s t) (e : Nat) (v : RecView) (fl : Flight) :
    (Sys2Proof.partlessArrival t e v fl).isWait = (Sys2Proof.partlessArrival s e v fl).isWait := by
  have restored := h.startRestore (e / 4)
  have same := restored.needRun (e / 4) (s.regionOf (e / 4)).fcls (.arrive fl.tok.fx.toNat)
  simp only [Sys2Proof.partlessArrival, h.regionOf]
  generalize (s.startRestore (e / 4)).needRun _ _ _ = a at same
  generalize (t.startRestore (e / 4)).needRun _ _ _ = b at same
  cases same with
  | got b => exact (restored.placePart ..).atPart ..
  | wait => rw [isWait_waits, isWait_waits]
  | full => rw [isWait_done, isWait_done]

theorem arrive_eq (s : State) (e : Nat) (fl : Flight) : s.arrive e fl =
    let q := e / 4
    let fx := fl.tok.fx.toNat
    let v := s.view (destKey fl.tok.dest)
    let fr := s.fxRec (s.ridOf q) fx
    let left := fun (st : State) => if st.ct q |>.spillRuns.isEmpty then st else st.modCt q fun c => c.leaveRun (.arrive fx)
    if fl.tok.par then .done (s.raiseToken fl fkECCUE 5 false)
    else if (s.regionOf q).withdraw || (s.parkedAt q fx && fl.link != 5) then parkArrival s q fl
    else
      match nodeCheck (s.regionOf q).level (s.litDeclared e v) v fl.tok with
      | some k => .done (s.raiseAt fl k.1 k.2)
      | none =>
        if !fr.alloc || fr.releasing then .done ((left s).raiseToken fl fkILLOP 6 true)
        else
          match (s.ct q).entry fx with
          | some p => if p.2.sp && !passesMatcher v then .waits s else s.atPart e v fl
          | none =>
            if (s.ct q).spilledFx.contains fx then
              if fl.link == 8 then s.matchAt e v fl
              else .done (s.modCt q fun c => { c with matcherIn := c.matcherIn ++ [fl] })
            else partlessArrival s e v fl := rfl

theorem Alike.arrive (h : Alike s t) (e : Nat) (fl : Flight) : (t.arrive e fl).isWait = (s.arrive e fl).isWait := by
  have parked (q fx : Nat) : t.parkedAt q fx = s.parkedAt q fx := by
    obtain ⟨E, σ, rfl, -⟩ := h
    rfl
  have declared (v : RecView) : t.litDeclared e v = s.litDeclared e v := by
    obtain ⟨E, σ, rfl, -⟩ := h
    rfl
  have frame (rid fx : Nat) : t.fxRec rid fx = s.fxRec rid fx := by rw [State.fxRec, State.fxRec, h.region]
  rw [arrive_eq, arrive_eq]
  simp only [h.view, h.ct, h.regionOf, h.ridOf, parked, declared, frame]
  split
  · rw [isWait_done, isWait_done]
  · split
    · exact h.parkArrival ..
    · split
      · rw [isWait_done, isWait_done]
      · split
        · rw [isWait_done, isWait_done]
        · split
          · split
            · rw [isWait_waits, isWait_waits]
            · exact h.atPart ..
          · split
            · split
              · exact h.matchAt ..
              · rw [isWait_done, isWait_done]
            · exact h.partlessArrival ..

/-! ### The head of a ready queue (R124, R358) -/

theorem mustWait_eq (s : State) (e : Nat) (fl : Flight) :
    s.mustWait e fl = ((s.touchFx (e / 4) fl.tok.fx.toNat).arrive e fl).isWait := by
  unfold State.mustWait
  cases (s.touchFx (e / 4) fl.tok.fx.toNat).arrive e fl <;> rfl

theorem Alike.mustWait (h : Alike s t) (e : Nat) (fl : Flight) : t.mustWait e fl = s.mustWait e fl := by
  rw [mustWait_eq, mustWait_eq]
  exact (h.modCt ..).arrive ..

theorem Alike.mergeoHolds (h : Alike s t) (q inp rt : Nat) : t.mergeoHolds q inp rt = s.mergeoHolds q inp rt := by
  have behind (e : Nat) (fl : Flight) : behindMarker (t.elem e) fl = behindMarker (s.elem e) fl := by
    rw [behindMarker, behindMarker, h.marked]
  simp only [State.mergeoHolds, State.linkHeld, h.regionOf, h.inStage, h.mustWait, h.view, behind]

theorem Alike.tokensSent (h : Alike s t) (f : Firing) (v : RecView) : t.tokensSent f v = s.tokensSent f v := by
  have waits : t.wchkWaits f = s.wchkWaits f := by
    simp only [State.wchkWaits, State.slotOf, State.splitWaits, h.ct]
    rfl
  simp only [State.tokensSent, waits]

theorem Alike.headBlocked (h : Alike s t) (e : Nat) (f : Firing) (v : RecView) : t.headBlocked e f v = s.headBlocked e f v := by
  simp only [State.headBlocked, h.tokensSent, h.mergeoHolds]

theorem Alike.noRoom (h : Alike s t) (e : Nat) (f : Firing) (v : RecView) : t.noRoom e f v = s.noRoom e f v := by
  have outStage : (t.elem e).outStage = (s.elem e).outStage := h.field Elem.outStage (fun _ => rfl) e
  have answers : (t.elem e).answers = (s.elem e).answers := h.field Elem.answers (fun _ => rfl) e
  have asked : t.asked e = s.asked e := by
    obtain ⟨E, σ, rfl, -⟩ := h
    rfl
  have crossing (n : Nat) : t.crossing n = s.crossing n := by
    obtain ⟨E, σ, rfl, -⟩ := h
    rfl
  simp only [State.noRoom, h.tokensSent, State.marksAhead, State.returned, State.stageHeld, outStage, answers, asked, crossing, h.regionOf]
  rfl

theorem Alike.canIssue (h : Alike s t) (e : Nat) (f : Firing) (v : RecView) : t.canIssue e f v = s.canIssue e f v := by
  have stop : (t.elem e).stop = (s.elem e).stop := h.field Elem.stop (fun _ => rfl) e
  have rpt : (t.elem e).rpt = (s.elem e).rpt := h.field Elem.rpt (fun _ => rfl) e
  have loads : (t.elem e).lutLoads = (s.elem e).lutLoads := h.field Elem.lutLoads (fun _ => rfl) e
  simp only [State.canIssue, State.unitBusy, stop, rpt, loads, h.noRoom, h.ct]

theorem Alike.heldHead (h : Alike s t) (e : Nat) : t.heldHead e = s.heldHead e := by
  simp only [State.heldHead, h.readyQ, h.view, h.noRoom, h.headBlocked]

end Sys2Proof
end

section
/-!
What a step performs: the head of a ready queue, the record of a ring, the event that it is told, or one that it chooses
(R12, R124, R277).
-/
namespace Sys2Proof
open Machine

variable {s : State} {e : Nat} {f : Firing} {rest : List Firing} {i : Instr}

/-- The head `f` of element `e` has left the ready queue and is the current firing (R124). -/
def Machine.State.headGone (s : State) (e : Nat) (f : Firing) (rest : List Firing) : State :=
  { (s.noteIssue (s.lidOf (e / 4))).modElem e fun x => { x with readyQ := rest, held := {} } with cur := f }

/-- The head of the ready queue can issue, and nothing that has come before it on its link holds it back. -/
structure HeadIssues (s : State) (e : Nat) (f : Firing) (rest : List Firing) : Prop where
  tokenMode : (s.region (s.ridOf (e / 4))).mode = false
  running : s.stoppedAt (e / 4) = false
  head : (s.elem e).readyQ = f :: rest
  room : s.canIssue e f (s.view f.key) = true
  free : s.headBlocked e f (s.view f.key) = false

theorem Machine.State.countTableCe_clean {l : List Nat} (h : ∀ k ∈ l, s.ecc.look k = 0) (d : Nat) : s.countTableCe d l = s := by
  have none : s.correctable l = 0 := by
    simp only [State.correctable, List.length_eq_zero_iff, List.filter_eq_nil_iff]
    intro k hk
    simp [h k hk]
  simp [State.countTableCe, none, State.addCe]

theorem Machine.State.noteIssue_eq (s : State) (l : Nat) : s.noteIssue l = { s with loads := (s.noteIssue l).loads } := by
  unfold State.noteIssue
  split <;> rfl

theorem Machine.State.load_noteIssue_same (s : State) (l : Nat) :
    (s.noteIssue l).load l = { s.load l with wasQuiet := false } := by
  unfold State.noteIssue
  split
  case isTrue => exact State.load_modLoad_same _ _ _
  case isFalse h => rw [← Bool.not_eq_true _ |>.mp h]

theorem Machine.State.load_noteIssue_other (s : State) {l k : Nat} (h : k ≠ l) : (s.noteIssue l).load k = s.load k := by
  unfold State.noteIssue
  split
  · exact State.load_modLoad_other _ _ _ _ h
  · rfl

theorem HeadIssues.of_sel (h : HeadIssues s e f rest) : HeadIssues { s with sel := none } e f rest :=
  ⟨h.tokenMode, h.running, h.head, ((alike_sel s none).canIssue ..).trans h.room,
    ((alike_sel s none).headBlocked ..).trans h.free⟩

/-- What the issue of a head that can go performs: the firing of a record or slot that fails its check raises ECCUE, one
whose record decodes to nothing ILLOP, and any other the instruction's effect. -/
theorem issue_head (h : HeadIssues s e f rest) : issue e s =
    if s.ecc.look (recordEcc f.key) == 2 then .next ((s.headGone e f rest).raiseTable f 3 f.t1.val)
    else if (s.slotsAt f (s.view f.key)).any fun k => s.ecc.look k == 2 then
      .next ((s.headGone e f rest).raiseTable f 2 (portB (s.view f.key) f))
    else match decode (s.record f.key) with
      | .ok i => exec i ((s.headGone e f rest).countTableCe (sqDie (e / 4)) (recordEcc f.key :: s.slotsAt f (s.view f.key)))
      | .error _ => .next (((s.headGone e f rest).countTableCe (sqDie (e / 4))
          (recordEcc f.key :: s.slotsAt f (s.view f.key))).raiseFiring f fkILLOP 7 f.t1.val 0 0) := by
  have mode : (s.regionOf (e / 4)).mode = false := h.tokenMode
  have room : s.canIssue e f (viewOfRecord (s.record f.key)) = true := h.room
  have free : s.headBlocked e f (viewOfRecord (s.record f.key)) = false := h.free
  simp only [issue, mode, issueHead, h.head, h.running, room, free, Bool.false_eq_true, Bool.not_true, Bool.or_self,
    ↓reduceIte]
  rfl

theorem ecc_headGone (k : Nat) : (s.headGone e f rest).ecc.look k = s.ecc.look k := by
  unfold State.headGone State.noteIssue
  split <;> rfl

theorem step_issue (h : s.sel = some (.issue e)) : step s = issue e { s with sel := none } := by
  unfold step
  rw [h]
  rfl

theorem headGone_eq : s.headGone e f rest =
    { s with cur := f, elems := (s.headGone e f rest).elems, loads := (s.headGone e f rest).loads } := by
  unfold State.headGone
  rw [s.noteIssue_eq]
  rfl

theorem issue_head_clean (h : HeadIssues s e f rest) (hr : s.ecc.look (recordEcc f.key) = 0)
    (hs : ∀ k ∈ s.slotsAt f (s.view f.key), s.ecc.look k = 0) : issue e s =
    match decode (s.record f.key) with
    | .ok i => exec i (s.headGone e f rest)
    | .error _ => .next ((s.headGone e f rest).raiseFiring f fkILLOP 7 f.t1.val 0 0) := by
  have clean : ∀ k ∈ recordEcc f.key :: s.slotsAt f (s.view f.key), (s.headGone e f rest).ecc.look k = 0 := by
    intro k hk
    rw [ecc_headGone]
    rcases List.mem_cons.mp hk with rfl | hk
    · exact hr
    · exact hs k hk
  have slots : ((s.slotsAt f (s.view f.key)).any fun k => s.ecc.look k == 2) = false := by
    simp only [List.any_eq_false]
    intro k hk
    simp [hs k hk]
  rw [issue_head h, hr, slots, State.countTableCe_clean clean]
  rfl

/-! ### The first step after reset -/

theorem destCount_le_two (v : RecView) : destCount v ≤ 2 := by
  unfold destCount
  split
  · omega
  · split <;> omega

theorem Machine.State.tokensSent_le_two (s : State) (f : Firing) (v : RecView) : s.tokensSent f v ≤ 2 := by
  have := destCount_le_two v
  unfold State.tokensSent
  dsimp only
  split
  · omega
  · split
    · omega
    · split <;> (try split) <;> omega

/-- Element 0 as the first step after reset finds it. -/
def readyElem (w : Rec96) (x : Elem) : Elem :=
  { x with nodes := x.nodes.put 0 w, readyQ := [{ elem := 0, node := 0 }], outStage := [], answers := [], rpt := none }

theorem elems_readyState (s : State) (w : Rec96) : (readyState s w).elems = s.elems.upd 0 (readyElem w) := rfl

theorem elem_readyState (s : State) (w : Rec96) : (readyState s w).elem 0 = readyElem w (s.elem 0) := by
  rw [State.elem, elems_readyState, Tbl.look_upd_same]
  rfl

theorem elem_readyState_other (s : State) (w : Rec96) {e : Nat} (h : e ≠ 0) : (readyState s w).elem e = s.elem e := by
  rw [State.elem, elems_readyState, Tbl.look_upd_other _ _ _ _ h]
  rfl

theorem inStage_readyState (w : Rec96) (e : Nat) : ((readyState .reset w).elem e).inStage = [] := by
  by_cases h : e = 0
  · rw [h, elem_readyState]
    rfl
  · rw [elem_readyState_other _ _ h]
    rfl

theorem record_readyState (s : State) (w : Rec96) : (readyState s w).record 0 = w := by
  rw [State.record, elem_readyState]
  exact Tbl.look_put_same ..

/-- With an empty stage, no answers, and nothing asked of a unit or of the allocator, any head issues. -/
theorem firstHead_room (w : Rec96) (f : Firing) (v : RecView) : (readyState .reset w).canIssue 0 f v = true := by
  have few := (readyState .reset w).tokensSent_le_two f v
  have asked : (readyState .reset w).asked 0 = 0 := rfl
  have held : (readyState .reset w).stageHeld 0 = false := rfl
  have busy : ((readyState .reset w).ct f.sq).slotBusy f.t0.fx.toNat v.lit = false := Bool.and_false _
  have ahead : (readyState .reset w).marksAhead 0 f.key = false := by rw [State.marksAhead, elem_readyState]; rfl
  have back : (readyState .reset w).returned 0 = 0 := by rw [State.returned, elem_readyState]; rfl
  have stage : ((readyState .reset w).elem 0).outStage = [] := by rw [elem_readyState]; rfl
  have rpt : ((readyState .reset w).elem 0).rpt = none := by rw [elem_readyState]; rfl
  have loads : ((readyState .reset w).elem 0).lutLoads = [] := by rw [elem_readyState]; rfl
  have stop : ((readyState .reset w).elem 0).stop = false := by rw [elem_readyState]; rfl
  have few' : ¬ 4 < (readyState .reset w).tokensSent f v := by omega
  have room : (readyState .reset w).noRoom 0 f v = false := by
    simp [State.noRoom, stage, asked, held, ahead, back, few']
  have free : (readyState .reset w).unitBusy 0 f v = false := by
    simp [State.unitBusy, rpt, loads, busy]
  rw [State.canIssue, stop, room, free]
  rfl

theorem firstHead_issues (w : Rec96) : HeadIssues (readyState .reset w) 0 { elem := 0, node := 0 } [] where
  tokenMode := rfl
  running := rfl
  head := by
    rw [elem_readyState]
    rfl
  room := firstHead_room _ _ _
  free := by
    have none (q inp rt : Nat) : (readyState .reset w).linkHeld q inp rt = none := by
      simp [State.linkHeld, inStage_readyState]
    simp [State.headBlocked, State.mergeoHolds, none]

/-! ### The step -/

theorem step_event {i : Instr} {a b c : Nat} (h : s.sel = some (.event i a b c)) :
    step s = exec i { s with sel := none, at_ := { a := a, b := b, c := c } } := by
  unfold step
  rw [h]
  rfl

/-- A choice among steps takes one of them. -/
theorem choose_mem (s : State) {l : List Work} (h : l ≠ []) : ∃ w ∈ l, ∃ n, choose s l = (some w, { s with free := n }) := by
  match l, h with
  | [w], _ => exact ⟨w, List.mem_cons_self, s.free, rfl⟩
  | a :: b :: l, h =>
    have bound : Config.pick s.free % (a :: b :: l).length < (a :: b :: l).length := Nat.mod_lt _ (List.length_pos_iff.mpr h)
    have taken : choose s (a :: b :: l) = ((a :: b :: l)[Config.pick s.free % (a :: b :: l).length]?, s.drawn) := rfl
    exact ⟨_, List.getElem_mem bound, _, by rw [taken, List.getElem?_eq_getElem bound]; rfl⟩

theorem step_chosen (h : s.sel = none) (he : enabled s ≠ []) : ∃ w ∈ enabled s, ∃ n, step s = perform w { s with free := n } := by
  obtain ⟨w, hw, n, chosen⟩ := choose_mem s he
  refine ⟨w, hw, n, ?_⟩
  simp only [step, h, chosen]

theorem elems_headGone : (s.headGone e f rest).elems = s.elems.upd e fun x => { x with readyQ := rest, held := {} } := by
  unfold State.headGone
  rw [s.noteIssue_eq]
  rfl

theorem elem_headGone_same : (s.headGone e f rest).elem e = { s.elem e with readyQ := rest, held := {} } := by
  rw [State.elem, elems_headGone, Tbl.look_upd_same]
  rfl

theorem elem_headGone_other {k : Nat} (h : k ≠ e) : (s.headGone e f rest).elem k = s.elem k := by
  rw [State.elem, elems_headGone, Tbl.look_upd_other _ _ _ _ h]
  rfl

theorem record_headGone (n : Nat) : (s.headGone e f rest).record n = s.record n := by
  by_cases h : n / 1024 = e
  · subst h
    rw [State.record, elem_headGone_same]
    rfl
  · rw [State.record, elem_headGone_other h]
    rfl

/-- A ring performs the record at its position. -/
theorem ringStep_ok {p : Nat} (hp : (s.elem e).ring.pos = p) (running : s.stoppedAt (e / 4) = false) (go : (s.elem e).stop = false)
    (on : (s.elem e).ring.on = true) (fresh : p ∉ (s.elem e).ring.halts) (clean : s.ecc.look (recordEcc (e * 1024 + p)) = 0)
    (dec : decode (s.record (e * 1024 + p)) = .ok i) : ringStep e s = exec i { s with cur := { elem := e, node := p } } := by
  subst hp
  have first : (!(s.elem e).ring.on || (s.elem e).ring.halts.contains (s.elem e).ring.pos || (s.elem e).stop ||
      s.stoppedAt (e / 4)) = false := by
    simp [on, go, running, fresh]
  simp only [ringStep, first, clean, dec, Bool.false_eq_true, if_false]
  rw [State.countTableCe_clean (by simpa using clean)]
  rfl

/-- Settles O58, by what an issue, a ring and a choice perform. -/
theorem stepRunsDecodedInstruction : Obligations.StepRunsDecodedInstruction := by
  unfold Obligations.StepRunsDecodedInstruction
  intro s i
  refine ⟨?_, ?_, fun a b c => step_event, fun _ he => absurd he (List.cons_ne_nil _ _), step_chosen, fun w dec => ?_⟩
  · intro e f rest rid sel mode running head room free
    have issues : HeadIssues { s with sel := none } e f rest := HeadIssues.of_sel ⟨mode, running, head, room, free⟩
    refine ⟨State.headGone { s with sel := none } e f rest, headGone_eq, elem_headGone_same, fun k => elem_headGone_other,
      State.load_noteIssue_same _ _, fun l => State.load_noteIssue_other _, fun bad => ?_,
      fun hr hs => ⟨fun dec => ?_, fun x dec => ?_⟩⟩
    · rw [step_issue sel, issue_head issues]
      exact if_pos (beq_iff_eq.mpr bad)
    · have decoded : decode (State.record { s with sel := none } f.key) = .ok i := dec
      rw [step_issue sel, issue_head_clean issues hr hs, decoded]
    · have decoded : decode (State.record { s with sel := none } f.key) = .error x := dec
      rw [step_issue sel, issue_head_clean issues hr hs, decoded]
      rfl
  · intro e rid p sel mode running go on fresh clean dec
    have static : (State.regionOf { s with sel := none } (e / 4)).mode = true := mode
    rw [step_issue sel, issue, if_pos static]
    exact ringStep_ok (s := { s with sel := none }) rfl running go on fresh clean dec
  · have ready : State.reset.withFetchWord 96 w.toNat = readyState .reset w := by
      rw [State.withFetchWord, if_neg (by decide), BitVec.ofNat_toNat, BitVec.setWidth_eq]
    have issues := (firstHead_issues w).of_sel
    have stored : State.record { readyState .reset w with sel := none } 0 = w := record_readyState .reset w
    have record : State.record { readyState .reset w with sel := none } (Firing.key { elem := 0, node := 0 }) = w := stored
    refine ⟨State.headGone { readyState .reset w with sel := none } 0 { elem := 0, node := 0 } [], ?_, rfl,
      (record_headGone 0).trans stored, ?_, ?_⟩
    · rw [ready, step_issue rfl, issue_head_clean issues rfl (fun _ _ => rfl), record, dec]
    · rw [headGone_eq]
      rfl
    · rw [headGone_eq]
      rfl
end Sys2Proof
end

section
/-!
A cycle: the timebase, the stall counters and the hold count of each element that has its cycle (R4, R38, R358).
-/
namespace Sys2Proof
open Machine

variable {s t : State}

/-! ### The cycle of one element (R38, R358) -/

/-- The counters of element `e` after its cycle. -/
def cycled (s : State) (e : Nat) (x : Elem) : Elem :=
  { x with held := x.held.count (s.heldHead e), cleared := []
           stallOp := ((s.parkedNodes e).filter fun n => !x.cleared.contains (n * 2)).foldl
             (fun (t : Tbl (BitVec 16)) n => t.upd n sat16) x.stallOp
           stallOut := match s.heldHead e with
             | some f => if x.cleared.contains (f.node * 2 + 1) then x.stallOut else x.stallOut.upd f.node sat16
             | none => x.stallOut }

theorem elemCycle_eq (h : Alike s t) {e : Nat} (idle : (t.elem e).lutLoads = []) : t.elemCycle e = t.modElem e (cycled s e) := by
  have parked : t.parkedNodes e = s.parkedNodes e := by rw [State.parkedNodes, State.parkedNodes, h.ct]
  have same : (t.modElem e (cycled s e)).elem e = cycled s e (t.elem e) := State.elem_modElem_same _ _ _
  have cycle : t.elemCycle e =
      ((t.modElem e (cycled s e)).elem e).lutLoads.foldl (fun st l => st.lutStep e l) (t.modElem e (cycled s e)) := by
    rw [State.elemCycle, h.heldHead, parked]
    rfl
  rw [cycle, same]
  exact congrArg (List.foldl _ _) idle

theorem alike_cycled (h : Alike s t) (u : State) (e : Nat) : Alike s (t.modElem e (cycled u e)) := by
  obtain ⟨E, σ, rfl, h⟩ := h
  refine ⟨E.upd e (cycled u e), σ, rfl, fun k => ?_⟩
  rw [Tbl.look_upd]
  split
  next ke => subst ke; exact h k
  next => exact h k

/-- Each element of the list has its cycle, and nothing else changes. -/
theorem foldl_elemCycle {l : List Nat} (once : l.Nodup) (idle : ∀ e, (s.elem e).lutLoads = []) (h : Alike s t)
    (frame : t = { s with elems := t.elems }) :
    l.foldl (fun st e => st.elemCycle e) t = { s with elems := (l.foldl (fun st e => st.elemCycle e) t).elems } ∧
      ∀ k, (l.foldl (fun st e => st.elemCycle e) t).elem k = if k ∈ l then cycled s k (t.elem k) else t.elem k := by
  induction l generalizing t with
  | nil => exact ⟨frame, fun k => rfl⟩
  | cons e l ih =>
    obtain ⟨fresh, once⟩ := List.nodup_cons.mp once
    have loads : (t.elem e).lutLoads = [] := (h.field Elem.lutLoads (fun _ => rfl) e).trans (idle e)
    have cycle := elemCycle_eq h loads
    obtain ⟨frame', elems⟩ := ih once (alike_cycled h s e) (by rw [frame]; rfl)
    rw [List.foldl_cons, cycle]
    refine ⟨frame', fun k => (elems k).trans ?_⟩
    by_cases ke : k = e
    · subst ke
      simp [fresh]
    · simp [ke, State.elem_modElem_other]

theorem stallOp_cycled (s : State) (e : Nat) (x : Elem) (n : Nat) : (cycled s e x).stallOp.look n =
    if n ∈ s.parkedNodes e ∧ n * 2 ∉ x.cleared then sat16 (x.stallOp.look n) else x.stallOp.look n := by
  have once : (s.parkedNodes e).Nodup := nodup_eraseDups _ _ le_rfl
  refine (look_foldl_upd (fun _ => sat16) (once.filter _) _ n).trans ?_
  simp [List.mem_filter]

theorem stallOut_cycled {e : Nat} {f : Firing} (h : s.heldHead e = some f) (x : Elem) (n : Nat) : (cycled s e x).stallOut.look n =
    if n = f.node ∧ n * 2 + 1 ∉ x.cleared then sat16 (x.stallOut.look n) else x.stallOut.look n := by
  simp only [cycled, h]
  by_cases c : f.node * 2 + 1 ∈ x.cleared
  · rw [if_pos (by simpa using c), if_neg]
    rintro ⟨rfl, hn⟩
    exact hn c
  · rw [if_neg (by simpa using c), Tbl.look_upd]
    by_cases nf : n = f.node
    · subst nf
      simp [c]
    · simp [nf]

/-! ### What is due at the end of a cycle -/

theorem journalNote_frame (s : State) (cmd arg : Nat) (aux : List Byte) : s.journalNote cmd arg aux =
    { s with journal := (s.journalNote cmd arg aux).journal, jhead := (s.journalNote cmd arg aux).jhead
             jtail := (s.journalNote cmd arg aux).jtail } := by
  unfold State.journalNote State.journalNew
  dsimp only
  split <;> rfl

/-- From `s` to `t` the ownership registers, the hosts and the journal alone have changed. -/
def OwnOnly (s t : State) : Prop := t = { s with own := t.own, hosts := t.hosts, journal := t.journal, jhead := t.jhead, jtail := t.jtail }

theorem OwnOnly.journalNote (h : OwnOnly s t) (cmd arg : Nat) (aux : List Byte) : OwnOnly s (t.journalNote cmd arg aux) := by
  rw [OwnOnly, journalNote_frame, h]

theorem OwnOnly.modOwn (h : OwnOnly s t) (f : Own → Own) : OwnOnly s (t.modOwn f) := by
  rw [OwnOnly, h]
  rfl

theorem OwnOnly.msiAll (h : OwnOnly s t) : OwnOnly s t.msiAll := by
  rw [OwnOnly, h]
  rfl

theorem closeElection_ownOnly (s : State) : OwnOnly s s.closeElection := by
  unfold State.closeElection
  split
  · rfl
  · split
    · exact (((((show OwnOnly s s from rfl).journalNote ..).modOwn _).msiAll).modOwn _).modOwn _
    · rfl

theorem lapse_ownOnly (h : OwnOnly s t) : OwnOnly s t.lapse := by
  unfold State.lapse
  split
  · exact h
  · exact ((h.journalNote ..).modOwn _).msiAll

theorem ownDue_ownOnly (s : State) : OwnOnly s s.ownDue := lapse_ownOnly (closeElection_ownOnly s)

/-- The elements that have a cycle. -/
def clocked (s : State) : List Nat := (s.elems.map (·.1)).eraseDups.filter s.clocks

theorem mem_clocked {e : Nat} : e ∈ clocked s ↔ (∃ p ∈ s.elems, p.1 = e) ∧ s.clocks e = true := by
  rw [clocked, List.mem_filter, List.mem_eraseDups, List.mem_map]

/-- The package after its elements' cycles. -/
def afterCycles (s : State) : State := (clocked s).foldl (fun st e => st.elemCycle e) s

theorem softError_frame (s : State) : s.softError = { s with free := s.softError.free, ecc := s.softError.ecc } := by
  unfold State.softError
  split <;> rfl

/-- Each die that runs and does not skip the cycle counts it. -/
def countedCycles (s t : State) : State :=
  [0, 1, 2].foldl (fun st d => if s.running d && !s.skips d then st.modDie d fun x => { x with cyc := x.cyc + 1 } else st) t

theorem countedCycles_frame (s t : State) : countedCycles s t = { t with dies := (countedCycles s t).dies } := by
  refine foldl_keeps (P := fun u : State => u = { t with dies := u.dies }) (fun u d h => ?_) _ rfl
  split
  · rw [h]
    rfl
  · exact h

/-- A cycle ends. -/
def cycleEnded (s : State) : State :=
  ({ s.softError with units := s.units + s.power.cycleUnits, cycles := s.cycles + 1 } : State).ownDue

theorem execCycle_eq (mode : s.power.next = none) (window : s.windowOver = false) :
    exec .stallCounterCycle s = .next (cycleEnded (countedCycles s (afterCycles s))) := by
  have due : s.modeDue.windowDue = s := by
    rw [State.modeDue, mode, State.windowDue, window]
    rfl
  show execStallCounterCycle s = _
  rw [execStallCounterCycle, due]
  rfl

/-- What the end of a cycle leaves: the timebase moves on. -/
theorem cycleEnded_leaves (s : State) : (cycleEnded s).units = s.units + (if s.power.mode = 2 then 20 else 15) ∧
    (cycleEnded s).cycles = s.cycles + 1 ∧ (cycleEnded s).mem = s.mem ∧ (cycleEnded s).cts = s.cts ∧ (cycleEnded s).reqs = s.reqs ∧
    (cycleEnded s).loads = s.loads ∧ (cycleEnded s).elems = s.elems := by
  have due : cycleEnded s = _ := ownDue_ownOnly _
  rw [due, softError_frame]
  exact ⟨rfl, rfl, rfl, rfl, rfl, rfl, rfl⟩

/-- Settles O46: each element's cycle changes its own counters, which no other element's cycle reads. -/
theorem cyclesAndStalls : Obligations.CyclesAndStalls := by
  unfold Obligations.CyclesAndStalls
  intro s e mode window loads
  have idle (k : Nat) : (s.elem k).lutLoads = [] := by
    by_cases h : s.elem k = default
    · rw [h]
      rfl
    · exact loads _ (Tbl.mem_of_look h)
  have once : (clocked s).Nodup := (nodup_eraseDups _ _ le_rfl).filter _
  obtain ⟨frame, elems⟩ := foldl_elemCycle once idle (Alike.refl s) rfl
  let u : State := { s with elems := (afterCycles s).elems, dies := (countedCycles s (afterCycles s)).dies }
  have package : countedCycles s (afterCycles s) = u :=
    (countedCycles_frame ..).trans (congrArg (fun v : State => { v with dies := (countedCycles s (afterCycles s)).dies }) frame)
  have run := execCycle_eq mode window
  rw [package] at run
  obtain ⟨units, cycles, mem, cts, reqs, lds, same⟩ := cycleEnded_leaves u
  have elem (k : Nat) : (cycleEnded u).elem k = if k ∈ clocked s then cycled s k (s.elem k) else s.elem k :=
    (congrArg (fun T : Tbl Elem => T.look k) same).trans (elems k)
  refine ⟨_, run, units, cycles, mem, cts, reqs, lds, fun off => ?_, fun on there => ?_⟩
  · rw [elem, if_neg fun h => by rw [mem_clocked, off] at h; exact Bool.false_ne_true h.2]
  · rw [elem, if_pos (mem_clocked.mpr ⟨there, on⟩)]
    refine ⟨stallOp_cycled s e _, fun f h n => stallOut_cycled h _ n, fun f h held => ?_, fun h => ?_, rfl, rfl⟩
    · simp [cycled, h, Held.count, held]
    · simp [cycled, h, Held.count]
end Sys2Proof
end

section
/-!
Exact values and their rounding (R57, R65, R66, R72): NaN operands, sums and products of exact values, and the integers
that FP32 holds.
-/
namespace Sys2Proof
open Machine

/-! ### NaN operands (R72) -/

theorem isNan_neg (x : FVal) : x.neg.isNan = x.isNan := by
  cases x <;> rfl

theorem eq_nan_of_isNan {x : FVal} (h : x.isNan = true) : ∃ sig, x = .nan sig := by
  cases x with
  | nan sig => exact ⟨sig, rfl⟩
  | inf | fin => cases h

theorem pack_nan_fst (f : Fmt) (r : Rnd) (sig : Bool) : (f.pack r (.nan sig)).1 = f.nan := rfl

/-- A sum with a NaN among its terms packs to the canonical NaN. -/
theorem packSum_of_nan (f : Fmt) (r : Rnd) {mode : Nat} {l : List FVal} (h : l.any FVal.isNan = true) :
    (f.packSum r (sumVals mode l)).1 = f.nan := by
  rw [sumVals, if_pos h]
  rfl

theorem mulVals_of_nan {x y : FVal} (h : x.isNan = true ∨ y.isNan = true) : (mulVals x y).1 = .nan false := by
  rcases h with h | h <;> obtain ⟨sig, rfl⟩ := eq_nan_of_isNan h
  · rfl
  · cases x <;> rfl

/-- The operations of two operands, and of three, on a NaN among the first two. -/
theorem binary_of_nan (f : Fmt) (m : Rnd) {a b : Nat} (c : Nat) (h : (f.value a).isNan = true ∨ (f.value b).isNan = true) :
    (f.add m a b).1 = f.nan ∧ (f.sub m a b).1 = f.nan ∧ (f.mul m a b).1 = f.nan ∧ (f.div m a b).1 = f.nan ∧
      (f.fma m a b c).1 = f.nan := by
  have product := mulVals_of_nan h
  refine ⟨packSum_of_nan f m ?_, packSum_of_nan f m ?_, ?_, ?_, packSum_of_nan f m ?_⟩
  · simpa using h
  · simpa [isNan_neg] using h
  · show (f.pack m (mulVals (f.value a) (f.value b)).1).1 = f.nan
    rw [product, pack_nan_fst]
  · rw [Fmt.div]
    rcases h with h | h <;> obtain ⟨sig, e⟩ := eq_nan_of_isNan h
    · rw [e]
    · rw [e]
      cases f.value a <;> rfl
  · exact Bool.or_eq_true_iff.mpr (.inl (congrArg FVal.isNan product))

theorem fma_of_nan (f : Fmt) (m : Rnd) (a b : Nat) {c : Nat} (h : (f.value c).isNan = true) : (f.fma m a b c).1 = f.nan :=
  packSum_of_nan f m (by simp [h])

theorem unary_of_nan (f : Fmt) (m : Rnd) {a : Nat} (h : (f.value a).isNan = true) :
    (f.sqrt m a).1 = f.nan ∧ (f.recip m a).1 = f.nan ∧ (f.rsqrt m a).1 = f.nan ∧ (f.rint m a).1 = f.nan := by
  obtain ⟨sig, e⟩ := eq_nan_of_isNan h
  simp only [Fmt.sqrt, Fmt.recip, Fmt.rsqrt, Fmt.rint, e, and_self]

/-! ### Exact values as rational numbers -/

/-- The number that a finite value stands for. -/
def exactVal (neg : Bool) (mag : Nat) (exp : Int) : ℚ := (if neg then -1 else 1) * mag * 2 ^ exp

theorem exactVal_mul (n k : Bool) (m l : Nat) (e g : Int) :
    exactVal (n != k) (m * l) (e + g) = exactVal n m e * exactVal k l g := by
  have split : (2 : ℚ) ^ (e + g) = 2 ^ e * 2 ^ g := zpow_add₀ two_ne_zero e g
  cases n <;> cases k <;> simp [exactVal, split] <;> ring

theorem scaled_val (n : Bool) (m : Nat) {e q : Int} (h : q ≤ e) : (scaled n m e q : ℚ) * 2 ^ q = exactVal n m e := by
  have power : ((2 : ℚ) ^ (e - q).toNat) * 2 ^ q = 2 ^ e := by
    rw [← zpow_natCast, ← zpow_add₀ two_ne_zero, Int.toNat_of_nonneg (by omega), Int.sub_add_cancel]
  cases n <;> simp [scaled, exactVal, mul_assoc, power]

/-- The least of the exponents and 0. -/
theorem foldl_min_le {l : List (Bool × Nat × Int)} (q : Int) :
    l.foldl (fun q t => min q t.2.2) q ≤ q ∧ ∀ t ∈ l, l.foldl (fun q t => min q t.2.2) q ≤ t.2.2 := by
  induction l generalizing q with
  | nil => simp
  | cons x l ih =>
    obtain ⟨low, all⟩ := ih (min q x.2.2)
    refine ⟨low.trans (min_le_left _ _), fun t ht => ?_⟩
    rcases List.mem_cons.mp ht with rfl | ht
    · exact low.trans (min_le_right _ _)
    · exact all t ht

theorem foldl_add_sum {α : Type} (f : α → Int) (l : List α) (a : Int) : l.foldl (fun s t => s + f t) a = a + (l.map f).sum := by
  induction l generalizing a with
  | nil => simp
  | cons x l ih => rw [List.foldl_cons, ih, List.map_cons, List.sum_cons, Int.add_assoc]

theorem exactVal_natAbs (s e : Int) : exactVal (decide (s < 0)) s.natAbs e = s * 2 ^ e := by
  have sign : (if decide (s < 0) = true then -1 else 1 : ℚ) * (s.natAbs : ℚ) = s := by
    rcases lt_or_ge s 0 with h | h
    · rw [Nat.cast_natAbs, abs_of_neg h]; simp [h]
    · rw [Nat.cast_natAbs, abs_of_nonneg h]; simp [not_lt.mpr h]
  rw [exactVal, sign]

/-- R57: the sum of finite values is exact. -/
theorem sumFin_val (mode : Nat) (l : List (Bool × Nat × Int)) :
    exactVal (sumFin mode l).1 (sumFin mode l).2.mag (sumFin mode l).2.exp = (l.map fun t => exactVal t.1 t.2.1 t.2.2).sum := by
  set q := l.foldl (fun q t => min q t.2.2) 0 with hq
  set s := l.foldl (fun s t => s + scaled t.1 t.2.1 t.2.2 q) (0 : Int) with hs
  have value : (s : ℚ) * 2 ^ q = (l.map fun t => exactVal t.1 t.2.1 t.2.2).sum := by
    have total : (s : ℚ) = (l.map fun t => (scaled t.1 t.2.1 t.2.2 q : ℚ)).sum := by
      rw [hs, foldl_add_sum, Int.zero_add, Int.cast_list_sum, List.map_map]
      rfl
    rw [total, ← List.sum_map_mul_right]
    exact congrArg List.sum (List.map_congr_left fun t ht => scaled_val _ _ ((foldl_min_le 0).2 t ht))
  rw [← value]
  by_cases zero : s = 0
  · simp only [sumFin, ← hq, ← hs, zero, if_true, exactVal]
    simp
  · simp only [sumFin, ← hq, ← hs, zero, if_false]
    exact exactVal_natAbs s q

theorem sumFin_whole (mode : Nat) (l : List (Bool × Nat × Int)) :
    (sumFin mode l).2 = { mag := (sumFin mode l).2.mag, exp := (sumFin mode l).2.exp } := by
  unfold sumFin
  dsimp only
  split <;> rfl

/-- The sum of finite values has no NaN and no infinity. -/
theorem sumVals_fin (mode : Nat) (l : List (Bool × Nat × Int)) :
    sumVals mode (l.map fun t => .fin t.1 t.2.1 t.2.2) = .ok (sumFin mode l) := by
  have parts : (l.map fun t => FVal.fin t.1 t.2.1 t.2.2).filterMap
      (fun v => match v with | .fin n m e => some (n, m, e) | _ => none) = l := by
    rw [List.filterMap_map]
    exact List.filterMap_some
  have never (p : FVal → Bool) (h : ∀ n m e, p (.fin n m e) = false) :
      (l.map fun t => FVal.fin t.1 t.2.1 t.2.2).any p = false := by
    simp [h]
  simp only [sumVals, never FVal.isNan (fun _ _ _ => rfl), never (· == .inf false) (fun _ _ _ => rfl),
    never (· == .inf true) (fun _ _ _ => rfl), Bool.false_and, Bool.false_eq_true, if_false]
  exact congrArg (fun l => Except.ok (sumFin mode l)) parts

/-! ### Rounding of a value that the format holds (R65, R66) -/

/-- A multiple of 2^q is not rounded. -/
theorem roundAt_exact (r : Rnd) (neg : Bool) {k h : Nat} {e q : Int} (val : (k : ℚ) * 2 ^ e = h * 2 ^ q) :
    Mag.roundAt r neg { mag := k, exp := e } q = (h, false, false) := by
  rcases le_or_gt q e with le | gt
  · have whole : k * 2 ^ (e - q).toNat = h := by
      have : ((k * 2 ^ (e - q).toNat : Nat) : ℚ) = h := by
        rw [Nat.cast_mul, Nat.cast_pow, Nat.cast_ofNat, ← zpow_natCast, Int.toNat_of_nonneg (by omega),
          zpow_sub₀ two_ne_zero, mul_div_assoc', val, mul_div_assoc, div_self (zpow_ne_zero _ two_ne_zero), mul_one]
      exact_mod_cast this
    simp [Mag.roundAt, le, whole]
  · have whole : k = h * 2 ^ (q - e).toNat := by
      have : (k : ℚ) = ((h * 2 ^ (q - e).toNat : Nat) : ℚ) := by
        rw [Nat.cast_mul, Nat.cast_pow, Nat.cast_ofNat, ← zpow_natCast, Int.toNat_of_nonneg (by omega),
          zpow_sub₀ two_ne_zero, mul_div_assoc', ← val, mul_div_assoc, div_self (zpow_ne_zero _ two_ne_zero), mul_one]
      exact_mod_cast this
    have half : (0 == 2 ^ ((q - e).toNat - 1)) = false := beq_false_of_ne (Nat.two_pow_pos _).ne
    have quotient : k / 2 ^ (q - e).toNat = h := by rw [whole, Nat.mul_div_cancel _ (Nat.two_pow_pos _)]
    have remainder : k % 2 ^ (q - e).toNat = 0 := by rw [whole, Nat.mul_mod_left]
    have no : (match r.mode with
        | 0 => decide (2 ^ ((q - e).toNat - 1) < 0) || (0 == 2 ^ ((q - e).toNat - 1) && (false || h % 2 == 1))
        | 2 => false && !neg
        | 3 => false && neg
        | 4 => false && decide (2 ^ 32 ≤ 0 * 2 ^ 32 / 2 ^ (q - e).toNat + r.bits)
        | _ => false) = false := by
      split <;> simp [half]
    simp only [Mag.roundAt, if_neg (not_le.mpr gt), quotient, remainder, bne_self_eq_false, Bool.or_false]
    exact congrArg (fun u => (h, u, false)) no

/-- The binary exponent of a number does not depend on how it is written. -/
theorem top_exact {k n : Nat} {e : Int} (hn : 0 < n) (val : (k : ℚ) * 2 ^ e = n) :
    Mag.top { mag := k, exp := e } = Nat.log2 n := by
  have hk : k ≠ 0 := by
    rintro rfl
    rw [Nat.cast_zero, zero_mul] at val
    exact hn.ne (by exact_mod_cast val)
  have lowK : ((2 : ℚ) ^ (Nat.log2 k : Int)) ≤ k := by exact_mod_cast Nat.log2_self_le hk
  have highK : (k : ℚ) < 2 ^ ((Nat.log2 k : Int) + 1) := by exact_mod_cast (Nat.lt_log2_self (n := k))
  have lowN : ((2 : ℚ) ^ (Nat.log2 n : Int)) ≤ n := by exact_mod_cast Nat.log2_self_le hn.ne'
  have highN : (n : ℚ) < 2 ^ ((Nat.log2 n : Int) + 1) := by exact_mod_cast (Nat.lt_log2_self (n := n))
  have pos : (0 : ℚ) < 2 ^ e := zpow_pos two_pos _
  have low : (2 : ℚ) ^ ((Nat.log2 k : Int) + e) < 2 ^ ((Nat.log2 n : Int) + 1) := by
    refine lt_of_le_of_lt ?_ highN
    rw [zpow_add₀ two_ne_zero, ← val]
    exact mul_le_mul_of_nonneg_right lowK pos.le
  have high : (2 : ℚ) ^ (Nat.log2 n : Int) < 2 ^ ((Nat.log2 k : Int) + 1 + e) := by
    refine lt_of_le_of_lt lowN ?_
    rw [zpow_add₀ two_ne_zero _ e, ← val]
    exact mul_lt_mul_of_pos_right highK pos
  have := (zpow_lt_zpow_iff_right₀ (one_lt_two (α := ℚ))).mp low
  have := (zpow_lt_zpow_iff_right₀ (one_lt_two (α := ℚ))).mp high
  show (Nat.log2 k : Int) + e = Nat.log2 n
  omega

/-- The value of the encoding with exponent field `x` and mantissa field `m`. -/
theorem fp32_value_normal (neg : Bool) {x m : Nat} (hx : 0 < x) (hx' : x < 255) (hm : m < 2 ^ 23) :
    fp32.value (fp32.signed neg (x * 2 ^ 23 + m)) = .fin neg (2 ^ 23 + m) ((x : Int) - 150) := by
  have sign : tbit (fp32.signed neg (x * 2 ^ 23 + m)) 31 = neg := by
    cases neg <;> simp [tbit, Fmt.signed, fp32] <;> omega
  have exponent : fld (fp32.signed neg (x * 2 ^ 23 + m)) 23 8 = x := by
    cases neg <;> simp [fld, Fmt.signed, fp32] <;> omega
  have mantissa : fld (fp32.signed neg (x * 2 ^ 23 + m)) 0 23 = m := by
    cases neg <;> simp [fld, Fmt.signed, fp32] <;> omega
  have ordinary : ¬ x = 2 ^ 8 - 1 := by omega
  generalize fp32.signed neg (x * 2 ^ 23 + m) = enc at *
  have value : fp32.value enc = if fld enc 23 8 = 2 ^ 8 - 1
      then (if fld enc 0 23 = 0 then .inf (tbit enc 31) else .nan (fld enc 0 23 < 2 ^ 22))
      else if fld enc 23 8 = 0 then .fin (tbit enc 31) (fld enc 0 23) (1 - (127 : Int) - 23)
      else .fin (tbit enc 31) (2 ^ 23 + fld enc 0 23) ((fld enc 23 8 : Int) - 127 - 23) := rfl
  rw [value, exponent, mantissa, sign, if_neg ordinary, if_neg hx.ne']
  congr 1
  omega

theorem fp32_value_zero (neg : Bool) : fp32.value (fp32.signed neg 0) = .fin neg 0 (-149) := by
  cases neg <;> rfl

/-- FP32 holds every natural number below 2^24: however it is written, it rounds to itself in every mode, without a flag. -/
theorem fp32_round_nat (r : Rnd) (neg : Bool) {k n : Nat} {e : Int} (val : (k : ℚ) * 2 ^ e = n) (hn : n < 2 ^ 24) :
    (fp32.round r neg { mag := k, exp := e }).2 = 0 ∧ ∃ m g, fp32.value (fp32.round r neg { mag := k, exp := e }).1 = .fin neg m g ∧
      (m : ℚ) * 2 ^ g = n := by
  rcases Nat.eq_zero_or_pos n with rfl | pos
  · have zero : k = 0 := by
      rw [Nat.cast_zero, mul_eq_zero] at val
      exact_mod_cast val.resolve_right (zpow_ne_zero _ two_ne_zero)
    subst zero
    exact ⟨rfl, 0, -149, fp32_value_zero neg, by simp⟩
  · have hk : k ≠ 0 := by
      rintro rfl
      rw [Nat.cast_zero, zero_mul] at val
      exact pos.ne (by exact_mod_cast val)
    have top := top_exact pos val
    obtain ⟨L, hL⟩ : ∃ L, Nat.log2 n = L := ⟨_, rfl⟩
    have small : L < 24 := hL ▸ (Nat.log2_lt pos.ne').mpr hn
    have low : 2 ^ L ≤ n := hL ▸ Nat.log2_self_le pos.ne'
    have high : n < 2 ^ (L + 1) := hL ▸ Nat.lt_log2_self
    obtain ⟨m, hm⟩ : ∃ m, n * 2 ^ (23 - L) = 2 ^ 23 + m := by
      refine Nat.exists_eq_add_of_le ?_
      calc 2 ^ 23 = 2 ^ L * 2 ^ (23 - L) := by rw [← Nat.pow_add]; congr 1; omega
        _ ≤ n * 2 ^ (23 - L) := Nat.mul_le_mul_right _ low
    have bound : m < 2 ^ 23 := by
      have : n * 2 ^ (23 - L) < 2 ^ (L + 1) * 2 ^ (23 - L) := Nat.mul_lt_mul_of_pos_right high (Nat.two_pow_pos _)
      rw [← Nat.pow_add, show L + 1 + (23 - L) = 24 by omega] at this
      omega
    have scaled : ((2 ^ 23 + m : Nat) : ℚ) * 2 ^ ((L : Int) - 23) = n := by
      rw [← hm, Nat.cast_mul, Nat.cast_pow, Nat.cast_ofNat, ← zpow_natCast, mul_assoc, ← zpow_add₀ two_ne_zero,
        show ((23 - L : Nat) : Int) + ((L : Int) - 23) = 0 by omega, zpow_zero, mul_one]
    have rounded := roundAt_exact r neg (val.trans scaled.symm)
    have enc : ((L : Int) - 23 - (1 - 127 - 23)).toNat * 2 ^ 23 + (2 ^ 23 + m) = (L + 127) * 2 ^ 23 + m := by omega
    have round : fp32.round r neg { mag := k, exp := e } = (fp32.signed neg ((L + 127) * 2 ^ 23 + m), 0) := by
      have q : max (L : Int) (1 - 127) - 23 = (L : Int) - 23 := by omega
      have fits : ¬ (L + 127) * 2 ^ 23 + m > fp32.maxEnc := by
        show ¬ _ > (2 ^ 8 - 1) * 2 ^ 23 - 1
        omega
      have unfolded : fp32.round r neg { mag := k, exp := e } = if k = 0 ∧ !false then (fp32.signed neg 0, 0) else
          let x : Mag := { mag := k, exp := e }
          let q := max x.top (1 - 127) - 23
          let t := x.roundAt r neg q
          let enc := (q - (1 - 127 - 23)).toNat * 2 ^ 23 + if t.2.1 then t.1 + 1 else t.1
          if enc > fp32.maxEnc then fp32.overflow r neg
          else
            let tiny : Bool := if x.top ≥ 1 - 127 then false else
              let t := x.roundAt r neg (x.top - 23)
              !(x.top == 1 - 127 - 1 && t.2.1 && t.1 + 1 == 2 ^ (23 + 1))
            (fp32.signed neg enc, (if t.2.2 then fNX else 0) ||| (if t.2.2 && tiny then fUF else 0)) := rfl
      rw [unfolded, if_neg (by simp [hk])]
      simp only [top, hL, q, rounded, Bool.false_eq_true, if_false, enc, if_neg fits, Bool.false_and]
      rfl
    refine ⟨by rw [round], 2 ^ 23 + m, ((L + 127 : Nat) : Int) - 150, ?_, ?_⟩
    · rw [round]
      exact fp32_value_normal neg (by omega) (by omega) bound
    · rw [show ((L + 127 : Nat) : Int) - 150 = (L : Int) - 23 by omega]
      exact scaled

/-! ### Integers in FP32 lanes -/

/-- The FP32 encoding `a` holds the integer `x`. -/
def HoldsInt (a : Nat) (x : Int) : Prop := ∃ n m e, fp32.value a = .fin n m e ∧ exactVal n m e = x

/-- A magnitude that is a natural number, told without fractions. -/
theorem mag_eq_nat_iff (k : Nat) (e : Int) (n : Nat) :
    (k : ℚ) * 2 ^ e = n ↔ (0 ≤ e ∧ k * 2 ^ e.toNat = n) ∨ (e < 0 ∧ k = n * 2 ^ (-e).toNat) := by
  rcases le_or_gt 0 e with h | h
  · obtain ⟨j, rfl⟩ := Int.eq_ofNat_of_zero_le h
    rw [zpow_natCast]
    simp only [h, true_and, not_lt.mpr h, false_and, or_false, Int.toNat_natCast]
    exact_mod_cast Iff.rfl
  · obtain ⟨j, rfl⟩ : ∃ j : Nat, e = -j := ⟨(-e).toNat, by omega⟩
    rw [zpow_neg, zpow_natCast, mul_inv_eq_iff_eq_mul₀ (by positivity)]
    simp only [h, true_and, not_le.mpr h, false_and, false_or, Int.neg_neg, Int.toNat_natCast]
    exact_mod_cast Iff.rfl

theorem exactVal_eq_int_iff (g : Bool) (k : Nat) (e x : Int) :
    exactVal g k e = x ↔ (k : ℚ) * 2 ^ e = x.natAbs ∧ (x ≠ 0 → g = decide (x < 0)) := by
  have nonneg : (0 : ℚ) ≤ k * 2 ^ e := by positivity
  have shape : exactVal g k e = if g then -((k : ℚ) * 2 ^ e) else (k : ℚ) * 2 ^ e := by
    cases g <;> simp [exactVal]
  rw [shape]
  clear shape
  generalize (k : ℚ) * 2 ^ e = y at nonneg
  rcases lt_trichotomy x 0 with h | rfl | h
  · have cast : ((x.natAbs : Nat) : ℚ) = -x := by rw [Nat.cast_natAbs, abs_of_neg h]; simp
    have neg : (x : ℚ) < 0 := by exact_mod_cast h
    rw [cast]
    cases g
    · have : y ≠ x := by linarith
      simp [this, h, h.ne]
    · simp [h, neg_eq_iff_eq_neg]
  · cases g <;> simp
  · have cast : ((x.natAbs : Nat) : ℚ) = x := by rw [Nat.cast_natAbs, abs_of_pos h]
    have pos : (0 : ℚ) < x := by exact_mod_cast h
    rw [cast]
    cases g
    · simp [h.le]
    · have : -y ≠ x := by linarith
      simp [this, h.le, h.ne']

theorem holdsInt_iff (a : Nat) (x : Int) : HoldsInt a x ↔ ∃ g k e, fp32.value a = .fin g k e ∧
    ((0 ≤ e ∧ k * 2 ^ e.toNat = x.natAbs) ∨ (e < 0 ∧ k = x.natAbs * 2 ^ (-e).toNat)) ∧ (x ≠ 0 → g = decide (x < 0)) := by
  simp only [HoldsInt, exactVal_eq_int_iff, mag_eq_nat_iff]

/-- An exact integer of magnitude below 2^24 rounds to an encoding that holds it. -/
theorem round_holdsInt (r : Rnd) {neg : Bool} {k : Nat} {e x : Int} (val : exactVal neg k e = x) (small : x.natAbs < 2 ^ 24) :
    HoldsInt (fp32.round r neg { mag := k, exp := e }).1 x ∧ (fp32.round r neg { mag := k, exp := e }).2 = 0 := by
  obtain ⟨mag, sign⟩ := (exactVal_eq_int_iff ..).mp val
  obtain ⟨flags, m, g, value, same⟩ := fp32_round_nat r neg mag small
  exact ⟨⟨neg, m, g, value, (exactVal_eq_int_iff ..).mpr ⟨same, sign⟩⟩, flags⟩

theorem add_holdsInt (r : Rnd) {a b : Nat} {x y : Int} (ha : HoldsInt a x) (hb : HoldsInt b y) (small : (x + y).natAbs < 2 ^ 24) :
    HoldsInt (fp32.add r a b).1 (x + y) ∧ (fp32.add r a b).2 = 0 := by
  obtain ⟨n, m, e, va, xa⟩ := ha
  obtain ⟨k, l, g, vb, yb⟩ := hb
  have sum := sumFin_val r.mode [(n, m, e), (k, l, g)]
  rw [List.map_cons, List.map_singleton, List.sum_pair, xa, yb, ← Int.cast_add] at sum
  have whole := sumFin_whole r.mode [(n, m, e), (k, l, g)]
  have packed : fp32.add r a b =
      fp32.round r (sumFin r.mode [(n, m, e), (k, l, g)]).1 (sumFin r.mode [(n, m, e), (k, l, g)]).2 := by
    rw [Fmt.add, va, vb]
    exact congrArg (fp32.packSum r) (sumVals_fin r.mode [(n, m, e), (k, l, g)])
  rw [packed, whole]
  exact round_holdsInt r sum small

theorem mul_holdsInt (r : Rnd) {a b : Nat} {x y : Int} (ha : HoldsInt a x) (hb : HoldsInt b y) (small : (x * y).natAbs < 2 ^ 24) :
    HoldsInt (fp32.mul r a b).1 (x * y) ∧ (fp32.mul r a b).2 = 0 := by
  obtain ⟨n, m, e, va, xa⟩ := ha
  obtain ⟨k, l, g, vb, yb⟩ := hb
  have product := exactVal_mul n k m l e g
  rw [xa, yb, ← Int.cast_mul] at product
  have packed : fp32.mul r a b = fp32.round r (n != k) { mag := m * l, exp := e + g } := by
    rw [Fmt.mul, va, vb]
    exact Prod.ext rfl (BitVec.or_zero)
  rw [packed]
  exact round_holdsInt r product small

/-- Settles O7: a NaN operand makes the exact result a NaN, and an exact integer below 2^24 is among FP32's own values. -/
theorem nanAndExactIntegers : Obligations.NanAndExactIntegers := by
  unfold Obligations.NanAndExactIntegers
  refine ⟨fun f m a b c => ⟨binary_of_nan f m c, fma_of_nan f m a b, unary_of_nan f m⟩, fun m neg n _ small => ?_,
    fun m a b x y ha hb => ⟨fun small => ?_, fun small => ?_⟩⟩
  · obtain ⟨flags, k, e, value, same⟩ := fp32_round_nat m neg (k := n) (e := 0) (by simp) small
    exact ⟨flags, neg, k, e, value, rfl, (mag_eq_nat_iff k e n).mp same⟩
  · obtain ⟨holds, flags⟩ := add_holdsInt m ((holdsInt_iff a x).mpr ha) ((holdsInt_iff b y).mpr hb) small
    exact ⟨(holdsInt_iff ..).mp holds, flags⟩
  · obtain ⟨holds, flags⟩ := mul_holdsInt m ((holdsInt_iff a x).mpr ha) ((holdsInt_iff b y).mpr hb) small
    exact ⟨(holdsInt_iff ..).mp holds, flags⟩

end Sys2Proof
end

section
/-!
The exact sum of `cmbfaddx` (R78 to R82): its 320 bits hold the sum of the finite addends, and its state word gathers the
same marks and the same count in every order of arrival.
-/
namespace Sys2Proof
open Machine

/-! ### The addends (R80) -/

/-- The encoding that a token's value holds for a `cmbfaddx`. -/
abbrev addendCode (v : RecView) (x : Word) : Nat := lane (tyW v.tyN) x 0

/-- An addend in units of 2^-160: 0 where it is not finite. -/
def addendOf (v : RecView) (x : Word) : Int :=
  match (fmtOfTy v.tyN).value (addendCode v x) with
  | .fin n m e => (if n then -1 else 1 : Int) * (m * 2 ^ (e + 160).toNat : Nat)
  | _ => 0

/-- What a NaN or an infinity leaves in the state word. -/
def addendMark (v : RecView) (x : Word) : Word :=
  match (fmtOfTy v.tyN).value (addendCode v x) with
  | .nan sig => if sig then 1#64 <<< 63 ||| 1#64 <<< 62 else 1#64 <<< 63
  | .inf n => 1#64 <<< (if n then 60 else 61)
  | .fin .. => 0#64

/-- The finite values of a format with infinities lie below 2^(2^eb - 1 - bias). -/
theorem value_fin_bound {f : Fmt} (ieee : f.sp = .ieee) (wide : 2 ≤ f.eb) {x m : Nat} {n : Bool} {e : Int}
    (h : f.value x = .fin n m e) : m < 2 ^ (f.mb + 1) ∧ e ≤ (2 ^ f.eb - 2 : Nat) - f.bias - f.mb := by
  have field : fld x f.mb f.eb < 2 ^ f.eb := fld_lt ..
  have mantissa : fld x 0 f.mb < 2 ^ f.mb := fld_lt ..
  have room : 2 ^ 2 ≤ 2 ^ f.eb := Nat.pow_le_pow_right two_pos wide
  have double : 2 ^ (f.mb + 1) = 2 ^ f.mb * 2 := Nat.pow_succ ..
  simp only [Fmt.value, ieee] at h
  split at h
  · split at h <;> cases h
  · split at h <;> cases h <;> constructor <;> omega

theorem scaled_lt {m a : Nat} {e : Int} {b : Nat} (hm : m < 2 ^ a) (he : (e + 160).toNat ≤ b) :
    m * 2 ^ (e + 160).toNat < 2 ^ (a + b) := by
  rw [Nat.pow_add]
  exact Nat.mul_lt_mul_of_lt_of_le hm (Nat.pow_le_pow_right two_pos he) (Nat.two_pow_pos _)

/-- An addend of FP32, BF16 or FP16 fits in 288 bits and a sign. -/
theorem natAbs_addendOf_lt {v : RecView} (ty : v.tyN = 9 ∨ v.tyN = 10 ∨ v.tyN = 13) (x : Word) :
    (addendOf v x).natAbs < 2 ^ 288 := by
  have magnitude {n : Bool} {m : Nat} {e : Int} (h : (fmtOfTy v.tyN).value (addendCode v x) = .fin n m e) :
      m * 2 ^ (e + 160).toNat < 2 ^ 288 := by
    rcases ty with ty | ty | ty <;> rw [ty] at h <;> obtain ⟨hm, he⟩ := value_fin_bound rfl (by decide) h
    · exact scaled_lt (a := 8) (b := 280) hm (by change e ≤ 254 - 127 - 7 at he; omega)
    · exact (scaled_lt (a := 11) (b := 165) hm (by change e ≤ 30 - 15 - 10 at he; omega)).trans
        (Nat.pow_lt_pow_right one_lt_two (by decide))
    · exact scaled_lt (a := 24) (b := 264) hm (by change e ≤ 254 - 127 - 23 at he; omega)
  unfold addendOf
  split
  next n m e h =>
    rw [Int.natAbs_mul, Int.natAbs_natCast]
    have sign : (if n then -1 else 1 : Int).natAbs = 1 := by cases n <;> rfl
    rw [sign, Nat.one_mul]
    exact magnitude h
  next => exact Nat.two_pow_pos _

theorem natAbs_sum_le {l : List Int} {b : Nat} (h : ∀ x ∈ l, x.natAbs ≤ b) : l.sum.natAbs ≤ l.length * b := by
  induction l with
  | nil => simp
  | cons x l ih =>
    rw [List.sum_cons, List.length_cons, Nat.succ_mul]
    have := h x List.mem_cons_self
    have := ih fun y hy => h y (List.mem_cons_of_mem _ hy)
    have := Int.natAbs_add_le x l.sum
    omega

/-- The exact sum of the finite addends, in units of 2^-160. -/
def exactSum (v : RecView) (l : List Word) : Int := (l.map (addendOf v)).sum

/-- R82: 2^31 addends stay within the 320 bits. -/
theorem exactSum_bounds {v : RecView} (ty : v.tyN = 9 ∨ v.tyN = 10 ∨ v.tyN = 13) {l : List Word} (few : l.length ≤ 2 ^ 31) :
    -2 ^ 319 ≤ exactSum v l ∧ exactSum v l < 2 ^ 319 := by
  have each : ∀ y ∈ l.map (addendOf v), y.natAbs ≤ 2 ^ 288 - 1 := by
    intro y hy
    obtain ⟨x, _, rfl⟩ := List.mem_map.mp hy
    exact Nat.le_sub_one_of_lt (natAbs_addendOf_lt ty x)
  have total : (exactSum v l).natAbs ≤ 2 ^ 31 * (2 ^ 288 - 1) := by
    refine (natAbs_sum_le each).trans (Nat.mul_le_mul_right _ ?_)
    rwa [List.length_map]
  omega

/-! ### The state word (R78, R80) -/

/-- The count of the state word after one more addend. -/
def nextCount (st : Word) : Nat := min (st.toNat % 2 ^ 32 + 1) (2 ^ 32 - 1)

theorem testBit_nextCount (st : Word) {i : Nat} (h : 32 ≤ i) : (nextCount st).testBit i = false := by
  have small : nextCount st < 2 ^ 32 := by
    unfold nextCount
    omega
  exact Nat.testBit_lt_two_pow (small.trans_le (Nat.pow_le_pow_right two_pos h))

/-- The state word after an addend that does not overflow W. -/
def stateTake (v : RecView) (st : Word) (x : Word) : Word :=
  ((if addendCode v x == (fmtOfTy v.tyN).signed true 0 then st else st &&& ~~~(1#64 <<< 58)) &&& 0xFFFFFFFF00000000#64) |||
    addendMark v x ||| BitVec.ofNat 64 (nextCount st)

theorem wInt_emod {a : Int} (low : -2 ^ 319 ≤ a) (high : a < 2 ^ 319) : wInt (a % 2 ^ 320).toNat = a := by
  unfold wInt
  split <;> omega

/-- R80: W and the state word after an addend that does not overflow W. -/
theorem faddxTake_eq (v : RecView) {a : Int} (st x : Word) (low : -2 ^ 319 ≤ a) (high : a < 2 ^ 319)
    (low' : -2 ^ 319 ≤ a + addendOf v x) (high' : a + addendOf v x < 2 ^ 319) :
    faddxTake v (a % 2 ^ 320).toNat st x = (((a + addendOf v x) % 2 ^ 320).toNat, stateTake v st x) := by
  have same := wInt_emod low high
  unfold addendOf at low' high' ⊢
  unfold faddxTake stateTake addendMark nextCount
  cases value : (fmtOfTy v.tyN).value (addendCode v x) with
  | nan sig =>
    simp only [value, Int.add_zero]
    cases sig <;> simp only [Bool.false_eq_true, if_true, if_false, BitVec.or_assoc]
  | inf n => simp only [value, Int.add_zero]
  | fin n m e =>
    simp only [value] at low' high' ⊢
    have signed : (if n then -((m * 2 ^ (e + 160).toNat : Nat) : Int) else (m * 2 ^ (e + 160).toNat : Nat)) =
        (if n then -1 else 1 : Int) * (m * 2 ^ (e + 160).toNat : Nat) := by cases n <;> simp
    have inside : ¬ (a + (if n then -1 else 1 : Int) * (m * 2 ^ (e + 160).toNat : Nat) < -2 ^ 319 ∨
        a + (if n then -1 else 1 : Int) * (m * 2 ^ (e + 160).toNat : Nat) ≥ 2 ^ 319) := by omega
    simp only [same, signed, if_neg inside, BitVec.or_zero]

theorem getLsbD_addendMark (v : RecView) (x : Word) {i : Nat} (h : i < 60) : (addendMark v x).getLsbD i = false := by
  unfold addendMark
  split
  · split <;> interval_cases i <;> rfl
  · split <;> interval_cases i <;> rfl
  · simp

/-- Each bit of the state word after an addend: the count in its low half, the marks above it. -/
theorem getLsbD_stateTake (v : RecView) (st x : Word) {i : Nat} (h : i < 64) : (stateTake v st x).getLsbD i =
    if i < 32 then (nextCount st).testBit i
    else st.getLsbD i && (i != 58 || addendCode v x == (fmtOfTy v.tyN).signed true 0) || (addendMark v x).getLsbD i := by
  have mask : (0xFFFFFFFF00000000#64).getLsbD i = !decide (i < 32) := by interval_cases i <;> rfl
  have nzall : (~~~(1#64 <<< 58)).getLsbD i = (i != 58) := by interval_cases i <;> rfl
  have count : (BitVec.ofNat 64 (nextCount st)).getLsbD i = (nextCount st).testBit i := by
    rw [BitVec.getLsbD_ofNat, decide_eq_true h, Bool.true_and]
  rw [stateTake, BitVec.getLsbD_or, BitVec.getLsbD_or, BitVec.getLsbD_and, mask, count]
  by_cases low : i < 32
  · simp [low, getLsbD_addendMark v x (show i < 60 by omega)]
  · rw [testBit_nextCount st (not_lt.mp low), if_neg low, decide_eq_false low, Bool.not_false, Bool.and_true, Bool.or_false]
    cases addendCode v x == (fmtOfTy v.tyN).signed true 0
    · rw [if_neg Bool.false_ne_true, BitVec.getLsbD_and, nzall, Bool.or_false]
    · rw [if_pos rfl, Bool.or_true, Bool.and_true]

/-- The count of the state word. -/
theorem count_stateTake (v : RecView) (st x : Word) : (stateTake v st x).toNat % 2 ^ 32 = nextCount st := by
  refine Nat.eq_of_testBit_eq fun i => ?_
  rw [Nat.testBit_mod_two_pow]
  by_cases low : i < 32
  · have bit := getLsbD_stateTake v st x (show i < 64 by omega)
    rw [if_pos low] at bit
    rw [decide_eq_true low, Bool.true_and]
    exact bit
  · rw [decide_eq_false low, Bool.false_and, testBit_nextCount st (not_lt.mp low)]

/-- R82: two addends leave the same state word in either order. -/
theorem stateTake_comm (v : RecView) (st x y : Word) :
    stateTake v (stateTake v st x) y = stateTake v (stateTake v st y) x := by
  refine BitVec.eq_of_getLsbD_eq fun i h => ?_
  rw [getLsbD_stateTake v (stateTake v st x) y h, getLsbD_stateTake v (stateTake v st y) x h]
  by_cases low : i < 32
  · rw [if_pos low, if_pos low, nextCount, nextCount, count_stateTake, count_stateTake]
  · rw [if_neg low, if_neg low, getLsbD_stateTake v st x h, getLsbD_stateTake v st y h, if_neg low, if_neg low]
    by_cases nzall : i = 58
    · subst nzall
      rw [getLsbD_addendMark v x (by decide), getLsbD_addendMark v y (by decide)]
      simp only [Bool.or_false]
      exact Bool.and_right_comm ..
    · rw [bne_iff_ne.mpr nzall]
      simp only [Bool.true_or, Bool.and_true]
      exact Bool.or_right_comm ..

/-- The state word that a list of addends leaves. -/
def stateOf (v : RecView) (l : List Word) : Word := l.foldl (stateTake v) (1#64 <<< 58)

theorem stateOf_perm (v : RecView) {l m : List Word} (h : l.Perm m) : stateOf v m = stateOf v l :=
  (h.foldl_eq' (fun x _ y _ st => stateTake_comm v st x y) _).symm

/-- A mark above NZALL comes from an addend. -/
theorem getLsbD_stateOf {v : RecView} {l : List Word} {i : Nat} (low : 58 < i) (high : i < 64)
    (clear : ∀ x ∈ l, (addendMark v x).getLsbD i = false) : (stateOf v l).getLsbD i = false := by
  have start : (1#64 <<< 58).getLsbD i = false := by interval_cases i <;> rfl
  unfold stateOf
  generalize (1#64 <<< 58 : Word) = st at start
  induction l generalizing st with
  | nil => exact start
  | cons x l ih =>
    refine ih (fun y hy => clear y (List.mem_cons_of_mem _ hy)) _ ?_
    rw [getLsbD_stateTake v st x high, if_neg (by omega), start, clear x List.mem_cons_self]
    rfl

/-! ### The whole sum -/

/-- W and the state word that a list of addends leaves (R80). -/
def faddxSum (v : RecView) (l : List Word) : Nat × Word := l.foldl (fun p a => faddxTake v p.1 p.2 a) (0, 1#64 <<< 58)

theorem faddxSum_eq {v : RecView} (ty : v.tyN = 9 ∨ v.tyN = 10 ∨ v.tyN = 13) {l : List Word} (few : l.length ≤ 2 ^ 31) :
    faddxSum v l = ((exactSum v l % 2 ^ 320).toNat, stateOf v l) := by
  induction l using List.reverseRecOn with
  | nil => rfl
  | append_singleton l x ih =>
    have fewer : l.length ≤ 2 ^ 31 := by rw [List.length_append] at few; omega
    obtain ⟨low, high⟩ := exactSum_bounds ty fewer
    obtain ⟨low', high'⟩ := exactSum_bounds ty few
    have grows : exactSum v (l ++ [x]) = exactSum v l + addendOf v x := by simp [exactSum]
    rw [grows] at low' high' ⊢
    have step : faddxSum v (l ++ [x]) = faddxTake v (faddxSum v l).1 (faddxSum v l).2 x := List.foldl_append ..
    have state : stateOf v (l ++ [x]) = stateTake v (stateOf v l) x := List.foldl_append ..
    rw [step, ih fewer, state]
    exact faddxTake_eq v _ x low high low' high'

/-- R82: the order of arrival leaves no trace. -/
theorem faddxSum_perm {v : RecView} (ty : v.tyN = 9 ∨ v.tyN = 10 ∨ v.tyN = 13) {l m : List Word} (few : l.length ≤ 2 ^ 31)
    (h : l.Perm m) : faddxSum v m = faddxSum v l := by
  have same : exactSum v m = exactSum v l := ((h.map _).sum_eq).symm
  rw [faddxSum_eq ty few, faddxSum_eq ty (h.length_eq ▸ few), same, stateOf_perm v h]

/-- R81: where no special value has come, a sum other than 0 is rounded once. -/
theorem faddxResult_finite (v : RecView) {w : Nat} {st : Word} (clear : ∀ i, 58 < i → i < 64 → st.getLsbD i = false)
    (nonzero : w ≠ 0) : faddxResult v w st =
      let y := (fmtOfTy v.tyN).round rne (decide (wInt w < 0)) { mag := (wInt w).natAbs, exp := -160 }
      (BitVec.ofNat 64 y.1, y.2) := by
  simp only [faddxResult, clear 63 (by decide) (by decide), clear 62 (by decide) (by decide), clear 61 (by decide) (by decide),
    clear 60 (by decide) (by decide), clear 59 (by decide) (by decide), nonzero, Bool.and_false, Bool.or_false,
    Bool.false_eq_true, if_false]
  exact Prod.ext rfl BitVec.zero_or

theorem addendMark_of_fin {v : RecView} {x : Word}
    (h : ∃ n m e, (fmtOfTy v.tyN).value (lane (tyW v.tyN) x 0) = .fin n m e) : addendMark v x = 0#64 := by
  obtain ⟨n, m, e, h⟩ := h
  rw [addendMark, addendCode, h]

/-- R81: finite addends are released as their exact sum, rounded once. -/
theorem faddxResult_sum {v : RecView} (ty : v.tyN = 9 ∨ v.tyN = 10 ∨ v.tyN = 13) {l : List Word} (few : l.length ≤ 2 ^ 31)
    (finite : ∀ x ∈ l, ∃ n m e, (fmtOfTy v.tyN).value (lane (tyW v.tyN) x 0) = .fin n m e) (nonzero : exactSum v l ≠ 0) :
    faddxResult v (faddxSum v l).1 (faddxSum v l).2 =
      let y := (fmtOfTy v.tyN).round rne (decide (exactSum v l < 0)) { mag := (exactSum v l).natAbs, exp := -160 }
      (BitVec.ofNat 64 y.1, y.2) := by
  obtain ⟨low, high⟩ := exactSum_bounds ty few
  have signed := wInt_emod low high
  have clear (i : Nat) (above : 58 < i) (below : i < 64) : (stateOf v l).getLsbD i = false :=
    getLsbD_stateOf above below fun x hx => by rw [addendMark_of_fin (finite x hx)]; exact BitVec.getLsbD_zero
  have some : (exactSum v l % 2 ^ 320).toNat ≠ 0 := by
    intro zero
    rw [zero] at signed
    exact nonzero signed.symm
  rw [faddxSum_eq ty few, faddxResult_finite v clear some, signed]

/-- Settles O21, by the exact sum in W and a state word that two addends change alike in either order. -/
theorem exactSumIgnoresOrder : Obligations.ExactSumIgnoresOrder := by
  unfold Obligations.ExactSumIgnoresOrder
  intro v l
  refine ⟨fun ty few => ?_, fun ty same => ?_⟩
  · obtain ⟨low, high⟩ := exactSum_bounds ty few
    have sum := faddxSum_eq ty few
    refine ⟨?_, low, high, ?_, faddxResult_sum ty few, fun m perm => ?_⟩
    · exact (congrArg (fun p : Nat × Word => wInt p.1) sum).trans (wInt_emod low high)
    · exact (congrArg (fun p : Nat × Word => p.2.getLsbD 59) sum).trans
        (getLsbD_stateOf (by decide) (by decide) fun x _ => getLsbD_addendMark v x (by decide))
    · have order := faddxSum_perm ty few perm
      exact ⟨order, congrArg (fun p : Nat × Word => faddxResult v p.1 p.2) order⟩
  · have few : l.length ≤ 2 ^ 31 := by rw [same.length_eq]; decide
    have exact : exactSum v l = 2 ^ 160 := by
      rw [exactSum, (same.map _).sum_eq]
      simp only [List.map_cons, List.map_nil, addendOf, addendCode, ty]
      rfl
    have finite : ∀ x ∈ l, ∃ n m e, (fmtOfTy v.tyN).value (lane (tyW v.tyN) x 0) = .fin n m e := by
      intro x hx
      have : x ∈ [0x3F800000#64, 0x4B800000#64, 0xCB800000#64] := same.mem_iff.mp hx
      rw [ty]
      fin_cases this <;> exact ⟨_, _, _, rfl⟩
    have ty' : v.tyN = 9 ∨ v.tyN = 10 ∨ v.tyN = 13 := .inr (.inr ty)
    have result := faddxResult_sum ty' few finite (by rw [exact]; decide)
    rw [exact, ty] at result
    refine ⟨?_, result⟩
    exact (congrArg Prod.fst (faddxSum_eq ty' few)).trans (by rw [exact]; rfl)

end Sys2Proof
end

section
/-!
Elements of tiles in memory (R1, R63, R64, R310): a tile's row lies in memory as a run of bits, so that what a write of a row
leaves is told bit by bit.
-/
namespace Sys2Proof
open Machine

/-! ### Bits of numbers and of memory (R1) -/

theorem testBit_fld (x lo len i : Nat) : (fld x lo len).testBit i = (decide (i < len) && x.testBit (lo + i)) := by
  rw [fld, Nat.testBit_mod_two_pow, Nat.testBit_div_two_pow, Nat.add_comm]

/-- Bit `j` of memory: bit `j % 8` of byte `j / 8`. -/
def Machine.State.bitAt (s : State) (j : Nat) : Bool := (s.byte (j / 8)).getLsbD (j % 8)

theorem testBit_leBytes (l : List Byte) (i : Nat) : (leBytes l).testBit i = (l[i / 8]?.getD 0).getLsbD (i % 8) := by
  induction l generalizing i with
  | nil => simp [leBytes]
  | cons b l ih =>
    rw [leBytes, Nat.add_comm, show 256 = 2 ^ 8 from rfl, Nat.testBit_two_pow_mul_add _ b.isLt]
    by_cases low : i < 8
    · rw [if_pos low, Nat.div_eq_of_lt low, Nat.mod_eq_of_lt low]
      rfl
    · obtain ⟨k, rfl⟩ := Nat.exists_eq_add_of_le (not_lt.mp low)
      rw [if_neg low, ih, Nat.add_sub_cancel_left, show (8 + k) / 8 = k / 8 + 1 by omega, show (8 + k) % 8 = k % 8 by omega]
      rfl

theorem testBit_rd (s : State) (a n i : Nat) : (s.rd a n).testBit i = (decide (i < 8 * n) && s.bitAt (8 * a + i)) := by
  rw [State.rd, testBit_leBytes, State.bitAt, show (8 * a + i) / 8 = a + i / 8 by omega, show (8 * a + i) % 8 = i % 8 by omega]
  by_cases h : i < 8 * n
  · have : i / 8 < n := by omega
    simp [State.bytes, h, this]
  · have : n ≤ i / 8 := by omega
    simp [State.bytes, h, this]

theorem getLsbD_toBytes (n v i : Nat) (h : i < 8 * n) : ((toBytes n v)[i / 8]?.getD 0).getLsbD (i % 8) = v.testBit i := by
  rw [← testBit_leBytes, leBytes_toBytes, show 256 = 2 ^ 8 from rfl, ← pow_mul, Nat.testBit_mod_two_pow, decide_eq_true h,
    Bool.true_and]

theorem bitAt_wr (s : State) (a n v j : Nat) :
    (s.wr a n v).bitAt j = if 8 * a ≤ j ∧ j < 8 * (a + n) then v.testBit (j - 8 * a) else s.bitAt j := by
  split
  next h =>
    obtain ⟨i, rfl⟩ := Nat.exists_eq_add_of_le h.1
    have inside : i / 8 < (toBytes n v).length := by rw [toBytes_length]; omega
    have byte := s.byte_setBytes_in a (i / 8) (toBytes n v) inside
    rw [State.bitAt, State.wr, show (8 * a + i) / 8 = a + i / 8 by omega, show (8 * a + i) % 8 = i % 8 by omega, byte,
      Nat.add_sub_cancel_left, ← getLsbD_toBytes n v i (by omega), List.getElem?_eq_getElem inside]
    rfl
  next h => rw [State.bitAt, State.byte_wr_out _ _ _ _ _ (by omega), State.bitAt]

/-- A byte is its bits. -/
theorem byte_eq_of_bitAt {s t : State} {a : Nat} (h : ∀ i, i < 8 → t.bitAt (8 * a + i) = s.bitAt (8 * a + i)) :
    t.byte a = s.byte a := by
  refine BitVec.eq_of_getLsbD_eq fun i hi => ?_
  have := h i hi
  rwa [State.bitAt, State.bitAt, show (8 * a + i) / 8 = a by omega, show (8 * a + i) % 8 = i by omega] at this

/-- A number with one field of it replaced. -/
theorem testBit_replaced (old x a w i : Nat) : (old - fld old a w * 2 ^ a + x % 2 ^ w * 2 ^ a).testBit i =
    if a ≤ i ∧ i < a + w then x.testBit (i - a) else old.testBit i := by
  have low : old % 2 ^ a < 2 ^ a := Nat.mod_lt _ (Nat.two_pow_pos a)
  have field : x % 2 ^ w < 2 ^ w := Nat.mod_lt _ (Nat.two_pow_pos w)
  have parts : old = 2 ^ a * (2 ^ w * (old / 2 ^ (a + w)) + fld old a w) + old % 2 ^ a := by
    have mid := Nat.div_add_mod (old / 2 ^ a) (2 ^ w)
    rw [Nat.div_div_eq_div_mul, ← Nat.pow_add] at mid
    rw [fld, mid, Nat.div_add_mod]
  have new : old - fld old a w * 2 ^ a + x % 2 ^ w * 2 ^ a =
      2 ^ a * (2 ^ w * (old / 2 ^ (a + w)) + x % 2 ^ w) + old % 2 ^ a := by
    have : old - fld old a w * 2 ^ a = 2 ^ a * (2 ^ w * (old / 2 ^ (a + w))) + old % 2 ^ a := by
      refine Nat.sub_eq_of_eq_add ?_
      calc old = _ := parts
        _ = _ := by ring
    rw [this]
    ring
  have here : old.testBit i = (2 ^ a * (2 ^ w * (old / 2 ^ (a + w)) + fld old a w) + old % 2 ^ a).testBit i := by rw [← parts]
  rw [new, here, Nat.testBit_two_pow_mul_add _ low, Nat.testBit_two_pow_mul_add _ low,
    Nat.testBit_two_pow_mul_add _ field, Nat.testBit_two_pow_mul_add _ (fld_lt old a w)]
  by_cases below : i < a
  · simp [below, not_le.mpr below]
  · by_cases inside : i - a < w
    · have : a ≤ i ∧ i < a + w := by omega
      simp [below, inside, this, Nat.testBit_mod_two_pow]
    · have : ¬ (a ≤ i ∧ i < a + w) := by omega
      simp [below, inside, this]

/-! ### Elements (R310) -/

theorem dtW_pos (dt : Nat) : 0 < dtW dt := by
  unfold dtW
  split <;> decide

/-- The bit of memory at which element (r, c) begins. -/
def Machine.State.elemPos (s : State) (w : Win) (r c : Nat) : Nat :=
  8 * scratchPa w.q 0 + elemBit (s.desc w.q w.buf) w r c

theorem scratchPa_add (q n : Nat) : scratchPa q n = scratchPa q 0 + n := by
  rw [scratchPa, scratchPa, Nat.add_zero]

theorem elemPos_add (s : State) (w : Win) (r c n : Nat) : s.elemPos w r (c + n) = s.elemPos w r c + n * dtW w.dt := by
  simp only [State.elemPos, elemBit]
  ring

/-- The bytes of elements in a row hold their bits. -/
theorem elemSpan_bits (s : State) (w : Win) (r c n : Nat) : 8 * (s.elemSpan w r c n).1 ≤ s.elemPos w r c ∧
    s.elemPos w r c + n * dtW w.dt ≤ 8 * ((s.elemSpan w r c n).1 + (s.elemSpan w r c n).2) ∧
    s.elemPos w r c - 8 * (s.elemSpan w r c n).1 = elemBit (s.desc w.q w.buf) w r c % 8 := by
  simp only [State.elemSpan, State.elemPos, scratchPa_add w.q (_ / 8)]
  generalize elemBit (s.desc w.q w.buf) w r c = o
  generalize n * dtW w.dt = b
  omega

theorem testBit_elemAt (s : State) (w : Win) (r c i : Nat) :
    (s.elemAt w r c).testBit i = (decide (i < dtW w.dt) && s.bitAt (s.elemPos w r c + i)) := by
  obtain ⟨first, last, offset⟩ := elemSpan_bits s w r c 1
  rw [State.elemAt, testBit_fld, testBit_rd]
  by_cases h : i < dtW w.dt
  · have inside : elemBit (s.desc w.q w.buf) w r c % 8 + i < 8 * (s.elemSpan w r c 1).2 := by omega
    rw [decide_eq_true inside, Bool.true_and]
    congr 2
    omega
  · rw [decide_eq_false h, Bool.false_and, Bool.false_and]

theorem elemAt_lt (s : State) (w : Win) (r c : Nat) : s.elemAt w r c < 2 ^ dtW w.dt := fld_lt ..

/-- An element is its bits. -/
theorem elemAt_eq_of_bits {t : State} {w : Win} {r c x : Nat}
    (h : ∀ i, i < dtW w.dt → t.bitAt (t.elemPos w r c + i) = x.testBit i) : t.elemAt w r c = x % 2 ^ dtW w.dt := by
  refine Nat.eq_of_testBit_eq fun i => ?_
  rw [testBit_elemAt, Nat.testBit_mod_two_pow]
  by_cases hi : i < dtW w.dt
  · rw [h i hi]
  · rw [decide_eq_false hi, Bool.false_and, Bool.false_and]

theorem bitAt_putElem (s : State) (w : Win) (r c x j : Nat) : (s.putElem w r c x).bitAt j =
    if s.elemPos w r c ≤ j ∧ j < s.elemPos w r c + dtW w.dt then x.testBit (j - s.elemPos w r c) else s.bitAt j := by
  obtain ⟨first, last, offset⟩ := elemSpan_bits s w r c 1
  rw [Nat.one_mul] at last
  rw [State.putElem, bitAt_wr, testBit_replaced, testBit_rd, ← offset]
  generalize s.elemSpan w r c 1 = p at *
  generalize s.elemPos w r c = b at *
  by_cases written : b ≤ j ∧ j < b + dtW w.dt
  · have inside : 8 * p.1 ≤ j ∧ j < 8 * (p.1 + p.2) := by omega
    have field : b - 8 * p.1 ≤ j - 8 * p.1 ∧ j - 8 * p.1 < b - 8 * p.1 + dtW w.dt := by omega
    rw [if_pos written, if_pos inside, if_pos field]
    congr 1
    omega
  · rw [if_neg written]
    by_cases inside : 8 * p.1 ≤ j ∧ j < 8 * (p.1 + p.2)
    · have field : ¬ (b - 8 * p.1 ≤ j - 8 * p.1 ∧ j - 8 * p.1 < b - 8 * p.1 + dtW w.dt) := by omega
      have read : j - 8 * p.1 < 8 * p.2 := by omega
      rw [if_pos inside, if_neg field, decide_eq_true read, Bool.true_and, Nat.add_sub_cancel' inside.1]
    · rw [if_neg inside]

/-! ### Rows -/

/-- From `s` to `t` memory alone has changed. -/
def MemOnly (s t : State) : Prop := t = { s with mem := t.mem, high := t.high }

theorem MemOnly.refl (s : State) : MemOnly s s := rfl

theorem MemOnly.trans {s t u : State} (a : MemOnly s t) (b : MemOnly t u) : MemOnly s u := by
  rw [MemOnly, b, a]

theorem MemOnly.mts {s t : State} (h : MemOnly s t) : t.mts = s.mts := by
  rw [h]

theorem MemOnly.elems {s t : State} (h : MemOnly s t) : t.elems = s.elems := by
  rw [h]

theorem MemOnly.ecc {s t : State} (h : MemOnly s t) : t.ecc = s.ecc := by
  rw [h]

theorem MemOnly.setByte (s : State) (a : Nat) (b : Byte) : MemOnly s (s.setByte a b) := rfl

theorem MemOnly.putElem (s : State) (w : Win) (r c x : Nat) : MemOnly s (s.putElem w r c x) := s.wr_frame _ _ _

theorem MemOnly.putRow (s : State) (w : Win) (r c : Nat) (l : List Nat) : MemOnly s (s.putRow w r c l) := by
  induction l generalizing s c with
  | nil => exact .refl s
  | cons x l ih => exact (MemOnly.putElem s w r c x).trans (ih ..)

theorem MemOnly.foldl {β : Type} {l : List β} {f : State → β → State} (h : ∀ t x, MemOnly t (f t x)) (s : State) :
    MemOnly s (l.foldl f s) :=
  foldl_keeps (P := MemOnly s) (fun t x ht => ht.trans (h t x)) l (.refl s)

theorem desc_congr {s t : State} (h : t.mts = s.mts) (q b : Nat) : t.desc q b = s.desc q b := by
  rw [State.desc, State.mt, h]
  rfl

theorem elemPos_congr {s t : State} (h : t.mts = s.mts) (w : Win) (r c : Nat) : t.elemPos w r c = s.elemPos w r c := by
  rw [State.elemPos, desc_congr h, State.elemPos]

theorem elemSpan_congr {s t : State} (h : t.mts = s.mts) (w : Win) (r c n : Nat) : t.elemSpan w r c n = s.elemSpan w r c n := by
  rw [State.elemSpan, desc_congr h, State.elemSpan]

theorem scaleAddr_congr {s t : State} (h : t.mts = s.mts) (w : Win) (r c : Nat) : t.scaleAddr w r c = s.scaleAddr w r c := by
  rw [State.scaleAddr, desc_congr h, State.scaleAddr]

theorem elemAt_congr {s t : State} (h : t.mts = s.mts) (m : t.mem = s.mem) (w : Win) (r c : Nat) :
    t.elemAt w r c = s.elemAt w r c := by
  rw [State.elemAt, elemSpan_congr h, desc_congr h, State.rd_of_mem m, State.elemAt]

theorem scaleAt_congr {s t : State} (h : t.mts = s.mts) (m : t.mem = s.mem) (w : Win) (r c : Nat) :
    t.scaleAt w r c = s.scaleAt w r c := by
  rw [State.scaleAt, scaleAddr_congr h, State.byte_of_mem m, State.scaleAt]

/-- A bit outside a row that is written is as it was. -/
theorem bitAt_putRow_out {s : State} {w : Win} {r c : Nat} {l : List Nat} {j : Nat}
    (h : j < s.elemPos w r c ∨ s.elemPos w r c + l.length * dtW w.dt ≤ j) : (s.putRow w r c l).bitAt j = s.bitAt j := by
  induction l generalizing s c with
  | nil => rfl
  | cons x l ih =>
    have next : (s.putElem w r c x).elemPos w r (c + 1) = s.elemPos w r c + dtW w.dt := by
      rw [elemPos_congr (MemOnly.putElem s w r c x).mts, elemPos_add, Nat.one_mul]
    rw [List.length_cons, Nat.succ_mul] at h
    rw [State.putRow, ih (by rw [next]; omega), bitAt_putElem, if_neg (by omega)]

/-- Each element of a row that is written. -/
theorem elemAt_putRow {s : State} {w : Win} {r c : Nat} {l : List Nat} {i : Nat} (h : i < l.length) :
    (s.putRow w r c l).elemAt w r (c + i) = l[i] % 2 ^ dtW w.dt := by
  induction l generalizing s c i with
  | nil => exact absurd h (Nat.not_lt_zero _)
  | cons x l ih =>
    cases i with
    | succ i =>
      have later := ih (s := s.putElem w r c x) (c := c + 1) (Nat.lt_of_succ_lt_succ h)
      rwa [Nat.add_right_comm] at later
    | zero =>
      have next : (s.putElem w r c x).elemPos w r (c + 1) = s.elemPos w r c + dtW w.dt := by
        rw [elemPos_congr (MemOnly.putElem s w r c x).mts, elemPos_add, Nat.one_mul]
      rw [Nat.add_zero]
      refine elemAt_eq_of_bits fun j hj => ?_
      rw [elemPos_congr (MemOnly.putRow s w r c (x :: l)).mts, State.putRow, bitAt_putRow_out (by rw [next]; omega),
        bitAt_putElem, if_pos (by omega), Nat.add_sub_cancel_left]
      rfl

/-- A byte outside the span of a row that is written is as it was. -/
theorem byte_putRow_out {s : State} {w : Win} {r c : Nat} {l : List Nat} {a : Nat}
    (h : a < (s.elemSpan w r c l.length).1 ∨ (s.elemSpan w r c l.length).1 + (s.elemSpan w r c l.length).2 ≤ a) :
    (s.putRow w r c l).byte a = s.byte a := by
  obtain ⟨first, last, -⟩ := elemSpan_bits s w r c l.length
  exact byte_eq_of_bitAt fun i hi => bitAt_putRow_out (by omega)

/-! ### Scale bytes (R64, R310) -/

theorem foldl_setByte_other {β : Type} {l : List β} {f : β → Nat} {g : β → Byte} {s : State} {a : Nat}
    (h : ∀ b ∈ l, f b ≠ a) :
    (l.foldl (fun (st : State) b => st.setByte (f b) (g b)) s).byte a = s.byte a := by
  induction l generalizing s with
  | nil => rfl
  | cons b l ih =>
    rw [List.foldl_cons, ih fun c hc => h c (List.mem_cons_of_mem _ hc)]
    exact State.byte_setByte_other _ _ _ _ (h b List.mem_cons_self).symm

/-- Bytes written one after the other, each at a place of its own. -/
theorem foldl_setByte_same {β : Type} {l : List β} {f : β → Nat} {g : β → Byte} {s : State} (once : (l.map f).Nodup) {b : β}
    (hb : b ∈ l) : (l.foldl (fun (st : State) b => st.setByte (f b) (g b)) s).byte (f b) = g b := by
  induction l generalizing s with
  | nil => exact absurd hb List.not_mem_nil
  | cons c l ih =>
    obtain ⟨fresh, once⟩ := List.nodup_cons.mp once
    rcases List.mem_cons.mp hb with rfl | hb
    · rw [List.foldl_cons, foldl_setByte_other fun c hc e => fresh (List.mem_map.mpr ⟨c, hc, e⟩), State.byte_setByte_same]
    · exact ih once hb

/-- Scale bytes are bytes at the places that the descriptor gives. -/
theorem foldl_putScale_eq {β : Type} (l : List β) (w : Win) (r c x : β → Nat) {s t : State} (h : t.mts = s.mts) :
    l.foldl (fun st b => st.putScale w (r b) (c b) (x b)) t =
      l.foldl (fun (st : State) b => st.setByte (s.scaleAddr w (r b) (c b)) (BitVec.ofNat 8 (x b))) t := by
  induction l generalizing t with
  | nil => rfl
  | cons b l ih =>
    rw [List.foldl_cons, List.foldl_cons, State.putScale, scaleAddr_congr h]
    exact ih h

theorem scaleAt_lt (s : State) (w : Win) (r c : Nat) : s.scaleAt w r c < 256 := (s.byte _).isLt

end Sys2Proof
end

section
/-!
The products of `tmma` (R74, R76, R214): an integer block exactly modulo 2^32, and the exact sum that a float entry rounds once.
-/
namespace Sys2Proof
open Machine

variable {s : State}

/-! ### The block of a boundary (R214) -/

/-- The row and the column, in units of 8, of the block of boundary `k`. -/
def mmaRow (f : Firing) (k : Nat) : Nat := k % mmaBlocks f / ((f.win 1).rows / 8)
def mmaCol (f : Firing) (k : Nat) : Nat := k % mmaBlocks f % ((f.win 1).rows / 8)

/-- The accumulator word of entry (i, j) of the block. -/
def mmaCell (f : Firing) (k i j : Nat) : Nat := (8 * mmaRow f k + i) * 32 + 8 * mmaCol f k + j

/-- The accumulator word that the products of a K block come on top of. -/
def mmaStart (s : State) (f : Firing) (v : RecView) (k i j : Nat) : Nat :=
  if v.ovw = true ∧ k / mmaBlocks f = 0 then 0 else s.accAt f.elem v.accN (mmaCell f k i j)

/-- Entry (i, j) of the block after boundary `k`, with its flags. -/
def mmaEntry (s : State) (f : Firing) (v : RecView) (k i j : Nat) : Nat × Flags :=
  s.mmaWord (f.win 0) (f.win 1) (8 * mmaRow f k + i) (8 * mmaCol f k + j) (k / mmaBlocks f) (mmaStart s f v k i j)

theorem mmaBlock_eq (s : State) (f : Firing) (v : RecView) (k : Nat) : s.mmaBlock f v k =
    ((List.range 64).map fun n => (mmaCell f k (n / 8) (n % 8), (mmaEntry s f v k (n / 8) (n % 8)).1),
      orAll ((List.range 64).map fun n => (mmaEntry s f v k (n / 8) (n % 8)).2)) := by
  have start (i j : Nat) : (if v.ovw && k / mmaBlocks f == 0 then 0
      else s.accAt f.elem v.accN ((8 * mmaRow f k + i) * 32 + (8 * mmaCol f k + j))) = mmaStart s f v k i j := by
    rw [mmaStart, mmaCell, Nat.add_assoc]
    refine if_congr ?_ rfl rfl
    rw [Bool.and_eq_true, beq_iff_eq]
  have entries : s.mmaBlock f v k = (fun l : List (Nat × Nat × Flags) => (l.map fun p => (p.1, p.2.1), orAll (l.map fun p => p.2.2)))
      ((List.range 64).map fun n => ((8 * mmaRow f k + n / 8) * 32 + (8 * mmaCol f k + n % 8),
        s.mmaWord (f.win 0) (f.win 1) (8 * mmaRow f k + n / 8) (8 * mmaCol f k + n % 8) (k / mmaBlocks f)
          (if v.ovw && k / mmaBlocks f == 0 then 0
            else s.accAt f.elem v.accN ((8 * mmaRow f k + n / 8) * 32 + (8 * mmaCol f k + n % 8))))) := rfl
  simp only [entries, start, List.map_map, Function.comp_def]
  simp only [mmaCell, mmaEntry, Nat.add_assoc]

theorem mmaCell_inj {f : Firing} {k i j i' j' : Nat} (hj : j < 8) (hj' : j' < 8) (h : mmaCell f k i j = mmaCell f k i' j') :
    i = i' ∧ j = j' := by
  unfold mmaCell at h
  omega

theorem mem_mmaBlock (s : State) (f : Firing) (v : RecView) (k : Nat) {i j : Nat} (hi : i < 8) (hj : j < 8) :
    (mmaCell f k i j, (mmaEntry s f v k i j).1) ∈ (s.mmaBlock f v k).1 := by
  rw [mmaBlock_eq]
  refine List.mem_map.mpr ⟨8 * i + j, List.mem_range.mpr (by omega), ?_⟩
  rw [show (8 * i + j) / 8 = i by omega, show (8 * i + j) % 8 = j by omega]

theorem key_of_mem_mmaBlock {f : Firing} {v : RecView} {k : Nat} {p : Nat × Nat} (h : p ∈ (s.mmaBlock f v k).1) :
    ∃ i j, i < 8 ∧ j < 8 ∧ p.1 = mmaCell f k i j := by
  rw [mmaBlock_eq] at h
  obtain ⟨n, hn, rfl⟩ := List.mem_map.mp h
  have := List.mem_range.mp hn
  exact ⟨n / 8, n % 8, by omega, by omega, rfl⟩

theorem mmaBlock_nodup (s : State) (f : Firing) (v : RecView) (k : Nat) : ((s.mmaBlock f v k).1.map (·.1)).Nodup := by
  rw [mmaBlock_eq, List.map_map]
  refine List.nodup_range.map fun a b h => ?_
  obtain ⟨row, col⟩ := mmaCell_inj (Nat.mod_lt a (by decide)) (Nat.mod_lt b (by decide)) h
  omega

/-! ### Integer products (R76) -/

theorem orAll_eq_zero {l : List Flags} (h : ∀ x ∈ l, x = 0) : orAll l = 0 := by
  refine BitVec.eq_of_getLsbD_eq fun i _ => ?_
  have zero : BitVec.getLsbD (0 : Flags) i = false := BitVec.getLsbD_zero
  rw [zero, ← Bool.not_eq_true, getLsbD_orAll]
  rintro ⟨x, hx, bit⟩
  rw [h x hx, zero] at bit
  cases bit

theorem mmaWord_int {a b : Win} (int : dtFloat a.dt = false) (i j g c : Nat) : s.mmaWord a b i j g c =
    ((((c : Int) + ((List.range 32).map fun k => s.intAt a i (32 * g + k) * s.intAt b j (32 * g + k)).sum) % 2 ^ 32).toNat, 0) := by
  have sum := foldl_add_sum (fun k => s.intAt a i (32 * g + k) * s.intAt b j (32 * g + k)) (List.range 32) 0
  rw [Int.zero_add] at sum
  simp only [State.mmaWord, int, Bool.false_eq_true, if_false, sum]

theorem dtFloat_of_dtInt {dt : Nat} (h : dtInt dt = true) : dtFloat dt = false := by
  simp only [dtInt, dtFloat, Bool.and_eq_true, decide_eq_true_eq, decide_eq_false_iff_not] at h ⊢
  omega

/-- R76: an integer block is exact modulo 2^32 and sets no flag. -/
theorem mmaBlock_int {f : Firing} (v : RecView) (k : Nat) (int : dtFloat (f.win 0).dt = false) :
    (s.mmaBlock f v k).2 = 0 ∧ ∀ i j, i < 8 → j < 8 → ∃ y, (mmaCell f k i j, y) ∈ (s.mmaBlock f v k).1 ∧
      ((y : Int) - ((if v.ovw = true ∧ k / mmaBlocks f = 0 then 0 else (s.accAt f.elem v.accN (mmaCell f k i j) : Int)) +
        ((List.range 32).map fun c => s.intAt (f.win 0) (8 * mmaRow f k + i) (32 * (k / mmaBlocks f) + c) *
          s.intAt (f.win 1) (8 * mmaCol f k + j) (32 * (k / mmaBlocks f) + c)).sum)) % 2 ^ 32 = 0 := by
  constructor
  · rw [mmaBlock_eq]
    refine orAll_eq_zero fun x hx => ?_
    obtain ⟨n, -, rfl⟩ := List.mem_map.mp hx
    rw [mmaEntry, mmaWord_int int]
  · intro i j hi hj
    refine ⟨_, mem_mmaBlock s f v k hi hj, ?_⟩
    have start : (mmaStart s f v k i j : Int) = if v.ovw = true ∧ k / mmaBlocks f = 0 then 0
        else (s.accAt f.elem v.accN (mmaCell f k i j) : Int) := by
      rw [mmaStart]
      split <;> rfl
    rw [mmaEntry, mmaWord_int int, start]
    omega

/-! ### Float products (R74, R76) -/

/-- The number that a value stands for, 0 where it is not finite. -/
def numOf (y : FVal) : ℚ := match y with | .fin n m e => exactVal n m e | _ => 0

def IsFin (y : FVal) : Prop := match y with | .fin _ _ _ => True | _ => False

theorem IsFin.eq {y : FVal} (h : IsFin y) : ∃ n m e, y = .fin n m e := by
  cases y with
  | fin n m e => exact ⟨n, m, e, rfl⟩
  | nan | inf => exact absurd h id

/-- The sum of the exact products of finite values. -/
theorem sumVals_products {α : Type} (mode : Nat) (x y : α → FVal) (l : List α)
    (hx : ∀ t ∈ l, IsFin (x t)) (hy : ∀ t ∈ l, IsFin (y t)) :
    ∃ n m, sumVals mode (l.map fun t => (mulVals (x t) (y t)).1) = .ok (n, m) ∧
      exactVal n m.mag m.exp = (l.map fun t => numOf (x t) * numOf (y t)).sum := by
  obtain ⟨terms, products, values⟩ : ∃ terms : List (Bool × Nat × Int),
      (l.map fun t => (mulVals (x t) (y t)).1) = terms.map (fun t => .fin t.1 t.2.1 t.2.2) ∧
      (l.map fun t => numOf (x t) * numOf (y t)) = terms.map fun t => exactVal t.1 t.2.1 t.2.2 := by
    induction l with
    | nil => exact ⟨[], rfl, rfl⟩
    | cons t l ih =>
      obtain ⟨terms, products, values⟩ := ih (fun u hu => hx u (List.mem_cons_of_mem _ hu)) fun u hu => hy u (List.mem_cons_of_mem _ hu)
      obtain ⟨n, m, e, ex⟩ := (hx t List.mem_cons_self).eq
      obtain ⟨k, j, g, ey⟩ := (hy t List.mem_cons_self).eq
      refine ⟨(n != k, m * j, e + g) :: terms, ?_, ?_⟩
      · rw [List.map_cons, List.map_cons, products, ex, ey]
        rfl
      · rw [List.map_cons, List.map_cons, values, exactVal_mul, ex, ey]
        rfl
  exact ⟨_, _, (congrArg (sumVals mode) products).trans (sumVals_fin mode terms), by rw [values]; exact sumFin_val mode terms⟩

/-- The scale of row `n` of a window in group `g` (R64), 127 where it has none. -/
def groupScale (s : State) (w : Win) (n g : Nat) : Nat := if dtMx w.dt then s.scaleAt w n (32 * g) else 127
/-- Element `t` of the group as its format reads it. -/
def groupRaw (s : State) (w : Win) (n g t : Nat) : FVal := (dtFmt w.dt).value (s.elemAt w n (32 * g + t))

theorem groupSum_eq (s : State) (a b : Win) (i j g : Nat) : s.groupSum a b i j g =
    if groupScale s a i g = 255 ∨ groupScale s b j g = 255 then (.nan false, 0)
    else
      let prods := (List.range 32).map fun t => mulVals (groupRaw s a i g t) (groupRaw s b j g t)
      let fl := orAll (prods.map (·.2))
      match sumVals 0 (prods.map (·.1)) with
      | .error (x, k) => (x, fl ||| k)
      | .ok (neg, m) => (.fin neg m.mag (m.exp + (groupScale s a i g : Int) + groupScale s b j g - 254), fl) := rfl

theorem mmaWord_float {a b : Win} (flt : dtFloat a.dt = true) (i j g c : Nat) : (s.mmaWord a b i j g c).1 =
    (fp32.packSum rne (sumVals 0 [fp32.value c, (s.groupSum a b i j g).1])).1 := by
  rw [State.mmaWord, if_pos flt]

theorem mmaWord_scale_nan {a b : Win} (flt : dtFloat a.dt = true) {i j g : Nat} (c : Nat)
    (nan : groupScale s a i g = 255 ∨ groupScale s b j g = 255) : (s.mmaWord a b i j g c).1 = fp32.nan := by
  rw [mmaWord_float flt, groupSum_eq, if_pos nan]
  exact packSum_of_nan fp32 rne (by simp [FVal.isNan])

/-- R76: an entry of a float `tmma` is rounded once, from the exact sum under both scales. -/
theorem mmaWord_fin {a b : Win} (flt : dtFloat a.dt = true) {i j g : Nat} (c : Nat) (ha : groupScale s a i g ≠ 255)
    (hb : groupScale s b j g ≠ 255) (fine : ∀ t, t < 32 → IsFin (groupRaw s a i g t) ∧ IsFin (groupRaw s b j g t)) : ∃ n m z,
    (s.mmaWord a b i j g c).1 = (fp32.packSum rne (sumVals 0 [fp32.value c, .fin n m z])).1 ∧
    exactVal n m z = 2 ^ ((groupScale s a i g : Int) + groupScale s b j g - 254) *
      ((List.range 32).map fun t => numOf (groupRaw s a i g t) * numOf (groupRaw s b j g t)).sum := by
  obtain ⟨n, m, sum, value⟩ := sumVals_products 0 (groupRaw s a i g) (groupRaw s b j g) (List.range 32)
    (fun t ht => (fine t (List.mem_range.mp ht)).1) (fun t ht => (fine t (List.mem_range.mp ht)).2)
  have group : (s.groupSum a b i j g).1 = .fin n m.mag (m.exp + (groupScale s a i g : Int) + groupScale s b j g - 254) := by
    rw [groupSum_eq, if_neg (by simp [ha, hb])]
    simp only [List.map_map, Function.comp_def, sum]
  refine ⟨n, m.mag, _, by rw [mmaWord_float flt, group], ?_⟩
  rw [← value, exactVal, exactVal, show m.exp + (groupScale s a i g : Int) + groupScale s b j g - 254 =
    ((groupScale s a i g : Int) + groupScale s b j g - 254) + m.exp by omega, zpow_add₀ two_ne_zero]
  ring

end Sys2Proof
end

section
/-!
Boundaries of the tile pipe (R207 to R211): what passing one leaves, when one is performed, and what the memory and the
accumulators of the element hold after each kind of write.
-/
namespace Sys2Proof
open Machine

variable {s t u : State} {r : Run} {e : Nat} {x : Elem}

/-! ### What a boundary may change -/

/-- From `s` to `t` memory and the element `e` alone have changed, and the element is now `x`. -/
structure Reaches (e : Nat) (s t : State) (x : Elem) : Prop where
  frame : t = { s with elems := t.elems, mem := t.mem, high := t.high }
  others : ∀ n, n ≠ e → t.elem n = s.elem n
  elem : t.elem e = x

theorem Reaches.of_memOnly (h : MemOnly s t) (e : Nat) : Reaches e s t (s.elem e) := by
  have same (n : Nat) : t.elem n = s.elem n := by rw [State.elem, h.elems]; rfl
  refine ⟨?_, fun n _ => same n, same e⟩
  rw [h]

theorem Reaches.refl (s : State) (e : Nat) : Reaches e s s (s.elem e) := .of_memOnly (.refl s) e

theorem Reaches.modElem (h : Reaches e s t x) (f : Elem → Elem) : Reaches e s (t.modElem e f) (f x) := by
  obtain ⟨frame, others, elem⟩ := h
  refine ⟨?_, fun n hn => (t.elem_modElem_other e n f hn).trans (others n hn), ?_⟩
  · rw [frame]
    rfl
  · rw [State.elem_modElem_same, elem]

theorem Reaches.orFlags (h : Reaches e s t x) (fl : Flags) : Reaches e s (t.orFlags e fl) { x with elstat := x.elstat ||| fl } :=
  h.modElem _

theorem Reaches.mts (h : Reaches e s t x) : t.mts = s.mts := by
  rw [h.frame]

theorem Reaches.ecc (h : Reaches e s t x) : t.ecc = s.ecc := by
  rw [h.frame]

theorem Reaches.onlyElem (h : Reaches e s t x) (mem : t.mem = s.mem) (high : t.high = s.high) : OnlyElem e s t := by
  refine ⟨?_, h.others, State.byte_of_mem mem⟩
  rw [h.frame, mem, high]

/-! ### Passing a boundary (R208, R209) -/

/-- The element of a run that now stands at boundary `n`, with `a` and `b` in PG. -/
def elemPassed (n : Nat) (a b : Word) (x : Elem) : Elem :=
  { x with run := x.run.map fun y => { y with eidx := n, reqs := [], trip := {}, need := none, got := none }, pga := a, pgb := b }

theorem outStage_elemPassed (n : Nat) (a b : Word) (x : Elem) : (elemPassed n a b x).outStage = x.outStage := rfl
theorem acc_elemPassed (n : Nat) (a b : Word) (x : Elem) : (elemPassed n a b x).acc = x.acc := rfl
theorem elstat_elemPassed (n : Nat) (a b : Word) (x : Elem) : (elemPassed n a b x).elstat = x.elstat := rfl
theorem eidx_elemPassed (n : Nat) (a b : Word) {x : Elem} (h : x.run.isSome = true) :
    (elemPassed n a b x).run.map (·.eidx) = some n := by
  obtain ⟨y, hy⟩ := Option.isSome_iff_exists.mp h
  rw [elemPassed, hy]
  rfl
theorem result_elemPassed (n : Nat) (a b : Word) (x : Elem) :
    (elemPassed n a b x).run.map (·.result) = x.run.map (·.result) := Option.map_map ..

theorem releaseOrdered_none (h : (s.elem e).ordWait = []) : s.releaseOrdered e = s := by
  simp only [State.releaseOrdered, h]
  rfl

theorem Reaches.passBoundary (h : Reaches e s t x) (re : r.f.elem = e) (v : RecView) (ow : x.ordWait = []) : ∃ a b,
    Reaches e s (t.passBoundary r v) (elemPassed (r.eidx + 1) a b x) ∧ (t.passBoundary r v).mem = t.mem ∧
      (t.passBoundary r v).high = t.high := by
  subst re
  have counted := h.modElem fun x =>
    { x with run := x.run.map fun y => { y with eidx := r.eidx + 1, reqs := [], trip := {}, need := none, got := none } }
  have noted := counted.modElem fun x =>
    { x with pga := mkPga (pgOp v) (pgAcc v) (r.eidx + 1 < r.total) (if r.eidx + 1 < r.total then 1 else 4) (r.eidx + 1)
             pgb := mkPgb (kbOf r.f v (r.eidx + 1)) r.f }
  have passed : t.passBoundary r v = _ := releaseOrdered_none ((congrArg Elem.ordWait noted.elem).trans ow)
  rw [passed]
  exact ⟨_, _, noted, rfl, rfl⟩

/-! ### When a boundary is performed -/

/-- The macro-instruction of run `r` stands before a boundary at the element that the event names, its tiles on the
element's die. -/
structure AtBoundary (s : State) (r : Run) : Prop where
  run : (s.elem s.at_.a).run = some r
  elem : r.f.elem = s.at_.a
  more : r.eidx < r.total
  near : farMts r.f (s.view r.f.key) = []

/-- Nothing stands in the way of the boundary: no request under way, no stop, no stale handle, no word that fails its check. -/
structure Unhindered (s : State) (r : Run) : Prop extends AtBoundary s r where
  ordWait : (s.elem s.at_.a).ordWait = []
  ecc : s.ecc = []
  idle : r.reqs = []
  running : (s.elem s.at_.a).stop = false
  fresh : s.handlesStale r.f (handlePortsUp (s.view r.f.key)) = none

/-- The state after a boundary: it is the next one, the other elements and the output stage are as they were, and the run
stands at the boundary after it. -/
def Passed (s : State) (r : Run) (t : State) : Prop :=
  exec .macroBoundary s = .next t ∧ (∀ n, n ≠ s.at_.a → t.elem n = s.elem n) ∧
    (t.elem s.at_.a).outStage = (s.elem s.at_.a).outStage ∧ (t.elem s.at_.a).run.map (·.eidx) = some (r.eidx + 1)

theorem macroBoundary_parks (h : AtBoundary s r) (idle : r.reqs = []) (none : r.got = none) (stop : (s.elem s.at_.a).stop = true)
    (trip : r.trip = {}) : exec .macroBoundary s = .next (s.parkMacro s.at_.a r) := by
  show execMacroBoundary s = _
  simp only [execMacroBoundary, h.run, ge_iff_le, not_le.mpr h.more, if_false, idle, List.isEmpty_nil, Bool.not_true,
    Bool.false_eq_true, stop, trip, none]
  rfl

theorem macroBoundary_near (h : AtBoundary s r) (idle : r.reqs = []) (running : (s.elem s.at_.a).stop = false) :
    exec .macroBoundary s = .next (s.nearBoundary r (s.view r.f.key) none) := by
  show execMacroBoundary s = _
  simp only [execMacroBoundary, h.run, ge_iff_le, not_le.mpr h.more, if_false, idle, List.isEmpty_nil, Bool.not_true,
    Bool.false_eq_true, running, Bool.false_and, h.near, if_true]

theorem macroBoundary_stale (h : AtBoundary s r) (idle : r.reqs = []) (running : (s.elem s.at_.a).stop = false) {m : MFault}
    (stale : s.handlesStale r.f (handlePortsUp (s.view r.f.key)) = some m) :
    exec .macroBoundary s = .next (s.stopMacro r.f (s.view r.f.key) m r.eidx) := by
  rw [macroBoundary_near h idle running]
  simp only [State.nearBoundary, State.boundAct, stale]

theorem macroBoundary_answered (h : AtBoundary s r) (asked : r.reqs ≠ []) {b : List Byte} (ok : s.engPoll r.reqs = .ok b) :
    exec .macroBoundary s = .next ((s.engDrop r.reqs).nearBoundary r (s.view r.f.key) (some b)) := by
  have pending : r.reqs.isEmpty = false := List.isEmpty_eq_false_iff.mpr asked
  show execMacroBoundary s = _
  simp only [execMacroBoundary, h.run, ge_iff_le, not_le.mpr h.more, if_false, pending, Bool.not_false, if_true, ok, h.near]

/-- With no failing word noted, nothing that a boundary reads or fills in part fails its check. -/
theorem boundaryBad_none (clean : s.ecc = []) (f : Firing) (v : RecView) (k : Nat) : s.boundaryBad f v k = none := by
  have good (n : Nat) : s.ecc.look n = 0 := by rw [clean]; rfl
  have read (w : Win) (a b c : Nat) : s.elemBad w a b c = none := by
    simp only [State.elemBad, State.eccBad_clean good]
    split <;> rfl
  have filled (w : Win) (a b c : Nat) : s.writeBad w a b c = none := by
    have all : (s.elemWords w a b c false).find? (fun x => s.ecc.look x == 2) = none :=
      List.find?_eq_none.mpr fun x _ => by rw [good]; decide
    simp only [State.writeBad, all, State.eccBad_clean good]
    split <;> rfl
  have words (a b c d : Nat) : s.accBad a b c d = false := by
    rw [State.accBad, clean]
    rfl
  have reads : ((boundaryReads f v k).findSome? fun p => s.elemBad p.1 p.2.1 p.2.2.1 p.2.2.2) = none :=
    List.findSome?_eq_none_iff.mpr fun p _ => read ..
  have writes : ((boundaryWrites f v k).findSome? fun p => s.writeBad p.1 p.2.1 p.2.2.1 p.2.2.2) = none :=
    List.findSome?_eq_none_iff.mpr fun p _ => filled ..
  have sums : ((accReads f v k).any fun p => s.accBad f.elem v.accN p.1 p.2) = false :=
    List.any_eq_false.mpr fun p _ => by rw [words]; exact Bool.false_ne_true
  simp only [State.boundaryBad, reads, writes, sums, Bool.false_eq_true, if_false, Option.map_none]

theorem boundaryEcc_clean (clean : s.ecc = []) (f : Firing) (v : RecView) (k : Nat) : s.boundaryEcc f v k = s := by
  rw [State.boundaryEcc, clean]
  rfl

theorem nearBoundary_done {v : RecView} (fresh : s.handlesStale r.f (handlePortsUp v) = none) (clean : s.ecc = [])
    (noRow : s.rowNeed r.f v r.eidx = none) (clean' : (s.boundary r.f v r.eidx).ecc = []) :
    s.nearBoundary r v none = (s.boundary r.f v r.eidx).passBoundary r v := by
  simp only [State.nearBoundary, State.boundAct, fresh, boundaryBad_none clean, noRow, boundaryEcc_clean clean']

/-- A boundary that needs no row of memory is performed, and passed. -/
theorem Unhindered.performs (h : Unhindered s r) (noRow : s.rowNeed r.f (s.view r.f.key) r.eidx = none)
    (reach : Reaches s.at_.a s (s.boundary r.f (s.view r.f.key) r.eidx) x) (ow : x.ordWait = (s.elem s.at_.a).ordWait)
    (os : x.outStage = (s.elem s.at_.a).outStage) (run : x.run.isSome = true) : ∃ t a b, Passed s r t ∧
      Reaches s.at_.a s t (elemPassed (r.eidx + 1) a b x) ∧ t.mem = (s.boundary r.f (s.view r.f.key) r.eidx).mem ∧
      t.high = (s.boundary r.f (s.view r.f.key) r.eidx).high := by
  obtain ⟨a, b, passed, mem, high⟩ := reach.passBoundary h.elem (s.view r.f.key) (ow.trans h.ordWait)
  refine ⟨_, a, b, ⟨?_, passed.others, ?_, ?_⟩, passed, mem, high⟩
  · rw [macroBoundary_near h.toAtBoundary h.idle h.running, nearBoundary_done h.fresh h.ecc noRow (reach.ecc.trans h.ecc)]
  · rw [passed.elem, outStage_elemPassed, os]
  · rw [passed.elem, eidx_elemPassed _ _ _ run]

/-- A boundary that needs a row of memory asks for it. -/
theorem Unhindered.asks (h : Unhindered s r) {need : RowNeed} (row : s.rowNeed r.f (s.view r.f.key) r.eidx = some need) :
    exec .macroBoundary s = .next (s.askRow r need) := by
  rw [macroBoundary_near h.toAtBoundary h.idle h.running]
  simp only [State.nearBoundary, State.boundAct, h.fresh, boundaryBad_none h.ecc, row]

/-! ### Accumulators (R39) -/

/-- Words of an accumulator written one after the other. -/
theorem foldl_putAcc (h : Reaches e s t x) (a : Nat) (l : List (Nat × Nat)) : ∃ A U,
    Reaches e s (l.foldl (fun st p => st.putAcc e a p.1 p.2) t) { x with acc := A, accUsed := U } ∧
    (l.foldl (fun st p => st.putAcc e a p.1 p.2) t).mem = t.mem ∧ (l.foldl (fun st p => st.putAcc e a p.1 p.2) t).high = t.high ∧
    (∀ m, (∀ p ∈ l, m ≠ a * 1024 + p.1) → A.look m = x.acc.look m) ∧
    ((l.map (·.1)).Nodup → ∀ p ∈ l, A.look (a * 1024 + p.1) = BitVec.ofNat 32 p.2) := by
  induction l generalizing t x with
  | nil => exact ⟨x.acc, x.accUsed, h, rfl, rfl, fun _ _ => rfl, fun _ p hp => absurd hp List.not_mem_nil⟩
  | cons q l ih =>
    obtain ⟨A, U, reach, mem, high, out, inside⟩ := ih (h.modElem fun y =>
      { y with acc := y.acc.put (a * 1024 + q.1) (BitVec.ofNat 32 q.2)
               accUsed := if y.accUsed.contains a then y.accUsed else y.accUsed ++ [a] })
    refine ⟨A, U, reach, mem, high, fun m hm => ?_, fun once p hp => ?_⟩
    · rw [out m fun p hp => hm p (List.mem_cons_of_mem _ hp)]
      exact Tbl.look_put_other _ _ _ _ (hm q List.mem_cons_self)
    · obtain ⟨fresh, once⟩ := List.nodup_cons.mp once
      rcases List.mem_cons.mp hp with rfl | hp
      · rw [out _ fun b hb same => fresh (List.mem_map.mpr ⟨b, hb, (Nat.add_left_cancel same).symm⟩)]
        exact Tbl.look_put_same ..
      · exact inside once p hp

/-- Accumulator words and the flags of their making, with no failing word noted. -/
theorem accWrite_reaches (clean : s.ecc = []) {f : Firing} (fe : f.elem = e) (v : RecView) (l : List (Nat × Nat) × Flags) : ∃ A U,
    Reaches e s (s.accWrite f v l) { s.elem e with acc := A, accUsed := U, elstat := (s.elem e).elstat ||| l.2 } ∧
    (s.accWrite f v l).mem = s.mem ∧ (s.accWrite f v l).high = s.high ∧
    (∀ m, (∀ p ∈ l.1, m ≠ v.accN * 1024 + p.1) → A.look m = (s.elem e).acc.look m) ∧
    ((l.1.map (·.1)).Nodup → ∀ p ∈ l.1, A.look (v.accN * 1024 + p.1) = BitVec.ofNat 32 p.2) := by
  subst fe
  obtain ⟨A, U, reach, mem, high, words⟩ := foldl_putAcc (Reaches.refl s f.elem) v.accN l.1
  have eq : s.accWrite f v l = (l.1.foldl (fun st p => st.putAcc f.elem v.accN p.1 p.2) s).orFlags f.elem l.2 := by
    rw [State.accWrite, clean]
    rfl
  rw [eq]
  exact ⟨A, U, reach.orFlags l.2, mem, high, words⟩

end Sys2Proof
end

section
/-!
Boundaries that write a row of the destination (R210, R216, R221, R222): one lemma for the write, and the row that each
macro-instruction makes.
-/
namespace Sys2Proof
open Machine

variable {s t : State} {r : Run} {x : Elem} {w d : Win}

/-! ### A row and its scale bytes in memory -/

/-- The scale bytes of row `k` lie behind the bytes of the row. -/
def ScalesApart (s : State) (w : Win) (k : Nat) : Prop :=
  ∀ b, (s.elemSpan w k 0 w.cols).1 + (s.elemSpan w k 0 w.cols).2 ≤ s.scaleAddr w k (32 * b)

/-- R47: a handle whose checks pass names rows that lie before the scale plane of its buffer. -/
theorem scalesApart_of_handle {h : Word} {p k : Nat} (ok : s.handleFault h p = none) (row : k < (winOf h).rows) :
    ScalesApart s (winOf h) k := by
  have fits : (winOf h).rb + (winOf h).rows ≤ dRows (s.desc (winOf h).q (winOf h).buf) ∧
      (winOf h).cb + (winOf h).cols ≤ dStride (s.desc (winOf h).q (winOf h).buf) * 8 / dtW (winOf h).dt := by
    simp only [State.handleFault] at ok
    split at ok
    · cases ok
    split at ok
    · cases ok
    split at ok
    · cases ok
    split at ok
    · cases ok
    split at ok
    · cases ok
    next inside =>
      simp only [Bool.or_eq_true, decide_eq_true_eq, gt_iff_lt, not_or, not_lt] at inside
      exact ⟨inside.1.1, inside.1.2⟩
  generalize winOf h = w at *
  obtain ⟨rows, cols⟩ := fits
  intro b
  have bits : (w.cb + w.cols) * dtW w.dt ≤ dStride (s.desc w.q w.buf) * 8 :=
    (Nat.mul_le_mul_right _ cols).trans (Nat.div_mul_le_self ..)
  have below : (w.rb + k + 1) * dStride (s.desc w.q w.buf) ≤ dRows (s.desc w.q w.buf) * dStride (s.desc w.q w.buf) :=
    Nat.mul_le_mul_right _ (by omega)
  rw [Nat.add_mul] at bits
  rw [Nat.add_mul _ 1, Nat.one_mul] at below
  simp only [State.elemSpan, State.scaleAddr, elemBit, Nat.add_zero, scratchPa_add w.q (_ / 8), scratchPa_add w.q (_ + _)]
  generalize (w.rb + k) * dStride (s.desc w.q w.buf) = x at *
  generalize dRows (s.desc w.q w.buf) * dStride (s.desc w.q w.buf) = y at *
  generalize w.cb * dtW w.dt = z at *
  generalize w.cols * dtW w.dt = n at *
  omega

/-- R47: the window of an MX handle whose checks pass is a row of whole blocks. -/
theorem cols_of_mx_handle {h : Word} {p : Nat} (ok : s.handleFault h p = none) (mx : dtMx (winOf h).dt = true) :
    (winOf h).cols % 32 = 0 := by
  simp only [State.handleFault] at ok
  split at ok
  · cases ok
  split at ok
  · cases ok
  split at ok
  · cases ok
  split at ok
  · cases ok
  split at ok
  · cases ok
  next inside =>
    simp only [mx, Bool.true_and, Bool.or_eq_true, bne_iff_ne, ne_eq, not_or, not_not] at inside
    exact inside.2.2

/-- Elements whose bytes are the same read the same. -/
theorem elemAt_of_bytes (h : t.mts = s.mts) {k c n : Nat} (hc : c < n)
    (bytes : ∀ a, a < (s.elemSpan w k 0 n).1 + (s.elemSpan w k 0 n).2 →
    t.byte a = s.byte a) : t.elemAt w k c = s.elemAt w k c := by
  obtain ⟨-, last, -⟩ := elemSpan_bits s w k 0 n
  have place := elemPos_add s w k 0 c
  have inside : (c + 1) * dtW w.dt ≤ n * dtW w.dt := Nat.mul_le_mul_right _ hc
  rw [Nat.succ_mul] at inside
  rw [Nat.zero_add] at place
  refine Nat.eq_of_testBit_eq fun i => ?_
  rw [testBit_elemAt, testBit_elemAt, elemPos_congr h]
  by_cases hi : i < dtW w.dt
  · rw [State.bitAt, bytes _ (by omega)]
    rfl
  · rw [decide_eq_false hi, Bool.false_and, Bool.false_and]

theorem scaleAddr_block (s : State) (w : Win) (k b : Nat) : s.scaleAddr w k (32 * b) = s.scaleAddr w k 0 + b := by
  simp only [State.scaleAddr, scratchPa_add w.q (_ + _)]
  omega

theorem putRowOut_eq (s : State) (d : Win) (k : Nat) (o : RowOut) : s.putRowOut d k o =
    (List.range o.scales.length).foldl (fun (st : State) b => st.setByte (s.scaleAddr d k (32 * b)) (BitVec.ofNat 8 (o.scales[b]?.getD 0)))
      (s.putRow d k 0 o.codes) :=
  foldl_putScale_eq _ d (fun _ => k) (fun b => 32 * b) (fun b => o.scales[b]?.getD 0) (MemOnly.putRow ..).mts

theorem MemOnly.putRowOut (s : State) (d : Win) (k : Nat) (o : RowOut) : MemOnly s (s.putRowOut d k o) :=
  (MemOnly.putRow ..).trans (.foldl (fun _ _ => .setByte ..) _)

/-- What a row and its scale bytes leave in memory. -/
theorem putRowOut_row {k : Nat} {o : RowOut} (len : o.codes.length = d.cols) (apart : o.scales = [] ∨ ScalesApart s d k) :
    (∀ c, c < d.cols → (s.putRowOut d k o).elemAt d k c = o.codes[c]?.getD 0 % 2 ^ dtW d.dt) ∧
    (∀ b, b < o.scales.length → (s.putRowOut d k o).scaleAt d k (32 * b) = o.scales[b]?.getD 0 % 256) ∧
    ∀ a, (a < (s.elemSpan d k 0 d.cols).1 ∨ (s.elemSpan d k 0 d.cols).1 + (s.elemSpan d k 0 d.cols).2 ≤ a) →
      (o.scales = [] ∨ ∀ b, a ≠ s.scaleAddr d k (32 * b)) → (s.putRowOut d k o).byte a = s.byte a := by
  have places := putRowOut_eq s d k o
  refine ⟨fun c hc => ?_, fun b hb => ?_, fun a out other => ?_⟩
  · have same : (s.putRowOut d k o).elemAt d k c = (s.putRow d k 0 o.codes).elemAt d k c := by
      have mts := (MemOnly.putRow s d k 0 o.codes).mts
      refine elemAt_of_bytes (((MemOnly.putRowOut s d k o).mts).trans mts.symm) hc fun a ha => ?_
      rw [elemSpan_congr mts] at ha
      rw [places]
      refine foldl_setByte_other fun b hb e => ?_
      rcases apart with none | apart
      · rw [none] at hb
        cases hb
      · exact absurd (apart b) (by omega)
    have put := elemAt_putRow (s := s) (w := d) (r := k) (c := 0) (i := c) (len.symm ▸ hc)
    rw [Nat.zero_add] at put
    rw [same, put, List.getElem?_eq_getElem (len.symm ▸ hc)]
    rfl
  · have once : ((List.range o.scales.length).map fun b => s.scaleAddr d k (32 * b)).Nodup :=
      List.nodup_range.map fun a b e => by simpa [scaleAddr_block s d k] using e
    rw [State.scaleAt, scaleAddr_congr (MemOnly.putRowOut s d k o).mts, places,
      foldl_setByte_same (f := fun b => s.scaleAddr d k (32 * b)) once (List.mem_range.mpr hb), BitVec.toNat_ofNat]
  · rw [places, foldl_setByte_other, byte_putRow_out (len.symm ▸ out)]
    intro b hb e
    rcases other with none | other
    · rw [none] at hb
      cases hb
    · exact other b e.symm

/-! ### The boundary of a row -/

/-- The destination of a run. -/
def dstWin (s : State) (r : Run) : Win := r.f.win ((macroPorts (s.view r.f.key)).2.getD 0)

/-- No byte but those of the boundary's row, and its scale bytes, has changed. -/
def KeepsRow (s : State) (r : Run) (t : State) : Prop :=
  ∀ a, (a < (s.elemSpan (dstWin s r) r.eidx 0 (dstWin s r).cols).1 ∨
      (s.elemSpan (dstWin s r) r.eidx 0 (dstWin s r).cols).1 + (s.elemSpan (dstWin s r) r.eidx 0 (dstWin s r).cols).2 ≤ a) →
    (dtMx (dstWin s r).dt = false ∨ ∀ b, a ≠ s.scaleAddr (dstWin s r) r.eidx (32 * b)) → t.byte a = s.byte a

/-- The boundary is passed: `P` holds of each element of its row, `Q` of each scale byte, `R` of the element, and no other byte
has changed. -/
def RowDone (s : State) (r : Run) (P Q : Nat → Nat → Prop) (R : Elem → Prop) : Prop :=
  ∃ t, Passed s r t ∧ t = { s with elems := t.elems, mem := t.mem, high := t.high } ∧
    (∀ c, c < (dstWin s r).cols → P c (t.elemAt (dstWin s r) r.eidx c)) ∧
    (∀ b, b < (dstWin s r).cols / 32 → Q b (t.scaleAt (dstWin s r) r.eidx (32 * b))) ∧ R (t.elem s.at_.a) ∧ KeepsRow s r t

theorem RowDone.mono {P P' Q Q' : Nat → Nat → Prop} {R R' : Elem → Prop} (h : RowDone s r P Q R)
    (hP : ∀ c u, c < (dstWin s r).cols → P c u → P' c u) (hQ : ∀ b y, b < (dstWin s r).cols / 32 → Q b y → Q' b y)
    (hR : ∀ y, R y → R' y) : RowDone s r P' Q' R' := by
  obtain ⟨t, passed, frame, row, scales, elem, keeps⟩ := h
  exact ⟨t, passed, frame, fun c hc => hP c _ hc (row c hc), fun b hb => hQ b _ hb (scales b hb), hR _ elem, keeps⟩

/-- A boundary that writes a row into memory. -/
theorem Unhindered.writesRow (h : Unhindered s r) (noRow : s.rowNeed r.f (s.view r.f.key) r.eidx = none) {o : RowOut}
    (reach : Reaches s.at_.a s (s.boundary r.f (s.view r.f.key) r.eidx) x)
    (mem : (s.boundary r.f (s.view r.f.key) r.eidx).mem = (s.putRowOut (dstWin s r) r.eidx o).mem)
    (ow : x.ordWait = (s.elem s.at_.a).ordWait) (os : x.outStage = (s.elem s.at_.a).outStage) (run : x.run = (s.elem s.at_.a).run)
    (len : o.codes.length = (dstWin s r).cols)
    (scales : o.scales = [] ∨ (dtMx (dstWin s r).dt = true ∧ ScalesApart s (dstWin s r) r.eidx ∧
      o.scales.length = (dstWin s r).cols / 32)) :
    RowDone s r (fun c u => u = o.codes[c]?.getD 0 % 2 ^ dtW (dstWin s r).dt)
      (fun b y => o.scales ≠ [] → y = o.scales[b]?.getD 0 % 256) (fun y => y.acc = x.acc ∧ y.elstat = x.elstat) := by
  obtain ⟨t, a, b, passed, reach, mem', -⟩ := h.performs noRow reach ow os (by rw [run, h.run]; rfl)
  obtain ⟨row, blocks, keeps⟩ := putRowOut_row len (scales.imp id fun h => h.2.1)
  have same := mem'.trans mem
  have mts := reach.mts.trans (MemOnly.putRowOut s (dstWin s r) r.eidx o).mts.symm
  refine ⟨t, passed, reach.frame, fun c hc => ?_, fun b hb some => ?_, ?_, fun a out other => ?_⟩
  · rw [elemAt_congr mts same, row c hc]
  · have count := (scales.resolve_left some).2.2
    rw [scaleAt_congr mts same, blocks b (by omega)]
  · rw [reach.elem]
    exact ⟨acc_elemPassed .., elstat_elemPassed ..⟩
  · rw [State.byte_of_mem same, keeps a out]
    rcases scales with none | ⟨mx, -⟩
    · exact .inl none
    · exact .inr (other.resolve_left (by rw [mx]; exact Bool.true_eq_false_eq_False))

/-- The macro-instructions whose boundary makes a row of codes from their operands. -/
def rowOps : List Nat := [0x74, 0x75, 0x76, 0x77, 0x78, 0x7A, 0x7B, 0x7C, 0x7D, 0x7E, 0x82]

theorem rowNeed_rowOps {v : RecView} (op : v.op.toNat ∈ rowOps) (f : Firing) (k : Nat) : s.rowNeed f v k = none := by
  simp only [rowOps, List.mem_cons, List.not_mem_nil, or_false] at op
  rcases op with op | op | op | op | op | op | op | op | op | op | op <;> simp only [State.rowNeed, op]

theorem boundary_rowOps {v : RecView} (op : v.op.toNat ∈ rowOps) (f : Firing) (k : Nat) : s.boundary f v k =
    (s.putRowOut (f.win ((macroPorts v).2.getD 0)) k (s.rowOut f v k)).orFlags f.elem (s.rowOut f v k).flags := by
  simp only [rowOps, List.mem_cons, List.not_mem_nil, or_false] at op
  rcases op with op | op | op | op | op | op | op | op | op | op | op <;> simp only [State.boundary, op]

/-- What a row-wise macro-instruction leaves in its element. -/
def Plain (s : State) (r : Run) (y : Elem) : Prop :=
  y.acc = (s.elem s.at_.a).acc ∧ y.elstat = (s.elem s.at_.a).elstat ||| (s.rowOut r.f (s.view r.f.key) r.eidx).flags

theorem getD_map_range {g : Nat → Nat} {n c : Nat} (h : c < n) : ((List.range n).map g)[c]?.getD 0 = g c := by
  simp [h]

/-- A row-wise macro-instruction writes its row and gathers its flags. -/
theorem Unhindered.rowOp (h : Unhindered s r) (op : (s.view r.f.key).op.toNat ∈ rowOps) {g q : Nat → Nat}
    (codes : (s.rowOut r.f (s.view r.f.key) r.eidx).codes = (List.range (dstWin s r).cols).map g)
    (scales : (s.rowOut r.f (s.view r.f.key) r.eidx).scales = [] ∨ (dtMx (dstWin s r).dt = true ∧
      ScalesApart s (dstWin s r) r.eidx ∧ (s.rowOut r.f (s.view r.f.key) r.eidx).scales = (List.range ((dstWin s r).cols / 32)).map q)) :
    RowDone s r (fun c u => u = g c % 2 ^ dtW (dstWin s r).dt)
      (fun b y => (s.rowOut r.f (s.view r.f.key) r.eidx).scales ≠ [] → y = q b % 256) (Plain s r) := by
  have eq := boundary_rowOps (s := s) op r.f r.eidx
  rw [h.elem] at eq
  have reach := (Reaches.of_memOnly (MemOnly.putRowOut s (dstWin s r) r.eidx (s.rowOut r.f (s.view r.f.key) r.eidx)) s.at_.a).orFlags
    (s.rowOut r.f (s.view r.f.key) r.eidx).flags
  have here : Reaches s.at_.a s (s.boundary r.f (s.view r.f.key) r.eidx) _ := (congrArg (Reaches s.at_.a s · _) eq).mpr reach
  have done := h.writesRow (rowNeed_rowOps op ..) (o := s.rowOut r.f (s.view r.f.key) r.eidx) here (by rw [eq]; rfl) rfl rfl rfl
    (by rw [codes, List.length_map, List.length_range])
    (scales.imp id fun h => ⟨h.1, h.2.1, by rw [h.2.2, List.length_map, List.length_range]⟩)
  refine done.mono (fun c u hc hu => ?_) (fun b y hb hy some => ?_) fun _ => id
  · rw [hu, codes, getD_map_range hc]
  · rw [hy some, (scales.resolve_left some).2.2, getD_map_range hb]

end Sys2Proof
end

section
/-!
The rows that the row-wise macro-instructions make (R71, R216, R221, R222).
-/
namespace Sys2Proof
open Machine

variable {s : State} {r : Run} {d : Win}

/-! ### Elements of the destination's type -/

/-- `u` is the sum of `x` and `y` in the type of `d`: rounded once, or the integer `n` saturated. -/
def IsSum (d : Win) (rnd : Rnd) (x y : FVal) (n : Int) (u : Nat) : Prop :=
  (dtFloat d.dt = true → u = ((dtFmt d.dt).packSum rnd (sumVals rnd.mode [x, y])).1 % 2 ^ dtW d.dt) ∧
  (dtFloat d.dt = false → Fits true (dtSigned d.dt) (dtW d.dt) n (laneInt (dtSigned d.dt) (dtW d.dt) u))

/-- `u` is the product of `x` and `y` in the type of `d`, likewise. -/
def IsProduct (d : Win) (rnd : Rnd) (x y : FVal) (n : Int) (u : Nat) : Prop :=
  (dtFloat d.dt = true → u = ((dtFmt d.dt).pack rnd (mulVals x y).1).1 % 2 ^ dtW d.dt) ∧
  (dtFloat d.dt = false → Fits true (dtSigned d.dt) (dtW d.dt) n (laneInt (dtSigned d.dt) (dtW d.dt) u))

theorem tileArith_int {d : Win} (int : dtFloat d.dt = false) (mul : Bool) (rnd : Rnd) (x y : FVal) (i j : Int) :
    tileArith d mul rnd x y i j = fitInt true (dtSigned d.dt) (dtW d.dt) (if mul then i * j else i + j) := by
  simp only [tileArith, int, Bool.false_eq_true, if_false]

theorem tileArith_isSum (d : Win) (rnd : Rnd) (x y : FVal) (i j : Int) :
    IsSum d rnd x y (i + j) ((tileArith d false rnd x y i j).1 % 2 ^ dtW d.dt) := by
  refine ⟨fun flt => ?_, fun int => ?_⟩
  · simp only [tileArith, flt, if_true, Bool.false_eq_true, if_false]
  · rw [tileArith_int int]
    exact (fitInt_fits true _ _ _ (dtW_pos _)).1

theorem tileArith_isProduct (d : Win) (rnd : Rnd) (x y : FVal) (i j : Int) :
    IsProduct d rnd x y (i * j) ((tileArith d true rnd x y i j).1 % 2 ^ dtW d.dt) := by
  refine ⟨fun flt => ?_, fun int => ?_⟩
  · simp only [tileArith, flt, if_true]
  · rw [tileArith_int int]
    exact (fitInt_fits true _ _ _ (dtW_pos _)).1

/-- An integer of the lane's range is read back from its residue. -/
theorem laneInt_emod {sg : Bool} {w : Nat} {n : Int} (hw : 0 < w) (low : (if sg then -2 ^ (w - 1) else 0 : Int) ≤ n)
    (high : n ≤ (if sg then 2 ^ (w - 1) - 1 else 2 ^ w - 1 : Int)) : laneInt sg w ((n % 2 ^ w).toNat % 2 ^ w) = n :=
  (fitInt_fits false sg w n hw).1.1 ⟨low, high⟩

theorem intAt_bounds (s : State) (w : Win) (i j : Nat) :
    (if dtSigned w.dt then -2 ^ (dtW w.dt - 1) else 0 : Int) ≤ s.intAt w i j ∧
      s.intAt w i j ≤ (if dtSigned w.dt then 2 ^ (dtW w.dt - 1) - 1 else 2 ^ dtW w.dt - 1 : Int) :=
  laneInt_bounds _ _ _ (dtW_pos _) (elemAt_lt ..)

/-! ### Rows without scale bytes -/

/-- The rounding of element `c` of the boundary's row. -/
def rowRnd (s : State) (r : Run) (c : Nat) : Rnd :=
  s.tileRnd r.f (s.view r.f.key) (r.eidx * (dstWin s r).cols + c)

/-- The row of the boundary. -/
def bndRow (s : State) (r : Run) : RowOut := s.rowOut r.f (s.view r.f.key) r.eidx

/-- A row of codes. -/
theorem Unhindered.rowOfCodes (h : Unhindered s r) (op : (s.view r.f.key).op.toNat ∈ rowOps) {g : Nat → Nat} {P : Nat → Nat → Prop}
    (codes : (bndRow s r).codes = (List.range (dstWin s r).cols).map g) (scales : (bndRow s r).scales = [])
    (each : ∀ c, P c (g c % 2 ^ dtW (dstWin s r).dt)) : RowDone s r P (fun _ _ => True) (Plain s r) :=
  (h.rowOp (q := id) op codes (.inl scales)).mono (fun c _ _ hu => hu ▸ each c) (fun _ _ _ _ => trivial) fun _ => id

/-- A row of results with their flags. -/
theorem Unhindered.rowOfResults (h : Unhindered s r) (op : (s.view r.f.key).op.toNat ∈ rowOps) {g : Nat → Nat × Flags}
    {P : Nat → Nat → Prop} (row : bndRow s r = rowOf ((List.range (dstWin s r).cols).map g))
    (each : ∀ c, P c ((g c).1 % 2 ^ dtW (dstWin s r).dt)) : RowDone s r P (fun _ _ => True) (Plain s r) :=
  h.rowOfCodes op (g := fun c => (g c).1) (by rw [row, rowOf, List.map_map]; rfl) (by rw [row]; rfl) each

/-- `tadd`, and `tbias` with a bias for each column or for each row. -/
theorem Unhindered.adds (h : Unhindered s r) {br bc : Nat → Nat}
    (op : (s.view r.f.key).op.toNat = 0x74 ∧ br = (fun _ => r.eidx) ∧ bc = id ∨
      (s.view r.f.key).op.toNat = 0x7E ∧ (s.view r.f.key).shape = 0 ∧ br = (fun _ => 0) ∧ bc = id ∨
      (s.view r.f.key).op.toNat = 0x7E ∧ (s.view r.f.key).shape ≠ 0 ∧ br = (fun _ => r.eidx) ∧ bc = fun _ => 0) :
    RowDone s r (fun c => IsSum (dstWin s r) (rowRnd s r c) (s.fltAt (r.f.win 0) r.eidx c) (s.fltAt (r.f.win 1) (br c) (bc c))
      (s.intAt (r.f.win 0) r.eidx c + s.intAt (r.f.win 1) (br c) (bc c))) (fun _ _ => True) (Plain s r) := by
  have row : bndRow s r = rowOf ((List.range (dstWin s r).cols).map fun c => tileArith (dstWin s r) false (rowRnd s r c)
      (s.fltAt (r.f.win 0) r.eidx c) (s.fltAt (r.f.win 1) (br c) (bc c)) (s.intAt (r.f.win 0) r.eidx c)
      (s.intAt (r.f.win 1) (br c) (bc c))) := by
    rcases op with ⟨op, rfl, rfl⟩ | ⟨op, shape, rfl, rfl⟩ | ⟨op, shape, rfl, rfl⟩
    · simp only [bndRow, State.rowOut, op]
      rfl
    · simp only [bndRow, State.rowOut, op, shape, if_true]
      rfl
    · simp only [bndRow, State.rowOut, op, shape, if_false]
      rfl
  refine h.rowOfResults ?_ row fun c => tileArith_isSum ..
  rcases op with ⟨op, -⟩ | ⟨op, -⟩ | ⟨op, -⟩ <;> rw [op] <;> decide

/-- `tmul`, and `tscale` by the value of port 1. -/
theorem Unhindered.muls (h : Unhindered s r) {y : Nat → FVal} {n : Nat → Int}
    (op : (s.view r.f.key).op.toNat = 0x75 ∧ y = (s.fltAt (r.f.win 1) r.eidx ·) ∧ n = (s.intAt (r.f.win 1) r.eidx ·) ∨
      (s.view r.f.key).op.toNat = 0x77 ∧ y = (fun _ => fp32.value ((r.f.val 1).toNat % 2 ^ 32)) ∧ n = fun _ => (r.f.val 1).toInt) :
    RowDone s r (fun c => IsProduct (dstWin s r) (rowRnd s r c) (s.fltAt (r.f.win 0) r.eidx c) (y c)
      (s.intAt (r.f.win 0) r.eidx c * n c)) (fun _ _ => True) (Plain s r) := by
  have row : bndRow s r = rowOf ((List.range (dstWin s r).cols).map fun c => tileArith (dstWin s r) true (rowRnd s r c)
      (s.fltAt (r.f.win 0) r.eidx c) (y c) (s.intAt (r.f.win 0) r.eidx c) (n c)) := by
    rcases op with ⟨op, rfl, rfl⟩ | ⟨op, rfl, rfl⟩ <;> simp only [bndRow, State.rowOut, op] <;> rfl
  refine h.rowOfResults ?_ row fun c => tileArith_isProduct ..
  rcases op with ⟨op, -⟩ | ⟨op, -⟩ <;> rw [op] <;> decide

/-- `tmax`. -/
theorem Unhindered.maxes (h : Unhindered s r) (op : (s.view r.f.key).op.toNat = 0x76) (a : (r.f.win 0).dt = (dstWin s r).dt)
    (b : (r.f.win 1).dt = (dstWin s r).dt) : RowDone s r (fun c u =>
      (dtFloat (dstWin s r).dt = true → u = ((dtFmt (dstWin s r).dt).minmax true (s.elemAt (r.f.win 0) r.eidx c)
        (s.elemAt (r.f.win 1) r.eidx c)).1 % 2 ^ dtW (dstWin s r).dt) ∧
      (dtFloat (dstWin s r).dt = false → laneInt (dtSigned (dstWin s r).dt) (dtW (dstWin s r).dt) u =
        max (s.intAt (r.f.win 0) r.eidx c) (s.intAt (r.f.win 1) r.eidx c))) (fun _ _ => True) (Plain s r) := by
  have row : bndRow s r = rowOf ((List.range (dstWin s r).cols).map fun c =>
      if dtFloat (dstWin s r).dt then (dtFmt (dstWin s r).dt).minmax true (s.elemAt (r.f.win 0) r.eidx c) (s.elemAt (r.f.win 1) r.eidx c)
      else ((max (s.intAt (r.f.win 0) r.eidx c) (s.intAt (r.f.win 1) r.eidx c) % (2 ^ dtW (dstWin s r).dt : Int)).toNat, 0)) := by
    simp only [bndRow, State.rowOut, op]
    rfl
  refine h.rowOfResults (by rw [op]; decide) row fun c => ⟨fun flt => by rw [if_pos flt], fun int => ?_⟩
  obtain ⟨lowA, highA⟩ := intAt_bounds s (r.f.win 0) r.eidx c
  obtain ⟨lowB, highB⟩ := intAt_bounds s (r.f.win 1) r.eidx c
  rw [a] at lowA highA
  rw [b] at lowB highB
  rw [int, if_neg Bool.false_ne_true]
  exact laneInt_emod (dtW_pos _) (lowA.trans (le_max_left ..)) (max_le highA highB)

/-- `texp`. -/
theorem Unhindered.exps (h : Unhindered s r) (op : (s.view r.f.key).op.toNat = 0x78) : RowDone s r (fun c u =>
      u = ((dtFmt (dstWin s r).dt).pack (rowRnd s r c) (fp32.value (texpFn (s.view r.f.key).shape
        (fp32.pack rne (s.fltAt (r.f.win 0) r.eidx c)).1).1)).1 % 2 ^ dtW (dstWin s r).dt) (fun _ _ => True) (Plain s r) := by
  let x := fun (c : Nat) => fp32.pack rne (s.fltAt (r.f.win 0) r.eidx c)
  let y := fun (c : Nat) => texpFn (s.view r.f.key).shape (x c).1
  let z := fun (c : Nat) => (dtFmt (dstWin s r).dt).pack (rowRnd s r c) (fp32.value (y c).1)
  have row : bndRow s r = rowOf ((List.range (dstWin s r).cols).map fun c => ((z c).1, (x c).2 ||| (y c).2 ||| (z c).2)) := by
    simp only [bndRow, State.rowOut, op]
    rfl
  exact h.rowOfResults (by rw [op]; decide) row fun c => rfl

/-- `ttrans`. -/
theorem Unhindered.transposes (h : Unhindered s r) (op : (s.view r.f.key).op.toNat = 0x7A) (a : (r.f.win 0).dt = (dstWin s r).dt) :
    RowDone s r (fun c u => u = s.elemAt (r.f.win 0) c r.eidx) (fun _ _ => True) (Plain s r) := by
  refine h.rowOfCodes (g := fun c => s.elemAt (r.f.win 0) c r.eidx) (by rw [op]; decide) ?_ ?_ fun c =>
    Nat.mod_eq_of_lt (a ▸ elemAt_lt ..)
  · simp only [bndRow, State.rowOut, op]
    rfl
  · simp only [bndRow, State.rowOut, op]

/-- A row copied: `tcopy`, and `tcvt` between equal types that are not MX. -/
theorem bndRow_copy (op : (s.view r.f.key).op.toNat = 0x7B ∧ dtMx (dstWin s r).dt = false ∨ (s.view r.f.key).op.toNat = 0x82)
    (a : (r.f.win 0).dt = (dstWin s r).dt) : bndRow s r = s.copyRow (r.f.win 0) r.eidx := by
  rcases op with ⟨op, plain⟩ | op
  · have copies : ((r.f.win 0).dt = (dstWin s r).dt && !dtMx (dstWin s r).dt) = true := by simp [a, plain]
    simp only [bndRow, State.rowOut, op]
    exact if_pos copies
  · simp only [bndRow, State.rowOut, op]

theorem Unhindered.copies (h : Unhindered s r) (plain : dtMx (dstWin s r).dt = false)
    (op : (s.view r.f.key).op.toNat = 0x7B ∨ (s.view r.f.key).op.toNat = 0x82) (a : (r.f.win 0).dt = (dstWin s r).dt)
    (cols : (r.f.win 0).cols = (dstWin s r).cols) :
    RowDone s r (fun c u => u = s.elemAt (r.f.win 0) r.eidx c) (fun _ _ => True) (Plain s r) := by
  have row := bndRow_copy (op.imp (⟨·, plain⟩) id) a
  refine h.rowOfCodes (g := fun c => s.elemAt (r.f.win 0) r.eidx c) ?_ ?_ ?_ fun c => Nat.mod_eq_of_lt (a ▸ elemAt_lt ..)
  · rcases op with op | op <;> rw [op] <;> decide
  · rw [row, ← cols]
    rfl
  · rw [row, State.copyRow, a, plain]
    rfl

/-- `tcvt` between types. -/
theorem Unhindered.converts (h : Unhindered s r) (plain : dtMx (dstWin s r).dt = false) (op : (s.view r.f.key).op.toNat = 0x7B)
    (a : (r.f.win 0).dt ≠ (dstWin s r).dt) : RowDone s r (fun c u =>
      (dtFloat (dstWin s r).dt = true → u = ((dtFmt (dstWin s r).dt).pack (rowRnd s r c) (s.valAt (r.f.win 0) r.eidx c)).1 %
        2 ^ dtW (dstWin s r).dt) ∧
      (dtFloat (dstWin s r).dt = false → dtFloat (r.f.win 0).dt = true → u = (toIntVal (rowRnd s r c) (dtSigned (dstWin s r).dt)
        (dtW (dstWin s r).dt) (s.fltAt (r.f.win 0) r.eidx c)).1 % 2 ^ dtW (dstWin s r).dt) ∧
      (dtFloat (dstWin s r).dt = false → dtFloat (r.f.win 0).dt = false → Fits true (dtSigned (dstWin s r).dt) (dtW (dstWin s r).dt)
        (s.intAt (r.f.win 0) r.eidx c) (laneInt (dtSigned (dstWin s r).dt) (dtW (dstWin s r).dt) u))) (fun _ _ => True) (Plain s r) := by
  have differ : ((r.f.win 0).dt = (dstWin s r).dt && !dtMx (dstWin s r).dt) = false := by simp [a]
  have row : bndRow s r = rowOf ((List.range (dstWin s r).cols).map fun c =>
      if dtFloat (dstWin s r).dt then (dtFmt (dstWin s r).dt).pack (rowRnd s r c) (s.valAt (r.f.win 0) r.eidx c)
      else if dtFloat (r.f.win 0).dt then toIntVal (rowRnd s r c) (dtSigned (dstWin s r).dt)
        (dtW (dstWin s r).dt) (s.fltAt (r.f.win 0) r.eidx c)
      else fitInt true (dtSigned (dstWin s r).dt) (dtW (dstWin s r).dt) (s.intAt (r.f.win 0) r.eidx c)) := by
    simp only [bndRow, State.rowOut, op]
    refine (if_neg (by rw [← dstWin, differ]; exact Bool.false_ne_true)).trans ((if_neg ?_).trans rfl)
    rw [← dstWin, plain]
    exact Bool.false_ne_true
  refine h.rowOfResults (by rw [op]; decide) row fun c => ⟨fun flt => ?_, fun int flt => ?_, fun int int' => ?_⟩
  · rw [if_pos flt]
  · rw [int, flt, if_neg Bool.false_ne_true, if_pos rfl]
  · rw [int, int', if_neg Bool.false_ne_true, if_neg Bool.false_ne_true]
    exact (fitInt_fits true _ _ _ (dtW_pos _)).1

/-- `tfill`. -/
theorem Unhindered.fills (h : Unhindered s r) (plain : dtMx (dstWin s r).dt = false) (op : (s.view r.f.key).op.toNat = 0x7C) :
    RowDone s r (fun _ u => u = (r.f.val 1).toNat % 2 ^ dtW (dstWin s r).dt) (fun _ _ => True) (Plain s r) := by
  refine h.rowOfCodes (g := fun _ => (r.f.val 1).toNat % 2 ^ dtW (dstWin s r).dt) (by rw [op]; decide) ?_ ?_ fun c => Nat.mod_mod ..
  · simp only [bndRow, State.rowOut, op]
    rfl
  · simp only [bndRow, State.rowOut, op]
    refine if_neg ?_
    rw [← dstWin, plain]
    exact Bool.false_ne_true

/-- `tcmpb`. -/
theorem Unhindered.compares (h : Unhindered s r) (op : (s.view r.f.key).op.toNat = 0x7D) : RowDone s r (fun c u =>
      u = if condHolds (s.view r.f.key).shape (ordInt (s.intAt (r.f.win 0) r.eidx c)
        (laneInt (dtSigned (r.f.win 0).dt) 8 (r.f.val 1).toNat)) then 1 else 0) (fun _ _ => True) (Plain s r) := by
  refine h.rowOfCodes (g := fun c => if condHolds (s.view r.f.key).shape (ordInt (s.intAt (r.f.win 0) r.eidx c)
    (laneInt (dtSigned (r.f.win 0).dt) 8 (r.f.val 1).toNat)) then 1 else 0) (by rw [op]; decide) ?_ ?_ fun c => Nat.mod_eq_of_lt ?_
  · simp only [bndRow, State.rowOut, op]
    rfl
  · simp only [bndRow, State.rowOut, op]
  · have : 1 < 2 ^ dtW (dstWin s r).dt := Nat.one_lt_two_pow (dtW_pos _).ne'
    split <;> omega

end Sys2Proof
end

section
/-!
Rows of MX tiles, with the scale bytes of their blocks (R64, R71, R216, R222).
-/
namespace Sys2Proof
open Machine

variable {s : State} {r : Run}

/-! ### Blocks (R71) -/

theorem mxBlock_scale_lt (dt : Nat) (rnd : Nat → Rnd) (l : List FVal) : (mxBlock dt rnd l).1 < 256 := by
  unfold mxBlock
  dsimp only
  split
  · exact Nat.lt_succ_self 255
  · split
    · exact Nat.succ_pos 255
    · omega

theorem mxBlock_codes_length (dt : Nat) (rnd : Nat → Rnd) (l : List FVal) : (mxBlock dt rnd l).2.1.length = l.length := by
  unfold mxBlock
  dsimp only
  split
  · simp
  · split <;> simp

/-- Block `b` of a row of values, and of what it is converted to. -/
def rowBlock (dt : Nat) (rnd : Nat → Rnd) (g : Nat → FVal) (b : Nat) : Nat × List Nat × Flags :=
  mxBlock dt (fun i => rnd (32 * b + i)) ((List.range 32).map fun i => g (32 * b + i))

theorem rowBlock_codes_length (dt : Nat) (rnd : Nat → Rnd) (g : Nat → FVal) (b : Nat) : (rowBlock dt rnd g b).2.1.length = 32 := by
  rw [rowBlock, mxBlock_codes_length, List.length_map, List.length_range]

theorem map_range_succ_block (g : Nat → FVal) (a n : Nat) : (List.range (32 * (n + 1))).map (fun i => g (32 * a + i)) =
    ((List.range 32).map fun i => g (32 * a + i)) ++ (List.range (32 * n)).map fun i => g (32 * (a + 1) + i) := by
  rw [show 32 * (n + 1) = 32 + 32 * n by omega, List.range_add, List.map_append, List.map_map]
  exact congrArg _ (List.map_congr_left fun i _ => congrArg g (show 32 * a + (32 + i) = 32 * (a + 1) + i by omega))

theorem range_succ_shift {β : Type} (n a : Nat) (f : Nat → β) : (List.range (n + 1)).map (fun b => f (a + b)) =
    f a :: (List.range n).map fun b => f (a + 1 + b) := by
  rw [List.range_succ_eq_map, List.map_cons, List.map_map]
  exact congrArg _ (List.map_congr_left fun b _ => congrArg f (by omega))

/-- The blocks of a row, one after the other. -/
theorem cvtBlocks_eq (n a cols dt : Nat) (rnd : Nat → Rnd) (g : Nat → FVal) :
    (cvtBlocks n a cols dt rnd ((List.range (32 * n)).map fun i => g (32 * a + i))).codes =
      ((List.range n).map fun b => (rowBlock dt rnd g (a + b)).2.1).flatten ∧
    (cvtBlocks n a cols dt rnd ((List.range (32 * n)).map fun i => g (32 * a + i))).scales =
      (List.range n).map fun b => (rowBlock dt rnd g (a + b)).1 := by
  induction n generalizing a with
  | zero => exact ⟨rfl, rfl⟩
  | succ n ih =>
    obtain ⟨codes, scales⟩ := ih (a + 1)
    have first : ((List.range 32).map fun i => g (32 * a + i)).length = 32 := by rw [List.length_map, List.length_range]
    rw [map_range_succ_block, range_succ_shift n a fun b => (rowBlock dt rnd g b).2.1,
      range_succ_shift n a fun b => (rowBlock dt rnd g b).1, List.flatten_cons, ← codes, ← scales, cvtBlocks,
      List.take_left' first, List.drop_left' first]
    exact ⟨rfl, rfl⟩

/-- The codes of whole blocks, told one by one. -/
theorem flatten_blocks (f : Nat → List Nat) (len : ∀ b, (f b).length = 32) (n : Nat) :
    ((List.range n).map f).flatten = (List.range (32 * n)).map fun c => (f (c / 32))[c % 32]?.getD 0 := by
  induction n with
  | zero => rfl
  | succ n ih =>
    rw [List.range_succ, List.map_append, List.flatten_append, ih, show 32 * (n + 1) = 32 * n + 32 by omega, List.range_add,
      List.map_append, List.map_map, List.map_singleton, List.flatten_singleton]
    refine congrArg _ (List.ext_getElem (by simp [len]) fun i hi _ => ?_)
    rw [len] at hi
    simp only [List.getElem_map, List.getElem_range, Function.comp_apply, show (32 * n + i) / 32 = n by omega,
      show (32 * n + i) % 32 = i by omega, List.getElem?_eq_getElem (len n ▸ hi), Option.getD_some]

/-! ### The rows -/

/-- What an MX destination needs of its handle (R47). -/
theorem mxHandle {s : State} {r : Run} (mx : dtMx (dstWin s r).dt = true)
    (ok : s.handleFault (r.f.val ((macroPorts (s.view r.f.key)).2.getD 0)) 0 = none) (row : r.eidx < (dstWin s r).rows) :
    ScalesApart s (dstWin s r) r.eidx ∧ (dstWin s r).cols = 32 * ((dstWin s r).cols / 32) := by
  have whole : (dstWin s r).cols % 32 = 0 := cols_of_mx_handle ok mx
  exact ⟨scalesApart_of_handle ok row, by omega⟩

/-- A row of an MX destination, its codes and its scale bytes. -/
theorem Unhindered.rowOfBlocks (h : Unhindered s r) (op : (s.view r.f.key).op.toNat ∈ rowOps) (mx : dtMx (dstWin s r).dt = true)
    (apart : ScalesApart s (dstWin s r) r.eidx) {g q : Nat → Nat}
    (codes : (bndRow s r).codes = (List.range (dstWin s r).cols).map g)
    (scales : (bndRow s r).scales = (List.range ((dstWin s r).cols / 32)).map q) (bytes : ∀ b, q b < 256) :
    RowDone s r (fun c u => u = g c % 2 ^ dtW (dstWin s r).dt) (fun b y => y = q b) (Plain s r) := by
  refine (h.rowOp op codes (.inr ⟨mx, apart, scales⟩)).mono (fun _ _ _ => id) (fun b y hb hy => ?_) fun _ => id
  have some : (bndRow s r).scales ≠ [] := by
    rw [scales, ne_eq, List.map_eq_nil_iff, List.range_eq_nil]
    omega
  rw [hy some, Nat.mod_eq_of_lt (bytes b)]

/-- `tcvt` into MX blocks (R71). -/
theorem Unhindered.convertsToMx (h : Unhindered s r) (mx : dtMx (dstWin s r).dt = true)
    (ok : s.handleFault (r.f.val ((macroPorts (s.view r.f.key)).2.getD 0)) 0 = none) (row : r.eidx < (dstWin s r).rows)
    (op : (s.view r.f.key).op.toNat = 0x7B) : RowDone s r
      (fun c u => u = ((rowBlock (dstWin s r).dt (rowRnd s r) (s.valAt (r.f.win 0) r.eidx) (c / 32)).2.1[c % 32]?.getD 0) %
        2 ^ dtW (dstWin s r).dt)
      (fun b y => y = (rowBlock (dstWin s r).dt (rowRnd s r) (s.valAt (r.f.win 0) r.eidx) b).1) (Plain s r) := by
  obtain ⟨apart, whole⟩ := mxHandle mx ok row
  have out : bndRow s r = cvtBlocks ((dstWin s r).cols / 32) 0 (dstWin s r).cols (dstWin s r).dt (rowRnd s r)
      ((List.range (dstWin s r).cols).map fun c => s.valAt (r.f.win 0) r.eidx c) := by
    simp only [bndRow, State.rowOut, op]
    refine (if_neg ?_).trans ((if_pos mx).trans rfl)
    rw [← dstWin, mx]
    simp
  have blocks := cvtBlocks_eq ((dstWin s r).cols / 32) 0 (dstWin s r).cols (dstWin s r).dt (rowRnd s r) (s.valAt (r.f.win 0) r.eidx)
  simp only [← whole, Nat.mul_zero, Nat.zero_add] at blocks
  obtain ⟨codes, scales⟩ := blocks
  refine h.rowOfBlocks (by rw [op]; decide) mx apart ?_ ?_ fun b => mxBlock_scale_lt ..
  · rw [out, codes, flatten_blocks _ fun b => rowBlock_codes_length .., ← whole]
  · rw [out, scales]

/-- `tfill` of an MX tile. -/
theorem Unhindered.fillsMx (h : Unhindered s r) (mx : dtMx (dstWin s r).dt = true)
    (ok : s.handleFault (r.f.val ((macroPorts (s.view r.f.key)).2.getD 0)) 0 = none) (row : r.eidx < (dstWin s r).rows)
    (op : (s.view r.f.key).op.toNat = 0x7C) : RowDone s r (fun _ u => u = (r.f.val 1).toNat % 2 ^ dtW (dstWin s r).dt)
      (fun _ y => y = fld (r.f.val 1).toNat 8 8) (Plain s r) := by
  have done := h.rowOfBlocks (g := fun _ => (r.f.val 1).toNat % 2 ^ dtW (dstWin s r).dt) (q := fun _ => fld (r.f.val 1).toNat 8 8)
    (by rw [op]; decide) mx (mxHandle mx ok row).1 (by simp only [bndRow, State.rowOut, op]; rfl)
    (by simp only [bndRow, State.rowOut, op]; exact if_pos mx) fun _ => fld_lt ..
  exact done.mono (fun _ _ _ hu => hu.trans (Nat.mod_mod ..)) (fun _ _ _ => id) fun _ => id

/-- `tcopy` of an MX tile. -/
theorem Unhindered.copiesMx (h : Unhindered s r) (mx : dtMx (dstWin s r).dt = true)
    (ok : s.handleFault (r.f.val ((macroPorts (s.view r.f.key)).2.getD 0)) 0 = none) (row : r.eidx < (dstWin s r).rows)
    (op : (s.view r.f.key).op.toNat = 0x82) (a : (r.f.win 0).dt = (dstWin s r).dt) (cols : (r.f.win 0).cols = (dstWin s r).cols) :
    RowDone s r (fun c u => u = s.elemAt (r.f.win 0) r.eidx c) (fun b y => y = s.scaleAt (r.f.win 0) r.eidx (32 * b)) (Plain s r) := by
  have out := bndRow_copy (.inr op) a
  have done := h.rowOfBlocks (g := fun c => s.elemAt (r.f.win 0) r.eidx c) (q := fun b => s.scaleAt (r.f.win 0) r.eidx (32 * b))
    (by rw [op]; decide) mx (mxHandle mx ok row).1 (by rw [out, ← cols]; rfl)
    (by rw [out, State.copyRow, a, mx, ← cols]; rfl) fun _ => scaleAt_lt ..
  exact done.mono (fun _ _ _ hu => hu.trans (Nat.mod_eq_of_lt (a ▸ elemAt_lt ..))) (fun _ _ _ => id) fun _ => id

end Sys2Proof
end

section
/-!
Boundaries that write an accumulator or a result (R214 to R216, R223, R245).
-/
namespace Sys2Proof
open Machine

variable {s : State} {r : Run}

/-! ### Accumulators (R214, R215) -/

/-- A boundary that writes accumulator words, each at a place of its own. -/
theorem Unhindered.writesAcc (h : Unhindered s r) (noRow : s.rowNeed r.f (s.view r.f.key) r.eidx = none)
    {l : List (Nat × Nat) × Flags} (eq : s.boundary r.f (s.view r.f.key) r.eidx = s.accWrite r.f (s.view r.f.key) l)
    (once : (l.1.map (·.1)).Nodup) : ∃ t, Passed s r t ∧ OnlyElem s.at_.a s t ∧
      (t.elem s.at_.a).elstat = (s.elem s.at_.a).elstat ||| l.2 ∧
      (∀ p ∈ l.1, (t.elem s.at_.a).acc.look ((s.view r.f.key).accN * 1024 + p.1) = BitVec.ofNat 32 p.2) ∧
      ∀ m, (∀ p ∈ l.1, m ≠ (s.view r.f.key).accN * 1024 + p.1) → (t.elem s.at_.a).acc.look m = (s.elem s.at_.a).acc.look m := by
  obtain ⟨A, U, reach, mem, high, out, inside⟩ := accWrite_reaches h.ecc h.elem (s.view r.f.key) l
  have here := (congrArg (Reaches s.at_.a s · _) eq).mpr reach
  obtain ⟨t, a, b, passed, reach, mem', high'⟩ := h.performs noRow here rfl rfl (by rw [h.run]; rfl)
  rw [eq] at mem' high'
  refine ⟨t, passed, reach.onlyElem (mem'.trans mem) (high'.trans high), ?_, fun p hp => ?_, fun m hm => ?_⟩
  · rw [reach.elem, elstat_elemPassed]
  · rw [reach.elem, acc_elemPassed]
    exact inside once p hp
  · rw [reach.elem, acc_elemPassed]
    exact out m hm

/-- `tmma` (R214). -/
theorem Unhindered.tmma (h : Unhindered s r) (op : (s.view r.f.key).op.toNat = 0x70) : ∃ t, Passed s r t ∧ OnlyElem s.at_.a s t ∧
    (t.elem s.at_.a).elstat = (s.elem s.at_.a).elstat ||| (s.mmaBlock r.f (s.view r.f.key) r.eidx).2 ∧
    (∀ i j, i < 8 → j < 8 → (t.elem s.at_.a).acc.look ((s.view r.f.key).accN * 1024 + mmaCell r.f r.eidx i j) =
      BitVec.ofNat 32 (mmaEntry s r.f (s.view r.f.key) r.eidx i j).1) ∧
    ∀ m, (∀ i j, i < 8 → j < 8 → m ≠ (s.view r.f.key).accN * 1024 + mmaCell r.f r.eidx i j) →
      (t.elem s.at_.a).acc.look m = (s.elem s.at_.a).acc.look m := by
  obtain ⟨t, passed, only, flags, inside, out⟩ := h.writesAcc (l := s.mmaBlock r.f (s.view r.f.key) r.eidx)
    (by simp only [State.rowNeed, op]) (by simp only [State.boundary, op]) (mmaBlock_nodup ..)
  refine ⟨t, passed, only, flags, fun i j hi hj => inside _ (mem_mmaBlock s _ _ _ hi hj), fun m hm => out m fun p hp => ?_⟩
  obtain ⟨i, j, hi, hj, key⟩ := key_of_mem_mmaBlock hp
  rw [key]
  exact hm i j hi hj

/-- The accumulator word of column `c` after `tacc` has taken row `k` of T in. -/
def taccWord (s : State) (f : Firing) (v : RecView) (ovw : Bool) (k c : Nat) : Nat × Flags :=
  if ovw then ((s.tileWord (f.win 0) k c).1, 0)
  else if dtFloat (f.win 0).dt then fp32.add rne (s.accAt f.elem v.accN (k * 32 + c)) (s.tileWord (f.win 0) k c).1
  else ((s.accAt f.elem v.accN (k * 32 + c) + (s.tileWord (f.win 0) k c).1) % 2 ^ 32, 0)

theorem taccIn_words (s : State) (f : Firing) (v : RecView) (ovw : Bool) (k : Nat) :
    (s.taccIn f v ovw k).1 = (List.range (f.win 0).cols).map fun c => (k * 32 + c, (taccWord s f v ovw k c).1) := by
  rw [State.taccIn, List.map_map]
  rfl

/-- `tacc` into the accumulator and the arrival of a `cmbtacc` (R215, R245). -/
theorem Unhindered.taccIn (h : Unhindered s r) {ovw : Bool} (op : (s.view r.f.key).op.toNat = 0xAB ∧ ovw = false ∨
      (s.view r.f.key).op.toNat = 0x71 ∧ (s.view r.f.key).shape = 0 ∧ ovw = (s.view r.f.key).ovw) :
    ∃ t, Passed s r t ∧ OnlyElem s.at_.a s t ∧
      (∀ c, c < (r.f.win 0).cols → (t.elem s.at_.a).acc.look ((s.view r.f.key).accN * 1024 + (r.eidx * 32 + c)) =
        BitVec.ofNat 32 (taccWord s r.f (s.view r.f.key) ovw r.eidx c).1) ∧
      ∀ m, (m < (s.view r.f.key).accN * 1024 + r.eidx * 32 ∨
        (s.view r.f.key).accN * 1024 + (r.eidx * 32 + (r.f.win 0).cols) ≤ m) →
        (t.elem s.at_.a).acc.look m = (s.elem s.at_.a).acc.look m := by
  have words := taccIn_words s r.f (s.view r.f.key) ovw r.eidx
  have noRow : s.rowNeed r.f (s.view r.f.key) r.eidx = none := by
    rcases op with ⟨op, -⟩ | ⟨op, -⟩ <;> simp only [State.rowNeed, op]
  have eq : s.boundary r.f (s.view r.f.key) r.eidx = s.accWrite r.f (s.view r.f.key) (s.taccIn r.f (s.view r.f.key) ovw r.eidx) := by
    rcases op with ⟨op, rfl⟩ | ⟨op, shape, rfl⟩
    · simp only [State.boundary, op]
    · have into : ¬ (s.view r.f.key).shape = 1 := by omega
      simp only [State.boundary, op, if_neg into]
  obtain ⟨t, passed, only, -, inside, out⟩ := h.writesAcc noRow eq (by
    rw [words, List.map_map]
    exact List.nodup_range.map fun a b e => Nat.add_left_cancel e)
  refine ⟨t, passed, only, fun c hc => ?_, fun m hm => out m fun p hp => ?_⟩
  · exact inside _ (words ▸ List.mem_map.mpr ⟨c, List.mem_range.mpr hc, rfl⟩)
  · rw [words] at hp
    obtain ⟨c, hc, rfl⟩ := List.mem_map.mp hp
    have := List.mem_range.mp hc
    simp only
    omega

/-- The code of column `c` of a row that `tacc` drains, with its flags. -/
def drainCode (s : State) (f : Firing) (v : RecView) (k c : Nat) : Nat × Flags :=
  if dtFloat (f.win 0).dt then (dtFmt (f.win 0).dt).pack rne (fp32.value (s.accAt f.elem v.accN (k * 32 + c)))
  else fitInt true (dtSigned (f.win 0).dt) (dtW (f.win 0).dt) (laneInt true 32 (s.accAt f.elem v.accN (k * 32 + c)))

theorem taccOut_codes (s : State) (f : Firing) (v : RecView) (k : Nat) :
    (s.taccOut f v k).1 = (List.range (f.win 0).cols).map fun c => (drainCode s f v k c).1 := by
  rw [State.taccOut, List.map_map]
  rfl

/-- The words of a row set to 0. -/
theorem foldl_zeroAcc {e : Nat} {s t : State} {x : Elem} (h : Reaches e s t x) (a k n : Nat) : ∃ A U,
    Reaches e s ((List.range n).foldl (fun st c => st.putAcc e a (k * 32 + c) 0) t) { x with acc := A, accUsed := U } ∧
    ((List.range n).foldl (fun st c => st.putAcc e a (k * 32 + c) 0) t).mem = t.mem ∧
    ∀ m, A.look m = if a * 1024 + k * 32 ≤ m ∧ m < a * 1024 + (k * 32 + n) then 0 else x.acc.look m := by
  obtain ⟨A, U, reach, mem, -, out, inside⟩ := foldl_putAcc h a ((List.range n).map fun c => (k * 32 + c, 0))
  rw [List.foldl_map] at reach mem
  refine ⟨A, U, reach, mem, fun m => ?_⟩
  split
  next h =>
    have once : (((List.range n).map fun c => (k * 32 + c, 0)).map (·.1)).Nodup := by
      rw [List.map_map]
      exact List.nodup_range.map fun a b e => Nat.add_left_cancel e
    have word := inside once (k * 32 + (m - (a * 1024 + k * 32)), 0)
      (List.mem_map.mpr ⟨m - (a * 1024 + k * 32), List.mem_range.mpr (by omega), rfl⟩)
    rwa [show a * 1024 + (k * 32 + (m - (a * 1024 + k * 32))) = m by omega] at word
  next h =>
    refine out m fun p hp => ?_
    obtain ⟨c, hc, rfl⟩ := List.mem_map.mp hp
    have := List.mem_range.mp hc
    simp only
    omega

/-- `tacc` out of the accumulator (R215): the row is drained into T, and set to 0 under OVW. -/
theorem Unhindered.drains (h : Unhindered s r) (op : (s.view r.f.key).op.toNat = 0x71) (shape : (s.view r.f.key).shape = 1) :
    dstWin s r = r.f.win 0 ∧ RowDone s r
      (fun c u => u = (drainCode s r.f (s.view r.f.key) r.eidx c).1 % 2 ^ dtW (dstWin s r).dt) (fun _ _ => True)
      (fun y => ∀ m, y.acc.look m = if (s.view r.f.key).ovw = true ∧ (s.view r.f.key).accN * 1024 + r.eidx * 32 ≤ m ∧
        m < (s.view r.f.key).accN * 1024 + (r.eidx * 32 + (dstWin s r).cols) then 0 else (s.elem s.at_.a).acc.look m) := by
  have dst : dstWin s r = r.f.win 0 := by
    simp only [dstWin, macroPorts, op, shape, if_true, Option.getD_some]
  refine ⟨dst, ?_⟩
  have noRow : s.rowNeed r.f (s.view r.f.key) r.eidx = none := by simp only [State.rowNeed, op]
  have codes := taccOut_codes s r.f (s.view r.f.key) r.eidx
  obtain ⟨l, fl, out⟩ : ∃ l fl, s.taccOut r.f (s.view r.f.key) r.eidx = (l, fl) := ⟨_, _, rfl⟩
  rw [out] at codes
  have len : l.length = (dstWin s r).cols := by
    rw [dst, show l = _ from codes, List.length_map, List.length_range]
  have drained := (Reaches.of_memOnly (MemOnly.putRow s (dstWin s r) r.eidx 0 l) s.at_.a).orFlags fl
  have row {x : Elem} (reach : Reaches s.at_.a s (s.boundary r.f (s.view r.f.key) r.eidx) x)
      (mem : (s.boundary r.f (s.view r.f.key) r.eidx).mem = (s.putRow (dstWin s r) r.eidx 0 l).mem)
      (ow : x.ordWait = (s.elem s.at_.a).ordWait) (os : x.outStage = (s.elem s.at_.a).outStage) (run : x.run = (s.elem s.at_.a).run) :
      RowDone s r (fun c u => u = (drainCode s r.f (s.view r.f.key) r.eidx c).1 % 2 ^ dtW (dstWin s r).dt) (fun _ _ => True)
        (fun y => y.acc = x.acc) := by
    refine (h.writesRow noRow (o := { codes := l }) reach mem ow os run len (.inl rfl)).mono (fun c u hc hu => ?_)
      (fun _ _ _ _ => trivial) fun _ hy => hy.1
    rw [hu, show l = _ from codes, getD_map_range (dst ▸ hc)]
  by_cases ovw : (s.view r.f.key).ovw = true
  · have eq : s.boundary r.f (s.view r.f.key) r.eidx = (List.range l.length).foldl
        (fun st c => st.putAcc s.at_.a (s.view r.f.key).accN (r.eidx * 32 + c) 0)
        ((s.putRow (dstWin s r) r.eidx 0 l).orFlags s.at_.a fl) := by
      simp only [State.boundary, op, shape, if_true, out, ovw, h.elem, dst]
    obtain ⟨A, U, reach, mem, words⟩ := foldl_zeroAcc drained (s.view r.f.key).accN r.eidx l.length
    have here := (congrArg (Reaches s.at_.a s · _) eq).mpr reach
    refine (row here (by rw [eq, mem]; rfl) rfl rfl rfl).mono (fun _ _ _ => id) (fun _ _ _ => id) fun y hy m => ?_
    rw [hy, words m, len]
    simp only [ovw, true_and]
  · have eq : s.boundary r.f (s.view r.f.key) r.eidx = (s.putRow (dstWin s r) r.eidx 0 l).orFlags s.at_.a fl := by
      simp only [State.boundary, op, shape, if_true, out, if_neg ovw, h.elem, dst]
    have here := (congrArg (Reaches s.at_.a s · _) eq).mpr drained
    refine (row here (by rw [eq]; rfl) rfl rfl rfl).mono (fun _ _ _ => id) (fun _ _ _ => id) fun y hy m => ?_
    rw [hy, if_neg fun h => ovw h.1]

end Sys2Proof
end

section
/-!
The scalar of a whole window (R223).
-/
namespace Sys2Proof
open Machine

variable {s : State} {r : Run}

/-- `y` is the greatest of the `n` numbers `g 0` to `g (n - 1)`. -/
def IsTop (n : Nat) (g : Nat → Int) (y : Int) : Prop := (∀ i, i < n → g i ≤ y) ∧ ∃ i, i < n ∧ g i = y

theorem foldl_max_bounds (g : Nat → Int) (l : List Nat) (a : Int) : a ≤ l.foldl (fun m i => max m (g i)) a ∧
    (∀ i ∈ l, g i ≤ l.foldl (fun m i => max m (g i)) a) ∧
    (l.foldl (fun m i => max m (g i)) a = a ∨ ∃ i ∈ l, g i = l.foldl (fun m i => max m (g i)) a) := by
  induction l generalizing a with
  | nil => exact ⟨le_rfl, fun _ h => absurd h List.not_mem_nil, .inl rfl⟩
  | cons i l ih =>
    obtain ⟨start, all, reached⟩ := ih (max a (g i))
    simp only [List.foldl_cons, List.mem_cons, forall_eq_or_imp, exists_eq_or_imp]
    refine ⟨(le_max_left ..).trans start, ⟨(le_max_right ..).trans start, all⟩, ?_⟩
    rcases reached with same | there
    · rw [same]
      rcases max_choice a (g i) with left | right
      · exact .inl left
      · exact .inr (.inl right.symm)
    · exact .inr (.inr there)

/-- The greatest of numbers, found from a start that the first of them reaches. -/
theorem foldl_max_isTop {n : Nat} (pos : 0 < n) {g : Nat → Int} {a : Int} (start : a ≤ g 0) :
    IsTop n g ((List.range n).foldl (fun m i => max m (g i)) a) := by
  obtain ⟨-, all, reached⟩ := foldl_max_bounds g (List.range n) a
  have first := all 0 (List.mem_range.mpr pos)
  refine ⟨fun i hi => all i (List.mem_range.mpr hi), ?_⟩
  rcases reached with same | ⟨i, hi, eq⟩
  · exact ⟨0, pos, le_antisymm first (same.le.trans start)⟩
  · exact ⟨i, List.mem_range.mp hi, eq⟩

theorem neg_foldl_min (g : Nat → Int) (l : List Nat) (a : Int) :
    -l.foldl (fun m i => min m (g i)) a = l.foldl (fun m i => max m (-g i)) (-a) := by
  induction l generalizing a with
  | nil => rfl
  | cons i l ih => rw [List.foldl_cons, List.foldl_cons, ih, max_neg_neg]

theorem dtW_le (dt : Nat) : dtW dt ≤ 32 := by
  unfold dtW
  split <;> decide

theorem abs_intAt_le (s : State) (w : Win) (i j : Nat) : |s.intAt w i j| ≤ 2 ^ 32 := by
  obtain ⟨low, high⟩ := intAt_bounds s w i j
  have whole : (2 : Int) ^ dtW w.dt ≤ 2 ^ 32 := pow_le_pow_right₀ (by decide) (dtW_le _)
  have half : (2 : Int) ^ (dtW w.dt - 1) ≤ 2 ^ 32 := pow_le_pow_right₀ (by decide) ((Nat.sub_le ..).trans (dtW_le _))
  rw [abs_le]
  split at low <;> split at high <;> omega

theorem IsTop.abs_le {n : Nat} {g : Nat → Int} {y b : Int} (h : IsTop n g y) (small : ∀ i, |g i| ≤ b) : |y| ≤ b := by
  obtain ⟨-, i, -, rfl⟩ := h
  exact small i

theorem toInt_ofInt_small {y : Int} (small : |y| ≤ 2 ^ 32) : (BitVec.ofInt 64 y).toInt = y := by
  obtain ⟨low, high⟩ := abs_le.mp small
  exact BitVec.toInt_ofInt_eq_self (by decide) (by omega) (by omega)

theorem count_pos (h : Word) : 0 < (winOf h).count := Nat.mul_pos (Nat.succ_pos _) (Nat.succ_pos _)

/-- Element `i` of a window in row order (R6). -/
def cellAt (s : State) (w : Win) (i : Nat) : Int := s.intAt w (i / w.cols) (i % w.cols)

theorem headD_map_range {n : Nat} (pos : 0 < n) (g : Nat → Int) : ((List.range n).map g).headD 0 = g 0 := by
  obtain ⟨m, rfl⟩ := Nat.exists_eq_succ_of_ne_zero pos.ne'
  rw [List.range_succ_eq_map]
  rfl

/-- The sum of a float window, rounded once. -/
theorem tredValue_sum {f : Firing} {v : RecView} (flt : dtFloat (f.win 0).dt = true) (shape : v.shape = 0) :
    (s.tredValue f v).1 = BitVec.ofNat 64 (fp32.packSum (s.tileRnd f v 0) (sumVals (s.tileRnd f v 0).mode
      ((List.range (f.win 0).count).map fun i => s.fltAt (f.win 0) (i / (f.win 0).cols) (i % (f.win 0).cols)))).1 := by
  simp only [State.tredValue, flt, shape, if_true, List.map_map]
  rfl

/-- What `tred` makes of an integer window. -/
theorem tredValue_int {f : Firing} {v : RecView} (int : dtFloat (f.win 0).dt = false) :
    (v.shape = 0 → (s.tredValue f v).1 = BitVec.ofInt 64 ((List.range (f.win 0).count).map (cellAt s (f.win 0))).sum) ∧
    (v.shape = 1 → IsTop (f.win 0).count (cellAt s (f.win 0)) (s.tredValue f v).1.toInt) ∧
    (v.shape = 2 → IsTop (f.win 0).count (fun i => -cellAt s (f.win 0) i) (-(s.tredValue f v).1.toInt)) ∧
    (v.shape = 3 → IsTop (f.win 0).count (fun i => |cellAt s (f.win 0) i|) (s.tredValue f v).1.toInt) := by
  have pos : 0 < (f.win 0).count := count_pos _
  have small (i : Nat) : |cellAt s (f.win 0) i| ≤ 2 ^ 32 := abs_intAt_le ..
  have cells : ((List.range (f.win 0).count).map fun i => (i / (f.win 0).cols, i % (f.win 0).cols)).map
      (fun p => s.intAt (f.win 0) p.1 p.2) = (List.range (f.win 0).count).map (cellAt s (f.win 0)) := List.map_map
  simp only [State.tredValue, int, Bool.false_eq_true, if_false, cells, List.foldl_map, headD_map_range pos]
  refine ⟨fun shape => ?_, fun shape => ?_, fun shape => ?_, fun shape => ?_⟩ <;> simp only [shape]
  · rw [foldl_add_sum (cellAt s (f.win 0)), zero_add]
  · have top := foldl_max_isTop pos (g := cellAt s (f.win 0)) le_rfl
    rwa [toInt_ofInt_small (top.abs_le small)]
  · have top := foldl_max_isTop pos (g := fun i => -cellAt s (f.win 0) i) le_rfl
    rw [← neg_foldl_min] at top
    have bound := top.abs_le fun i => (abs_neg _).trans_le (small i)
    rwa [toInt_ofInt_small (abs_neg (_ : Int) ▸ bound)]
  · have top := foldl_max_isTop pos (g := fun i => |cellAt s (f.win 0) i|) (a := 0) (abs_nonneg _)
    simp only [← Int.abs_eq_natAbs]
    rwa [toInt_ofInt_small (top.abs_le fun i => (abs_abs _).trans_le (small i))]

/-- `tred` keeps its scalar for its token, and gathers its flags. -/
theorem Unhindered.reduces (h : Unhindered s r) (op : (s.view r.f.key).op.toNat = 0x79) : ∃ t, Passed s r t ∧
    OnlyElem s.at_.a s t ∧ (t.elem s.at_.a).acc = (s.elem s.at_.a).acc ∧
    (t.elem s.at_.a).run.map (·.result) = some (s.tredValue r.f (s.view r.f.key)).1 := by
  have eq : s.boundary r.f (s.view r.f.key) r.eidx = (s.orFlags s.at_.a (s.tredValue r.f (s.view r.f.key)).2).modElem s.at_.a
      fun y => { y with run := y.run.map fun q => { q with result := (s.tredValue r.f (s.view r.f.key)).1 } } := by
    simp only [State.boundary, op, h.elem]
  have reach := ((Reaches.refl s s.at_.a).orFlags (s.tredValue r.f (s.view r.f.key)).2).modElem
    fun y => { y with run := y.run.map fun q => { q with result := (s.tredValue r.f (s.view r.f.key)).1 } }
  have here := (congrArg (Reaches s.at_.a s · _) eq).mpr reach
  have noRow : s.rowNeed r.f (s.view r.f.key) r.eidx = none := by simp only [State.rowNeed, op]
  obtain ⟨t, a, b, passed, reach, mem, high⟩ := h.performs noRow here rfl rfl (by rw [h.run]; rfl)
  rw [eq] at mem high
  refine ⟨t, passed, reach.onlyElem mem high, ?_, ?_⟩
  · rw [reach.elem, acc_elemPassed]
  · rw [reach.elem, result_elemPassed, h.run]
    rfl

end Sys2Proof
end

section
/-!
Boundaries that ask for a row of memory or store one (R217, R220).
-/
namespace Sys2Proof
open Machine

variable {s : State} {r : Run} {w : Win}

/-- The destination of a macro-instruction, which for a run is `dstWin`. -/
def dstOf (f : Firing) (v : RecView) : Win := f.win ((macroPorts v).2.getD 0)

theorem dstOf_load {f : Firing} {v : RecView} (op : v.op.toNat = 0x72) : dstOf f v = f.win 0 := by
  simp only [dstOf, macroPorts, op, Option.getD_some]

theorem dstOf_gather {f : Firing} {v : RecView} (op : v.op.toNat = 0x80) : dstOf f v = f.win 2 := by
  simp only [dstOf, macroPorts, op, Option.getD_some]

/-- `b` are the bytes of row `k` of a window, its elements packed. -/
def IsPacked (s : State) (w : Win) (k : Nat) (b : List Byte) : Prop :=
  b.length = w.cols * dtW w.dt / 8 ∧ ∀ c, c < w.cols → fld (leBytes b) (dtW w.dt * c) (dtW w.dt) = s.elemAt w k c

theorem packRow_isPacked (whole : w.cols * dtW w.dt % 8 = 0) (k : Nat) :
    IsPacked s w k (toBytes w.rowBytes (packRow (dtW w.dt) (s.rowAt w k))) := by
  refine ⟨toBytes_length .., fun c hc => ?_⟩
  have len : (s.rowAt w k).length = w.cols := by rw [State.rowAt, List.length_map, List.length_range]
  have fits : packRow (dtW w.dt) (s.rowAt w k) < 256 ^ w.rowBytes := by
    have bits : 8 * w.rowBytes = (s.rowAt w k).length * dtW w.dt := by rw [len, Win.rowBytes]; omega
    rw [show 256 = 2 ^ 8 from rfl, ← pow_mul, bits]
    exact lanesSum_lt ..
  have here := fld_lanesSum (dtW w.dt) (s.rowAt w k) c (len.symm ▸ hc)
  rw [leBytes_toBytes, Nat.mod_eq_of_lt fits]
  refine here.trans ?_
  simp only [State.rowAt, List.getElem_map, List.getElem_range]
  exact Nat.mod_eq_of_lt (elemAt_lt ..)

/-- `tld` asks for a row, and behind the last one for the scale bytes. -/
theorem Unhindered.loads (h : Unhindered s r) (op : (s.view r.f.key).op.toNat = 0x72) : exec .macroBoundary s = .next (s.askRow r
    (if r.eidx < (r.f.win 0).rows then .load ((r.f.val 1).toNat + r.eidx * (r.f.win 0).rowBytes) (r.f.win 0).rowBytes
    else .load ((r.f.val 1).toNat + (r.f.win 0).rows * (r.f.win 0).rowBytes) ((r.f.win 0).rows * ((r.f.win 0).cols / 32)))) := by
  refine h.asks ?_
  simp only [State.rowNeed, op]
  split <;> rfl

/-- `tst` stores a row. -/
theorem Unhindered.stores (h : Unhindered s r) (op : (s.view r.f.key).op.toNat = 0x73) (row : r.eidx < (r.f.win 0).rows)
    (whole : (r.f.win 0).cols * dtW (r.f.win 0).dt % 8 = 0) : ∃ b, IsPacked s (r.f.win 0) r.eidx b ∧
      exec .macroBoundary s = .next (s.askRow r (.store ((r.f.val 1).toNat + r.eidx * (r.f.win 0).rowBytes) b)) :=
  ⟨_, packRow_isPacked whole _, h.asks (by simp only [State.rowNeed, op, row, if_true])⟩

/-- `tst` stores the scale bytes behind the last row. -/
theorem Unhindered.storesScales (h : Unhindered s r) (op : (s.view r.f.key).op.toNat = 0x73) (row : (r.f.win 0).rows ≤ r.eidx) :
    ∃ b : List Byte, b.length = (r.f.win 0).rows * ((r.f.win 0).cols / 32) ∧
      (∀ i, i < (r.f.win 0).rows * ((r.f.win 0).cols / 32) → (b[i]?.getD 0).toNat =
        s.scaleAt (r.f.win 0) (i / ((r.f.win 0).cols / 32)) (32 * (i % ((r.f.win 0).cols / 32)))) ∧
      exec .macroBoundary s = .next (s.askRow r (.store ((r.f.val 1).toNat + (r.f.win 0).rows * (r.f.win 0).rowBytes) b)) := by
  refine ⟨_, ?_, fun i hi => ?_, h.asks (by simp only [State.rowNeed, op, not_lt.mpr row, if_false]; rfl)⟩
  · rw [List.length_map, List.length_range]
  · simp only [List.getElem?_map, List.getElem?_range hi, Option.map_some, Option.getD_some, BitVec.toNat_ofNat]
    exact Nat.mod_eq_of_lt (scaleAt_lt ..)

/-- `tgather` asks for the row that its index names. -/
theorem Unhindered.gathers (h : Unhindered s r) (op : (s.view r.f.key).op.toNat = 0x80)
    (index : 0 ≤ s.rowIndex (r.f.win 1) r.eidx) : exec .macroBoundary s = .next (s.askRow r (.load
      (rowVa (r.f.val 0).toNat (s.rowIndex (r.f.win 1) r.eidx) (r.f.win 2).rowBytes) (r.f.win 2).rowBytes)) :=
  h.asks (by simp only [State.rowNeed, op, not_lt.mpr index, if_false])

/-- `tscatter` stores its row where its index says. -/
theorem Unhindered.scatters (h : Unhindered s r) (op : (s.view r.f.key).op.toNat = 0x81)
    (index : 0 ≤ s.rowIndex (r.f.win 1) r.eidx) (whole : (r.f.win 0).cols * dtW (r.f.win 0).dt % 8 = 0) :
    ∃ b, IsPacked s (r.f.win 0) r.eidx b ∧ exec .macroBoundary s = .next (s.askRow r (.store
      (rowVa (r.f.val 2).toNat (s.rowIndex (r.f.win 1) r.eidx) (r.f.win 0).rowBytes) b)) :=
  ⟨_, packRow_isPacked whole _, h.asks (by simp only [State.rowNeed, op, not_lt.mpr index, if_false])⟩

/-- A negative index gathers a row of zeros. -/
theorem Unhindered.gathersZeros (h : Unhindered s r) (op : (s.view r.f.key).op.toNat = 0x80)
    (index : s.rowIndex (r.f.win 1) r.eidx < 0) : RowDone s r (fun _ u => u = 0) (fun _ _ => True) (Plain s r) := by
  have dst : dstWin s r = r.f.win 2 := dstOf_gather op
  have eq : s.boundary r.f (s.view r.f.key) r.eidx = s.putRow (dstWin s r) r.eidx 0 (List.replicate (dstWin s r).cols 0) := by
    simp only [State.boundary, op, dst]
  have noRow : s.rowNeed r.f (s.view r.f.key) r.eidx = none := by simp only [State.rowNeed, op, index, if_true]
  have reach := Reaches.of_memOnly (MemOnly.putRow s (dstWin s r) r.eidx 0 (List.replicate (dstWin s r).cols 0)) s.at_.a
  have here := (congrArg (Reaches s.at_.a s · _) eq).mpr reach
  have quiet : (s.rowOut r.f (s.view r.f.key) r.eidx).flags = 0 := by
    simp only [State.rowOut, op]
    rfl
  refine (h.writesRow noRow (o := { codes := List.replicate (dstWin s r).cols 0 }) here (by rw [eq]; rfl) rfl rfl rfl
    List.length_replicate (.inl rfl)).mono (fun c u hc hu => ?_) (fun _ _ _ _ => trivial) fun y ⟨acc, elstat⟩ => ⟨acc, ?_⟩
  · rw [hu, List.getElem?_replicate, if_pos hc]
    exact Nat.zero_mod _
  · rw [elstat, quiet]
    exact BitVec.or_zero.symm

/-- A negative index scatters nothing. -/
theorem Unhindered.scattersNothing (h : Unhindered s r) (op : (s.view r.f.key).op.toNat = 0x81)
    (index : s.rowIndex (r.f.win 1) r.eidx < 0) : ∃ t, Passed s r t ∧ OnlyElem s.at_.a s t := by
  have eq : s.boundary r.f (s.view r.f.key) r.eidx = s := by simp only [State.boundary, op]
  have noRow : s.rowNeed r.f (s.view r.f.key) r.eidx = none := by simp only [State.rowNeed, op, index, if_true]
  have here := (congrArg (Reaches s.at_.a s · _) eq).mpr (Reaches.refl s s.at_.a)
  obtain ⟨t, a, b, passed, reach, mem, high⟩ := h.performs noRow here rfl rfl (by rw [h.run]; rfl)
  exact ⟨t, passed, reach.onlyElem (mem.trans (congrArg State.mem eq)) (high.trans (congrArg State.high eq))⟩

end Sys2Proof
end

section
/-!
Boundaries whose row has come (R217, R220).
-/
namespace Sys2Proof
open Machine

variable {s : State} {r : Run} {w : Win}

/-! ### The bytes go into the tile -/

theorem writeMend_clean (clean : s.ecc = []) (w : Win) (k c n : Nat) : s.writeMend w k c n = s := by
  refine List.foldl_fixed' (fun x => ?_) _
  have same : s.ecc.del x = s.ecc := by rw [clean]; rfl
  rw [same]

theorem rowTake_row (clean : s.ecc = []) {f : Firing} {v : RecView} {k : Nat}
    (op : v.op.toNat = 0x72 ∧ k < (dstOf f v).rows ∨ v.op.toNat = 0x80) (b : List Byte) : s.rowTake f v k b =
      s.putRow (dstOf f v) k 0 (unpackRow (dtW (dstOf f v).dt) (dstOf f v).cols b) := by
  have mended (d : Win) (l : List Nat) : (s.putRow d k 0 l).writeMend d k 0 d.cols = s.putRow d k 0 l :=
    writeMend_clean ((MemOnly.putRow ..).ecc.trans clean) ..
  rcases op with ⟨op, row⟩ | op
  · rw [dstOf_load op] at row ⊢
    simp only [State.rowTake, op, row, if_true, mended]
  · simp only [State.rowTake, op, dstOf_gather op, mended]

theorem rowTake_scales {f : Firing} {v : RecView} {k : Nat} (op : v.op.toNat = 0x72) (row : (dstOf f v).rows ≤ k) (b : List Byte) :
    s.rowTake f v k b = (List.range ((dstOf f v).rows * ((dstOf f v).cols / 32))).foldl (fun st i => st.putScale (dstOf f v)
      (i / ((dstOf f v).cols / 32)) (32 * (i % ((dstOf f v).cols / 32))) (b[i]?.getD 0).toNat) s := by
  rw [dstOf_load op] at row ⊢
  simp only [State.rowTake, op, not_lt.mpr row, if_false]

theorem rowTake_other {f : Firing} {v : RecView} {k : Nat} {b : List Byte} (load : v.op.toNat ≠ 0x72) (gather : v.op.toNat ≠ 0x80) :
    s.rowTake f v k b = s := by
  unfold State.rowTake
  split
  · exact absurd ‹_› load
  · exact absurd ‹_› gather
  · rfl

theorem MemOnly.rowTake (clean : s.ecc = []) (f : Firing) (v : RecView) (k : Nat) (b : List Byte) :
    MemOnly s (s.rowTake f v k b) := by
  by_cases row : v.op.toNat = 0x72 ∧ k < (dstOf f v).rows ∨ v.op.toNat = 0x80
  · rw [rowTake_row clean row]
    exact .putRow ..
  · by_cases load : v.op.toNat = 0x72
    · rw [rowTake_scales load (by omega)]
      exact .foldl (fun _ _ => .setByte ..) _
    · rw [rowTake_other load (by omega)]
      exact .refl s

/-- The elements of a row taken from packed bytes. -/
theorem elemAt_unpackRow (b : List Byte) (k : Nat) {c : Nat} (hc : c < w.cols) :
    (s.putRow w k 0 (unpackRow (dtW w.dt) w.cols b)).elemAt w k c = fld (leBytes b) (dtW w.dt * c) (dtW w.dt) := by
  have put := elemAt_putRow (s := s) (w := w) (r := k) (c := 0) (l := unpackRow (dtW w.dt) w.cols b) (i := c)
    (by rwa [unpackRow, List.length_map, List.length_range])
  rw [Nat.zero_add] at put
  rw [put]
  simp only [unpackRow, List.getElem_map, List.getElem_range]
  exact Nat.mod_eq_of_lt (fld_lt ..)

/-- R310: with at most four blocks from the buffer's first column on, each block of a window has a scale byte of its own. -/
theorem scaleAddr_inj (s : State) (narrow : w.cb + w.cols ≤ 128) {i j : Nat} (hi : i < w.rows * (w.cols / 32))
    (h : s.scaleAddr w (i / (w.cols / 32)) (32 * (i % (w.cols / 32))) =
      s.scaleAddr w (j / (w.cols / 32)) (32 * (j % (w.cols / 32)))) : i = j := by
  have pos : 0 < w.cols / 32 := Nat.pos_of_mul_pos_left (Nat.zero_lt_of_lt hi)
  have blockI := Nat.mod_lt i pos
  have blockJ := Nat.mod_lt j pos
  have splitI := Nat.div_add_mod i (w.cols / 32)
  have splitJ := Nat.div_add_mod j (w.cols / 32)
  rw [scaleAddr_block, scaleAddr_block] at h
  simp only [State.scaleAddr, scratchPa_add w.q (_ + _), Nat.add_zero] at h
  have row : i / (w.cols / 32) = j / (w.cols / 32) := by omega
  have col : i % (w.cols / 32) = j % (w.cols / 32) := by omega
  rw [← splitI, ← splitJ, row, col]

/-- Scale bytes taken from memory. -/
theorem scaleAt_taken (b : List Byte) (narrow : w.cb + w.cols ≤ 128) {i : Nat} (hi : i < w.rows * (w.cols / 32)) :
    ((List.range (w.rows * (w.cols / 32))).foldl (fun st i => st.putScale w (i / (w.cols / 32)) (32 * (i % (w.cols / 32)))
      (b[i]?.getD 0).toNat) s).scaleAt w (i / (w.cols / 32)) (32 * (i % (w.cols / 32))) = (b[i]?.getD 0).toNat := by
  have once : ((List.range (w.rows * (w.cols / 32))).map fun i =>
      s.scaleAddr w (i / (w.cols / 32)) (32 * (i % (w.cols / 32)))).Nodup :=
    List.nodup_range.map_on fun i hi j _ => scaleAddr_inj s narrow (List.mem_range.mp hi)
  have byte := foldl_setByte_same (s := s) (g := fun i => BitVec.ofNat 8 (b[i]?.getD 0).toNat) once (List.mem_range.mpr hi)
  rw [State.scaleAt, foldl_putScale_eq _ w (fun i => i / (w.cols / 32)) (fun i => 32 * (i % (w.cols / 32)))
    (fun i => (b[i]?.getD 0).toNat) rfl]
  have same : ((List.range (w.rows * (w.cols / 32))).foldl (fun (st : State) i => st.setByte
      (s.scaleAddr w (i / (w.cols / 32)) (32 * (i % (w.cols / 32)))) (BitVec.ofNat 8 (b[i]?.getD 0).toNat)) s).mts = s.mts :=
    (MemOnly.foldl (fun _ _ => .setByte ..) s).mts
  rw [scaleAddr_congr same, byte, BitVec.ofNat_toNat]
  rfl

/-! ### The boundary -/

/-- The row of the boundary has come, and the boundary is passed. -/
theorem AtBoundary.arrives (h : AtBoundary s r) (asked : r.reqs ≠ []) {b : List Byte} (ok : s.engPoll r.reqs = .ok b)
    (ordWait : (s.elem s.at_.a).ordWait = []) (clean : s.ecc = []) : ∃ t, Passed s r t ∧
      t = { s with elems := t.elems, mem := t.mem, high := t.high, reqs := s.reqs.filter fun p => !r.reqs.contains p.1 } ∧
      t.mem = ((s.engDrop r.reqs).rowTake r.f (s.view r.f.key) r.eidx b).mem := by
  have taken := MemOnly.rowTake (s := s.engDrop r.reqs) clean r.f (s.view r.f.key) r.eidx b
  have reach := Reaches.of_memOnly taken s.at_.a
  obtain ⟨x, y, passed, mem, -⟩ := reach.passBoundary h.elem (s.view r.f.key) ordWait
  refine ⟨_, ⟨?_, passed.others, ?_, ?_⟩, passed.frame, mem⟩
  · rw [macroBoundary_answered h asked ok]
    simp only [State.nearBoundary, State.boundAct, boundaryEcc_clean (taken.ecc.trans clean)]
  · rw [passed.elem, outStage_elemPassed]
    rfl
  · rw [passed.elem, eidx_elemPassed]
    exact congrArg Option.isSome h.run

/-- What the arrival leaves in the tile. -/
theorem AtBoundary.takesRow (h : AtBoundary s r) (asked : r.reqs ≠ []) {b : List Byte} (ok : s.engPoll r.reqs = .ok b)
    (ordWait : (s.elem s.at_.a).ordWait = []) (clean : s.ecc = []) : ∃ t, Passed s r t ∧
      t = { s with elems := t.elems, mem := t.mem, high := t.high, reqs := s.reqs.filter fun p => !r.reqs.contains p.1 } ∧
      ((s.view r.f.key).op.toNat = 0x72 ∧ r.eidx < (dstWin s r).rows ∨ (s.view r.f.key).op.toNat = 0x80 →
        (∀ c, c < (dstWin s r).cols → t.elemAt (dstWin s r) r.eidx c =
          fld (leBytes b) (dtW (dstWin s r).dt * c) (dtW (dstWin s r).dt)) ∧ KeepsRow s r t) ∧
      ((s.view r.f.key).op.toNat = 0x72 → (dstWin s r).rows ≤ r.eidx → (dstWin s r).cb + (dstWin s r).cols ≤ 128 →
        ∀ i, i < (dstWin s r).rows * ((dstWin s r).cols / 32) → t.scaleAt (dstWin s r) (i / ((dstWin s r).cols / 32))
          (32 * (i % ((dstWin s r).cols / 32))) = (b[i]?.getD 0).toNat) ∧
      ((s.view r.f.key).op.toNat = 0x73 ∨ (s.view r.f.key).op.toNat = 0x81 → ∀ a, t.byte a = s.byte a) := by
  obtain ⟨t, passed, frame, mem⟩ := h.arrives asked ok ordWait clean
  have mts : t.mts = s.mts := by rw [frame]
  refine ⟨t, passed, frame, fun op => ?_, fun op row narrow i hi => ?_, fun op a => ?_⟩
  · have taken := rowTake_row (s := s.engDrop r.reqs) clean op b
    rw [taken] at mem
    have mts' := mts.trans (MemOnly.putRow (s.engDrop r.reqs) (dstWin s r) r.eidx 0
      (unpackRow (dtW (dstWin s r).dt) (dstWin s r).cols b)).mts.symm
    refine ⟨fun c hc => ?_, fun a out _ => ?_⟩
    · exact (elemAt_congr mts' mem _ _ _).trans (elemAt_unpackRow b r.eidx hc)
    · refine (State.byte_of_mem mem a).trans ?_
      refine byte_putRow_out (s := s.engDrop r.reqs) (w := dstWin s r) (r := r.eidx) (c := 0) ?_
      rw [unpackRow, List.length_map, List.length_range]
      exact out
  · have taken := rowTake_scales (s := s.engDrop r.reqs) op row b
    have only := MemOnly.rowTake (s := s.engDrop r.reqs) clean r.f (s.view r.f.key) r.eidx b
    rw [scaleAt_congr (mts.trans only.mts.symm) mem, taken]
    exact scaleAt_taken b narrow hi
  · have other := rowTake_other (s := s.engDrop r.reqs) (f := r.f) (v := s.view r.f.key) (k := r.eidx) (b := b)
      (by omega) (by omega)
    rw [other] at mem
    exact State.byte_of_mem mem a

end Sys2Proof
end

section
/-!
Boundaries of the tile pipe: the statement that gathers them.
-/
namespace Sys2Proof
open Machine

variable {s : State} {r : Run}

/-- `tacc` and `cmbtacc` into the accumulator, the new words told as sums. -/
theorem Unhindered.gathersAcc (h : Unhindered s r) (op : (s.view r.f.key).op.toNat = 0xAB ∨
      ((s.view r.f.key).op.toNat = 0x71 ∧ (s.view r.f.key).shape = 0)) : ∃ t, Passed s r t ∧ OnlyElem s.at_.a s t ∧
    (∀ c, c < (r.f.win 0).cols → (t.elem s.at_.a).acc.look ((s.view r.f.key).accN * 1024 + (r.eidx * 32 + c)) =
      BitVec.ofNat 32 (if (s.view r.f.key).op.toNat = 0x71 ∧ (s.view r.f.key).ovw = true then (s.tileWord (r.f.win 0) r.eidx c).1
        else if dtFloat (r.f.win 0).dt then (fp32.add rne
          ((s.elem s.at_.a).acc.look ((s.view r.f.key).accN * 1024 + (r.eidx * 32 + c))).toNat (s.tileWord (r.f.win 0) r.eidx c).1).1
        else ((s.elem s.at_.a).acc.look ((s.view r.f.key).accN * 1024 + (r.eidx * 32 + c))).toNat +
          (s.tileWord (r.f.win 0) r.eidx c).1)) ∧
    ∀ m, (m < (s.view r.f.key).accN * 1024 + r.eidx * 32 ∨
      (s.view r.f.key).accN * 1024 + (r.eidx * 32 + (r.f.win 0).cols) ≤ m) →
      (t.elem s.at_.a).acc.look m = (s.elem s.at_.a).acc.look m := by
  let ovw := decide ((s.view r.f.key).op.toNat = 0x71 ∧ (s.view r.f.key).ovw = true)
  obtain ⟨t, passed, only, inside, out⟩ := h.taccIn (ovw := ovw) (by
    rcases op with op | ⟨op, shape⟩
    · exact .inl ⟨op, by simp [ovw, op]⟩
    · exact .inr ⟨op, shape, by simp [ovw, op]⟩)
  refine ⟨t, passed, only, fun c hc => (inside c hc).trans ?_, out⟩
  rw [taccWord, h.elem]
  simp only [ovw, decide_eq_true_eq]
  split
  · rfl
  · split
    · rfl
    · exact BitVec.eq_of_toNat_eq (by simp only [BitVec.toNat_ofNat, Nat.mod_mod]; rfl)

/-- `tacc` out of the accumulator, the row told as numbers. -/
theorem Unhindered.drainsNumbers (h : Unhindered s r) (op : (s.view r.f.key).op.toNat = 0x71) (shape : (s.view r.f.key).shape = 1) :
    RowDone s r (fun c u =>
      (dtFloat (dstWin s r).dt = true → u = ((dtFmt (dstWin s r).dt).pack rne (fp32.value
        ((s.elem s.at_.a).acc.look ((s.view r.f.key).accN * 1024 + (r.eidx * 32 + c))).toNat)).1 % 2 ^ dtW (dstWin s r).dt) ∧
      (dtFloat (dstWin s r).dt = false → Fits true (dtSigned (dstWin s r).dt) (dtW (dstWin s r).dt)
        (laneInt true 32 ((s.elem s.at_.a).acc.look ((s.view r.f.key).accN * 1024 + (r.eidx * 32 + c))).toNat)
        (laneInt (dtSigned (dstWin s r).dt) (dtW (dstWin s r).dt) u))) (fun _ _ => True)
      (fun y => ∀ m, y.acc.look m = if (s.view r.f.key).ovw = true ∧ (s.view r.f.key).accN * 1024 + r.eidx * 32 ≤ m ∧
        m < (s.view r.f.key).accN * 1024 + (r.eidx * 32 + (dstWin s r).cols) then 0 else (s.elem s.at_.a).acc.look m) := by
  obtain ⟨dst, done⟩ := h.drains op shape
  refine done.mono (fun c u _ hu => ?_) (fun _ _ _ => id) fun _ => id
  rw [hu, drainCode, ← dst, h.elem]
  refine ⟨fun flt => ?_, fun int => ?_⟩
  · rw [if_pos flt]
    rfl
  · rw [int, if_neg Bool.false_ne_true]
    exact (fitInt_fits true _ _ _ (dtW_pos _)).1

/-- Settles O40, by a lemma for each macro-instruction about what its boundary writes. -/
theorem integerTileProducts : Obligations.IntegerTileProducts := by
  unfold Obligations.IntegerTileProducts
  refine ⟨fun s f v k => ?_, fun s r => ?_⟩
  · intro a b nb g br bc int _ _
    exact mmaBlock_int v k (dtFloat_of_dtInt int)
  intro e x f v k w op d width fm rnd acc passes keeps row plain rows fits adds muls same block len packed at' nb run elem more near
  have atB : AtBoundary s r := ⟨run, elem, more, near⟩
  refine ⟨fun idle none stop trip => macroBoundary_parks atB idle none stop trip,
    fun m idle running stale => macroBoundary_stale atB idle running stale, fun ordWait clean idle running fresh => ?_,
    fun b asked ok ordWait clean => ?_, fun a b i j g c flt => ?_⟩
  · have h : Unhindered s r := ⟨atB, ordWait, clean, idle, running, fresh⟩
    refine ⟨fun plain => ?_, fun mx ok below => ?_, fun op => ?_, fun op => h.gathersAcc op,
      fun op shape _ => h.drainsNumbers op shape, fun op => ?_, fun op below => ?_, fun op above => ?_,
      fun op below whole => h.stores op below whole, fun op above => h.storesScales op above, fun op => ?_, fun op => ?_⟩
    · exact ⟨fun op => h.adds (.inl ⟨op, rfl, rfl⟩), fun op shape => h.adds (.inr (.inl ⟨op, shape, rfl, rfl⟩)),
        fun op shape => h.adds (.inr (.inr ⟨op, shape, rfl, rfl⟩)), fun op => h.muls (.inl ⟨op, rfl, rfl⟩),
        fun op => h.muls (.inr ⟨op, rfl, rfl⟩), fun op a b => h.maxes op a b, fun op => h.exps op,
        fun op a => h.transposes op a, fun op ⟨a, cols⟩ => h.copies plain op a cols, fun op a => h.converts plain op a,
        fun op => h.fills plain op, fun op => h.compares op⟩
    · exact ⟨fun op => h.convertsToMx mx ok below op, fun op => h.fillsMx mx ok below op,
        fun op ⟨a, cols⟩ => h.copiesMx mx ok below op a cols⟩
    · obtain ⟨t, passed, only, flags, words, others⟩ := h.tmma op
      refine ⟨t, passed, only, flags, fun i j hi hj => (words i j hi hj).trans ?_, others⟩
      rw [mmaEntry, mmaStart, h.elem]
      rfl
    · obtain ⟨t, passed, only, sums, result⟩ := h.reduces op
      exact ⟨t, _, passed, only, sums, result, tredValue_sum, fun int => tredValue_int (dtFloat_of_dtInt int)⟩
    · have dst : d = w 0 := dstOf_load op
      rw [dst] at below ⊢
      exact (h.loads op).trans (by rw [if_pos below]; rfl)
    · have dst : d = w 0 := dstOf_load op
      rw [dst] at above ⊢
      exact (h.loads op).trans (by rw [if_neg (not_lt.mpr above)]; rfl)
    · have dst : d = w 2 := dstOf_gather op
      refine ⟨h.gathersZeros op, fun index => ?_⟩
      rw [dst]
      exact h.gathers op index
    · exact ⟨h.scattersNothing op, h.scatters op⟩
  · obtain ⟨t, passed, frame, taken, scales, kept⟩ := atB.takesRow asked ok ordWait clean
    refine ⟨t, passed, frame, taken, fun op above _ narrow => ?_, kept⟩
    have blocks : nb = d.cols / 32 := by rw [show d = w 0 from dstOf_load op]
    rw [blocks]
    exact scales op above narrow
  · intro sc raw num fine
    exact ⟨mmaWord_scale_nan flt c, fun ha hb all => mmaWord_fin flt c ha hb all⟩

end Sys2Proof
end

section
/-!
Records and instructions (R84 to R103): which opcode names which instruction, with which fields, and how decoding and
encoding meet.
-/
namespace Sys2Proof
open Laws

/-! ### The record written from a record's own fields -/

/-- The fields that the form `f` reads from the record `w`, written in that form under the opcode `op`. -/
def Form.rewrite (f : Form) (op : BitVec 8) (w : Rec96) : Rec96 :=
  match f with
  | .d2 => (D2.ofRecord w).bits op
  | .d1 => (D1.ofRecord w).bits op
  | .c => (FC.ofRecord w).bits op
  | .t => (FT.ofRecord w).bits op
  | .m => (FM.ofRecord w).bits op
  | .s => (FS.ofRecord w).bits op

/-- No form leaves a bit of a record out. -/
theorem Form.rewrite_self (f : Form) (w : Rec96) : f.rewrite (w.extractLsb' 88 8) w = w := by
  cases f with
  | d2 => exact D2.bits_ofRecord w
  | d1 => exact D1.bits_ofRecord w
  | c => exact FC.bits_ofRecord w
  | t => exact FT.bits_ofRecord w
  | m => exact FM.bits_ofRecord w
  | s => exact FS.bits_ofRecord w

/-! ### The opcode map (R99, R101) -/

/-- The instructions and the rows of the map have the same opcodes, and an instruction is read and written in the form of its
row. Each opcode's evaluation is an auxiliary lemma, so that the kernel drops its caches between two of them. -/
theorem instrOfOp_row {k : Nat} (h : k < 256) (w : Rec96) :
    (instrOfOp k w).elim none (fun i => some (i.view.map (·.op), i.encode)) =
      (opInfo k).map fun o => (some (BitVec.ofNat 8 k), some (o.form.rewrite (BitVec.ofNat 8 k) w)) := by
  interval_cases k <;> as_aux_lemma => rfl

/-- An opcode that names an instruction stands in the map. -/
theorem opInfo_of_instrOfOp {op : BitVec 8} {w : Rec96} {i : Instr} (h : instrOfOp op.toNat w = some i) :
    ∃ o v, opInfo op.toNat = some o ∧ i.view = some v ∧ v.op = op ∧ i.encode = some (o.form.rewrite op w) := by
  have row := instrOfOp_row op.isLt w
  rw [h, Option.elim_some, BitVec.ofNat_toNat, BitVec.setWidth_eq, eq_comm, Option.map_eq_some_iff] at row
  obtain ⟨o, info, fields⟩ := row
  obtain ⟨view, encode⟩ := Prod.mk.inj fields
  obtain ⟨v, hv, same⟩ := Option.map_eq_some_iff.mp view.symm
  exact ⟨o, v, info, hv, same, encode.symm⟩

/-- Every opcode of the map names an instruction. -/
theorem instrOfOp_of_opInfo {op : BitVec 8} {o : OpInfo} (h : opInfo op.toNat = some o) (w : Rec96) :
    ∃ i, instrOfOp op.toNat w = some i := by
  have row := instrOfOp_row op.isLt w
  rw [h] at row
  cases named : instrOfOp op.toNat w with
  | none => simp [named] at row
  | some i => exact ⟨i, rfl⟩

theorem instrOfRecord_eq_none_iff (w : Rec96) : instrOfRecord w = none ↔ opInfo (w.extractLsb' 88 8).toNat = none := by
  rw [Option.eq_none_iff_forall_ne_some, Option.eq_none_iff_forall_ne_some]
  refine ⟨fun none o h => ?_, fun none i h => ?_⟩
  · obtain ⟨i, hi⟩ := instrOfOp_of_opInfo h w
    exact none i hi
  · obtain ⟨o, _, ho, _⟩ := opInfo_of_instrOfOp h
    exact none o ho

/-! ### Encoding -/

theorem isSome_encode (i : Instr) : i.encode.isSome = i.view.isSome := by
  cases i <;> as_aux_lemma => rfl

/-- The record of an instruction names that instruction again. -/
theorem instrOfRecord_encode (i : Instr) : Encoding.Statement i := by
  cases i with
  | id r => exact Encoding.id r | const r => exact Encoding.const r | sink r => exact Encoding.sink r
  | steer r => exact Encoding.steer r | merge r => exact Encoding.merge r | mergeo r => exact Encoding.mergeo r
  | gate r => exact Encoding.gate r | pick r => exact Encoding.pick r | rpt r => exact Encoding.rpt r
  | seq r => exact Encoding.seq r | eodt r => exact Encoding.eodt r | eods r => exact Encoding.eods r
  | pack2 r => exact Encoding.pack2 r | unpk2 r => exact Encoding.unpk2 r | fanout r => exact Encoding.fanout r
  | falloc r => exact Encoding.falloc r | ffree r => exact Encoding.ffree r | iter r => exact Encoding.iter r
  | leave r => exact Encoding.leave r | call r => exact Encoding.call r | ret r => exact Encoding.ret r
  | ldfx r => exact Encoding.ldfx r | stfx r => exact Encoding.stfx r | loopin r => exact Encoding.loopin r
  | loopout r => exact Encoding.loopout r | spawn r => exact Encoding.spawn r | exitw r => exact Encoding.exitw r
  | wchk r => exact Encoding.wchk r | settag r => exact Encoding.settag r | gettag r => exact Encoding.gettag r
  | fxinfo r => exact Encoding.fxinfo r | add r => exact Encoding.add r | sub r => exact Encoding.sub r
  | mul r => exact Encoding.mul r | mulh r => exact Encoding.mulh r | div r => exact Encoding.div r
  | rem r => exact Encoding.rem r | min r => exact Encoding.min r | max r => exact Encoding.max r
  | abs r => exact Encoding.abs r | neg r => exact Encoding.neg r | addsat r => exact Encoding.addsat r
  | subsat r => exact Encoding.subsat r | avg r => exact Encoding.avg r | cmp r => exact Encoding.cmp r
  | clamp r => exact Encoding.clamp r | widen r => exact Encoding.widen r | and r => exact Encoding.and r
  | or r => exact Encoding.or r | xor r => exact Encoding.xor r | andn r => exact Encoding.andn r
  | not r => exact Encoding.not r | shl r => exact Encoding.shl r | shr r => exact Encoding.shr r
  | sra r => exact Encoding.sra r | rotl r => exact Encoding.rotl r | clz r => exact Encoding.clz r
  | ctz r => exact Encoding.ctz r | popc r => exact Encoding.popc r | bext r => exact Encoding.bext r
  | bins r => exact Encoding.bins r | clmul r => exact Encoding.clmul r | pxor r => exact Encoding.pxor r
  | fadd r => exact Encoding.fadd r | fsub r => exact Encoding.fsub r | fmul r => exact Encoding.fmul r
  | fma r => exact Encoding.fma r | fmin r => exact Encoding.fmin r | fmax r => exact Encoding.fmax r
  | fabs r => exact Encoding.fabs r | fneg r => exact Encoding.fneg r | fcmp r => exact Encoding.fcmp r
  | fdiv r => exact Encoding.fdiv r | fsqrt r => exact Encoding.fsqrt r | frcp r => exact Encoding.frcp r
  | frsqrt r => exact Encoding.frsqrt r | frnd r => exact Encoding.frnd r | fclass r => exact Encoding.fclass r
  | fcsgn r => exact Encoding.fcsgn r | cvt r => exact Encoding.cvt r | cvtfi r => exact Encoding.cvtfi r
  | cvtif r => exact Encoding.cvtif r | cvtsr r => exact Encoding.cvtsr r | vswap2 r => exact Encoding.vswap2 r
  | vperm r => exact Encoding.vperm r | vbcast r => exact Encoding.vbcast r | vins r => exact Encoding.vins r
  | vext r => exact Encoding.vext r | vpack r => exact Encoding.vpack r | vunpk r => exact Encoding.vunpk r
  | vsum r => exact Encoding.vsum r | vmask r => exact Encoding.vmask r | vsel r => exact Encoding.vsel r
  | vbcmp r => exact Encoding.vbcmp r | vdot r => exact Encoding.vdot r | fsin r => exact Encoding.fsin r
  | fcos r => exact Encoding.fcos r | fsincos r => exact Encoding.fsincos r | fexp2 r => exact Encoding.fexp2 r
  | flog2 r => exact Encoding.flog2 r | fexp r => exact Encoding.fexp r | ftanh r => exact Encoding.ftanh r
  | fsigm r => exact Encoding.fsigm r | lut6 r => exact Encoding.lut6 r | lutsm r => exact Encoding.lutsm r
  | lutld r => exact Encoding.lutld r | hash64 r => exact Encoding.hash64 r | tmma r => exact Encoding.tmma r
  | tacc r => exact Encoding.tacc r | tld r => exact Encoding.tld r | tst r => exact Encoding.tst r
  | tadd r => exact Encoding.tadd r | tmul r => exact Encoding.tmul r | tmax r => exact Encoding.tmax r
  | tscale r => exact Encoding.tscale r | texp r => exact Encoding.texp r | tred r => exact Encoding.tred r
  | ttrans r => exact Encoding.ttrans r | tcvt r => exact Encoding.tcvt r | tfill r => exact Encoding.tfill r
  | tcmpb r => exact Encoding.tcmpb r | tbias r => exact Encoding.tbias r | tzero r => exact Encoding.tzero r
  | tgath r => exact Encoding.tgath r | tscat r => exact Encoding.tscat r | tcopy r => exact Encoding.tcopy r
  | tslice r => exact Encoding.tslice r | href r => exact Encoding.href r | hdrop r => exact Encoding.hdrop r
  | halloc r => exact Encoding.halloc r | hinfo r => exact Encoding.hinfo r | tget r => exact Encoding.tget r
  | tset r => exact Encoding.tset r | tfull r => exact Encoding.tfull r | tempty r => exact Encoding.tempty r
  | ld r => exact Encoding.ld r | st r => exact Encoding.st r | ldn r => exact Encoding.ldn r
  | stn r => exact Encoding.stn r | ild r => exact Encoding.ild r | ist r => exact Encoding.ist r
  | iclr r => exact Encoding.iclr r | alr r => exact Encoding.alr r | pref r => exact Encoding.pref r
  | ldsw r => exact Encoding.ldsw r | swset r => exact Encoding.swset r | wfence r => exact Encoding.wfence r
  | swadd r => exact Encoding.swadd r | cmbadd r => exact Encoding.cmbadd r | cmband r => exact Encoding.cmband r
  | cmbor r => exact Encoding.cmbor r | cmbxor r => exact Encoding.cmbxor r | cmbmin r => exact Encoding.cmbmin r
  | cmbmax r => exact Encoding.cmbmax r | cmbfaddx r => exact Encoding.cmbfaddx r | cmbfmin r => exact Encoding.cmbfmin r
  | cmbfmax r => exact Encoding.cmbfmax r | cmbcnt r => exact Encoding.cmbcnt r | cmbfadd r => exact Encoding.cmbfadd r
  | cmbtacc r => exact Encoding.cmbtacc r | qpush r => exact Encoding.qpush r | qpop r => exact Encoding.qpop r
  | qresv r => exact Encoding.qresv r | qpub r => exact Encoding.qpub r | qsteal r => exact Encoding.qsteal r
  | qarm r => exact Encoding.qarm r | qstat r => exact Encoding.qstat r | agcfg r => exact Encoding.agcfg r
  | agrun r => exact Encoding.agrun r | bari r => exact Encoding.bari r | barv r => exact Encoding.barv r
  | barlog r => exact Encoding.barlog r | stkbind r => exact Encoding.stkbind r | ktsbind r => exact Encoding.ktsbind r
  | mcgset r => exact Encoding.mcgset r | xsend r => exact Encoding.xsend r | trap r => exact Encoding.trap r
  | fret r => exact Encoding.fret r | fkill r => exact Encoding.fkill r | park r => exact Encoding.park r
  | unpark r => exact Encoding.unpark r | mark r => exact Encoding.mark r | time r => exact Encoding.time r
  | pgrd r => exact Encoding.pgrd r | pgwr r => exact Encoding.pgwr r | stcnt r => exact Encoding.stcnt r
  | ecall r => exact Encoding.ecall r | cfgld r => exact Encoding.cfgld r | cfgcmt r => exact Encoding.cfgcmt r
  | gsrc r => exact Encoding.gsrc r | quiesce r => exact Encoding.quiesce r | halt r => exact Encoding.halt r
  | sxmac r => exact Encoding.sxmac r | sxpass r => exact Encoding.sxpass r | sxacc r => exact Encoding.sxacc r
  | sxout r => exact Encoding.sxout r | sxwld r => exact Encoding.sxwld r | sxmov r => exact Encoding.sxmov r
  | sxloop r => exact Encoding.sxloop r | sxnop r => exact Encoding.sxnop r
  | _ => exact encoding_of_none rfl

/-- An instruction that a record names is encoded by that record. -/
theorem encode_instrOfRecord {w : Rec96} {i : Instr} (h : instrOfRecord w = some i) : i.encode = some w := by
  obtain ⟨o, v, _, _, _, he⟩ := opInfo_of_instrOfOp h
  rw [he, Form.rewrite_self]

/-! ### Decoding -/

theorem decode_of_none {w : Rec96} (h : instrOfRecord w = none) : decode w = .error .unassigned := by
  simp only [decode, h]

theorem decode_of_error {w : Rec96} {i : Instr} {v : RecView} {e : RecordError} (h : instrOfRecord w = some i)
    (hv : i.view = some v) (he : recordError v = some e) : decode w = .error e := by
  simp only [decode, h, hv, he]

theorem decode_of_ok {w : Rec96} {i : Instr} {v : RecView} (h : instrOfRecord w = some i) (hv : i.view = some v)
    (he : recordError v = none) : decode w = .ok i := by
  simp only [decode, h, hv, he]

theorem Instr.wellFormed_of_view {i : Instr} {v : RecView} (hv : i.view = some v) :
    i.WellFormed ↔ recordError v = none := by
  simp only [Instr.WellFormed, hv]

theorem decode_eq_ok_iff (w : Rec96) (i : Instr) : decode w = .ok i ↔ instrOfRecord w = some i ∧ i.WellFormed := by
  cases named : instrOfRecord w with
  | none => simp [decode_of_none named]
  | some j =>
    obtain ⟨_, v, _, view, _, _⟩ := opInfo_of_instrOfOp named
    cases check : recordError v with
    | some e =>
      rw [decode_of_error named view check]
      simp only [reduceCtorEq, Option.some.injEq, false_iff, not_and]
      rintro rfl
      simp [Instr.wellFormed_of_view view, check]
    | none =>
      rw [decode_of_ok named view check, Except.ok.injEq, Option.some.injEq, iff_self_and]
      rintro rfl
      exact (Instr.wellFormed_of_view view).mpr check

theorem Instr.WellFormed.exists_encode {i : Instr} (h : i.WellFormed) : ∃ w, i.encode = some w := by
  rw [← Option.isSome_iff_exists, isSome_encode]
  cases hv : i.view with
  | none => simp [Instr.WellFormed, hv] at h
  | some v => rfl

/-- Settles O55: the record written from an instruction names it again, and a record is the one written from its fields. -/
theorem encodeDecodeRoundTrip : Obligations.EncodeDecodeRoundTrip := by
  unfold Obligations.EncodeDecodeRoundTrip
  refine fun i => ⟨fun wf => ?_, fun w h => ?_⟩
  · obtain ⟨w, hw⟩ := wf.exists_encode
    exact ⟨w, hw, (decode_eq_ok_iff w i).mpr ⟨instrOfRecord_encode i w hw, wf⟩⟩
  · obtain ⟨named, wf⟩ := (decode_eq_ok_iff w i).mp h
    exact ⟨wf, encode_instrOfRecord named⟩

theorem recordError_ne_unassigned {v : RecView} {o : OpInfo} (h : opInfo v.op.toNat = some o) :
    recordError v ≠ some .unassigned := by
  simp only [recordError, h]
  split_ifs <;> simp

theorem decode_eq_unassigned_iff (w : Rec96) :
    decode w = .error .unassigned ↔ opInfo (w.extractLsb' 88 8).toNat = none := by
  rw [← instrOfRecord_eq_none_iff]
  refine ⟨fun h => ?_, decode_of_none⟩
  cases named : instrOfRecord w with
  | none => rfl
  | some i =>
    obtain ⟨o, v, row, view, op, _⟩ := opInfo_of_instrOfOp named
    rw [← op] at row
    cases check : recordError v with
    | none => simp [decode_of_ok named view check] at h
    | some e =>
      rw [decode_of_error named view check, Except.error.injEq] at h
      exact absurd (check.trans (congrArg some h)) (recordError_ne_unassigned row)

/-- Settles O59: the words evaluate, and an OP is unassigned exactly where the map has no row. -/
theorem decodeExamples : Obligations.DecodeExamples := by
  unfold Obligations.DecodeExamples
  refine ⟨rfl, rfl, rfl, rfl, rfl, fun w => (decode_eq_unassigned_iff w).symm, rfl, rfl, rfl, rfl, rfl, rfl⟩

end Sys2Proof
end

section
/-!
Comparing, clamping and widening lanes, the bitwise instructions, and the records of `cmp` and `widen` that the decoder
refuses (R92, R157, R164 to R166, R168).
-/
namespace Sys2Proof
open Machine

variable {s : State} {v : RecView}

/-! ### Comparing (R164) -/

/-- A lane of all ones is the lane of -1. -/
theorem fitInt_ones (sg : Bool) (w : Nat) (c : Prop) [Decidable c] :
    fitInt false sg w (if c then -1 else 0) = (if c then 2 ^ w - 1 else 0, 0) := by
  have ones : ((-1 : Int) % 2 ^ w).toNat = 2 ^ w - 1 := by
    have pos : (1 : Int) ≤ 2 ^ w := one_le_pow₀ (by decide)
    have wrapped : (-1 : Int) % 2 ^ w = 2 ^ w - 1 := by
      rw [← Int.add_emod_right, Int.emod_eq_of_lt] <;> omega
    rw [wrapped]
    exact_mod_cast Int.toNat_sub (2 ^ w) 1
  split <;> simp [fitInt, ones]

theorem cmp_gives (r : D2) (s : State) : let v := r.view 0x2D
    Gives (.cmp r) s v (LanesF (tyN v.tyN) (tyW v.tyN) fun k =>
      (if condHolds v.opfN (ordInt (laneOf v.tyN s.opA k) (laneOf v.tyN (s.opB v) k)) then 2 ^ tyW v.tyN - 1 else 0, 0)) := by
  intro v
  refine finish1_gives _ _ _ _ _ rfl ?_
  simp only [intLanes2, fitInt_ones]
  exact mkLanesF_lanes _ _ _ (ty_fits _)

/-! ### Clamping (R165) -/

theorem clampLane_eq (x lo hi : Int) : clampLane x lo hi = min (max x lo) hi := by
  simp only [clampLane]
  omega

theorem laneOf_bounds (t : Nat) (x : Word) (k : Nat) :
    (if tySigned t then -2 ^ (tyW t - 1) else 0 : Int) ≤ laneOf t x k ∧
    laneOf t x k ≤ (if tySigned t then 2 ^ (tyW t - 1) - 1 else 2 ^ tyW t - 1 : Int) :=
  laneInt_bounds _ _ _ (tyW_pos t) (lane_lt _ _ _)

/-- One flag that some lanes raise is raised when one of them does. -/
theorem mkLanesF_flag (n w : Nat) (f : Nat → Nat) (c : Nat → Prop) [DecidablePred c] (fl : Flags) :
    (mkLanesF n w fun k => (f k, if c k then fl else 0)).2 = if ∃ k, k < n ∧ c k then fl else 0 := by
  apply BitVec.eq_of_getLsbD_eq
  intro b _
  rw [Bool.eq_iff_iff, mkLanesF_snd]
  constructor
  · rintro ⟨k, hk, hb⟩
    by_cases raised : c k
    · rw [if_pos ⟨k, hk, raised⟩]
      simpa [raised] using hb
    · simp [raised] at hb
  · split
    · rename_i some
      obtain ⟨k, hk, raised⟩ := some
      exact fun hb => ⟨k, hk, by simpa [raised] using hb⟩
    · simp

theorem clamp_gives (r : D2) (s : State) : let v := r.view 0x2E
    let y := fun k => min (max (laneOf v.tyN s.opA k) (laneOf v.tyN (s.opB v) k)) (laneOf v.tyN s.opC k)
    Gives (.clamp r) s v fun x fl =>
      (∀ k, k < tyN v.tyN → laneOf v.tyN x k = y k) ∧ x.toNat < 2 ^ (tyN v.tyN * tyW v.tyN) ∧
      fl = if v.sat = true ∧ ∃ k, k < tyN v.tyN ∧ y k ≠ laneOf v.tyN s.opA k then fSAT else 0 := by
  intro v y
  let f := fun k => ((y k % 2 ^ tyW v.tyN).toNat, if v.sat = true ∧ y k ≠ laneOf v.tyN s.opA k then fSAT else 0)
  have e : exec (.clamp r) s = finish1 s v (mkLanesF (tyN v.tyN) (tyW v.tyN) f) := by
    show finish1 s v _ = _
    simp only [clampLane_eq, Bool.and_eq_true, bne_iff_ne]
    rfl
  obtain ⟨⟨lanes, top⟩, _⟩ := mkLanesF_lanes (tyN v.tyN) (tyW v.tyN) f (ty_fits _)
  refine finish1_gives _ _ _ _ _ e ⟨fun k hk => ?_, top, ?_⟩
  · have a := laneOf_bounds v.tyN s.opA k
    have b := laneOf_bounds v.tyN (s.opB v) k
    have c := laneOf_bounds v.tyN s.opC k
    rw [laneOf, lanes k hk]
    exact laneInt_emod (tyW_pos _) (le_min (le_max_of_le_left a.1) c.1) (min_le_of_right_le c.2)
  · rw [mkLanesF_flag]
    simp only [and_left_comm, exists_and_left]

/-! ### Widening (R166) -/

theorem widenFrom_lanes (v : RecView) (a : Word) (first : Nat) :
    Lanes (tyN v.tyN / 2) (2 * tyW v.tyN)
      (fun k => (laneOf v.tyN a (first + k) % 2 ^ (2 * tyW v.tyN)).toNat) (widenFrom v a first).1 := by
  refine mkLanes_lanes _ _ _ ?_
  calc tyN v.tyN / 2 * (2 * tyW v.tyN) = tyN v.tyN / 2 * 2 * tyW v.tyN := (Nat.mul_assoc ..).symm
    _ ≤ tyN v.tyN * tyW v.tyN := Nat.mul_le_mul_right _ (Nat.div_mul_le_self _ _)
    _ ≤ 64 := ty_fits _

theorem widen_gives (r : D2) (s : State) : let v := r.view 0x2F
    let n := tyN v.tyN / 2
    let w := tyW v.tyN
    Gives2 (.widen r) s v fun x y fl =>
      Lanes n (2 * w) (fun k => (laneOf v.tyN s.opA k % 2 ^ (2 * w)).toNat) x ∧
      Lanes n (2 * w) (fun k => (laneOf v.tyN s.opA (n + k) % 2 ^ (2 * w)).toNat) y ∧ fl = 0 := by
  intro v n w
  have low := widenFrom_lanes v s.opA 0
  simp only [Nat.zero_add] at low
  exact finish2_gives _ _ _ _ _ _ rfl ⟨low, widenFrom_lanes v s.opA n, BitVec.or_self⟩

/-! ### Records that the decoder refuses (R92, R103, R166) -/

theorem opfOk_of_recordError {o : OpInfo} (row : opInfo v.op.toNat = some o) (form : o.form ≠ .s)
    (h : recordError v = none) : opfOk o v = true := by
  simp only [recordError, row, beq_iff_eq, form, if_false] at h
  rcases Bool.eq_false_or_eq_true (opfOk o v) with ok | bad
  · exact ok
  · simp only [bad, Bool.and_false, Bool.not_false, if_true] at h
    split_ifs at h

theorem recordError_typ {o : OpInfo} (row : opInfo v.op.toNat = some o) (h : o.tys.getLsbD v.hdr.ty.toNat = false) :
    recordError v = some .typ := by
  simp only [recordError, row, h, Bool.not_false, if_true]

theorem decode_cmp_ne_ok {w : Rec96} (op : w.extractLsb' 88 8 = 0x2D#8)
    (cond : w.extractLsb' 72 4 = 6#4 ∨ w.extractLsb' 72 4 = 7#4) (i : Instr) : decode w ≠ .ok i := by
  intro h
  obtain ⟨named, wf⟩ := (decode_eq_ok_iff w i).mp h
  rw [instrOfRecord, op] at named
  obtain rfl : Instr.cmp (.ofRecord w) = i := Option.some.inj named
  have admitted : (D2.ofRecord w).opf.toNat ≤ 5 :=
    of_decide_eq_true (opfOk_of_recordError (o := ⟨.d2, .ports 2, .one, .op, .cc 5, 0x00FF⟩) rfl (by decide) wf)
  have field : (D2.ofRecord w).opf = w.extractLsb' 72 4 := rfl
  rcases cond with cond | cond <;> rw [field, cond] at admitted <;> contradiction

theorem decode_widen_typ {w : Rec96} (op : w.extractLsb' 88 8 = 0x2F#8)
    (ty : w.extractLsb' 84 4 = 0#4 ∨ w.extractLsb' 84 4 = 1#4) : decode w = .error .typ := by
  have named : instrOfRecord w = some (.widen (.ofRecord w)) := by
    rw [instrOfRecord, op]
    rfl
  have refused : (0x00FC#16).getLsbD (w.extractLsb' 84 4).toNat = false := by
    rcases ty with ty | ty <;> rw [ty] <;> rfl
  exact decode_of_error named rfl (recordError_typ (o := ⟨.d2, .ports 1, .two, .none, .n, 0x00FC⟩) rfl refused)

/-! ### The bitwise instructions (R157, R168) -/

theorem getLsbD_keep32 (t : Nat) (x : Word) (k : Nat) :
    (keep32 t x).getLsbD k = (decide (t ≠ 13 ∨ k < 32) && x.getLsbD k) := by
  have mask : (0xFFFFFFFF#64).getLsbD k = decide (k < 32) := by
    rw [show 0xFFFFFFFF#64 = (BitVec.allOnes 32).setWidth 64 from rfl, BitVec.getLsbD_setWidth, BitVec.getLsbD_allOnes]
    simp only [Bool.and_eq_right_iff_imp, decide_eq_true_eq]
    omega
  unfold keep32
  by_cases f32 : t = 13 <;> simp [f32, mask, Bool.and_comm]

/-- The firing sends a value under the mask of its TY, which is told bit by bit. -/
theorem bitwise_gives {i : Instr} {v : RecView} {x : Word} {f : Nat → Bool} (e : exec i s = finish1 s v (keep32 v.tyN x, 0))
    (hf : ∀ k, k < 64 → x.getLsbD k = f k) : Gives i s v fun x fl =>
      (∀ k : Nat, k < 64 → x.getLsbD k = (decide (v.tyN ≠ 13 ∨ k < 32) && f k)) ∧ fl = 0 :=
  finish1_gives _ _ _ _ _ e ⟨fun k hk => by rw [getLsbD_keep32, hf k hk], rfl⟩

/-- Settles O3, by the lanes that each instruction makes and by the bits that the mask of the TY leaves. -/
theorem compareClampWidenLogic : Obligations.CompareClampWidenLogic := by
  unfold Obligations.CompareClampWidenLogic
  refine ⟨fun r s => ⟨cmp_gives r s, clamp_gives r s, widen_gives r s, fun w i op cond => decode_cmp_ne_ok op cond i,
    fun w op ty => decode_widen_typ op ty⟩, fun r s => ⟨?and, ?or, ?xor, ?andn, ?not⟩⟩
  case and => exact bitwise_gives rfl fun k _ => BitVec.getLsbD_and
  case or => exact bitwise_gives rfl fun k _ => BitVec.getLsbD_or
  case xor => exact bitwise_gives rfl fun k _ => BitVec.getLsbD_xor
  case andn => exact bitwise_gives rfl fun k hk => by simp [hk]
  case not => exact bitwise_gives rfl fun k hk => by simp [hk]

end Sys2Proof
end

section
/-!
Memory requests as they leave their node (R230 to R233, R237, R239, R240).
-/
namespace Sys2Proof
open Machine

variable {s : State}

/-! ### Setting out -/

/-- EF is bit 3 of OPF (R91). -/
theorem FM.view_ef (op : BitVec 8) (r : FM) : (r.view op).ef = r.opf.getLsbD 3 := by
  show (r.opf.toNat / 2 ^ 3 % 2 == 1) = r.opf.getLsbD 3
  rw [BitVec.getLsbD, Nat.testBit, Nat.shiftRight_eq_div_pow, Nat.one_and_eq_mod_two]
  rcases Nat.mod_two_eq_zero_or_one (r.opf.toNat / 2 ^ 3) with bit | bit <;> rw [bit] <;> rfl

/-- The request that a record of form M makes of its operand for the wave-order unit of the frame (R96, R232). -/
theorem reqOf_wave {op : BitVec 8} (r : FM) (data : List Word) (other : op.toNat ≠ 0x98) :
    s.reqOf s.cur (r.view op) true data =
      { f := s.cur, op := op.toNat, rid := s.ridOf s.cur.sq, lid := s.lidOf s.cur.sq
        die := s.unitOf (s.ridOf s.cur.sq) s.cur.t0.fx.toNat / 48, wave := true
        cluster := s.unitOf (s.ridOf s.cur.sq) s.cur.t0.fx.toNat, pred := r.pred.toNat, own := r.own.toNat
        succ := r.succ.toNat, ea := effAddr (r.view op) s.opA, size := granule op.toNat r.ty.toNat, ef := r.opf.getLsbD 3
        data := data, stage := .toUnit } := by
  have ea : (if op.toNat = 0x98 then effAddr (r.view op) s.opA / 64 * 64 else effAddr (r.view op) s.opA) =
      effAddr (r.view op) s.opA := if_neg other
  rw [← FM.view_ef op r, ← ea]
  rfl

/-- The request that it makes outside wave order (R230, R237). -/
theorem reqOf_now (op : BitVec 8) (r : FM) (data : List Word) : s.reqOf s.cur (r.view op) false data =
    { f := s.cur, op := op.toNat, rid := s.ridOf s.cur.sq, lid := s.lidOf s.cur.sq, die := clusterOf s.cur.sq / 48
      wave := false, cluster := clusterOf s.cur.sq, pred := r.pred.toNat, own := r.own.toNat, succ := r.succ.toNat
      ea := if op.toNat = 0x98 then effAddr (r.view op) s.opA / 64 * 64 else effAddr (r.view op) s.opA
      size := granule op.toNat r.ty.toNat, ef := r.opf.getLsbD 3, data := data, stage := .xlat } := by
  rw [← FM.view_ef op r]
  rfl

/-- From `s` to `t` the request `r` sets out for its wave-order unit by message `b`, and nothing else changes (R232). -/
def AsksUnit (s t : State) (r : MReq) (b : Nat) : Prop :=
  t = { s with serial := t.serial, reqs := t.reqs, chans := t.chans } ∧
    Posts { s with serial := s.serial + 1 } t (sqDie r.f.sq) r.die b ∧
    (∀ n, n ≠ s.serial + 1 → t.reqs.look n = s.reqs.look n) ∧ t.reqs.look (s.serial + 1) = { r with via := b }

theorem setOut_asksUnit {r : MReq} (wave : r.wave = true) : ∃ b, AsksUnit s (s.setOut r) r b := by
  let s1 : State := { s with serial := s.serial + 1, reqs := s.reqs.put (s.serial + 1) r }
  have sent : s.setOut r = s1.sendReq (s.serial + 1) (sqDie r.f.sq) r.die := if_pos wave
  obtain ⟨n, posts, reqs⟩ := sendReq_posts s1 (s.serial + 1) (sqDie r.f.sq) r.die
  rw [sent]
  refine ⟨n, sendReq_frame s1 _ _ _, ⟨posts.1, posts.2⟩, fun k hk => ?_, ?_⟩
  · rw [reqs, Tbl.look_upd_other _ _ _ _ hk]
    exact Tbl.look_put_other _ _ _ _ hk
  · rw [reqs, Tbl.look_upd_same]
    exact congrArg (fun x : MReq => { x with via := n }) (Tbl.look_put_same ..)

/-- Where no request waits to be issued again, a request of a wave chain is a new one (R266). -/
theorem ask_asksUnit (v : RecView) (data : List Word) (fresh : ∀ p ∈ s.reqs, p.2.again = false) :
    ∃ b, AsksUnit s (s.ask v true data) (s.reqOf s.cur v true data) b := by
  have none_again : s.reqs.find? (fun p => p.2.again && p.2.f == s.cur) = none := by
    rw [List.find?_eq_none]
    intro p hp
    simp [fresh p hp]
  simp only [State.ask, if_true, none_again]
  exact setOut_asksUnit rfl

theorem asksUnit_of_ask {i : Instr} {v : RecView} {data : List Word} (e : exec i s = .next (s.ask v true data))
    (fresh : ∀ p ∈ s.reqs, p.2.again = false) :
    ∃ t b, exec i s = .next t ∧ AsksUnit s t (s.reqOf s.cur v true data) b :=
  have ⟨b, asks⟩ := ask_asksUnit v data fresh
  ⟨_, b, e, asks⟩

/-- The instruction forms the request `r`, its translation begins, and every request that can move moves (R230). -/
def AsksNow (i : Instr) (s : State) (r : MReq) : Prop :=
  ∃ t : State, exec i s = .next ((t.lookUp (s.serial + 1)).pump) ∧ t = { s with serial := s.serial + 1, reqs := t.reqs } ∧
    (∀ n, n ≠ s.serial + 1 → t.reqs.look n = s.reqs.look n) ∧ t.reqs.look (s.serial + 1) = r

theorem asksNow_of_ask {i : Instr} {v : RecView} {data : List Word} (e : exec i s = .next (s.ask v false data)) :
    AsksNow i s (s.reqOf s.cur v false data) :=
  ⟨{ s with serial := s.serial + 1, reqs := s.reqs.put (s.serial + 1) (s.reqOf s.cur v false data) }, e, rfl,
    fun _ hn => Tbl.look_put_other _ _ _ _ hn, Tbl.look_put_same ..⟩

/-! ### The checks of the node (R231) -/

theorem memNode_asks {v : RecView} {wave : Bool} {data : List Word} (low : s.opA.toNat < 2 ^ 56)
    (aligned : effAddr v s.opA % granule v.op.toNat v.tyN = 0) : memNode v wave data s = .next (s.ask v wave data) := by
  simp only [memNode, ge_iff_le, not_le.mpr low, if_false, aligned, bne_self_eq_false, Bool.false_eq_true]

theorem execSwadd_asks {r : FM} (low : s.opA.toNat < 2 ^ 56) (aligned : effAddr (r.view 0x9C) s.opA % 16 = 0)
    (count : s.cur.t1.val.toNat < 2 ^ 32) : exec (.swadd r) s = .next (s.ask (r.view 0x9C) true [s.cur.t1.val]) := by
  show execSwadd r s = _
  simp only [execSwadd, ge_iff_le, not_le.mpr low, not_le.mpr count, if_false, aligned, bne_self_eq_false, Bool.false_eq_true]

theorem execSwset_asks {r : FM} (low : s.opA.toNat < 2 ^ 56) (aligned : effAddr (r.view 0x9A) s.opA % 16 = 0)
    (pos : 0 < s.cur.t1.val.toNat) (count : s.cur.t1.val.toNat < 2 ^ 32) (dest : s.destFault r.destA = none) :
    exec (.swset r) s = .next (s.ask (r.view 0x9A) true [s.cur.t1.val]) := by
  have target : ¬ (s.cur.t1.val.toNat = 0 ∨ s.cur.t1.val.toNat ≥ 2 ^ 32) := by omega
  have dest' : s.destFault (r.view 0x9A).destA = none := dest
  show execSwset r s = _
  simp only [execSwset, ge_iff_le, not_le.mpr low, if_false, aligned, bne_self_eq_false, Bool.false_eq_true]
  rw [if_neg target, dest']

theorem execPref_asks {r : FM} (low : s.opA.toNat < 2 ^ 56) : exec (.pref r) s = .next (s.ask (r.view 0x98) false []) :=
  if_neg (not_le.mpr low)

/-- An address that has a nonzero top byte is answered at once (R237). -/
theorem pref_changes {r : FM} (high : 2 ^ 56 ≤ s.opA.toNat) (sends : (r.view 0x98).hdr.ndest ≠ 0)
    (dests : Dests1Ok s (r.view 0x98)) : Changes (.pref r) s s.cur.elem fun x => { x with answers := x.answers ++
      [{ toks := s.flights s.cur (r.view 0x98) (outs1 (r.view 0x98) (s.cur.base 0 0)), via := 0 }] } := by
  refine ⟨_, (if_pos high).trans (congrArg _ (State.sendAnswer_near rfl (dests1Ok_outs dests _) (outs1_ne_nil _ sends))),
    .modElem _ _ _, State.elem_modElem_same _ _ _⟩

/-! ### The slots of an `alr` (R240) -/

theorem Machine.Ct.entry_modSlot {c : Ct} {fx : Nat} {p : Nat × FEntry} (h : c.entry fx = some p) (n : Nat) (g : Slot → Slot) :
    (c.modSlot fx n g).entry fx = some p := by
  unfold Ct.modSlot
  rw [h]
  exact h

theorem Machine.Ct.slot_of_entry {c : Ct} {fx : Nat} {p : Nat × FEntry} (h : c.entry fx = some p) (m : Nat) :
    c.slot fx m = c.slots.look (p.2.base.toNat + m) := by
  unfold Ct.slot
  rw [h]

theorem Machine.Ct.slot_modSlot {c : Ct} {fx : Nat} {p : Nat × FEntry} (h : c.entry fx = some p) (m n : Nat)
    (g : Slot → Slot) : (c.modSlot fx n g).slot fx m = if m = n then g (c.slot fx m) else c.slot fx m := by
  have written : (c.modSlot fx n g).slots = c.slots.upd (p.2.base.toNat + n) g := by
    unfold Ct.modSlot
    rw [h]
  rw [Ct.slot_of_entry (Ct.entry_modSlot h n g), Ct.slot_of_entry h, written, Tbl.look_upd]
  simp only [Nat.add_left_cancel_iff]
  by_cases e : m = n <;> simp [e]

/-- A change that does nothing the second time, made to the slots from `k` on that `l` names, is made to each of them. -/
theorem Machine.Ct.slot_foldl_modSlot {fx k i : Nat} {p : Nat × FEntry} {g : Slot → Slot} (idem : ∀ x, g (g x) = g x)
    (l : List Nat) (c : Ct) (h : c.entry fx = some p) :
    (l.foldl (fun c i => c.modSlot fx (k + i) g) c).slot fx (k + i) =
      if i ∈ l then g (c.slot fx (k + i)) else c.slot fx (k + i) := by
  induction l generalizing c with
  | nil => rfl
  | cons j l ih =>
    rw [List.foldl_cons, ih _ (Ct.entry_modSlot h _ _), Ct.slot_modSlot h]
    by_cases here : i = j <;> by_cases later : i ∈ l <;> simp [here, later, idem]

/-- The slot with its B bit set. -/
def Machine.Slot.busy (x : Slot) : Slot := { x with b := true }

theorem alrSlots_busy (s : State) (f : Firing) (k : Nat) : s.alrSlots f k true [] =
    (List.range 8).foldl (fun st i => st.modSlotOf f (k + i) Slot.busy) s := rfl

/-- A change of slots of one tile is one of its own frame store. -/
theorem foldl_modSlotOf (f : Firing) (k : Nat) (g : Slot → Slot) (l : List Nat) (s : State) :
    let t := l.foldl (fun st i => st.modSlotOf f (k + i) g) s
    t = { s with cts := t.cts } ∧
    t.ct f.sq = l.foldl (fun c i => c.modSlot f.t0.fx.toNat (k + i) g) (s.ct f.sq) := by
  induction l generalizing s with
  | nil => exact ⟨rfl, rfl⟩
  | cons j l ih =>
    obtain ⟨frame, tile⟩ := ih (s.modSlotOf f (k + j) g)
    refine ⟨frame, tile.trans ?_⟩
    rw [State.modSlotOf, State.ct_modCt_same]
    rfl

theorem execAlr_asks {r : FM} (free : ∀ i, i < 8 → (s.slotOf s.cur ((r.view 0x97).slot + i)).b = false)
    (low : s.opA.toNat < 2 ^ 56) (aligned : effAddr (r.view 0x97) s.opA % 128 = 0)
    (form : alrBad (((List.range 8).map fun i => (s.slotOf s.cur ((r.view 0x97).slot + i)).val)[7]?.getD 0) = none) :
    exec (.alr r) s = .next ((s.alrSlots s.cur (r.view 0x97).slot true []).ask (r.view 0x97) true
      ((List.range 8).map fun i => (s.slotOf s.cur ((r.view 0x97).slot + i)).val)) := by
  have idle : ((List.range 8).map fun i => s.slotOf s.cur ((r.view 0x97).slot + i)).any (·.b) = false := by
    simpa using free
  have vals : ((List.range 8).map fun i => s.slotOf s.cur ((r.view 0x97).slot + i)).map (·.val) =
      (List.range 8).map fun i => (s.slotOf s.cur ((r.view 0x97).slot + i)).val := List.map_map
  show execAlr r s = _
  simp only [execAlr, idle, vals, ge_iff_le, not_le.mpr low, if_false, aligned, bne_self_eq_false, Bool.false_eq_true, form]

theorem alr_leaves {r : FM} (fresh : ∀ p ∈ s.reqs, p.2.again = false)
    (free : ∀ i, i < 8 → (s.slotOf s.cur ((r.view 0x97).slot + i)).b = false)
    (low : s.opA.toNat < 2 ^ 56) (aligned : effAddr (r.view 0x97) s.opA % 128 = 0)
    (form : alrBad (((List.range 8).map fun i => (s.slotOf s.cur ((r.view 0x97).slot + i)).val)[7]?.getD 0) = none) :
    ∃ t, exec (.alr r) s = .next t ∧ t = { s with serial := t.serial, reqs := t.reqs, cts := t.cts, chans := t.chans } ∧
      (t.reqs.look (s.serial + 1)).data = ((List.range 8).map fun i => (s.slotOf s.cur ((r.view 0x97).slot + i)).val) ∧
      (t.reqs.look (s.serial + 1)).ea = effAddr (r.view 0x97) s.opA ∧
      (t.reqs.look (s.serial + 1)).size = 128 ∧ (t.reqs.look (s.serial + 1)).stage = .toUnit ∧
      ∀ i, i < 8 → (s.ct s.cur.sq).entry s.cur.t0.fx.toNat ≠ none →
        (t.ct s.cur.sq).slot s.cur.t0.fx.toNat ((r.view 0x97).slot + i) =
          { s.slotOf s.cur ((r.view 0x97).slot + i) with b := true } := by
  have busy := alrSlots_busy s s.cur (r.view 0x97).slot
  obtain ⟨frame, tile⟩ := foldl_modSlotOf s.cur (r.view 0x97).slot Slot.busy (List.range 8) s
  rw [← busy] at frame tile
  obtain ⟨cts, slots⟩ : ∃ c, s.alrSlots s.cur (r.view 0x97).slot true [] = { s with cts := c } := ⟨_, frame⟩
  have e := execAlr_asks free low aligned form
  rw [slots] at e tile
  obtain ⟨b, same, -, -, req⟩ := ask_asksUnit (s := { s with cts := cts }) (r.view 0x97)
    ((List.range 8).map fun i => (s.slotOf s.cur ((r.view 0x97).slot + i)).val) fresh
  have kept := congrArg State.cts same
  refine ⟨_, e, ?_, congrArg MReq.data req, congrArg MReq.ea req, congrArg MReq.size req, congrArg MReq.stage req,
    fun i hi there => ?_⟩
  · rw [kept]
    exact same
  · obtain ⟨p, entry⟩ := Option.ne_none_iff_exists'.mp there
    have taken := Ct.slot_foldl_modSlot (k := (r.view 0x97).slot) (i := i) (g := Slot.busy) (fun _ => rfl) (List.range 8) _ entry
    rw [if_pos (List.mem_range.mpr hi), ← tile] at taken
    rw [State.ct, kept]
    exact taken

/-- Settles O26: past its checks an instruction asks with the request of its record, and an `alr` with its slots busy. -/
theorem memoryRequestsLeave : Obligations.MemoryRequestsLeave := by
  unfold Obligations.MemoryRequestsLeave
  refine ⟨fun r s => ?wave, fun r s => ?now, fun r s => ?alr⟩
  case wave =>
    have unit {i : Instr} {data : List Word} (op : BitVec 8) (other : op.toNat ≠ 0x98)
        (e : exec i s = .next (s.ask (r.view op) true data)) (fresh : ∀ p ∈ s.reqs, p.2.again = false) :=
      reqOf_wave r data other ▸ asksUnit_of_ask e fresh
    have node {i : Instr} {data : List Word} (op : BitVec 8) (other : op.toNat ≠ 0x98)
        (e : exec i s = memNode (r.view op) true data s) (aligned : s.opA.toNat < 2 ^ 56 ∧
          effAddr (r.view op) s.opA % granule op.toNat r.ty.toNat = 0) :=
      unit op other (e.trans (memNode_asks aligned.1 aligned.2))
    exact ⟨node 0x90 (by decide) rfl, node 0x91 (by decide) rfl, node 0x94 (by decide) rfl, node 0x95 (by decide) rfl,
      node 0x96 (by decide) rfl, node 0x99 (by decide) rfl,
      fun ⟨low, aligned⟩ count => unit 0x9C (by decide) (execSwadd_asks low aligned count),
      fun ⟨low, aligned⟩ pos count dest => unit 0x9A (by decide) (execSwset_asks low aligned pos count dest),
      unit 0x9B (by decide) rfl⟩
  case now =>
    have now {i : Instr} {op : BitVec 8} {data : List Word} (e : exec i s = .next (s.ask (r.view op) false data)) :=
      reqOf_now op r data ▸ asksNow_of_ask e
    exact ⟨fun low aligned => now (memNode_asks low aligned), fun low aligned => now (memNode_asks low aligned),
      fun low => now (execPref_asks low), fun high sends dests => pref_changes high sends dests⟩
  case alr => exact fun fresh free low aligned form => alr_leaves fresh free low aligned form

end Sys2Proof
end

section
/-!
Passing, copying, packing, frame reads, stream marks and tags (R128, R129, R134, R144 to R146), and the operands that graph
and memory nodes refuse (R231, R356).
-/
namespace Sys2Proof
open Machine

variable {s : State}

/-! ### Where the tokens go (R90) -/

theorem outs1_one {v : RecView} (h : v.hdr.ndest = 1#2) (t : Token) :
    outs1 v t = [{ dest := v.destA, second := false, tok := t }] := by
  simp [outs1, h]

theorem outs1_both {v : RecView} (h : v.hdr.ndest = 2#2) (t : Token) :
    outs1 v t = [{ dest := v.destA, second := false, tok := t }, { dest := v.destB, second := true, tok := t }] := by
  simp [outs1, h]

theorem dests2Ok_outs {v : RecView} (h : Dests2Ok s v) (t u : Token) : s.sendFault (outs2 v t u) = none :=
  (sendFault_outs2 s v t u {} {}).trans h

/-- Settles O11: each instruction ends by `finish` with the token of its trigger, or ends there. -/
theorem passingAndCopying : Obligations.PassingAndCopying := by
  unfold Obligations.PassingAndCopying
  intro s passed
  refine ⟨fun r hd => ?id, fun r hd => ?fanout, fun r hn => outs1_both hn _, fun r hn => outs1_one hn _,
    fun r hn => outs1_one hn _, fun r hd => ?const, fun r => rfl⟩
  case id => exact finish_sends _ _ _ _ _ (dests1Ok_outs hd _) rfl
  case fanout => exact finish_sends _ _ _ _ _ (dests1Ok_outs hd _) rfl
  case const => exact finish_sends _ _ _ _ _ (dests1Ok_outs hd _) rfl

/-! ### Words made of parts -/

theorem toNat_low_half (x : Word) : ((x.extractLsb' 0 32).zeroExtend 64).toNat = x.toNat % 2 ^ 32 := by
  simp only [BitVec.toNat_setWidth, BitVec.extractLsb'_toNat, Nat.shiftRight_zero]
  omega

theorem toNat_high_half (x : Word) : ((x.extractLsb' 32 32).zeroExtend 64).toNat = x.toNat / 2 ^ 32 := by
  have word := x.isLt
  simp only [BitVec.toNat_setWidth, BitVec.extractLsb'_toNat, Nat.shiftRight_eq_div_pow]
  omega

theorem toNat_tagWord (t : Token) : (tagWord t).toNat = t.fx.toNat + t.path.toNat * 2 ^ 12 + t.rt.toNat * 2 ^ 18 := by
  have fx := t.fx.isLt
  have path := t.path.isLt
  have rt := t.rt.isLt
  simp only [tagWord, BitVec.toNat_setWidth, BitVec.toNat_append]
  rw [← Nat.shiftLeft_add_eq_or_of_lt fx, ← Nat.shiftLeft_add_eq_or_of_lt path]
  simp only [Nat.shiftLeft_eq]
  omega

theorem toNat_metaWord (x : Slot) : x.metaWord.toNat = x.p.toNat + 2 * x.b.toNat + 4 * x.prt.toNat := by
  have prt := x.prt.isLt
  have b := x.b.toNat_lt
  have p := x.p.toNat_lt
  simp only [Slot.metaWord, BitVec.toNat_setWidth, BitVec.toNat_append, BitVec.toNat_ofBool]
  rw [← Nat.shiftLeft_add_eq_or_of_lt (by omega), ← Nat.shiftLeft_add_eq_or_of_lt (by omega)]
  simp only [Nat.shiftLeft_eq]
  omega

/-! ### Frame reads (R144, R146) -/

theorem execLdfx_within {r : D1} (h : r.lit.toNat < clsSlots ((s.ct s.cur.sq).clsOf s.cur.t0.fx.toNat)) :
    exec (.ldfx r) s = finish1 s (r.view 0x16) ((s.slotOf s.cur r.lit.toNat).val, 0) :=
  if_neg (Nat.not_le.mpr h)

/-- Selector 0 of `fxinfo` answers with the entry of the frame table, 0 where there is none. -/
theorem execFxinfo_entry {r : D1} (h : r.lit.toNat = 0) : exec (.fxinfo r) s =
    finish1 s (r.view 0x1F) ((((s.ct s.cur.sq).entry s.cur.t0.fx.toNat).map fun p => p.2.word).getD 0, 0) := by
  have lit : (r.view 0x1F).lit = 0 := h
  show execFxinfo r s = _
  simp only [execFxinfo, lit]
  cases (s.ct s.cur.sq).entry s.cur.t0.fx.toNat <;> rfl

theorem execFxinfo_meta {r : D1} (h : r.lit.toNat = 1)
    (within : s.opA.toNat < clsSlots ((s.ct s.cur.sq).clsOf s.cur.t0.fx.toNat)) : exec (.fxinfo r) s =
    finish1 s (r.view 0x1F) (((s.ct s.cur.sq).slot s.cur.t0.fx.toNat s.opA.toNat).metaWord, 0) := by
  have lit : (r.view 0x1F).lit = 1 := h
  show execFxinfo r s = _
  simp only [execFxinfo, lit, ge_iff_le, if_neg (Nat.not_le.mpr within)]

theorem execFxinfo_value {r : D1} (h : r.lit.toNat = 4)
    (within : s.opA.toNat < clsSlots ((s.ct s.cur.sq).clsOf s.cur.t0.fx.toNat)) : exec (.fxinfo r) s =
    finish1 s (r.view 0x1F) (((s.ct s.cur.sq).slot s.cur.t0.fx.toNat s.opA.toNat).val, 0) := by
  have lit : (r.view 0x1F).lit = 4 := h
  show execFxinfo r s = _
  simp only [execFxinfo, lit, ge_iff_le, if_neg (Nat.not_le.mpr within)]

/-- The other selectors ask the allocator. -/
theorem execFxinfo_asks {r : D1} (h : r.lit.toNat = 2 ∨ r.lit.toNat = 3 ∨ r.lit.toNat = 5) :
    exec (.fxinfo r) s = .next (s.askAlloc .info s.cur) := by
  have lit : (r.view 0x1F).lit = r.lit.toNat := rfl
  show execFxinfo r s = _
  obtain h | h | h := h <;> simp only [execFxinfo, lit, h]

/-! ### Stream marks and tags (R134, R145) -/

theorem execEods_within {r : D2} (h : (s.opB (r.view 0x0C)).toNat ≤ 7) : exec (.eods r) s =
    finish s (r.view 0x0C) (outs1 (r.view 0x0C) { s.pass with eod := (s.opB (r.view 0x0C)).extractLsb' 0 3 }) 0 := by
  have low : BitVec.ofNat 3 (s.opB (r.view 0x0C)).toNat = (s.opB (r.view 0x0C)).extractLsb' 0 3 := by
    apply BitVec.eq_of_toNat_eq
    simp
  rw [← low]
  exact if_neg (Nat.not_lt.mpr h)

theorem execSettag_within {r : D2} (h : (s.opB (r.view 0x1D)).toNat < 2 ^ 20) : exec (.settag r) s =
    finish s (r.view 0x1D) (outs1 (r.view 0x1D) { s.pass with
      fx := (s.opB (r.view 0x1D)).extractLsb' 0 12, path := (s.opB (r.view 0x1D)).extractLsb' 12 6
      rt := (s.opB (r.view 0x1D)).extractLsb' 18 2 }) 0 :=
  if_neg (Nat.not_le.mpr h)

/-- Settles O13, by the word that each instruction makes of its operand, its token or its frame. -/
theorem packingStreamMarksTags : Obligations.PackingStreamMarksTags := by
  unfold Obligations.PackingStreamMarksTags
  refine ⟨fun s => ⟨fun r => ?pack2, fun r => ?unpk2, fun r => ?gettag, fun r h => ?ldfx, fun r h => ?entry,
    fun r h hn => ?metadata, fun r h hn => ?value⟩, fun r s => ⟨?eodt, ?eods, ?settag⟩⟩
  case pack2 =>
    exact finish1_gives _ _ _ _ _ rfl ⟨rfl, (strip_low _ _ 0 (by decide)).trans (strip_all _),
      (strip_high _ _ 32 (by decide)).trans (strip_all _)⟩
  case unpk2 => exact finish2_gives _ _ _ _ _ _ rfl ⟨BitVec.or_self, toNat_low_half _, toNat_high_half _⟩
  case gettag => exact finish1_gives _ _ _ _ _ rfl ⟨rfl, toNat_tagWord _⟩
  case ldfx => exact finish1_gives _ _ _ _ _ (execLdfx_within h) ⟨rfl, rfl⟩
  case entry => exact finish1_gives _ _ _ _ _ (execFxinfo_entry h) ⟨rfl, rfl⟩
  case metadata => exact finish1_gives _ _ _ _ _ (execFxinfo_meta h hn) ⟨rfl, toNat_metaWord _⟩
  case value => exact finish1_gives _ _ _ _ _ (execFxinfo_value h hn) ⟨rfl, rfl⟩
  case eodt => exact fun hd => finish_sends _ _ _ _ _ (dests2Ok_outs hd _ _) rfl
  case eods => exact fun hn hd => finish_sends _ _ _ _ _ (dests1Ok_outs hd _) (execEods_within hn)
  case settag => exact fun hn hd => finish_sends _ _ _ _ _ (dests1Ok_outs hd _) (execSettag_within hn)

/-! ### Operands that are refused (R356) -/

/-- A local part has 16 slots at the least (R25). -/
theorem four_le_clsSlots (c : BitVec 2) : 4 ≤ clsSlots c := by
  unfold clsSlots
  split <;> decide

theorem execStfx_perm {r : D1} (h : r.lit.toNat = 2 ∨ r.lit.toNat = 3) :
    exec (.stfx r) s = .next (s.raise s.cur (r.view 0x17) 0x05 2) := by
  have least := four_le_clsSlots ((s.ct s.cur.sq).clsOf s.cur.t0.fx.toNat)
  have within : ¬ (r.view 0x17).lit ≥ clsSlots ((s.ct s.cur.sq).clsOf s.cur.t0.fx.toNat) := by
    show ¬ r.lit.toNat ≥ _
    omega
  exact (if_neg within).trans (if_pos h)

/-- What checks 1 and 2 of R231 make of an operand that they refuse. -/
def MemRefuses (i : Instr) (v : RecView) (s : State) : Prop :=
  (2 ^ 56 ≤ s.opA.toNat → exec i s = memFails s v fkBOUNDS 0 s.cur.t1.val) ∧
    (s.opA.toNat < 2 ^ 56 → effAddr v s.opA % granule v.op.toNat v.tyN ≠ 0 →
      exec i s = memFails s v fkALIGN (granule v.op.toNat v.tyN) s.cur.t1.val)

/-- An instruction refuses them whose code begins with the two checks, whatever it does past them. -/
theorem memRefuses_of_checks {i : Instr} {v : RecView} {past : Res} (e : exec i s =
    if s.opA.toNat ≥ 2 ^ 56 then memFails s v fkBOUNDS 0 s.cur.t1.val
    else if effAddr v s.opA % granule v.op.toNat v.tyN != 0 then memFails s v fkALIGN (granule v.op.toNat v.tyN) s.cur.t1.val
    else past) : MemRefuses i v s :=
  ⟨fun high => e.trans (if_pos high), fun low odd => (e.trans (if_neg (Nat.not_le.mpr low))).trans (if_pos (bne_iff_ne.mpr odd))⟩

/-- Settles O14: each instruction checks its operands before it does anything else. -/
theorem operandFaults : Obligations.OperandFaults := by
  unfold Obligations.OperandFaults
  refine ⟨fun s => ⟨fun _ h => if_pos h, fun _ h => if_pos h, fun _ h => if_pos h, fun _ h => ⟨if_pos h, if_pos h⟩,
    fun _ h => execStfx_perm h, fun _ h => if_pos h, fun _ h => if_pos h⟩, fun r s => ?memory⟩
  case memory =>
    have checked {i : Instr} {past : Res} (op : BitVec 8) (e : exec i s = _) : MemRefuses i (r.view op) s :=
      memRefuses_of_checks (past := past) e
    exact ⟨checked 0x90 rfl, checked 0x91 rfl, checked 0x92 rfl, checked 0x93 rfl, checked 0x94 rfl, checked 0x95 rfl,
      checked 0x96 rfl, checked 0x99 rfl, checked 0x9A rfl, checked 0x9C rfl⟩

end Sys2Proof
end

section
/-!
The frame allocator: what asks it, what it takes, and its grant of a `falloc` (R138, R141, R404).
-/
namespace Sys2Proof
open Machine

variable {s : State}

/-! ### Requests on their way (R138, R404) -/

theorem regions_post (s : State) (a b : Nat) (m : Msg) : (s.post a b m).1.regions = s.regions := by
  rw [s.post_eq]

/-- From `s` to `t` the firing has set out for the allocator of its region by message `n`, and stands behind the requests on
their way to it; nothing else has changed. -/
def AsksAlloc (s t : State) (k : AKind) (f : Firing) (n : Nat) : Prop :=
  t = { s with regions := t.regions, serial := t.serial, chans := t.chans } ∧ Posts s t (sqDie f.sq) (s.allocDie f) n ∧
    t.region (s.ridOf f.sq) =
      { s.regionOf f.sq with allocIn := (s.regionOf f.sq).allocIn ++ [{ kind := k, f := f, via := n }] } ∧
    ∀ x, x ≠ s.ridOf f.sq → t.region x = s.region x

theorem askAlloc_asks (s : State) (k : AKind) (f : Firing) : ∃ n, AsksAlloc s (s.askAlloc k f) k f n := by
  let m : Msg := {
    cls := .mreq, data := toBytes 8 f.t0.val.toNat
    head := msgHead 6 8 (rqidOf f) (sqDie f.sq) (s.allocDie f) 0 0 (scratchPa (s.regionOf f.sq).famt 0)
    leg := msgLeg (sqDie f.sq) (s.allocDie f) (some f.sq) (some (s.regionOf f.sq).famt) }
  let posted := s.post (sqDie f.sq) (s.allocDie f) m
  have asked : s.askAlloc k f = posted.1.modRegion (s.ridOf f.sq) fun r =>
    { r with allocIn := r.allocIn ++ [{ kind := k, f := f, via := posted.2 }] } := rfl
  have region (x : Nat) : posted.1.region x = s.region x := congrArg (Tbl.look · x) (regions_post ..)
  rw [asked]
  refine ⟨posted.2, ?_, posts_post .., ?_, fun x hx => ?_⟩
  · have frame : posted.1 = _ := s.post_eq ..
    rw [frame]
    rfl
  · rw [State.region_modRegion_same, region]
    rfl
  · rw [State.region_modRegion_other _ _ _ _ hx, region]

/-- ALLOC_REQUEST takes the oldest request that has come, where the allocator has room for it (R138). -/
theorem execAllocRequest_takes {q : AReq} (first : (s.region s.at_.a).allocIn.find? (fun x => !s.crossing x.via) = some q)
    (room : (s.region s.at_.a).allocQ.length < 256) : exec .allocRequest s = .next (s.modRegion s.at_.a fun r => { r with
      allocIn := r.allocIn.erase q, allocQ := r.allocQ ++ [{ q with since := s.cyc (sqDie r.famt) }] }) := by
  show execAllocRequest s = _
  simp only [execAllocRequest, first, ge_iff_le, if_neg (Nat.not_le.mpr room)]

/-- Settles O16, by what asking the allocator changes and by the oldest request that has come to it. -/
theorem allocatorRequests : Obligations.AllocatorRequests := by
  unfold Obligations.AllocatorRequests
  refine ⟨fun s => ?asks, fun s q => ?taken⟩
  case asks =>
    have asks {i : Instr} {k : AKind} (e : exec i s = .next (s.askAlloc k s.cur)) :
        ∃ t n, exec i s = .next t ∧ AsksAlloc s t k s.cur n :=
      have ⟨n, leaves⟩ := askAlloc_asks s k s.cur
      ⟨_, n, e, leaves⟩
    exact ⟨fun _ => asks rfl, fun _ => asks rfl, fun _ => asks rfl, fun _ => asks rfl, fun _ => asks rfl,
      fun _ h => asks (if_neg (Nat.not_le.mpr h)), fun _ h => asks (execFxinfo_asks h)⟩
  case taken =>
    intro rid first room
    exact ⟨_, execAllocRequest_takes first room, rfl, fun _ hx => State.region_modRegion_other _ _ _ _ hx,
      State.region_modRegion_same ..⟩

/-! ### A grant (R138, R141) -/

theorem firstFree_lowest {p : Nat → Bool} {g : Nat} (free : p g = false) {n i : Nat} (le : i ≤ g) (lt : g < i + n)
    (below : ∀ k, i ≤ k → k < g → p k = true) : firstFree n i p = some g := by
  induction n generalizing i with
  | zero => omega
  | succ n ih =>
    obtain rfl | above := Nat.eq_or_lt_of_le le
    · simp [firstFree, free]
    · rw [firstFree, if_pos (below i (Nat.le_refl i) above)]
      exact ih above (by omega) fun k hk => below k (by omega)

theorem lowest_eq {r : Region} {g : Nat} (lt : g < 4096) (free : (r.fx.look g).alloc = false)
    (below : ∀ k, k < g → (r.fx.look k).alloc = true) : r.lowest = some g :=
  firstFree_lowest free (Nat.zero_le g) (by omega) fun k _ => below k

/-- The allocator's queue goes on without the request that it grants (R138). -/
def Machine.State.granting (s : State) (rid : Nat) (rest : List AReq) : State :=
  s.modRegion rid fun r => { r with allocQ := rest, lastGrant := s.cyc ((s.region rid).famt / 4096) }

/-- The oldest request is granted where it can be, and no `spawn` goes on behind it. -/
theorem execAllocGrant_head {q : AReq} {rest : List AReq} {t : State} (queue : (s.region s.at_.a).allocQ = q :: rest)
    (granted : (s.granting s.at_.a rest).tryGrant s.at_.a q = some t) (idle : ∀ c ∈ t.cts, c.2.spawnWait = []) :
    exec .allocGrant s = .next t := by
  have first : firstGrant s s.at_.a [] (q :: rest) = some t := by
    unfold State.granting at granted
    simp only [firstGrant, List.nil_append, granted]
  have none_waits : (t.cts.filter fun p => t.ridOf p.1 == s.at_.a && !p.2.spawnWait.isEmpty) = [] := by
    rw [List.filter_eq_nil_iff]
    intro p hp
    simp [idle p hp]
  show execAllocGrant s = _
  simp only [execAllocGrant, queue, first, none_waits, List.foldl_nil]

/-- From `s` to `t` the tokens of a firing have been sent as an answer from die `d` by message `b`; nothing else has changed
(R124, R404). -/
structure AnswersFrom (s t : State) (d : Nat) (f : Firing) (toks : List Flight) (b : Nat) : Prop where
  posts : Posts s t d (sqDie f.sq) b
  frame : t = { s with elems := t.elems, serial := t.serial, chans := t.chans }
  others : ∀ e, e ≠ f.elem → t.elem e = s.elem e
  elem : t.elem f.elem = { s.elem f.elem with answers := (s.elem f.elem).answers ++ [{ toks := toks, via := b }] }

theorem post_modElem_answers (d : Nat) (f : Firing) (toks : List Flight) (m : Msg) : AnswersFrom s
    ((s.post d (sqDie f.sq) m).1.modElem f.elem fun x => { x with
      answers := x.answers ++ [{ toks := toks, via := (s.post d (sqDie f.sq) m).2 }] }) d f toks (s.post d (sqDie f.sq) m).2 := by
  have elem (e : Nat) : (s.post d (sqDie f.sq) m).1.elem e = s.elem e := by rw [s.post_eq]; rfl
  refine ⟨posts_post .., ?_, fun e he => (State.elem_modElem_other _ _ _ _ he).trans (elem e), ?_⟩
  · rw [s.post_eq]
    rfl
  · rw [State.elem_modElem_same, elem]

theorem sendAnswer_answers {d : Nat} {f : Firing} {v : RecView} {w2 : Word} {outs : List Out} (ok : s.sendFault outs = none)
    (sent : outs ≠ []) : ∃ b, AnswersFrom s (s.sendAnswer d f v w2 outs) d f (s.flights f v outs) b := by
  have some : outs.isEmpty = false := List.isEmpty_eq_false_iff.mpr sent
  simp only [State.sendAnswer, ok, some, Bool.false_eq_true, if_false]
  exact ⟨_, post_modElem_answers ..⟩

/-- A part of the regions that is kept in the one that is written is kept in all. -/
theorem region_modRegion_keeps {β : Type} {π : Region → β} {g : Region → Region} (same : ∀ r, π (g r) = π r) (s : State)
    (rid x : Nat) : π ((s.modRegion rid g).region x) = π (s.region x) := by
  by_cases h : x = rid
  · rw [h, State.region_modRegion_same, same]
  · rw [State.region_modRegion_other _ _ _ _ h]

theorem lidOf_modRegion {g : Region → Region} (same : ∀ r, (g r).load = r.load) (s : State) (rid q : Nat) :
    (s.modRegion rid g).lidOf q = s.lidOf q :=
  region_modRegion_keeps same s rid (s.ridOf q)

theorem fxRec_modRegion {g : Region → Region} (same : ∀ r, (g r).fx = r.fx) (s : State) (rid r x : Nat) :
    (s.modRegion rid g).fxRec r x = s.fxRec r x :=
  congrArg (Tbl.look · x) (region_modRegion_keeps same s rid r)

/-- What a region's own record says of its frames and its queue is not in a token. -/
theorem flights_modRegion {g : Region → Region} (same : ∀ r, (g r).load = r.load) (s : State) (rid : Nat) (f : Firing)
    (v : RecView) (outs : List Out) : (s.modRegion rid g).flights f v outs = s.flights f v outs := by
  unfold State.flights
  rw [lidOf_modRegion same]
  rfl

theorem flights_newFrame (s : State) (rid g : Nat) (slot0 slot1 link : Word) (node : Nat) (f : Firing) (v : RecView)
    (outs : List Out) : (s.newFrame rid g slot0 slot1 link node).flights f v outs = s.flights f v outs :=
  flights_modRegion (fun _ => by rfl) ..

theorem flights_granting (s : State) (rid : Nat) (rest : List AReq) (f : Firing) (v : RecView) (outs : List Out) :
    (s.granting rid rest).flights f v outs = s.flights f v outs :=
  flights_modRegion (fun _ => by rfl) ..

/-- A `falloc` is granted the lowest free FX, and answered under it (R138, R141). -/
theorem tryGrant_falloc {rid g : Nat} {q : AReq} (kind : q.kind = .falloc)
    (room : (s.region rid).freeCount - (s.region rid).resCount > 0) (low : (s.region rid).lowest = some g) :
    s.tryGrant rid q = some ((s.newFrame rid g (mkSlot0 q.f.t0.fx.toNat 0 0 noCont) 0 0 0).answer1 (sqDie (s.region rid).famt)
      q.f { q.f.base q.f.t0.kind q.f.t0.val with fx := BitVec.ofNat 12 g, path := 0 }) := by
  simp [State.tryGrant, kind, room, low]

theorem newFrame_answer1 {rid g d : Nat} {slot0 slot1 link : Word} {node : Nat} {f : Firing} {tok : Token}
    (dests : Dests1Ok s (s.view f.key)) (sends : (s.view f.key).hdr.ndest ≠ 0) : ∃ b,
    AnswersFrom (s.newFrame rid g slot0 slot1 link node) ((s.newFrame rid g slot0 slot1 link node).answer1 d f tok) d f
      (s.flights f (s.view f.key) (outs1 (s.view f.key) tok)) b := by
  rw [← flights_newFrame s rid g slot0 slot1 link node]
  exact sendAnswer_answers (dests1Ok_outs dests tok) (outs1_ne_nil tok sends)

/-- Settles O17: the new frame is written into the region, and the answer is sent from there. -/
theorem fallocGrant : Obligations.FallocGrant := by
  unfold Obligations.FallocGrant
  intro s q rest g rid r v p queue kind room lt free below sends dests idle
  let u := s.granting rid rest
  let u' := u.newFrame rid g (mkSlot0 p.fx.toNat 0 0 noCont) 0 0 0
  have here : u.region rid = { r with allocQ := rest, lastGrant := s.cyc (r.famt / 4096) } := State.region_modRegion_same ..
  have granted : u.tryGrant rid q = some _ :=
    tryGrant_falloc kind (by rw [here]; exact room) (by rw [here]; exact lowest_eq lt free below)
  obtain ⟨b, posts, frame, others, elem⟩ : ∃ b, AnswersFrom u' _ (sqDie (u.region rid).famt) q.f _ b :=
    newFrame_answer1 (tok := { q.f.base p.kind p.val with fx := BitVec.ofNat 12 g, path := 0 }) dests sends
  generalize u'.answer1 _ _ _ = t at *
  have written : u' = { s with regions := u'.regions } := rfl
  have regions : t.regions = u'.regions := by rw [frame]
  have region (x : Nat) : t.region x = u'.region x := congrArg (Tbl.look · x) regions
  have record (k : Nat) : t.fxRec rid k = u'.fxRec rid k := congrArg (fun y : Region => y.fx.look k) (region rid)
  have cts : t.cts = s.cts := by rw [frame, written]
  have elems (e : Nat) : u'.elem e = s.elem e := rfl
  refine ⟨t, b, execAllocGrant_head queue granted (cts ▸ idle), ?queue, ?posts, ?new, fun k hk => ?kept, fun x hx => ?away,
    ?frame, others, ?answer⟩
  case queue => rw [region, show u'.region rid = _ from State.region_modRegion_same .., here]
  case posts =>
    rw [here] at posts
    exact posts
  case new =>
    rw [record]
    exact State.fxRec_modFx_same ..
  case kept =>
    rw [record, show u'.fxRec rid k = u.fxRec rid k from State.fxRec_modFx_other _ _ _ _ _ _ (.inr hk)]
    exact fxRec_modRegion (fun _ => by rfl) ..
  case away =>
    rw [region]
    exact (State.region_modRegion_other _ _ _ _ hx).trans (State.region_modRegion_other _ _ _ _ hx)
  case frame =>
    rw [regions]
    rw [written] at frame
    exact frame
  case answer =>
    rw [elem, elems, flights_granting]
    rfl

end Sys2Proof
end

section
/-!
How frames are released: what begins a release and sends the tokens that leave the frame, and how it completes (R139, R142,
R150, R154, R155).
-/
namespace Sys2Proof
open Machine

variable {s : State}

/-! ### The beginning of a release (R139 steps 1 and 3) -/

/-- Between `s` and `t` releases have begun, and notices of them may have gone out; memory, the elements and the tiles are as
they were. -/
def OnlyReleases (s t : State) : Prop :=
  t = { s with regions := t.regions, serial := t.serial, chans := t.chans, wctx := t.wctx, reqs := t.reqs }

theorem OnlyReleases.refl (s : State) : OnlyReleases s s := rfl

theorem OnlyReleases.trans {t u : State} (a : OnlyReleases s t) (b : OnlyReleases t u) : OnlyReleases s u := by
  unfold OnlyReleases at a b ⊢
  rw [b, a]

theorem OnlyReleases.foldl {f : State → Nat → State} (h : ∀ t k, OnlyReleases t (f t k)) (l : List Nat) (s : State) :
    OnlyReleases s (l.foldl f s) := by
  induction l generalizing s with
  | nil => exact .refl s
  | cons k l ih => exact (h s k).trans (ih _)

/-- Between `s` and `t` messages have been posted, and no more. -/
def OnlyMessages (s t : State) : Prop := t = { s with serial := t.serial, chans := t.chans }

theorem OnlyMessages.trans {t u : State} (a : OnlyMessages s t) (b : OnlyMessages t u) : OnlyMessages s u := by
  unfold OnlyMessages at a b ⊢
  rw [b, a]

theorem OnlyMessages.postMgmt (s : State) (a b n : Nat) : OnlyMessages s (s.postMgmt a b n).1 := s.post_eq a b _

theorem OnlyMessages.postNotices (s : State) (home fx : Nat) (dies : List Nat) :
    OnlyMessages s (s.postNotices home fx dies).1 := by
  induction dies generalizing s with
  | nil => rfl
  | cons d l ih => exact (OnlyMessages.postMgmt s home d fx).trans (ih _)

theorem postNotices_dies (s : State) (home fx : Nat) (dies : List Nat) :
    (s.postNotices home fx dies).2.map Prod.fst = dies := by
  induction dies generalizing s with
  | nil => rfl
  | cons d l ih => exact congrArg (d :: ·) (ih _)

/-- The notices of the release of a frame, with the dies that they go to. -/
def Machine.State.releaseNotices (s : State) (rid fx : Nat) : State × List (Nat × Nat) :=
  s.postNotices (sqDie (s.region rid).famt) fx (((s.holders rid fx).map sqDie).eraseDups)

/-- What marking does to the frame's record. -/
def Machine.State.releasingRec (s : State) (rid fx : Nat) (x : FxRec) : FxRec :=
  { x with releasing := true, waitCt := s.holders rid fx, notices := (s.releaseNotices rid fx).2, acks := [] }

theorem markReleasing_eq (s : State) (rid fx : Nat) : s.markReleasing rid fx =
    ((s.releaseNotices rid fx).1.modFx rid fx (s.releasingRec rid fx)).closeCtx rid fx := rfl

theorem fxRec_releaseNotices (s : State) (rid fx r x : Nat) : (s.releaseNotices rid fx).1.fxRec r x = s.fxRec r x := by
  have messages : (s.releaseNotices rid fx).1 = _ := OnlyMessages.postNotices ..
  rw [messages]
  rfl

theorem fxRec_closeCtx (s : State) (rid fx r x : Nat) : (s.closeCtx rid fx).fxRec r x = s.fxRec r x := rfl

theorem fxRec_markReleasing_same (s : State) (rid fx : Nat) :
    (s.markReleasing rid fx).fxRec rid fx = s.releasingRec rid fx (s.fxRec rid fx) := by
  rw [markReleasing_eq, fxRec_closeCtx, State.fxRec_modFx_same, fxRec_releaseNotices]

theorem fxRec_markReleasing_other {rid fx r x : Nat} (h : r ≠ rid ∨ x ≠ fx) :
    (s.markReleasing rid fx).fxRec r x = s.fxRec r x := by
  rw [markReleasing_eq, fxRec_closeCtx, State.fxRec_modFx_other _ _ _ _ _ _ h, fxRec_releaseNotices]

theorem markReleasing_only (s : State) (rid fx : Nat) : OnlyReleases s (s.markReleasing rid fx) := by
  have messages : (s.releaseNotices rid fx).1 = _ := OnlyMessages.postNotices ..
  unfold OnlyReleases
  rw [markReleasing_eq, messages]
  rfl

/-- The retired iteration frames below a frame, which are released with it (R139 step 3). -/
def Machine.State.retiredBelow (s : State) (rid fx : Nat) : List Nat :=
  ((s.region rid).fx.filter fun p =>
    p.2.alloc && !p.2.releasing && linkIt p.2.link && linkRtd p.2.link && slot0Pfx p.2.slot0 == fx).map (·.1)

theorem beginRelease_done {rid fx n : Nat} (h : ¬ ((s.fxRec rid fx).alloc = true ∧ (s.fxRec rid fx).releasing = false)) :
    s.beginRelease rid fx n = s := by
  cases n with
  | zero => rfl
  | succ n => exact if_pos (by simpa [imp_iff_not_or] using h)

theorem beginRelease_marks {rid fx : Nat} (n : Nat) (alloc : (s.fxRec rid fx).alloc = true)
    (fresh : (s.fxRec rid fx).releasing = false) : s.beginRelease rid fx (n + 1) =
    ((s.markReleasing rid fx).retiredBelow rid fx).foldl (fun t k => t.beginRelease rid k n) (s.markReleasing rid fx) := by
  simp only [State.beginRelease, alloc, fresh]
  rfl

theorem beginRelease_only (s : State) (rid fx n : Nat) : OnlyReleases s (s.beginRelease rid fx n) := by
  induction n generalizing s fx with
  | zero => exact .refl s
  | succ n ih =>
    by_cases begins : (s.fxRec rid fx).alloc = true ∧ (s.fxRec rid fx).releasing = false
    · obtain ⟨alloc, fresh⟩ := begins
      rw [beginRelease_marks n alloc fresh]
      exact (markReleasing_only s rid fx).trans (.foldl (fun t k => ih t k) _ _)
    · rw [beginRelease_done begins]
      exact .refl s

/-- A frame whose release has begun is not marked again. -/
theorem fxRec_beginRelease_of_releasing (s : State) (rid fx n : Nat) {r x : Nat} (h : (s.fxRec r x).releasing = true) :
    (s.beginRelease rid fx n).fxRec r x = s.fxRec r x := by
  induction n generalizing s fx with
  | zero => rfl
  | succ n ih =>
    by_cases begins : (s.fxRec rid fx).alloc = true ∧ (s.fxRec rid fx).releasing = false
    · obtain ⟨alloc, fresh⟩ := begins
      have apart : r ≠ rid ∨ x ≠ fx := by
        by_contra same
        obtain ⟨rfl, rfl⟩ : r = rid ∧ x = fx := by omega
        simp [h] at fresh
      have marked : (s.markReleasing rid fx).fxRec r x = s.fxRec r x := fxRec_markReleasing_other apart
      rw [beginRelease_marks n alloc fresh, ← marked]
      refine List.foldlRecOn (motive := fun t : State => t.fxRec r x = (s.markReleasing rid fx).fxRec r x) _ _ rfl
        fun t kept k _ => ?_
      exact (ih t k (by rw [kept, marked, h])).trans kept
    · rw [beginRelease_done begins]

theorem fxRec_beginRelease_same {rid fx : Nat} (n : Nat) (alloc : (s.fxRec rid fx).alloc = true)
    (fresh : (s.fxRec rid fx).releasing = false) :
    (s.beginRelease rid fx (n + 1)).fxRec rid fx = s.releasingRec rid fx (s.fxRec rid fx) := by
  rw [beginRelease_marks n alloc fresh, ← fxRec_markReleasing_same]
  have releasing : ((s.markReleasing rid fx).fxRec rid fx).releasing = true := by rw [fxRec_markReleasing_same]; rfl
  refine List.foldlRecOn (motive := fun t : State => t.fxRec rid fx = (s.markReleasing rid fx).fxRec rid fx) _ _ rfl
    fun t kept k _ => ?_
  exact (fxRec_beginRelease_of_releasing t rid k n (by rw [kept, releasing])).trans kept

theorem release_only (s : State) (rid fx : Nat) : OnlyReleases s (s.release rid fx) := by
  unfold State.release
  split
  · exact (beginRelease_only ..).trans (.foldl (fun t r => beginRelease_only t r 0 4096) _ _)
  · exact beginRelease_only ..

theorem fxRec_release_same {rid fx : Nat} (inner : fx ≠ 0) (alloc : (s.fxRec rid fx).alloc = true)
    (fresh : (s.fxRec rid fx).releasing = false) : (s.release rid fx).fxRec rid fx = s.releasingRec rid fx (s.fxRec rid fx) := by
  rw [State.release, if_neg inner]
  exact fxRec_beginRelease_same 4095 alloc fresh

/-! ### The token that leaves a frame (R142, R150) -/

theorem ofNat_slot0Pfx (w : Word) : BitVec.ofNat 12 (slot0Pfx w) = w.extractLsb' 52 12 := by
  apply BitVec.eq_of_toNat_eq
  simp [slot0Pfx, fld, Nat.shiftRight_eq_div_pow]

/-- The token of a firing under the tag that slot 0 of its frame holds. -/
def Machine.State.leaving (s : State) (w : Word) : Token :=
  { s.pass with fx := w.extractLsb' 52 12, path := w.extractLsb' 46 6, rt := w.extractLsb' 44 2 }

theorem execRet_releases {r : D1} {w : Word} (slot : (s.slotOf s.cur 0).val = w)
    (dest : s.destFault (w.extractLsb' 16 28) = none) :
    exec (.ret r) s = .next ((s.modElem s.cur.elem fun x => { x with
      outStage := x.outStage ++ s.flights s.cur (r.view 0x15) [{ dest := w.extractLsb' 16 28, tok := s.leaving w }] }).release
        (s.ridOf s.cur.sq) s.cur.t0.fx.toNat) := by
  subst slot
  unfold State.leaving
  rw [← ofNat_slot0Pfx]
  show execRet r s = _
  unfold execRet
  rw [finishWith_ok]
  · rfl
  · exact sendFault_single dest

/-- The iteration frame `fx` is retired, and its parent `p` counts one iteration fewer (R150). -/
def Machine.State.retireFrame (s : State) (rid fx p node : Nat) : State :=
  let t := s.modFx rid fx fun x => { x with link := x.link ||| 0x2000000000000000#64 }
  t.setAdm rid p (linkAdm (t.fxRec rid p).link - 1) node

theorem execLoopout_ends {r : D2} {w : Word} {fr : FxRec} (slot : (s.slotOf s.cur 0).val = w)
    (record : s.fxRec (s.ridOf s.cur.sq) s.cur.t0.fx.toNat = fr) (dests : Dests1Ok s (r.view 0x19))
    (iter : linkIt fr.link = true) (runs : linkRtd fr.link = false) (fresh : fr.releasing = false) {t : State}
    (sent : (s.modElem s.cur.elem fun x => { x with
      outStage := x.outStage ++ s.flights s.cur (r.view 0x19) (outs1 (r.view 0x19) (s.leaving w)) }) = t) :
    exec (.loopout r) s = .next (if linkSv fr.link then t.release (s.ridOf s.cur.sq) s.cur.t0.fx.toNat
      else t.retireFrame (s.ridOf s.cur.sq) s.cur.t0.fx.toNat (slot0Pfx fr.slot0) fr.loopNode) := by
  subst slot record sent
  unfold State.leaving
  rw [← ofNat_slot0Pfx]
  show execLoopout r s = _
  simp only [execLoopout, iter, runs, fresh, Bool.not_true, Bool.or_self, Bool.false_eq_true, if_false]
  exact finishWith_ok (dests1Ok_outs dests _)

theorem execLoopout_refuses {r : D2} (h : linkIt (s.fxRec (s.ridOf s.cur.sq) s.cur.t0.fx.toNat).link = false ∨
    linkRtd (s.fxRec (s.ridOf s.cur.sq) s.cur.t0.fx.toNat).link = true ∨
    (s.fxRec (s.ridOf s.cur.sq) s.cur.t0.fx.toNat).releasing = true) :
    exec (.loopout r) s = .next (s.raise s.cur (r.view 0x19) 0x01 7) :=
  if_pos (by simpa [or_assoc] using h)

/-! ### Fields of the link word (R137) -/

theorem fld_setField {lo len : Nat} (fits : lo + len ≤ 64) (w : Word) (x : Nat) :
    fld (setField w lo len x).toNat lo len = x % 2 ^ len := by
  refine Nat.eq_of_testBit_eq fun i => ?_
  rw [testBit_fld, setField, BitVec.toNat_ofNat, Nat.testBit_mod_two_pow, testBit_replaced, Nat.testBit_mod_two_pow]
  by_cases inside : i < len
  · simp [inside, show lo + i < 64 by omega]
  · simp [inside]

theorem linkAdm_setField {n : Nat} (h : n < 16) (w : Word) : linkAdm (setField w 44 4 n) = n :=
  (fld_setField (by decide) w n).trans (Nat.mod_eq_of_lt h)

theorem linkRtd_retired (w : Word) : linkRtd (w ||| 0x2000000000000000#64) = true := by
  simp [linkRtd]

theorem fxRec_modCt (s : State) (q : Nat) (g : Ct → Ct) (r x : Nat) : (s.modCt q g).fxRec r x = s.fxRec r x := rfl

theorem retireFrame_frame (s : State) (rid fx p node : Nat) : s.retireFrame rid fx p node =
    { s with regions := (s.retireFrame rid fx p node).regions, cts := (s.retireFrame rid fx p node).cts } := by
  simp only [State.retireFrame, State.setAdm, State.modCt, State.modFx, State.modRegion]

theorem linkRtd_retireFrame {rid fx p node : Nat} (h : p ≠ fx) :
    linkRtd ((s.retireFrame rid fx p node).fxRec rid fx).link = true := by
  unfold State.retireFrame State.setAdm
  rw [fxRec_modCt, State.fxRec_modFx_other _ _ _ _ _ _ (.inr h.symm), State.fxRec_modFx_same]
  exact linkRtd_retired _

theorem linkAdm_retireFrame {rid fx p node : Nat} (h : p ≠ fx) :
    linkAdm ((s.retireFrame rid fx p node).fxRec rid p).link = linkAdm (s.fxRec rid p).link - 1 := by
  have lt : linkAdm (s.fxRec rid p).link < 16 := fld_lt _ _ _
  unfold State.retireFrame State.setAdm
  rw [fxRec_modCt, State.fxRec_modFx_same, State.fxRec_modFx_other _ _ _ _ _ _ (.inr h)]
  exact linkAdm_setField (by omega) _

/-! ### A tile gives notice (R139 step 2) -/

theorem startRestore_none {q : Nat} (h : (s.ct q).restoreQ = []) : s.startRestore q = s := by
  simp only [State.startRestore, h]
  cases (s.ct q).restoring <;> rfl

theorem serveSpawns_none {q : Nat} (n : Nat) (h : (s.ct q).spawnWait = []) : s.serveSpawns q n = s := by
  cases n <;> simp [State.serveSpawns, h]

theorem restoreQ_discardFx (c : Ct) (fx : Nat) : (c.discardFx fx).restoreQ = c.restoreQ.filter (· != fx) := by
  simp only [Ct.discardFx]
  split <;> rfl

theorem spawnWait_discardFx (c : Ct) (fx : Nat) : (c.discardFx fx).spawnWait = c.spawnWait := by
  simp only [Ct.discardFx]
  split <;> rfl

theorem not_mem_spilledFx_discardFx (c : Ct) (fx : Nat) : fx ∉ (c.discardFx fx).spilledFx := by
  simp [Ct.discardFx]

theorem park_discardFx (c : Ct) (fx : Nat) : ∀ k ∈ (c.discardFx fx).park, k.fl.tok.fx.toNat ≠ fx := by
  simp [Ct.discardFx]

/-- The tile `q` discards what it holds of the frame, and its answer sets out. -/
def Machine.State.discardOn (s : State) (rid fx q : Nat) : State × Nat :=
  ((s.modCt q fun c => c.discardFx fx).uncharge q ((s.ct q).charged fx)).postMgmt (sqDie q) (sqDie (s.region rid).famt) fx

/-- It changes the tile, the charge of its spore-store part, and what is on its way between the dies. -/
theorem discardOn_frame (s : State) (rid fx q : Nat) : (s.discardOn rid fx q).1 = { s with
    cts := s.cts.upd q fun c => c.discardFx fx
    spores := (s.discardOn rid fx q).1.spores
    serial := (s.discardOn rid fx q).1.serial
    chans := (s.discardOn rid fx q).1.chans } := by
  have messages : (s.discardOn rid fx q).1 = _ := OnlyMessages.postMgmt ..
  rw [messages]
  rfl

theorem ct_discardOn (s : State) (rid fx q : Nat) : (s.discardOn rid fx q).1.ct q = (s.ct q).discardFx fx := by
  rw [discardOn_frame]
  exact State.ct_modCt_same s q _

theorem fxRec_discardOn (s : State) (rid fx q r x : Nat) : (s.discardOn rid fx q).1.fxRec r x = s.fxRec r x := by
  rw [discardOn_frame]
  rfl

theorem mem_discardOn (s : State) (rid fx q : Nat) : (s.discardOn rid fx q).1.mem = s.mem := by
  rw [discardOn_frame]

/-- The record with the answer of tile `q`, whose local part had weight `w` (R139 step 2). -/
def Machine.FxRec.noticed (x : FxRec) (q w n : Nat) : FxRec :=
  { x with weight := x.weight + w, waitCt := x.waitCt.filter (· != q), acks := x.acks ++ [n] }

/-- The `mergeo` contexts of a frame on the elements of a tile go. -/
def Machine.State.dropCtxs (s : State) (q fx : Nat) : State :=
  [0, 1, 2, 3].foldl (fun st el =>
    if (st.elem (q * 4 + el)).ctxs.isEmpty then st
    else st.modElem (q * 4 + el) fun x => { x with ctxs := x.ctxs.filter fun k => k.fx != fx }) s

theorem dropCtxs_frame (s : State) (q fx : Nat) : s.dropCtxs q fx = { s with elems := (s.dropCtxs q fx).elems } := by
  refine List.foldlRecOn (motive := fun t : State => t = { s with elems := t.elems }) _ _ rfl fun t same el _ => ?_
  split
  · exact same
  · rw [same]
    rfl

theorem ct_dropCtxs (s : State) (q fx k : Nat) : (s.dropCtxs q fx).ct k = s.ct k := by
  rw [dropCtxs_frame]
  rfl

theorem fxRec_dropCtxs (s : State) (q fx r x : Nat) : (s.dropCtxs q fx).fxRec r x = s.fxRec r x := by
  rw [dropCtxs_frame]
  rfl

theorem mem_dropCtxs (s : State) (q fx : Nat) : (s.dropCtxs q fx).mem = s.mem := by
  rw [dropCtxs_frame]

/-- RELEASE_NOTICE at tile `q`, which waits for no restore and no `spawn`. -/
theorem execReleaseNotice_notes {rid fx q : Nat} (place : s.at_.a = rid ∧ s.at_.b = fx ∧ s.at_.c = q)
    (waits : q ∈ (s.fxRec rid fx).waitCt)
    (there : ∀ p ∈ (s.fxRec rid fx).notices, p.1 = sqDie q → s.crossing p.2 = false)
    (restores : (s.ct q).restoreQ = []) (spawns : (s.ct q).spawnWait = []) :
    exec .releaseNotice s = .next (((s.discardOn rid fx q).1.modFx rid fx fun x =>
      x.noticed q (((s.ct q).slot fx 2).val.toNat % 2 ^ 32) (s.discardOn rid fx q).2).dropCtxs q fx) := by
  obtain ⟨rfl, rfl, rfl⟩ := place
  obtain ⟨t, n, gone⟩ : ∃ t n, s.discardOn s.at_.a s.at_.b s.at_.c = (t, n) := ⟨_, _, rfl⟩
  have ct : t.ct s.at_.c = (s.ct s.at_.c).discardFx s.at_.b := by rw [← ct_discardOn s s.at_.a, gone]
  have come : ((s.fxRec s.at_.a s.at_.b).notices.any fun p => p.1 == sqDie s.at_.c && s.crossing p.2) = false := by
    simpa using there
  have contained : (s.fxRec s.at_.a s.at_.b).waitCt.contains s.at_.c = true := List.contains_iff_mem.mpr waits
  rw [gone]
  unfold State.discardOn at gone
  show execReleaseNotice s = _
  simp only [execReleaseNotice, contained, come, gone, Bool.not_true, Bool.or_self, Bool.false_eq_true, if_false]
  rw [startRestore_none, serveSpawns_none]
  · rfl
  · rw [State.modFx_ct, ct, spawnWait_discardFx, spawns]
  · rw [State.modFx_ct, ct, restoreQ_discardFx, restores]
    rfl

/-! ### A release completes (R139 step 4, R155) -/

/-- Every tile has answered for the frame and no memory request keeps it, nor does an iteration or an `ffree` wait for it. -/
structure ReleaseDone (s : State) (rid fx : Nat) : Prop where
  alloc : (s.fxRec rid fx).alloc = true
  releasing : (s.fxRec rid fx).releasing = true
  noticed : (s.fxRec rid fx).waitCt = []
  acked : ∀ n ∈ (s.fxRec rid fx).acks, s.crossing n = false
  chain : (s.wctx.look (rid * 4096 + fx)).chain = []
  outer : linkIt (s.fxRec rid fx).link = false
  undrawn : linkDrw (s.fxRec rid fx).link = false
  answered : (s.fxRec rid fx).answers = []

/-- The FX goes back to the pool, and its weight to the load. -/
def Machine.State.freeFrame (s : State) (rid fx : Nat) : State :=
  let granted := { s with wctx := s.wctx.del (rid * 4096 + fx) }.modRegion rid fun r =>
    { r with lastGrant := s.cyc (sqDie r.famt) }
  (granted.modFx rid fx fun _ => {}).modLoad (s.region rid).load fun l =>
    { l with returned := l.returned + BitVec.ofNat 64 (s.fxRec rid fx).weight }

theorem freeFrame_frame (s : State) (rid fx : Nat) : s.freeFrame rid fx = { s with
    regions := (s.freeFrame rid fx).regions, loads := (s.freeFrame rid fx).loads, wctx := (s.freeFrame rid fx).wctx } := by
  simp only [State.freeFrame, State.modLoad, State.modFx, State.modRegion]

theorem fxRec_modLoad (s : State) (l : Nat) (g : Load → Load) (r x : Nat) : (s.modLoad l g).fxRec r x = s.fxRec r x := rfl

theorem fxRec_freeFrame_same (s : State) (rid fx : Nat) : (s.freeFrame rid fx).fxRec rid fx = {} := by
  rw [State.freeFrame, fxRec_modLoad, State.fxRec_modFx_same]

theorem fxRec_freeFrame_other {rid fx k : Nat} (h : k ≠ fx) : (s.freeFrame rid fx).fxRec rid k = s.fxRec rid k := by
  rw [State.freeFrame, fxRec_modLoad, State.fxRec_modFx_other _ _ _ _ _ _ (.inr h)]
  exact fxRec_modRegion (fun _ => by rfl) ..

theorem load_freeFrame_same {rid fx lid : Nat} (h : (s.region rid).load = lid) : (s.freeFrame rid fx).load lid =
    { s.load lid with returned := (s.load lid).returned + BitVec.ofNat 64 (s.fxRec rid fx).weight } := by
  subst h
  rw [State.freeFrame, State.load_modLoad_same, State.modFx_load, State.modRegion_load]
  rfl

theorem load_freeFrame_other {rid fx lid l : Nat} (h : (s.region rid).load = lid) (other : l ≠ lid) :
    (s.freeFrame rid fx).load l = s.load l := by
  subst h
  rw [State.freeFrame, State.load_modLoad_other _ _ _ _ other, State.modFx_load, State.modRegion_load]
  rfl

theorem detachCtx_none {k : Nat} (h : (s.wctx.look k).chain = []) : s.detachCtx k = { s with wctx := s.wctx.del k } := by
  simp [State.detachCtx, h]

theorem buffers_none {k : Nat} (h : (s.wctx.look k).chain = []) : s.buffers k = false := by
  simp [State.buffers, h]

/-- RELEASE_COMPLETE frees the frame, and the load completes when RETURNED then equals ISSUED. -/
theorem execReleaseComplete_frees {rid fx lid : Nat} (place : s.at_.a = rid ∧ s.at_.b = fx) (load : (s.region rid).load = lid)
    (done : ReleaseDone s rid fx) {t : State} (freed : s.freeFrame rid fx = t) : exec .releaseComplete s =
      .next (if (t.load lid).phase == .running && (t.load lid).returned == (t.load lid).issued then t.endLoad lid 2 0 0
        else t) := by
  obtain ⟨rfl, rfl⟩ := place
  subst load freed
  obtain ⟨alloc, releasing, noticed, acked, chain, outer, undrawn, answered⟩ := done
  have back : (s.fxRec s.at_.a s.at_.b).acks.any s.crossing = false := by simpa using acked
  have detach : (s.modRegion s.at_.a fun r => { r with lastGrant := s.cyc (sqDie r.famt) }).detachCtx
      (s.at_.a * 4096 + s.at_.b) = _ := detachCtx_none chain
  show execReleaseComplete s = _
  simp only [execReleaseComplete, alloc, releasing, noticed, back, buffers_none chain, outer, undrawn, answered, detach,
    Bool.not_true, Bool.or_self, List.isEmpty_nil, Bool.false_and, Bool.false_eq_true, if_false, List.foldl_nil]
  rfl

/-- Settles O18: what a release marks, what leaves a frame, and what a notice and a completed release change. -/
theorem frameReleases : Obligations.FrameReleases := by
  unfold Obligations.FrameReleases
  refine ⟨fun r s => ?exitw, fun s => ?leaves, fun s => ⟨?notice, ?frees, ?completes⟩⟩
  case exitw =>
    intro rid fx
    have only : s.release rid fx = _ := release_only s rid fx
    refine ⟨rfl, fun inner alloc fresh => ?marked, by rw [only], by rw [only], by rw [only]⟩
    case marked => exact ⟨_, fxRec_release_same inner alloc fresh, postNotices_dies ..⟩
  case leaves =>
    intro f e rid fx w out
    refine ⟨fun r => ?ret, fun r => ?loopout, fun r => execLoopout_refuses⟩
    case ret =>
      intro v outs dest
      exact ⟨_, execRet_releases rfl dest, OnlyElem.modElem .., State.elem_modElem_same ..⟩
    case loopout =>
      intro v fr dests iter runs fresh
      let t := s.modElem e fun x => { x with outStage := x.outStage ++ s.flights f v (outs1 v out) }
      have ends : exec (.loopout r) s = _ := execLoopout_ends (t := t) rfl rfl dests iter runs fresh rfl
      refine ⟨t, OnlyElem.modElem .., State.elem_modElem_same .., fun successor => ?_, fun last => ?_⟩
      · rw [ends, if_pos successor]
      · rw [if_neg (Bool.eq_false_iff.mp last)] at ends
        exact ⟨_, ends, retireFrame_frame .., fun parent => ⟨linkRtd_retireFrame parent, linkAdm_retireFrame parent⟩⟩
  case notice =>
    intro waits there restores spawns
    let gone := s.discardOn s.at_.a s.at_.b s.at_.c
    let w := ((s.ct s.at_.c).slot s.at_.b 2).val.toNat % 2 ^ 32
    let t := gone.1.modFx s.at_.a s.at_.b fun x => x.noticed s.at_.c w gone.2
    have ct : (t.dropCtxs s.at_.c s.at_.b).ct s.at_.c = (s.ct s.at_.c).discardFx s.at_.b := by
      rw [ct_dropCtxs, State.modFx_ct, ct_discardOn]
    have record : (t.dropCtxs s.at_.c s.at_.b).fxRec s.at_.a s.at_.b =
        (s.fxRec s.at_.a s.at_.b).noticed s.at_.c w gone.2 := by
      rw [fxRec_dropCtxs, State.fxRec_modFx_same, fxRec_discardOn]
    have mem : (t.dropCtxs s.at_.c s.at_.b).mem = s.mem := by
      rw [mem_dropCtxs, State.modFx_mem, mem_discardOn]
    refine ⟨_, execReleaseNotice_notes ⟨rfl, rfl, rfl⟩ waits there restores spawns, ?_, ?_, ?_, ?_, mem⟩
    · rw [record]
      rfl
    · rw [record]
      exact List.filter_congr fun x _ => Bool.eq_iff_iff.mpr (by simp)
    · rw [ct]
      exact not_mem_spilledFx_discardFx _ _
    · rw [ct]
      exact park_discardFx _ _
  case frees =>
    intro alloc releasing noticed acked chain outer undrawn answered running owed
    have done : ReleaseDone s s.at_.a s.at_.b := ⟨alloc, releasing, noticed, acked, chain, outer, undrawn, answered⟩
    have load := load_freeFrame_same (fx := s.at_.b) (rfl : (s.region s.at_.a).load = _)
    have frees := execReleaseComplete_frees ⟨rfl, rfl⟩ rfl done rfl
    rw [if_neg (by rw [load]; simpa [running] using owed)] at frees
    exact ⟨_, frees, freeFrame_frame .., fxRec_freeFrame_same .., fun _ h => fxRec_freeFrame_other h, load,
      fun _ h => load_freeFrame_other rfl h⟩
  case completes =>
    intro alloc releasing noticed acked chain outer undrawn answered running paid
    have done : ReleaseDone s s.at_.a s.at_.b := ⟨alloc, releasing, noticed, acked, chain, outer, undrawn, answered⟩
    have load := load_freeFrame_same (fx := s.at_.b) (rfl : (s.region s.at_.a).load = _)
    have frees := execReleaseComplete_frees ⟨rfl, rfl⟩ rfl done rfl
    rw [if_pos (by rw [load]; simpa [running] using paid)] at frees
    exact ⟨_, frees, by rw [load]; exact paid, fxRec_freeFrame_same ..⟩

end Sys2Proof
end

section
/-!
Integer arithmetic and division: the exact lanes, wrapped or saturated, and the lanes whose divisor is zero (R160 to R163,
R356).
-/
namespace Sys2Proof
open Machine
-- One proof after the other: side by side they would only reserve more threads.
set_option Elab.async false

variable {s : State} {i : Instr} {v : RecView}

/-! ### Arithmetic (R160, R161, R163) -/

theorem intLanes2_gives {sat : Bool} (g : Nat → Int → Int → Int)
    (e : exec i s = finish1 s v (intLanes2 v sat s.opA (s.opB v) g)) :
    Gives i s v (IntLanes v.tyN sat fun k => g (tyW v.tyN) (laneOf v.tyN s.opA k) (laneOf v.tyN (s.opB v) k)) :=
  finish1_gives _ _ _ _ _ e (intLanes_ok _ _ _)

theorem intLanes1_gives {sat : Bool} (g : Int → Int) (e : exec i s = finish1 s v (intLanes1 v sat s.opA g)) :
    Gives i s v (IntLanes v.tyN sat fun k => g (laneOf v.tyN s.opA k)) :=
  finish1_gives _ _ _ _ _ e (intLanes_ok _ _ _)

/-- Settles O1: each instruction makes its lanes by one function of the operands' lanes. -/
theorem integerArithmetic : Obligations.IntegerArithmetic := by
  unfold Obligations.IntegerArithmetic
  refine fun r s => ⟨?add, ?sub, ?mul, ?mulh, ?min, ?max, ?abs, ?neg, ?addsat, ?subsat, ?avg⟩
  case add => exact intLanes2_gives (fun _ a b => a + b) rfl
  case sub => exact intLanes2_gives (fun _ a b => a - b) rfl
  case mul => exact intLanes2_gives (fun _ a b => a * b) rfl
  case mulh => exact intLanes2_gives (fun w a b => Int.fdiv (a * b) (2 ^ w)) rfl
  case min => exact intLanes2_gives (fun _ a b => min a b) rfl
  case max => exact intLanes2_gives (fun _ a b => max a b) rfl
  case abs =>
    simp only [Int.abs_eq_natAbs]
    exact intLanes1_gives (fun a => (a.natAbs : Int)) rfl
  case neg => exact intLanes1_gives (fun a => -a) rfl
  case addsat => exact intLanes2_gives (fun _ a b => a + b) rfl
  case subsat => exact intLanes2_gives (fun _ a b => a - b) rfl
  case avg => exact intLanes2_gives (fun _ a b => Int.fdiv (a + b + 1) 2) rfl

/-! ### Division (R162, R356) -/

theorem tbit_eq_testBit (x i : Nat) : tbit x i = x.testBit i := by
  rw [tbit, Nat.testBit_eq_decide_div_mod_eq]
  rfl

/-- The number whose one bits are the places below `n` where `p` holds. -/
def maskBelow (p : Nat → Bool) (n : Nat) : Nat := (List.range n).foldl (fun m i => if p i then m + 2 ^ i else m) 0

theorem maskBelow_succ (p : Nat → Bool) (n : Nat) : maskBelow p (n + 1) = 2 ^ n * (p n).toNat + maskBelow p n := by
  simp only [maskBelow, List.range_succ, List.foldl_append, List.foldl_cons, List.foldl_nil]
  cases p n <;> simp [Nat.add_comm]

theorem testBit_maskBelow (p : Nat → Bool) (n j : Nat) : (maskBelow p n).testBit j = (decide (j < n) && p j) := by
  induction n generalizing j with
  | zero => simp [maskBelow]
  | succ n ih =>
    have small : maskBelow p n < 2 ^ n := Nat.lt_pow_two_of_testBit _ fun k hk => by simp [ih, not_lt.mpr hk]
    rw [maskBelow_succ, Nat.testBit_two_pow_mul_add _ small, ih, Nat.testBit_bool_toNat]
    rcases Nat.lt_trichotomy j n with below | rfl | above
    · simp [below, Nat.lt_succ_of_lt below]
    · simp
    · have past : ¬ j < n + 1 := by omega
      simp [past, Nat.not_lt_of_gt above, Nat.sub_ne_zero_of_lt above]

theorem laneOf_eq_zero_iff (t : Nat) (x : Word) (k : Nat) : laneOf t x k = 0 ↔ lane (tyW t) x k = 0 := by
  have range : (lane (tyW t) x k : Int) < 2 ^ tyW t := by exact_mod_cast lane_lt (tyW t) x k
  unfold laneOf laneInt
  split
  · rename_i top
    have some : lane (tyW t) x k ≠ 0 := fun none => by simp [none, tbit] at top
    omega
  · exact Int.natCast_eq_zero

theorem tbit_zeroLanes (v : RecView) (b : Word) (j : Nat) :
    tbit (zeroLanes v b) j = true ↔ j < tyN v.tyN ∧ laneOf v.tyN b j = 0 := by
  have mask : zeroLanes v b = maskBelow (fun i => lane (tyW v.tyN) b i = 0) (tyN v.tyN) := by
    simp only [zeroLanes, maskBelow, decide_eq_true_eq]
  simp [mask, tbit_eq_testBit, testBit_maskBelow, laneOf_eq_zero_iff]

theorem zeroLanes_eq_zero {b : Word} (h : ∀ k, k < tyN v.tyN → laneOf v.tyN b k ≠ 0) : zeroLanes v b = 0 :=
  Nat.zero_of_testBit_eq_false fun j => by
    rw [← tbit_eq_testBit, Bool.eq_false_iff]
    exact fun one => (tbit_zeroLanes v b j).mp one |>.elim (h j)

theorem zeroLanes_ne_zero {b : Word} {k : Nat} (hk : k < tyN v.tyN) (zero : laneOf v.tyN b k = 0) : zeroLanes v b ≠ 0 := by
  intro none
  have one := (tbit_zeroLanes v b k).mpr ⟨hk, zero⟩
  simp [none, tbit] at one

theorem divRem_gives {g : Int → Int → Int} (e : exec i s = divRem s v g)
    (ok : v.zdiv = true ∨ ∀ k, k < tyN v.tyN → laneOf v.tyN (s.opB v) k ≠ 0) :
    Gives i s v (IntLanes v.tyN false fun k =>
      if laneOf v.tyN (s.opB v) k = 0 then 0 else g (laneOf v.tyN s.opA k) (laneOf v.tyN (s.opB v) k)) := by
  refine intLanes2_gives (fun _ a b => if b = 0 then 0 else g a b) (e.trans (if_neg ?_))
  rcases ok with zdiv | nonzero
  · simp [zdiv]
  · simp [zeroLanes_eq_zero nonzero]

theorem divRem_divz {g : Int → Int → Int} (e : exec i s = divRem s v g) {k : Nat} (zdiv : v.zdiv = false)
    (hk : k < tyN v.tyN) (zero : laneOf v.tyN (s.opB v) k = 0) :
    ∃ m : Nat, exec i s = .next (s.raise s.cur v 0x03 m) ∧
      ∀ j : Nat, tbit m j = true ↔ j < tyN v.tyN ∧ laneOf v.tyN (s.opB v) j = 0 :=
  ⟨_, e.trans (if_pos (by simp [zdiv, zeroLanes_ne_zero hk zero])), tbit_zeroLanes v (s.opB v)⟩

/-- Settles O2: `div` and `rem` share the check for a zero divisor, and the mask of `zeroLanes` is told bit by bit. -/
theorem integerDivision : Obligations.IntegerDivision := by
  unfold Obligations.IntegerDivision
  exact ⟨fun r s => ⟨divRem_gives rfl, divRem_gives rfl⟩, fun r s k => ⟨divRem_divz rfl, divRem_divz rfl⟩⟩

end Sys2Proof
end

section
/-!
Shifts, rotates, bit counts, bit fields, carry-less products and prefix XOR, each lane told by its bits or as an integer
(R169 to R173).
-/
namespace Sys2Proof
open Machine
-- One proof after the other: side by side they would only reserve more threads.
set_option Elab.async false

variable {s : State} {i : Instr} {v : RecView}

/-! ### Values made lane by lane without a flag -/

theorem Lanes.congr {n w : Nat} {f g : Nat → Nat} {x : Word} (h : Lanes n w f x)
    (same : ∀ k, k < n → f k % 2 ^ w = g k % 2 ^ w) : Lanes n w g x :=
  ⟨fun k hk => (h.1 k hk).trans (same k hk), h.2⟩

/-- The firing sends `n` lanes and no flag; what holds of every such value holds of the one sent. -/
theorem mkLanes_gives {n w : Nat} {f : Nat → Nat} {P : Word → Prop} (e : exec i s = finish1 s v (mkLanes n w f, 0))
    (fits : n * w ≤ 64) (h : ∀ x, Lanes n w f x → P x) : Gives i s v fun x fl => fl = 0 ∧ P x :=
  finish1_gives _ _ _ _ _ e ⟨rfl, h _ (mkLanes_lanes n w f fits)⟩

/-- The lanes are those of an instruction that works on each lane apart. -/
theorem bitLanes_gives {a b : Word} {g : Nat → Nat → Nat → Nat} {P : Word → Prop} (e : exec i s = finish1 s v (bitLanes v a b g))
    (h : ∀ x, Lanes (tyN v.tyN) (tyW v.tyN) (fun k => g (tyW v.tyN) (lane (tyW v.tyN) a k) (lane (tyW v.tyN) b k)) x → P x) :
    Gives i s v fun x fl => fl = 0 ∧ P x :=
  mkLanes_gives e (ty_fits _) h

/-! ### Shifts and rotates (R169) -/

theorem laneInt_sraLane {w a c : Nat} (hw : 0 < w) (ha : a < 2 ^ w) :
    laneInt true w (sraLane w a c % 2 ^ w) = laneInt true w a / 2 ^ (c % w) := by
  obtain ⟨low, high⟩ := laneInt_bounds true w a hw ha
  have half : (0 : Int) < 2 ^ (w - 1) := by positivity
  have pos : (0 : Int) < 2 ^ (c % w) := by positivity
  refine laneInt_emod hw (Int.le_ediv_of_mul_le pos ?_) ?_
  · simp only [if_true] at low ⊢
    nlinarith
  · simp only [if_true] at high ⊢
    refine (Int.ediv_le_ediv pos high).trans (Int.ediv_le_self _ ?_)
    omega

theorem testBit_rotlLane {w a c j : Nat} (ha : a < 2 ^ w) (hj : j < w) :
    (rotlLane w a c).testBit ((j + c) % w) = a.testBit j := by
  have turn : c % w < w := Nat.mod_lt _ (by omega)
  have place : (j + c) % w = if j + c % w < w then j + c % w else j + c % w - w := by
    rw [Nat.add_mod, Nat.mod_eq_of_lt hj]
    split
    · exact Nat.mod_eq_of_lt ‹_›
    · rw [Nat.mod_eq_sub_mod (by omega), Nat.mod_eq_of_lt (by omega)]
  obtain ⟨m, hm⟩ : ∃ m, c % w = m := ⟨_, rfl⟩
  rw [hm] at turn place
  have width : 2 ^ w = 2 ^ m * 2 ^ (w - m) := by rw [← Nat.pow_add, Nat.add_sub_cancel' turn.le]
  have high : a / 2 ^ (w - m) < 2 ^ m := Nat.div_lt_of_lt_mul (by rwa [Nat.mul_comm, ← width])
  have parts : rotlLane w a c = 2 ^ m * (a % 2 ^ (w - m)) + a / 2 ^ (w - m) := by
    rw [rotlLane, hm, Nat.mul_comm a, width, Nat.mul_mod_mul_left]
  rw [parts, place, Nat.testBit_two_pow_mul_add _ high]
  split
  · rw [if_neg (by omega), Nat.testBit_mod_two_pow, Nat.add_sub_cancel]
    simp
    omega
  · rw [if_pos (by omega), Nat.testBit_div_two_pow]
    congr 1
    omega

/-! ### Counts (R171) -/

theorem clzLane_spec {w a : Nat} (ha : a < 2 ^ w) : clzLane w a ≤ w ∧ a < 2 ^ (w - clzLane w a) ∧
    (clzLane w a < w → 2 ^ (w - clzLane w a) ≤ 2 * a) := by
  unfold clzLane
  split
  next zero => simp [zero]
  next some =>
    have top : a.log2 < w := (Nat.log2_lt some).mpr ha
    rw [show w - (w - 1 - a.log2) = a.log2 + 1 by omega]
    refine ⟨by omega, Nat.lt_log2_self, fun _ => ?_⟩
    rw [Nat.pow_succ']
    exact Nat.mul_le_mul_left 2 (Nat.log2_self_le some)

theorem ctzLane_spec (w a : Nat) : ctzLane w a ≤ w ∧ a % 2 ^ ctzLane w a = 0 ∧
    (ctzLane w a < w → a.testBit (ctzLane w a) = true) := by
  induction w generalizing a with
  | zero => simp [ctzLane, Nat.mod_one]
  | succ n ih =>
    obtain ⟨le, zeros, one⟩ := ih (a / 2)
    unfold ctzLane
    split
    next odd => simpa [Nat.mod_one] using odd
    next even =>
      refine ⟨Nat.succ_le_succ le, ?_, fun below => ?_⟩
      · rw [Nat.pow_succ', Nat.mod_mul, zeros]
        omega
      · rw [Nat.testBit_succ]
        exact one (Nat.lt_of_succ_lt_succ below)

/-- Of the numbers below `n + 1`, 0 and the successors of those below `n` are counted apart. -/
theorem length_filter_range_succ (p : Nat → Bool) (n : Nat) : ((List.range (n + 1)).filter p).length =
    (p 0).toNat + ((List.range n).filter fun j => p (j + 1)).length := by
  rw [List.range_succ_eq_map, List.filter_cons, List.filter_map]
  cases p 0 <;> simp [Function.comp_def, Nat.add_comm]

theorem toNat_testBit_zero (a : Nat) : (a.testBit 0).toNat = a % 2 := by
  rw [Nat.testBit_zero]
  rcases Nat.mod_two_eq_zero_or_one a with h | h <;> simp [h]

theorem popcount_eq (w a : Nat) : popcount w a = ((List.range w).filter fun j => a.testBit j).length := by
  induction w generalizing a with
  | zero => rfl
  | succ n ih => simp only [popcount, ih, length_filter_range_succ, toNat_testBit_zero, Nat.testBit_succ]

theorem popcount_le (w a : Nat) : popcount w a ≤ w := by
  rw [popcount_eq]
  exact (List.length_filter_le _ _).trans_eq List.length_range

/-! ### Bit fields (R170) -/

theorem laneInt_bextLane {w : Nat} (sgn : Bool) (a c : Nat) (hw : 0 < w) :
    laneInt sgn w (bextLane sgn w a c % 2 ^ w) = laneInt sgn (fieldLen w c) (fld a (c % w) (fieldLen w c)) := by
  have len : 0 < fieldLen w c ∧ fieldLen w c ≤ w := by
    have := Nat.mod_lt c hw
    unfold fieldLen
    omega
  obtain ⟨low, high⟩ := laneInt_bounds sgn _ _ len.1 (fld_lt a (c % w) (fieldLen w c))
  have half : (2 : Int) ^ (fieldLen w c - 1) ≤ 2 ^ (w - 1) := pow_le_pow_right₀ (by decide) (by omega)
  have whole : (2 : Int) ^ fieldLen w c ≤ 2 ^ w := pow_le_pow_right₀ (by decide) len.2
  refine laneInt_emod hw (le_trans ?_ low) (high.trans ?_) <;> cases sgn <;> simp <;> assumption

theorem testBit_binsLane (w a c x j : Nat) : (binsLane w a c x).testBit j =
    if c % w ≤ j ∧ j < c % w + fieldLen w c then x.testBit (j - c % w) else a.testBit j :=
  testBit_replaced a x (c % w) (fieldLen w c) j

/-! ### Carry-less products and prefix XOR (R172, R173) -/

theorem odd_toNat_add (b : Bool) (n : Nat) : ((b.toNat + n) % 2 == 1) = (b ^^ (n % 2 == 1)) := by
  rcases Nat.mod_two_eq_zero_or_one n with h | h <;> cases b <;> simp [Nat.add_mod, h]

theorem testBit_clmulNat {n b : Nat} (a : Nat) (hb : b < 2 ^ n) (j : Nat) : (clmulNat n a b).testBit j =
    (((List.range (j + 1)).filter fun i => a.testBit (j - i) && b.testBit i).length % 2 == 1) := by
  induction n generalizing a b with
  | zero =>
    obtain rfl : b = 0 := by omega
    simp [clmulNat]
  | succ n ih =>
    have tail : ((List.range (j + 1)).filter fun i => (2 * a).testBit (j - i) && (b / 2).testBit i) =
        (List.range j).filter fun i => a.testBit (j - (i + 1)) && b.testBit (i + 1) := by
      have last : (2 * a).testBit (j - j) = false := by simp
      rw [List.range_succ, List.filter_append, List.filter_singleton, last, Bool.false_and, cond_false, List.append_nil]
      refine List.filter_congr fun i hi => ?_
      have up : j - i = j - (i + 1) + 1 := by have := List.mem_range.mp hi; omega
      rw [up, Nat.testBit_succ, Nat.testBit_succ, Nat.mul_div_cancel_left _ (by decide)]
    have head : (if b % 2 = 1 then a else 0).testBit j = (a.testBit (j - 0) && b.testBit 0) := by
      rw [Nat.testBit_zero]
      split <;> simp [*]
    rw [clmulNat, Nat.testBit_xor, head, ih _ (by omega), tail, length_filter_range_succ, odd_toNat_add]

theorem testBit_prefixXor {n j : Nat} (c x : Nat) (hj : j < n) : (prefixXor n c x).testBit j =
    ((c + ((List.range (j + 1)).filter fun i => x.testBit i).length) % 2 == 1) := by
  induction n generalizing c x j with
  | zero => exact absurd hj (Nat.not_lt_zero j)
  | succ n ih =>
    rw [prefixXor, length_filter_range_succ, toNat_testBit_zero]
    cases j with
    | zero =>
      have low : ((c + x) % 2 + 2 * prefixXor n ((c + x) % 2) (x / 2)) % 2 = (c + x) % 2 := by omega
      rw [Nat.testBit_zero, low, List.range_zero, List.filter_nil, List.length_nil, Nat.add_zero, Nat.add_mod_mod]
      rfl
    | succ j =>
      rw [Nat.testBit_succ, show ((c + x) % 2 + 2 * prefixXor n ((c + x) % 2) (x / 2)) / 2 = prefixXor n ((c + x) % 2) (x / 2) by omega,
        ih _ _ (Nat.lt_of_succ_lt_succ hj)]
      simp only [Nat.testBit_succ]
      congr 1
      omega

theorem prefixXor_lt (n c x : Nat) : prefixXor n c x < 2 ^ n := by
  induction n generalizing c x with
  | zero => exact Nat.one_pos
  | succ n ih =>
    have := ih ((c + x) % 2) (x / 2)
    simp only [prefixXor, Nat.pow_succ]
    omega

theorem getLsbD_ofNat_testBit {p j : Nat} (hj : j < 64) : (BitVec.ofNat 64 p).getLsbD j = p.testBit j := by
  rw [BitVec.getLsbD_ofNat, decide_eq_true hj, Bool.true_and]

/-- Settles O4: each instruction makes its lanes by one function, and the lemma about that function says what a lane is. -/
theorem shiftsCountsFieldsProducts : Obligations.ShiftsCountsFieldsProducts := by
  unfold Obligations.ShiftsCountsFieldsProducts
  refine ⟨fun r s => ⟨?shl, ?shr, ?sra, ?rotl, ?clz, ?ctz, ?popc⟩, fun r s => ⟨?bext, ?bins, ?clmul, ?pxor⟩⟩
  case shl =>
    refine bitLanes_gives rfl fun x lanes => lanes.congr fun k _ => ?_
    rw [shlLane, Nat.mod_mod, Nat.shiftLeft_eq]
  case shr =>
    refine bitLanes_gives rfl fun x lanes => lanes.congr fun k _ => ?_
    rw [shrLane, Nat.shiftRight_eq_div_pow]
  case sra =>
    refine bitLanes_gives rfl fun x lanes => ⟨lanes.2, fun k hk => ?_⟩
    rw [lanes.1 k hk]
    exact laneInt_sraLane (tyW_pos _) (lane_lt _ _ _)
  case rotl =>
    refine bitLanes_gives rfl fun x lanes => ⟨lanes.2, fun k j hk hj => ?_⟩
    rw [lanes.1 k hk, tbit_eq_testBit, tbit_eq_testBit, Nat.testBit_mod_two_pow, decide_eq_true (Nat.mod_lt _ (tyW_pos _)),
      Bool.true_and]
    exact testBit_rotlLane (lane_lt _ _ _) hj
  case clz =>
    refine bitLanes_gives rfl fun x lanes => ⟨lanes.2, fun k hk => ?_⟩
    have spec := clzLane_spec (lane_lt (tyW (r.view 0x39).tyN) s.opA k)
    rw [lanes.1 k hk, Nat.mod_eq_of_lt (spec.1.trans_lt Nat.lt_two_pow_self)]
    exact spec
  case ctz =>
    refine bitLanes_gives rfl fun x lanes => ⟨lanes.2, fun k hk => ?_⟩
    have spec := ctzLane_spec (tyW (r.view 0x3A).tyN) (lane (tyW (r.view 0x3A).tyN) s.opA k)
    rw [lanes.1 k hk, Nat.mod_eq_of_lt (spec.1.trans_lt Nat.lt_two_pow_self), tbit_eq_testBit]
    exact spec
  case popc =>
    refine bitLanes_gives rfl fun x lanes => ⟨lanes.2, fun k hk => ?_⟩
    have few := popcount_le (tyW (r.view 0x3B).tyN) (lane (tyW (r.view 0x3B).tyN) s.opA k)
    rw [lanes.1 k hk, Nat.mod_eq_of_lt (few.trans_lt Nat.lt_two_pow_self), popcount_eq]
    simp only [tbit_eq_testBit]
  case bext =>
    refine bitLanes_gives rfl fun x lanes => ⟨lanes.2, fun k hk => ?_⟩
    rw [lanes.1 k hk]
    exact laneInt_bextLane _ _ _ (tyW_pos _)
  case bins =>
    refine mkLanes_gives rfl (ty_fits _) fun x lanes => ⟨lanes.2, fun k j hk hj => ?_⟩
    simp only [lanes.1 k hk, tbit_eq_testBit, Nat.testBit_mod_two_pow, decide_eq_true hj, Bool.true_and]
    exact testBit_binsLane _ _ _ _ _
  case clmul =>
    intro v
    refine finish2_gives _ _ _ _ _ _ rfl ⟨BitVec.or_self, fun j hj => ?_⟩
    have bit := testBit_clmulNat s.opA.toNat (s.opB v).isLt j
    simp only [BitVec.testBit_toNat] at bit
    rw [← bit]
    split
    · exact getLsbD_ofNat_testBit ‹_›
    · rw [getLsbD_ofNat_testBit (by omega), Nat.testBit_div_two_pow, Nat.sub_add_cancel (by omega)]
  case pxor =>
    intro v carry
    have small := prefixXor_lt 64 (s.opB v).toNat s.opA.toNat
    refine finish2_gives _ _ _ _ _ _ (if_neg (Nat.not_lt.mpr carry)) ⟨BitVec.or_self, ?_, fun j hj => ?_⟩
    · refine BitVec.eq_of_toNat_eq ?_
      rw [BitVec.toNat_ushiftRight, BitVec.toNat_ofNat, BitVec.toNat_ofNat, Nat.mod_eq_of_lt small, Nat.shiftRight_eq_div_pow,
        Nat.mod_eq_of_lt ((Nat.div_le_self _ _).trans_lt small)]
    · have bit := testBit_prefixXor (s.opB v).toNat s.opA.toNat hj
      simp only [BitVec.testBit_toNat] at bit
      rw [← bit, getLsbD_ofNat_testBit hj]

end Sys2Proof
end

section
/-!
Float arithmetic, the transcendental functions, sign operations, comparisons and classes, lane by lane (R174 to R180, R194
to R197).
-/
namespace Sys2Proof
open Machine
-- One proof after the other: side by side they would only reserve more threads.
set_option Elab.async false

variable {s : State} {i : Instr} {v : RecView}

/-! ### Lanes with flags -/

theorem LanesF.flags_eq_zero {n w : Nat} {g : Nat → Nat × Flags} {x : Word} {fl : Flags} (h : LanesF n w g x fl)
    (none : ∀ k, (g k).2 = 0) : fl = 0 := by
  refine BitVec.eq_of_getLsbD_eq fun b _ => ?_
  rw [Bool.eq_iff_iff, h.2 b]
  simp [none]

/-- The lanes of a float instruction, each with the rounding of its number. -/
theorem fltLanes_gives (g : Fmt → Rnd → Nat → Nat → Nat → Nat × Flags) (e : exec i s = finish1 s v (fltLanes s v g)) :
    Gives i s v (LanesF (tyN v.tyN) (tyW v.tyN) fun k => g (fmtOfTy v.tyN) (s.rnd v k) (lane (tyW v.tyN) s.opA k)
      (lane (tyW v.tyN) (s.opB v) k) (lane (tyW v.tyN) s.opC k)) :=
  finish1_gives _ _ _ _ _ e (mkLanesF_lanes _ _ _ (ty_fits _))

/-- A float instruction whose lanes raise no flag. -/
theorem fltLanes_quiet {g : Fmt → Nat → Nat → Nat} {P : Word → Prop}
    (e : exec i s = finish1 s v (fltLanes s v fun f _ a b _ => (g f a b, 0)))
    (h : ∀ x, Lanes (tyN v.tyN) (tyW v.tyN) (fun k => g (fmtOfTy v.tyN) (lane (tyW v.tyN) s.opA k)
      (lane (tyW v.tyN) (s.opB v) k)) x → P x) : Gives i s v fun x fl => fl = 0 ∧ P x :=
  have lanes := mkLanesF_lanes _ _ _ (ty_fits v.tyN)
  finish1_gives _ _ _ _ _ e ⟨lanes.flags_eq_zero fun _ => rfl, h _ lanes.1⟩

theorem fnLanes_lanes (s : State) (v : RecView) (g : Fmt → Nat → Nat × Flags) :
    LanesF (tyN v.tyN) (tyW v.tyN) (fun k => g (fmtOfTy v.tyN) (lane (tyW v.tyN) s.opA k)) (fnLanes s v g).1 (fnLanes s v g).2 :=
  mkLanesF_lanes _ _ _ (ty_fits _)

theorem fnLanes_gives {g : Fmt → Nat → Nat × Flags} (e : exec i s = finish1 s v (fnLanes s v g)) :
    Gives i s v (LanesF (tyN v.tyN) (tyW v.tyN) fun k => g (fmtOfTy v.tyN) (lane (tyW v.tyN) s.opA k)) :=
  finish1_gives _ _ _ _ _ e (fnLanes_lanes s v g)

/-- Settles O5: each instruction makes its lanes by the function of the lane's format that the statement names. -/
theorem floatArithmeticAndTranscendentals : Obligations.FloatArithmeticAndTranscendentals := by
  unfold Obligations.FloatArithmeticAndTranscendentals
  refine ⟨fun r s => ⟨?add, ?sub, ?mul, ?fma, ?min, ?max, ?div, ?sqrt, ?rcp, ?rsqrt, ?rnd⟩,
    fun r s => ⟨fnLanes_gives rfl, fnLanes_gives rfl, fnLanes_gives rfl, fnLanes_gives rfl, fnLanes_gives rfl,
      fnLanes_gives rfl, fnLanes_gives rfl, ?sincos⟩⟩
  case add => exact fltLanes_gives (fun f m a b _ => f.add m a b) rfl
  case sub => exact fltLanes_gives (fun f m a b _ => f.sub m a b) rfl
  case mul => exact fltLanes_gives (fun f m a b _ => f.mul m a b) rfl
  case fma => exact fltLanes_gives (fun f m a b c => f.fma m a b c) rfl
  case min => exact fltLanes_gives (fun f _ a b _ => f.minmax false a b) rfl
  case max => exact fltLanes_gives (fun f _ a b _ => f.minmax true a b) rfl
  case div => exact fltLanes_gives (fun f m a b _ => f.div m a b) rfl
  case sqrt => exact fltLanes_gives (fun f m a _ _ => f.sqrt m a) rfl
  case rcp => exact fltLanes_gives (fun f m a _ _ => f.recip m a) rfl
  case rsqrt => exact fltLanes_gives (fun f m a _ _ => f.rsqrt m a) rfl
  case rnd => exact fltLanes_gives (fun f m a _ _ => f.rint m a) rfl
  case sincos =>
    exact finish2_gives _ _ _ _ _ _ rfl ⟨_, _, rfl, fnLanes_lanes s (r.view 0x62) Fmt.sin, fnLanes_lanes s (r.view 0x62) Fmt.cos⟩

/-! ### Signs (R177) -/

theorem signBit_fmtOfTy {t : Nat} (flt : tyIsFloat t = true) : (fmtOfTy t).signBit = tyW t - 1 := by
  simp only [tyIsFloat, Bool.and_eq_true, decide_eq_true_eq] at flt
  obtain ⟨low, high⟩ := flt
  interval_cases t <;> rfl

theorem testBit_withSign (f : Fmt) (a : Nat) (b : Bool) (j : Nat) :
    (f.withSign a b).testBit j = if j < f.signBit then a.testBit j else (b && decide (j = f.signBit)) := by
  have low : a % 2 ^ f.signBit < 2 ^ f.signBit := Nat.mod_lt _ (Nat.two_pow_pos _)
  have parts : f.withSign a b = 2 ^ f.signBit * b.toNat + a % 2 ^ f.signBit := by
    cases b <;> simp [Fmt.withSign, Nat.add_comm]
  rw [parts, Nat.testBit_two_pow_mul_add _ low, Nat.testBit_mod_two_pow, Nat.testBit_bool_toNat]
  split
  next below => rw [decide_eq_true below, Bool.true_and]
  next => rw [Bool.and_comm, decide_eq_decide.mpr (show j - f.signBit = 0 ↔ j = f.signBit by omega)]

/-- An instruction that sets the sign bit of each lane, and leaves the other bits as they are. -/
theorem signs_gives {sg : Fmt → Nat → Nat → Bool} {sg' : Nat → Nat → Bool}
    (e : exec i s = finish1 s v (fltLanes s v fun f _ a b _ => (f.withSign a (sg f a b), 0)))
    (same : ∀ a b, (fmtOfTy v.tyN).signBit = tyW v.tyN - 1 → sg (fmtOfTy v.tyN) a b = sg' a b)
    (flt : tyIsFloat v.tyN = true) : Gives i s v fun x fl => fl = 0 ∧ x.toNat < 2 ^ (tyN v.tyN * tyW v.tyN) ∧
      ∀ k, k < tyN v.tyN →
        (∀ j, j < tyW v.tyN - 1 → tbit (lane (tyW v.tyN) x k) j = tbit (lane (tyW v.tyN) s.opA k) j) ∧
        tbit (lane (tyW v.tyN) x k) (tyW v.tyN - 1) = sg' (lane (tyW v.tyN) s.opA k) (lane (tyW v.tyN) (s.opB v) k) := by
  have top := signBit_fmtOfTy flt
  have width := tyW_pos v.tyN
  refine fltLanes_quiet e fun x lanes => ⟨lanes.2, fun k hk => ⟨fun j hj => ?_, ?_⟩⟩
  · rw [lanes.1 k hk, tbit_eq_testBit, tbit_eq_testBit, Nat.testBit_mod_two_pow, testBit_withSign, top, if_pos hj,
      decide_eq_true (by omega), Bool.true_and]
  · rw [lanes.1 k hk, tbit_eq_testBit, Nat.testBit_mod_two_pow, testBit_withSign, top, if_neg (lt_irrefl _),
      decide_eq_true (by omega), Bool.true_and, decide_eq_true rfl, Bool.and_true, same _ _ top]

/-- Settles O6: the sign operations bit by bit, and the lanes that classification and comparison make. -/
theorem floatSignsAndClasses : Obligations.FloatSignsAndClasses := by
  unfold Obligations.FloatSignsAndClasses
  refine fun r s => ⟨?abs, ?neg, ?sgn, ?classes, ?cmp⟩
  case abs => exact signs_gives (sg := fun _ _ _ => false) rfl fun _ _ _ => rfl
  case neg =>
    exact signs_gives (i := .fneg r) (v := r.view 0x47) (sg := fun f a _ => !tbit a f.signBit) rfl fun a b top => by rw [top]
  case sgn =>
    exact signs_gives (i := .fcsgn r) (v := r.view 0x4F) (sg := fun f _ b => tbit b f.signBit) rfl fun a b top => by rw [top]
  case classes => exact fltLanes_quiet (g := fun f a _ => f.classify a) rfl fun _ lanes => lanes
  case cmp =>
    have lanes := fltLanes_gives (s := s) (i := .fcmp r) (v := r.view 0x48) (fun f _ a b _ =>
      let p := fcmpLane f (r.view 0x48).opfN a b
      (if p.1 then 2 ^ tyW (r.view 0x48).tyN - 1 else 0, p.2)) rfl
    simpa only [fcmpLane, Bool.decide_and, Bool.and_assoc] using lanes

end Sys2Proof
end

section
/-!
Conversions, packing and unpacking, sums of lanes, and the lane moves (R181 to R193).
-/
namespace Sys2Proof
open Machine
-- One proof after the other: side by side they would only reserve more threads.
set_option Elab.async false

variable {s : State} {i : Instr} {v : RecView}

/-! ### Conversions (R181 to R183) -/

theorem convert_copies {a b : Nat} (h : a = b ∨ a = 14 ∨ b = 14) (rnd : Nat → Rnd) (x : Word) : convert a b rnd x = (x, 0) :=
  if_pos h

theorem convert_lanes {a b : Nat} (ab : a ≠ b) (ha : a ≠ 14) (hb : b ≠ 14) (rnd : Nat → Rnd) (x : Word) :
    LanesF (min (tyN a) (tyN b)) (tyW b) (fun k => convLane a b (rnd k) (lane (tyW a) x k)) (convert a b rnd x).1
      (convert a b rnd x).2 := by
  rw [convert, if_neg (by simp [ab, ha, hb])]
  exact mkLanesF_lanes _ _ _ ((Nat.mul_le_mul_right _ (Nat.min_le_right _ _)).trans (ty_fits b))

theorem convert_gives {d : Nat} {rnd : Nat → Rnd} (e : exec i s = finish1 s v (convert v.tyN d rnd s.opA)) :
    (v.tyN = d ∨ v.tyN = 14 ∨ d = 14 → Gives i s v fun x fl => x = s.opA ∧ fl = 0) ∧
    (v.tyN ≠ d → v.tyN ≠ 14 → d ≠ 14 → Gives i s v (LanesF (min (tyN v.tyN) (tyN d)) (tyW d) fun k =>
      convLane v.tyN d (rnd k) (lane (tyW v.tyN) s.opA k))) :=
  ⟨fun h => finish1_gives _ _ _ _ _ e (by rw [convert_copies h]; exact ⟨rfl, rfl⟩),
    fun ab ha hb => finish1_gives _ _ _ _ _ e (convert_lanes ab ha hb _ _)⟩

/-! ### Sums of lanes (R190, R191) -/

theorem foldl_add_eq_sum (l : List Int) : l.foldl (· + ·) 0 = l.sum := List.sum_eq_foldl.symm

theorem vsum_gives (r : D2) (s : State) : let v := r.view 0x5B
    (tyIsInt v.tyN = true → Gives (.vsum r) s v fun x fl =>
      fl = 0 ∧ x = BitVec.ofInt 64 (((List.range (tyN v.tyN)).map fun k => laneOf v.tyN s.opA k).sum)) ∧
    (tyIsInt v.tyN = false → Gives (.vsum r) s v fun x fl =>
      let p := (fmtOfTy v.tyN).packSum (s.rnd v 0) (sumVals (s.rnd v 0).mode (fltsOf v.tyN s.opA))
      x = BitVec.ofNat 64 p.1 ∧ fl = p.2) := by
  intro v
  refine ⟨fun int => finish1_gives _ _ _ _ _ (if_pos int) ⟨rfl, ?_⟩,
    fun flt => finish1_gives _ _ _ _ _ (if_neg (Bool.eq_false_iff.mp flt)) ⟨rfl, rfl⟩⟩
  rw [foldl_add_eq_sum]
  rfl

theorem vdot_gives (r : D2) (s : State) : let v := r.view 0x5F
    (tyIsInt v.tyN = true → Gives (.vdot r) s v fun x fl => fl = 0 ∧
      x = BitVec.ofInt 64 (((List.range (tyN v.tyN)).map fun k => laneOf v.tyN s.opA k * laneOf v.tyN (s.opB v) k).sum)) ∧
    (tyIsInt v.tyN = false → Gives (.vdot r) s v fun x fl =>
      let ps := List.zipWith mulVals (fltsOf v.tyN s.opA) (fltsOf v.tyN (s.opB v))
      let p := fp32.packSum (s.rnd v 0) (sumVals (s.rnd v 0).mode (ps.map (·.1)))
      x = BitVec.ofNat 64 p.1 ∧ fl = p.2 ||| orAll (ps.map (·.2))) := by
  intro v
  refine ⟨fun int => finish1_gives _ _ _ _ _ (if_pos int) ⟨rfl, ?_⟩,
    fun flt => finish1_gives _ _ _ _ _ (if_neg (Bool.eq_false_iff.mp flt)) ⟨rfl, rfl⟩⟩
  simp only [foldl_add_eq_sum, intsOf, List.zipWith_map, List.zipWith_self]
  rfl

/-- Settles O8: conversions lane by lane, and the sums of lanes by the type of the lanes. -/
theorem conversionsAndLaneSums : Obligations.ConversionsAndLaneSums := by
  unfold Obligations.ConversionsAndLaneSums
  refine ⟨fun r s => ⟨convert_gives rfl, convert_gives rfl, convert_gives rfl, convert_gives rfl⟩,
    fun r s => ⟨?pack, ?unpack, vsum_gives r s, vdot_gives r s⟩⟩
  case pack => exact fun fits => finish1_gives _ _ _ _ _ rfl (mkLanesF_lanes _ _ _ fits)
  case unpack =>
    have low := mkLanesF_lanes _ _ (fun k => convLane (r.view 0x5A).tyN ((r.view 0x5A).lit % 16) rne
      (lane (tyW (r.view 0x5A).tyN) s.opA (0 + k))) (ty_fits ((r.view 0x5A).lit % 16))
    exact finish2_gives _ _ _ _ _ _ rfl ⟨_, _, rfl, low, mkLanesF_lanes _ _ _ (ty_fits _)⟩

/-! ### Lane moves (R185 to R187, R192, R193) -/

/-- A lane of one bit. -/
theorem lane_one (x : Word) (k : Nat) : lane 1 x k = (x.getLsbD k).toNat := by
  rw [lane, fld, Nat.one_mul, Nat.pow_one, ← Nat.toNat_testBit, BitVec.testBit_toNat]

theorem getLsbD_of_lane_one {x : Word} {k : Nat} {c : Bool} (h : lane 1 x k = (if c then 1 else 0) % 2 ^ 1) : x.getLsbD k = c := by
  rw [lane_one] at h
  revert h
  cases x.getLsbD k <;> cases c <;> decide

theorem ite_mod_mod (c : Prop) [Decidable c] (a b m : Nat) : (if c then a % m else b) % m = (if c then a else b) % m := by
  split
  · exact Nat.mod_mod a m
  · rfl

/-- Settles O9: a lane move is the value of the lanes that its rule names. -/
theorem laneMoves : Obligations.LaneMoves := by
  unfold Obligations.LaneMoves
  refine fun r s => ⟨?swap, ?perm, ?bcast, ?ins, ?mask, ?sel, ?ext, ?bcmp⟩
  case swap => exact mkLanes_gives rfl (ty_fits _) fun x lanes => lanes
  case perm => exact mkLanes_gives rfl (ty_fits _) fun x lanes => lanes
  case bcast => exact mkLanes_gives rfl (ty_fits _) fun x lanes => lanes
  case ins => exact mkLanes_gives rfl (ty_fits _) fun x lanes => lanes.congr fun k _ => ite_mod_mod _ _ _ _
  case mask => exact mkLanes_gives rfl (ty_fits _) fun x lanes => lanes.congr fun k _ => by rw [tbit_eq_testBit]; rfl
  case sel => exact mkLanes_gives rfl (ty_fits _) fun x lanes => lanes.congr fun k _ => by simp only [bne_iff_ne]
  case ext => exact finish1_gives _ _ _ _ _ rfl ⟨rfl, rfl⟩
  case bcmp => exact mkLanes_gives rfl (by decide) fun x lanes => ⟨lanes.2, fun k hk => getLsbD_of_lane_one (lanes.1 k hk)⟩

end Sys2Proof
end

section
/-!
The LUT patch, `hash64`, and the release firings of combines (R81, R198 to R200, R203, R244).
-/
namespace Sys2Proof
open Machine
-- One proof after the other: side by side they would only reserve more threads.
set_option Elab.async false

variable {s : State} {i : Instr} {v : RecView}

/-! ### Look-ups (R198, R200) -/

theorem lut6_changes {r : D2} (dests : Dests1Ok s (r.view 0x68)) : Changes (.lut6 r) s s.cur.elem fun x =>
    { x.useLut (r.view 0x68).lit with
        outStage := x.outStage ++ s.flights s.cur (r.view 0x68)
          (outs1 (r.view 0x68) (s.cur.base 0 (ofLanes 1 (lutEval (s.elem s.cur.elem) (r.view 0x68).lit s.opA)))) } :=
  finish_modElem_changes (g := fun x => x.useLut (r.view 0x68).lit) (dests1Ok_outs dests _) rfl

theorem lutsm_changes {r : D2} (dests : Dests1Ok s (r.view 0x69)) : Changes (.lutsm r) s s.cur.elem fun x =>
    { x.useLut (r.view 0x69).lit with
        outStage := x.outStage ++ s.flights s.cur (r.view 0x69)
          (outs1 (r.view 0x69) (s.cur.base 0 (ofLanes 1 (lutEval (s.elem s.cur.elem) (r.view 0x69).lit s.opA))))
        lutState := lutNext x (r.view 0x69).lit (lutEval x (r.view 0x69).lit s.opA) } := by
  have ok := dests1Ok_outs dests (s.cur.base 0 (ofLanes 1 (lutEval (s.elem s.cur.elem) (r.view 0x69).lit s.opA)))
  obtain ⟨t, next, only, elem⟩ := finish_modElem_changes (i := .lutsm r) (v := r.view 0x69) (g := fun x =>
    { x.useLut (r.view 0x69).lit with lutState := lutNext x (r.view 0x69).lit (lutEval (s.elem s.cur.elem) (r.view 0x69).lit s.opA) })
    ok (if_neg (by rw [ok]; decide))
  exact ⟨t, next, only, elem⟩

theorem lutOut_lt (tt ctl input st : Nat) : lutOut tt ctl input st < 2 := Nat.mod_lt _ (by decide)

/-- Bit `j` of a look-up is the output of LUT `j`. -/
theorem lane_lutEval (x : Elem) (cfg : Nat) (a : Word) {j : Nat} (hj : j < 64) : lane 1 (ofLanes 1 (lutEval x cfg a)) j =
    lutOut (x.lut.look (cfg * 128 + 2 * j)).toNat (x.lut.look (cfg * 128 + 2 * j + 1)).toNat a.toNat x.lutState.toNat :=
  ((mkLanes_lanes 64 1 _ (by decide)).1 j hj).trans (Nat.mod_eq_of_lt (lutOut_lt _ _ _ _))

/-! ### Releases (R244) -/

theorem span_gives (e : exec i s = finish1 s v (s.spanValue, 0)) :
    Gives i s v fun x fl => x = s.cur.words[0]?.getD 0 ∧ fl = 0 :=
  finish1_gives _ _ _ _ _ e ⟨rfl, rfl⟩

/-- Settles O10: each firing sends one value, and only a look-up changes its element besides. -/
theorem lutsHashesCombines : Obligations.LutsHashesCombines := by
  unfold Obligations.LutsHashesCombines
  refine ⟨fun r s => ⟨lut6_changes, lutsm_changes, fun cfg j a hj => lane_lutEval _ cfg a hj, ?hash⟩,
    fun r s => ⟨span_gives rfl, span_gives rfl, span_gives rfl, span_gives rfl, span_gives rfl, span_gives rfl,
      span_gives rfl, span_gives rfl, span_gives rfl, span_gives rfl, ?sum⟩⟩
  case hash => exact finish1_gives _ _ _ _ _ rfl ⟨rfl, rfl⟩
  case sum => exact finish1_gives _ _ _ _ _ rfl rfl

end Sys2Proof
end

section
/-!
The macro queue and the ordered-wait store, the begin of a `lutld`, and the start, the boundary of `tzero` and the
completion of a macro-instruction (R201, R205 to R209, R213, R216, R245).
-/
namespace Sys2Proof
open Machine
-- One proof after the other: side by side they would only reserve more threads.
set_option Elab.async false

variable {s : State} {i : Instr} {v : RecView}

/-! ### Entry (R205, R206, R245) -/

theorem modElem_changes {e : Nat} {g : Elem → Elem} (next : exec i s = .next (s.modElem e g)) : Changes i s e g :=
  ⟨_, next, OnlyElem.modElem .., State.elem_modElem_same ..⟩

theorem enterMacroQ_changes {g : Firing} (next : exec i s = .next (s.enterMacroQ g))
    (room : (s.elem g.elem).macroQ.length < 8) : Changes i s g.elem fun x => { x with macroQ := x.macroQ ++ [g] } :=
  modElem_changes (next.trans (congrArg _ (if_neg (Nat.not_le.mpr room))))

theorem enterMacro_uncontrolled (none : controlPort v.op.toNat = none) : enterMacro v s = .next (s.enterMacroQ s.cur) := by
  simp only [enterMacro, none]

/-- A firing whose control word names its turn in a number of 16 bits. -/
theorem enterMacro_now {p : Nat} (port : controlPort v.op.toNat = some p) (small : (s.cur.val p).toNat < 2 ^ 16)
    (turn : v.ord = false ∨ (s.cur.val p).toNat = (s.elem s.cur.elem).seqOf v.accN) :
    enterMacro v s = .next (s.enterMacroQ { s.cur with k := (s.cur.val p).toNat }) := by
  simp only [enterMacro, port, ge_iff_le, Nat.not_le.mpr small, if_false, Nat.mod_eq_of_lt small]
  rcases turn with free | turn
  · simp only [free, Bool.not_false, if_true]
  · rw [turn]
    simp

theorem enterMacro_later {p : Nat} (port : controlPort v.op.toNat = some p) (small : (s.cur.val p).toNat < 2 ^ 16)
    (ord : v.ord = true) (ahead : 0 < ((s.cur.val p).toNat + 2 ^ 16 - (s.elem s.cur.elem).seqOf v.accN) % 2 ^ 16)
    (near : ((s.cur.val p).toNat + 2 ^ 16 - (s.elem s.cur.elem).seqOf v.accN) % 2 ^ 16 < 2 ^ 15)
    (room : (s.elem s.cur.elem).ordWait.length < 16) : enterMacro v s = .next (s.modElem s.cur.elem fun x =>
      { x with ordWait := x.ordWait ++ [{ s.cur with k := (s.cur.val p).toNat }] }) := by
  have other : (s.cur.val p).toNat ≠ (s.elem s.cur.elem).seqOf v.accN := fun same => by simp [same] at ahead
  simp only [enterMacro, port, ge_iff_le, Nat.not_le.mpr small, Nat.not_le.mpr near, Nat.not_le.mpr room, if_false,
    Nat.mod_eq_of_lt small, ord, Bool.not_true, Bool.false_eq_true, other]

/-- What an ordered instruction does with its number: it enters the queue at its turn and waits before it. -/
theorem ordered_changes {p : Nat} (e : exec i s = enterMacro v s) (port : controlPort v.op.toNat = some p)
    (small : (s.cur.val p).toNat < 2 ^ 16) :
    let x := s.elem s.cur.elem
    let g := { s.cur with k := (s.cur.val p).toNat }
    (v.ord = false ∨ (s.cur.val p).toNat = x.seqOf v.accN → x.macroQ.length < 8 →
      Changes i s s.cur.elem fun x => { x with macroQ := x.macroQ ++ [g] }) ∧
    (v.ord = true → 0 < ((s.cur.val p).toNat + 2 ^ 16 - x.seqOf v.accN) % 2 ^ 16 →
      ((s.cur.val p).toNat + 2 ^ 16 - x.seqOf v.accN) % 2 ^ 16 < 2 ^ 15 → x.ordWait.length < 16 →
      Changes i s s.cur.elem fun x => { x with ordWait := x.ordWait ++ [g] }) :=
  ⟨fun turn room => enterMacroQ_changes (e.trans (enterMacro_now port small turn)) room,
    fun ord ahead near room => modElem_changes (e.trans (enterMacro_later port small ord ahead near room))⟩

theorem unordered_changes (e : exec i s = enterMacro v s) (none : controlPort v.op.toNat = none)
    (room : (s.elem s.cur.elem).macroQ.length < 8) : Changes i s s.cur.elem fun x => { x with macroQ := x.macroQ ++ [s.cur] } :=
  enterMacroQ_changes (e.trans (enterMacro_uncontrolled none)) room

/-- An addend of `cmbtacc`, which compares SEQ modulo 256 (R245). -/
theorem cmbtacc_addend (c : D2) (addend : s.cur.words = []) :
    let v := c.view 0xAB
    let x := s.elem s.cur.elem
    exec (.cmbtacc c) s =
      if v.ord = false then .next (s.enterMacroQ s.cur)
      else if x.seqOf v.accN % 256 = s.cur.t0.seq.toNat then .next (s.enterMacroQ { s.cur with k := x.seqOf v.accN })
      else if x.ordWait.length ≥ 16 then .next (s.requeue s.cur)
      else .next (s.modElem s.cur.elem fun x => { x with ordWait := x.ordWait ++ [s.cur] }) := by
  intro v x
  have hit : x.seqHit v s.cur = decide (x.seqOf v.accN % 256 = s.cur.t0.seq.toNat) := rfl
  show execCmbtacc c s = _
  simp only [execCmbtacc, addend, List.isEmpty_nil, Bool.not_true, Bool.false_eq_true, if_false, Bool.not_eq_true',
    show (s.elem s.cur.elem).seqHit (c.view 0xAB) s.cur = _ from hit, decide_eq_true_eq]
  rfl

theorem cmbtacc_release (c : D2) (counted : s.cur.words ≠ []) :
    Gives (.cmbtacc c) s (c.view 0xAB) fun y fl => fl = 0 ∧ some y = s.cur.words[0]? := by
  obtain ⟨n, rest, words⟩ := List.exists_cons_of_ne_nil counted
  refine finish1_gives _ _ _ (s.spanValue, 0) _ ?_ ⟨rfl, ?_⟩
  · show execCmbtacc c s = _
    simp only [execCmbtacc, words, List.isEmpty_cons, Bool.not_false, if_true]
  · simp [State.spanValue, words]

/-! ### The begin of a `lutld` (R201) -/

theorem lutld_changes (c : D2) (ok : s.handleFault s.opA 0 = none) (here : sqDie (winOf s.opA).q = sqDie s.cur.sq)
    (dt : (winOf s.opA).dt = 12) (count : (winOf s.opA).count = 1024)
    (priv : c.lit.getLsbD 7 = true → (s.regionOf s.cur.sq).level = true) : Changes (.lutld c) s s.cur.elem fun x =>
      { x.useLut (c.lit.toNat % 4) with lutLoads := x.lutLoads ++ [{ f := s.cur, cfg := c.lit.toNat % 4 }] } := by
  have near : lutFar s.cur = false := by
    have : sqDie (winOf s.cur.t0.val).q = sqDie s.cur.sq := here
    simp [lutFar, this]
  have fine : (s.modElem s.cur.elem fun x => x.useLut (c.lit.toNat % 4)).lutFault s.cur.t0.val = none := by
    have : (s.modElem s.cur.elem fun x => x.useLut (c.lit.toNat % 4)).handleFault s.cur.t0.val 0 = none := ok
    have window : ((winOf s.cur.t0.val).dt != 12 || (winOf s.cur.t0.val).count != 1024) = false := by
      show ((winOf s.opA).dt != 12 || (winOf s.opA).count != 1024) = false
      simp [dt, count]
    simp only [State.lutFault, this, window, Bool.false_eq_true, if_false]
  have allowed : (tbit c.lit.toNat 7 && !(s.regionOf s.cur.sq).level) = false := by
    rw [tbit_eq_testBit, BitVec.testBit_toNat]
    cases h : c.lit.getLsbD 7 <;> simp [h, priv]
  have next : exec (.lutld c) s = .next ((s.modElem s.cur.elem fun x => x.useLut (c.lit.toNat % 4)).modElem s.cur.elem fun x =>
      { x with lutLoads := x.lutLoads ++ [{ f := s.cur, cfg := c.lit.toNat % 4 }] }) := by
    show execLutld c s = _
    have lit : (c.view 0x6A).lit = c.lit.toNat := rfl
    have level : ((s.modElem s.cur.elem fun x => x.useLut (c.lit.toNat % 4)).regionOf s.cur.sq).level = (s.regionOf s.cur.sq).level := rfl
    simp only [execLutld, lit, level, allowed, near, fine, Bool.false_eq_true, if_false]
  refine ⟨_, next, OnlyElem.modElem_modElem .., ?_⟩
  rw [State.elem_modElem_same, State.elem_modElem_same]
  rfl

end Sys2Proof
end

section
/-!
The start of a macro-instruction, the boundary of `tzero`, and completion (R207 to R209, R213, R216).
-/
namespace Sys2Proof
open Machine
-- One proof after the other: side by side they would only reserve more threads.
set_option Elab.async false

variable {s : State} {v : RecView}

/-! ### The fields of PGA (R41, R42) -/

/-- The word that `mkPga` makes, as a number, for an 8-bit opcode. -/
theorem toNat_mkPga {op acc st eidx : Nat} (val : Bool) (hop : op < 2 ^ 8) : (mkPga op acc val st eidx).toNat =
    op * 2 ^ 56 + acc % 8 * 2 ^ 53 + val.toNat * 2 ^ 52 + st % 16 * 2 ^ 48 + eidx % 2 ^ 32 := by
  have := val.toNat_le
  rw [mkPga, BitVec.toNat_ofNat, Nat.mod_eq_of_lt (by omega)]

theorem pgOp_lt (v : RecView) : pgOp v < 2 ^ 8 := by
  unfold pgOp
  split
  · decide
  · exact v.op.isLt

theorem pgaV_mkPga {op acc st eidx : Nat} (val : Bool) (hop : op < 2 ^ 8) : pgaV (mkPga op acc val st eidx) = val := by
  have field : (mkPga op acc val st eidx).toNat / 2 ^ 52 % 2 = val.toNat := by
    have := val.toNat_le
    rw [toNat_mkPga val hop]
    omega
  rw [pgaV, ← BitVec.testBit_toNat, Nat.testBit_eq_decide_div_mod_eq, field]
  cases val <;> rfl

theorem pgaSt_mkPga {op acc st eidx : Nat} (val : Bool) (hop : op < 2 ^ 8) (hst : st < 16) :
    pgaSt (mkPga op acc val st eidx) = st := by
  rw [pgaSt, fld, toNat_mkPga val hop]
  omega

theorem pgaEidx_mkPga {op acc st eidx : Nat} (val : Bool) (hop : op < 2 ^ 8) (small : eidx < 2 ^ 32) :
    pgaEidx (mkPga op acc val st eidx) = eidx := by
  rw [pgaEidx, fld, toNat_mkPga val hop]
  omega

/-! ### Start (R207, R209) -/

/-- The oldest entry `f` of the macro queue starts at the next event: the pipe is idle, its checks pass, and its buffers
are ready. -/
structure CanStart (s : State) (f : Firing) (rest : List Firing) : Prop where
  queue : (s.elem s.at_.a).macroQ = f :: rest
  elem : f.elem = s.at_.a
  idle : (s.elem s.at_.a).run = none
  sent : (s.elem s.at_.a).macroDone = none
  running : (s.elem s.at_.a).stop = false
  fresh : f.pg = none
  near : farMts f (s.view f.key) = []
  passes : s.macroFault f (s.view f.key) = none
  aligned : alignFault f (s.view f.key) = none
  ready : s.macroReady f (s.view f.key) = true
  more : 0 < macroTotal f (s.view f.key)

/-- What the start leaves of the element: `f` runs, at boundary 0, and PG says so. -/
def elemStarted (f : Firing) (v : RecView) (x : Elem) : Elem :=
  { x with macroQ := x.macroQ.drop 1, lastStop := none, startTrip := {}, run := some { f := f, total := macroTotal f v }
           pga := mkPga (pgOp v) (pgAcc v) true 1 0, pgb := mkPgb (kbOf f v 0) f }

theorem elemStarted_holds {f : Firing} {rest : List Firing} (v : RecView) {x : Elem} (queue : x.macroQ = f :: rest) :
    (elemStarted f v x).macroQ = rest ∧ (elemStarted f v x).run = some { f := f, total := macroTotal f v } ∧
    pgaV (elemStarted f v x).pga = true ∧ pgaSt (elemStarted f v x).pga = 1 ∧ pgaEidx (elemStarted f v x).pga = 0 ∧
    (elemStarted f v x).outStage = x.outStage := by
  have pga : (elemStarted f v x).pga = mkPga (pgOp v) (pgAcc v) true 1 0 := rfl
  rw [pga]
  exact ⟨by rw [elemStarted, queue]; rfl, rfl, pgaV_mkPga _ (pgOp_lt v), pgaSt_mkPga _ (pgOp_lt v) (by decide),
    pgaEidx_mkPga _ (pgOp_lt v) (by decide), by rw [elemStarted]⟩

theorem CanStart.starts {f : Firing} {rest : List Firing} (h : CanStart s f rest) : ∃ t, exec .macroStart s = .next t ∧
    OnlyElem s.at_.a s t ∧ t.elem s.at_.a = elemStarted f (s.view f.key) (s.elem s.at_.a) := by
  have same : ({ f with pg := none } : Firing) = f := by rw [← h.fresh]
  have unsaved : (s.elem s.at_.a).pgFor f = none := by
    simp [Elem.pgFor, h.fresh]
  have next : exec .macroStart s = .next (s.startMacro s.at_.a f (s.view f.key) 0) := by
    show execMacroStart s = _
    simp only [execMacroStart, h.queue, h.idle, h.sent, h.running, Option.isSome_none, Bool.or_self, Bool.false_eq_true, if_false,
      unsaved, State.startFar, h.near, if_true, State.startHead, h.passes, h.ready, Bool.not_true, h.aligned]
  have start : s.startMacro s.at_.a f (s.view f.key) 0 = _ := if_pos h.more
  rw [next, start, same, State.setPg, h.elem]
  refine ⟨_, rfl, OnlyElem.modElem_modElem .., ?_⟩
  rw [State.elem_modElem_same, State.elem_modElem_same]
  rfl

/-! ### The boundary of `tzero` (R208, R216) -/

theorem look_clearRange_in {α : Type} [Inhabited α] (m : Tbl α) {lo hi k : Nat} (low : lo ≤ k) (high : k < hi) :
    (m.clearRange lo hi).look k = default := by
  induction m with
  | nil => rfl
  | cons p m ih =>
    obtain ⟨j, w⟩ := p
    rw [Tbl.clearRange, List.filter_cons]
    split
    next kept =>
      have other : j ≠ k := by
        rintro rfl
        simp [low, high] at kept
      rw [Tbl.look, if_neg other]
      exact ih
    next => exact ih

theorem look_clearRange_out {α : Type} [Inhabited α] (m : Tbl α) {lo hi k : Nat} (out : ¬ (lo ≤ k ∧ k < hi)) :
    (m.clearRange lo hi).look k = m.look k :=
  look_filter_kept m (by rw [Bool.not_eq_true', ← Bool.decide_and, decide_eq_false_iff_not]; exact out)

/-- Behind a boundary, where no firing waits for its turn, the run and PG alone have moved on. -/
theorem passBoundary_eq {r : Run} (waiting : (s.elem r.f.elem).ordWait = []) : s.passBoundary r v = (s.modElem r.f.elem fun x =>
    { x with run := x.run.map fun y => { y with eidx := r.eidx + 1, reqs := [], trip := {}, need := none, got := none } }).setPg
      r.f v (r.eidx + 1 < r.total) (if r.eidx + 1 < r.total then 1 else 4) (r.eidx + 1) := by
  refine releaseOrdered_none ?_
  rw [State.setPg, State.elem_modElem_same, State.elem_modElem_same]
  exact waiting

/-- What the one boundary of a `tzero` leaves of the element. -/
def elemZeroed (r : Run) (v : RecView) (x : Elem) : Elem :=
  { x with acc := x.acc.clearRange (v.accN * 1024) (v.accN * 1024 + 1024), acseq := x.acseq.put v.accN 0
           accUsed := if x.accUsed.contains v.accN then x.accUsed else x.accUsed ++ [v.accN]
           run := some { f := r.f, eidx := 1, total := 1, result := r.result }
           pga := mkPga (pgOp v) (pgAcc v) false 4 1, pgb := mkPgb (kbOf r.f v 1) r.f }

theorem tzero_boundary {r : Run} (run : (s.elem s.at_.a).run = some r) (elem : r.f.elem = s.at_.a)
    (op : (s.view r.f.key).op = 0x7F) (first : r.eidx = 0) (one : r.total = 1) (idle : r.reqs = [])
    (running : (s.elem s.at_.a).stop = false) (waiting : (s.elem s.at_.a).ordWait = []) (clean : s.ecc = []) :
    ∃ t, exec .macroBoundary s = .next t ∧ OnlyElem s.at_.a s t ∧
      t.elem s.at_.a = elemZeroed r (s.view r.f.key) (s.elem s.at_.a) := by
  have code : (s.view r.f.key).op.toNat = 0x7F := by rw [op]; rfl
  have ports : macroPorts (s.view r.f.key) = ([], none) := by simp only [macroPorts, code]
  have noHandles : handlePortsUp (s.view r.f.key) = [] := by simp [handlePortsUp, handlePorts, ports]
  have bound : AtBoundary s r := ⟨run, elem, by omega, by simp [farMts, handlePorts, ports]⟩
  have fresh : s.handlesStale r.f (handlePortsUp (s.view r.f.key)) = none := by rw [noHandles]; rfl
  have noRow : s.rowNeed r.f (s.view r.f.key) r.eidx = none := by simp only [State.rowNeed, code]
  have zeroed : s.boundary r.f (s.view r.f.key) r.eidx = s.zeroAcc r.f.elem (s.view r.f.key).accN := by
    simp only [State.boundary, code]
  have near := macroBoundary_near bound idle running
  rw [nearBoundary_done fresh clean noRow (by rw [zeroed]; exact clean), zeroed, passBoundary_eq (by
    rw [State.zeroAcc, State.elem_modElem_same, elem]; exact waiting), first, one, State.setPg, State.zeroAcc, elem] at near
  refine ⟨_, near, (OnlyElem.modElem_modElem ..).trans (OnlyElem.modElem ..), ?_⟩
  rw [State.elem_modElem_same, State.elem_modElem_same, State.elem_modElem_same]
  simp only [run, Option.map_some, one]
  rfl

/-- Its accumulator holds zeros, and SEQ of it is 0; the others are as they were; PG is no longer valid. -/
theorem elemZeroed_holds (r : Run) (v : RecView) (x : Elem) :
    (∀ i, i < 1024 → (elemZeroed r v x).acc.look (v.accN * 1024 + i) = 0) ∧
    (∀ j, j / 1024 ≠ v.accN → (elemZeroed r v x).acc.look j = x.acc.look j) ∧ (elemZeroed r v x).seqOf v.accN = 0 ∧
    (∀ a, a ≠ v.accN → (elemZeroed r v x).acseq.look a = x.acseq.look a) ∧ pgaV (elemZeroed r v x).pga = false ∧
    pgaSt (elemZeroed r v x).pga = 4 := by
  refine ⟨fun i hi => look_clearRange_in _ (by omega) (by omega), fun j hj => look_clearRange_out _ (by omega), ?_,
    fun a ha => Tbl.look_put_other x.acseq v.accN a 0 ha, pgaV_mkPga _ (pgOp_lt v), pgaSt_mkPga _ (pgOp_lt v) (by decide)⟩
  rw [Elem.seqOf, elemZeroed, Tbl.look_put_same]
  rfl

/-! ### Completion (R213) -/

/-- A macro-instruction that has passed all its boundaries and keeps its sources: only F of its destination is set. -/
theorem finishMacro_setsF {r : Run} (keeps : v.dropFlag = false) (free : v.ord = false) : ∃ m,
    s.finishMacro r v = { s with mts := m } ∧ ∀ d, (macroPorts v).2 = some d →
      ({ s with mts := m } : State).desc (r.f.win d).q (r.f.win d).buf = setField (s.desc (r.f.win d).q (r.f.win d).buf) 62 1 1 := by
  have drops : dropPorts v = [] := if_neg (Bool.eq_false_iff.mp keeps)
  cases dst : (macroPorts v).2 with
  | none =>
    refine ⟨s.mts, ?_, fun d hd => nomatch hd⟩
    simp only [State.finishMacro, dst, drops, free, List.foldl_nil, Bool.false_and, Bool.false_eq_true, if_false]
  | some d =>
    refine ⟨(s.setF (r.f.win d).q (r.f.win d).buf true).mts, ?_, fun d' hd => ?_⟩
    · simp only [State.finishMacro, dst, drops, free, List.foldl_nil, Bool.false_and, Bool.false_eq_true, if_false]
      rfl
    · obtain rfl := Option.some.inj hd
      exact (modDesc_sets s _ _ _).same

/-- The result of the completed macro-instruction `r` finds room in the output stage. -/
structure CanComplete (s : State) (r : Run) : Prop where
  sent : (s.elem s.at_.a).macroDone = none
  run : (s.elem s.at_.a).run = some r
  elem : r.f.elem = s.at_.a
  all : r.eidx = r.total
  plain : (s.view r.f.key).op ≠ 0xAB
  keeps : (s.view r.f.key).dropFlag = false
  near : farMts r.f (s.view r.f.key) = []
  home : r.trip = {}
  unmarked : s.marksAhead s.at_.a r.f.key = false
  free : (s.view r.f.key).ord = false
  dests : Dests1Ok s (s.view r.f.key)
  room : (s.elem s.at_.a).outStage.length + s.asked s.at_.a + (outs1 (s.view r.f.key) {}).length ≤ 4

/-- A result that finds room goes to the output stage. -/
theorem sendMacro_sends {e : Nat} {r : Run} (elem : r.f.elem = e) (unmarked : s.marksAhead e r.f.key = false)
    (dests : Dests1Ok s v) (room : (s.elem e).outStage.length + s.asked e + (outs1 v {}).length ≤ 4) :
    s.sendMacro e r v = (s.modElem e fun x => { x with macroDone := none }).modElem e fun x =>
      { x with outStage := x.outStage ++ s.flights r.f v (outs1 v (macroToken r v)) } := by
  have fits : ¬ (s.elem e).outStage.length + s.asked e + (outs1 v (macroToken r v)).length > 4 := by
    rw [length_outs1 v _ {}]
    omega
  have ok : (s.modElem e fun x => { x with macroDone := none }).sendFault (outs1 v (macroToken r v)) = none :=
    dests1Ok_outs dests _
  simp only [State.sendMacro, unmarked, fits, decide_false, Bool.or_self, Bool.false_eq_true, if_false]
  rw [State.send_ok _ _ _ _ _ ok, elem]
  rfl

theorem CanComplete.completes {r : Run} (h : CanComplete s r) : ∃ t, exec .macroComplete s = .next t ∧
    t = { s with elems := t.elems, mts := t.mts } ∧ (∀ k, k ≠ s.at_.a → t.elem k = s.elem k) ∧
    t.elem s.at_.a = { s.elem s.at_.a with
      run := none
      outStage := (s.elem s.at_.a).outStage ++
        s.flights r.f (s.view r.f.key) (outs1 (s.view r.f.key) (macroToken r (s.view r.f.key))) } ∧
    (∀ d, (macroPorts (s.view r.f.key)).2 = some d → t.desc (r.f.win d).q (r.f.win d).buf =
      setField (s.desc (r.f.win d).q (r.f.win d).buf) 62 1 1) := by
  obtain ⟨m, finished, full⟩ := finishMacro_setsF (s := s.modElem s.at_.a fun x => { x with run := none }) (r := r) h.keeps h.free
  let u : State := { s.modElem s.at_.a fun x => { x with run := none } with mts := m }
  have left : u.elem s.at_.a = { s.elem s.at_.a with run := none } := by
    show (s.modElem s.at_.a fun x => { x with run := none }).elem s.at_.a = _
    rw [State.elem_modElem_same]
  have past : (decide (r.eidx < r.total) || s.onTrip r.trip) = false := by simp [h.all, h.home, State.onTrip]
  have next : exec .macroComplete s = .next (u.sendMacro s.at_.a r (s.view r.f.key)) := by
    show execMacroComplete s = _
    simp only [execMacroComplete, h.sent, h.run, past, Bool.false_eq_true, if_false, h.near, if_true, finished,
      beq_eq_false_iff_ne.mpr h.plain]
    rfl
  rw [sendMacro_sends (s := u) h.elem (by rw [State.marksAhead, left]; exact h.unmarked) h.dests (by rw [left]; exact h.room)] at next
  refine ⟨_, next, rfl, fun k hk => ?_, ?_, full⟩
  · rw [State.elem_modElem_other _ _ _ _ hk, State.elem_modElem_other _ _ _ _ hk]
    exact State.elem_modElem_other s _ _ (fun x => { x with run := none }) hk
  · rw [State.elem_modElem_same, State.elem_modElem_same, left]
    simp only [h.sent]
    rfl

/-! ### The statement -/

/-- Settles O39: the entry of each instruction, and what start, boundary and completion leave of the element. -/
theorem macrosQueueAndRun : Obligations.MacrosQueueAndRun := by
  unfold Obligations.MacrosQueueAndRun
  refine ⟨fun r s => ?entry, fun s => ⟨?start, ?zero, ?complete⟩⟩
  case entry =>
    refine ⟨fun small => ordered_changes (v := r.view 0x70) (p := 2) rfl rfl small,
      fun small => ordered_changes (v := r.view 0x71) (p := 1) rfl rfl small,
      unordered_changes (v := r.view 0x72) rfl rfl, unordered_changes (v := r.view 0x73) rfl rfl,
      unordered_changes (v := r.view 0x74) rfl rfl, unordered_changes (v := r.view 0x75) rfl rfl,
      unordered_changes (v := r.view 0x76) rfl rfl, unordered_changes (v := r.view 0x77) rfl rfl,
      unordered_changes (v := r.view 0x78) rfl rfl, unordered_changes (v := r.view 0x79) rfl rfl,
      unordered_changes (v := r.view 0x7A) rfl rfl, unordered_changes (v := r.view 0x7B) rfl rfl,
      unordered_changes (v := r.view 0x7C) rfl rfl, unordered_changes (v := r.view 0x7D) rfl rfl,
      unordered_changes (v := r.view 0x7E) rfl rfl, unordered_changes (v := r.view 0x7F) rfl rfl,
      unordered_changes (v := r.view 0x80) rfl rfl, unordered_changes (v := r.view 0x81) rfl rfl,
      unordered_changes (v := r.view 0x82) rfl rfl,
      fun c => ⟨?free, ?turn, ?wait, cmbtacc_release c⟩, fun c => lutld_changes c⟩
    case free =>
      intro addend free room
      exact enterMacroQ_changes ((cmbtacc_addend c addend).trans (if_pos free)) room
    case turn =>
      intro addend ord turn room
      exact enterMacroQ_changes ((cmbtacc_addend c addend).trans ((if_neg fun free => Bool.noConfusion (ord.symm.trans free)).trans (if_pos turn))) room
    case wait =>
      intro addend ord ahead room
      exact modElem_changes ((cmbtacc_addend c addend).trans ((if_neg fun free => Bool.noConfusion (ord.symm.trans free)).trans
        ((if_neg ahead).trans (if_neg (Nat.not_le.mpr room)))))
  case start =>
    intro f rest v queue elem idle sent running fresh near passes aligned ready more
    obtain ⟨t, next, only, now⟩ := CanStart.starts ⟨queue, elem, idle, sent, running, fresh, near, passes, aligned, ready, more⟩
    exact ⟨t, next, only, by rw [now]; exact elemStarted_holds v queue⟩
  case zero =>
    intro r v run elem op first one idle running waiting clean
    obtain ⟨t, next, only, now⟩ := tzero_boundary run elem op first one idle running waiting clean
    exact ⟨t, next, only, by rw [now]; exact ⟨rfl, elemZeroed_holds r v _⟩⟩
  case complete =>
    intro r v sent run elem all plain keeps near home unmarked free dests room
    exact CanComplete.completes ⟨sent, run, elem, all, plain, keeps, near, home, unmarked, free, dests, room⟩

end Sys2Proof
end

section
/-!
`tslice`, `tget` and `tset` on the firing's own die (R219, R229).
-/
namespace Sys2Proof
open Machine
-- One proof after the other: each thread beside it would reserve a stack of its own.
set_option Elab.async false

variable {s : State} {i : Instr} {v : RecView} {f : Firing} {w : Win}

/-! ### An operation that reads its buffer -/

theorem tileOp_window (ok : s.handleFault f.t0.val 0 = none) :
    (v.op.toNat = 0x83 → s.tileOp f v = s.tsliceAt f (winOf f.t0.val)) ∧
    (v.op.toNat = 0x88 → s.tileOp f v = s.tgetAt f v (winOf f.t0.val)) ∧
    (v.op.toNat = 0x89 → s.tileOp f v = s.tsetAt f v (winOf f.t0.val)) := by
  refine ⟨?_, ?_, ?_⟩ <;> intro op <;> simp only [State.tileOp, ok, op]

/-- An operation whose change of the state comes to nothing sends its token with its flags, and no more. -/
theorem tileNode_sends_flags {tok : Token} {fl : Flags} {upd : State → State} (near : sqDie (winOf s.opA).q = sqDie s.cur.sq)
    (op : s.tileOp s.cur v = .ok tok fl upd) (keeps : ∀ g, upd (s.modElem s.cur.elem g) = s.modElem s.cur.elem g)
    (dests : Dests1Ok s v) (e : exec i s = tileNode v s) : Sends i s v (outs1 v tok) fl := by
  by_cases quiet : fl = 0
  · subst quiet
    refine ⟨_, e.trans ((tileNode_near near op dests).trans (congrArg _ (keeps _))), OnlyElem.modElem .., ?_⟩
    exact (State.elem_modElem_same ..).trans (by simp)
  · have here : s.tileFar s.cur s.opA = false := by simp [State.tileFar, near]
    have ok : s.sendFault (outs1 v tok) = none := (sendFault_outs1 s v tok {}).trans dests
    refine finish_sends i s v _ fl ok (e.trans ?_)
    simp only [tileNode, here, op, Bool.false_eq_true, if_false, finishWith, finish, ok, s.send_ok _ _ _ _ ok,
      Option.isSome_none, keeps, quiet]

/-! ### A window of a window (R46, R219) -/

/-- A handle is its fields. -/
theorem handle_fields (h : Word) : h.toNat = fld h.toNat 32 32 * 2 ^ 32 + ((winOf h).rows - 1) * 2 ^ 26 +
    ((winOf h).cols - 1) * 2 ^ 19 + (winOf h).rb * 2 ^ 13 + (winOf h).cb * 2 ^ 6 + fld h.toNat 0 6 := by
  have bound := h.isLt
  simp only [winOf, fld, Nat.add_sub_cancel]
  omega

/-- The word of `tslice`: window `x` within window `w` of the handle `a`. -/
def sliceWord (a : Word) (w x : Win) : Word :=
  BitVec.ofNat 64 (fld a.toNat 32 32 * 2 ^ 32 + (x.rows - 1) * 2 ^ 26 + (x.cols - 1) * 2 ^ 19 +
    (w.rb + x.rb) % 64 * 2 ^ 13 + (w.cb + x.cb) % 128 * 2 ^ 6)

/-- It is the one handle that names the window and agrees with `a` above it. -/
theorem sliceWord_eq {h a : Word} {x : Win} (top : h.extractLsb' 32 32 = a.extractLsb' 32 32) (low : fld h.toNat 0 6 = 0)
    (row : w.rb + x.rb < 64) (col : w.cb + x.cb < 128)
    (win : winOf h = { w with rows := x.rows, cols := x.cols, rb := w.rb + x.rb, cb := w.cb + x.cb }) :
    sliceWord a w x = h := by
  have upper : fld h.toNat 32 32 = fld a.toNat 32 32 := by
    have := congrArg BitVec.toNat top
    rwa [BitVec.extractLsb'_toNat, BitVec.extractLsb'_toNat, Nat.shiftRight_eq_div_pow, Nat.shiftRight_eq_div_pow] at this
  have fields := handle_fields h
  rw [win, low, upper, Nat.add_zero] at fields
  rw [sliceWord, Nat.mod_eq_of_lt row, Nat.mod_eq_of_lt col, ← fields, BitVec.ofNat_toNat, BitVec.setWidth_eq]

theorem tsliceAt_ok (high : fld f.t1.val.toNat 32 32 = 0) (low : fld f.t1.val.toNat 0 6 = 0)
    (rows : (winOf f.t1.val).rb + (winOf f.t1.val).rows ≤ w.rows) (cols : (winOf f.t1.val).cb + (winOf f.t1.val).cols ≤ w.cols)
    (ok : s.handleFault (sliceWord f.t0.val w (winOf f.t1.val)) 0 = none) :
    s.tsliceAt f w = .ok (f.base 1 (sliceWord f.t0.val w (winOf f.t1.val))) 0 id := by
  rw [sliceWord] at ok
  simp only [State.tsliceAt, high, low, bne_self_eq_false, Bool.or_self, Bool.false_eq_true, if_false, gt_iff_lt,
    Nat.not_lt.mpr rows, Nat.not_lt.mpr cols, decide_false, ok, sliceWord]

/-! ### Reading an element (R229) -/

theorem Machine.State.countCe_of_no_correctable (clean : ∀ k, s.ecc.look k ≠ 1) (a n : Nat) : s.countCe a n = s := by
  have hits (l : List Nat) : l.filter (fun k => s.ecc.look k == 1) = [] := by simp [clean]
  rw [State.countCe, hits]
  rfl

theorem elemCe_of_no_correctable (clean : ∀ k, s.ecc.look k ≠ 1) (w : Win) (r c n : Nat) : s.elemCe w r c n = s := by
  simp only [State.elemCe, State.countCe_of_no_correctable clean, ite_self]

theorem tgetAt_ok (inside : (portB v f).toNat % 2 ^ 32 < w.count)
    (good : s.elemBad w ((portB v f).toNat % 2 ^ 32 / w.cols) ((portB v f).toNat % 2 ^ 32 % w.cols) 1 = none) :
    let r := (portB v f).toNat % 2 ^ 32 / w.cols
    let c := (portB v f).toNat % 2 ^ 32 % w.cols
    s.tgetAt f v w = .ok (f.base 0 (s.elemValue w r c).1) (s.elemValue w r c).2 fun t => t.elemCe w r c 1 := by
  simp only [State.tgetAt, ge_iff_le, Nat.not_le.mpr inside, if_false, good]

theorem tget_gives {r : D2} {P : Word → Flags → Prop} (ok : s.handleFault s.opA 0 = none)
    (near : sqDie (winOf s.opA).q = sqDie s.cur.sq) :
    let w := winOf s.opA
    let x := (s.opB (r.view 0x88)).toNat % 2 ^ 32
    x < w.count → s.elemBad w (x / w.cols) (x % w.cols) 1 = none → (∀ k, s.ecc.look k ≠ 1) →
    P (s.elemValue w (x / w.cols) (x % w.cols)).1 (s.elemValue w (x / w.cols) (x % w.cols)).2 →
    Gives (.tget r) s (r.view 0x88) P := by
  intro w x inside good clean holds dests
  obtain ⟨-, tget, -⟩ := tileOp_window (f := s.cur) (v := r.view 0x88) ok
  exact ⟨_, _, holds, tileNode_sends_flags near ((tget rfl).trans (tgetAt_ok inside good))
    (fun _ => elemCe_of_no_correctable (s := s.modElem _ _) clean ..) dests rfl⟩

theorem elemValue_dense (dense : dtMx w.dt = false) (r c : Nat) : s.elemValue w r c = (BitVec.ofInt 64 (s.intAt w r c), 0) := by
  simp only [State.elemValue, dense, Bool.false_eq_true, if_false]

theorem fp32_signed_lt {neg : Bool} {x : Nat} (h : x < 2 ^ 31) : fp32.signed neg x < 2 ^ 32 := by
  cases neg <;> simp only [Fmt.signed, fp32, if_true, Bool.false_eq_true, if_false] <;> omega

theorem fp32_overflow_lt (r : Rnd) (neg : Bool) : (fp32.overflow r neg).1 < 2 ^ 32 := by
  have inf : fp32.inf neg < 2 ^ 32 := fp32_signed_lt (by decide)
  have largest : fp32.signed neg fp32.maxEnc < 2 ^ 32 := fp32_signed_lt (by decide)
  unfold Fmt.overflow
  split
  · exact largest
  · dsimp only
    split
    · exact largest
    · split
      · exact inf
      · show fp32.nan < _
        decide

theorem fp32_round_lt (r : Rnd) (neg : Bool) (x : Mag) : (fp32.round r neg x).1 < 2 ^ 32 := by
  unfold Fmt.round
  dsimp only
  split
  · exact fp32_signed_lt (by decide)
  · generalize Int.toNat _ * 2 ^ fp32.mb + _ = enc
    split
    · exact fp32_overflow_lt r neg
    · rename_i fits
      exact fp32_signed_lt (lt_of_le_of_lt (not_lt.mp fits) (by decide))

/-- An encoding of FP32 is 32 bits long. -/
theorem fp32_pack_lt (r : Rnd) (x : FVal) : (fp32.pack r x).1 < 2 ^ 32 := by
  cases x with
  | nan sig =>
    rw [pack_nan_fst]
    decide
  | inf neg => exact fp32_signed_lt (x := (2 ^ 8 - 1) * 2 ^ 23) (by decide)
  | fin neg m e => exact fp32_round_lt r neg _

/-- An element of an MX tile is its FP32 encoding, with the flags of that rounding (log 57). -/
theorem elemValue_mx (mx : dtMx w.dt = true) (r c : Nat) :
    ((s.elemValue w r c).1.toNat, (s.elemValue w r c).2) = fp32.pack rne (s.fltAt w r c) := by
  have short : (fp32.pack rne (s.fltAt w r c)).1 < 2 ^ 64 := (fp32_pack_lt ..).trans (by decide)
  simp only [State.elemValue, mx, if_true, BitVec.toNat_ofNat, Nat.mod_eq_of_lt short]

/-! ### The checked words of an element (R326) -/

theorem eccWord_scratchPa {q off : Nat} (sq : q < 2 ^ 14) (small : off < 2 ^ 24) :
    eccWord (scratchPa q off) = scratchPa q (off / 8 * 8) := by
  have scratch : isScratch (scratchPa q off) = true := by
    simp only [isScratch, scratchPa, sqDie, sqX, sqY, beq_iff_eq]
    omega
  rw [eccWord, if_pos scratch]
  simp only [scratchPa]
  omega

/-- The elements of a window lie in the first 2^23 bytes of an MT. -/
theorem elemBit_lt (d h : Word) {r c : Nat} (row : r < (winOf h).rows) (col : c < (winOf h).cols) :
    elemBit d (winOf h) r c + dtW (winOf h).dt ≤ 2 ^ 26 := by
  have base : fld d.toNat 22 16 < 2 ^ 16 := fld_lt ..
  have stride : fld d.toNat 10 6 < 2 ^ 6 := fld_lt ..
  have rows : fld h.toNat 26 6 < 2 ^ 6 := fld_lt ..
  have cols : fld h.toNat 19 7 < 2 ^ 7 := fld_lt ..
  have rb : fld h.toNat 13 6 < 2 ^ 6 := fld_lt ..
  have cb : fld h.toNat 6 7 < 2 ^ 7 := fld_lt ..
  have width := dtW_le (winOf h).dt
  have line : (winOf h).rb + r ≤ 128 := by simp only [winOf] at row ⊢; omega
  have place : (winOf h).cb + c ≤ 256 := by simp only [winOf] at col ⊢; omega
  have lines := Nat.mul_le_mul line (show dStride d ≤ 512 by simp only [dStride]; omega)
  have places := Nat.mul_le_mul place width
  have start : dBase d ≤ 2 ^ 22 := by simp only [dBase]; omega
  simp only [elemBit]
  omega

/-- Every word that an element lies in is the checked word of one of its bytes. -/
theorem elemWords_checked {h : Word} {r c k : Nat} {full : Bool} (row : r < (winOf h).rows) (col : c < (winOf h).cols)
    (mem : k ∈ s.elemWords (winOf h) r c 1 full) : ∃ j, j < (s.elemSpan (winOf h) r c 1).2 ∧
      k = eccWord ((s.elemSpan (winOf h) r c 1).1 + j) := by
  have sq : (winOf h).q < 2 ^ 14 := fld_lt ..
  have bound := elemBit_lt (s.desc (winOf h).q (winOf h).buf) h row col
  have width := dtW_pos (winOf h).dt
  simp only [State.elemWords, State.elemSpan, Nat.one_mul, List.mem_map, List.mem_filter, List.mem_range] at mem ⊢
  obtain ⟨_, ⟨⟨n, last, rfl⟩, -⟩, rfl⟩ := mem
  generalize elemBit _ _ r c = o at *
  generalize dtW _ = b at *
  refine ⟨max (o / 8) (8 * (o / 64 + n)) - o / 8, by omega, ?_⟩
  have place : scratchPa (winOf h).q (o / 8) + (max (o / 8) (8 * (o / 64 + n)) - o / 8) =
      scratchPa (winOf h).q (max (o / 8) (8 * (o / 64 + n))) := by
    rw [scratchPa_add _ (o / 8), scratchPa_add _ (max _ _)]
    omega
  rw [place, eccWord_scratchPa sq (by omega)]
  congr 1
  omega

/-- An element that can be read can be written. -/
theorem elemWords_good {h : Word} {r c : Nat} {full : Bool} (row : r < (winOf h).rows) (col : c < (winOf h).cols)
    (good : s.elemBad (winOf h) r c 1 = none) :
    ((s.elemWords (winOf h) r c 1 full).find? fun a => s.ecc.look a == 2) = none := by
  have bytes : s.eccBad (s.elemSpan (winOf h) r c 1).1 (s.elemSpan (winOf h) r c 1).2 = none := by
    unfold State.elemBad at good
    dsimp only at good
    split at good
    · exact nomatch good
    · assumption
  rw [State.eccBad, List.find?_eq_none] at bytes
  rw [List.find?_eq_none]
  intro k mem
  obtain ⟨j, inside, rfl⟩ := elemWords_checked row col mem
  exact bytes _ (List.mem_map_of_mem (List.mem_range.mpr inside))

/-! ### Writing an element (R229) -/

/-- Element (r, c) is written, and the words that it fills are good again. -/
def Machine.State.setElem (s : State) (w : Win) (r c x : Nat) : State := (s.putElem w r c x).writeMend w r c 1

theorem tsetAt_skips (low : fld (portB v f).toNat 32 31 = 0) (skip : tbit (portB v f).toNat 63 = true) :
    s.tsetAt f v w = .ok (f.base 1 f.t0.val) 0 id := by
  simp only [State.tsetAt, low, skip, bne_self_eq_false, Bool.false_eq_true, if_false, if_true]

theorem tsetAt_writes {h : Word} (inside : (portB v f).toNat < (winOf h).count) (short : (portB v f).toNat < 2 ^ 32)
    (good : s.elemBad (winOf h) ((portB v f).toNat / (winOf h).cols) ((portB v f).toNat % (winOf h).cols) 1 = none) :
    let r := (portB v f).toNat / (winOf h).cols
    let c := (portB v f).toNat % (winOf h).cols
    s.tsetAt f v (winOf h) = .ok (f.base 1 f.t0.val) 0 fun t => t.setElem (winOf h) r c f.t2.val.toNat := by
  have low : fld (portB v f).toNat 32 31 = 0 := by
    rw [fld]
    omega
  have write : tbit (portB v f).toNat 63 = false := by
    rw [tbit, Nat.div_eq_of_lt (by omega)]
    rfl
  have row : (portB v f).toNat / (winOf h).cols < (winOf h).rows :=
    Nat.div_lt_of_lt_mul (by rwa [Win.count, Nat.mul_comm] at inside)
  have col : (portB v f).toNat % (winOf h).cols < (winOf h).cols := Nat.mod_lt _ (Nat.succ_pos _)
  simp only [State.tsetAt, low, write, Nat.mod_eq_of_lt short, ge_iff_le, Nat.not_le.mpr inside, bne_self_eq_false,
    Bool.false_eq_true, if_false, elemWords_good row col good]
  rfl

theorem writeMend_frame (s : State) (w : Win) (r c n : Nat) :
    s.writeMend w r c n = { s with ecc := (s.writeMend w r c n).ecc } :=
  foldl_keeps (P := fun t : State => t = { s with ecc := t.ecc }) (fun t x ht => by rw [ht]) _ rfl

theorem setElem_mem (s : State) (w : Win) (r c x : Nat) : (s.setElem w r c x).mem = (s.putElem w r c x).mem := by
  rw [State.setElem, writeMend_frame]

theorem setElem_frame (s : State) (w : Win) (r c x : Nat) : s.setElem w r c x =
    { s with mem := (s.setElem w r c x).mem, high := (s.setElem w r c x).high, ecc := (s.setElem w r c x).ecc } := by
  rw [State.setElem, writeMend_frame]
  generalize ((s.putElem w r c x).writeMend w r c 1).ecc = words
  rw [MemOnly.putElem s w r c x]

theorem elem_setElem (s : State) (w : Win) (r c x k : Nat) : (s.setElem w r c x).elem k = s.elem k := by
  rw [setElem_frame]
  rfl

/-- The bytes that hold an element, once it is written. -/
theorem testBit_rd_setElem (s : State) (w : Win) (r c x j : Nat) :
    let p := s.elemSpan w r c 1
    let o := elemBit (s.desc w.q w.buf) w r c % 8
    ((s.setElem w r c x).rd p.1 p.2).testBit j =
      if j < o ∨ o + dtW w.dt ≤ j then (s.rd p.1 p.2).testBit j else x.testBit (j - o) := by
  intro p o
  obtain ⟨first, last, offset⟩ := elemSpan_bits s w r c 1
  change 8 * p.1 ≤ _ at first
  change _ ≤ 8 * (p.1 + p.2) at last
  change _ - 8 * p.1 = o at offset
  rw [State.rd_of_mem (setElem_mem ..), testBit_rd, testBit_rd, bitAt_putElem]
  by_cases outside : j < o ∨ o + dtW w.dt ≤ j
  · rw [if_pos outside, if_neg (by omega)]
  · have read : j < 8 * p.2 := by omega
    have place : 8 * p.1 + j - s.elemPos w r c = j - o := by omega
    rw [if_neg outside, if_pos (by omega), decide_eq_true read, Bool.true_and, place]

theorem byte_setElem_out {r c x a : Nat}
    (out : a < (s.elemSpan w r c 1).1 ∨ (s.elemSpan w r c 1).1 + (s.elemSpan w r c 1).2 ≤ a) :
    (s.setElem w r c x).byte a = s.byte a := by
  rw [State.byte_of_mem (setElem_mem ..), State.putElem]
  exact State.byte_wr_out _ _ _ _ _ out

/-- Settles O38: each is one operation on the tile, which reads or writes no byte outside the element's own. -/
theorem windowsAndElements : Obligations.WindowsAndElements := by
  unfold Obligations.WindowsAndElements
  intro s w e ok near
  refine ⟨fun r h => ?slice, fun r => ?dense, fun r => ?mx, fun r => ?skip, fun r => ?write⟩
  case slice =>
    intro v b x high low rows cols row col top low' win good dests
    obtain ⟨tslice, -, -⟩ := tileOp_window (f := s.cur) (v := v) ok
    rw [← sliceWord_eq (a := s.opA) top low' row col win] at good ⊢
    exact tileNode_sends near ((tslice rfl).trans (tsliceAt_ok high low rows cols good)) dests rfl
  case dense =>
    intro v x inside good clean dense
    refine tget_gives ok near inside good clean ?_
    rw [elemValue_dense dense]
    exact ⟨rfl, rfl⟩
  case mx =>
    intro v x inside good clean mx
    exact tget_gives ok near inside good clean (elemValue_mx mx ..)
  case skip =>
    intro v b low skip dests
    obtain ⟨-, -, tset⟩ := tileOp_window (f := s.cur) (v := v) ok
    exact tileNode_sends near ((tset rfl).trans (tsetAt_skips low skip)) dests rfl
  case write =>
    intro v x p o inside short good dests
    obtain ⟨-, -, tset⟩ := tileOp_window (f := s.cur) (v := v) ok
    refine ⟨_, tileNode_near near ((tset rfl).trans (tsetAt_writes inside short good)) dests, ?_, fun k other => ?_, ?_,
      fun j => ?_, fun a out => ?_⟩
    · rw [setElem_frame]
      rfl
    · exact (elem_setElem ..).trans (State.elem_modElem_other _ _ _ _ other)
    · exact (elem_setElem ..).trans (State.elem_modElem_same ..)
    · simp only [tbit_eq_testBit]
      exact testBit_rd_setElem (s.modElem _ _) w (x / w.cols) (x % w.cols) _ j
    · exact byte_setElem_out (s := s.modElem _ _) out

end Sys2Proof
end

section
/-!
Operations on queues, barrier cells, generators, converters and other objects as they leave their element (R246, R250, R252,
R256, R257, R260, R264, R271 to R275, R404).
-/
namespace Sys2Proof
-- One proof after the other: side by side they would only keep threads and their memory.
set_option Elab.async false
open Machine

variable {s : State}

/-- The firing becomes one request to the object `tgt` on the square of `pa`, which leaves at once, and nothing else changes
(R404). -/
def AsksObj (i : Instr) (s : State) (v : RecView) (tgt pa : Nat) : Prop := ∃ t b, exec i s = .next t ∧
  t = { s with serial := t.serial, reqs := t.reqs, chans := t.chans } ∧
  (∀ n, n ≠ s.serial + 1 → t.reqs.look n = s.reqs.look n) ∧
  Posts { s with serial := s.serial + 1 } t (sqDie s.cur.sq) (homeDie pa) b ∧
  t.reqs.look (s.serial + 1) =
    { f := s.cur, op := v.op.toNat, rid := s.ridOf s.cur.sq, lid := s.lidOf s.cur.sq, die := sqDie s.cur.sq
      cluster := clusterOf s.cur.sq, size := 16, pa := some pa, tgt := tgt, stage := .sent
      start := s.tick (sqDie s.cur.sq), tout := (s.die (sqDie s.cur.sq)).reqto.toNat, via := b, data := [portB v s.cur] }

theorem asksObj_of_askObj {i : Instr} {v : RecView} {tgt pa : Nat} (e : exec i s = .next (s.askObj v tgt pa)) :
    AsksObj i s v tgt pa := by
  let r : MReq :=
    { f := s.cur, op := v.op.toNat, rid := s.ridOf s.cur.sq, lid := s.lidOf s.cur.sq, die := sqDie s.cur.sq
      cluster := clusterOf s.cur.sq, size := 16, pa := some pa, tgt := tgt, stage := .sent
      start := s.tick (sqDie s.cur.sq), tout := (s.die (sqDie s.cur.sq)).reqto.toNat, data := [portB v s.cur] }
  let asked := { s with serial := s.serial + 1, reqs := s.reqs.put (s.serial + 1) r }
  obtain ⟨n, posts, reqs⟩ := sendReq_posts asked (s.serial + 1) (sqDie s.cur.sq) (homeDie pa)
  refine ⟨_, n, e, sendReq_frame asked _ _ _, fun k hk => ?_, ⟨posts.1, posts.2⟩, ?_⟩
  · exact (congrArg (Tbl.look · k) reqs).trans ((Tbl.look_upd_other _ _ _ _ hk).trans (Tbl.look_put_other _ _ _ _ hk))
  · refine (congrArg (Tbl.look · (s.serial + 1)) reqs).trans ((Tbl.look_upd_same _ _ _).trans ?_)
    exact congrArg (fun x : MReq => { x with via := n }) (Tbl.look_put_same ..)

/-! ### The operations, past their checks -/

theorem queueOp_asks {v : RecView} {k : Nat} (h : (s.load (s.lidOf s.cur.sq)).queues[v.lit]? = some k) :
    queueOp v s = .next (s.askObj v k (scratchPa (k / 4) 0)) := by
  simp only [queueOp, State.queueKey, h, askMt]

theorem execQarm_asks {r : D2} {k : Nat} {t : Template} (h : (s.load (s.lidOf s.cur.sq)).queues[r.lit.toNat]? = some k)
    (tmpl : (s.queue k).tmpl = some t)
    (armed : (t.src ≠ .arm ∧ t.dst ≠ .arm ∧ s.opA = 0) ∨
      ((t.src = .arm ∨ t.dst = .arm) ∧ s.opA.toNat < 2 ^ 56 ∧ s.armFault t s.opA.toNat = none)) :
    exec (.qarm r) s = .next (s.askObj (r.view 0xB5) k (scratchPa (k / 4) 0)) := by
  have named : ((s.queueKey s.cur (r.view 0xB5).lit).bind fun k => (s.queue k).tmpl) = some t :=
    (congrArg (Option.bind · fun k => (s.queue k).tmpl) h).trans tmpl
  rw [← queueOp_asks (v := r.view 0xB5) h]
  show execQarm r s = _
  simp only [execQarm, named]
  rcases armed with ⟨src, dst, zero⟩ | ⟨side, low, ok⟩
  · simp [src, dst, zero]
  · have some_side : (t.src != .arm && t.dst != .arm) = false := by
      rcases side with side | side <;> simp [side]
    simp only [some_side, Bool.false_eq_true, if_false, ge_iff_le, Nat.not_le.mpr low, ok]

theorem barrierOp_asks {v : RecView} {b k : Nat} (h : (s.load (s.lidOf s.cur.sq)).barriers[b]? = some k) :
    barrierOp v b s = .next (s.askObj v k (scratchPa (k / 32) 0)) := by
  simp only [barrierOp, h]

theorem execAgcfg_asks {r : D2} {q : Nat} (mt : s.selector s.cur s.opA = some q) (reg : fld s.opA.toNat 0 2 ≠ 3)
    (ok : agValueOk (fld s.opA.toNat 0 2) s.cur.t1.val = true) :
    exec (.agcfg r) s = .next (s.askObj (r.view 0xB7) (q * 8 + r.lit.toNat) (scratchPa q 0)) := by
  show execAgcfg r s = _
  simp only [execAgcfg, mt, reg, ok, if_false, Bool.not_true, Bool.false_eq_true]
  rfl

theorem execAgrun_asks {r : D2} {q : Nat} (mt : s.selector s.cur s.opA = some q) (reg : fld s.opA.toNat 0 2 = 0) :
    exec (.agrun r) s = .next (s.askObj (r.view 0xB8) (q * 8 + r.lit.toNat) (scratchPa q 0)) := by
  show execAgrun r s = _
  simp only [execAgrun, mt, reg, bne_self_eq_false, Bool.false_eq_true, if_false]
  rfl

theorem bindOp_asks {v : RecView} {odd : Bool} {q : Nat} (mt : s.selector s.cur s.opA = some q)
    (reg : fld s.opA.toNat 0 2 = 0) (edge : (s.mt q).edge = true) (mode : (s.regionOf q).mode = true)
    (side : decide (v.lit % 2 = 1) = odd) (ty : fld s.cur.t1.val.toNat 3 4 ≠ 15) (mid : fld s.cur.t1.val.toNat 7 9 = 0)
    (high : fld s.cur.t1.val.toNat 32 32 = 0) (grp : odd = false → fld s.cur.t1.val.toNat 16 16 = 0) :
    bindOp v odd s = .next (s.askObj v (q * 8 + v.lit) (scratchPa q 0)) := by
  have groups : (!odd && fld s.cur.t1.val.toNat 16 16 != 0) = false := by
    cases odd with
    | true => rfl
    | false => simp [grp rfl]
  simp [bindOp, mt, reg, edge, mode, side, ty, mid, high, groups, askMt]

theorem execMcgset_asks {r : D2} (die : fld s.opA.toNat 62 2 ≠ 3) (sel : fld s.opA.toNat 7 55 = 0)
    (high : fld s.cur.t1.val.toNat 29 35 = 0)
    (dest : tbit s.opA.toNat 6 = true ∨ (destIsCt (s.cur.t1.val.extractLsb' 0 28) = true ∧
      destDie (s.cur.t1.val.extractLsb' 0 28) = fld s.opA.toNat 62 2 ∧ destPort (s.cur.t1.val.extractLsb' 0 28) ≠ 3)) :
    exec (.mcgset r) s = .next (s.askObj (r.view 0xBE) (fld s.opA.toNat 62 2 * 256 + r.lit.toNat)
      (scratchPa (mkSq (fld s.opA.toNat 62 2) 1 0) 0)) := by
  have ok : (!tbit s.opA.toNat 6 && (!destIsCt (s.cur.t1.val.extractLsb' 0 28) ||
      destDie (s.cur.t1.val.extractLsb' 0 28) != fld s.opA.toNat 62 2 ||
      decide (destPort (s.cur.t1.val.extractLsb' 0 28) = 3))) = false := by
    rcases dest with clear | ⟨ct, here, port⟩
    · simp [clear]
    · simp [ct, here, port]
  show execMcgset r s = _
  simp only [execMcgset, die, sel, high, ok, bne_self_eq_false, Bool.or_false, decide_false, Bool.false_eq_true, if_false]
  rfl

theorem execGsrc_asks {r : D2} (low : s.opA.toNat < 2 ^ 16) (load : (s.region s.opA.toNat).load ≠ 0) :
    exec (.gsrc r) s = .next (s.askObj (r.view 0xCD) s.opA.toNat (scratchPa (s.region s.opA.toNat).fqmt 0)) := by
  show execGsrc r s = _
  simp only [execGsrc, ge_iff_le, Nat.not_le.mpr low, load, decide_false, Bool.or_false, Bool.false_eq_true, if_false]
  rfl

theorem execPark_asks {r : D1} (low : s.opA.toNat < 4096) :
    exec (.park r) s = .next (s.askObj (r.view 0xC3) 0 (scratchPa (s.regionOf s.cur.sq).fqmt 0)) :=
  if_neg (Nat.not_le.mpr low)

theorem execUnpark_asks {r : D1} (h : s.opA.toNat < 4096 ∨ s.opA.getLsbD 63 = true) :
    exec (.unpark r) s = .next (s.askObj (r.view 0xC4) 0 (scratchPa (s.regionOf s.cur.sq).fqmt 0)) := by
  have ok : ¬ ((decide (s.opA.toNat ≥ 4096) && !s.opA.getLsbD 63) = true) := by
    rcases h with low | rec_
    · simp [low]
    · simp [rec_]
  exact if_neg ok

theorem execCfgld_asks {r : D1} (high : fld s.opA.toNat 57 7 = 0) (aligned : s.opA.toNat % 64 = 0) :
    exec (.cfgld r) s = .next (s.askObj (r.view 0xCB) 0 (scratchPa (s.regionOf s.cur.sq).fqmt 0)) := by
  show execCfgld r s = _
  simp only [execCfgld, high, aligned, bne_self_eq_false, Bool.false_eq_true, if_false]
  rfl

theorem execCfgcmt_asks {r : D1} (low : s.opA.toNat < 2 ^ 18) (load : (s.region (s.opA.toNat % 2 ^ 16)).load ≠ 0)
    (other : s.opA.toNat % 2 ^ 16 ≠ s.ridOf s.cur.sq) : exec (.cfgcmt r) s =
    .next (s.askObj (r.view 0xCC) (s.opA.toNat % 2 ^ 16) (scratchPa (s.region (s.opA.toNat % 2 ^ 16)).fqmt 0)) := by
  show execCfgcmt r s = _
  simp only [execCfgcmt, ge_iff_le, Nat.not_le.mpr low, load, other, decide_false, Bool.or_false, Bool.false_eq_true, if_false]
  rfl

/-- Settles O32: past its checks each instruction asks its object. -/
theorem objectRequests : Obligations.ObjectRequests := by
  unfold Obligations.ObjectRequests
  intro s f d ld asks fq
  refine ⟨fun r k named => ?queue, fun r k => ⟨fun named => ?cell, fun named => ?log⟩, fun r q mt => ?mt,
    fun r die3 sel high clear => ?mcgClear, fun r die3 sel high set ct here port => ?mcgSet, fun r => ?fret,
    fun r low load => ?gsrc, fun r => ?system⟩
  case queue =>
    have queue {i : Instr} (op : BitVec 8) (e : exec i s = queueOp (r.view op) s) :
        AsksObj i s (r.view op) k (scratchPa (k / 4) 0) := asksObj_of_askObj (e.trans (queueOp_asks named))
    exact ⟨queue 0xB0 rfl, queue 0xB1 rfl, queue 0xB2 rfl, queue 0xB3 rfl, queue 0xB4 rfl,
      fun sel => queue 0xB6 (if_neg (Nat.not_lt.mpr sel)), fun t tmpl armed => asksObj_of_askObj (execQarm_asks named tmpl armed)⟩
  case cell => exact ⟨asksObj_of_askObj (barrierOp_asks named), asksObj_of_askObj (barrierOp_asks named)⟩
  case log => exact asksObj_of_askObj (barrierOp_asks named)
  case mt =>
    refine ⟨fun reg ok => asksObj_of_askObj (execAgcfg_asks mt reg ok), fun reg => asksObj_of_askObj (execAgrun_asks mt reg),
      fun reg edge mode ty mid high => ⟨fun odd => asksObj_of_askObj ?_, fun even grp => asksObj_of_askObj ?_⟩⟩
    · exact bindOp_asks mt reg edge mode (decide_eq_true odd) ty mid high nofun
    · exact bindOp_asks mt reg edge mode (decide_eq_false (Nat.mod_two_ne_one.mpr even)) ty mid high fun _ => grp
  case mcgClear => exact asksObj_of_askObj (execMcgset_asks die3 sel high (.inl clear))
  case mcgSet => exact asksObj_of_askObj (execMcgset_asks die3 sel high (.inr ⟨ct, here, port⟩))
  case fret => exact asksObj_of_askObj rfl
  case gsrc => exact asksObj_of_askObj (execGsrc_asks low load)
  case system =>
    exact ⟨asksObj_of_askObj rfl, fun low => asksObj_of_askObj (execPark_asks low),
      fun h => asksObj_of_askObj (execUnpark_asks h), asksObj_of_askObj rfl,
      fun high aligned => asksObj_of_askObj (execCfgld_asks high aligned),
      fun low load other => asksObj_of_askObj (execCfgcmt_asks low load other), asksObj_of_askObj rfl⟩

end Sys2Proof
end

section
/-!
Numbers read from memory beside what is written (R1, R285).
-/
namespace Sys2Proof
-- One proof after the other: side by side they would only keep threads and their memory.
set_option Elab.async false
open Machine

variable {s t : State}

theorem rd_congr {a n : Nat} (h : ∀ i, i < n → t.byte (a + i) = s.byte (a + i)) : t.rd a n = s.rd a n := by
  unfold State.rd State.bytes
  exact congrArg leBytes (List.map_congr_left fun i hi => h i (List.mem_range.mp hi))

/-- A write leaves a number that it does not meet. -/
theorem rd_wr_apart {a n b m : Nat} (v : Nat) (h : a + n ≤ b ∨ b + m ≤ a) : (s.wr b m v).rd a n = s.rd a n :=
  rd_congr fun i hi => s.byte_wr_out _ _ _ _ (by omega)

/-- A word that is written is read back. -/
theorem word_wr (s : State) (a : Nat) (x : Word) : BitVec.ofNat 64 ((s.wr a 8 x.toNat).rd a 8) = x := by
  rw [State.rd_wr, Nat.mod_eq_of_lt (lt_of_lt_of_eq x.isLt (by norm_num)), BitVec.ofNat_toNat, BitVec.setWidth_eq]

theorem rd_lt (s : State) (a n : Nat) : s.rd a n < 2 ^ (8 * n) := by
  refine Nat.lt_pow_two_of_testBit _ fun i hi => ?_
  rw [testBit_rd, decide_eq_false (Nat.not_lt.mpr hi), Bool.false_and]

/-- The bytes from the `k`th on of a number. -/
theorem fld_rd (s : State) (a k n : Nat) : fld (s.rd a (k + n)) (8 * k) (8 * n) = s.rd (a + k) n := by
  refine Nat.eq_of_testBit_eq fun i => ?_
  rw [testBit_fld, testBit_rd, testBit_rd, show 8 * a + (8 * k + i) = 8 * (a + k) + i by omega, ← Bool.and_assoc]
  refine congrArg (· && _) ?_
  rw [Bool.eq_iff_iff]
  simp only [Bool.and_eq_true, decide_eq_true_iff]
  omega

end Sys2Proof
end

section
/-!
Atomic updates and sync words at their home (R53, R239, R241, R325, R326).
-/
namespace Sys2Proof
-- One proof after the other: side by side they would only keep threads and their memory.
set_option Elab.async false
open Machine

variable {s : State}

/-! ### What an entry of an `alr` makes of its word (R239) -/

theorem alrNew_values (old a c : Word) : alrNew 1 old a c = old ∧ alrNew 2 old a c = a ∧ alrNew 3 old a c = old + a ∧
    (old = a → alrNew 4 old a c = c) ∧ (old ≠ a → alrNew 4 old a c = old) ∧ alrNew 5 old a c = a ∧
    (alrNew 6 old a c).toInt = min old.toInt a.toInt ∧ (alrNew 7 old a c).toInt = max old.toInt a.toInt ∧
    alrNew 8 old a c = old &&& a ∧ alrNew 9 old a c = old ||| a ∧ alrNew 10 old a c = old ^^^ a ∧
    (alrNew 11 old a c).toNat = min old.toNat a.toNat ∧ (alrNew 12 old a c).toNat = max old.toNat a.toNat := by
  refine ⟨rfl, rfl, rfl, fun h => if_pos h, fun h => if_neg h, rfl, ?smin, ?smax, rfl, rfl, rfl, ?umin, ?umax⟩
  case smin => simp only [alrNew]; split <;> omega
  case smax => simp only [alrNew]; split <;> omega
  case umin => simp only [alrNew, BitVec.lt_def]; split <;> omega
  case umax => simp only [alrNew, BitVec.lt_def]; split <;> omega

/-- The first entry of a descriptor. -/
theorem alr_first_entry {op w : Nat} (hop : op ≤ 12) (hw : w < 16) :
    alrOp (BitVec.ofNat 64 (op * 16 + w)) 0 = op ∧ alrW (BitVec.ofNat 64 (op * 16 + w)) 0 = w := by
  have value : (BitVec.ofNat 64 (op * 16 + w)).toNat = op * 16 + w := by
    rw [BitVec.toNat_ofNat]
    omega
  simp only [alrOp, alrW, value, fld]
  omega

/-- One entry that is no compare and swap. -/
theorem alrRun_one {pa op w : Nat} (named : 1 ≤ op) (low : op ≤ 12) (noCas : op ≠ 4) (hw : w < 16) (l : List Word) :
    let old := BitVec.ofNat 64 (s.rd (pa + w * 8) 8)
    s.alrRun pa 1 0 (BitVec.ofNat 64 (op * 16 + w)) l 0 =
      (s.wr (pa + w * 8) 8 (alrNew op old (l[0]?.getD 0) (l[1]?.getD 0)).toNat, l.set 0 old, 0) := by
  intro old
  obtain ⟨hop, hat⟩ := alr_first_entry low hw
  have runs : ¬ (op = 0 ∨ op = 15) := by omega
  simp only [State.alrRun, hop, hat, runs, noCas, if_false]
  rfl

theorem alrRun_updates {pa op w : Nat} {l : List Word} (named : 1 ≤ op) (low : op ≤ 12) (noCas : op ≠ 4) (hw : w < 16)
    (slot : 0 < l.length) :
    let old := BitVec.ofNat 64 (s.rd (pa + w * 8) 8)
    let p := s.alrRun pa 1 0 (BitVec.ofNat 64 (op * 16 + w)) l 0
    BitVec.ofNat 64 (p.1.rd (pa + w * 8) 8) = alrNew op old (l[0]?.getD 0) (l[1]?.getD 0) ∧ p.2.1[0]? = some old ∧ p.2.2 = 0 ∧
      ∀ a, (a < pa + w * 8 ∨ pa + w * 8 + 8 ≤ a) → p.1.byte a = s.byte a := by
  intro old p
  have run : p = _ := alrRun_one named low noCas hw l
  rw [run]
  exact ⟨word_wr _ _ _, List.getElem?_set_self slot, rfl, fun a out => s.byte_wr_out _ _ _ _ out⟩

/-! ### Sync words (R53, R241) -/

/-- The token of a sync word under generation `gen`. -/
def syncToken (w1 : Word) (gen : Nat) : Token :=
  { dest := w1.extractLsb' 0 28, fx := w1.extractLsb' 28 12, path := w1.extractLsb' 40 6, rt := w1.extractLsb' 46 2
    val := BitVec.ofNat 64 gen }

/-- The word at `pa` has released: its COUNT and GEN are written, and it is armed no more. -/
def Machine.State.syncReset (s : State) (pa count gen : Nat) : State :=
  (({ s with armed := s.armed.del pa } : State).wr (pa + 4) 4 count).wr (pa + 14) 2 gen

theorem syncAdd_below {pa n : Nat} (lid : Nat) (h : s.rd pa 4 = 0 ∨ s.rd (pa + 4) 4 + n < s.rd pa 4) :
    s.syncAdd pa n lid = s.wr (pa + 4) 4 (min (s.rd (pa + 4) 4 + n) 0xFFFFFFFF) := if_pos h

theorem syncAdd_reaches {pa n : Nat} (lid : Nat) (armed : 0 < s.rd pa 4) (full : s.rd pa 4 ≤ s.rd (pa + 4) 4 + n) :
    let gen := (s.rd (pa + 14) 2 + 1) % 2 ^ 16
    s.syncAdd pa n lid = (s.syncReset pa (min (s.rd (pa + 4) 4 + n - s.rd pa 4) 0xFFFFFFFF) gen).sendFrom (scratchSq pa) lid
      (syncToken (BitVec.ofNat 64 (s.rd (pa + 8) 8)) gen) := by
  intro gen
  have word : (BitVec.ofNat 64 (s.rd (pa + 8) 8)).toNat = s.rd (pa + 8) 8 :=
    Nat.mod_eq_of_lt (rd_lt s (pa + 8) 8)
  have old : fld (BitVec.ofNat 64 (s.rd (pa + 8) 8)).toNat 48 16 = s.rd (pa + 14) 2 := by
    rw [word]
    exact fld_rd s (pa + 8) 6 2
  have reaches : ¬ (s.rd pa 4 = 0 ∨ s.rd (pa + 4) 4 + n < s.rd pa 4) := by omega
  simp only [State.syncAdd, if_neg reaches, old]
  rfl

theorem byte_syncReset {pa count gen a : Nat} (out : a < pa + 4 ∨ (pa + 8 ≤ a ∧ a < pa + 14) ∨ pa + 16 ≤ a) :
    (s.syncReset pa count gen).byte a = s.byte a :=
  (State.byte_wr_out _ _ _ _ _ (by omega)).trans (State.byte_wr_out _ _ _ _ _ (by omega))

theorem rd_syncReset {pa count gen : Nat} (hc : count < 2 ^ 32) (hg : gen < 2 ^ 16) :
    (s.syncReset pa count gen).rd (pa + 4) 4 = count ∧ (s.syncReset pa count gen).rd (pa + 14) 2 = gen := by
  constructor
  · exact (rd_wr_apart _ (.inl (by omega))).trans ((State.rd_wr _ _ _ _).trans (Nat.mod_eq_of_lt hc))
  · exact (State.rd_wr _ _ _ _).trans (Nat.mod_eq_of_lt hg)

theorem srcQ_syncReset (s : State) (pa count gen : Nat) : (s.syncReset pa count gen).srcQ = s.srcQ := by
  rw [State.syncReset, State.wr_frame, State.wr_frame]

/-- An arrival writes COUNT and GEN alone. -/
theorem byte_syncAdd {pa a : Nat} (n lid : Nat) (out : a < pa + 4 ∨ (pa + 8 ≤ a ∧ a < pa + 14) ∨ pa + 16 ≤ a) :
    (s.syncAdd pa n lid).byte a = s.byte a := by
  by_cases below : s.rd pa 4 = 0 ∨ s.rd (pa + 4) 4 + n < s.rd pa 4
  · rw [syncAdd_below lid below, State.byte_wr_out _ _ _ _ _ (by omega)]
  · rw [syncAdd_reaches lid (by omega) (by omega), (SameBytes.sendFrom _ _ _ _).byte, byte_syncReset out]

theorem syncAdd_below_counts {pa n : Nat} (lid : Nat) (below : s.rd pa 4 = 0 ∨ s.rd (pa + 4) 4 + n < s.rd pa 4) :
    (s.syncAdd pa n lid).rd (pa + 4) 4 = min (s.rd (pa + 4) 4 + n) (2 ^ 32 - 1) ∧
    (s.syncAdd pa n lid).rd (pa + 14) 2 = s.rd (pa + 14) 2 ∧ (s.syncAdd pa n lid).srcQ = s.srcQ := by
  rw [syncAdd_below lid below]
  refine ⟨?_, rd_wr_apart _ (.inr (by omega)), ?_⟩
  · rw [State.rd_wr]
    exact Nat.mod_eq_of_lt (by omega)
  · rw [State.wr_frame]

theorem look_sendFrom (s : State) (q lid : Nat) (x : Token) : (s.sendFrom q lid x).srcQ.look q =
    s.srcQ.look q ++ [{ tok := addressed x.dest x, src := 2 ^ 26 + q, lid := lid }] := by
  simp only [State.sendFrom, Tbl.look_upd_same]

theorem addressed_fields (d : BitVec 28) (x : Token) : (addressed d x).val = x.val ∧ (addressed d x).fx = x.fx := by
  unfold addressed
  split <;> exact ⟨rfl, rfl⟩

theorem syncAdd_reaches_sends {pa n : Nat} (lid : Nat) (armed : 0 < s.rd pa 4) (full : s.rd pa 4 ≤ s.rd (pa + 4) 4 + n) :
    let gen := (s.rd (pa + 14) 2 + 1) % 2 ^ 16
    let t := s.syncAdd pa n lid
    t.rd (pa + 4) 4 = min (s.rd (pa + 4) 4 + n - s.rd pa 4) (2 ^ 32 - 1) ∧ t.rd (pa + 14) 2 = gen ∧
      ∃ fl, t.srcQ.look (scratchSq pa) = s.srcQ.look (scratchSq pa) ++ [fl] ∧ fl.tok.val = BitVec.ofNat 64 gen ∧
        fl.lid = lid ∧ fl.tok.fx = BitVec.ofNat 12 (s.rd (pa + 8) 8 / 2 ^ 28) := by
  intro gen t
  have released : t = _ := syncAdd_reaches lid armed full
  have written (a m : Nat) : t.rd a m = (s.syncReset pa (min (s.rd (pa + 4) 4 + n - s.rd pa 4) 0xFFFFFFFF) gen).rd a m := by
    rw [released]
    exact State.rd_of_mem (SameBytes.sendFrom _ _ _ _).1 a m
  obtain ⟨count, generation⟩ := rd_syncReset (s := s) (pa := pa) (count := min (s.rd (pa + 4) 4 + n - s.rd pa 4) 0xFFFFFFFF)
    (gen := gen) (by omega) (Nat.mod_lt _ (by decide))
  obtain ⟨val, fx⟩ := addressed_fields (syncToken (BitVec.ofNat 64 (s.rd (pa + 8) 8)) gen).dest
    (syncToken (BitVec.ofNat 64 (s.rd (pa + 8) 8)) gen)
  refine ⟨(written _ _).trans count, (written _ _).trans generation,
    { tok := addressed (syncToken (BitVec.ofNat 64 (s.rd (pa + 8) 8)) gen).dest (syncToken (BitVec.ofNat 64 (s.rd (pa + 8) 8)) gen)
      src := 2 ^ 26 + scratchSq pa, lid := lid }, ?_, val, rfl, fx.trans ?_⟩
  · rw [released, look_sendFrom, srcQ_syncReset]
  · refine BitVec.eq_of_toNat_eq ?_
    rw [syncToken, BitVec.extractLsb'_toNat, BitVec.toNat_ofNat, BitVec.toNat_ofNat, Nat.mod_eq_of_lt (rd_lt s (pa + 8) 8),
      Nat.shiftRight_eq_div_pow]

/-! ### Counts that come to their word (R325, R326) -/

theorem execSyncCountArrival_takes {c : SyncArr} (named : s.syncIn[s.at_.a]? = some c) (come : s.crossing c.via = false)
    (first : ∀ x ∈ s.syncIn.take s.at_.a, x.pa = c.pa → s.crossing x.via = true) :
    exec .syncCountArrival s = .next ({ s with syncIn := s.syncIn.eraseIdx s.at_.a }.countArrives c) := by
  have none_before : ((s.syncIn.take s.at_.a).any fun x => x.pa == c.pa && !s.crossing x.via) = false := by
    rw [List.any_eq_false]
    intro x hx
    by_cases same : x.pa = c.pa
    · simp [first x hx same]
    · simp [same]
  show execSyncCountArrival s = _
  simp only [execSyncCountArrival, named, come, none_before, Bool.or_self, Bool.false_eq_true, if_false]

theorem countArrives_clean {c : SyncArr} (clean : ∀ w, s.ecc.look w = 0) : s.countArrives c = s.syncAdd c.pa c.n c.lid := by
  simp only [State.countArrives, State.eccBad_clean clean, State.countCe_clean clean]

theorem mem_countCe (s : State) (pa n : Nat) : (s.countCe pa n).mem = s.mem := by
  unfold State.countCe
  exact foldl_keeps (P := fun t : State => t.mem = s.mem)
    (step := fun st _ => st.modDie (homeDie pa) fun d => { d with ecccnt := bump16 d.ecccnt (if isScratch pa then 32 else 48) })
    (fun _ _ h => h) _ rfl

theorem mem_countArrives_bad {c : SyncArr} (bad : s.eccBad c.pa 16 ≠ none) : (s.countArrives c).mem = s.mem := by
  obtain ⟨w, hw⟩ := Option.ne_none_iff_exists'.mp bad
  simp only [State.countArrives, hw]
  exact (SameBytes.raiseArgs _ _ _ _).1.trans (mem_countCe _ _ _)

/-- Settles O29, by what one entry of an `alr` writes and by the two cases of an arrival at a sync word. -/
theorem atomicAndSyncWords : Obligations.AtomicAndSyncWords := by
  unfold Obligations.AtomicAndSyncWords
  refine ⟨⟨alrNew_values, fun s pa w op l named low noCas hw slot => alrRun_updates named low noCas hw slot⟩,
    fun s pa n lid => ⟨fun a => byte_syncAdd n lid, syncAdd_below_counts lid, syncAdd_reaches_sends lid⟩,
    fun s c named come first => ⟨fun clean => ?counts, fun bad => ?fails⟩⟩
  case counts =>
    refine ⟨_, (execSyncCountArrival_takes named come first).trans (congrArg _ ?_), rfl⟩
    exact countArrives_clean (s := { s with syncIn := s.syncIn.eraseIdx s.at_.a }) clean
  case fails =>
    refine ⟨_, execSyncCountArrival_takes named come first, State.byte_of_mem ?_⟩
    exact mem_countArrives_bad (s := { s with syncIn := s.syncIn.eraseIdx s.at_.a }) bad

end Sys2Proof
end

section
/-!
Memory requests as they arrive at their wave-order unit, come back, leave the egress store buffer and time out (R230, R232,
R233, R236, R293, R302 to R304).
-/
namespace Sys2Proof
-- One proof after the other: side by side they would only keep threads and their memory.
set_option Elab.async false
open Machine

variable {s : State}

theorem look_del_same {α : Type} [Inhabited α] (m : Tbl α) (k : Nat) : (m.del k).look k = default :=
  Tbl.look_filter_same _ _ _ fun _ => bne_self_eq_false k

/-! ### Arrival at the unit (R232, R233) -/

/-- Request `id` waits in the context `k` of its frame until its chain admits it. -/
def Machine.State.heldIn (s : State) (id k : Nat) : State :=
  { s with
    reqs := s.reqs.upd id fun r => { r with stage := .held }
    wctx := s.wctx.put k { s.wctx.look k with
      isOpen := true, cluster := (s.reqs.look id).cluster, held := (s.wctx.look k).held ++ [id] } }

theorem req_heldIn (s : State) (id k : Nat) : (s.heldIn id k).reqs.look id = { s.reqs.look id with stage := .held } := by
  simp only [State.heldIn, Tbl.look_upd_same]

theorem ctx_heldIn (s : State) (id k : Nat) : (s.heldIn id k).wctx.look k = { s.wctx.look k with
    isOpen := true, cluster := (s.reqs.look id).cluster, held := (s.wctx.look k).held ++ [id] } := by
  simp only [State.heldIn, Tbl.look_put_same]

/-- The oldest request on its way from its element to its unit. -/
theorem execWaveRequestArrival_first {id : Nat} (place : s.at_.a = id) (here : (s.reqs.look id).stage = .toUnit)
    (come : s.crossing (s.reqs.look id).via = false)
    (first : ∀ p ∈ s.reqs, ¬ (p.1 < id ∧ p.2.stage = .toUnit ∧ p.2.f.elem = (s.reqs.look id).f.elem ∧
      p.2.cluster = (s.reqs.look id).cluster)) :
    ((s.wctx.look (ctxKey (s.reqs.look id))).closing = true →
      exec .waveRequestArrival s = .next { s with reqs := s.reqs.del id }) ∧
    ((s.wctx.look (ctxKey (s.reqs.look id))).closing = false → (s.wctx.look (ctxKey (s.reqs.look id))).isOpen = true →
      (s.wctx.look (ctxKey (s.reqs.look id))).held.length < 32 →
      exec .waveRequestArrival s =
        .next (((s.heldIn id (ctxKey (s.reqs.look id))).takeFrom (ctxKey (s.reqs.look id)) 40).pump)) := by
  subst place
  have oldest : (s.reqs.any fun p => decide (p.1 < s.at_.a) && p.2.stage == .toUnit &&
      p.2.f.elem == (s.reqs.look s.at_.a).f.elem && p.2.cluster == (s.reqs.look s.at_.a).cluster) = false := by
    rw [List.any_eq_false]
    intro p hp
    simpa [and_assoc] using first p hp
  show (_ → execWaveRequestArrival s = _) ∧ (_ → _ → _ → execWaveRequestArrival s = _)
  constructor
  · intro closing
    simp only [execWaveRequestArrival, here, come, oldest, closing, bne_self_eq_false, Bool.or_self, Bool.false_eq_true,
      if_false, if_true]
  · intro opened isOpen room
    simp only [execWaveRequestArrival, State.heldIn, here, come, oldest, opened, isOpen, ge_iff_le, Nat.not_le.mpr room,
      bne_self_eq_false, Bool.or_self, Bool.not_true, Bool.true_and, Bool.false_and, decide_false, Bool.false_eq_true, if_false]

/-! ### The egress store buffer (R293) -/

/-- An entry that its home has performed and that has been acknowledged is removed as its confirmation returns. -/
theorem execEgressConfirm_done {id : Nat} (place : s.at_.a = id) (posted : (s.reqs.look id).stage = .posted)
    (performed : (s.reqs.look id).performed = true) (come : s.crossing (s.reqs.look id).via = false)
    (acked : (s.reqs.look id).acked = true) (ok : (s.reqs.look id).err = none) :
    exec .egressConfirm s = .next
      ({ s.dropEgress (s.reqs.look id).die id with reqs := s.reqs.del id } : State).pump := by
  subst place
  show execEgressConfirm s = _
  simp only [execEgressConfirm, posted, performed, come, acked, ok, bne_self_eq_false, Bool.not_true, Bool.or_self,
    Bool.false_eq_true, if_false]
  rfl

theorem look_dropEgress (s : State) (die id : Nat) :
    (s.dropEgress die id).egress.look die = (s.egress.look die).filter (· ≠ id) := by
  simp only [State.dropEgress, Tbl.look_upd_same, ne_eq, decide_not]
  rfl

/-! ### Time-outs (R302 to R304) -/

theorem execRequestTimeout_expires {id : Nat} (place : s.at_.a = id) (request : s.at_.b = 0) (due : s.overdue id = true) :
    exec .requestTimeout s = .next (s.expire id).pump := by
  subst place
  show execRequestTimeout s = _
  simp only [execRequestTimeout, request, due, Nat.zero_ne_one, if_false, if_true]

theorem expire_load {id : Nat} (load : isLoad (s.reqs.look id).op = true) (out : (s.reqs.look id).stage ≠ .posted)
    (node : (s.reqs.look id).eng = false) : s.expire id = (s.orphaned (s.reqs.look id)).faultReq id fkTIMEOUT 0 := by
  have other : (s.reqs.look id).op ≠ 0x98 ∧ (s.reqs.look id).op ≠ 0xBF ∧ (s.reqs.look id).op ≠ 0xCA := by
    refine ⟨?_, ?_, ?_⟩ <;> intro h <;> rw [h] at load <;> exact absurd load (by decide)
  obtain ⟨pref, send, call⟩ := other
  simp only [State.expire, beq_eq_false_iff_ne.mpr out, node, pref, send, call, load, Bool.false_eq_true, if_false, if_true]

theorem expire_posted {id : Nat} (posted : (s.reqs.look id).stage = .posted) : s.expire id =
    let lost := (((s.orphaned (s.reqs.look id)).dropEgress (s.reqs.look id).die id).raiseReq id fkEFLOST 0 true).retire id
    { lost with reqs := lost.reqs.put id { s.reqs.look id with stage := .faulted, performed := false, wave := false } } := by
  simp only [State.expire, posted, beq_self_eq_true, if_true]

/-- Leaving its chain, a request changes the requests and the contexts alone. -/
theorem retire_frame (s : State) (id : Nat) : ∃ w, s.retire id = { s with reqs := s.reqs.del id, wctx := w } := by
  unfold State.retire
  dsimp only
  split <;> exact ⟨_, rfl⟩

/-! ### Replies (R230, R302) -/

theorem execMemoryReply_late {id : Nat} (place : s.at_.a = id) (back : (s.reqs.look id).stage = .reply)
    (come : s.crossing (s.reqs.look id).via = false) (late : (s.reqs.look id).orphan = true) :
    exec .memoryReply s = .next (({ s with reqs := s.reqs.del id } : State).countLate (s.reqs.look id).die) := by
  subst place
  show execMemoryReply s = _
  simp only [execMemoryReply, back, come, late, bne_self_eq_false, Bool.or_self, Bool.false_eq_true, if_false, if_true]

theorem execMemoryReply_delivers {id : Nat} (place : s.at_.a = id) (back : (s.reqs.look id).stage = .reply)
    (come : s.crossing (s.reqs.look id).via = false) (timely : (s.reqs.look id).orphan = false)
    (alive : (s.reqs.look id).dead = false) (ok : (s.reqs.look id).err = none) (now : (s.reqs.look id).deferred = false)
    (node : (s.reqs.look id).eng = false) : exec .memoryReply s = .next (s.deliver id).pump := by
  subst place
  show execMemoryReply s = _
  simp only [execMemoryReply, back, come, timely, alive, ok, now, node, bne_self_eq_false, Bool.or_self, Bool.false_eq_true,
    if_false]

/-- REQLATE counts up to its greatest value (R301). -/
theorem reqlate_countLate (s : State) (die : Nat) : ((s.countLate die).die die).reqlate =
    if (s.die die).reqlate = 0xFFFFFFFF#64 then 0xFFFFFFFF#64 else (s.die die).reqlate + 1 := by
  rw [State.countLate, State.die_modDie_same]
  dsimp only
  split
  next full => exact full
  next => rfl

/-- The reply of a load or store brings its value, with XD for an acknowledged EF store (R230). -/
theorem deliver_access {id : Nat} (op : (s.reqs.look id).op ∈ [0x90, 0x91, 0x92, 0x93, 0x99]) : s.deliver id =
    (s.retire id).reqResult (s.reqs.look id) (s.reqs.look id).val
      (decide ((s.reqs.look id).op = 0x91 ∨ (s.reqs.look id).op = 0x93) && (s.reqs.look id).ef) := by
  unfold State.deliver
  generalize s.reqs.look id = r at op
  simp only [List.mem_cons, List.not_mem_nil, or_false] at op
  rcases op with op | op | op | op | op <;> simp [MReq.atObject, op]

/-- The part that posting a message looks at. -/
theorem Posts.of_same {t u : State} {a b n : Nat} (h : Posts t u a b n) (serial : t.serial = s.serial)
    (chans : t.chans = s.chans) : Posts s u a b n :=
  ⟨fun near => serial ▸ chans ▸ h.1 near, h.2⟩

/-- What sending looks at stays as a request leaves its chain. -/
theorem reqResult_answers {id : Nat} {r : MReq} (x : Word) (xd : Bool) (sent : (s.view r.f.key).hdr.ndest ≠ 0)
    (dests : Dests1Ok s (s.view r.f.key)) :
    let v := s.view r.f.key
    let t := (s.retire id).reqResult r x xd
    ∃ b, t = { s with reqs := t.reqs, wctx := t.wctx, elems := t.elems, serial := t.serial, chans := t.chans } ∧
      Posts s t r.die (sqDie r.f.sq) b ∧ t.reqs = s.reqs.del id ∧
      t.elem r.f.elem = { s.elem r.f.elem with answers := (s.elem r.f.elem).answers ++
        [{ toks := s.flights r.f v (outs1 v { r.f.base 0 x with xd := xd }), via := b }] } := by
  intro v t
  obtain ⟨w, left⟩ := retire_frame s id
  obtain ⟨b, posts, frame, -, elem⟩ := sendAnswer_answers (s := { s with reqs := s.reqs.del id, wctx := w }) (d := r.die)
    (f := r.f) (w2 := r.w2 0) (dests1Ok_outs dests { r.f.base 0 x with xd := xd }) (outs1_ne_nil _ sent)
  have same : t = ({ s with reqs := s.reqs.del id, wctx := w } : State).sendAnswer r.die r.f v (r.w2 0)
      (outs1 v { r.f.base 0 x with xd := xd }) := by
    show (s.retire id).reqResult r x xd = _
    rw [left]
    rfl
  rw [← same] at posts frame elem
  have reqs : t.reqs = s.reqs.del id := by rw [frame]
  have wctx : t.wctx = w := by rw [frame]
  refine ⟨b, ?_, posts.of_same rfl rfl, reqs, elem⟩
  rw [reqs, wctx]
  exact frame

/-- Settles O27, by what each of the four events makes of its request. -/
theorem requestsArriveAndReturn : Obligations.RequestsArriveAndReturn := by
  unfold Obligations.RequestsArriveAndReturn
  refine ⟨fun s => ?arrives, fun s => ?leaves, fun s => ?replies⟩
  case arrives =>
    intro id r k c here come first
    obtain ⟨closed, held⟩ := execWaveRequestArrival_first rfl here come first
    exact ⟨fun closing => ⟨_, closed closing, rfl, look_del_same _ _⟩, fun opened isOpen room =>
      ⟨s.heldIn id k, held opened isOpen room, rfl, req_heldIn s id k, ctx_heldIn s id k⟩⟩
  case leaves =>
    intro id r
    refine ⟨fun posted performed come acked ok => ?confirm, fun request due load out node => ?load,
      fun request due posted _ => ?lost⟩
    case confirm =>
      have dropped := look_dropEgress s r.die id
      refine ⟨_, execEgressConfirm_done rfl posted performed come acked ok, rfl, look_del_same _ _, ?_, dropped⟩
      show id ∉ (s.dropEgress r.die id).egress.look r.die
      rw [dropped]
      simp
    case load =>
      refine ⟨s.orphaned r, (execRequestTimeout_expires rfl request due).trans ?_, rfl, (Tbl.look_put_same _ _ _).trans ?_⟩
      · rw [expire_load load out node]
        rfl
      · rw [if_neg (by simpa using out)]
    case lost =>
      obtain ⟨w, left⟩ := retire_frame (((s.orphaned r).dropEgress r.die id).raiseReq id fkEFLOST 0 true) id
      refine ⟨(s.orphaned r).dropEgress r.die id, _, (execRequestTimeout_expires rfl request due).trans
        (congrArg (fun u : State => Host.Outcome.next u.pump) (expire_posted posted)), rfl,
        look_dropEgress (s.orphaned r) r.die id, (Tbl.look_put_same _ _ _).trans ?_, ?_, ?_⟩
      · rw [if_pos (by simpa using posted)]
      · dsimp only
        rw [left]
        rfl
      · dsimp only
        rw [Tbl.look_put_same]
  case replies =>
    intro id r v back come
    refine ⟨fun late => ?late, fun timely alive ok now node op sent dests => ?answer⟩
    case late =>
      exact ⟨_, execMemoryReply_late rfl back come late, rfl,
        reqlate_countLate _ _, look_del_same _ _⟩
    case answer =>
      intro xd
      obtain ⟨b, frame, posts, reqs, elem⟩ := reqResult_answers (id := id) r.val xd sent dests
      refine ⟨_, b, (execMemoryReply_delivers rfl back come timely alive ok now node).trans
        (congrArg (fun u : State => Host.Outcome.next u.pump) (deliver_access op)), frame, posts, ?_, elem⟩
      exact (congrArg (Tbl.look · id) reqs).trans (look_del_same _ _)

end Sys2Proof
end

section
/-!
A stream whose load ends as the requests of its element set out: what can move then moves, and a load that was held back
faults where the record of its fault has nowhere to go.
-/
namespace Sys2Proof
-- One proof after the other: side by side they would only keep threads and their memory.
set_option Elab.async false
open Machine

/-- The chain of unit 0 at MT square 1 stands at the second of its two elements, with room in its queue. Beside it a `ld` of
the same load is held at its wave-order unit, next to be admitted; its region has no translation table, and the load names no
`.fault` destination. -/
def streamBesideHeldLoad : State :=
  { State.reset with
    clRid := [(0, 1)], regions := [(1, { load := 1 })], loads := [(1, { regions := [1] })]
    mts := [(1, { streams := [(0, { on := true, x := 1, total := 2, units := [0] })], queues := [(0, { cap := 4 })] })]
    reqs := [(1, { op := 0x90, rid := 1, lid := 1, wave := true, size := 8, stage := .held })]
    wctx := [(4096, { isOpen := true, own := some 0, held := [1] })]
    serial := 1, at_ := { a := 1, b := 0 } }

/-- The element at which the chain of unit 0 of MT square 1 stands. -/
def standsAt (s : State) : Nat := ((s.mt 1).streams.look 0).x

/-- The `ld` is admitted and finds no translation, and the load ends, its streams with it (R350, R354). -/
theorem agElement_ends_stream {t : State} (h : exec .agElement streamBesideHeldLoad = .next t) : standsAt t = 0 := by
  have e : exec .agElement streamBesideHeldLoad = .next _ := rfl
  cases e.symm.trans h
  decide

/-- Refutes O43: the clause of an element whose requests set out has the stream stand where it stood. All that can move moves
in the same step, and where a held `ld` faults then and its record cannot be written, the load ends and the stream is gone. -/
theorem not_generatorsAndCopies : ¬ Obligations.GeneratorsAndCopies := by
  unfold Obligations.GeneratorsAndCopies
  rintro ⟨streams, -⟩
  obtain ⟨asks, -⟩ := (streams streamBesideHeldLoad rfl).1 (by decide)
  obtain ⟨t, run, -, stands, -⟩ := asks rfl rfl rfl rfl
  have kept : standsAt t = 1 := stands
  rw [agElement_ends_stream run] at kept
  exact absurd kept (by decide)

end Sys2Proof
end

section
/-! Park marks, what clears them, and the notices that carry them to the other dies (R264, R265, R398). -/
namespace Sys2Proof
-- One proof after the other: side by side they would only keep threads and their memory.
set_option Elab.async false
open Machine

variable {s : State}

/-! ### The marks of a tile (R265) -/

/-- PK of the entries that a frame has in a frame table. -/
def ftabMarked (t : Tbl FEntry) (fx : Nat) (b : Bool) : Tbl FEntry :=
  mapTbl t fun _ e => if e.v && e.fx.toNat == fx then { e with pk := b } else e

/-- A tile with the marks of a frame set or cleared: PK, and bits of slot 3 (R30). -/
def Machine.Ct.marked (c : Ct) (fx : Nat) (b : Bool) (g : Word → Word) : Ct :=
  { c with ftab := ftabMarked c.ftab fx b }.modSlot fx 3 fun x => { x with val := g x.val }

theorem find_ftabMarked (t : Tbl FEntry) (fx : Nat) (b : Bool) :
    ((ftabMarked t fx b).find? fun p => p.2.v && p.2.fx.toNat == fx) =
      (t.find? fun p => p.2.v && p.2.fx.toNat == fx).map fun p => (p.1, { p.2 with pk := b }) := by
  have same (e : FEntry) : (if e.v && e.fx.toNat == fx then { e with pk := b } else e).v = e.v ∧
      (if e.v && e.fx.toNat == fx then { e with pk := b } else e).fx = e.fx := by
    split <;> exact ⟨rfl, rfl⟩
  have keys : ((fun p : Nat × FEntry => p.2.v && p.2.fx.toNat == fx) ∘ fun p : Nat × FEntry =>
      (p.1, if p.2.v && p.2.fx.toNat == fx then { p.2 with pk := b } else p.2)) = fun p => p.2.v && p.2.fx.toNat == fx := by
    funext p
    obtain ⟨v, x⟩ := same p.2
    rw [Function.comp_apply, v, x]
  rw [ftabMarked, mapTbl, List.find?_map, keys]
  cases found : t.find? fun p : Nat × FEntry => p.2.v && p.2.fx.toNat == fx with
  | none => rfl
  | some p => exact congrArg (fun e => some (p.1, e)) (if_pos (List.find?_some (p := fun p : Nat × FEntry => p.2.v && p.2.fx.toNat == fx) found))

theorem ftab_modSlot (c : Ct) (fx n : Nat) (g : Slot → Slot) : (c.modSlot fx n g).ftab = c.ftab := by
  unfold Ct.modSlot
  split
  · rfl
  · split <;> rfl

theorem entry_of_ftab {c d : Ct} (h : c.ftab = d.ftab) (fx : Nat) : c.entry fx = d.entry fx := by
  rw [Ct.entry, Ct.entry, h]

theorem entry_marked (c : Ct) (fx : Nat) (b : Bool) (g : Word → Word) :
    (c.marked fx b g).entry fx = (c.entry fx).map fun p => (p.1, { p.2 with pk := b }) := by
  rw [Ct.marked, entry_of_ftab (ftab_modSlot ..)]
  exact find_ftabMarked ..

theorem entry_setPk {c d rid fx : Nat} (own : s.ridOf c = rid) (die : sqDie c = d) (b : Bool) (g : Word → Word) :
    ((s.setPk d rid fx b g).ct c).entry fx = ((s.ct c).entry fx).map fun p => (p.1, { p.2 with pk := b }) := by
  have here : (s.ridOf c == rid && sqDie c == d) = true := by simp [own, die]
  have tile : (s.setPk d rid fx b g).ct c = (s.ct c).marked fx b g :=
    (look_mapTbl s.cts (f := fun q x => if s.ridOf q == rid && sqDie q == d then x.marked fx b g else x)
      (by rw [if_pos here]; rfl)).trans (if_pos here)
  rw [tile, entry_marked]

theorem entry_parkOn {c d rid fx : Nat} (own : s.ridOf c = rid) (die : sqDie c = d) (flt : Bool) :
    ((s.parkOn d rid fx flt).ct c).entry fx = ((s.ct c).entry fx).map fun p => (p.1, { p.2 with pk := true }) :=
  entry_setPk own die true _

/-! ### What goes back to the elements (R265) -/

/-- Between `s` and `t` tokens have left the park buffers for their elements; frame tables stand as they were. -/
structure GivesBack (s t : State) : Prop where
  frame : t = { s with cts := t.cts, spores := t.spores, elems := t.elems }
  ftab : ∀ c, (t.ct c).ftab = (s.ct c).ftab
  elem : ∀ e, ∃ b, t.elem e = { s.elem e with back := b }

theorem GivesBack.refl (s : State) : GivesBack s s := ⟨rfl, fun _ => rfl, fun _ => ⟨_, rfl⟩⟩

theorem GivesBack.trans {t u : State} (a : GivesBack s t) (b : GivesBack t u) : GivesBack s u := by
  refine ⟨?_, fun c => (b.ftab c).trans (a.ftab c), fun e => ?_⟩
  · rw [b.frame, a.frame]
  · obtain ⟨x, hx⟩ := a.elem e
    obtain ⟨y, hy⟩ := b.elem e
    exact ⟨y, by rw [hy, hx]⟩

theorem GivesBack.foldl {β : Type} {f : State → β → State} (h : ∀ t k, GivesBack t (f t k)) (l : List β) (s : State) :
    GivesBack s (l.foldl f s) :=
  foldl_keeps (P := GivesBack s) (fun t k kept => kept.trans (h t k)) l (.refl s)

theorem elem_modElem_back (s : State) (e k : Nat) (l : List Flight) :
    ∃ b, (s.modElem e fun x => { x with back := x.back ++ l }).elem k = { s.elem k with back := b } := by
  by_cases here : k = e
  · subst here
    rw [State.elem_modElem_same]
    exact ⟨_, rfl⟩
  · rw [State.elem_modElem_other _ _ _ _ here]
    exact ⟨_, rfl⟩

theorem GivesBack.giveBack (s : State) (q code : Nat) (l : List Flight) : GivesBack s (s.giveBack q code l) := by
  unfold State.giveBack
  refine GivesBack.foldl (fun t el => ?_) _ _
  dsimp only
  split
  · exact .refl t
  · exact ⟨rfl, fun _ => rfl, fun e => elem_modElem_back ..⟩

theorem GivesBack.fromCt (s : State) (q bytes : Nat) (g : Ct → Ct) (h : ∀ c, (g c).ftab = c.ftab) :
    GivesBack s ((s.modCt q g).uncharge q bytes) := by
  refine ⟨rfl, fun c => ?_, fun e => ⟨(s.elem e).back, rfl⟩⟩
  by_cases here : c = q
  · subst here
    exact (congrArg Ct.ftab (State.ct_modCt_same s c g)).trans (h _)
  · exact congrArg Ct.ftab (State.ct_modCt_other s q c g here)

theorem GivesBack.unparkCt (s : State) (q fx : Nat) : GivesBack s (s.unparkCt q fx) := by
  unfold State.unparkCt
  dsimp only
  refine (GivesBack.fromCt s q _ _ ?_).trans (GivesBack.giveBack ..)
  exact fun c => rfl

theorem GivesBack.unparkOn (s : State) (d rid fx : Nat) :
    GivesBack (s.setPk d rid fx false fun w => w &&& ~~~0xC00#64) (s.unparkOn d rid fx) :=
  GivesBack.foldl (f := fun t (p : Nat × Ct) => t.unparkCt p.1 fx) (fun t p => .unparkCt t p.1 fx) _ _

/-! ### Notices (R398) -/

/-- The message of a notice to one die. -/
def Machine.State.noticeTo (s : State) (x : Notice) (home d : Nat) : State :=
  let p := s.postMgmt home d 0
  { p.1 with notices := p.1.notices ++ [{ via := p.2, die := d, what := x }] }

theorem noticeTo_eq (s : State) (x : Notice) (home d : Nat) : ∃ n, s.noticeTo x home d =
    { s with serial := (s.noticeTo x home d).serial, chans := (s.noticeTo x home d).chans
             notices := s.notices ++ [{ via := n, die := d, what := x }] } := by
  refine ⟨(s.postMgmt home d 0).2, ?_⟩
  unfold State.noticeTo
  dsimp only
  rw [OnlyMessages.postMgmt s home d 0]

theorem sendNotice_cons (s : State) (x : Notice) (home d : Nat) (l : List Nat) :
    s.sendNotice x home (d :: l) = (s.noticeTo x home d).sendNotice x home l := rfl

theorem sendNotice_frame (s : State) (x : Notice) (home : Nat) (l : List Nat) : s.sendNotice x home l =
    { s with serial := (s.sendNotice x home l).serial, chans := (s.sendNotice x home l).chans
             notices := (s.sendNotice x home l).notices } := by
  induction l generalizing s with
  | nil => rfl
  | cons d l ih =>
    obtain ⟨n, sent⟩ := noticeTo_eq s x home d
    rw [sendNotice_cons, ih, sent]

theorem notices_sendNotice (s : State) (x : Notice) (home : Nat) (l : List Nat) :
    ((s.sendNotice x home l).notices.map fun n => (n.die, n.what, n.back)) =
      (s.notices.map fun n => (n.die, n.what, n.back)) ++ l.map fun d => (d, x, false) := by
  induction l generalizing s with
  | nil => exact (List.append_nil _).symm
  | cons d l ih =>
    obtain ⟨n, sent⟩ := noticeTo_eq s x home d
    rw [sendNotice_cons, ih, sent]
    simp

/-! ### A frame is parked -/

/-- The frame's record with PARKED set or cleared. -/
def Machine.State.parkedAs (s : State) (rid fx : Nat) (b : Bool) : State :=
  s.modFx rid fx fun r => { r with parked := b }

theorem famt_parkedAs (s : State) (rid fx : Nat) (b : Bool) : ((s.parkedAs rid fx b).region rid).famt = (s.region rid).famt :=
  region_modRegion_keeps (π := Region.famt) (fun _ => by rfl) ..

theorem clusters_parkedAs (s : State) (rid fx : Nat) (b : Bool) :
    ((s.parkedAs rid fx b).region rid).clusters = (s.region rid).clusters :=
  region_modRegion_keeps (π := Region.clusters) (fun _ => by rfl) ..

theorem park_eq (s : State) (rid fx : Nat) (flt : Bool) : s.park rid fx flt =
    ((s.parkedAs rid fx true).parkOn (sqDie (s.region rid).famt) rid fx flt).sendNotice (.park rid fx flt)
      (sqDie (s.region rid).famt)
      (((((s.region rid).clusters).map (· / 48)).eraseDups).filter (· ≠ sqDie (s.region rid).famt)) := by
  rw [← famt_parkedAs s rid fx true, ← clusters_parkedAs s rid fx true]
  simp only [State.park, State.notifyDies, State.noticeHome, State.noticeDies, State.takeNotice, ne_eq, decide_not]
  rfl

theorem park_marks (s : State) (rid fx : Nat) (flt : Bool) : let t := s.park rid fx flt
    let home := sqDie (s.region rid).famt
    t.fxRec rid fx = { s.fxRec rid fx with parked := true } ∧ (∀ k, k ≠ fx → t.fxRec rid k = s.fxRec rid k) ∧
    (∀ c, s.ridOf c = rid → sqDie c = home → (t.ct c).entry fx = ((s.ct c).entry fx).map fun p => (p.1, { p.2 with pk := true })) ∧
    t.notices.map (fun n => (n.die, n.what, n.back)) = s.notices.map (fun n => (n.die, n.what, n.back)) ++
      ((((s.region rid).clusters.map (· / 48)).eraseDups).filter (· ≠ home)).map fun d => (d, .park rid fx flt, false) := by
  intro t home
  have marks : t = _ := park_eq s rid fx flt
  have frecs (k : Nat) : t.fxRec rid k = (s.parkedAs rid fx true).fxRec rid k := by
    rw [marks, sendNotice_frame]
    rfl
  refine ⟨(frecs fx).trans (State.fxRec_modFx_same ..),
    fun k other => (frecs k).trans (State.fxRec_modFx_other _ _ _ _ _ _ (.inr other)), fun c own die => ?_, ?_⟩
  · rw [marks, sendNotice_frame]
    exact entry_parkOn (s := s.parkedAs rid fx true) (d := home) own die flt
  · rw [marks, notices_sendNotice]
    rfl

theorem ct_postMgmt (s : State) (a b n c : Nat) : (s.postMgmt a b n).1.ct c = s.ct c := by
  rw [OnlyMessages.postMgmt s a b n]
  rfl

/-- A park notice that has come to its die marks the frame there. -/
theorem entry_notified {n : Nat} {y : Notified} {rid fx c : Nat} {flt : Bool}
    (first : s.notices.find? (fun z => z.via == n && n != 0) = some y) (out : y.back = false) (what : y.what = .park rid fx flt)
    (own : s.ridOf c = rid) (die : sqDie c = y.die) :
    ((s.notified n).ct c).entry fx = ((s.ct c).entry fx).map fun p => (p.1, { p.2 with pk := true }) := by
  have tile : ((s.notified n).ct c) = (({ s with notices := s.notices.erase y }.parkOn y.die rid fx flt).ct c) := by
    simp only [State.notified, first, out, what, State.takeNotice, Bool.false_eq_true, if_false]
    split <;> exact ct_postMgmt ..
  rw [tile]
  exact entry_parkOn (s := { s with notices := s.notices.erase y }) own die flt

/-! ### A frame is unparked -/

/-- The marks of an unparked frame are cleared on its allocator's die. -/
def Machine.State.unmarked (s : State) (rid fx : Nat) : State :=
  (s.parkedAs rid fx false).setPk (sqDie (s.region rid).famt) rid fx false fun w => w &&& ~~~0xC00#64

theorem unpark_eq (s : State) (rid fx : Nat) : ∃ l, s.unpark rid fx =
    ((s.parkedAs rid fx false).unparkOn (sqDie (s.region rid).famt) rid fx).sendNotice (.unpark rid fx)
      (sqDie (s.region rid).famt) l := by
  rw [← famt_parkedAs s rid fx false]
  exact ⟨_, rfl⟩

theorem unparkOn_givesBack (s : State) (rid fx : Nat) : GivesBack (s.unmarked rid fx)
    ((s.parkedAs rid fx false).unparkOn (sqDie (s.region rid).famt) rid fx) :=
  .unparkOn (s.parkedAs rid fx false) _ rid fx

theorem unpark_frame (s : State) (rid fx : Nat) : let t := s.unpark rid fx
    t = { s with regions := t.regions, cts := t.cts, spores := t.spores, elems := t.elems, serial := t.serial, chans := t.chans
                 notices := t.notices } := by
  intro t
  obtain ⟨l, unparks⟩ := unpark_eq s rid fx
  have gives := (unparkOn_givesBack s rid fx).frame
  rw [show t = _ from unparks, sendNotice_frame, gives]
  rfl

theorem fxRec_unpark_same (s : State) (rid fx : Nat) :
    (s.unpark rid fx).fxRec rid fx = { s.fxRec rid fx with parked := false } := by
  obtain ⟨l, unparks⟩ := unpark_eq s rid fx
  have gives := (unparkOn_givesBack s rid fx).frame
  rw [unparks, sendNotice_frame, gives]
  exact State.fxRec_modFx_same ..

/-- Of an element, only what comes back to it differs. -/
theorem elem_unpark (s : State) (rid fx e : Nat) : ∃ b, (s.unpark rid fx).elem e = { s.elem e with back := b } := by
  obtain ⟨l, unparks⟩ := unpark_eq s rid fx
  rw [unparks, sendNotice_frame]
  exact (unparkOn_givesBack s rid fx).elem e

theorem entry_unpark {rid fx c : Nat} (own : s.ridOf c = rid) (die : sqDie c = sqDie (s.region rid).famt) :
    ((s.unpark rid fx).ct c).entry fx = ((s.ct c).entry fx).map fun p => (p.1, { p.2 with pk := false }) := by
  obtain ⟨l, unparks⟩ := unpark_eq s rid fx
  rw [unparks, sendNotice_frame]
  exact (entry_of_ftab ((unparkOn_givesBack s rid fx).ftab c) fx).trans
    (entry_setPk (s := s.parkedAs rid fx false) (fx := fx) own die false _)

end Sys2Proof
end

section
/-! Operations that come to an object, and the reply that each sets out with (R246 to R275). -/
namespace Sys2Proof
-- One proof after the other: side by side they would only keep threads and their memory.
set_option Elab.async false
open Machine

variable {s : State}

/-- The operations of the groups B and C are for an object. -/
theorem atObject_of_op {r : MReq} (h : 0xB0 ≤ r.op) : r.atObject = true := by
  simp [MReq.atObject, h]

/-- A home that can take the request of an object's operation performs it. -/
theorem homeAccess_object {id : Nat} (place : s.at_.a = id) (ready : s.homeReady id = true)
    (object : 0xB0 ≤ (s.reqs.look id).op) : exec .homeAccess s = .next (s.objHome id) := by
  subst place
  show execHomeAccess s = _
  simp only [execHomeAccess, ready, atObject_of_op object, Bool.not_true, Bool.false_eq_true, if_false, if_true]

theorem homeAccess_op {id op : Nat} {t : State} (place : s.at_.a = id) (ready : s.homeReady id = true)
    (hop : (s.reqs.look id).op = op) (object : 0xB0 ≤ op) (does : s.objHome id = t) : exec .homeAccess s = .next t :=
  does ▸ homeAccess_object place ready (hop ▸ object)

theorem replyTok_frame (s : State) (id : Nat) (tok : Token) : s.replyTok id tok =
    { s with reqs := (s.replyTok id tok).reqs, serial := (s.replyTok id tok).serial, chans := (s.replyTok id tok).chans } := by
  rw [State.replyTok, State.replyTo_frame]

/-- The operation is performed and its reply brings the token. -/
theorem req_replyTok (s : State) (id : Nat) (tok : Token) : ∃ n, (s.replyTok id tok).reqs.look id =
    { { s.reqs.look id with tok := tok }.answered 0 none with via := n } := by
  obtain ⟨n, h⟩ := State.req_answerWith { s with reqs := s.reqs.upd id fun r => { r with tok := tok } } id 0 none
  rw [Tbl.look_upd_same] at h
  exact ⟨n, h⟩

theorem mem_replyVal (s : State) (id : Nat) (x : Word) : (s.replyVal id x).mem = s.mem := by
  rw [replyVal_frame]

theorem mts_replyVal (s : State) (id : Nat) (x : Word) : (s.replyVal id x).mts = s.mts := by
  rw [replyVal_frame]

theorem cts_replyVal (s : State) (id : Nat) (x : Word) : (s.replyVal id x).cts = s.cts := by
  rw [replyVal_frame]

theorem replyFails_frame (s : State) (id kind detail : Nat) : s.replyFails id kind detail =
    { s with reqs := (s.replyFails id kind detail).reqs, serial := (s.replyFails id kind detail).serial
             chans := (s.replyFails id kind detail).chans } :=
  s.replyBad_frame id kind detail 0

theorem req_holdReq (s : State) (id : Nat) : (s.holdReq id).reqs.look id = { s.reqs.look id with deferred := true } := by
  simp only [State.holdReq, Tbl.look_upd_same]

end Sys2Proof
end

section
/-!
Operations that come to address generators, multicast tables, the sources of a load and the fault queue (R250, R257, R260 to
R266, R274, R275).
-/
namespace Sys2Proof
-- One proof after the other: side by side they would only keep threads and their memory.
set_option Elab.async false
open Machine

variable {s : State}

/-! ### Address generators and multicast tables (R250, R257) -/

/-- The unit with the register that `agcfg` names written. -/
def agWritten (a : AgUnit) (w : Nat) (x : Word) : AgUnit :=
  if fld w 0 2 = 0 then { a with base := x } else if fld w 0 2 = 1 then { a with lvl := x }
  else { a with ctl := setField x 31 1 0 }

theorem agcfgHome_runs {id : Nat} (runs : ((s.mt ((s.reqs.look id).tgt / 8)).ag.look ((s.reqs.look id).tgt % 8)).runs = true) :
    s.agcfgHome id =
      (s.modMt ((s.reqs.look id).tgt / 8) fun m => { m with agWait := m.agWait ++ [id] }).holdReq id := by
  simp only [State.agcfgHome, runs, if_true]

theorem agcfgHome_waits {id : Nat} : let q := (s.reqs.look id).tgt / 8
    let t := s.agcfgHome id
    ((s.mt q).ag.look ((s.reqs.look id).tgt % 8)).runs = true → t = { s with reqs := t.reqs, mts := t.mts } ∧
      t.mt q = { s.mt q with agWait := (s.mt q).agWait ++ [id] } ∧ (t.reqs.look id).deferred = true := by
  intro q t runs
  have waits : t = _ := agcfgHome_runs runs
  rw [waits]
  exact ⟨rfl, State.mt_modMt_same s q fun m => { m with agWait := m.agWait ++ [id] }, by rw [req_holdReq]⟩

theorem agcfgHome_idle {id : Nat} (idle : ((s.mt ((s.reqs.look id).tgt / 8)).ag.look ((s.reqs.look id).tgt % 8)).runs = false) :
    s.agcfgHome id = (s.modAg ((s.reqs.look id).tgt / 8) ((s.reqs.look id).tgt % 8) fun a =>
      agWritten a (s.reqs.look id).f.t0.val.toNat (s.reqs.look id).f.t1.val).replyVal id (s.reqs.look id).f.t0.val := by
  refine (if_neg (by simp [idle])).trans (congrArg (fun g => (s.modAg _ _ g).replyVal id (s.reqs.look id).f.t0.val) (funext fun a => ?_))
  unfold agWritten
  split
  next h => rw [if_pos h]
  next h => rw [if_neg (by omega), if_pos h]
  next h h' => rw [if_neg h, if_neg h']

theorem agcfgHome_writes {id : Nat} : let r := s.reqs.look id
    let q := r.tgt / 8
    let u := r.tgt % 8
    let a := (s.mt q).ag.look u
    let t := s.agcfgHome id
    a.runs = false → t = { s with reqs := t.reqs, mts := t.mts, serial := t.serial, chans := t.chans } ∧
      ((t.reqs.look id).tok = r.f.base 0 r.f.t0.val ∧ (t.reqs.look id).performed = true) ∧
      (∀ x, x ≠ q → t.mt x = s.mt x) ∧
      ∀ x, (t.mt q).ag.look x = if x ≠ u then (s.mt q).ag.look x else agWritten a r.f.t0.val.toNat r.f.t1.val := by
  intro r q u a t idle
  obtain ⟨m, hm⟩ : ∃ m, s.modAg q u (fun a => agWritten a r.f.t0.val.toNat r.f.t1.val) = { s with mts := m } := ⟨_, rfl⟩
  have home : t = { s with mts := m }.replyVal id r.f.t0.val := (agcfgHome_idle idle).trans (by rw [← hm])
  have written : t.mts = (s.modAg q u fun a => agWritten a r.f.t0.val.toNat r.f.t1.val).mts := by
    rw [hm, home, replyVal_frame]
  have mts (x : Nat) : t.mt x = (s.modAg q u fun a => agWritten a r.f.t0.val.toNat r.f.t1.val).mt x :=
    congrArg (Tbl.look · x) written
  refine ⟨?_, ?_, fun x other => (mts x).trans (State.mt_modMt_other _ _ _ _ other), fun x => ?_⟩
  · rw [home, replyVal_frame]
  · rw [home]
    exact req_replyVal ..
  · rw [mts, State.modAg, State.mt_modMt_same]
    dsimp only
    by_cases here : x = u
    · subst here
      rw [Tbl.look_upd_same, if_neg (not_not.mpr rfl)]
    · rw [if_pos here, Tbl.look_upd_other _ _ _ _ here]

/-- The table with what `mcgset` writes: a slot of the group `g`, or every slot of it cleared. -/
def mcgWritten (m : Tbl (BitVec 29)) (g w : Nat) (x : Word) : Tbl (BitVec 29) :=
  if tbit w 6 then m.clearRange (g * 64) (g * 64 + 64) else m.put (g * 64 + w % 64) (x.extractLsb' 0 29)

theorem look_mcgWritten_slot {w : Nat} (slot : tbit w 6 = false) (m : Tbl (BitVec 29)) (g : Nat) (x : Word) (j : Nat) :
    (mcgWritten m g w x).look j = if j = g * 64 + w % 64 then x.extractLsb' 0 29 else m.look j := by
  rw [mcgWritten, if_neg (by simp [slot])]
  exact Tbl.look_put ..

theorem look_mcgWritten_group {w : Nat} (group : tbit w 6 = true) (m : Tbl (BitVec 29)) (g : Nat) (x : Word) (j : Nat) :
    (mcgWritten m g w x).look j = if g * 64 ≤ j ∧ j < g * 64 + 64 then 0 else m.look j := by
  rw [mcgWritten, if_pos group]
  split
  next inside => exact look_clearRange_in _ inside.1 inside.2
  next outside => exact look_clearRange_out _ outside

theorem mcgHome_eq (s : State) (id : Nat) : let r := s.reqs.look id
    s.mcgHome id = { s with mcg := mcgWritten s.mcg r.tgt r.f.t0.val.toNat r.f.t1.val }.replyVal id r.f.t0.val := by
  intro r
  unfold State.mcgHome mcgWritten
  dsimp only
  split <;> rfl

theorem mcgHome_writes (s : State) (id : Nat) : let r := s.reqs.look id
    let w := r.f.t0.val.toNat
    let t := s.mcgHome id
    t = { s with reqs := t.reqs, mcg := t.mcg, serial := t.serial, chans := t.chans } ∧
      ((t.reqs.look id).tok = r.f.base 0 r.f.t0.val ∧ (t.reqs.look id).performed = true) ∧
      (tbit w 6 = false → ∀ j, t.mcg.look j = if j = r.tgt * 64 + w % 64 then r.f.t1.val.extractLsb' 0 29 else s.mcg.look j) ∧
      (tbit w 6 = true → ∀ j, t.mcg.look j = if r.tgt * 64 ≤ j ∧ j < r.tgt * 64 + 64 then 0 else s.mcg.look j) := by
  intro r w t
  have home : t = _ := mcgHome_eq s id
  have frame := replyVal_frame { s with mcg := mcgWritten s.mcg r.tgt w r.f.t1.val } id r.f.t0.val
  have answered := req_replyVal { s with mcg := mcgWritten s.mcg r.tgt w r.f.t1.val } id r.f.t0.val
  rw [← home] at frame answered
  have mcg : t.mcg = mcgWritten s.mcg r.tgt w r.f.t1.val := by rw [frame]
  refine ⟨by rw [frame], answered, fun slot j => ?_, fun group j => ?_⟩
  · rw [mcg, look_mcgWritten_slot slot]
  · rw [mcg, look_mcgWritten_group group]

/-! ### The sources of a load (R274, R275) -/

theorem setClosed_frame (s : State) (lid : Nat) (b : Bool) : ∃ g, s.setClosed lid b = { s with regions := g } :=
  List.foldlRecOn (motive := fun t : State => ∃ g, t = { s with regions := g }) _ _ ⟨_, rfl⟩ fun t ht r _ => by
    obtain ⟨g, rfl⟩ := ht
    exact ⟨_, rfl⟩

theorem region_setClosed (s : State) (lid : Nat) (b : Bool) (x : Nat) :
    (s.setClosed lid b).region x = if x ∈ (s.load lid).regions then { s.region x with closed := b } else s.region x := by
  unfold State.setClosed
  generalize (s.load lid).regions = l
  induction l generalizing s with
  | nil => rfl
  | cons r l ih =>
    rw [List.foldl_cons, ih]
    by_cases here : x = r
    · subst here
      rw [State.region_modRegion_same]
      simp
    · rw [State.region_modRegion_other _ _ _ _ here]
      simp [here]

theorem gsrcHome_by_selector (s : State) (id : Nat) : let r := s.reqs.look id
    let sel := (s.view r.f.key).lit % 4
    let lid := (s.region r.tgt).load
    let told := fun (u : State) => u.replyVal id (u.sourceWord r.tgt)
    ∃ u : State, u = { s with regions := u.regions, reqs := u.reqs } ∧ (u.reqs.look id).deferred = true ∧
      (∀ x, u.region x = if x ∈ (s.load lid).regions ∧ sel ≠ 3 then { s.region x with closed := decide (sel ≠ 1) } else s.region x) ∧
      (sel ≠ 2 ∨ u.regionQuiet r.tgt = true → s.gsrcHome id = told u) ∧
      (sel = 2 → u.regionQuiet r.tgt = false → s.gsrcHome id = u) := by
  intro r sel lid told
  have held (t : State) : ((t.holdReq id).reqs.look id).deferred = true := by rw [req_holdReq]
  have closing (b : Bool) : (s.setClosed lid b).holdReq id =
      { s with regions := ((s.setClosed lid b).holdReq id).regions, reqs := ((s.setClosed lid b).holdReq id).reqs } := by
    obtain ⟨g, h⟩ := setClosed_frame s lid b
    rw [h]
    rfl
  have homes : s.gsrcHome id = match sel with
    | 0 => told ((s.setClosed lid true).holdReq id)
    | 1 => told ((s.setClosed lid false).holdReq id)
    | 2 => if ((s.setClosed lid true).holdReq id).regionQuiet r.tgt then told ((s.setClosed lid true).holdReq id)
        else (s.setClosed lid true).holdReq id
    | _ => told (s.holdReq id) := by
    rfl
  rw [homes]
  have few : sel < 4 := Nat.mod_lt _ (by decide)
  clear_value sel
  interval_cases sel
  · exact ⟨_, closing true, held _, fun x => (region_setClosed s lid true x).trans (by simp), fun _ => rfl, nofun⟩
  · exact ⟨_, closing false, held _, fun x => (region_setClosed s lid false x).trans (by simp), fun _ => rfl, nofun⟩
  · refine ⟨_, closing true, held _, fun x => (region_setClosed s lid true x).trans (by simp), fun quiet => ?_,
      fun _ busy => if_neg (by simp [busy])⟩
    exact if_pos (quiet.resolve_left (· rfl))
  · exact ⟨s.holdReq id, rfl, held _, fun x => by simp; rfl, fun _ => rfl, nofun⟩

/-! ### What comes to the fault queue (R260 to R266) -/

theorem fxGone_iff {rid fx : Nat} :
    s.fxGone rid fx = true ↔ (s.fxRec rid fx).alloc = false ∨ (s.fxRec rid fx).releasing = true := by
  simp [State.fxGone]

theorem tbit63 (x : Word) : tbit x.toNat 63 = decide (2 ^ 63 ≤ x.toNat) := by
  have small : x.toNat < 2 ^ 64 := x.isLt
  rw [tbit, beq_eq_decide]
  exact decide_eq_decide.mpr (by omega)

theorem parkHome_gone {id : Nat} (gone : s.fxGone (s.reqs.look id).rid (s.reqs.look id).f.t0.val.toNat = true) :
    s.parkHome id = s.replyFails id fkILLOP 7 :=
  if_pos gone

theorem parkHome_live {id : Nat} (live : s.fxGone (s.reqs.look id).rid (s.reqs.look id).f.t0.val.toNat = false) :
    let q := s.reqs.look id
    let u := if (s.fxRec q.rid q.f.t0.val.toNat).parked then s else s.park q.rid q.f.t0.val.toNat false
    s.parkHome id = if u.marking q.rid q.f.t0.val.toNat then u else u.replyVal id q.f.t0.val :=
  if_neg (by simp [live])

theorem unparkHome_frame {id : Nat} (frame : (s.reqs.look id).f.t0.val.toNat < 2 ^ 63) :
    let q := s.reqs.look id
    let x := q.f.t0.val.toNat
    s.unparkHome id = if s.fxGone q.rid x then s.replyFails id fkILLOP 7
      else if s.faulted q.rid x then s.replyFails id fkPERM 2 else (s.unpark q.rid x).replyVal id q.f.t0.val :=
  if_pos (by rw [tbit63, decide_eq_false (Nat.not_le.mpr frame), Bool.not_false])

section
variable {id : Nat} (frame : (s.reqs.look id).f.t0.val.toNat < 2 ^ 63)
include frame

theorem unparkHome_gone (gone : s.fxGone (s.reqs.look id).rid (s.reqs.look id).f.t0.val.toNat = true) :
    s.unparkHome id = s.replyFails id fkILLOP 7 :=
  (unparkHome_frame frame).trans (if_pos gone)

theorem unparkHome_faulted (live : s.fxGone (s.reqs.look id).rid (s.reqs.look id).f.t0.val.toNat = false)
    (flt : s.faulted (s.reqs.look id).rid (s.reqs.look id).f.t0.val.toNat = true) : s.unparkHome id = s.replyFails id fkPERM 2 :=
  (unparkHome_frame frame).trans ((if_neg (ne_true_of_eq_false live)).trans (if_pos flt))

theorem unparkHome_unparks (live : s.fxGone (s.reqs.look id).rid (s.reqs.look id).f.t0.val.toNat = false)
    (clean : s.faulted (s.reqs.look id).rid (s.reqs.look id).f.t0.val.toNat = false) : s.unparkHome id =
      (s.unpark (s.reqs.look id).rid (s.reqs.look id).f.t0.val.toNat).replyVal id (s.reqs.look id).f.t0.val :=
  (unparkHome_frame frame).trans ((if_neg (ne_true_of_eq_false live)).trans (if_neg (ne_true_of_eq_false clean)))

end

/-! ### Records that are resolved (R260, R357) -/

theorem faults_resolve (s : State) (lid ix : Nat) : ((s.resolve lid ix).load lid).faults = (s.load lid).faults.del ix := by
  rw [State.resolve, State.load_modLoad_same]

/-- Whether another record of the load names the frame of `r`. -/
def namedBeside (s : State) (lid ix : Nat) (r : FaultRec) : Prop :=
  ∃ p ∈ (s.load lid).faults, p.1 ≠ ix ∧ p.2.used = true ∧ p.2.nofx = false ∧ p.2.rid = r.rid ∧ p.2.fx = r.fx

theorem named_iff {t : State} {lid ix : Nat} {r : FaultRec} (faults : (t.load lid).faults = (s.load lid).faults.del ix) :
    t.named lid r.rid r.fx = true ↔ namedBeside s lid ix r := by
  rw [State.named, faults, Tbl.del, List.any_filter, List.any_eq_true]
  simp [namedBeside, and_assoc]

/-- Step 4 of a resolution: the frame of `r` is unparked unless another record names it; of an element, only what comes back
to it differs. -/
theorem unparkAfter_frame {t : State} {lid ix : Nat} {r : FaultRec} (faults : (t.load lid).faults = (s.load lid).faults.del ix)
    (frame : r.nofx = false) : let u := t.unparkAfter lid r
    (u.load lid).faults.look ix = {} ∧ (∀ e, ∃ b, u.elem e = { t.elem e with back := b }) ∧
      (namedBeside s lid ix r → u.fxRec r.rid r.fx = t.fxRec r.rid r.fx) ∧
      (¬ namedBeside s lid ix r → (u.fxRec r.rid r.fx).parked = false) := by
  intro u
  have gone : (t.load lid).faults.look ix = {} := by
    rw [faults]
    exact look_del_same ..
  by_cases named : namedBeside s lid ix r
  · have stays : u = t := if_pos (by simp [(named_iff faults).mpr named])
    rw [stays]
    exact ⟨gone, fun e => ⟨_, rfl⟩, fun _ => rfl, fun other => absurd named other⟩
  · have unparks : u = t.unpark r.rid r.fx := if_neg (by simp [frame, mt (named_iff faults).mp named])
    rw [unparks]
    refine ⟨?_, fun e => elem_unpark .., fun other => absurd other named, fun _ => by rw [fxRec_unpark_same]⟩
    rw [unpark_frame]
    exact gone

theorem fretHome_none {id : Nat} (absent : s.recordOf (s.reqs.look id).lid (s.reqs.look id).f.t0.val.toNat = none) :
    s.fretHome id = s.replyFails id fkBOUNDS 0 := by
  unfold State.fretHome
  dsimp only
  rw [absent]

theorem fkillHome_none {id : Nat} (absent : s.recordOf (s.reqs.look id).lid (s.reqs.look id).f.t0.val.toNat = none) :
    s.fkillHome id = s.replyFails id fkBOUNDS 0 := by
  unfold State.fkillHome
  dsimp only
  rw [absent]

theorem fkillHome_nofx {id ix : Nat} {r : FaultRec}
    (record : s.recordOf (s.reqs.look id).lid (s.reqs.look id).f.t0.val.toNat = some (ix, r)) (nofx : r.nofx = true) :
    s.fkillHome id = s.replyFails id fkILLOP 7 := by
  unfold State.fkillHome
  dsimp only
  rw [record]
  exact if_pos nofx

/-! ### `fkill` (R263) -/

theorem fxRec_release_marked {rid fx : Nat} (alloc : (s.fxRec rid fx).alloc = true) :
    ((s.release rid fx).fxRec rid fx).alloc = true ∧ ((s.release rid fx).fxRec rid fx).releasing = true := by
  have own : ((s.beginRelease rid fx 4096).fxRec rid fx).alloc = true ∧
      ((s.beginRelease rid fx 4096).fxRec rid fx).releasing = true := by
    cases begun : (s.fxRec rid fx).releasing with
    | true =>
      rw [beginRelease_done (by simp [begun])]
      exact ⟨alloc, begun⟩
    | false =>
      rw [fxRec_beginRelease_same 4095 alloc begun]
      exact ⟨alloc, rfl⟩
  unfold State.release
  split
  next root =>
    subst root
    refine foldl_keeps (P := fun t : State => (t.fxRec rid 0).alloc = true ∧ (t.fxRec rid 0).releasing = true)
      (fun t r kept => ?_) _ own
    rw [fxRec_beginRelease_of_releasing t r 0 4096 kept.2]
    exact kept
  next => exact own

/-- The frame of a resolved record is being released. -/
def Machine.State.killed (s : State) (lid ix : Nat) (r : FaultRec) : State :=
  let t := ((s.resolve lid ix).dropCtx r.rid r.fx).release r.rid r.fx
  match r.site with
  | .copy k => t.modQueue k fun u => { u with copy := none }
  | _ => t

theorem killed_releases {ix lid : Nat} {r : FaultRec} (alloc : (s.fxRec r.rid r.fx).alloc = true) :
    let t := s.killed lid ix r
    (t.load lid).faults.look ix = {} ∧ (t.fxRec r.rid r.fx).alloc = true ∧ (t.fxRec r.rid r.fx).releasing = true := by
  have marked := fxRec_release_marked (s := (s.resolve lid ix).dropCtx r.rid r.fx) alloc
  have gone : ((((s.resolve lid ix).dropCtx r.rid r.fx).release r.rid r.fx).load lid).faults.look ix = {} := by
    have kept : ((s.resolve lid ix).dropCtx r.rid r.fx).release r.rid r.fx = _ := release_only ..
    rw [kept]
    exact (congrArg (Tbl.look · ix) (faults_resolve s lid ix)).trans (look_del_same ..)
  intro t
  dsimp only [t, State.killed]
  split <;> exact ⟨gone, marked⟩

/-- The request of a firing is answered when the release of its frame has completed. -/
def Machine.State.owesKill (s : State) (id rid fx : Nat) (f : Firing) : State :=
  { s.modFx rid fx fun x => { x with answers := x.answers ++ [f] } with reqs := s.reqs.del id }

theorem fkillHome_releases {id ix : Nat} {r : FaultRec}
    (record : s.recordOf (s.reqs.look id).lid (s.reqs.look id).f.t0.val.toNat = some (ix, r)) (frame : r.nofx = false)
    (alloc : (s.fxRec r.rid r.fx).alloc = true) :
    s.fkillHome id = ((s.killed (s.reqs.look id).lid ix r).owesKill id r.rid r.fx (s.reqs.look id).f).pump := by
  obtain ⟨-, live, -⟩ := killed_releases (lid := (s.reqs.look id).lid) (ix := ix) alloc
  unfold State.fkillHome
  dsimp only
  rw [record]
  dsimp only
  rw [if_neg (by simp [frame])]
  exact if_pos live

theorem owesKill_owes (s : State) (id rid fx : Nat) (f : Firing) : let t := s.owesKill id rid fx f
    (∀ lid, t.load lid = s.load lid) ∧ (t.fxRec rid fx).releasing = (s.fxRec rid fx).releasing ∧
      f ∈ (t.fxRec rid fx).answers ∧ t.reqs.look id = {} := by
  have record : (s.owesKill id rid fx f).fxRec rid fx = _ := State.fxRec_modFx_same s rid fx fun x => { x with answers := x.answers ++ [f] }
  refine ⟨fun _ => rfl, ?_, ?_, look_del_same ..⟩ <;> rw [record]
  exact List.mem_append_right _ List.mem_cons_self

/-! ### `fret` (R262) -/

section
variable {r : FaultRec} {f : Firing}

/-- What a `fret` with second operand `y` sends to DESTA of the faulted firing. -/
def fretToks (s : State) (f : Firing) (y : Token) : List Flight :=
  s.flights f (s.view f.key) [{ dest := (s.view f.key).destA, second := false, tok := f.base y.kind y.val }]

/-- The faulted node sends the value under the tag of its firing. -/
theorem fretSend_answers {d : Nat} {y : Token} (firing : r.firing = some f) (whole : r.req = none) (frame : r.nofx = false)
    (lo : 0x20 ≤ (s.view f.key).op.toNat) (hi : (s.view f.key).op.toNat < 0x60) (one : (s.view f.key).hdr.ndest = 1)
    (dest : s.destFault (s.view f.key).destA = none) :
    ∃ b, AnswersFrom s (s.fretSend d r y) d f (fretToks s f y) b := by
  have other {n : BitVec 8} (h : n.toNat < 0x20 ∨ 0x60 ≤ n.toNat) : ((s.view f.key).op == n) = false :=
    beq_eq_false_iff_ne.mpr fun e => by rw [e] at lo hi; omega
  have sends : s.fretSend d r y = s.sendAnswer d f (s.view f.key) (portB (s.view f.key) f)
      [{ dest := (s.view f.key).destA, second := false, tok := f.base y.kind y.val }] := by
    simp only [State.fretSend, firing, whole, frame, other (n := 0x9A) (by decide), other (n := 0xAB) (by decide),
      other (n := 0x04) (by decide), other (n := 0x14) (by decide), one, outs1_one one,
      Option.map_none, Bool.false_and, Bool.false_or, Bool.false_eq_true, if_false]
    rfl
  rw [sends]
  exact sendAnswer_answers (sendFault_single dest) (List.cons_ne_nil _ _)

/-- A firing of an operation that makes no memory request leaves no place in a chain. -/
theorem fretReq_none (firing : r.firing = some f) (whole : r.req = none) (op : (s.view f.key).op.toNat < 0x60) :
    s.fretReq r = s := by
  unfold State.fretReq
  rw [firing, whole]
  exact if_pos (by simp [show (s.view f.key).op.toNat < 0x90 by omega])

/-- An operation of the scalar groups ends nothing. -/
theorem fretMacro_none (firing : r.firing = some f) (op : (s.view f.key).op.toNat < 0x60) (stopped : (s.elem f.elem).lastStop = none) :
    s.fretMacro r = s := by
  have other {n : BitVec 8} (h : 0x60 ≤ n.toNat) : ((s.view f.key).op == n) = false :=
    beq_eq_false_iff_ne.mpr fun e => by rw [e] at op; omega
  simp only [State.fretMacro, firing, stopped, other (n := 0x70) (by decide), other (n := 0x71) (by decide),
    other (n := 0xAB) (by decide), Bool.false_and, Bool.false_or, Bool.false_eq_true, if_false]
  rfl

theorem fretSite_none (site : r.site = .none) (stat : r.stat = false) (frame : r.nofx = false) (x : Word) : s.fretSite r x = s := by
  simp [State.fretSite, site, stat, frame]

end


theorem AnswersFrom.view {t : State} {d b : Nat} {g : Firing} {toks : List Flight} (h : AnswersFrom s t d g toks b) (k : Nat) :
    t.view k = s.view k := by
  have nodes (e : Nat) : (t.elem e).nodes = (s.elem e).nodes := by
    by_cases here : e = g.elem
    · rw [here, h.elem]
    · rw [h.others e here]
  rw [State.view, State.view, State.record, State.record, nodes]

section
variable {r : FaultRec} {f : Firing} {id ix : Nat}

/-- `fret` of a record whose node runs in one step and makes no request: the value is sent, and the frame goes on. -/
theorem fretHome_sends {q : MReq} (req : s.reqs.look id = q) (record : s.recordOf q.lid q.f.t0.val.toNat = some (ix, r))
    (firing : r.firing = some f) (whole : r.req = none) (site : r.site = .none) (stat : r.stat = false) (frame : r.nofx = false)
    (lo : 0x20 ≤ (s.view f.key).op.toNat) (hi : (s.view f.key).op.toNat < 0x60) (stopped : (s.elem f.elem).lastStop = none)
    (one : (s.view f.key).hdr.ndest = 1) (dest : s.destFault (s.view f.key).destA = none) :
    ∃ (u : State) (b : Nat), s.fretHome id = u.pump.replyVal id 0 ∧ (u.load q.lid).faults.look ix = {} ∧
      (u.elem f.elem).answers = (s.elem f.elem).answers ++ [{ toks := fretToks s f q.f.t1, via := b }] ∧
      (namedBeside s q.lid ix r → (u.fxRec r.rid r.fx).parked = (s.fxRec r.rid r.fx).parked) ∧
      (¬ namedBeside s q.lid ix r → (u.fxRec r.rid r.fx).parked = false) := by
  subst req
  obtain ⟨b, sent⟩ := fretSend_answers (s := s.resolve (s.reqs.look id).lid ix) (d := (s.reqs.look id).home)
    (y := (s.reqs.look id).f.t1) firing whole frame lo hi one dest
  generalize out : (s.resolve (s.reqs.look id).lid ix).fretSend (s.reqs.look id).home r (s.reqs.look id).f.t1 = t at sent
  have view : t.view f.key = s.view f.key := sent.view f.key
  have req : t.fretReq r = t := fretReq_none firing whole (by rw [view]; exact hi)
  have ends : t.fretMacro r = t := fretMacro_none firing (by rw [view]; exact hi) (by rw [sent.elem]; exact stopped)
  have homes : s.fretHome id = (t.unparkAfter (s.reqs.look id).lid r).pump.replyVal id 0 := by
    unfold State.fretHome
    dsimp only
    rw [record]
    dsimp only
    rw [out, req, ends, fretSite_none site stat frame]
  have faults : (t.load (s.reqs.look id).lid).faults = (s.load (s.reqs.look id).lid).faults.del ix := by
    rw [sent.frame]
    exact faults_resolve ..
  have frec : t.fxRec r.rid r.fx = s.fxRec r.rid r.fx := by
    rw [sent.frame]
    rfl
  obtain ⟨gone, back, named, alone⟩ := unparkAfter_frame faults frame
  obtain ⟨l, elem⟩ := back f.elem
  refine ⟨_, b, homes, gone, ?_, fun other => by rw [named other, frec], alone⟩
  rw [elem, sent.elem]
  rfl

/-- `unpark` of a record whose firing stands stopped: it is issued again, and the frame goes on (R266). -/
theorem unparkHome_reissues {q : MReq} (req : s.reqs.look id = q) (high : 2 ^ 63 ≤ q.f.t0.val.toNat)
    (record : s.recordOf q.lid (q.f.t0.val.toNat - 2 ^ 63) = some (ix, r)) (firing : r.firing = some f) (whole : r.req = none)
    (site : r.site = .none) (stat : r.stat = false) (frame : r.nofx = false) (kind : r.kind ≠ fkEFLOST) :
    ∃ u : State, s.unparkHome id = u.pump.replyVal id q.f.t0.val ∧ (u.load q.lid).faults.look ix = {} ∧
      (u.elem f.elem).readyQ = (s.elem f.elem).readyQ ++ [f] ∧
      (namedBeside s q.lid ix r → (u.fxRec r.rid r.fx).parked = (s.fxRec r.rid r.fx).parked) ∧
      (¬ namedBeside s q.lid ix r → (u.fxRec r.rid r.fx).parked = false) := by
  subst req
  generalize out : (s.resolve (s.reqs.look id).lid ix).modElem f.elem (fun x => { x with readyQ := x.readyQ ++ [f] }) = t
  have again : (s.resolve (s.reqs.look id).lid ix).reissue r = t := by
    simp only [State.reissue, site, stat, kind, frame, firing, whole, out, Bool.false_eq_true, if_false]
  have small : (s.reqs.look id).f.t0.val.toNat < 2 ^ 64 := BitVec.isLt _
  have handle : (s.reqs.look id).f.t0.val.toNat % 2 ^ 63 = (s.reqs.look id).f.t0.val.toNat - 2 ^ 63 := by omega
  have homes : s.unparkHome id = (t.unparkAfter (s.reqs.look id).lid r).pump.replyVal id (s.reqs.look id).f.t0.val := by
    unfold State.unparkHome
    dsimp only
    rw [if_neg (by rw [tbit63, decide_eq_true high]; decide), handle, record]
    dsimp only
    rw [again, firing]
    simp
  have faults : (t.load (s.reqs.look id).lid).faults = (s.load (s.reqs.look id).lid).faults.del ix := by
    rw [← out]
    exact faults_resolve ..
  have frec : t.fxRec r.rid r.fx = s.fxRec r.rid r.fx := by
    rw [← out]
    rfl
  have ready : (t.elem f.elem).readyQ = (s.elem f.elem).readyQ ++ [f] := by
    rw [← out, State.elem_modElem_same]
    rfl
  obtain ⟨gone, back, named, alone⟩ := unparkAfter_frame faults frame
  obtain ⟨l, elem⟩ := back f.elem
  exact ⟨_, homes, gone, by rw [elem, ← ready], fun other => by rw [named other, frec], alone⟩

end


/-- Settles O34: what comes to an object changes it and is answered or held, and the records and marks of a load follow. -/
theorem objectsAndFaultsAtHome : Obligations.ObjectsAndFaultsAtHome := by
  unfold Obligations.ObjectsAndFaultsAtHome
  refine ⟨fun s => ?_, fun s => ?_⟩
  · intro id r w answers ready
    refine ⟨fun hop => ?_, fun hop => ?_, fun hop => ?_, fun hop => ?_⟩
    · have home := homeAccess_op rfl ready hop (by decide) (t := s.agcfgHome id) (by rw [State.objHome, hop]; rfl)
      exact ⟨fun runs => ⟨_, home, agcfgHome_waits runs⟩, fun idle => ⟨_, home, agcfgHome_writes idle⟩⟩
    · have home := homeAccess_op rfl ready hop (by decide) (t := s.mcgHome id) (by rw [State.objHome, hop]; rfl)
      exact ⟨_, home, mcgHome_writes s id⟩
    · have home := homeAccess_op rfl ready hop (by decide) (t := s.gsrcHome id) (by rw [State.objHome, hop]; rfl)
      intro sel lid set told
      obtain ⟨u, frame, held, regions, now, later⟩ := gsrcHome_by_selector s id
      exact ⟨u, ⟨frame, held, regions⟩, fun h => home.trans (congrArg _ (now h)), fun h k => home.trans (congrArg _ (later h k))⟩
    · have home := homeAccess_op rfl ready hop (by decide) (t := s.quiesceHome id) (by rw [State.objHome, hop]; rfl)
      exact ⟨s.holdReq id, rfl, by rw [req_holdReq], fun quiet => home.trans (congrArg _ (if_pos quiet)),
        fun busy => home.trans (congrArg _ (if_neg (ne_true_of_eq_false busy)))⟩
  · intro id q x gone named
    have parks (ready : s.homeReady id = true) (hop : q.op = 0xC3) : exec .homeAccess s = .next (s.parkHome id) :=
      homeAccess_op rfl ready hop (by decide) (by rw [State.objHome, hop]; rfl)
    have unparks (ready : s.homeReady id = true) (hop : q.op = 0xC4) : exec .homeAccess s = .next (s.unparkHome id) :=
      homeAccess_op rfl ready hop (by decide) (by rw [State.objHome, hop]; rfl)
    have frets (ready : s.homeReady id = true) (hop : q.op = 0xC1) : exec .homeAccess s = .next (s.fretHome id) :=
      homeAccess_op rfl ready hop (by decide) (by rw [State.objHome, hop]; rfl)
    have fkills (ready : s.homeReady id = true) (hop : q.op = 0xC2) : exec .homeAccess s = .next (s.fkillHome id) :=
      homeAccess_op rfl ready hop (by decide) (by rw [State.objHome, hop]; rfl)
    have live (h : ¬ gone) : s.fxGone q.rid x = false := Bool.eq_false_iff.mpr (mt fxGone_iff.mp h)
    refine ⟨fun rid fx flt => park_marks s rid fx flt, fun n y rid fx flt first out what c own die =>
      entry_notified first out what own die, ?_, fun ready hop h => ?_, fun ready hop frame h => ⟨fun flt => ?_, fun clean => ?_⟩,
      fun ready hop absent => ?_, fun ix r ready hop record => ⟨fun nofx => ?_, fun frame alloc => ?_⟩,
      fun ix r f => ?_⟩
    · rintro ready (hop | ⟨hop, frame⟩) h
      · exact (parks ready hop).trans (congrArg _ (parkHome_gone (fxGone_iff.mpr h)))
      · exact (unparks ready hop).trans (congrArg _ (unparkHome_gone frame (fxGone_iff.mpr h)))
    · exact (parks ready hop).trans (congrArg _ (parkHome_live (live h)))
    · exact (unparks ready hop).trans (congrArg _ (unparkHome_faulted frame (live h) flt))
    · exact ⟨s.unpark q.rid x, (unparks ready hop).trans (congrArg _ (unparkHome_unparks frame (live h) clean)),
        fxRec_unpark_same .., fun c own die => entry_unpark own die⟩
    · rcases hop with hop | hop
      · exact (frets ready hop).trans (congrArg _ (fretHome_none absent))
      · exact (fkills ready hop).trans (congrArg _ (fkillHome_none absent))
    · exact (fkills ready hop).trans (congrArg _ (fkillHome_nofx record nofx))
    · obtain ⟨resolved, -, releasing⟩ := killed_releases (lid := q.lid) (ix := ix) alloc
      obtain ⟨loads, marks, answers, reqs⟩ := owesKill_owes (s.killed q.lid ix r) id r.rid r.fx q.f
      exact ⟨(s.killed q.lid ix r).owesKill id r.rid r.fx q.f,
        (fkills ready hop).trans (congrArg _ (fkillHome_releases record frame alloc)),
        (congrArg (fun l : Load => l.faults.look ix) (loads q.lid)).trans resolved, marks.trans releasing, answers, reqs⟩
    · intro v ready firing whole site stat frame
      refine ⟨fun hop record lo hi stopped one dest => ?_, fun hop high record kind => ?_⟩
      · obtain ⟨u, b, sends, resolved, answers, both⟩ := fretHome_sends rfl record firing whole site stat frame lo hi stopped one dest
        exact ⟨u, b, (frets ready hop).trans (congrArg _ sends), resolved, answers, both⟩
      · obtain ⟨u, sends, resolved, queued, both⟩ := unparkHome_reissues rfl high record firing whole site stat frame kind
        exact ⟨u, (unparks ready hop).trans (congrArg _ sends), resolved, queued, both⟩

end Sys2Proof
end

section
/-! Queues: their rings, the requests that wait at them, and the operations at their memory tile (R50, R246 to R249, R255). -/
namespace Sys2Proof
-- One proof after the other: side by side they would only keep threads and their memory.
set_option Elab.async false
open Machine

variable {s t : State} {q : Queue}

/-! ### Answers -/

/-- A request that was under way goes back with its token. -/
theorem replyTok_answers {id : Nat} (sent : (s.reqs.look id).stage = .sent) (tok : Token) :
    ((s.replyTok id tok).reqs.look id).tok = tok ∧ ((s.replyTok id tok).reqs.look id).performed = true ∧
      ((s.replyTok id tok).reqs.look id).stage = .reply := by
  obtain ⟨n, h⟩ := req_replyTok s id tok
  rw [h]
  exact ⟨rfl, rfl, if_neg (by simp [sent])⟩

theorem queue_of_mts (h : t.mts = s.mts) (k : Nat) : t.queue k = s.queue k := by
  simp only [State.queue, State.mt, h]

theorem queue_replyTok (s : State) (id k : Nat) (tok : Token) : (s.replyTok id tok).queue k = s.queue k :=
  queue_of_mts (by rw [replyTok_frame]) k

theorem rd_replyTok (s : State) (id a n : Nat) (tok : Token) : (s.replyTok id tok).rd a n = s.rd a n :=
  State.rd_of_mem (by rw [replyTok_frame]) a n

theorem byte_replyTok (s : State) (id a : Nat) (tok : Token) : (s.replyTok id tok).byte a = s.byte a :=
  State.byte_of_mem (by rw [replyTok_frame]) a

/-! ### The ring (R50) -/

theorem stOf_setSt_same (q : Queue) (i : BitVec 32) {n : Nat} (h : n < 4) (b : Bool) : (q.setSt i n b).stOf i = n := by
  show (q.st.put (q.ix i) (n + 4 * b.toNat)).look (q.ix i) % 4 = n
  rw [Tbl.look_put_same]
  omega

theorem sOf_setSt_same (q : Queue) (i : BitVec 32) {n : Nat} (h : n < 4) (b : Bool) : (q.setSt i n b).sOf i = b := by
  show tbit ((q.st.put (q.ix i) (n + 4 * b.toNat)).look (q.ix i)) 2 = b
  rw [Tbl.look_put_same, tbit, show (n + 4 * b.toNat) / 2 ^ 2 = b.toNat by omega]
  cases b <;> rfl

/-- `advance_pub` moves PUB alone (R247). -/
theorem advance_eq (q : Queue) (n : Nat) : ∃ p, q.advance n = { q with pub := p } := by
  induction n generalizing q with
  | zero => exact ⟨q.pub, rfl⟩
  | succ n ih =>
    rw [Queue.advance]
    split
    · obtain ⟨p, h⟩ := ih { q with pub := q.pub + 1 }
      exact ⟨p, h⟩
    · exact ⟨q.pub, rfl⟩

/-- Nothing is passed over at an empty queue, nor where CONS stands at an entry with a token. -/
theorem skip_eq (h : q.cons = q.pub ∨ q.stOf q.cons ≠ 3) (n : Nat) : q.skip n = q := by
  cases n with
  | zero => rfl
  | succ n =>
    rw [Queue.skip, if_neg]
    rcases h with h | h <;> simp [h]

/-! ### What waits at a queue (R247) -/

theorem popStep_none {k : Nat} (pop : (s.queue k).waitPop = []) : s.popStep k = none := by
  unfold State.popStep
  dsimp only
  rw [pop]

theorem pushStep_none {k : Nat} (push : (s.queue k).waitPush = []) : s.pushStep k = none := by
  unfold State.pushStep
  dsimp only
  rw [push]

theorem pushStep_full {k : Nat} (full : (s.queue k).hasRoom = false) : s.pushStep k = none := by
  unfold State.pushStep
  dsimp only
  split
  · rfl
  · rw [full]
    rfl

theorem serveQueue_stays {k : Nat} (pop : (s.queue k).waitPop = []) (push : s.pushStep k = none) (n : Nat) :
    s.serveQueue k n = s := by
  cases n with
  | zero => rfl
  | succ n =>
    have none_pops : (s.queue k).waitPop.isEmpty = true := by rw [pop]; rfl
    rw [State.serveQueue, if_pos none_pops]
    rw [popStep_none pop, push]

/-- Where nothing waits, nothing happens. -/
theorem serve_idle {k : Nat} (push : (s.queue k).waitPush = []) (pop : (s.queue k).waitPop = []) : s.serve k = s :=
  serveQueue_stays pop (pushStep_none push) _

/-- One request waits to push, and finds room. -/
theorem serve_pushes {k : Nat} (pop : (s.queue k).waitPop = []) (step : s.pushStep k = some t) (push' : (t.queue k).waitPush = [])
    (pop' : (t.queue k).waitPop = []) : s.serve k = t := by
  have none_pops : (s.queue k).waitPop.isEmpty = true := by rw [pop]; rfl
  rw [State.serve]
  rw [State.serveQueue, if_pos none_pops]
  rw [popStep_none pop, step]
  exact serveQueue_stays pop' (pushStep_none push') _

/-- The queue with the empty entries at CONS passed over. -/
def Machine.State.skipped (s : State) (k : Nat) : State := s.modQueue k fun q => q.skip q.cap

theorem queue_skipped {k : Nat} (h : (s.queue k).cons = (s.queue k).pub ∨ (s.queue k).stOf (s.queue k).cons ≠ 3) :
    (s.skipped k).queue k = s.queue k :=
  (State.queue_modQueue_same ..).trans (skip_eq h _)

/-- Pops wait, and the first of them finds no entry. -/
theorem serve_holds {k : Nat} (waits : (s.queue k).waitPop ≠ []) (step : (s.skipped k).popStep k = none)
    (push : ((s.skipped k).queue k).waitPush = []) : s.serve k = s.skipped k := by
  have pops : ¬ (s.queue k).waitPop.isEmpty = true := by rwa [List.isEmpty_iff]
  rw [State.serve]
  rw [State.serveQueue, if_neg pops]
  show (match (s.skipped k).popStep k with
    | some t => t.serveQueue k _
    | none => match (s.skipped k).pushStep k with
      | some t => t.serveQueue k _
      | none => s.skipped k) = _
  rw [step, pushStep_none push]

/-- One pop waits, and takes its entry. -/
theorem serve_pops {k : Nat} (waits : (s.queue k).waitPop ≠ []) (step : (s.skipped k).popStep k = some t)
    (push' : (t.queue k).waitPush = []) (pop' : (t.queue k).waitPop = []) : s.serve k = t := by
  have pops : ¬ (s.queue k).waitPop.isEmpty = true := by rwa [List.isEmpty_iff]
  rw [State.serve]
  rw [State.serveQueue, if_neg pops]
  show (match (s.skipped k).popStep k with
    | some t => t.serveQueue k _
    | none => match (s.skipped k).pushStep k with
      | some t => t.serveQueue k _
      | none => s.skipped k) = _
  rw [step]
  exact serveQueue_stays pop' (pushStep_none push') _

/-! ### Entries that are written (R247) -/

theorem entryPa_congr {k : Nat} (base : (t.queue k).base = (s.queue k).base) (cap : (t.queue k).cap = (s.queue k).cap)
    (i : BitVec 32) : t.entryPa k i = s.entryPa k i := by
  simp only [State.entryPa, Queue.ix, base, cap]

theorem modQueue_frame (s : State) (k : Nat) (g : Queue → Queue) : s.modQueue k g = { s with mts := (s.modQueue k g).mts } := rfl

theorem queue_wr (s : State) (a n v k : Nat) : (s.wr a n v).queue k = s.queue k :=
  queue_of_mts (by rw [State.wr_frame]) k

/-- A published entry: its slot holds the token, and it is no longer reserved; PUB may move. -/
theorem publish_writes (s : State) (k : Nat) (i : BitVec 32) (tok : Token) (b : Bool) : let t := s.publish k i tok b
    t = { s with mts := t.mts, mem := t.mem, high := t.high } ∧
      (∃ p, t.queue k = { (s.queue k).setSt i 2 b with pub := p }) ∧
      t.rd (s.entryPa k i) 16 = tok.bits.toNat ∧
      ∀ a, (a < s.entryPa k i ∨ s.entryPa k i + 16 ≤ a) → t.byte a = s.byte a := by
  intro t
  have mem : t.mem = (s.wr (s.entryPa k i) 16 tok.bits.toNat).mem := rfl
  have small : tok.bits.toNat < 256 ^ 16 := lt_of_lt_of_eq tok.bits.isLt (by norm_num)
  refine ⟨?_, ?_, ?_, fun a out => (State.byte_of_mem mem a).trans (State.byte_wr_out _ _ _ _ _ out)⟩
  · have wrote := State.wr_frame s (s.entryPa k i) 16 tok.bits.toNat
    obtain ⟨m, h, hw⟩ : ∃ m h, s.wr (s.entryPa k i) 16 tok.bits.toNat = { s with mem := m, high := h } := ⟨_, _, wrote⟩
    simp only [t, State.publish, hw]
    rfl
  · obtain ⟨p, h⟩ := advance_eq ((s.queue k).setSt i 2 b) (s.queue k).cap
    refine ⟨p, (State.queue_modQueue_same ..).trans ?_⟩
    rw [queue_wr]
    exact h
  · rw [State.rd_of_mem mem, State.rd_wr, Nat.mod_eq_of_lt small]

end Sys2Proof
end

section
/-! The operations on a queue at its memory tile (R246 to R249, R255). -/
namespace Sys2Proof
-- One proof after the other: side by side they would only keep threads and their memory.
set_option Elab.async false
open Machine

variable {s t : State} {id k : Nat}

/-- Between `s` and `t` tiles and requests have changed and messages been posted, and no more. -/
def OnlyQueues (s t : State) : Prop :=
  t = { s with reqs := t.reqs, mts := t.mts, serial := t.serial, chans := t.chans }

/-- Between `s` and `t` memory may have changed as well. -/
def OnlyQueuesAndBytes (s t : State) : Prop :=
  t = { s with reqs := t.reqs, mts := t.mts, mem := t.mem, high := t.high, serial := t.serial, chans := t.chans }

theorem OnlyQueues.trans {u : State} (a : OnlyQueues s t) (b : OnlyQueues t u) : OnlyQueues s u := by
  unfold OnlyQueues at a b ⊢
  rw [b, a]

theorem OnlyQueuesAndBytes.trans {u : State} (a : OnlyQueuesAndBytes s t) (b : OnlyQueuesAndBytes t u) : OnlyQueuesAndBytes s u := by
  unfold OnlyQueuesAndBytes at a b ⊢
  rw [b, a]

theorem OnlyQueues.replyTok (s : State) (id : Nat) (tok : Token) : OnlyQueues s (s.replyTok id tok) := by
  have frame := replyTok_frame s id tok
  unfold OnlyQueues
  rw [frame]

theorem OnlyQueues.andBytes (h : OnlyQueues s t) : OnlyQueuesAndBytes s t := by
  unfold OnlyQueues at h
  unfold OnlyQueuesAndBytes
  rw [h]

/-- Request `id` waits to push into queue `k`, or to reserve an entry of it. -/
def Machine.State.pushWaits (s : State) (id k : Nat) : State :=
  (s.modQueue k fun q => { q with waitPush := q.waitPush ++ [id] }).holdReq id

/-- Request `id` waits to pop from queue `k`. -/
def Machine.State.popWaits (s : State) (id k : Nat) : State :=
  (s.modQueue k fun q => { q with waitPop := q.waitPop ++ [id] }).holdReq id

theorem queueHome_pushes (op : (s.reqs.look id).op = 0xB0 ∨ (s.reqs.look id).op = 0xB2) :
    s.queueHome id = (s.pushWaits id (s.reqs.look id).tgt).serve (s.reqs.look id).tgt := by
  unfold State.queueHome
  dsimp only
  rcases op with op | op <;> rw [op] <;> rfl

theorem queueHome_pops (op : (s.reqs.look id).op = 0xB1) :
    s.queueHome id = (s.popWaits id (s.reqs.look id).tgt).serve (s.reqs.look id).tgt := by
  unfold State.queueHome
  dsimp only
  rw [op]
  rfl

theorem queue_pushWaits (s : State) (id k : Nat) :
    (s.pushWaits id k).queue k = { s.queue k with waitPush := (s.queue k).waitPush ++ [id] } :=
  (queue_of_mts rfl k).trans (State.queue_modQueue_same s k fun q => { q with waitPush := q.waitPush ++ [id] })

theorem queue_popWaits (s : State) (id k : Nat) :
    (s.popWaits id k).queue k = { s.queue k with waitPop := (s.queue k).waitPop ++ [id] } :=
  (queue_of_mts rfl k).trans (State.queue_modQueue_same s k fun q => { q with waitPop := q.waitPop ++ [id] })

theorem req_pushWaits (s : State) (id k : Nat) : (s.pushWaits id k).reqs.look id = { s.reqs.look id with deferred := true } :=
  req_holdReq ..

theorem req_popWaits (s : State) (id k : Nat) : (s.popWaits id k).reqs.look id = { s.reqs.look id with deferred := true } :=
  req_holdReq ..

/-! ### Pushes and reservations (R247) -/

/-- The queue's first push or reservation no longer waits. -/
def Machine.State.pushed (s : State) (k : Nat) (rest : List Nat) : State := s.modQueue k fun q => { q with waitPush := rest }

theorem pushStep_first {rest : List Nat} (first : (s.queue k).waitPush = id :: rest) (room : (s.queue k).hasRoom = true) :
    s.pushStep k = some ((if (s.reqs.look id).op = 0xB2 then (s.pushed k rest).reserve k
      else (s.pushed k rest).append k (s.reqs.look id).f.t0).replyVal id ((s.queue k).resv.zeroExtend 64)) := by
  unfold State.pushStep
  dsimp only
  rw [first, room]
  rfl

theorem reserve_only (s : State) (k : Nat) : OnlyQueues s (s.reserve k) := rfl

theorem pushReady_only (s : State) (id k : Nat) : OnlyQueues s ((s.pushWaits id k).pushed k []) := rfl

theorem queue_reserve (s : State) (k : Nat) : (s.reserve k).queue k =
    { (s.queue k).setSt (s.queue k).resv 1 false with resv := (s.queue k).resv + 1 } :=
  State.queue_modQueue_same ..

/-- An entry is appended: RESV goes on by one, and the entry's slot holds the token. -/
theorem append_writes (s : State) (k : Nat) (tok : Token) : let q := s.queue k
    let t := s.append k tok
    t = { s with mts := t.mts, mem := t.mem, high := t.high } ∧
      ((t.queue k).resv = q.resv + 1 ∧ (t.queue k).waitPush = q.waitPush ∧ (t.queue k).waitPop = q.waitPop) ∧
      t.rd (s.entryPa k q.resv) 16 = tok.bits.toNat ∧
      ∀ a, (a < s.entryPa k q.resv ∨ s.entryPa k q.resv + 16 ≤ a) → t.byte a = s.byte a := by
  intro q t
  obtain ⟨frame, ⟨p, queue⟩, entry, out⟩ := publish_writes (s.reserve k) k q.resv tok false
  have place : (s.reserve k).entryPa k q.resv = s.entryPa k q.resv := by
    refine entryPa_congr ?_ ?_ _ <;> rw [queue_reserve] <;> rfl
  rw [place] at entry out
  refine ⟨frame, ?_, entry, out⟩
  rw [queue_reserve] at queue
  rw [show t.queue k = _ from queue]
  exact ⟨rfl, rfl, rfl⟩

theorem queue_pushed_waits (push : (s.queue k).waitPush = []) : ((s.pushWaits id k).pushed k []).queue k = s.queue k := by
  rw [State.pushed, State.queue_modQueue_same, queue_pushWaits, ← push]

/-- `qpush` into a queue with room: the token stands in the slot of RESV. -/
theorem queueHome_pushes_entry (op : (s.reqs.look id).op = 0xB0) (sent : (s.reqs.look id).stage = .sent) :
    let r := s.reqs.look id
    let k := r.tgt
    let q := s.queue k
    let t := s.queueHome id
    q.waitPush = [] → q.waitPop = [] → q.hasRoom = true →
    t = { s with reqs := t.reqs, mts := t.mts, mem := t.mem, high := t.high, serial := t.serial, chans := t.chans } ∧
      (t.queue k).resv = q.resv + 1 ∧ (t.queue k).waitPush = [] ∧
      ((t.reqs.look id).tok = r.f.base 0 (q.resv.zeroExtend 64) ∧ (t.reqs.look id).performed = true ∧
        (t.reqs.look id).stage = .reply) ∧
      t.rd (s.entryPa k q.resv) 16 = r.f.t0.bits.toNat ∧
      ∀ a, (a < s.entryPa k q.resv ∨ s.entryPa k q.resv + 16 ≤ a) → t.byte a = s.byte a := by
  intro r k q t push pop room
  let t0 := s.pushWaits id k
  let t1 := t0.pushed k []
  have queue0 : t0.queue k = { q with waitPush := [id] } := (queue_pushWaits ..).trans (by rw [push]; rfl)
  have queue1 : t1.queue k = q := queue_pushed_waits push
  have req0 : t0.reqs.look id = { r with deferred := true } := req_pushWaits ..
  obtain ⟨frame, ⟨resv, push', pop'⟩, entry, out⟩ := append_writes t1 k r.f.t0
  have place : t1.entryPa k q.resv = s.entryPa k q.resv := entryPa_congr (by rw [queue1]) (by rw [queue1]) _
  rw [queue1] at resv push' pop' entry out
  rw [place] at entry out
  generalize happens : t1.append k r.f.t0 = t2 at frame resv push' pop' entry out
  have req2 : t2.reqs.look id = { r with deferred := true } := by rw [frame]; exact req0
  have step : t0.pushStep k = some (t2.replyVal id (q.resv.zeroExtend 64)) := by
    rw [pushStep_first (id := id) (rest := []) (by rw [queue0]) (by rw [queue0]; exact room), req0, queue0, ← happens,
      if_neg (by simp [r, op])]
  have queue3 : (t2.replyVal id (q.resv.zeroExtend 64)).queue k = t2.queue k := queue_replyTok ..
  have home : t = t2.replyVal id (q.resv.zeroExtend 64) := (queueHome_pushes (.inl op)).trans
    (serve_pushes (by rw [queue0]; exact pop) step (by rw [queue3, push', push]) (by rw [queue3, pop', pop]))
  rw [home]
  refine ⟨?_, by rw [queue3, resv], by rw [queue3, push', push], ?_, (rd_replyTok ..).trans entry,
    fun a h => (byte_replyTok ..).trans (out a h)⟩
  · have wrote : OnlyQueuesAndBytes t1 t2 := by
      unfold OnlyQueuesAndBytes
      rw [frame]
    exact ((pushReady_only s id k).andBytes.trans wrote).trans (OnlyQueues.replyTok ..).andBytes
  · have answered := replyTok_answers (s := t2) (id := id) (by rw [req2]; exact sent) (r.f.base 0 (q.resv.zeroExtend 64))
    rw [State.replyVal, req2]
    exact answered

/-- At a full queue a push waits. -/
theorem queueHome_push_waits (op : (s.reqs.look id).op = 0xB0) (full : (s.queue (s.reqs.look id).tgt).hasRoom = false)
    (push : (s.queue (s.reqs.look id).tgt).waitPush = []) (pop : (s.queue (s.reqs.look id).tgt).waitPop = []) :
    s.queueHome id = s.pushWaits id (s.reqs.look id).tgt ∧
      (s.queueHome id).queue (s.reqs.look id).tgt = { s.queue (s.reqs.look id).tgt with waitPush := [id] } ∧
      ((s.queueHome id).reqs.look id).deferred = true := by
  have queue := queue_pushWaits s id (s.reqs.look id).tgt
  rw [push] at queue
  have home : s.queueHome id = s.pushWaits id (s.reqs.look id).tgt := (queueHome_pushes (.inl op)).trans
    (serveQueue_stays (by rw [queue]; exact pop) (pushStep_full (by rw [queue]; exact full)) _)
  refine ⟨home, home ▸ queue, ?_⟩
  rw [home, req_pushWaits]

/-- `qresv` reserves the entry at RESV. -/
theorem queueHome_reserves (op : (s.reqs.look id).op = 0xB2) (sent : (s.reqs.look id).stage = .sent) :
    let r := s.reqs.look id
    let k := r.tgt
    let q := s.queue k
    let t := s.queueHome id
    q.waitPush = [] → q.waitPop = [] → q.hasRoom = true →
    t = { s with reqs := t.reqs, mts := t.mts, serial := t.serial, chans := t.chans } ∧
      (t.queue k).resv = q.resv + 1 ∧ (t.queue k).stOf q.resv = 1 ∧
      ((t.reqs.look id).tok = r.f.base 0 (q.resv.zeroExtend 64) ∧ (t.reqs.look id).performed = true ∧
        (t.reqs.look id).stage = .reply) := by
  intro r k q t push pop room
  let t0 := s.pushWaits id k
  let t1 := t0.pushed k []
  have queue0 : t0.queue k = { q with waitPush := [id] } := (queue_pushWaits ..).trans (by rw [push]; rfl)
  have queue1 : t1.queue k = q := queue_pushed_waits push
  have req0 : t0.reqs.look id = { r with deferred := true } := req_pushWaits ..
  have queue2 := queue_reserve t1 k
  rw [queue1] at queue2
  have step : t0.pushStep k = some ((t1.reserve k).replyVal id (q.resv.zeroExtend 64)) := by
    rw [pushStep_first (id := id) (rest := []) (by rw [queue0]) (by rw [queue0]; exact room), req0, queue0,
      if_pos (by simp [r, op])]
  have queue3 : ((t1.reserve k).replyVal id (q.resv.zeroExtend 64)).queue k = (t1.reserve k).queue k := queue_replyTok ..
  have home : t = (t1.reserve k).replyVal id (q.resv.zeroExtend 64) := (queueHome_pushes (.inr op)).trans
    (serve_pushes (by rw [queue0]; exact pop) step (by rw [queue3, queue2]; exact push) (by rw [queue3, queue2]; exact pop))
  rw [home]
  refine ⟨?_, by rw [queue3, queue2], ?_, ?_⟩
  · exact ((pushReady_only s id k).trans (reserve_only _ k)).trans (.replyTok ..)
  · rw [queue3, queue2]
    exact stOf_setSt_same q q.resv (n := 1) (by decide) false
  · have req2 : (t1.reserve k).reqs.look id = { r with deferred := true } := req0
    have answered := replyTok_answers (s := t1.reserve k) (id := id) (by rw [req2]; exact sent) (r.f.base 0 (q.resv.zeroExtend 64))
    rw [State.replyVal, req2]
    exact answered

/-! ### Pops (R247) -/

/-- The queue's first pop takes the entry at CONS and no longer waits. -/
def Machine.State.popped (s : State) (k : Nat) (rest : List Nat) : State :=
  (s.modQueue k Queue.take).modQueue k fun q => { q with waitPop := rest }

theorem popStep_first {rest : List Nat} (first : (s.queue k).waitPop = id :: rest) (some_ : (s.queue k).cons ≠ (s.queue k).pub)
    (free : (s.mt (k / 4)).popping (k % 4) = false) (token : (s.entryAt k (s.queue k).cons).kind ≠ 2) :
    let e := s.entryAt k (s.queue k).cons
    s.popStep k = some ((s.popped k rest).replyTok id
      { (s.reqs.look id).f.base e.kind e.val with eod := e.eod, seq := e.seq, par := e.par }) := by
  intro e
  have token' : ((s.entryAt k (s.queue k).cons).kind == 2#2) = false := beq_eq_false_iff_ne.mpr token
  unfold State.popStep
  dsimp only
  rw [first, free, beq_eq_false_iff_ne.mpr some_]
  dsimp only
  rw [token']
  rfl

theorem popStep_empty (empty : (s.queue k).cons = (s.queue k).pub) : s.popStep k = none := by
  unfold State.popStep
  dsimp only
  split
  · rfl
  · rw [empty, beq_self_eq_true]
    rfl

theorem queue_popped (s : State) (k : Nat) (rest : List Nat) : (s.popped k rest).queue k =
    { (s.queue k).free (s.queue k).cons with cons := (s.queue k).cons + 1, waitPop := rest } := by
  rw [State.popped, State.queue_modQueue_same, State.queue_modQueue_same]
  rfl

theorem popping_modQueue (s : State) (q k x : Nat) (g : Queue → Queue) :
    ((s.modQueue k g).mt q).popping x = (s.mt q).popping x := by
  by_cases here : q = k / 4
  · subst here
    rw [State.modQueue, State.mt_modMt_same]
    rfl
  · rw [State.modQueue, State.mt_modMt_other _ _ _ _ here]

theorem rd_modQueue (s : State) (k a n : Nat) (g : Queue → Queue) : (s.modQueue k g).rd a n = s.rd a n := rfl

theorem entryAt_congr (base : (t.queue k).base = (s.queue k).base) (cap : (t.queue k).cap = (s.queue k).cap)
    (mem : t.mem = s.mem) (i : BitVec 32) : t.entryAt k i = s.entryAt k i := by
  rw [State.entryAt, State.entryAt, entryPa_congr base cap, State.rd_of_mem mem]

theorem popReady_only (s : State) (id k : Nat) : OnlyQueues s ((s.popWaits id k).skipped k) := rfl

theorem mem_popReady (s : State) (id k : Nat) : ((s.popWaits id k).skipped k).mem = s.mem := rfl

/-- The one pop that waits takes the entry at CONS, and is answered with it. -/
theorem popStep_takes {e : Token} (first : (s.queue k).waitPop = [id]) (push : (s.queue k).waitPush = [])
    (some_ : (s.queue k).cons ≠ (s.queue k).pub) (free : (s.mt (k / 4)).popping (k % 4) = false)
    (entry : s.entryAt k (s.queue k).cons = e) (kind : e.kind ≠ 2) (sent : (s.reqs.look id).stage = .sent) :
    ∃ t, s.popStep k = some t ∧ OnlyQueues s t ∧ (t.queue k).waitPush = [] ∧ (t.queue k).waitPop = [] ∧
      (t.queue k).cons = (s.queue k).cons + 1 ∧ (t.queue k).stOf (s.queue k).cons = 0 ∧
      (t.queue k).sOf (s.queue k).cons = (s.queue k).sOf (s.queue k).cons ∧
      (t.reqs.look id).tok = { (s.reqs.look id).f.base e.kind e.val with eod := e.eod, seq := e.seq, par := e.par } ∧
      (t.reqs.look id).performed = true ∧ (t.reqs.look id).stage = .reply := by
  subst entry
  have only : OnlyQueues s (s.popped k []) := rfl
  have reqs : (s.popped k []).reqs.look id = s.reqs.look id := rfl
  refine ⟨_, popStep_first first some_ free kind, only.trans (.replyTok ..), ?_⟩
  rw [queue_replyTok, queue_popped]
  exact ⟨push, rfl, rfl, stOf_setSt_same _ _ (n := 0) (by decide) _, sOf_setSt_same _ _ (n := 0) (by decide) _,
    replyTok_answers (by rw [reqs]; exact sent) _⟩

/-- `qpop` takes the entry at CONS. -/
theorem queueHome_pops_entry (op : (s.reqs.look id).op = 0xB1) (sent : (s.reqs.look id).stage = .sent) :
    let r := s.reqs.look id
    let k := r.tgt
    let q := s.queue k
    let e := s.entryAt k q.cons
    let t := s.queueHome id
    q.waitPush = [] → q.waitPop = [] → q.cons ≠ q.pub → q.stOf q.cons ≠ 3 → (s.mt (k / 4)).popping (k % 4) = false → e.kind ≠ 2 →
    OnlyQueues s t ∧ (t.queue k).cons = q.cons + 1 ∧ (t.queue k).waitPop = [] ∧ (t.queue k).stOf q.cons = 0 ∧
      (t.queue k).sOf q.cons = q.sOf q.cons ∧
      (t.reqs.look id).tok = { r.f.base e.kind e.val with eod := e.eod, seq := e.seq, par := e.par } ∧
      (t.reqs.look id).performed = true ∧ (t.reqs.look id).stage = .reply := by
  intro r k q e t push pop some_ token free kind
  have queue0 : (s.popWaits id k).queue k = { q with waitPop := [id] } := (queue_popWaits ..).trans (by rw [pop]; rfl)
  have queue1 : ((s.popWaits id k).skipped k).queue k = { q with waitPop := [id] } :=
    (queue_skipped (by rw [queue0]; exact .inr token)).trans queue0
  have req1 : ((s.popWaits id k).skipped k).reqs.look id = { r with deferred := true } := req_popWaits ..
  have free1 : (((s.popWaits id k).skipped k).mt (k / 4)).popping (k % 4) = false :=
    (popping_modQueue ..).trans ((popping_modQueue s (k / 4) k (k % 4) _).trans free)
  have entry1 : ((s.popWaits id k).skipped k).entryAt k (((s.popWaits id k).skipped k).queue k).cons = e := by
    rw [entryAt_congr (s := s) (by rw [queue1]) (by rw [queue1]) (mem_popReady s id k), queue1]
  obtain ⟨u, step, only, push', pop', cons, state, stolen, answered⟩ := popStep_takes (id := id) (by rw [queue1])
    (by rw [queue1]; exact push) (by rw [queue1]; exact some_) free1 entry1 kind (by rw [req1]; exact sent)
  rw [queue1] at cons state stolen
  rw [req1] at answered
  have home : t = u := (queueHome_pops op).trans (serve_pops (by rw [queue0]; exact List.cons_ne_nil _ _) step push' pop')
  rw [home]
  exact ⟨(popReady_only s id k).trans only, cons, pop', state, stolen, answered⟩

/-- At an empty queue a pop waits. -/
theorem queueHome_pop_waits (op : (s.reqs.look id).op = 0xB1) :
    let k := (s.reqs.look id).tgt
    let q := s.queue k
    let t := s.queueHome id
    q.waitPush = [] → q.waitPop = [] → q.cons = q.pub → t = { s with reqs := t.reqs, mts := t.mts } ∧
      t.queue k = { q with waitPop := [id] } ∧ (t.reqs.look id).deferred = true := by
  intro k q t push pop empty
  have queue0 : (s.popWaits id k).queue k = { q with waitPop := [id] } := (queue_popWaits ..).trans (by rw [pop]; rfl)
  have queue1 : ((s.popWaits id k).skipped k).queue k = { q with waitPop := [id] } :=
    (queue_skipped (by rw [queue0]; exact .inl empty)).trans queue0
  have home : t = (s.popWaits id k).skipped k := (queueHome_pops op).trans
    (serve_holds (by rw [queue0]; exact List.cons_ne_nil _ _) (popStep_empty (by rw [queue1]; exact empty))
      (by rw [queue1]; exact push))
  rw [home]
  refine ⟨rfl, queue1, ?_⟩
  have req : ((s.popWaits id k).skipped k).reqs.look id = _ := req_popWaits s id k
  rw [req]

/-! ### Publication (R247) -/

/-- `qpub` of a reserved entry, with its token or as an empty one. -/
def Machine.State.published (s : State) (k : Nat) (w : Word) (tok : Token) : State :=
  if w.getLsbD 63 then s.modQueue k fun q => (q.setSt (w.extractLsb' 0 32) 3 (w.getLsbD 62)).advance q.cap
  else s.publish k (w.extractLsb' 0 32) tok (w.getLsbD 62)

theorem published_entry (s : State) (k : Nat) (w : Word) (tok : Token) : let q := s.queue k
    let i := w.extractLsb' 0 32
    let t := s.published k w tok
    OnlyQueuesAndBytes s t ∧ t.reqs = s.reqs ∧
      ((t.queue k).cons = q.cons ∧ (t.queue k).resv = q.resv ∧ (t.queue k).waitPush = q.waitPush ∧
        (t.queue k).waitPop = q.waitPop) ∧
      (t.queue k).sOf i = w.getLsbD 62 ∧
      (w.getLsbD 63 = true → OnlyQueues s t ∧ (t.queue k).stOf i = 3) ∧
      (w.getLsbD 63 = false → (t.queue k).stOf i = 2 ∧ t.rd (s.entryPa k i) 16 = tok.bits.toNat ∧
        ∀ a, (a < s.entryPa k i ∨ s.entryPa k i + 16 ≤ a) → t.byte a = s.byte a) := by
  intro q i t
  by_cases empty : w.getLsbD 63 = true
  · have writes : t = s.modQueue k fun q => (q.setSt i 3 (w.getLsbD 62)).advance q.cap := if_pos empty
    have only : OnlyQueues s t := by rw [writes]; rfl
    obtain ⟨p, moved⟩ := advance_eq (q.setSt i 3 (w.getLsbD 62)) q.cap
    have queue : t.queue k = { q.setSt i 3 (w.getLsbD 62) with pub := p } := by
      rw [writes, State.queue_modQueue_same]
      exact moved
    rw [queue]
    exact ⟨only.andBytes, by rw [writes]; rfl, ⟨rfl, rfl, rfl, rfl⟩, sOf_setSt_same q i (n := 3) (by decide) _,
      fun _ => ⟨only, stOf_setSt_same q i (n := 3) (by decide) _⟩, fun full => absurd (empty.symm.trans full) (by decide)⟩
  · have writes : t = s.publish k i tok (w.getLsbD 62) := if_neg empty
    obtain ⟨frame, ⟨p, queue⟩, entry, out⟩ := publish_writes s k i tok (w.getLsbD 62)
    rw [← writes] at frame queue entry out
    have only : OnlyQueuesAndBytes s t := by
      unfold OnlyQueuesAndBytes
      rw [frame]
    rw [queue]
    exact ⟨only, by rw [frame], ⟨rfl, rfl, rfl, rfl⟩, sOf_setSt_same q i (n := 2) (by decide) _, fun h => absurd h empty,
      fun _ => ⟨stOf_setSt_same q i (n := 2) (by decide) _, entry, out⟩⟩

theorem queueHome_publishes (op : (s.reqs.look id).op = 0xB3) :
    let r := s.reqs.look id
    let k := r.tgt
    let q := s.queue k
    let i := r.f.t0.val.extractLsb' 0 32
    let u := s.published k r.f.t0.val r.f.t1
    fld r.f.t0.val.toNat 32 30 = 0 → q.stOf i = 1 → (i - q.cons).toNat < (q.resv - q.cons).toNat →
      q.waitPush = [] → q.waitPop = [] → s.queueHome id = u.replyVal id ((u.queue k).pub.zeroExtend 64) := by
  intro r k q i u plain reserved inside push pop
  obtain ⟨-, -, ⟨-, -, push', pop'⟩, -⟩ := published_entry s k r.f.t0.val r.f.t1
  have queue : (u.replyVal id ((u.queue k).pub.zeroExtend 64)).queue k = u.queue k := queue_replyTok ..
  refine Eq.trans ?_ (serve_idle (k := k) (by rw [queue]; exact push'.trans push) (by rw [queue]; exact pop'.trans pop))
  unfold State.queueHome
  dsimp only
  rw [op]
  exact if_neg (by simp [r, k, q, i] at plain reserved inside; simp [plain, reserved, inside])

theorem queueHome_publish_fails (op : (s.reqs.look id).op = 0xB3)
    (free : (s.queue (s.reqs.look id).tgt).stOf ((s.reqs.look id).f.t0.val.extractLsb' 0 32) ≠ 1) :
    s.queueHome id = s.replyFails id fkBOUNDS 0 := by
  unfold State.queueHome
  dsimp only
  rw [op]
  exact if_pos (by simp [free])

/-! ### `qstat` and `qarm` (R248, R249) -/

theorem queueHome_stat (op : (s.reqs.look id).op = 0xB6) : s.queueHome id =
    s.replyVal id ((s.queue (s.reqs.look id).tgt).stat (s.reqs.look id).f.t0.val.toNat) := by
  unfold State.queueHome
  dsimp only
  rw [op]
  rfl

theorem queueHome_arms (op : (s.reqs.look id).op = 0xB5) : s.queueHome id =
    (s.modQueue (s.reqs.look id).tgt fun q => { q with
      arm := q.arm ++ [((s.queue (s.reqs.look id).tgt).pub, (s.reqs.look id).f, (s.reqs.look id).f.t0.val)] }).replyVal id
        (s.reqs.look id).f.t0.val := by
  unfold State.queueHome
  dsimp only
  rw [op]
  rfl

/-! ### Steals (R255) -/

theorem queueHome_steals (op : (s.reqs.look id).op = 0xB4) : s.queueHome id = s.steal id (s.reqs.look id).tgt := by
  unfold State.queueHome
  dsimp only
  rw [op]
  rfl

theorem steal_finds_none (h : (s.queue k).cell = none ∨ (s.queue k).window = false ∨ s.stealIndex k = none) :
    s.steal id k = s.replyTok id { (s.reqs.look id).f.base 0 0 with eod := 7, seq := 0 } := by
  unfold State.steal
  dsimp only
  split
  next c i cell index =>
    refine if_pos ?_
    rcases h with h | h | h
    · exact absurd (cell.symm.trans h) nofun
    · rw [h]
      rfl
    · exact absurd (index.symm.trans h) nofun
  next => rfl

theorem queue_modDesc (s : State) (q b k : Nat) (g : Word → Word) : (s.modDesc q b g).queue k = s.queue k := by
  unfold State.queue State.modDesc
  by_cases here : k / 4 = q
  · rw [here, State.mt_modMt_same]
  · rw [State.mt_modMt_other _ _ _ _ here]

theorem desc_modQueue (s : State) (k q b : Nat) (g : Queue → Queue) : (s.modQueue k g).desc q b = s.desc q b := by
  unfold State.desc State.modQueue
  by_cases here : q = k / 4
  · rw [here, State.mt_modMt_same]
  · rw [State.mt_modMt_other _ _ _ _ here]

/-- What a steal of entry `i` does to its queue. -/
def Machine.Queue.stolen (q : Queue) (i : BitVec 32) (h : Word) (f : Firing) : Queue :=
  { q.setSt i 3 true with stc := q.stc + 1, log := q.log ++ [{ index := i.toNat, handle := h, thief := f, closes := 2 }] }

/-- The effect of a steal before its answer: the queue, the reference of the handle, and ENT of the cell. -/
def Machine.State.entryStolen (s : State) (k c : Nat) (i : BitVec 32) (h : Word) (f : Firing) : State :=
  ((s.modQueue k fun q => q.stolen i h f).addRef (winOf h).q (winOf h).buf).modCt (c / 32) fun t =>
    { t with bar := t.bar.upd (c % 32) fun b => { b with w1 := b.w1 ||| 2#64 } }

theorem steal_takes {c : Nat} {i : BitVec 32} (cell : (s.queue k).cell = some c) (index : s.stealIndex k = some i)
    (opened : (s.queue k).window = true) (room : (s.queue k).stc < 255) :
    s.steal id k = (s.entryStolen k c i (s.entryAt k i).val (s.reqs.look id).f).replyTok id
      { (s.reqs.look id).f.base 1 (s.entryAt k i).val with eod := 0, seq := BitVec.ofNat 8 i.toNat } := by
  unfold State.steal
  dsimp only
  rw [cell, index]
  exact if_neg (by simp [opened, room])

theorem stolen_frame (s : State) (k c : Nat) (i : BitVec 32) (h : Word) (f : Firing) :
    s.entryStolen k c i h f = { s with mts := (s.entryStolen k c i h f).mts, cts := (s.entryStolen k c i h f).cts } := by
  obtain ⟨m, hm⟩ : ∃ m, (s.modQueue k fun q => q.stolen i h f).addRef (winOf h).q (winOf h).buf = { s with mts := m } := ⟨_, rfl⟩
  rw [State.entryStolen, hm]
  rfl

theorem queue_stolen (s : State) (k c : Nat) (i : BitVec 32) (h : Word) (f : Firing) :
    (s.entryStolen k c i h f).queue k = (s.queue k).stolen i h f :=
  (queue_modDesc (s.modQueue k fun q => q.stolen i h f) (winOf h).q (winOf h).buf k _).trans (State.queue_modQueue_same ..)

theorem cell_modCell_same (s : State) (k : Nat) (g : BarCell → BarCell) : (s.modCell k g).cell k = g (s.cell k) := by
  simp only [State.cell, State.modCell, State.ct_modCt_same, Tbl.look_upd_same]

theorem cell_stolen (s : State) (k c : Nat) (i : BitVec 32) (h : Word) (f : Firing) :
    (s.entryStolen k c i h f).cell c = { s.cell c with w1 := (s.cell c).w1 ||| 2 } := by
  exact cell_modCell_same ((s.modQueue k fun q => q.stolen i h f).addRef (winOf h).q (winOf h).buf) c
    fun b => { b with w1 := b.w1 ||| 2#64 }

/-- A steal takes a reference of the handle (R226). -/
theorem dCnt_stolen (s : State) (k c : Nat) (i : BitVec 32) (h : Word) (f : Firing) :
    dCnt ((s.entryStolen k c i h f).desc (winOf h).q (winOf h).buf) = (dCnt (s.desc (winOf h).q (winOf h).buf) + 1) % 65536 := by
  have counted := (modDesc_sets (s.modQueue k fun q => q.stolen i h f) (winOf h).q (winOf h).buf
    fun d => setField d 38 16 (dCnt d + 1)).same
  rw [desc_modQueue] at counted
  refine (congrArg dCnt counted).trans ?_
  exact fld_setField (by decide) _ _

end Sys2Proof
end

section
/-! The straggler record of a barrier cell: its arrival ticks, history bytes and persistence bits (R52, R253). -/
namespace Sys2Proof
-- One proof after the other: side by side they would only keep threads and their memory.
set_option Elab.async false
open Machine

variable {s t : State} {rp : Nat}

/-- What one step establishes and every step keeps. -/
theorem foldl_establishes {β γ : Type} {P : β → Prop} {step : β → γ → β} {l : List γ} {i : γ} (member : i ∈ l)
    (does : ∀ t, P (step t i)) (keeps : ∀ t, ∀ k ∈ l, P t → P (step t k)) (t : β) : P (l.foldl step t) := by
  induction l generalizing t with
  | nil => cases member
  | cons k l ih =>
    have later : ∀ t, ∀ k ∈ l, P t → P (step t k) := fun t k hk => keeps t k (List.mem_cons_of_mem _ hk)
    rcases List.mem_cons.mp member with rfl | member
    · show P (l.foldl step (step t i))
      exact List.foldlRecOn l step (does t) fun u hu k hk => later u k hk hu
    · exact ih member later _

/-! ### Arrival ticks -/

theorem MemOnly.wr (s : State) (a n v : Nat) : MemOnly s (s.wr a n v) := s.wr_frame a n v

theorem MemOnly.clearSlot (s : State) (rp slot : Nat) : MemOnly s (s.clearSlot rp slot) :=
  MemOnly.foldl (fun t _ => .wr t ..) s

/-- A tick of another member or of another slot stands apart. -/
theorem tickPa_apart {j m i n : Nat} (hi : i < 16) (hn : n < 16) (other : ¬ (j = m ∧ i = n)) :
    tickPa rp j i + 8 ≤ tickPa rp m n ∨ tickPa rp m n + 8 ≤ tickPa rp j i := by
  unfold tickPa
  omega

theorem tickPa_inside {j i : Nat} (hj : j < 256) (hi : i < 16) : rp ≤ tickPa rp j i ∧ tickPa rp j i + 8 ≤ rp + 32768 := by
  unfold tickPa
  omega

theorem rd_clearSlot_same {j slot : Nat} (hj : j < 256) (hs : slot < 16) (s : State) :
    (s.clearSlot rp slot).rd (tickPa rp j slot) 8 = 2 ^ 64 - 1 := by
  have does (t : State) : (t.wr (tickPa rp j slot) 8 allOnes).rd (tickPa rp j slot) 8 = 2 ^ 64 - 1 := by
    rw [State.rd_wr]
    rfl
  refine foldl_establishes (P := fun t : State => t.rd (tickPa rp j slot) 8 = 2 ^ 64 - 1) (i := j)
    (step := fun (t : State) m => t.wr (tickPa rp m slot) 8 allOnes) (List.mem_range.mpr hj) does (fun t m _ kept => ?_) s
  by_cases same : j = m
  · subst same
    exact does t
  · rw [rd_wr_apart _ (tickPa_apart hs hs fun h => same h.1)]
    exact kept

theorem rd_clearSlot_other {j i slot : Nat} (hi : i < 16) (hs : slot < 16) (other : i ≠ slot) (s : State) :
    (s.clearSlot rp slot).rd (tickPa rp j i) 8 = s.rd (tickPa rp j i) 8 :=
  foldl_keeps (P := fun t : State => t.rd (tickPa rp j i) 8 = s.rd (tickPa rp j i) 8)
    (fun _ _ kept => (rd_wr_apart _ (tickPa_apart hi hs fun h => other h.2)).trans kept) _ rfl

theorem byte_clearSlot_out {a slot : Nat} (hs : slot < 16) (out : a < rp ∨ rp + 32768 ≤ a) (s : State) :
    (s.clearSlot rp slot).byte a = s.byte a := by
  refine List.foldlRecOn (motive := fun t : State => t.byte a = s.byte a) _ _ rfl fun t kept m hm => ?_
  have inside := tickPa_inside (rp := rp) (List.mem_range.mp hm) hs
  exact (State.byte_wr_out _ _ _ _ _ (by omega)).trans kept

/-- Every slot is set to all ones. -/
def Machine.State.clearSlots (s : State) (rp : Nat) : State := (List.range 16).foldl (fun t i => t.clearSlot rp i) s

theorem MemOnly.clearSlots (s : State) (rp : Nat) : MemOnly s (s.clearSlots rp) :=
  MemOnly.foldl (fun t i => .clearSlot t rp i) s

theorem rd_clearSlots {j i : Nat} (hj : j < 256) (hi : i < 16) (s : State) :
    (s.clearSlots rp).rd (tickPa rp j i) 8 = 2 ^ 64 - 1 := by
  refine foldl_establishes (P := fun t : State => t.rd (tickPa rp j i) 8 = 2 ^ 64 - 1) (i := i)
    (step := fun (t : State) i => t.clearSlot rp i) (List.mem_range.mpr hi) (rd_clearSlot_same hj hi) (fun t k hk kept => ?_) s
  by_cases same : i = k
  · subst same
    exact rd_clearSlot_same hj hi t
  · rw [rd_clearSlot_other hi (List.mem_range.mp hk) same]
    exact kept

theorem byte_clearSlots_out {a : Nat} (out : a < rp ∨ rp + 32768 ≤ a) (s : State) : (s.clearSlots rp).byte a = s.byte a :=
  List.foldlRecOn (motive := fun t : State => t.byte a = s.byte a) _ _ rfl fun t kept _ hi =>
    (byte_clearSlot_out (List.mem_range.mp hi) out t).trans kept

/-! ### Histories and persistence bits -/

theorem histPa_inside {m : Nat} (hm : m < 256) : rp + 32768 ≤ histPa rp m ∧ histPa rp m < rp + 33024 := by
  unfold histPa
  omega

theorem persistPa_inside {m : Nat} (hm : m < 256) : rp + 33024 ≤ persistPa rp m ∧ persistPa rp m < rp + 33056 := by
  unfold persistPa
  omega

/-- The history of a member as its round closes: one bit more, which says whether it lags (R253). -/
def lagHist (s : State) (b : BarCell) (slot med m : Nat) : Nat :=
  ((s.byte (histPa b.recPa m)).toNat * 2 +
    (decide ((BitVec.ofNat 64 (s.rd (tickPa b.recPa m slot) 8) - BitVec.ofNat 64 med).toInt > b.lagt)).toNat) % 256

/-- A byte with bit `i` set or cleared. -/
def bitSet (x : Byte) (i : Nat) (on : Prop) [Decidable on] : Byte :=
  BitVec.ofNat 8 (x.toNat - (if tbit x.toNat i then 2 ^ i else 0) + if on then 2 ^ i else 0)

theorem getLsbD_bitSet (x : Byte) {i j : Nat} (hj : j < 8) (on : Prop) [Decidable on] :
    (bitSet x i on).getLsbD j = if j = i then decide on else x.getLsbD j := by
  have old : (if tbit x.toNat i then 2 ^ i else 0) = fld x.toNat i 1 * 2 ^ i := by
    rw [fld, tbit, pow_one]
    split
    next h => rw [beq_iff_eq.mp h, one_mul]
    next h => rw [show x.toNat / 2 ^ i % 2 = 0 by simp at h; omega, zero_mul]
  have new : (if on then 2 ^ i else 0) = (decide on).toNat % 2 ^ 1 * 2 ^ i := by
    by_cases h : on <;> simp [h]
  rw [bitSet, BitVec.getLsbD_ofNat, decide_eq_true hj, Bool.true_and, old, new, testBit_replaced]
  by_cases here : j = i
  · subst here
    rw [if_pos (by omega), if_pos rfl, Nat.sub_self]
    cases decide on <;> rfl
  · rw [if_neg (by omega), if_neg here]
    rfl

theorem closeMember_eq (s : State) (b : BarCell) (slot med m : Nat) : s.closeMember b slot med m =
    let h := lagHist s b slot med m
    let t := s.setByte (histPa b.recPa m) (BitVec.ofNat 8 h)
    t.setByte (persistPa b.recPa m) (bitSet (t.byte (persistPa b.recPa m)) (m % 8) (popcount 8 h ≥ 6)) := rfl

theorem MemOnly.closeMember (s : State) (b : BarCell) (slot med m : Nat) : MemOnly s (s.closeMember b slot med m) := by
  rw [closeMember_eq]
  exact (MemOnly.setByte ..).trans (.setByte ..)

section
variable {b : BarCell} {slot med m : Nat}

theorem byte_closeMember_out {a : Nat} (hist : a ≠ histPa b.recPa m) (persist : a ≠ persistPa b.recPa m) :
    (s.closeMember b slot med m).byte a = s.byte a := by
  rw [closeMember_eq]
  exact (State.byte_setByte_other _ _ _ _ persist).trans (State.byte_setByte_other _ _ _ _ hist)

theorem hist_closeMember_same (hm : m < 256) :
    (s.closeMember b slot med m).byte (histPa b.recPa m) = BitVec.ofNat 8 (lagHist s b slot med m) := by
  have h := histPa_inside (rp := b.recPa) hm
  have p := persistPa_inside (rp := b.recPa) hm
  rw [closeMember_eq]
  exact (State.byte_setByte_other _ _ _ _ (by omega)).trans (State.byte_setByte_same ..)

theorem hist_closeMember_other {j : Nat} (hj : j < 256) (hm : m < 256) (other : j ≠ m) :
    (s.closeMember b slot med m).byte (histPa b.recPa j) = s.byte (histPa b.recPa j) := by
  have h := histPa_inside (rp := b.recPa) hj
  have p := persistPa_inside (rp := b.recPa) hm
  exact byte_closeMember_out (by unfold histPa; omega) (by omega)

theorem persists_closeMember {j : Nat} (hj : j < 256) (hm : m < 256) : (s.closeMember b slot med m).persists b.recPa j =
    if j = m then decide (6 ≤ popcount 8 (lagHist s b slot med m)) else s.persists b.recPa j := by
  have h := histPa_inside (rp := b.recPa) hm
  have p := persistPa_inside (rp := b.recPa) hj
  by_cases together : persistPa b.recPa j = persistPa b.recPa m
  · have bytes : j / 8 = m / 8 := by unfold persistPa at together; omega
    rw [State.persists, State.persists, closeMember_eq, together, State.byte_setByte_same,
      getLsbD_bitSet _ (Nat.mod_lt _ (by decide)), State.byte_setByte_other _ _ _ _ (by omega)]
    exact if_congr (by omega) rfl rfl
  · rw [State.persists, State.persists, byte_closeMember_out (by omega) together, if_neg fun e : j = m => together (by rw [e])]

theorem rd_closeMember (hm : m < 256) {a n : Nat} (below : a + n ≤ b.recPa + 32768) :
    (s.closeMember b slot med m).rd a n = s.rd a n := by
  have h := histPa_inside (rp := b.recPa) hm
  have p := persistPa_inside (rp := b.recPa) hm
  exact rd_congr fun i hi => byte_closeMember_out (by omega) (by omega)

theorem lagHist_closeMember_other {j : Nat} (hj : j < 256) (hm : m < 256) (hs : slot < 16) (other : j ≠ m) :
    lagHist (s.closeMember b slot med m) b slot med j = lagHist s b slot med j := by
  rw [lagHist, lagHist, hist_closeMember_other hj hm other, rd_closeMember hm (tickPa_inside hj hs).2]

/-- The members of a closing round, one after the other. -/
def Machine.State.closeMembers (s : State) (b : BarCell) (slot med : Nat) (l : List Nat) : State :=
  l.foldl (fun t m => t.closeMember b slot med m) s

theorem MemOnly.closeMembers (s : State) (b : BarCell) (slot med : Nat) (l : List Nat) :
    MemOnly s (s.closeMembers b slot med l) :=
  MemOnly.foldl (fun t m => .closeMember t b slot med m) s

/-- Each member's history takes in whether it lags, and its persistence bit follows its history. -/
theorem closeMembers_records {l : List Nat} (once : l.Nodup) (few : ∀ m ∈ l, m < 256) (hs : slot < 16) (s : State) {j : Nat}
    (hj : j < 256) : let t := s.closeMembers b slot med l
    (j ∉ l → t.byte (histPa b.recPa j) = s.byte (histPa b.recPa j) ∧ t.persists b.recPa j = s.persists b.recPa j) ∧
      (j ∈ l → t.byte (histPa b.recPa j) = BitVec.ofNat 8 (lagHist s b slot med j) ∧
        t.persists b.recPa j = decide (6 ≤ popcount 8 (lagHist s b slot med j))) := by
  induction l generalizing s with
  | nil => exact ⟨fun _ => ⟨rfl, rfl⟩, nofun⟩
  | cons m l ih =>
    obtain ⟨fresh, once⟩ := List.nodup_cons.mp once
    have hm : m < 256 := few m List.mem_cons_self
    obtain ⟨absent, present⟩ := ih once (fun k hk => few k (List.mem_cons_of_mem _ hk)) (s.closeMember b slot med m)
    have unfolds : s.closeMembers b slot med (m :: l) = (s.closeMember b slot med m).closeMembers b slot med l := by
      simp only [State.closeMembers, List.foldl_cons]
    rw [unfolds]
    dsimp only
    by_cases here : j = m
    · subst here
      obtain ⟨hist, persist⟩ := absent fresh
      rw [hist, persist, hist_closeMember_same hj, persists_closeMember hj hj, if_pos rfl]
      exact ⟨fun other => absurd List.mem_cons_self other, fun _ => ⟨rfl, rfl⟩⟩
    · rw [hist_closeMember_other hj hm here, persists_closeMember hj hm, if_neg here] at absent
      rw [lagHist_closeMember_other hj hm hs here] at present
      exact ⟨fun other => absent fun h => other (List.mem_cons_of_mem _ h),
        fun member => present ((List.mem_cons.mp member).resolve_left here)⟩

end

end Sys2Proof
end

section
/-! Barrier cells: `bari`, the arrivals of `barv`, the closing of a round, and `barlog` (R51, R52, R252 to R254). -/
namespace Sys2Proof
-- One proof after the other: side by side they would only keep threads and their memory.
set_option Elab.async false
open Machine

variable {s t : State} {id k : Nat}

/-! ### Fields of the cell's words (R51) -/

theorem testBit_setField {lo len : Nat} (w : Word) (x i : Nat) : (setField w lo len x).toNat.testBit i =
    (decide (i < 64) && if lo ≤ i ∧ i < lo + len then x.testBit (i - lo) else w.toNat.testBit i) := by
  rw [setField, BitVec.toNat_ofNat, Nat.testBit_mod_two_pow, testBit_replaced]

theorem fld_setField_apart {lo len at_ n : Nat} (apart : at_ + n ≤ lo ∨ lo + len ≤ at_) (fits : at_ + n ≤ 64) (w : Word) (x : Nat) :
    fld (setField w lo len x).toNat at_ n = fld w.toNat at_ n := by
  refine Nat.eq_of_testBit_eq fun i => ?_
  rw [testBit_fld, testBit_fld, testBit_setField]
  by_cases inside : i < n
  · rw [if_neg (by omega), decide_eq_true (show at_ + i < 64 by omega), Bool.true_and]
  · simp [inside]

theorem getLsbD_setField_apart {lo len i : Nat} (apart : i < lo ∨ lo + len ≤ i) (w : Word) (x : Nat) :
    (setField w lo len x).getLsbD i = w.getLsbD i := by
  have bit := testBit_setField (lo := lo) (len := len) w x i
  rw [if_neg (by omega)] at bit
  refine bit.trans ?_
  by_cases inside : i < 64
  · rw [decide_eq_true inside, Bool.true_and]
    rfl
  · rw [decide_eq_false inside, Bool.false_and]
    exact (BitVec.getLsbD_of_ge w i (by omega)).symm

/-- What a cell holds beside its counts: the number of members, the designated queue, the record and the lag. -/
structure SameCell (b c : BarCell) : Prop where
  nmem : c.nmem = b.nmem
  queueOn : ∀ d, c.queueOn d = b.queueOn d
  recPa : c.recPa = b.recPa
  lagt : c.lagt = b.lagt

theorem sameCell_counts {b c : BarCell} (x : Nat) (w0 : c.w0 = setField b.w0 47 9 x) (w1 : c.w1 = b.w1) : SameCell b c := by
  refine ⟨?_, fun d => ?_, ?_, ?_⟩
  · rw [BarCell.nmem, w0, fld_setField_apart (by decide) (by decide), BarCell.nmem]
  · rw [BarCell.queueOn, w0, getLsbD_setField_apart (by decide), fld_setField_apart (by decide) (by decide),
      fld_setField_apart (by decide) (by decide), BarCell.queueOn]
  · rw [BarCell.recPa, w1, BarCell.recPa]
  · rw [BarCell.lagt, w1, BarCell.lagt]

/-! ### The state of a cell -/

theorem cell_of_cts (h : t.cts = s.cts) (k : Nat) : t.cell k = s.cell k := by
  simp only [State.cell, State.ct, h]

theorem MemOnly.cts (h : MemOnly s t) : t.cts = s.cts := by
  rw [h]

theorem MemOnly.reqs (h : MemOnly s t) : t.reqs = s.reqs := by
  rw [h]

theorem f_holdReq (s : State) (id n : Nat) : ((s.holdReq id).reqs.look n).f = (s.reqs.look n).f := by
  rw [State.holdReq]
  dsimp only
  rw [Tbl.look_upd]
  split
  next h => rw [h]
  next => rfl

/-! ### Arrivals (R253) -/

theorem cell_holdReq (s : State) (id k : Nat) : (s.holdReq id).cell k = s.cell k := rfl

theorem mem_holdReq_modCell (s : State) (id k : Nat) (g : BarCell → BarCell) : ((s.modCell k g).holdReq id).mem = s.mem := rfl

theorem mts_holdReq_modCell (s : State) (id k : Nat) (g : BarCell → BarCell) : ((s.modCell k g).holdReq id).mts = s.mts := rfl

theorem reqs_modCell (s : State) (k : Nat) (g : BarCell → BarCell) : (s.modCell k g).reqs = s.reqs := rfl

/-- The arrival tick of a member stands in the record. -/
def Machine.State.ticked (s : State) (k m : Nat) : State :=
  s.wr (tickPa (s.cell k).recPa m ((s.cell k).round % 16)) 8 (s.tick (k / 32 / 4096))

theorem MemOnly.ticked (s : State) (k m : Nat) : MemOnly s (s.ticked k m) := .wr ..

/-- The state as a member's arrival has been counted. -/
def Machine.State.barArrived (s : State) (id k m : Nat) : State :=
  ((s.ticked k m).modCell k fun b =>
    { b with w0 := setField b.w0 47 9 (b.narr + 1), waiting := b.waiting ++ [id], arrived := b.arrived ++ [m] }).holdReq id

theorem barvHome_arrives {m : Nat} (value : (s.reqs.look id).f.t0.val.toNat = m) (few : m < 256)
    (member : m ≤ (s.cell (s.reqs.look id).tgt).nmem) (fresh : m ∉ (s.cell (s.reqs.look id).tgt).arrived) :
    let k := (s.reqs.look id).tgt
    let t := s.barArrived id k m
    s.barvHome id = if (t.cell k).narr = (s.cell k).nmem + 1 + t.stcOf k then t.closeBarrier k else t := by
  have low : m % 256 = m := Nat.mod_eq_of_lt few
  have first : tbit m 8 = false := by
    rw [tbit, Nat.div_eq_of_lt (by omega)]
    rfl
  intro k t
  unfold State.barvHome
  dsimp only
  rw [value, low, first, if_neg]
  · rfl
  · simp [show ¬ 512 ≤ m by omega, show ¬ (s.cell (s.reqs.look id).tgt).nmem < m by omega, fresh]

theorem cell_barArrived (s : State) (id k m : Nat) : (s.barArrived id k m).cell k =
    { s.cell k with w0 := setField (s.cell k).w0 47 9 ((s.cell k).narr + 1), waiting := (s.cell k).waiting ++ [id]
                    arrived := (s.cell k).arrived ++ [m] } := by
  rw [State.barArrived, cell_holdReq, cell_modCell_same, cell_of_cts (MemOnly.ticked s k m).cts]

theorem sameCell_barArrived (s : State) (id k m : Nat) : SameCell (s.cell k) ((s.barArrived id k m).cell k) :=
  sameCell_counts ((s.cell k).narr + 1) (by rw [cell_barArrived]) (by rw [cell_barArrived])

theorem narr_barArrived {k : Nat} (room : (s.cell k).narr < 511) (id m : Nat) :
    ((s.barArrived id k m).cell k).narr = (s.cell k).narr + 1 := by
  rw [cell_barArrived]
  exact (fld_setField (by decide) _ _).trans (Nat.mod_eq_of_lt (by omega))

theorem round_barArrived (s : State) (id k m : Nat) : ((s.barArrived id k m).cell k).round = (s.cell k).round := by
  rw [cell_barArrived]
  exact fld_setField_apart (by decide) (by decide) _ _

theorem mem_barArrived (s : State) (id k m : Nat) : (s.barArrived id k m).mem = (s.ticked k m).mem := by
  rw [State.barArrived, mem_holdReq_modCell]

theorem mts_barArrived (s : State) (id k m : Nat) : (s.barArrived id k m).mts = s.mts := by
  rw [State.barArrived, mts_holdReq_modCell, (MemOnly.ticked s k m).mts]

theorem req_barArrived (s : State) (id k m n : Nat) : ((s.barArrived id k m).reqs.look n).f = (s.reqs.look n).f := by
  rw [State.barArrived, f_holdReq, reqs_modCell, (MemOnly.ticked s k m).reqs]

theorem deferred_barArrived (s : State) (id k m : Nat) : ((s.barArrived id k m).reqs.look id).deferred = true := by
  rw [State.barArrived, req_holdReq]

theorem stcOf_barArrived (s : State) (id k m : Nat) : (s.barArrived id k m).stcOf k = s.stcOf k := by
  rw [State.stcOf, State.stcOf, (sameCell_barArrived s id k m).queueOn]
  split
  next qk _ => rw [queue_of_mts (mts_barArrived s id k m)]
  next => rfl

/-! ### Answers to all that wait -/

theorem f_replyVal (s : State) (id : Nat) (x : Word) (n : Nat) : ((s.replyVal id x).reqs.look n).f = (s.reqs.look n).f := by
  by_cases here : n = id
  · subst here
    obtain ⟨v, h⟩ := req_replyTok s n ((s.reqs.look n).f.base 0 x)
    rw [State.replyVal, h]
    rfl
  · rw [req_replyVal_other _ x here]

/-- Every request of a list is answered with a word. -/
def Machine.State.replyAll (s : State) (l : List Nat) (x : Word) : State := l.foldl (fun t id => t.replyVal id x) s

theorem replyAll_cons (s : State) (n : Nat) (l : List Nat) (x : Word) :
    s.replyAll (n :: l) x = (s.replyVal n x).replyAll l x := by
  simp only [State.replyAll, List.foldl_cons]

theorem mem_replyAll (s : State) (l : List Nat) (x : Word) : (s.replyAll l x).mem = s.mem :=
  foldl_keeps (P := fun t : State => t.mem = s.mem) (fun t n kept => (mem_replyVal t n x).trans kept) l rfl

theorem cts_replyAll (s : State) (l : List Nat) (x : Word) : (s.replyAll l x).cts = s.cts :=
  foldl_keeps (P := fun t : State => t.cts = s.cts) (fun t n kept => (cts_replyVal t n x).trans kept) l rfl

theorem mts_replyAll (s : State) (l : List Nat) (x : Word) : (s.replyAll l x).mts = s.mts :=
  foldl_keeps (P := fun t : State => t.mts = s.mts) (fun t n kept => (mts_replyVal t n x).trans kept) l rfl

theorem replyAll_others {l : List Nat} {n : Nat} (out : n ∉ l) (s : State) (x : Word) :
    (s.replyAll l x).reqs.look n = s.reqs.look n := by
  induction l generalizing s with
  | nil => rfl
  | cons m l ih =>
    obtain ⟨here, later⟩ := not_or.mp (List.mem_cons.not.mp out)
    rw [replyAll_cons, ih later, req_replyVal_other _ x here]

theorem replyAll_answers {l : List Nat} {n : Nat} (member : n ∈ l) (s : State) (x : Word) :
    ((s.replyAll l x).reqs.look n).tok = (s.reqs.look n).f.base 0 x ∧ ((s.replyAll l x).reqs.look n).performed = true := by
  induction l generalizing s with
  | nil => cases member
  | cons m l ih =>
    rw [replyAll_cons]
    by_cases later : n ∈ l
    · rw [← f_replyVal s m x n]
      exact ih later _
    · obtain rfl : n = m := (List.mem_cons.mp member).resolve_right later
      rw [replyAll_others later]
      exact req_replyVal ..

end Sys2Proof
end

section
/-! The close of a barrier's round, `bari` and `barlog` (R52, R252 to R254). -/
namespace Sys2Proof
-- One proof after the other: side by side they would only keep threads and their memory.
set_option Elab.async false
open Machine

variable {s t : State} {id k : Nat}

/-! ### The close of a round (R253) -/

theorem nmem_lt (b : BarCell) : b.nmem < 256 := fld_lt ..

/-- The median of the arrival ticks of a slot (R253). -/
def medianTick (s : State) (b : BarCell) (slot : Nat) : Nat :=
  (sortAsc ((List.range (b.nmem + 1)).map fun m => s.rd (tickPa b.recPa m slot) 8))[b.nmem / 2]?.getD 0

/-- The cell as its round closes. -/
def Machine.BarCell.closed (b : BarCell) (was : BarWas) : BarCell :=
  { b with w0 := setField (setField b.w0 47 9 0) 31 16 (b.round + 1), w1 := setField b.w1 1 1 0, waiting := [], arrived := []
           was := some was }

/-- The record and the cell as the round closes. -/
def Machine.State.closedRecord (s : State) (k : Nat) : State :=
  let b := s.cell k
  ((s.closeMembers b (b.round % 16) (medianTick s b (b.round % 16)) (List.range (b.nmem + 1))).modCell k fun c =>
    { c with w0 := setField (setField c.w0 47 9 0) 31 16 (c.round + 1), w1 := setField c.w1 1 1 0, waiting := [], arrived := []
             was := some (s.barWas k) }).clearSlot b.recPa ((b.round + 1) % 16)

/-- The queue that the cell designates, if any, opens or shuts its window. -/
def Machine.State.closedQueue (s : State) (on : Option Nat) (window : Bool) : State :=
  match on with
  | some qk => s.modQueue qk fun q =>
      { q with stc := 0, window := window
               log := (q.log.map fun e => { e with closes := e.closes - 1 }).filter fun e => e.closes != 0 }
  | none => s

theorem closeBarrier_eq (s : State) (k : Nat) : s.closeBarrier k =
    let b := s.cell k
    let t := s.closedRecord k
    (t.closedQueue (b.queueOn (k / 32 / 4096)) ((List.range (b.nmem + 1)).any fun m => t.persists b.recPa m)).replyAll b.waiting
      (BitVec.ofNat 64 b.round) := by
  unfold State.closeBarrier State.replyAll State.closedQueue State.closedRecord State.closeMembers medianTick
  dsimp only <;> cases (s.cell k).queueOn (k / 32 / 4096) <;> rfl

theorem mem_closedQueue (s : State) (on : Option Nat) (window : Bool) : (s.closedQueue on window).mem = s.mem := by
  cases on <;> rfl

theorem cts_closedQueue (s : State) (on : Option Nat) (window : Bool) : (s.closedQueue on window).cts = s.cts := by
  cases on <;> rfl

theorem reqs_closedQueue (s : State) (on : Option Nat) (window : Bool) : (s.closedQueue on window).reqs = s.reqs := by
  cases on <;> rfl

theorem queue_closedQueue {qk : Nat} (s : State) (window : Bool) : ((s.closedQueue (some qk) window).queue qk).stc = 0 ∧
    ((s.closedQueue (some qk) window).queue qk).window = window := by
  have same := State.queue_modQueue_same s qk fun q => { q with
    stc := 0, window := window, log := (q.log.map fun e => { e with closes := e.closes - 1 }).filter fun e => e.closes != 0 }
  refine ⟨(congrArg Queue.stc same).trans rfl, (congrArg Queue.window same).trans rfl⟩

theorem cell_closedRecord (s : State) (k : Nat) : (s.closedRecord k).cell k = (s.cell k).closed (s.barWas k) := by
  unfold State.closedRecord
  dsimp only
  rw [cell_of_cts (MemOnly.clearSlot ..).cts, cell_modCell_same, cell_of_cts (MemOnly.closeMembers ..).cts]
  rfl

theorem closed_counts (b : BarCell) (was : BarWas) : (b.closed was).narr = 0 ∧ (b.closed was).round = (b.round + 1) % 2 ^ 16 ∧
    (b.closed was).ent = false ∧ (b.closed was).waiting = [] ∧ (b.closed was).arrived = [] := by
  refine ⟨?_, fld_setField (by decide) _ _, ?_, rfl, rfl⟩
  · refine (fld_setField_apart (by decide) (by decide) _ _).trans ?_
    exact (fld_setField (by decide) _ _).trans rfl
  · show (setField b.w1 1 1 0).toNat.testBit 1 = false
    rw [testBit_setField]
    rfl

theorem byte_modCell (s : State) (k a : Nat) (g : BarCell → BarCell) : (s.modCell k g).byte a = s.byte a := rfl

theorem byte_closedRecord_above (s : State) (k : Nat) {a : Nat} (above : (s.cell k).recPa + 32768 ≤ a) :
    let b := s.cell k
    (s.closedRecord k).byte a = (s.closeMembers b (b.round % 16) (medianTick s b (b.round % 16)) (List.range (b.nmem + 1))).byte a := by
  unfold State.closedRecord
  dsimp only
  rw [byte_clearSlot_out (Nat.mod_lt _ (by decide)) (.inr above), byte_modCell]

/-- The next slot is set to all ones. -/
theorem rd_closedRecord (s : State) (k : Nat) {j : Nat} (hj : j < 256) :
    (s.closedRecord k).rd (tickPa (s.cell k).recPa j (((s.cell k).round + 1) % 16)) 8 = 2 ^ 64 - 1 := by
  unfold State.closedRecord
  dsimp only
  rw [rd_clearSlot_same hj (Nat.mod_lt _ (by decide))]

/-- Each member's history and persistence bit follow its lag. -/
theorem closedRecord_records (s : State) (k : Nat) {j : Nat} (hj : j ≤ (s.cell k).nmem) : let b := s.cell k
    let h := lagHist s b (b.round % 16) (medianTick s b (b.round % 16)) j
    (s.closedRecord k).byte (histPa b.recPa j) = BitVec.ofNat 8 h ∧
      (s.closedRecord k).persists b.recPa j = decide (6 ≤ popcount 8 h) := by
  intro b h
  have few : j < 256 := lt_of_le_of_lt hj (nmem_lt b)
  obtain ⟨-, member⟩ := closeMembers_records (slot := b.round % 16) (med := medianTick s b (b.round % 16)) (b := b) (j := j)
    List.nodup_range (fun m hm => lt_of_lt_of_le (List.mem_range.mp hm) (nmem_lt b)) (Nat.mod_lt _ (by decide)) s few
  obtain ⟨hist, persist⟩ := member (List.mem_range.mpr (Nat.lt_succ_of_le hj))
  have above := histPa_inside (rp := b.recPa) few
  have above' := persistPa_inside (rp := b.recPa) few
  refine ⟨(byte_closedRecord_above s k above.1).trans hist, Eq.trans ?_ persist⟩
  rw [State.persists, State.persists, byte_closedRecord_above s k (le_trans (Nat.add_le_add_left (by decide) _) above'.1)]

theorem reqs_closedRecord (s : State) (k : Nat) : (s.closedRecord k).reqs = s.reqs := by
  unfold State.closedRecord
  dsimp only
  rw [(MemOnly.clearSlot ..).reqs, reqs_modCell, (MemOnly.closeMembers ..).reqs]

/-- The close of a round (R253). -/
theorem closeBarrier_closes (s : State) (k : Nat) : let b := s.cell k
    let h := lagHist s b (b.round % 16) (medianTick s b (b.round % 16))
    let t := s.closeBarrier k
    t.cell k = b.closed (s.barWas k) ∧
    (∀ j, j ≤ b.nmem → t.byte (histPa b.recPa j) = BitVec.ofNat 8 (h j) ∧
      t.persists b.recPa j = decide (6 ≤ popcount 8 (h j))) ∧
    (∀ j, j < 256 → t.rd (tickPa b.recPa j ((b.round + 1) % 16)) 8 = 2 ^ 64 - 1) ∧
    (∀ n ∈ b.waiting, (t.reqs.look n).tok = (s.reqs.look n).f.base 0 (BitVec.ofNat 64 b.round) ∧
      (t.reqs.look n).performed = true) ∧
    ∀ qk, b.queueOn (k / 32 / 4096) = some qk → (t.queue qk).stc = 0 ∧
      ((t.queue qk).window = true ↔ ∃ j, j ≤ b.nmem ∧ 6 ≤ popcount 8 (h j)) := by
  intro b h t
  generalize hw : ((List.range (b.nmem + 1)).any fun m => (s.closedRecord k).persists b.recPa m) = window
  generalize hu : (s.closedRecord k).closedQueue (b.queueOn (k / 32 / 4096)) window = u
  have closes : t = u.replyAll b.waiting (BitVec.ofNat 64 b.round) := by
    rw [← hu, ← hw]
    exact closeBarrier_eq s k
  have mem : t.mem = (s.closedRecord k).mem := by rw [closes, mem_replyAll, ← hu, mem_closedQueue]
  have cts : t.cts = (s.closedRecord k).cts := by rw [closes, cts_replyAll, ← hu, cts_closedQueue]
  have mts : t.mts = u.mts := by rw [closes, mts_replyAll]
  have persists (j : Nat) : t.persists b.recPa j = (s.closedRecord k).persists b.recPa j :=
    congrArg (BitVec.getLsbD · (j % 8)) (State.byte_of_mem mem _)
  have reqs : u.reqs = s.reqs := by rw [← hu, reqs_closedQueue, reqs_closedRecord]
  refine ⟨(cell_of_cts cts k).trans (cell_closedRecord s k), fun j hj => ?_, fun j hj => ?_, fun n hn => ?_, fun qk on => ?_⟩
  · obtain ⟨hist, persist⟩ := closedRecord_records s k hj
    exact ⟨(State.byte_of_mem mem _).trans hist, (persists j).trans persist⟩
  · exact (State.rd_of_mem mem _ _).trans (rd_closedRecord s k hj)
  · rw [closes, ← reqs]
    exact replyAll_answers hn u _
  · rw [on] at hu
    obtain ⟨stc, opened⟩ := queue_closedQueue (qk := qk) (s.closedRecord k) window
    rw [queue_of_mts mts, ← hu, stc, opened, ← hw, List.any_eq_true]
    refine ⟨rfl, ?_⟩
    constructor
    · rintro ⟨j, hj, on⟩
      have member : j ≤ b.nmem := Nat.le_of_lt_succ (List.mem_range.mp hj)
      rw [(closedRecord_records s k member).2] at on
      exact ⟨j, member, of_decide_eq_true on⟩
    · rintro ⟨j, hj, on⟩
      refine ⟨j, List.mem_range.mpr (Nat.lt_succ_of_le hj), ?_⟩
      rw [(closedRecord_records s k hj).2]
      exact decide_eq_true on

/-! ### `bari` (R252) -/

/-- The cell as `bari` writes it. -/
def Machine.State.barWritten (s : State) (k : Nat) (w0 w1 : Word) : State :=
  (s.freeQueues k).modCell k fun b => { b with w0 := w0, w1 := w1, arrived := [] }

/-- The straggler record as `bari` sets it: ticks of all ones, histories and persistence bits 0. -/
def Machine.State.recordSet (s : State) (rp : Nat) : State :=
  (s.clearSlots rp).setBytes (rp + 32768) (List.replicate 288 0)

/-- The queue that a cell designates, if any, is registered with it. -/
def Machine.State.registered (s : State) (k : Nat) (on : Option Nat) : State :=
  match on with
  | some qk => s.modQueue qk fun q => { q with cell := some k, stc := 0, window := false }
  | none => s

theorem bariHome_bad {p : Nat}
    (bad : s.bariBad (s.reqs.look id).tgt (s.reqs.look id).f.t0.val (s.reqs.look id).f.t1.val = some p) :
    s.bariHome id = s.replyFails id fkBOUNDS p := by
  unfold State.bariHome
  dsimp only
  rw [bad]

theorem bariHome_sets {r : MReq} {u t : State} (req : s.reqs.look id = r) (good : s.bariBad r.tgt r.f.t0.val r.f.t1.val = none)
    (wrote : s.barWritten r.tgt r.f.t0.val r.f.t1.val = u) (record : u.recordSet (u.cell r.tgt).recPa = t) :
    s.bariHome id = (t.registered r.tgt ((t.cell r.tgt).queueOn (r.tgt / 32 / 4096))).replyVal id r.f.t0.val := by
  subst req wrote record
  unfold State.bariHome
  dsimp only
  rw [good]
  unfold State.recordSet State.barWritten State.clearSlots
  dsimp only
  split
  next qk on => rw [on]; rfl
  next on => rw [on]; rfl

theorem cell_barWritten (s : State) (k : Nat) (w0 w1 : Word) :
    (s.barWritten k w0 w1).cell k = { s.cell k with w0 := w0, w1 := w1, arrived := [] } := by
  rw [State.barWritten, cell_modCell_same]
  rfl

theorem byte_barWritten (s : State) (k : Nat) (w0 w1 : Word) (a : Nat) : (s.barWritten k w0 w1).byte a = s.byte a := rfl

theorem reqs_barWritten (s : State) (k : Nat) (w0 w1 : Word) : (s.barWritten k w0 w1).reqs = s.reqs := rfl

theorem MemOnly.setBytes (s : State) (a : Nat) (l : List Byte) : MemOnly s (s.setBytes a l) := s.setBytes_frame a l

theorem MemOnly.recordSet (s : State) (rp : Nat) : MemOnly s (s.recordSet rp) :=
  (MemOnly.clearSlots s rp).trans (.setBytes ..)

theorem mem_registered (s : State) (k : Nat) (on : Option Nat) : (s.registered k on).mem = s.mem := by
  cases on <;> rfl

theorem cts_registered (s : State) (k : Nat) (on : Option Nat) : (s.registered k on).cts = s.cts := by
  cases on <;> rfl

theorem reqs_registered (s : State) (k : Nat) (on : Option Nat) : (s.registered k on).reqs = s.reqs := by
  cases on <;> rfl

theorem queue_registered (s : State) (k qk : Nat) : (s.registered k (some qk)).queue qk =
    { s.queue qk with cell := some k, stc := 0, window := false } :=
  State.queue_modQueue_same ..

theorem byte_recordSet_zero (s : State) (rp : Nat) {i : Nat} (h : i < 288) : (s.recordSet rp).byte (rp + 32768 + i) = 0 := by
  rw [State.recordSet, State.byte_setBytes_in _ _ _ _ (by rw [List.length_replicate]; exact h), List.getElem_replicate]

theorem byte_recordSet_out (s : State) {rp a : Nat} (out : a < rp ∨ rp + 33056 ≤ a) : (s.recordSet rp).byte a = s.byte a := by
  rw [State.recordSet, State.byte_setBytes_out _ _ _ _ (by rw [List.length_replicate]; omega), byte_clearSlots_out (by omega)]

theorem rd_recordSet (s : State) (rp : Nat) {j i : Nat} (hj : j < 256) (hi : i < 16) :
    (s.recordSet rp).rd (tickPa rp j i) 8 = 2 ^ 64 - 1 := by
  have inside := (tickPa_inside (rp := rp) hj hi).2
  rw [← rd_clearSlots (rp := rp) hj hi s]
  exact rd_congr fun n hn => State.byte_setBytes_out _ _ _ _ (.inl (by omega))

/-- `bari` writes its cell and its record whole, and registers the queue that it designates (R252). -/
theorem bariHome_writes (good : s.bariBad (s.reqs.look id).tgt (s.reqs.look id).f.t0.val (s.reqs.look id).f.t1.val = none) :
    let r := s.reqs.look id
    let k := r.tgt
    let t := s.bariHome id
    let c := t.cell k
    c.w0 = r.f.t0.val ∧ c.w1 = r.f.t1.val ∧ c.arrived = [] ∧
    ((t.reqs.look id).tok = r.f.base 0 r.f.t0.val ∧ (t.reqs.look id).performed = true) ∧
    (∀ j i, j < 256 → i < 16 → t.rd (tickPa c.recPa j i) 8 = 2 ^ 64 - 1) ∧
    (∀ j, j < 256 → t.byte (histPa c.recPa j) = 0 ∧ t.persists c.recPa j = false) ∧
    (∀ a, (a < c.recPa ∨ c.recPa + 33056 ≤ a) → t.byte a = s.byte a) ∧
    ∀ qk, c.queueOn (k / 32 / 4096) = some qk → (t.queue qk).cell = some k ∧ (t.queue qk).stc = 0 ∧ (t.queue qk).window = false := by
  intro r k t c
  have cell1 := cell_barWritten s k r.f.t0.val r.f.t1.val
  have bytes1 := byte_barWritten s k r.f.t0.val r.f.t1.val
  have reqs1 := reqs_barWritten s k r.f.t0.val r.f.t1.val
  generalize first : s.barWritten k r.f.t0.val r.f.t1.val = u at cell1 bytes1 reqs1
  have record := MemOnly.recordSet u (u.cell k).recPa
  have zero (i : Nat) := byte_recordSet_zero u (u.cell k).recPa (i := i)
  have out (a : Nat) := byte_recordSet_out u (rp := (u.cell k).recPa) (a := a)
  have ones (j i : Nat) := rd_recordSet u (u.cell k).recPa (j := j) (i := i)
  generalize second : u.recordSet (u.cell k).recPa = x at record zero out ones
  have cell2 : x.cell k = u.cell k := cell_of_cts record.cts k
  have home : t = (x.registered k ((u.cell k).queueOn (k / 32 / 4096))).replyVal id r.f.t0.val := by
    rw [← cell2]
    exact bariHome_sets rfl good first second
  have mem : t.mem = x.mem := by rw [home, mem_replyVal, mem_registered]
  have reqs : (x.registered k ((u.cell k).queueOn (k / 32 / 4096))).reqs = s.reqs := by
    rw [reqs_registered, record.reqs, reqs1]
  have cell3 : c = u.cell k := (cell_of_cts (by rw [home, cts_replyVal, cts_registered]) k).trans cell2
  rw [cell3]
  refine ⟨by rw [cell1], by rw [cell1], by rw [cell1], ?_, fun j i hj hi => (State.rd_of_mem mem _ _).trans (ones j i hj hi),
    fun j hj => ⟨(State.byte_of_mem mem _).trans (zero j (by omega)), ?_⟩,
    fun a apart => (State.byte_of_mem mem _).trans ((out a apart).trans (bytes1 a)), fun qk on => ?_⟩
  · have answered := req_replyVal (x.registered k ((u.cell k).queueOn (k / 32 / 4096))) id r.f.t0.val
    rw [reqs, ← home] at answered
    exact answered
  · have bits : t.byte (persistPa (u.cell k).recPa j) = 0 := by
      rw [show persistPa (u.cell k).recPa j = (u.cell k).recPa + 32768 + (256 + j / 8) by unfold persistPa; omega]
      exact (State.byte_of_mem mem _).trans (zero _ (by omega))
    rw [State.persists, bits]
    exact BitVec.getLsbD_zero
  · rw [on] at home
    rw [home, queue_of_mts (mts_replyVal ..), queue_registered]
    exact ⟨rfl, rfl, rfl⟩

/-! ### `barlog` (R254) -/

/-- What `barlog` reads of a cell whose round has not just closed. -/
theorem barlogHome_tells {w : Word} (settled : (s.cell (s.reqs.look id).tgt).was = none)
    (word : s.barlogWord (s.reqs.look id).tgt ((s.view (s.reqs.look id).f.key).lit / 32) (s.reqs.look id).f.t0.val.toNat = some w) :
    s.barlogHome id = s.replyVal id w := by
  have view : s.logView (s.reqs.look id).tgt = s := by
    unfold State.logView
    rw [settled]
  unfold State.barlogHome
  dsimp only
  rw [view, word]

theorem barlogHome_refuses (settled : (s.cell (s.reqs.look id).tgt).was = none)
    (word : s.barlogWord (s.reqs.look id).tgt ((s.view (s.reqs.look id).f.key).lit / 32) (s.reqs.look id).f.t0.val.toNat = none) :
    s.barlogHome id = s.replyFails id fkBOUNDS 0 := by
  have view : s.logView (s.reqs.look id).tgt = s := by
    unfold State.logView
    rw [settled]
  unfold State.barlogHome
  dsimp only
  rw [view, word]

end Sys2Proof
end

section
/-! Queues and barrier cells at their memory tiles, as O33 states them (R50 to R52, R246 to R249, R252 to R255). -/
namespace Sys2Proof
-- One proof after the other: side by side they would only keep threads and their memory.
set_option Elab.async false
open Machine

variable {s : State}

theorem homeAccess_queue {id : Nat} (place : s.at_.a = id) (ready : s.homeReady id = true) {op : Nat}
    (hop : (s.reqs.look id).op = op) (lo : 0xB0 ≤ op) (hi : op ≤ 0xB6) : exec .homeAccess s = .next (s.queueHome id) := by
  have home : s.objHome id = s.queueHome id := by
    rw [State.objHome, hop]
    interval_cases op <;> rfl
  rw [← home]
  exact homeAccess_object place ready (hop ▸ lo)

theorem barlogWord_counts {k a : Nat} (sel : a < 4096) :
    s.barlogWord k 2 a = some (BitVec.ofNat 64 (s.rd (tickPa (s.cell k).recPa (a % 256) (a / 256)) 8)) :=
  if_pos sel

theorem barlogWord_history {k a : Nat} (few : a < 256) : s.barlogWord k 3 a = some (BitVec.ofNat 64
    ((s.byte (histPa (s.cell k).recPa a)).toNat + if s.persists (s.cell k).recPa a then 256 else 0)) := by
  refine (if_pos few).trans ?_
  rw [Nat.mod_eq_of_lt few]
  cases s.persists (s.cell k).recPa a <;> rfl

/-- The hypothesis of a round's last arrival, and what the close then has. -/
theorem barvHome_closes {id m : Nat} (value : (s.reqs.look id).f.t0.val.toNat = m) (few : m < 256) : let k := (s.reqs.look id).tgt
    let b := s.cell k
    let t := s.barArrived id k m
    m ≤ b.nmem → m ∉ b.arrived → b.narr < 511 → (b.narr + 1 = b.nmem + 1 + s.stcOf k → s.barvHome id = t.closeBarrier k) ∧
      (b.narr + 1 < b.nmem + 1 + s.stcOf k → s.barvHome id = t) := by
  intro k b t member fresh room
  have arrives := barvHome_arrives value few member fresh
  dsimp only at arrives
  rw [narr_barArrived room, stcOf_barArrived] at arrives
  exact ⟨fun last => arrives.trans (if_pos last), fun more => arrives.trans (if_neg (Nat.ne_of_lt more))⟩

/-- `qarm` joins the armings with the PUB of its time, and is answered. -/
theorem queueHome_arms_answers {id : Nat} (op : (s.reqs.look id).op = 0xB5) (sent : (s.reqs.look id).stage = .sent) :
    let r := s.reqs.look id
    let q := s.queue r.tgt
    let t := s.queueHome id
    OnlyQueues s t ∧ t.queue r.tgt = { q with arm := q.arm ++ [(q.pub, r.f, r.f.t0.val)] } ∧
      (t.reqs.look id).tok = r.f.base 0 r.f.t0.val ∧ (t.reqs.look id).performed = true ∧ (t.reqs.look id).stage = .reply := by
  intro r q t
  have queue := State.queue_modQueue_same s r.tgt fun x => { x with arm := x.arm ++ [(q.pub, r.f, r.f.t0.val)] }
  have only : OnlyQueues s (s.modQueue r.tgt fun x => { x with arm := x.arm ++ [(q.pub, r.f, r.f.t0.val)] }) := rfl
  have req := congrArg (Tbl.look · id) (show (s.modQueue r.tgt fun x => { x with arm := x.arm ++ [(q.pub, r.f, r.f.t0.val)] }).reqs =
    s.reqs from rfl)
  have home : t = _ := queueHome_arms op
  change t = (s.modQueue r.tgt fun x => { x with arm := x.arm ++ [(q.pub, r.f, r.f.t0.val)] }).replyVal id r.f.t0.val at home
  generalize s.modQueue r.tgt (fun x => { x with arm := x.arm ++ [(q.pub, r.f, r.f.t0.val)] }) = u at queue only req home
  replace req : u.reqs.look id = r := req
  rw [State.replyVal, req] at home
  rw [home]
  exact ⟨only.trans (.replyTok ..), (queue_replyTok ..).trans queue, replyTok_answers (by rw [req]; exact sent) _⟩

/-- `qpub` publishes its entry, and is answered with PUB. -/
theorem queueHome_publishes_answers {id : Nat} (op : (s.reqs.look id).op = 0xB3) (sent : (s.reqs.look id).stage = .sent) :
    let r := s.reqs.look id
    let k := r.tgt
    let q := s.queue k
    let w := r.f.t0.val
    let i := w.extractLsb' 0 32
    let t := s.queueHome id
    fld w.toNat 32 30 = 0 → q.stOf i = 1 → (i - q.cons).toNat < (q.resv - q.cons).toNat → q.waitPush = [] → q.waitPop = [] →
    (t.queue k).cons = q.cons ∧ (t.queue k).resv = q.resv ∧ (t.queue k).sOf i = w.getLsbD 62 ∧
      ((t.reqs.look id).tok = r.f.base 0 ((t.queue k).pub.zeroExtend 64) ∧ (t.reqs.look id).performed = true ∧
        (t.reqs.look id).stage = .reply) ∧
      (w.getLsbD 63 = true → OnlyQueues s t ∧ (t.queue k).stOf i = 3) ∧
      (w.getLsbD 63 = false → (t.queue k).stOf i = 2 ∧ t.rd (s.entryPa k i) 16 = r.f.t1.bits.toNat ∧
        ∀ a, (a < s.entryPa k i ∨ s.entryPa k i + 16 ≤ a) → t.byte a = s.byte a) := by
  intro r k q w i t plain reserved inside push pop
  have home : t = _ := queueHome_publishes op plain reserved inside push pop
  obtain ⟨-, reqs, ⟨cons, resv, -, -⟩, stolen, empty, full⟩ := published_entry s k w r.f.t1
  change t = (s.published k w r.f.t1).replyVal id (((s.published k w r.f.t1).queue k).pub.zeroExtend 64) at home
  generalize s.published k w r.f.t1 = u at home reqs cons resv stolen empty full
  have req : u.reqs.look id = r := by rw [reqs]
  rw [State.replyVal, req] at home
  have queue : t.queue k = u.queue k := by rw [home, queue_replyTok]
  rw [queue]
  refine ⟨cons, resv, stolen, ?_, fun h => ⟨?_, (empty h).2⟩, fun h => ?_⟩
  · rw [home]
    exact replyTok_answers (by rw [req]; exact sent) _
  · rw [home]
    exact (empty h).1.trans (.replyTok ..)
  · obtain ⟨state, entry, out⟩ := full h
    rw [home]
    exact ⟨state, (rd_replyTok ..).trans entry, fun a ha => (byte_replyTok ..).trans (out a ha)⟩

/-- A steal takes the oldest entry that may be stolen, and is answered with its handle (R255). -/
theorem queueHome_steals_entry {id c : Nat} {i : BitVec 32} (op : (s.reqs.look id).op = 0xB4)
    (sent : (s.reqs.look id).stage = .sent) :
    let r := s.reqs.look id
    let k := r.tgt
    let q := s.queue k
    let h := (s.entryAt k i).val
    let t := s.queueHome id
    q.cell = some c → s.stealIndex k = some i → q.window = true → q.stc < 255 →
    t = { s with reqs := t.reqs, mts := t.mts, cts := t.cts, serial := t.serial, chans := t.chans } ∧
      (t.queue k).stOf i = 3 ∧ (t.queue k).sOf i = true ∧ (t.queue k).stc = q.stc + 1 ∧ (t.queue k).cons = q.cons ∧
      (t.queue k).log = q.log ++ [{ index := i.toNat, handle := h, thief := r.f, closes := 2 }] ∧
      (t.cell c).w1 = (s.cell c).w1 ||| 2 ∧
      dCnt (t.desc (winOf h).q (winOf h).buf) = (dCnt (s.desc (winOf h).q (winOf h).buf) + 1) % 65536 ∧
      (t.reqs.look id).tok = { r.f.base 1 h with eod := 0, seq := BitVec.ofNat 8 i.toNat } ∧
      (t.reqs.look id).performed = true ∧ (t.reqs.look id).stage = .reply := by
  intro r k q h t cell index opened room
  have home : t = (s.entryStolen k c i h r.f).replyTok id { r.f.base 1 h with eod := 0, seq := BitVec.ofNat 8 i.toNat } :=
    (queueHome_steals op).trans (steal_takes cell index opened room)
  have frame := stolen_frame s k c i h r.f
  have queue := queue_stolen s k c i h r.f
  have enters := cell_stolen s k c i h r.f
  have counts := dCnt_stolen s k c i h r.f
  generalize s.entryStolen k c i h r.f = u at home frame queue enters counts
  have answer := replyTok_frame u id { r.f.base 1 h with eod := 0, seq := BitVec.ofNat 8 i.toNat }
  rw [← home] at answer
  have queue' : t.queue k = q.stolen i h r.f := (queue_of_mts (by rw [answer]) k).trans queue
  have req : u.reqs.look id = r := by rw [frame]
  refine ⟨by rw [answer, frame], ?_, ?_, by rw [queue']; rfl, by rw [queue']; rfl, by rw [queue']; rfl, ?_, ?_, ?_⟩
  · rw [queue']
    exact stOf_setSt_same q i (n := 3) (by decide) true
  · rw [queue']
    exact sOf_setSt_same q i (n := 3) (by decide) true
  · rw [cell_of_cts (s := u) (by rw [answer]), enters]
  · rw [desc_congr (s := u) (by rw [answer]), counts]
  · rw [home]
    exact replyTok_answers (by rw [req]; exact sent) _

/-- A member's arrival that is not the last writes its tick, counts, and waits. -/
theorem barArrived_waits {k m : Nat} (room : (s.cell k).narr < 511) (id : Nat) : let b := s.cell k
    let pa := tickPa b.recPa m (b.round % 16)
    let t := s.barArrived id k m
    (t.cell k).narr = b.narr + 1 ∧ (t.cell k).waiting = b.waiting ++ [id] ∧ (t.cell k).arrived = b.arrived ++ [m] ∧
      (t.cell k).round = b.round ∧ (t.reqs.look id).deferred = true ∧ t.rd pa 8 = s.tick (k / 32 / 4096) % 2 ^ 64 ∧
      ∀ a, (a < pa ∨ pa + 8 ≤ a) → t.byte a = s.byte a := by
  intro b pa t
  have cell : t.cell k = _ := cell_barArrived s id k m
  have mem : t.mem = (s.ticked k m).mem := mem_barArrived s id k m
  refine ⟨narr_barArrived room id m, by rw [cell], by rw [cell], round_barArrived s id k m, deferred_barArrived s id k m, ?_,
    fun a out => (State.byte_of_mem mem a).trans (State.byte_wr_out _ _ _ _ _ out)⟩
  exact (State.rd_of_mem mem _ _).trans (State.rd_wr ..)

theorem toNat_decide (p : Prop) [Decidable p] : (decide p).toNat = if p then 1 else 0 := by
  by_cases h : p <;> simp [h]

/-- The history of a member as the statement writes it: its lag behind the median of the slot's ticks. -/
theorem lagHist_barArrived (s : State) (id k m j : Nat) : let b := s.cell k
    let u := s.ticked k m
    let t := s.barArrived id k m
    let c := t.cell k
    let tick := fun (j : Nat) => u.rd (tickPa b.recPa j (b.round % 16)) 8
    let med := (sortAsc ((List.range (b.nmem + 1)).map tick))[b.nmem / 2]?.getD 0
    m < 256 → j < 256 → lagHist t c (c.round % 16) (medianTick t c (c.round % 16)) j = ((s.byte (histPa b.recPa j)).toNat * 2 +
      if (BitVec.ofNat 64 (tick j) - BitVec.ofNat 64 med).toInt > b.lagt then 1 else 0) % 256 := by
  intro b u t c tick med member few
  have same : SameCell b c := sameCell_barArrived s id k m
  have mem : t.mem = u.mem := mem_barArrived s id k m
  have round : c.round = b.round := round_barArrived s id k m
  have median : medianTick t c (b.round % 16) = med := by
    simp only [medianTick, same.nmem, same.recPa, State.rd_of_mem mem, med, tick]
  have inside := tickPa_inside (rp := b.recPa) member (Nat.mod_lt b.round (show 0 < 16 by decide))
  have above := histPa_inside (rp := b.recPa) few
  have old : t.byte (histPa b.recPa j) = s.byte (histPa b.recPa j) :=
    (State.byte_of_mem mem _).trans (State.byte_wr_out _ _ _ _ _ (.inr (le_trans inside.2 above.1)))
  rw [round, lagHist, median, same.recPa, same.lagt, old, State.rd_of_mem mem]
  refine congrArg (fun x => ((s.byte (histPa b.recPa j)).toNat * 2 + x) % 256) ?_
  exact toNat_decide _

/-- The last arrival of a round closes it (R253). -/
theorem barArrived_closes {k m : Nat} (member : m < 256) (id : Nat) : let b := s.cell k
    let u := s.ticked k m
    let tick := fun (j : Nat) => u.rd (tickPa b.recPa j (b.round % 16)) 8
    let med := (sortAsc ((List.range (b.nmem + 1)).map tick))[b.nmem / 2]?.getD 0
    let hist := fun (j : Nat) => ((s.byte (histPa b.recPa j)).toNat * 2 +
      if (BitVec.ofNat 64 (tick j) - BitVec.ofNat 64 med).toInt > b.lagt then 1 else 0) % 256
    let t := (s.barArrived id k m).closeBarrier k
    (t.cell k).narr = 0 ∧ (t.cell k).round = (b.round + 1) % 2 ^ 16 ∧ (t.cell k).ent = false ∧
      (t.cell k).waiting = [] ∧ (t.cell k).arrived = [] ∧
      (∀ j, j ≤ b.nmem → (t.byte (histPa b.recPa j)).toNat = hist j ∧ t.persists b.recPa j = decide (6 ≤ popcount 8 (hist j))) ∧
      (∀ j, j < 256 → t.rd (tickPa b.recPa j ((b.round + 1) % 16)) 8 = 2 ^ 64 - 1) ∧
      (∀ n ∈ b.waiting ++ [id], (t.reqs.look n).tok = (s.reqs.look n).f.base 0 (BitVec.ofNat 64 b.round) ∧
        (t.reqs.look n).performed = true) ∧
      ∀ qk, b.queueOn (k / 32 / 4096) = some qk → (t.queue qk).stc = 0 ∧
        ((t.queue qk).window = true ↔ ∃ j, j ≤ b.nmem ∧ 6 ≤ popcount 8 (hist j)) := by
  intro b u tick med hist t
  have same : SameCell b ((s.barArrived id k m).cell k) := sameCell_barArrived s id k m
  have round : ((s.barArrived id k m).cell k).round = b.round := round_barArrived s id k m
  have waiting : ((s.barArrived id k m).cell k).waiting = b.waiting ++ [id] := by rw [cell_barArrived]
  have lag (j : Nat) (hj : j ≤ b.nmem) := lagHist_barArrived s id k m j member (lt_of_le_of_lt hj (nmem_lt b))
  obtain ⟨cell, records, ones, answered, queue⟩ := closeBarrier_closes (s.barArrived id k m) k
  dsimp only at lag
  rw [waiting] at answered
  simp only [same.nmem, same.recPa, same.queueOn, round] at lag records ones answered queue
  obtain ⟨narr, next, ent, idle, none⟩ := closed_counts ((s.barArrived id k m).cell k) ((s.barArrived id k m).barWas k)
  rw [← cell] at narr next ent idle none
  refine ⟨narr, next.trans (by rw [round]), ent, idle, none, fun j hj => ?_, ones, fun n hn => ?_, fun qk on => ?_⟩
  · obtain ⟨byte, persist⟩ := records j hj
    rw [lag j hj] at byte persist
    refine ⟨?_, persist⟩
    rw [byte, BitVec.toNat_ofNat]
    exact Nat.mod_eq_of_lt (Nat.mod_lt _ (by decide))
  · rw [← req_barArrived s id k m n]
    exact answered n hn
  · obtain ⟨stc, window⟩ := queue qk on
    refine ⟨stc, window.trans (exists_congr fun j => and_congr_right fun hj => ?_)⟩
    rw [lag j hj]

/-- Settles O33: each operation changes its queue or its cell as it comes there, and answers or waits. -/
theorem queuesAndBarriers : Obligations.QueuesAndBarriers := by
  unfold Obligations.QueuesAndBarriers
  refine ⟨fun s => ?_, fun s => ?_, fun s => ?_, fun s => ?_⟩
  · intro id r k q answers ready sent
    have home {op : Nat} (hop : r.op = op) (lo : 0xB0 ≤ op) (hi : op ≤ 0xB6) : exec .homeAccess s = .next (s.queueHome id) :=
      homeAccess_queue rfl ready hop lo hi
    refine ⟨fun hop => ?_, fun hop => ?_, fun hop push pop room => ?_, fun hop push pop full => ?_⟩
    · refine ⟨_, home hop (by decide) (by decide), ?_⟩
      rw [queueHome_stat hop]
      exact ⟨replyTok_frame .., replyTok_answers sent _⟩
    · exact ⟨_, home hop (by decide) (by decide), queueHome_arms_answers hop sent⟩
    · exact ⟨_, home hop (by decide) (by decide), queueHome_pushes_entry hop sent push pop room⟩
    · obtain ⟨waits, queue, deferred⟩ := queueHome_push_waits hop full push pop
      refine ⟨_, home hop (by decide) (by decide), ?_, queue, deferred⟩
      rw [waits]
      rfl
  · intro id r k q answers frame ready sent push pop
    have home {op : Nat} (hop : r.op = op) (lo : 0xB0 ≤ op) (hi : op ≤ 0xB6) : exec .homeAccess s = .next (s.queueHome id) :=
      homeAccess_queue rfl ready hop lo hi
    refine ⟨?_, fun hop empty => ?_, fun hop room => ?_, ?_, fun hop free => ?_, fun hop no => ?_, ?_⟩
    · intro hop some_ token free e kind
      exact ⟨_, home hop (by decide) (by decide), queueHome_pops_entry hop sent push pop some_ token free kind⟩
    · exact ⟨_, home hop (by decide) (by decide), queueHome_pop_waits hop push pop empty⟩
    · exact ⟨_, home hop (by decide) (by decide), queueHome_reserves hop sent push pop room⟩
    · intro hop w i plain reserved inside
      exact ⟨_, home hop (by decide) (by decide), queueHome_publishes_answers hop sent plain reserved inside push pop⟩
    · exact (home hop (by decide) (by decide)).trans (congrArg _ (queueHome_publish_fails hop free))
    · refine ⟨_, home hop (by decide) (by decide), ?_⟩
      rw [queueHome_steals hop, steal_finds_none no]
      exact ⟨replyTok_frame .., replyTok_answers sent _⟩
    · intro c i hop cell index opened room h
      exact ⟨_, home hop (by decide) (by decide), queueHome_steals_entry hop sent cell index opened room⟩
  · intro id r k b m pa ready hop few member fresh more room
    obtain ⟨-, waits⟩ := barvHome_closes rfl few member fresh room
    have home : exec .homeAccess s = .next (s.barvHome id) :=
      homeAccess_op rfl ready hop (by decide) (by rw [State.objHome, hop]; rfl)
    exact ⟨_, home.trans (congrArg _ (waits more)), barArrived_waits room id⟩
  · intro id r k b m answers ready sent
    have baris (hop : r.op = 0xB9) : exec .homeAccess s = .next (s.bariHome id) :=
      homeAccess_op rfl ready hop (by decide) (by rw [State.objHome, hop]; rfl)
    have barvs (hop : r.op = 0xBA) : exec .homeAccess s = .next (s.barvHome id) :=
      homeAccess_op rfl ready hop (by decide) (by rw [State.objHome, hop]; rfl)
    have barlogs (hop : r.op = 0xBB) : exec .homeAccess s = .next (s.barlogHome id) :=
      homeAccess_op rfl ready hop (by decide) (by rw [State.objHome, hop]; rfl)
    refine ⟨fun p hop bad => ?_, fun hop good => ?_, fun hop few member fresh last room => ?_, fun hop settled => ?_⟩
    · exact (baris hop).trans (congrArg _ (bariHome_bad bad))
    · exact ⟨_, baris hop, bariHome_writes good⟩
    · intro u tick med hist
      obtain ⟨closes, -⟩ := barvHome_closes rfl few member fresh room
      exact ⟨_, (barvs hop).trans (congrArg _ (closes last)), barArrived_closes few id⟩
    · intro sel tells
      have tell {w : Word} (word : s.barlogWord k sel m = some w) : tells w :=
        ⟨_, (barlogs hop).trans (congrArg _ (barlogHome_tells settled word)), replyVal_frame .., req_replyVal ..⟩
      refine ⟨fun hs hm => tell ?_, fun hs hm => tell ?_, fun hs hm => tell ?_, fun hs hm => tell ?_, fun hs hm => tell ?_,
        fun hs hm => (barlogs hop).trans (congrArg _ (barlogHome_refuses settled ?_))⟩
      · rw [hs]
        exact if_pos hm
      · rw [hs]
        exact if_pos hm
      · rw [hs]
        exact barlogWord_counts hm
      · rw [hs]
        exact barlogWord_history hm
      · rw [hs]
        exact if_pos hm
      · rw [show (s.view (s.reqs.look id).f.key).lit / 32 = 0 from hs]
        exact if_neg hm

end Sys2Proof
end
